-- ==== Sys2Proof/Word.lean ====
section
/-! DEFINITION. The word types of the Flamuano 7264 and the sparse table every register file, memory and
dictionary of the model is held in. -/

namespace Sys2Proof

/-- A byte of any memory of the chip (R4: little-endian throughout). -/
abbrev Byte := BitVec 8
/-- A 32-bit scalar register (Table 3.2, g0 to g31). -/
abbrev Word32 := BitVec 32
/-- A 48-bit address register (Table 3.2; R5). -/
abbrev Addr48 := BitVec 48
/-- A vector register of 128 byte lanes (Table 3.2). -/
abbrev Vec := BitVec 1024
/-- A predicate register, one bit per byte lane (Table 3.2). -/
abbrev Pred := BitVec 128

/-- A sparse table: keys strictly rising, no entry equal to what an absent key reads as.
The operations on it are in `Machine/Ops.lean`. -/
abbrev Tbl (α : Type) := List (Nat × α)

end Sys2Proof
end

