-- ==== Sys2Proof/Syntax.lean ====
section
/-! DEFINITION. The commands the chip takes, and their operands. -/

namespace Sys2Proof

/-- The operations of a Lorgus slot syllable, as staged in a bundle (Tables 4.5, 4.7, 4.8, 4.10, 4.11, 4.12). -/
inductive CoreOp where
  | nop | add | sub | addi | and | or | xor | li | shl | shr | sra | mul
  | mulh | min | max | cmp | cmpi | sel | br | bri | call | csrr | csrw | csrc
  | endJob | resume | ldb | ldbu | ldh | ldhu | ldw | lda | ldp | ldv | stb | sth
  | stw | sta | stp | stv | aadd | aaddi | amov | afromg | atog | sstart | spause | sstat
  | twait | tadd | tacq | trel | tread | hdeq | henq | vadd | vsub | vmul | vfma | vmin
  | vmax | vabs | vand | vor | vxor | vshl | vmulrs | vdmacs | vdnarrow | vcmp | vsel | vbcast
  | vcvt | vperm | vshuf | vpack | vunpack | vcompress | vexpand | vred | vtset | vmrd | mtile | mwld
  | mwpass | mpass | mrq | msplit | moutl | mbwd | fexp | flog | frcp | frsqrt | fsigm | ftanh
  | fsoftp | fsincos | fatan2 | fsmooth | fmp | loop | mvfl | mvtl | vsetvl | sfbank
  deriving DecidableEq, Repr

/-- What the check bits of the core memory words that a command reads show (R75, R76). -/
inductive EccFind where
  | clean | corrected | uncorrectable
  deriving DecidableEq, Repr

/-- One syllable presented to a core (R51, R81).
`slot` is 0 S0, 1 S1, 2 L, 3 A, 4 V, 5 M, 6 F; 7 is the header (Table 4.1).
`body` holds the 64 bits of the syllable (Table 4.2, Table 4.1).
`last` marks the bundle's last syllable: with it, the bundle issues.
`ecc` is what the syllable's own read of core memory meets: of the header, the bundle's fetch. -/
structure Issue where
  core : Fin 64
  slot : Fin 8
  last : Bool
  body : BitVec 64
  ecc : EccFind := .clean
  deriving DecidableEq, Repr

/-- One stream-program instruction that engine `engine` of the running context of a core executes (R178): its 64 bits, and what its fetch
meets. -/
structure StreamIssue where
  core : Fin 64
  engine : Fin 4
  word : BitVec 64
  ecc : EccFind := .clean
  deriving DecidableEq, Repr

/-- What a receiver job has found for one user of its chunk (Tables 9.2, 9.9), floating-point values as FP32 encodings: of a UL_CHEST the
frequency offset against PRIOR_FREQ in Hz and the timing offset in Tc that its pilots show; of a UL_DETECT, in codeword bit order over the
data resource elements of its chunk and symbol, the per-bit outputs of codewords 0 and 1 (FP32, or INT32 where `asInt`), the
noise-variance estimates, the squared distances of the equalised symbols from their nearest constellation points and the squared magnitudes of
those points, the pass probability, UCI of 1 to 11 bits (UCI_STATUS, and the fields), and what entered the first adaptable layer at
each resource element that R220 samples. -/
structure UserReport where
  user : BitVec 8
  freq : Option (BitVec 32) := none
  timing : Option (BitVec 32) := none
  bits0 : List (BitVec 32) := []
  bits1 : List (BitVec 32) := []
  asInt : Bool := false
  noise : List (BitVec 32) := []
  error : List (BitVec 32) := []
  power : List (BitVec 32) := []
  prob : Option (BitVec 32) := none
  uci : BitVec 3 := 0
  uciBits : List (List Byte) := []
  inputs : List (List Byte) := []
  deriving DecidableEq, Repr

/-- The training steps that adaptation jobs have run (R221): where the weights of the two adaptable layers stand in the detector's data, their
declared CI8 scale as an FP32 encoding, and of each step the INT48 gradient sum of each weight part, added over passes and cores. -/
structure Training where
  offset : Nat
  scale : BitVec 32
  sums : List (List Int)
  deriving DecidableEq, Repr

/-- A customer, adaptation or test job that the scheduler is given (Table 12.2). A DEADLINE of all ones is none. -/
structure JobReq where
  kind : BitVec 8
  court : Fin 16
  prio : Fin 8
  tb : Fin 8
  model : BitVec 16
  carrier : BitVec 8
  chunk : BitVec 8
  release : BitVec 64
  deadline : BitVec 64
  inQueues : BitVec 32
  outQueues : BitVec 32
  groups : BitVec 8
  window : BitVec 32
  cycles : BitVec 32
  deriving DecidableEq, Repr

/-- A wait that the progress watchdog times (R192): of a stream engine of a context, of a context on a Tally, or of a chain
port that holds a tile for a member. -/
inductive WaitRef where
  | engine (core : Fin 64) (slot : Fin 4) (engine : Fin 4)
  | context (core : Fin 64) (slot : Fin 4)
  | port (core : Fin 64)
  | swapped (page : Fin 384)
  deriving DecidableEq, Repr

/-- An OAP channel (Table 14.1): a PCIe function, a source of the management port, or a channel relayed from a chip. -/
inductive ChanRef where
  | pcie (f : Fin 16)
  | mgmt (addr : BitVec 32) (port : BitVec 16)
  | relay (chip : Fin 24) (chan : Fin 64)
  deriving DecidableEq, Repr

/-- An OAP request as it reaches the control complex: its channel, the frame, and for a PCIe function the RQ index, REPLY_CAP and
REPLY_ADDR of its entry (Table 16.8); of a write that another chip relays with SYS set, the RALLY_ID that its relay names, 0 where it holds no open
Rally of the scope (R342). -/
structure OapReq where
  chan : ChanRef
  frame : List Byte
  cap : BitVec 32 := 0
  replyAddr : BitVec 64 := 0
  reqIndex : BitVec 32 := 0
  rally : BitVec 32 := 0
  deriving DecidableEq, Repr

/-- What verification finds of a model package (R284, R453): its ID and version, its pages, the stage it serves, the points it declares with
their cycles, its interface classes, whether its layers adapt and whether its weights come over a Pass chain. `micro` marks a micro-program
package. -/
structure Package where
  id : BitVec 16
  version : BitVec 32
  signed : Bool
  signatureOk : Bool
  micro : Bool := false
  wellFormed : Bool := true
  stage : BitVec 8
  points : List (Nat × Nat × Nat)
  inClass : BitVec 8 := 1
  outClass : BitVec 8 := 1
  adaptable : Bool := false
  chained : Bool := false
  data : List Byte
  deriving DecidableEq, Repr

/-- One of the domains that are reset in service (Table 18.8). -/
inductive ResetDomain where
  | fronthaul (port : Fin 16)
  | megorlink (port : Fin 8)
  | pcie
  | xspi (channel : Fin 8)
  | core (core : Fin 64)
  deriving DecidableEq, Repr

/-- A reduction unit (R308): carrier, symbol count, chunk, job kind, home chip, contributors and complex partial sums. -/
structure RedUnit where
  carrier : Fin 32
  sym : BitVec 32
  chunk : BitVec 8
  kind : BitVec 8
  home : Fin 24
  mask : BitVec 24
  sums : List (Int × Int)
  deriving DecidableEq, Repr

/-- One write of a Rally that a PREPARE carries (R314). -/
structure RallyWrite where
  index : BitVec 16
  sub : BitVec 8
  value : List Byte
  deriving DecidableEq, Repr


/-- The commands of the chip, one constructor per row of the opcode table. -/
inductive Instr where
  /-- A no-operation syllable, or a bundle with an empty presence mask, takes its slot or one cycle and has no other effect. (R51) -/
  | nop (is : Issue)
  /-- A bundle with the MARK header bit set writes a marker record to the core's trace buffer when it issues. (R80) -/
  | mark (is : Issue)
  /-- Adds two scalar registers and sets the NZCV flags of the issuing slot. (R85) -/
  | add (is : Issue)
  /-- Subtracts two scalar registers and sets the NZCV flags. (R85) -/
  | sub (is : Issue)
  /-- Adds a sign-extended immediate to a scalar register and sets the NZCV flags. (R85) -/
  | addi (is : Issue)
  /-- Bitwise AND of two scalar registers, setting N and Z. (R85) -/
  | and (is : Issue)
  /-- Bitwise OR of two scalar registers, setting N and Z. (R85) -/
  | or (is : Issue)
  /-- Bitwise XOR of two scalar registers, setting N and Z. (R85) -/
  | xor (is : Issue)
  /-- Loads a 32-bit immediate into a scalar register. (R85) -/
  | li (is : Issue)
  /-- Shifts a scalar register left; amounts of 32 to 63 give 0. (R85) -/
  | shl (is : Issue)
  /-- Shifts a scalar register right logically. (R85) -/
  | shr (is : Issue)
  /-- Shifts a scalar register right arithmetically, with sign fill. (R85) -/
  | sra (is : Issue)
  /-- Writes the low 32 bits of a scalar product. (R85) -/
  | mul (is : Issue)
  /-- Writes the high 32 bits of a signed or unsigned scalar product. (R85) -/
  | mulh (is : Issue)
  /-- Writes the signed or unsigned minimum of two scalar registers. (R85) -/
  | min (is : Issue)
  /-- Writes the signed or unsigned maximum of two scalar registers. (R85) -/
  | max (is : Issue)
  /-- Compares two scalar registers and sets NZCV. (R85) -/
  | cmp (is : Issue)
  /-- Compares a scalar register with an immediate and sets NZCV. (R85) -/
  | cmpi (is : Issue)
  /-- Selects one of two scalar registers by a condition on a flag group. (R85) -/
  | sel (is : Issue)
  /-- Branches PC-relative when its condition holds on the named flag group. (R86) -/
  | br (is : Issue)
  /-- Branches to the address in an address register when its condition holds. (R86) -/
  | bri (is : Issue)
  /-- Writes the next bundle's address to a link register and branches PC-relative. (R86) -/
  | call (is : Issue)
  /-- Reads a control and status register into a scalar register. (R85) -/
  | csrr (is : Issue)
  /-- Writes a scalar register to a control and status register. (R84) -/
  | csrw (is : Issue)
  /-- Clears the named bits of STICKY. (R54) -/
  | csrc (is : Issue)
  /-- Ends the job; no later bundle issues and JOB_END follows once results have landed. (R87) -/
  | endJob (is : Issue)
  /-- The runtime restores a saved context, its matrix state and in-flight records and issues its next bundle. (R72) -/
  | resume (is : Issue)
  /-- Loads a sign-extended byte with latency 4. (R88) -/
  | ldb (is : Issue)
  /-- Loads a zero-extended byte with latency 4. (R88) -/
  | ldbu (is : Issue)
  /-- Loads a sign-extended half-word with latency 4. (R88) -/
  | ldh (is : Issue)
  /-- Loads a zero-extended half-word with latency 4. (R88) -/
  | ldhu (is : Issue)
  /-- Loads a 32-bit word with latency 4. (R88) -/
  | ldw (is : Issue)
  /-- Loads 48 bits into an address register. (R88) -/
  | lda (is : Issue)
  /-- Loads a predicate register. (R88) -/
  | ldp (is : Issue)
  /-- Loads a 128-byte vector, merged under its predicate or covering a walker's length. (R88) -/
  | ldv (is : Issue)
  /-- Stores a byte. (R88) -/
  | stb (is : Issue)
  /-- Stores a half-word. (R88) -/
  | sth (is : Issue)
  /-- Stores a word. (R88) -/
  | stw (is : Issue)
  /-- Stores 48 bits of an address register with the upper bytes zero. (R88) -/
  | sta (is : Issue)
  /-- Stores a predicate register. (R88) -/
  | stp (is : Issue)
  /-- Stores the vector lanes whose predicate bit is 1. (R88) -/
  | stv (is : Issue)
  /-- Adds a sign-extended scalar to an address register with a 48-bit wrap. (R88) -/
  | aadd (is : Issue)
  /-- Adds an immediate to an address register. (R88) -/
  | aaddi (is : Issue)
  /-- Copies one address register to another. (R88) -/
  | amov (is : Issue)
  /-- Forms an address register from two scalar registers. (R88) -/
  | afromg (is : Issue)
  /-- Copies the low or high part of an address register to a scalar register. (R88) -/
  | atog (is : Issue)
  /-- Starts a stream engine on a program with an argument. (R173) -/
  | sstart (is : Issue)
  /-- Pauses a stream engine at its next instruction boundary. (R174) -/
  | spause (is : Issue)
  /-- Writes a stream engine's status word to a scalar register. (R175) -/
  | sstat (is : Issue)
  /-- Holds its bundle until a Tally count reaches the target, compared modulo 2^32. (R90) -/
  | twait (is : Issue)
  /-- Adds a signed amount to a Tally once every earlier store of the context is complete. (R181) -/
  | tadd (is : Issue)
  /-- Acquires a Tally in exclusive mode, waiting while another holder has it, and writes 0 or 1 for an abandoned Tally. (R90) -/
  | tacq (is : Issue)
  /-- Releases an exclusive Tally hold and decrements EXCL. (R90) -/
  | trel (is : Issue)
  /-- Reads a Tally count into a scalar register. (R89) -/
  | tread (is : Issue)
  /-- Takes a handle from a queue without waiting, or returns the empty value. (R91) -/
  | hdeq (is : Issue)
  /-- Enqueues a held handle on a queue after the context's earlier stores complete. (R91) -/
  | henq (is : Issue)
  /-- Element-wise vector addition. (R92) -/
  | vadd (is : Issue)
  /-- Element-wise vector subtraction. (R92) -/
  | vsub (is : Issue)
  /-- Element-wise vector multiplication, complex for CI8 and CI16. (R92) -/
  | vmul (is : Issue)
  /-- Fused multiply-add with one rounding in BF16 or FP32. (R92) -/
  | vfma (is : Issue)
  /-- Element-wise minimum. (R92) -/
  | vmin (is : Issue)
  /-- Element-wise maximum. (R92) -/
  | vmax (is : Issue)
  /-- Element-wise absolute value. (R92) -/
  | vabs (is : Issue)
  /-- Bitwise vector AND. (R92) -/
  | vand (is : Issue)
  /-- Bitwise vector OR. (R92) -/
  | vor (is : Issue)
  /-- Bitwise vector XOR. (R92) -/
  | vxor (is : Issue)
  /-- Shifts each element, right arithmetic with half-up rounding when selected. (R93) -/
  | vshl (is : Issue)
  /-- Multiplies, rounds half up, shifts and saturates to 16 bits. (R93) -/
  | vmulrs (is : Issue)
  /-- Accumulates rounded shifted products into an INT48 accumulator pair. (R93) -/
  | vdmacs (is : Issue)
  /-- Narrows an INT48 accumulator pair to INT16 with half-up rounding and saturation. (R93) -/
  | vdnarrow (is : Issue)
  /-- Compares elements and writes a predicate register. (R150) -/
  | vcmp (is : Issue)
  /-- Selects lanes from two vectors by a predicate. (R92) -/
  | vsel (is : Issue)
  /-- Broadcasts a scalar register into every element. (R92) -/
  | vbcast (is : Issue)
  /-- Converts elements to another type with ties-to-even rounding. (R130) -/
  | vcvt (is : Issue)
  /-- Permutes elements by byte indices, writing zero for indices at or beyond vl. (R152) -/
  | vperm (is : Issue)
  /-- Shuffles two sources by a fixed pattern. (R153) -/
  | vshuf (is : Issue)
  /-- Narrows two vectors into one. (R154) -/
  | vpack (is : Issue)
  /-- Widens one half of a vector exactly. (R154) -/
  | vunpack (is : Issue)
  /-- Packs the selected elements to the low end and optionally sets vl. (R155) -/
  | vcompress (is : Issue)
  /-- Spreads low elements to the selected positions. (R155) -/
  | vexpand (is : Issue)
  /-- Enters terms into an exact accumulator and optionally delivers its value, mean or raw record. (R162) -/
  | vred (is : Issue)
  /-- Binds a tensor descriptor to a walker slot and sets its register and length. (R157) -/
  | vtset (is : Issue)
  /-- Reads one or two output rows from a column group's output queue through the requantiser. (R94) -/
  | vmrd (is : Issue)
  /-- Reads a tile descriptor that sets the geometry, formats and fold of the next pass. (R101) -/
  | mtile (is : Issue)
  /-- Loads the stationary tile from core memory into the shadow bank. (R106) -/
  | mwld (is : Issue)
  /-- Arms the chain port and takes the stationary tile from the Pass chain, forwarding it. (R109) -/
  | mwpass (is : Issue)
  /-- Issues or queues a matrix pass over a number of activation rows. (R102) -/
  | mpass (is : Issue)
  /-- Sets the requantiser multiplier, shift and zero points for the next pass. (R142) -/
  | mrq (is : Issue)
  /-- Requests a new column-group split. (R117) -/
  | msplit (is : Issue)
  /-- Names outlier channels for the next pass. (R110) -/
  | moutl (is : Issue)
  /-- Runs a backward pass of a given kind for adaptation. (R125) -/
  | mbwd (is : Issue)
  /-- Evaluates e^x with latency 6. (R166) -/
  | fexp (is : Issue)
  /-- Evaluates the natural logarithm. (R166) -/
  | flog (is : Issue)
  /-- Evaluates the reciprocal. (R166) -/
  | frcp (is : Issue)
  /-- Evaluates the reciprocal square root. (R166) -/
  | frsqrt (is : Issue)
  /-- Evaluates the sigmoid. (R166) -/
  | fsigm (is : Issue)
  /-- Evaluates tanh. (R166) -/
  | ftanh (is : Issue)
  /-- Evaluates softplus. (R166) -/
  | fsoftp (is : Issue)
  /-- Writes sine and cosine to a register pair in one cycle. (R96) -/
  | fsincos (is : Issue)
  /-- Evaluates atan2 of two vectors. (R166) -/
  | fatan2 (is : Issue)
  /-- Evaluates the erf-based smooth step. (R166) -/
  | fsmooth (is : Issue)
  /-- Runs a loaded special-function micro-program. (R171) -/
  | fmp (is : Issue)
  /-- Sets up a zero-overhead loop level with count, start and end. (R97) -/
  | loop (is : Issue)
  /-- Copies a loop register to a scalar or address register. (R98) -/
  | mvfl (is : Issue)
  /-- Copies a scalar or address register to a loop register. (R98) -/
  | mvtl (is : Issue)
  /-- Sets the vector length and returns it. (R99) -/
  | vsetvl (is : Issue)
  /-- The runtime switches the context to the shadow special-function bank. (R96) -/
  | sfbank (is : Issue)
  /-- An in-flight result lands in its register when its latency expires. (R60) -/
  | resultLanding (core : Fin 64)
  /-- A held bundle issues once its matrix row, fetch or Tally condition is satisfied. (R62) -/
  | holdRelease (core : Fin 64)
  /-- The scheduler sends a core a TILE or BUNDLE stop request. (R66) -/
  | stopRequest (core : Fin 64) (tile : Bool)
  /-- A TILE stop not reached within 1,100 cycles becomes a BUNDLE stop. (R66) -/
  | tileStopTimeout (core : Fin 64)
  /-- A TILE stop is reached at a tile boundary and the context is saved. (R68) -/
  | stopTile (core : Fin 64)
  /-- A BUNDLE stop is reached at a bundle boundary and the context is saved, with matrix state if a pass is attached. (R68) -/
  | stopBundle (core : Fin 64)
  /-- A Tally wait held for 64 cycles raises BLOCKED and saves the context. (R90) -/
  | blocked (core : Fin 64)
  /-- Once all results have landed, stores completed and passes delivered, the job ends and its staged outputs are released. (R87) -/
  | jobEnd (core : Fin 64)
  /-- A core fenced from outside abandons every resident context. (R75) -/
  | coreFence (core : Fin 64) (cause : BitVec 8) (info : BitVec 32)
  /-- A queued pass begins once the pass in progress has issued its last activation row. (R95) -/
  | passBegin (core : Fin 64) (group : Fin 4)
  /-- A band swaps to the next tile when the last row of the fold passes it and its fill is complete. (R107) -/
  | bandSwap (core : Fin 64) (group : Fin 4)
  /-- The shadow bank of a band finishes filling from the tile cache, core memory or the chain. (R106) -/
  | tileFillDone (core : Fin 64) (group : Fin 4) (tile : BitVec 16) (parity : BitVec 2)
  /-- An output row becomes ready 20 cycles after its last depth fold enters the array. (R105) -/
  | outputRowReady (core : Fin 64) (group : Fin 4)
  /-- A tile boundary is reached when its last row is emitted and read. (R104) -/
  | tileBoundary (core : Fin 64) (group : Fin 4)
  /-- After the last row of a STORE pass is ready, ECC is checked and the output is written, advancing MDONE. (R114) -/
  | storeDrain (core : Fin 64) (group : Fin 4) (eccFault : Bool)
  /-- A pending split takes effect in the first cycle with no pass in progress, queued or suspended. (R117) -/
  | splitTakesEffect (core : Fin 64)
  /-- A residue, parity or entry error abandons a group's passes and fences the issuing job with MATRIX. (R122) -/
  | groupFault (core : Fin 64) (group : Fin 4) (quarters : BitVec 4)
  /-- The 512-cycle scrub of a faulted group ends and the group accepts passes again. (R123) -/
  | groupScrubEnd (core : Fin 64) (group : Fin 4)
  /-- A stream-program instruction with no operation. (R178) -/
  | streamNop (x : StreamIssue)
  /-- Binds a source or destination side to a tensor descriptor, absolute or handle-relative. (R178) -/
  | bind (x : StreamIssue) (ext : List Byte)
  /-- Binds a symbol-buffer side of a carrier symbol for uplink reading or downlink writing. (R186) -/
  | sym (x : StreamIssue)
  /-- Moves and converts elements between the bound sides. (R178) -/
  | move (x : StreamIssue) (read : EccFind) (ext : List Byte)
  /-- Sets up a stream-program loop level. (R179) -/
  | streamLoop (x : StreamIssue)
  /-- Waits until a Tally count reaches a target. (R178) -/
  | waitt (x : StreamIssue)
  /-- Adds to a Tally once every earlier write of the engine is complete. (R181) -/
  | streamTadd (x : StreamIssue)
  /-- Waits for and takes a handle from a queue into a handle register. (R191) -/
  | hget (x : StreamIssue)
  /-- Enqueues a handle register after the engine's earlier writes and clears it. (R181) -/
  | hput (x : StreamIssue)
  /-- Sets or continues the engine's SB tag counter. (R182) -/
  | tagset (x : StreamIssue)
  /-- Sets modulo, bit-reversed or linear indexing of one dimension. (R180) -/
  | amode (x : StreamIssue)
  /-- Starts statistics gathering of written values. (R182) -/
  | stats (x : StreamIssue)
  /-- Ends a stream program. (R178) -/
  | streamEnd (x : StreamIssue)
  /-- An outstanding line is acknowledged and its credit returns to the engine. (R176) -/
  | lineAck (core : Fin 64) (slot : Fin 4) (engine : Fin 4) (ext : List Byte)
  /-- A handle reaches a waiting HGET and the engine continues. (R190) -/
  | handleGrant (core : Fin 64) (slot : Fin 4) (engine : Fin 4)
  /-- A wait reaching WATCHDOG fences one chosen job with cause WATCHDOG. (R192) -/
  | watchdogExpiry (wait : WaitRef)
  /-- At an audit edge every conserved book is read and compared with its balance. (R196) -/
  | auditEdge (linkDiffs : List (Fin 8 × Fin 4 × Int))
  /-- At the boundary 500 µs after a second failed audit, holders are fenced and the books re-initialised. (R197) -/
  | remedy
  /-- A tile arrives at an armed chain port and is forwarded, copied and cached. (R194) -/
  | chainTileArrival (core : Fin 64) (crcOk : Bool)
  /-- After a doorbell, the device reads a slot-order entry and body and checks them. (R379) -/
  | soEntryRead (func : Fin 16) (ring : Fin 4) (entry : List Byte) (body : List Byte) (readable : Bool)
  /-- A job is released at its release air position and placed or queued. (R31) -/
  | jobRelease (job : BitVec 32) (req : Option JobReq)
  /-- A job's completion event samples its time base and judges its deadline. (R31) -/
  | jobCompletion (job : BitVec 32) (users : List UserReport)
  /-- When a context slot frees, the head of the ready queue is placed there. (R272) -/
  | contextSlotFree (core : Fin 64)
  /-- A time slice ends and the scheduler stops the context for an equal-priority one. (R273) -/
  | sliceEnd (core : Fin 64)
  /-- A blocked context is copied to a Bench swap page to free its slot. (R276) -/
  | swapOut (core : Fin 64)
  /-- A runnable swapped-out context returns to its core. (R278) -/
  | swapIn (core : Fin 64)
  /-- A free Tally is granted to its earliest waiter. (R289) -/
  | tacqGrant (tally : BitVec 16)
  /-- An exclusive hold reaching EXCL_BOUND fences the holder with HOLD and abandons its Tallies. (R290) -/
  | holdBoundExpiry (tally : BitVec 16)
  /-- At a symbol's reception window opening the slot header is written and the presence map cleared. (R185) -/
  | rxWindowOpen (carrier : Fin 32) (sym : BitVec 32)
  /-- At a window close the symbol's per-symbol jobs are released with missing PRBs as zero. (R370) -/
  | rxWindowClose (carrier : Fin 32) (sym : BitVec 32)
  /-- A received U-plane message is checked against its window and placed or dropped. (R369) -/
  | uplaneRx (port : Fin 16) (frame : List Byte)
  /-- At the report cut-off, incomplete decodes are cancelled and the result record written. (R200) -/
  | reportCutoff (job : BitVec 32)
  /-- After the last downlink window closes the completion record is written. (R263) -/
  | dlReportWrite (job : BitVec 32)
  /-- At a transmit window opening a complete symbol is sent and an incomplete one is dropped with LATE. (R19) -/
  | txWindowOpen (carrier : Fin 32) (sym : BitVec 32) (blocked : BitVec 16)
  /-- At the window close, unsent messages are counted in TX_MISSED and the slot is freed. (R371) -/
  | txWindowClose (carrier : Fin 32) (sym : BitVec 32)
  /-- A section type 1 or 3 message leaves at its earliest departure. (R366) -/
  | cplaneTx
  /-- An eCPRI type 5 delay request is answered with a response and follow-up. (R364) -/
  | ecpriDelayRequest (port : Fin 16) (frame : List Byte)
  /-- The queue head is dispatched to an idle engine with an iteration cap. (R227) -/
  | codingDispatch (kind : Fin 3)
  /-- A decode ends and the codeword status and HARQ process are updated. (R235) -/
  | ldpcDecodeDone (engine : Fin 8)
  /-- An encoded, rate-matched and scrambled block is written to its handle. (R244) -/
  | ldpcEncodeDone (engine : Fin 4)
  /-- A UCI segment decode ends with the CRC-passing list entry or none. (R236) -/
  | polarDecodeDone (engine : Fin 2) (llrs : List Byte)
  /-- A DCI or PBCH payload encode ends. (R236) -/
  | polarEncodeDone (engine : Fin 2)
  /-- A fault in a coding engine abandons the unit, requeues it and scrubs the engine. (R241) -/
  | engineFault (engine : Fin 14) (softRead : Bool) (combining : Bool) (block : BitVec 12)
  /-- A coding engine's 2,000-cycle scrub ends. (R241) -/
  | engineScrubEnd (engine : Fin 22)
  /-- A process without transmission for HARQ_TIMEOUT frees its blocks and entry. (R239) -/
  | harqTimeout
  /-- After ADAPT_SLOTS contributing slots, training runs and a candidate may be published. (R221) -/
  | adaptEpochEnd (court : Fin 16) (baseLoss : BitVec 32) (candLoss : BitVec 32) (train : Training)
  /-- Writing 1 discards the published candidate and resumes collection. (R222) -/
  | adaptDiscard (court : Fin 16) (value : BitVec 8)
  /-- At each symbol boundary of an enabled time base its symbol-count Tally advances. (R30) -/
  | symbolBoundary (tb : Fin 8)
  /-- A PTP event message is timestamped and fed to the servo of its instance. (R38) -/
  | ptpMessageRx (port : Fin 16) (frame : List Byte)
  /-- A servo update moves the time base between ACQUIRING, FREQ_LOCKED and LOCKED. (R41) -/
  | servoUpdate (tb : Fin 8) (offset : BitVec 64) (freqPpb : BitVec 32) (rate : BitVec 64)
  /-- A lost phase source moves the time base to its fallback, HOLDOVER or FREERUN. (R37) -/
  | sourceLoss (tb : Fin 8) (fallback : Bool)
  /-- A source qualifies and the time base enters ACQUIRING, stepping if unreferenced. (R41) -/
  | sourceQualified (tb : Fin 8) (fallback : Bool) (offsets : List (BitVec 64))
  /-- A write replacing the source in use acts as a loss of that source. (R37) -/
  | phaseSrcWrite (tb : Fin 8) (sub : Fin 3) (value : BitVec 8)
  /-- REALIGN = SLEW moves a STEP_NEEDED time base to ACQUIRING to slew through the offset. (R43) -/
  | realign (tb : Fin 8)
  /-- A served STEP is applied at the first symbol boundary with no job following the time base. (R43) -/
  | stepApply (tb : Fin 8)
  /-- A PPS_IN rising edge is timestamped. (R40) -/
  | ppsInEdge
  /-- A time-of-day sentence labels the preceding PPS edge or is counted as bad. (R40) -/
  | todMessage (utc : BitVec 48) (valid : Bool)
  /-- REF_IN with no edge for 10 µs or off frequency is declared lost. (R40) -/
  | refInLoss (quiet ppb : BitVec 32)
  /-- SYNCE_CLK_OUT is squelched while the selected lane has no lock. (R39) -/
  | synceSquelch (lane : Fin 16) (lock : Bool)
  /-- A received ESMC PDU is passed to the host. (R39) -/
  | esmcRx (port : Fin 16) (pdu : List Byte)
  /-- A timed pin drives a programmed edge at its air position. (R45) -/
  | timedPinEdge (pin : Fin 32)
  /-- PPS_OUT marks a TAI second of its time base. (R38) -/
  | ppsOutEdge
  /-- A rising edge on a CAPTURE pin is counted and its air position stored. (R49) -/
  | captureEdge (pin : Fin 32)
  /-- Drives a timed pin to its inactive level within 100 ns and holds it. (R48) -/
  | forceInactive (pin : Fin 32)
  /-- Releases a forced timed pin to its program. (R48) -/
  | release (pin : Fin 32)
  /-- Returns NOW of a time base, CHANGES and latched attention sources. (R334) -/
  | heartbeat (req : OapReq)
  /-- Reads one object's value, or its pending value. (R324) -/
  | read (req : OapReq)
  /-- Writes one object, taking effect immediately, at boot or staged in a Rally. (R324) -/
  | write (req : OapReq)
  /-- Reads a segment of a STR or BLOB object. (R380) -/
  | readBlock (req : OapReq)
  /-- Stages a segment of a STR or BLOB value, applied as one WRITE at LAST. (R325) -/
  | writeBlock (req : OapReq)
  /-- Opens a Rally in a scope and returns its ID. (R335) -/
  | rallyBegin (req : OapReq)
  /-- Commits a Rally for a Serve time after ordered checks, or refuses it. (R338) -/
  | rallyCommit (req : OapReq)
  /-- Aborts a Rally before its freeze point. (R339) -/
  | rallyAbort (req : OapReq)
  /-- Returns a Rally's status record. (R335) -/
  | rallyStatus (req : OapReq)
  /-- Clears the named attention latches if CHANGES_SEEN is current. (R333) -/
  | ackAttention (req : OapReq)
  /-- Sets or ends a channel's heartbeat subscription. (R334) -/
  | subscribe (req : OapReq)
  /-- A subscribed heartbeat reply falls due at its TAI instant and is placed or dropped. (R334) -/
  | heartbeatDue (chan : ChanRef)
  /-- An open Rally idle for RALLY_IDLE is aborted. (R337) -/
  | rallyIdleTimeout (scope : Fin 17)
  /-- An idle management channel closes, discarding its state and open Rally. (R321) -/
  | mgmtIdleTimeout (chan : ChanRef)
  /-- At the latest load point a Rally freezes or is rolled back. (R339) -/
  | freezePoint
  /-- At the Serve time every staged write takes effect and the configuration epoch increments. (R341) -/
  | serveTime
  /-- A Megorlink DATA flit is accepted in sequence, or a NAK is sent on a CRC error or gap. (R299) -/
  | flitRx (port : Fin 8) (flit : List Byte)
  /-- A received NAK makes the sender resend from its replay buffer. (R299) -/
  | nakRx (port : Fin 8) (seq : BitVec 12)
  /-- A port losing lane lock or exceeding RETRY_LIMIT retrains. (R300) -/
  | laneLockLoss (port : Fin 8)
  /-- A port finishes training, checks its peer and goes UP or MISMATCH. (R301) -/
  | retrainDone (port : Fin 8) (peerChip : BitVec 8) (peerPort : BitVec 8)
  /-- Writing PORT_RETRAIN retrains a port and releases its fence. (R300) -/
  | portRetrain (port : Fin 8)
  /-- TIME flits are exchanged and the link delay published. (R306) -/
  | timeFlit (port : Fin 8) (roundTrip : BitVec 32) (turnaround : BitVec 32)
  /-- Each member sends a heartbeat to every other member every 10 µs. (R317) -/
  | memberHeartbeat (from_ : Option (Fin 24))
  /-- A member unheard for LOST_TIMEOUT is LOST, fenced, and a membership Rally is committed. (R317) -/
  | lostTimeout (chip : Fin 24)
  /-- A participant receiving PREPARE votes yes or no. (R314) -/
  | prepare (coord : Fin 24) (rally : BitVec 32) (court : BitVec 8) (tb : Fin 8) (serve : BitVec 64) (parts : BitVec 24) (writes : List RallyWrite) (digest : List Byte) (aligned : Bool)
  /-- The coordinator receives a vote and decides once all have arrived. (R315) -/
  | voteRx (chip : Fin 24) (rally : BitVec 32) (yes : Bool)
  /-- A participant that can no longer meet its yes vote retracts it. (R314) -/
  | retract (rally : BitVec 32) (from_ : Option (Fin 24))
  /-- At S minus 500 µs the coordinator decides COMMIT or ABORT. (R315) -/
  | voteDeadline (rally : BitVec 32)
  /-- A participant receives and acknowledges the decision. (R315) -/
  | decisionRx (rally : BitVec 32) (commit : Bool)
  /-- The decision is resent every 20 µs until acknowledged. (R315) -/
  | decisionRepeat (rally : BitVec 32) (acks : BitVec 24)
  /-- A participant without a decision at S minus 50 µs queries the others. (R315) -/
  | decisionQuery (rally : BitVec 32) (from_ : Option (Fin 24))
  /-- At S minus 20 µs a participant with no COMMIT reply aborts, isolating if it reached no one. (R315) -/
  | queryCutoff (rally : BitVec 32) (replies : List (Fin 24 × Bool))
  /-- A reduction unit from a child is added exactly and forwarded toward the home chip. (R308) -/
  | reductionUnitRx (src : Fin 24) (unit : RedUnit)
  /-- A unit not home by its consumer's deadline is abandoned with MEMBER_LOST. (R310) -/
  | reductionAbandon (carrier : Fin 32) (sym : BitVec 32) (chunk : BitVec 8) (kind : BitVec 8) (home : Fin 24)
  /-- A remote access unanswered after 20 µs faults the engine. (R311) -/
  | remoteAccessTimeout (core : Fin 64) (slot : Fin 4) (engine : Fin 4)
  /-- Forwards an OAP frame to a member chip and returns its reply. (R313) -/
  | relay (req : OapReq) (reply : Option (List Byte))
  /-- A relay unanswered within 10 ms is answered BUSY. (R313) -/
  | relayTimeout (chan : ChanRef)
  /-- A host index write on a ring, sampled for order leads, or ignored as a violation. (R378) -/
  | doorbell (func : Fin 16) (ring : Fin 10) (value : BitVec 32)
  /-- Setting ENABLE enables a ring and zeroes its indices. (R377) -/
  | ringEnable (func : Fin 16) (ring : Fin 10) (irq : Bool)
  /-- Clearing ENABLE disables a ring at once. (R377) -/
  | ringDisable (func : Fin 16) (ring : Fin 10) (irq : Bool)
  /-- A write to a register with no behaviour of its own, ignored when not permitted. (R377) -/
  | registerWrite (func : Fin 16) (bar4 : Bool) (offset : BitVec 16) (value : BitVec 64)
  /-- A request-ring entry and its frame are read and checked. (R381) -/
  | rqEntryRead (func : Fin 16) (entry : List Byte) (frame : List Byte) (readable : Bool)
  /-- A pending vector sends one message after an index advance or unmask. (R383) -/
  | msixMessage (func : Fin 16) (vector : Fin 8)
  /-- Held records are written when the host frees result-ring space. (R382) -/
  | rsSpaceFree (func : Fin 16) (ring : Fin 4)
  /-- A host access through BAR2 to device memory, or a violation outside reach. (R375) -/
  | bar2Access (func : Fin 16) (offset : BitVec 28) (size : BitVec 8) (data : Option (List Byte)) (ecc : Bool)
  /-- A write to a Tally record's ADD field adds to its count. (R287) -/
  | tallyAddWrite (func : Fin 16) (offset : BitVec 20) (data : List Byte)
  /-- A model load is scheduled, evicting models or refused. (R283) -/
  | benchLoadRequest (model : BitVec 16) (rally : BitVec 32)
  /-- A loaded page is checked against its CRC, re-read from the mirror or failed. (R283) -/
  | benchPageLoaded (crcOk : Bool)
  /-- A load completes and the model becomes usable at a later boundary. (R285) -/
  | benchLoadEnd
  /-- A model package is verified and written to the library. (R453) -/
  | libPut (pkg : Package)
  /-- Removes a model not referenced or pinned from the library. (R284) -/
  | libDelete (model : BitVec 16)
  /-- Three uncorrectable words in 1 s or a silent device fence an xSPI RAM channel. (R386) -/
  | xspiChannelFence (channel : Fin 8) (words : BitVec 8) (silent : Bool)
  /-- A fenced job is disposed of in order and re-run or reported. (R393) -/
  | fenceDisposal
  /-- A fence is lifted by its listed event. (R446) -/
  | fenceLift (grain : Fin 11) (object : BitVec 16)
  /-- Arms a global stop at a symbol edge. (R358) -/
  | whistle (edge : BitVec 64)
  /-- Disarms an armed Whistle. (R358) -/
  | whistleCancel
  /-- Requests resumption from a held cut. (R404) -/
  | whistleResume
  /-- At the Whistle edge every core stops issue and drains begin. (R402) -/
  | whistleEdge
  /-- Drains complete and the cut is held. (R402) -/
  | cutHeld
  /-- At the resume boundary every core continues and deferred jobs are released. (R404) -/
  | resumeBoundary
  /-- A recorded entry is presented at its stamp or air position. (R408) -/
  | replayEntryInject
  /-- A full or fenced record ring stops recording. (R407) -/
  | replayRingFull
  /-- A round of rail readings completes and P_meas is formed. (R409) -/
  | pmbusRound (mw : List (Option (BitVec 32))) (ocWarning : Bool)
  /-- The activity estimate P_est is formed every 10 µs. (R410) -/
  | estimateTick (mw : BitVec 32)
  /-- A rail without valid readings for 1 ms makes telemetry lost. (R412) -/
  | telemetryLost
  /-- Every 100 µs the limiters give permitted frequencies and F moves. (R414) -/
  | decisionEdge
  /-- A regulator alert makes the current limiter act at the next qualifying edge. (R414) -/
  | pmAlert
  /-- The regulator reports the new voltage settled, or a 50 µs timeout abandons the raise. (R416) -/
  | avsbusSettled (mv : Option (BitVec 16))
  /-- The spare PLLs finish relocking to the new frequency. (R416) -/
  | pllRelockDone
  /-- Every cluster switches frequency at one power-step edge. (R416) -/
  | frequencySwitch
  /-- A droop detector fires and stretches its clocks. (R422) -/
  | gustFire (domain : BitVec 8)
  /-- After 64 good cycles the Gust clears. (R422) -/
  | gustClear (domain : BitVec 8)
  /-- Junction sensors are sampled and THERM updated. (R424) -/
  | sensorSample (temps : List (BitVec 32))
  /-- A trip sensor at 125 °C asserts THERMTRIP_N and stops core clocks. (R425) -/
  | thermalTrip
  /-- Power-on reset clears everything. (R431) -/
  | poreset
  /-- RESET_N clears every on-chip state and discards Rallies. (R431) -/
  | chipReset
  /-- A low VDD_SOC or VDD_CORE puts the chip into power-on reset. (R480) -/
  | brownout (vddCore : Bool)
  /-- PERST_N, link down or hot reset resets PCIe state and every function. (R384) -/
  | pcieFundamentalReset
  /-- A function-level reset disables its rings and resets its channel and MSI-X. (R384) -/
  | functionLevelReset (func : Fin 16)
  /-- A single domain is reset in service. (R433) -/
  | domainReset (domain : ResetDomain)
  /-- A fronthaul port trains, or is fenced after three failures. (R362) -/
  | fhPortTraining (port : Fin 16) (ok : Bool)
  /-- A BOOT write finishes programming the flash area and its reply leaves. (R389) -/
  | bootWriteDone (chan : ChanRef)
  /-- Removes every stored boot value. (R348) -/
  | bootClear (value : BitVec 8)
  /-- The ROM reads the boot header and chooses and verifies a slot, or enters recovery. (R436) -/
  | romBoot (fault0 : BitVec 3) (fault1 : BitVec 3)
  /-- Breeze service begins once enough units are usable. (R438) -/
  | breezeService
  /-- Full service begins when every unit is judged and models loaded. (R438) -/
  | fullService
  /-- A start-up slice of a stale unit ends, passing or fencing the unit. (R441) -/
  | startupTestSlice (unit : BitVec 16) (slice : Fin 10) (pass : Bool)
  /-- An in-service test slice runs on an idle unit and records its result. (R444) -/
  | inServiceSlice (unit : BitVec 16) (slice : Fin 10) (ended : Option Bool)
  /-- A slice is abandoned within 20 µs when work needs the unit. (R445) -/
  | sliceAbandon (unit : BitVec 16)
  /-- An excursion marker is written when TJ first reaches BIST_EXCURSION. (R440) -/
  | excursionMarker
  /-- Starts an orderly shut-down with testing and a record write. (R443) -/
  | shutdown (phase : Fin 3)
  /-- Writes and verifies a firmware image in the slot not running. (R449) -/
  | fwWrite (first : Bool) (last : Bool) (offset : BitVec 32) (data : List Byte) (flashOk : Bool)
  /-- Stages activation of the verified slot in the device-wide Rally. (R450) -/
  | fwActivate (slot : BitVec 8)
  /-- A core with no old-epoch context switches to the new core runtime. (R451) -/
  | runtimeSwitch (core : Fin 64)
  /-- After every core switched, the boot header and fuses are updated. (R452) -/
  | fwFinalize
  /-- Starts a signed attestation report. (R455) -/
  | attestNonce (nonce : List Byte)
  /-- GO without WRITE reads 8 bytes at a device-physical address. (R465) -/
  | dbgRead (set1 : Bool) (addr : BitVec 64) (tag : Bool) (ext : List Byte) (ecc : Bool)
  /-- GO with WRITE writes 8 bytes at a device-physical address. (R465) -/
  | dbgWrite (set1 : Bool) (addr : BitVec 64) (data : BitVec 64) (timeout : Bool)
  /-- JTAG BYPASS instruction. (R466) -/
  | bypass
  /-- JTAG SAMPLE/PRELOAD instruction. (R466) -/
  | samplePreload (pins : List Bool)
  /-- JTAG EXTEST drives the pins from boundary scan. (R466) -/
  | extest
  /-- JTAG IDCODE returns 0x1726_474F. (R466) -/
  | idcode
  /-- JTAG CLAMP instruction. (R466) -/
  | clamp
  /-- IEEE 1149.6 EXTEST_PULSE on SerDes lanes. (R466) -/
  | extestPulse
  /-- IEEE 1149.6 EXTEST_TRAIN on SerDes lanes. (R466) -/
  | extestTrain
  /-- Selects debug register set 0 as a 160-bit data register. (R466) -/
  | dbgacc (value : BitVec 160)
  /-- A burst of trace records is drained to host memory or xSPI RAM. (R462) -/
  | traceDrainBurst (core : Fin 64) (consumer : BitVec 64)
  /-- COUNT records are written at a snapshot boundary. (R463) -/
  | countSnapshot
  /-- A selector write restarts its counter from 0. (R457) -/
  | countSelWrite (core : Option (Fin 64)) (counter : Fin 64) (sel : BitVec 16)
  /-- A write to a statistics object clears it. (R349) -/
  | statisticsClear (index : BitVec 16) (sub : BitVec 8)
  /-- A transform engine completes a transform, counts saturated samples, and the next transform is dispatched with uplink precedence. (R203) -/
  | transformDone (engine : Fin 8)
  /-- A fault in a transform engine is counted, and three faults within 1 s of TB0 fence the engine. (R390) -/
  | transformEngineFault (engine : Fin 8)
  /-- An uncorrectable error in the control complex's state for a Court fences that Court. (R390) -/
  | controlComplexEcc (court : Fin 16) (area : BitVec 32)
  /-- The host-memory read of a downlink transport block or precoder completes, releasing DL_ENCODE, or fails uncorrectably with READ_FAIL. (R246) -/
  | tbReadDone (carrier : Fin 32) (slot : BitVec 64) (user : BitVec 6) (data : List Byte) (weights : List Byte) (ok : Bool)
  /-- A non-OAP frame on the management port is answered (ARP, ICMP echo), taken by DHCP, or discarded. (R387) -/
  | managementFrame (frame : List Byte)
  /-- An OAP frame with a failed header check, wrong version or unknown opcode is answered BAD_FRAME without advancing the sequence state. (R328) -/
  | badFrame (req : OapReq)
  /-- At its sync or delay-request interval a PTP instance sends Sync, Announce or Delay_Req messages, timestamped at 0.25 ns. (R38) -/
  | ptpMessageTx (tb : Fin 8) (port : Fin 16) (kind : Fin 4)
  /-- REF_IN edges return within frequency tolerance, and REF_IN_STATE becomes present. (R40) -/
  | refInReturn (ppb : BitVec 32)
  /-- A fronthaul port loses its link and goes DOWN, setting LINK and starting retraining. (R362) -/
  | fhLinkLoss (port : Fin 16)
  /-- While IOUT_OC_WARNING stays set, the current limiter lowers F by 4 more steps every 25 µs. (R414) -/
  | currentLimitRepeat
  /-- A single GUST period reaching 10 µs sets DSW THROT and latches the THROT source. (R419) -/
  | longGust
  /-- 5 µs after a Gust clears, a discarded PLL relock restarts and RELOCK_RETRIES increments. (R423) -/
  | relockRestart
  /-- The fronthaul and Megorlink SerDes PLLs lock at start-up, the self-test record is judged, and the device proceeds to PCIe readiness. (R435) -/
  | serdesPllsLocked (record : List Byte) (verified : Bool)
  /-- xSPI RAM check-byte initialisation and the copy of the reference model set into the library complete, ending step 9, after which LIB_PUT is accepted. (R435) -/
  | checkBytesInitialised (models : List Package)
  /-- A context of an earlier epoch not ended 100 ms after an activation's Serve time is fenced with INTERNAL so that its core can switch runtime. (R451) -/
  | oldEpochContextTimeout (core : Fin 64)
  /-- Verification of a written firmware slot finishes within 200 ms of LAST, setting FW_STATE 2, or 4 with FW_REASON. (R449) -/
  | fwVerifyDone (fault : BitVec 3)
  /-- A signed attestation report finishes within 100 ms of the nonce write, and ATTEST_REPORT stops answering BUSY. (R455) -/
  | attestReportReady (signature : List Byte)
  deriving DecidableEq, Repr

end Sys2Proof
end

