-- ==== Sys2Proof/Decode.lean ====
section
/-! DEFINITION. Commands from words. The table of operations and events gives no row any bits: a command reaches the block as an operation or an event
with its operands, and no word spells one. -/

namespace Sys2Proof

/-- The command that a word spells: none, since no row of the table has an encoding. -/
def decodeTableWord (_nbits _w : Nat) : Option Instr := none

end Sys2Proof
end

