-- ==== Sys2Proof/Config.lean ====
section
/-! DEFINITION. What the hardware fixes once (sizes the spec states) and the free values: constants without a
body, which no proof can evaluate, for what the spec leaves open. -/

namespace Sys2Proof.Config

/-- Lorgus cores of the chip (Table 0.2). -/
def cores : Nat := 64
/-- Bytes of one core memory (R55). -/
def coreMemBytes : Nat := 0x200000
/-- Tc in one system frame: 10 ms at 480,000 x 4,096 Hz (Table 0.3). -/
def tcPerFrame : Nat := 19660800
/-- Tc in one second (Table 0.3). -/
def tcPerSecond : Nat := 1966080000

/-- A fresh open value: applied to the model's own counter `State.freeCtr` (log entry 3). -/
opaque freeValue : Nat → BitVec 1024
/-- A special-function result the spec bounds but does not fix (Table 7.5; log entry 4):
function code, element type code, table bank, first and second argument encodings. -/
opaque specialFunction : Nat → Nat → Nat → Nat → Nat → Nat
/-- The sign of a minimum or maximum of two zeros of opposite sign, which the spec does not state. -/
opaque zeroTieNegative : Nat → Bool

/-- KB of the data window of a stage job, by kind and model, which the spec leaves to the runtime (log entry 16). -/
opaque stageWindow : Nat → Nat → Nat

/-- Entry e of the reference LDPC table, which the spec calls stored with the device and does not print: an offset and a scale whose upper
four bits are zero (Tables 10.4, 15.8; log entry 20). -/
opaque ldpcReference : Nat → BitVec 12
/-- xSPI RAM devices that start-up finds on each channel (R385; log entry 21). -/
opaque xspiDevices : Fin 3
/-- Flits a network-on-chip domain has carried at a clock, which no rule of the spec determines (Table 20.1; log entry 22). -/
opaque nocFlits : Nat → Nat → BitVec 64
/-- Codes of the flit KINDs, which the spec names and does not number (R297; log entry 23). -/
opaque flitKind : Nat → BitVec 8

/-- Offset of a stage's stationary tile in its model: model, stage job kind, tile (log entry 76). -/
opaque tileOffset : Nat → Nat → Nat → Nat
/-- The edges of one base-graph row at a lifting size: base graph, Zc, row to (column, shift) pairs. The tables of TS 38.212 that
the hardware holds (R2, R228), which the spec does not print (log entry 15). -/
opaque ldpcEdges : Nat → Nat → Nat → List (Nat × Nat)
/-- The polar sequence and the input interleaver of TS 38.212: the entry at a place (R2, R236; log entry 15). -/
opaque polarSequence : Nat → Nat
opaque polarInterleaver : Nat → Nat

/-- The SINR at 10 % block error of the runtime table, in dB as an FP32 encoding: QM, RATE (R219; log entry 169). -/
opaque sinrTarget : Nat → Nat → BitVec 32

/-- The MAC address of the management port, which is set at manufacture (R387; log entry 21). -/
opaque mgmtMac : BitVec 48

end Sys2Proof.Config
end

