-- ==== Sys2Proof/Machine/Formats.lean ====
section
/-! DEFINITION. Number formats (chapter "Number Formats, Quantisation and Rounding"): integers, the four
floating-point formats with exact dyadic arithmetic and one rounding, shared-exponent blocks, the requantiser and
the two exact accumulators. -/

namespace Sys2Proof.Machine

/-- The value of `n` low bits read as two's complement (R126). -/
def signed (w n : Nat) : Int :=
  if n % 2 ^ w < 2 ^ (w - 1) then (n % 2 ^ w : Nat) else (n % 2 ^ w : Nat) - (2 ^ w : Nat)

/-- The low `w` bits of an integer, two's complement. -/
def wrapTo (w : Nat) (x : Int) : Nat := (x % (2 ^ w : Nat)).toNat

/-- Clamp to `lo … hi`. -/
def clampInt (lo hi x : Int) : Int := if x < lo then lo else if hi < x then hi else x

/-- Lowest and highest value of a signed integer of `w` bits. -/
def sLo (w : Nat) : Int := -(2 ^ (w - 1) : Nat)
def sHi (w : Nat) : Int := (2 ^ (w - 1) : Nat) - 1

/-- `x / 2^s` rounded to nearest, ties to even (R142). -/
def shrEven (x : Int) (s : Nat) : Int :=
  let d : Int := (2 ^ s : Nat)
  let q := x / d
  let r := x % d
  if s = 0 then x
  else if 2 * r > d ∨ (2 * r = d ∧ q % 2 = 1) then q + 1 else q

/-- `x / 2^s` rounded half up (R93). -/
def shrHalfUp (x : Int) (s : Nat) : Int :=
  if s = 0 then x else (x + (2 ^ (s - 1) : Nat)) / (2 ^ s : Nat)

/-- `round_te(v, e)` of R136: `v × 2^-e` to nearest, ties to even; exact for a left shift. -/
def roundTe (v : Int) (e : Int) : Int :=
  if e < 0 then v * (2 ^ (-e).toNat : Nat) else shrEven v e.toNat

/-- `num / den` rounded to nearest, ties to even, for naturals. -/
def divEven (num den : Nat) : Nat :=
  let q := num / den
  let r := num % den
  if 2 * r > den ∨ (2 * r = den ∧ q % 2 = 1) then q + 1 else q

/-! ### Sticky bits (Table 3.4a) -/

def stPRANGE : Byte := 0x01#8
def stVSAT : Byte := 0x02#8
def stRQCLAMP : Byte := 0x04#8
def stFPINV : Byte := 0x08#8
def stFPOVF : Byte := 0x10#8
def stFPUND : Byte := 0x20#8
def stSFDOM : Byte := 0x40#8
def stDSPOVF : Byte := 0x80#8

/-! ### Floating point (Table 6.2, R128 to R130) -/

/-- A floating-point value: NaN, an infinity, or `± m × 2^e`. -/
inductive FVal where
  | nan
  | inf (neg : Bool)
  | fin (neg : Bool) (m : Nat) (e : Int)
  deriving DecidableEq, Repr

/-- A floating-point format of Table 6.2. -/
structure FFmt where
  ebits : Nat
  mbits : Nat
  bias : Nat
  hasInf : Bool
  nanCode : Nat
  maxCode : Nat
  deriving DecidableEq, Repr

def fmtE4M3 : FFmt := ⟨4, 3, 7, false, 0x7F, 0x7E⟩
def fmtE5M2 : FFmt := ⟨5, 2, 15, true, 0x7E, 0x7B⟩
def fmtBF16 : FFmt := ⟨8, 7, 127, true, 0x7FC0, 0x7F7F⟩
def fmtFP32 : FFmt := ⟨8, 23, 127, true, 0x7FC00000, 0x7F7FFFFF⟩

/-- Bits of the format's encoding without the sign. -/
def FFmt.bits (f : FFmt) : Nat := f.ebits + f.mbits

/-- The value an encoding stands for (Table 6.2, R128). -/
def fdecode (f : FFmt) (x : Nat) : FVal :=
  let neg := x / 2 ^ f.bits % 2 == 1
  let e := x / 2 ^ f.mbits % 2 ^ f.ebits
  let m := x % 2 ^ f.mbits
  if e = 2 ^ f.ebits - 1 ∧ f.hasInf then
    if m = 0 then .inf neg else .nan
  else if ¬ f.hasInf ∧ x % 2 ^ f.bits = f.nanCode then .nan
  else if e = 0 then .fin neg m (1 - (f.bias : Int) - f.mbits)
  else .fin neg (m + 2 ^ f.mbits) ((e : Int) - f.bias - f.mbits)

/-- The encoding with the sign bit put on. -/
def withSign (f : FFmt) (neg : Bool) (x : Nat) : Nat := if neg then x + 2 ^ f.bits else x

/-- The infinity of the format, or its largest finite value where it has none (R130). -/
def overflowCode (f : FFmt) : Nat := if f.hasInf then (2 ^ f.ebits - 1) * 2 ^ f.mbits else f.maxCode

/-- `num / den` (with a sign) rounded once, to nearest, ties to even, into the format, with the flags of R129. -/
def froundQ (f : FFmt) (neg : Bool) (num den : Nat) : Nat × Byte :=
  if num = 0 then (withSign f neg 0, 0#8)
  else
    let lg0 : Int := (Nat.log2 num : Int) - (Nat.log2 den : Int)
    let below : Bool := if lg0 < 0 then num * 2 ^ (-lg0).toNat < den else num < den * 2 ^ lg0.toNat
    let lg : Int := if below then lg0 - 1 else lg0
    let emin : Int := 1 - (f.bias : Int) - f.mbits
    let e : Int := if lg - f.mbits < emin then emin else lg - f.mbits
    let n' := if e < 0 then num * 2 ^ (-e).toNat else num
    let d' := if e < 0 then den else den * 2 ^ e.toNat
    let q := divEven n' d'
    let code : Nat := if q < 2 ^ f.mbits then q else (e - emin + 1).toNat * 2 ^ f.mbits + (q - 2 ^ f.mbits)
    if f.maxCode < code then (withSign f neg (overflowCode f), stFPOVF)
    else (withSign f neg code, if q * d' ≠ n' ∧ code < 2 ^ f.mbits then stFPUND else 0#8)

/-- Rounds `± m × 2^e` into the format. -/
def froundDy (f : FFmt) (neg : Bool) (m : Nat) (e : Int) : Nat × Byte :=
  if e < 0 then froundQ f neg m (2 ^ (-e).toNat) else froundQ f neg (m * 2 ^ e.toNat) 1

/-- Rounds any value into a format: a NaN becomes the default NaN and sets FPINV (R128, R129);
an infinity has no place in E4M3 and becomes ±448 with FPOVF (R130). -/
def fround (f : FFmt) : FVal → Nat × Byte
  | .nan => (f.nanCode, stFPINV)
  | .inf neg => (withSign f neg (overflowCode f), if f.hasInf then 0#8 else stFPOVF)
  | .fin neg m e => froundDy f neg m e

/-- The signed integer and exponent of a finite value. -/
def FVal.toDyadic : FVal → Int × Int
  | .fin neg m e => (if neg then -(m : Int) else m, e)
  | _ => (0, 0)

/-- The exact sum of two finite dyadics, as integer and exponent. -/
def dyAdd (a b : Int × Int) : Int × Int :=
  let e := min a.2 b.2
  (a.1 * (2 ^ (a.2 - e).toNat : Nat) + b.1 * (2 ^ (b.2 - e).toNat : Nat), e)

/-- A finite dyadic as a value; an exact zero takes the sign given. -/
def ofDyadic (zeroNeg : Bool) (d : Int × Int) : FVal :=
  if d.1 = 0 then .fin zeroNeg 0 d.2 else .fin (decide (d.1 < 0)) d.1.natAbs d.2

def FVal.neg : FVal → FVal
  | .nan => .nan
  | .inf s => .inf (!s)
  | .fin s m e => .fin (!s) m e

def FVal.sign : FVal → Bool
  | .nan => false
  | .inf s => s
  | .fin s _ _ => s

/-- The exact sum, and whether the operation is invalid. A sum of exact opposites is +0 (R128). -/
def fadd : FVal → FVal → FVal
  | .nan, _ => .nan
  | _, .nan => .nan
  | .inf s, .inf t => if s = t then .inf s else .nan
  | .inf s, _ => .inf s
  | _, .inf s => .inf s
  | .fin s m e, .fin t n k =>
    ofDyadic (s && t && decide (m = 0) && decide (n = 0)) (dyAdd (FVal.toDyadic (.fin s m e)) (FVal.toDyadic (.fin t n k)))

/-- The exact product; 0 × ∞ is invalid (R129). -/
def fmul : FVal → FVal → FVal
  | .nan, _ => .nan
  | _, .nan => .nan
  | .inf s, .inf t => .inf (s != t)
  | .inf s, .fin t m _ => if m = 0 then .nan else .inf (s != t)
  | .fin s m _, .inf t => if m = 0 then .nan else .inf (s != t)
  | .fin s m e, .fin t n k => .fin (s != t) (m * n) (e + k)

/-- Less-than of two values that are no NaN; −0 and +0 compare equal (R128). -/
def flt : FVal → FVal → Bool
  | .nan, _ => false
  | _, .nan => false
  | .inf s, .inf t => s && !t
  | .inf s, .fin _ _ _ => s
  | .fin _ _ _, .inf t => !t
  | .fin s m e, .fin t n k =>
    decide ((dyAdd (FVal.toDyadic (.fin s m e)) (FVal.toDyadic (FVal.neg (.fin t n k)))).1 < 0)

/-- Equality of two values that are no NaN. -/
def feq (a b : FVal) : Bool :=
  match a, b with
  | .nan, _ => false
  | _, .nan => false
  | _, _ => !flt a b && !flt b a

/-- Float to a signed or unsigned integer range: to nearest, ties to even, saturating (R130). -/
def ftoInt (lo hi : Int) : FVal → Int × Byte
  | .nan => (0, stFPINV)
  | .inf s => (if s then lo else hi, stVSAT)
  | .fin s m e =>
    let mag : Int := if e < 0 then divEven m (2 ^ (-e).toNat) else m * (2 ^ e.toNat : Nat)
    let x := if s then -mag else mag
    (clampInt lo hi x, if x < lo ∨ hi < x then stVSAT else 0#8)

/-- Integer to float: to nearest, ties to even (R130). -/
def intToF (f : FFmt) (x : Int) : Nat × Byte := froundQ f (decide (x < 0)) x.natAbs 1

/-- The integer nearest to a finite value, ties to even; 0 for other values. -/
def FVal.nearest : FVal → Int
  | .fin s m e =>
    let mag : Int := if e < 0 then divEven m (2 ^ (-e).toNat) else m * (2 ^ e.toNat : Nat)
    if s then -mag else mag
  | _ => 0

/-- The largest integer at or below a finite value. -/
def FVal.floor : FVal → Int
  | .fin s m e =>
    let x : Int := if s then -(m : Int) else m
    if e < 0 then x / (2 ^ (-e).toNat : Nat) else x * (2 ^ e.toNat : Nat)
  | _ => 0

/-! ### Element types (Table 4.9) -/

/-- Bytes of one element of the type code; 0 for a reserved code. -/
def etSize (et : Nat) : Nat :=
  match et with
  | 0 => 1 | 1 => 1 | 2 => 2 | 3 => 4 | 4 => 2 | 5 => 4 | 6 => 2 | 7 => 4 | 8 => 1 | 9 => 1
  | _ => 0

def etIsFloat (et : Nat) : Bool := et == 6 || et == 7 || et == 8 || et == 9
def etIsComplex (et : Nat) : Bool := et == 4 || et == 5
def etIsInt (et : Nat) : Bool := et == 0 || et == 1 || et == 2 || et == 3
def etIsReal (et : Nat) : Bool := etIsInt et || etIsFloat et

/-- The float format of a type code (FP32 where the code names no float). -/
def etFmt (et : Nat) : FFmt :=
  if et = 6 then fmtBF16 else if et = 8 then fmtE4M3 else if et = 9 then fmtE5M2 else fmtFP32

/-- Bits of one part: the element, or the real or imaginary part of a complex element. -/
def etPartBits (et : Nat) : Nat := if etIsComplex et then etSize et * 4 else etSize et * 8

/-- The range of an integer type or of a complex part. -/
def etLo (et : Nat) : Int := if et = 1 then 0 else sLo (etPartBits et)
def etHi (et : Nat) : Int := if et = 1 then 255 else sHi (etPartBits et)

/-- An integer element's value. -/
def etVal (et n : Nat) : Int := if et = 1 then (n % 256 : Nat) else signed (etPartBits et) n

/-- Narrows an exact integer to a part: wraps, or saturates and sets VSAT (R92). -/
def narrowInt (et : Nat) (sat : Bool) (x : Int) : Nat × Byte :=
  if sat then (wrapTo (etPartBits et) (clampInt (etLo et) (etHi et) x), if x < etLo et ∨ etHi et < x then stVSAT else 0#8)
  else (wrapTo (etPartBits et) x, 0#8)

/-! ### The requantiser (R142, R143) -/

/-- Clamp range and zero-point use of an OUTFMT (Table 6.4): lo, hi, adds the zero point. -/
def outRange (fmt : Nat) : Int × Int × Bool :=
  match fmt with
  | 0 => (sLo 16, sHi 16, false)
  | 1 => (sLo 32, sHi 32, false)
  | 3 => (sLo 16, sHi 16, false)
  | 4 => (sLo 8, sHi 8, false)
  | 5 => (0, 255, true)
  | 6 => (sLo 8, sHi 8, false)
  | _ => (sLo 48, sHi 48, false)

/-- `requant` of R142: the output, and whether RQCLAMP is set. -/
def requant (acc m : Int) (s : Nat) (zo : Nat) (fmt : Nat) : Int × Bool :=
  let q := shrEven (acc * m) s
  let r := outRange fmt
  let q := if r.2.2 then q + (zo : Int) else q
  (clampInt r.1 r.2.1 q, decide (q < r.1 ∨ r.2.1 < q))

/-! ### Shared-exponent blocks (R131 to R136) -/

/-- All sixteen mantissas at exponent `e`. -/
def sbMantissas (v : List Int) (e : Int) : List Int := v.map (fun x => roundTe x e)

/-- `to_sb` of R136: the search over e from -127, with fuel 255. -/
def toSbFrom (v : List Int) (bits : Nat) : Nat → Int → Int × List Int
  | 0, e => (e, sbMantissas v e)
  | fuel + 1, e =>
    let m := sbMantissas v e
    if m.all (fun x => decide (sLo bits ≤ x ∧ x ≤ sHi bits)) then (e, m) else toSbFrom v bits fuel (e + 1)

/-- The block exponent byte and mantissas of sixteen exact values (R136). 0x80 marks a zero block. -/
def toSb (v : List Int) (bits : Nat) : Nat × List Int :=
  if v.all (fun x => x == 0) then (0x80, v.map (fun _ => 0))
  else let r := toSbFrom v bits 254 (-127); (wrapTo 8 r.1, r.2)

/-- The tag of block m of a tensor with start tag t0 (R134). -/
def sbTag (t0 m : Nat) : Nat := 1 + (t0 - 1 + m) % 63

/-- Downlink compression of a PRB to width w: the smallest exponent that fits (R139). -/
def bfpFrom (v : List Int) (w : Nat) : Nat → Nat → Nat × List Int
  | 0, x => (x, v.map (fun a => shrEven a x))
  | fuel + 1, x =>
    let m := v.map (fun a => shrEven a x)
    if m.all (fun a => decide (sLo w ≤ a ∧ a ≤ sHi w)) then (x, m) else bfpFrom v w fuel (x + 1)

def bfpCompress (v : List Int) (w : Nat) : Nat × List Int := bfpFrom v w 15 0

/-! ### Exact accumulators (R144 to R147) -/

/-- A term's entry into XA96 (R145): the multiple of 2^-40, as integer, with the flags. -/
def xa96Term : FVal → Int × Byte
  | .nan => (0, stFPINV)
  | .inf s => (if s then -((2 ^ 80 : Nat) - 1 : Int) else (2 ^ 80 : Nat) - 1, stFPOVF)
  | .fin s m e =>
    let k := e + 40
    let mag : Nat := if k < 0 then divEven m (2 ^ (-k).toNat) else m * 2 ^ k.toNat
    let und : Byte := if k < 0 ∧ mag * 2 ^ (-k).toNat ≠ m then stFPUND else 0#8
    if 2 ^ 80 ≤ mag then (if s then -((2 ^ 80 : Nat) - 1 : Int) else (2 ^ 80 : Nat) - 1, stFPOVF ||| und)
    else (if s then -(mag : Int) else mag, und)

/-- S read as 96-bit two's complement. -/
def wrap96 (x : Int) : Int := signed 96 (wrapTo 96 x)
/-- XA48 read as signed 48 bits (R144). -/
def wrap48 (x : Int) : Int := signed 48 (wrapTo 48 x)

/-- An integer S × 2^-40 divided by n, rounded once into a float format (R146). -/
def xa96Deliver (f : FFmt) (s : Int) (n : Nat) : Nat × Byte :=
  froundQ f (decide (s < 0)) s.natAbs (2 ^ 40 * n)

end Sys2Proof.Machine
end

