-- ==== Sys2Proof/Machine/State.lean ====
section
/-! DEFINITION. The state of the chip as plain data, the reasons a step can stop, and the state after reset. -/

namespace Sys2Proof.Machine

open Sys2Proof

/-- Reasons for which a step would stop the model. No meaning of this model raises one: the spec gives every
command an effect, an error answer or no effect at all. Safe. -/
inductive Fault where
  /-- Raised by nothing; reserved for an access to an address the spec says does not exist, for which the spec
  gives no answer (every such access of the spec has one). Safe. -/
  | unmapped (addr : Nat)
  deriving DecidableEq, Repr

/-- Reasons for which a command is turned away by the model. -/
inductive Refusal where
  /-- Raised by a dispatch arm whose command has no meaning yet. Safe: the run stops. -/
  | notModelled (mnemonic : String)
  deriving DecidableEq, Repr

/-! ### Results in flight and bundles -/

/-- A result that has issued and not landed (R60; Table 3.7a). `dest` is the Table 4.4 encoding of the register;
0x80 and 0x81 name the two flag groups, 0x100 + n the CSR n, 0x1000 and 0x1001 the rise and fall of EXCL. -/
structure Land where
  dest : Nat
  remain : Nat
  value : Vec
  mask : Pred
  sticky : Byte
  kind : Nat
  deriving DecidableEq, Repr

/-- A slot syllable staged for the bundle that is being issued (R51, R81). -/
structure Syl where
  op : CoreOp
  slot : Nat
  body : BitVec 64
  ecc : EccFind := .clean
  deriving DecidableEq, Repr

/-- What the bundle that is issuing has decided so far. -/
structure BundleRun where
  taken : Option (BitVec 48) := none
  skip : Option (BitVec 48) := none
  ended : Bool := false
  dead : Bool := false
  mark : Bool := false
  /-- slots that the bundle's header names, where it has been presented -/
  present : Option Nat := none
  /-- address of the save area that a RESUME of the bundle restores -/
  resume : Option Nat := none
  deriving DecidableEq, Repr

/-! ### Vector unit -/

/-- A walker bound to a tensor descriptor slot (R156 to R160). `desc` holds the 512 descriptor bits. -/
structure Walker where
  bound : Bool := false
  exhausted : Bool := false
  desc : BitVec 512 := 0
  vecIdx : Nat := 0
  idx1 : Nat := 0
  idx2 : Nat := 0
  idx3 : Nat := 0
  idx4 : Nat := 0
  len : Nat := 0
  deriving DecidableEq, Repr

/-- An exact accumulator XACC (R161). `value` is S of XA96, the INT48 of XA48, or for MAX the exact held value:
the INT48, or the FP32 encoding. -/
structure XAcc where
  kind : Nat := 0
  wide : Bool := false
  value : Int := 0
  count : BitVec 32 := 0
  nan : Bool := false
  deriving DecidableEq, Repr

/-! ### Matrix array -/

/-- The requantiser setting of a pass (R142, R140). -/
structure Requant where
  mult : BitVec 32 := 0
  shift : BitVec 6 := 0
  zeroOut : Byte := 0
  zeroAct : Byte := 0
  deriving DecidableEq, Repr

/-- The accumulators of one activation row in one column fold: real and imaginary parts (of a float mode the FP32 encoding first), and the
sticky bits of their sums. -/
structure ARow where
  cols : List (Int × Int)
  st : Byte := 0
  deriving DecidableEq, Repr

/-- A matrix pass, issued and not finished (R95, R101, R102). `produced` counts output rows made ready,
`read` the rows VMRD has taken. -/
structure Pass where
  /-- number of the pass on its core (the model's own) -/
  id : Nat
  desc : BitVec 512
  act : Nat
  rows : Nat
  job : Nat
  slot : Nat
  rq : Requant
  outliers : List Nat
  backward : Bool
  /-- output rows of the whole pass -/
  total : Nat := 0
  produced : Nat := 0
  read : Nat := 0
  /-- the fold whose rows are in the array, or that begins next (R103) -/
  fold : Nat := 0
  /-- output-stage entries in use (R113): partial sums of the tile in progress over the folds that have left; rows whose last fold has left
  and that are not ready; rows ready and not wholly read, oldest first -/
  part : List ARow := []
  formed : List ARow := []
  queue : List ARow := []
  chain : Bool := false
  chainLast : Bool := false
  /-- where MWLD took tile 0 from, if it did -/
  tile0 : Option Nat := none
  /-- tiles of a chained pass that have arrived (R109) -/
  arrived : Nat := 0
  detached : Bool := false
  deriving DecidableEq, Repr

/-- A weight bank of a column group: the pass and the physical tile it holds, its bytes, and the context slot it is tagged with (R106, R120). -/
structure Bank where
  pass : Nat
  tile : Nat
  slot : Nat
  bytes : List Byte
  deriving DecidableEq, Repr

/-- One column group of the array (R117). -/
structure Group where
  current : Option Pass := none
  queued : Option Pass := none
  /-- passes whose rows are all issued and not all read -/
  draining : List Pass := []
  active : Option Bank := none
  shadow : Option Bank := none
  bandsSwapped : Nat := 0
  scrub : Bool := false
  /-- the pass in progress stands at a tile boundary (R104) -/
  atBoundary : Bool := false
  deriving DecidableEq, Repr

/-- A continuation record of a group for one context (R120, R121): the pass position, the queued pass, the pass and tile of the active bank, and
the record's 16 words. -/
structure MCont where
  current : Option Pass := none
  queued : Option Pass := none
  draining : List Pass := []
  bank : Option (Nat × Nat) := none
  words : List (BitVec 64) := []
  deriving DecidableEq, Repr

/-- What MTILE, MWLD, MWPASS, MRQ and MOUTL have set for the next MPASS (R95). -/
structure NextPass where
  /-- number of the pass that MWLD or MWPASS has begun to set up; 0 none -/
  id : Nat := 0
  tile : Option (BitVec 512) := none
  weights : Option Nat := none
  chain : Bool := false
  chainLast : Bool := false
  rq : Requant := {}
  outlierAddr : Option Nat := none
  /-- tiles that the chain port has taken for the next pass -/
  arrived : Nat := 0
  deriving DecidableEq, Repr

/-! ### Stream engines -/

/-- The state of an engine's program (Table 8.1). -/
inductive EngState where
  | idle | run | wait | ended
  deriving DecidableEq, Repr

/-- One side of an engine's MOVE: a tensor (Table 7.2), a symbol slot (R186), or nothing. -/
inductive Side where
  | none
  | tensor (desc : BitVec 512) (base scale : Nat)
  | symbol (word : BitVec 64) (n : BitVec 32)
  deriving DecidableEq, Repr

/-- Indexing of one dimension under AMODE (R180). -/
structure IdxMode where
  mode : Nat := 0
  param : Nat := 0
  deriving DecidableEq, Repr

/-- What a waiting engine waits for (Table 8.1, WAITKIND; R192). -/
inductive EngWait where
  | none
  | tally (t : Nat) (target : BitVec 32)
  | handle (k : Nat) (queue : Nat)
  | credit (left : Nat) (exhaust : Bool)
  | slot (left : Nat) (exhaust : Bool)
  deriving DecidableEq, Repr

/-- One stream engine of a context (R173). -/
structure Engine where
  state : EngState := .idle
  wait : EngWait := .none
  /-- `auditAir` when the wait began (R192) -/
  waitStart : Nat := 0
  paused : Bool := false
  prog : Nat := 0
  pc : Nat := 0
  arg : BitVec 32 := 0
  loopCount : Tbl (BitVec 32) := []
  loopStart : Tbl Nat := []
  loopEnd : Tbl Nat := []
  src : Side := .none
  dst : Side := .none
  srcPos : Nat := 0
  dstPos : Nat := 0
  srcMode : Tbl IdxMode := []
  dstMode : Tbl IdxMode := []
  /-- H0 to H3: pool and handle, where valid -/
  handles : Tbl (Option (Nat × Nat)) := []
  statMode : Nat := 0
  /-- elements of the PRB that a downlink symbol side is gathering, by port * 16 + resource element -/
  part : Tbl (Int × Int) := []
  /-- parts of the SB block that the destination is gathering -/
  blk : List Int := []
  /-- the header of the bound downlink symbol is written (R187) -/
  opened : Bool := false
  /-- PRBs of the present row that have saturated, by port * 512 + PRB (R138) -/
  clamped : List Nat := []
  /-- destination lines of the data and of the scale stream that were begun last -/
  lastLine : Option Nat := none
  lastScale : Option Nat := none
  lines : BitVec 16 := 0
  /-- destination ports of outstanding lines, oldest first (R176) -/
  outstanding : List Nat := []
  deriving DecidableEq, Repr

/-! ### Contexts and cores -/

/-- What a context slot of a core is doing (R66 to R73; R271 to R278). -/
inductive CtxState where
  | free | ready | running | stopped | blocked | ending
  deriving DecidableEq, Repr

/-- One of the four context slots of a core: the CSRs of the context (Table 3.3, Table 5.4, Table 7.8, Table 8.2)
and its continuations. -/
structure Ctx where
  state : CtxState := .free
  job : Nat := 0
  court : Nat := 0
  tb : Nat := 0
  epoch : Nat := 0
  winBase : Nat := 0
  winLimit : Nat := 0
  codeBase : Nat := 0
  codeLimit : Nat := 0
  cycle : BitVec 64 := 0
  excl : BitVec 32 := 0
  evtCause : BitVec 32 := 0
  evtPc : BitVec 48 := 0
  evtInfo : BitVec 32 := 0
  sfBank : BitVec 32 := 0
  mgroup : BitVec 32 := 1
  mdone : BitVec 32 := 0
  mcontSel : BitVec 32 := 0
  mstat : Tbl (BitVec 64) := []
  mstatp : BitVec 64 := 0
  chain : BitVec 32 := 0
  scontSel : BitVec 32 := 0
  vcontSel : BitVec 32 := 0
  entry : Nat := 0
  markCount : BitVec 32 := 0
  pendSticky : Byte := 0
  walkers : Tbl Walker := []
  xacc : Tbl XAcc := []
  /-- accumulator records that VCONT has written, as they stand (R172) -/
  xraw : Tbl Nat := []
  /-- what MTILE, MWLD, MWPASS, MRQ and MOUTL of the context have set for its next pass (R95, R120) -/
  next : NextPass := {}
  mcont : Tbl MCont := []
  engines : Tbl Engine := []
  /-- raw words the runtime has written into SCONT and MCONT, whose content is not architectural (Table 8.2) -/
  contWords : Tbl (BitVec 64) := []
  /-- queue handles taken through HDEQ: pool and handle -/
  taken : List (Nat × Nat) := []
  waitStart : Nat := 0
  /-- `auditAir` when the wait of the held bundle began (R192) -/
  waitAir : Nat := 0
  /-- the Tally the context waits on, saved as BLOCKED: TWAIT's target, or none for TACQ (R276) -/
  waitOn : Option (Nat × Option (BitVec 32)) := none
  started : Bool := false
  fenced : Bool := false
  deriving DecidableEq, Repr

/-- A stop request that has reached the core (R66). -/
structure StopReq where
  tile : Bool
  cycles : Nat := 0
  deriving DecidableEq, Repr

/-- A special-function set of a core: the configuration epoch from which jobs use it, the bank that holds it (none while it is in no bank),
the version of the built-in tables (none: those that came with the running core runtime at start-up), and its micro-programs by ID (R167,
R168, R451, R453). -/
structure SfSet where
  since : Nat := 0
  bank : Option Nat := none
  image : Option Nat := none
  progs : Tbl (List Byte) := []
  deriving DecidableEq, Repr

/-- One Lorgus core: the live registers of the running context, the bundle being issued, the array, the trace ring. -/
structure Core where
  g : Tbl Word32 := []
  a : Tbl Addr48 := []
  v : Tbl Vec := []
  p : Tbl Pred := []
  vl : Byte := 0
  lc : Tbl Word32 := []
  ls : Tbl Addr48 := []
  le : Tbl Addr48 := []
  flags : Byte := 0
  sticky : Byte := 0
  pc : Addr48 := 0
  lastPc : Addr48 := 0
  branched : Bool := false
  bubble : Nat := 0
  jobMode : Bool := false
  cur : Nat := 0
  cycleNo : Nat := 0
  inflight : List Land := []
  bundle : List Syl := []
  run : BundleRun := {}
  held : Bool := false
  heldCycles : Nat := 0
  /-- count of the model's own clock at which the running context's slice began (R273) -/
  sliceStart : Nat := 0
  stop : Option StopReq := none
  split : Nat := 1
  splitPending : Option Nat := none
  groups : Tbl Group := []
  /-- number of the next pass (the model's own) -/
  passNo : Nat := 1
  /-- device addresses of the eight 4 KB lines of the tile cache, most recently used first (R108) -/
  tileCache : List Nat := []
  /-- fences of the array's quarters and the instants of their recent faults (R123) -/
  quarterFenced : BitVec 4 := 0
  quarterFaults : Tbl (List Nat) := []
  /-- loaded micro-programs of the two banks: key bank * 256 + ID (R166 to R170), each its bytes -/
  microprograms : Tbl (List Byte) := []
  tagCounter : Tbl Nat := []
  ctxs : Tbl Ctx := []
  traceSeq : BitVec 32 := 0
  traceHead : Nat := 0
  traceCount : Nat := 0
  traceMerged : Nat := 0
  traceLast : Option Nat := none
  traceDropPending : Nat := 0
  /-- tiles in the receive buffer of the chain port that the next member has not taken, with their numbers; CRC retries of
  the hop to it; failures of the present tile; since when a tile is held for it (R193 to R195) -/
  chainBuf : List (Nat × List Byte) := []
  chainRetries : Nat := 0
  chainBad : Nat := 0
  chainSince : Option Nat := none
  /-- the CHAIN value with which the port passes tiles through unchanged (R195) -/
  chainPort : Option (BitVec 32) := none
  runtimeImage : Nat := 0
  fenced : Bool := false
  /-- clock at which a context last left a slot of the core (R444) -/
  idleSince : Nat := 0
  /-- an in-service test slice runs on the core (R270) -/
  inTest : Bool := false
  /-- special-function sets, oldest first, and the bank that the set of a frozen Rally is being loaded into (R167, R168) -/
  sfSets : List SfSet := [{ bank := some 0 }]
  sfHeld : Option Nat := none
  deriving DecidableEq, Repr

/-- Core n after reset: every register zero, no context, the runtime at the start of its region of the core's memory. -/
def Core.reset (n : Nat) : Core := { pc := BitVec.ofNat 48 (n * Config.coreMemBytes) }

/-! ### Tallies, pools and queues -/

/-- A context waiting on TACQ (R289). -/
structure Waiter where
  core : Nat
  slot : Nat
  job : Nat
  since : Nat
  deriving DecidableEq, Repr

/-- A Tally (R287). `holder` is the JOB_ID, 0 when not held. -/
structure Tally where
  count : BitVec 32 := 0
  holder : Nat := 0
  abandoned : Bool := false
  waiters : List Waiter := []
  /-- time-base sample at which the hold began (R290) -/
  since : Nat := 0
  issued : Int := 0
  applied : Int := 0
  deriving DecidableEq, Repr

/-- A Tally pool in force (Table 12.6). `live` is false where no pool has the number. -/
structure TPool where
  live : Bool := false
  first : Nat := 0
  count : Nat := 0
  court : Nat := 0
  init : BitVec 32 := 0
  deriving DecidableEq, Repr

/-- A buffer pool in force (Table 8.6). -/
structure Pool where
  live : Bool := false
  base : Nat := 0
  bufSize : Nat := 0
  count : Nat := 0
  court : Nat := 0
  rank : Nat := 0
  freeQueue : Nat := 0
  stages : List Nat := []
  holdMap : BitVec 256 := 0
  deriving DecidableEq, Repr

/-- A handle queue of a Court (R188, R190): its pool and its handles, first in first. -/
structure HQueue where
  live : Bool := false
  pool : Nat := 0
  items : List Nat := []
  /-- jobs that put the items there, in the same order; 0 for the control complex -/
  from_ : List Nat := []
  deriving DecidableEq, Repr

/-! ### Jobs -/

/-- STATE of a job descriptor (Table 12.2). -/
inductive JobState where
  | waiting | ready | resident | running | blocked | swapped | completed | fenced
  deriving DecidableEq, Repr

/-- A job descriptor (Table 12.2), with what its slot order needs of it. A job without a deadline has `none`. -/
structure Job where
  live : Bool := false
  kind : Nat := 0
  court : Nat := 0
  prio : Nat := 0
  tb : Nat := 0
  model : Nat := 0
  carrier : Nat := 0
  chunk : Nat := 0
  epoch : Nat := 0
  release : Nat := 0
  deadline : Option Nat := none
  inQueues : BitVec 32 := 0xFFFFFFFF#32
  outQueues : BitVec 32 := 0xFFFFFFFF#32
  groups : Nat := 1
  core : Nat := 0xFF
  slot : Nat := 0
  state : JobState := .waiting
  window : Nat := 0
  orderTag : Nat := 0
  order : Nat := 0
  cause : Nat := 0
  lateCounted : Bool := false
  rerunOf : Nat := 0
  /-- declared cycles of the job's model (R274) -/
  cycles : Nat := 0
  /-- jobs whose completion this job's release waits for -/
  deps : List Nat := []
  /-- Tc count of the release on the job's time base -/
  releasedAt : Nat := 0
  /-- air position at which the fence took effect, and the event registers of the context then -/
  fenceAir : Nat := 0
  fencePc : Nat := 0
  fenceInfo : Nat := 0
  /-- symbol of the slot, first DMRS symbol of the occasion, PRBs of the chunk -/
  sym : Nat := 0
  occ : Nat := 0
  nprb : Nat := 0
  /-- first PRB of the chunk -/
  prb0 : Nat := 0
  /-- user, codeword and code block of a coding job -/
  user : Nat := 0
  cw : Nat := 0
  blk : Nat := 0
  /-- declared cycles of the Breeze receiver, and whether it is the one that runs (R210, R211) -/
  costB : Nat := 0
  breeze : Bool := false
  /-- interface classes of the resolved model's input and output (R208) -/
  inClass : Nat := 1
  outClass : Nat := 1
  /-- the completion event has happened (R31), at this Tc count of the job's time base -/
  done : Bool := false
  doneAt : Nat := 0
  /-- a coding job that has entered its engine kind's queue (R226) -/
  queued : Bool := false
  /-- a work unit that a fault gave back to the head of its queue (R241) -/
  front : Bool := false
  /-- fenced and not re-run: its outputs enter as zeros -/
  lost : Bool := false
  /-- antenna ports of a UL_FRONT or DL_TD whose transform has not been dispatched; none before the first (R202, R257) -/
  ports : Option (List Nat) := none
  deriving DecidableEq, Repr

/-- A context that has been swapped out (R278): its core, its Bench page and its records. -/
structure Swapped where
  core : Nat
  page : Nat
  ctx : Ctx
  deriving DecidableEq, Repr

/-! ### Air time -/

/-- STATE of a time base (Table 2.4). -/
inductive TbState where
  | disabled | freerun | acquiring | freqLocked | locked | holdover
  deriving DecidableEq, Repr

/-- A PTP master whose Announce messages are heard (R37): its port identity, the port or unicast address it is heard on, the values that the
best master clock algorithm compares, most significant first, its clock class, the logarithm of its announce interval, and the model-clock count
of its last Announce. -/
structure PtpMaster where
  source : List Byte := []
  port : Nat := 0
  addr : List Byte := []
  rank : List Byte := []
  clockClass : Nat := 0
  interval : Int := 0
  seen : Nat := 0
  deriving DecidableEq, Repr

/-- A time base (R25 to R44): its Tc count since the start of AIRPOS period 0 of its epoch. -/
structure TimeBase where
  enabled : Bool := false
  tc : Nat := 0
  state : TbState := .disabled
  /-- the fallback source is in use; the sources that are qualified, each with its offset from the time base, 0.25 ns units -/
  onFallback : Bool := false
  prim : Option Int := none
  fb : Option Int := none
  /-- a qualified source, the primary or the fallback as `onFallback` says, is in use -/
  inUse : Bool := false
  /-- consecutive updates that count toward the next state, and those that count against LOCKED -/
  good : Nat := 0
  bad : Nat := 0
  /-- Tc that are still to be slewed, and the slew's fraction in 10^-9 Tc -/
  slew : Int := 0
  slewAcc : Nat := 0
  /-- Tc gained so far by the rate correction RATE_ADJ, in units of 2^-48 Tc, below one Tc (R44) -/
  rateAcc : Nat := 0
  /-- the phase step that waits to be applied, Tc -/
  step : Int := 0
  /-- number of the first symbol whose boundary the symbol-count Tally has not counted (R30) -/
  nextSym : Nat := 0
  /-- timestamp of the last PPS_IN edge on this time base, 0.25 ns units of TAI -/
  stamp : Int := 0
  /-- PTP: the masters heard, the model-clock count of the last Sync of the selected one, and the last message timestamps t1 to t3, 0.25 ns
  units of TAI -/
  masters : List PtpMaster := []
  lastSync : Option Nat := none
  t1 : Int := 0
  t2 : Int := 0
  t3 : Int := 0
  ptpSeq : Nat := 0
  deriving DecidableEq, Repr

/-- What a timed pin drives (R45, R48). -/
inductive Ball where
  | highZ | low | high
  deriving DecidableEq, Repr

/-- A timed pin (R45 to R49). `active` is the program's output, `want` the level of the program at the last edge that was looked
at, `until_` the scheduled deasserting edge of a program that has been replaced: its time base and count. -/
structure Pin where
  active : Bool := false
  want : Bool := false
  until_ : Option (Nat × Int) := none
  forced : Bool := false
  /-- the pin's MODE has left OFF since reset -/
  used : Bool := false
  ball : Ball := .highZ
  /-- Tc counts of the program's Serve time and START on its time base -/
  served : Nat := 0
  start : Nat := 0
  lastCapture : Option Nat := none
  deriving DecidableEq, Repr

/-- PPS_IN, the time-of-day label of its last edge, PPS_OUT and SYNCE_CLK_OUT (R39, R40). -/
structure Pps where
  edge : Option Nat := none
  label : Option Nat := none
  out : Bool := false
  /-- the TAI second, by PPS_OUT_TB, that PPS_OUT marked last -/
  second : Option Int := none
  /-- fronthaul lanes that have signal lock, and what SYNCE_CLK_OUT drives: 0 low, 1 25 MHz, 2 156.25 MHz, and the lane it comes from -/
  locked : Nat := 0
  synce : Nat := 0
  synceLane : Nat := 0
  deriving DecidableEq, Repr

/-! ### Slot orders (R12 to R20, R199 to R219, R246 to R263, R367, R368) -/

/-- A code block of a codeword (R228, R235). `result`: 0 none yet, 1 CRC passed, 2 CRC failed, 3 not decoded. -/
structure CodeBlock where
  job : Nat := 0
  handle : Option (Nat × Nat) := none
  result : Nat := 0
  cause : Nat := 0
  iters : Nat := 0
  /-- the bits the decoder gave, most significant bit of the first byte first -/
  bits : List Byte := []
  /-- the block was decoded in an earlier transmission and its kept bits stand (R239) -/
  kept : Bool := false
  deriving DecidableEq, Repr

/-- A codeword of an order. `status` is that of Table 9.7 or 11.7 once `ended`. -/
structure Codeword where
  user : Nat
  cw : Nat
  blocks : List CodeBlock := []
  status : Nat := 3
  cause : Nat := 0
  ended : Bool := false
  /-- the HARQ process has been looked up for this transmission, and decodes without storage (R238) -/
  begun : Bool := false
  nostore : Bool := false
  /-- DL: its bits are entered as zero from a late encode on (R253) -/
  zeroed : Bool := false
  deriving DecidableEq, Repr

/-- What the receivers of a user have found so far (R204, R219): the XA96 sums of the noise variances, of the squared errors and of the squared
magnitudes, the latest measured offsets and pass probability, whether its latest UL_DETECT ran the Breeze receiver, UCI_STATUS and the
decoded fields. -/
structure Meas where
  noise : XAcc := { wide := true }
  error : XAcc := { wide := true }
  power : XAcc := { wide := true }
  freq : Option (BitVec 32) := none
  timing : Option (BitVec 32) := none
  prob : Option (BitVec 32) := none
  breeze : Bool := false
  uci : BitVec 3 := 0
  uciBits : List (List Byte) := []
  deriving DecidableEq, Repr

/-- The value that an entry gives a layer slot at a subcarrier, as CI8 parts (R249). -/
structure LayerVal where
  user : Nat
  k : Nat
  layer : Nat
  re : Int
  im : Int
  deriving DecidableEq, Repr

/-- Layer values of one chunk and symbol, of the entries homed on one chip (R256). -/
structure ChunkVals where
  sym : Nat
  chunk : Nat
  home : Nat
  vals : List LayerVal
  deriving DecidableEq, Repr

/-- An accepted order, until its record is written. `sample` is its acceptance sample on its time base. -/
structure Order where
  live : Bool := false
  kind : Nat := 0
  func : Nat := 0
  ring : Nat := 0
  body : List Byte := []
  sample : Nat := 0
  words : List Codeword := []
  jobs : List Nat := []
  /-- (release key, epoch) of the earliest and the latest released job -/
  first : Option (Nat × Nat) := none
  last : Option (Nat × Nat) := none
  /-- LATE_SYM or NOT_SENT_SYM -/
  symbols : BitVec 14 := 0
  clamps : Nat := 0
  /-- per user: stage jobs run with a learned model, and with a Breeze receiver -/
  learned : Tbl Nat := []
  breeze : Tbl Nat := []
  meas : Tbl Meas := []
  /-- users whose home chip this chip is, in a system of more than one chip; none: every user (R20) -/
  home : Option (List Nat) := none
  /-- samples collected of a user, each with its resource element's index in the codeword, and the users whose samples are kept (R220) -/
  samples : Tbl (List (Nat × List Byte)) := []
  adapt : List Nat := []
  /-- entries that are refused with CAPACITY (R212, R255), and entries with READ_FAIL (R262) -/
  capacity : List Nat := []
  readFail : List Nat := []
  /-- DL: entries whose transport block and precoder have been read -/
  ready : List Nat := []
  /-- what the reads of host memory returned, by entry -/
  data : Tbl (List Byte) := []
  /-- precoder weights of an entry, as read (R252) -/
  weights : Tbl (List Byte) := []
  /-- layer values that have come from the entries' home chips (R256) -/
  layers : List ChunkVals := []
  /-- C-plane messages that have left (R366 to R368) -/
  sent : Nat := 0
  /-- a C-plane order: who has messages still to send, bit 31 this chip, bit c member c; 0 on a chip to which the order was forwarded (R368) -/
  awaits : Nat := 0
  /-- symbols whose transmit window has opened -/
  tried : BitVec 14 := 0
  deriving DecidableEq, Repr

/-! ### Coding engines and HARQ (R225 to R244) -/

/-- A coding engine: 0 to 7 LDPC decoders, 8 to 11 encoders, 12 and 13 polar (Table 17.1). -/
structure CodingEngine where
  state : Nat := 0
  job : Nat := 0
  cap : Nat := 0
  /-- clock of the last dispatch to it (R444) -/
  since : Nat := 0
  faults : List Nat := []
  deriving DecidableEq, Repr

/-- A HARQ process (R237 to R239). `owned` lists, per code block, the soft-buffer blocks and the kept bits. -/
structure Harq where
  carrier : Nat
  rnti : Nat
  proc : Nat
  cw : Nat
  ndi : Nat := 0
  passes : Nat := 0
  last : Int := 0
  /-- Tc count of the last transmission on the carrier's time base (R239) -/
  lastTc : Nat := 0
  owned : List (List Nat × Option (List Byte)) := []
  /-- highest buffer position that holds a value, and whether values are stored, per code block -/
  high : List (Option Nat) := []
  deriving DecidableEq, Repr

/-- A transform engine (R202, R203, R257 to R259). `job` is the job it works for. -/
structure TransformEngine where
  state : Nat := 0
  job : Nat := 0
  port : Nat := 0
  since : Nat := 0
  faults : List Nat := []
  deriving DecidableEq, Repr

/-! ### The library and the Bench (R280 to R286) -/

/-- A library model. `stage` is the kind it serves (2 UL_CHEST, 3 UL_WEIGHTS, 4 UL_DETECT); `points` lists the largest
(ports, layers) it declares with its cycles per subcarrier; `adaptable` that it declares adaptable layers. -/
structure LibModel where
  live : Bool := false
  pages : Nat := 0
  damaged : Bool := false
  signed : Bool := false
  adapted : Bool := false
  version : Nat := 0
  bytes : Nat := 0
  stage : Nat := 0
  points : List (Nat × Nat × Nat) := []
  inClass : Nat := 1
  outClass : Nat := 1
  adaptable : Bool := false
  /-- its stages take their weights from a Pass chain (R193) -/
  chained : Bool := false
  data : List Byte := []
  deriving DecidableEq, Repr

/-- An instant of a time base, as its unreduced count. -/
structure Instant where
  tb : Nat := 0
  count : Int := 0
  deriving DecidableEq, Repr

/-- A model that is resident on the Bench. It is usable by jobs released at or after `usableFrom`. -/
structure BenchModel where
  live : Bool := false
  pages : List Nat := []
  usedAt : Instant := {}
  usableFrom : Option Instant := none
  rally : Nat := 0
  deriving DecidableEq, Repr

/-- A Bench load, in request order (R283). `due` is its scheduled end on the load timeline's time base, `pages` the pages it fills. -/
structure Load where
  model : Nat
  pages : List Nat
  done : Nat := 0
  due : Instant
  rally : Nat := 0
  demand : Bool := false
  mirrored : Bool := false
  deriving DecidableEq, Repr

/-! ### Host rings (R377 to R384) -/

/-- A ring of a function. `samples` holds, per doorbell that announced orders, the producer index and the eight time-base
counts at its receipt (R379). `held` are result records that wait for space (R382). -/
structure Ring where
  base : Nat := 0
  size : Nat := 0
  sized : Bool := false
  ctrl : Nat := 0
  host : BitVec 32 := 0
  dev : BitVec 32 := 0
  samples : List (BitVec 32 × List Nat) := []
  held : List (List Byte) := []
  deriving DecidableEq, Repr

/-- A PCIe function: its BAR0 registers and its MSI-X table (R377, R383). -/
structure Func where
  statusAddr : Nat := 0
  rings : Tbl Ring := []
  /-- MSI-X: vectors not masked, pending bits, and the message address and data of each vector -/
  unmasked : BitVec 8 := 0
  pend : BitVec 8 := 0
  vecAddr : Tbl Nat := []
  vecData : Tbl Nat := []
  deriving DecidableEq, Repr

/-! ### The audit (R196, R197) -/

/-- An imbalance: quantity (0 handles, 1 credits, 2 Megorlink, 3 Tally updates, 4 Bench pages, 5 HARQ blocks) and object. -/
structure Imbalance where
  quantity : Nat
  object : Nat
  deriving DecidableEq, Repr

/-- The audit: the Tc count of the last audit edge, what it found, and the remedies that wait with their boundary. -/
structure Audit where
  /-- the last audit edge, and the books whose remedy is due: instants of a time base -/
  last : Option (Nat × Nat) := none
  found : List Imbalance := []
  due : List (Imbalance × Nat × Nat) := []
  deriving DecidableEq, Repr

/-! ### Fronthaul (R46, R366, R371) -/

/-- A run of symbols of an accepted order that moves GATE pins (R46); instants are unreduced counts of the carrier's time base. -/
structure Burst where
  carrier : Nat
  tb : Nat
  dl : Bool
  start : Int
  stop : Int
  deriving DecidableEq, Repr

/-- C-plane messages that wait for their departure: one per local port from `next` on (R366, R367). `body` is the application
part of the message, `stype` its section type. -/
structure CRun where
  order : Nat
  carrier : Nat
  dl : Bool
  stype : Nat
  earliest : Int
  next : Nat := 0
  body : List Byte
  deriving DecidableEq, Repr

/-! ### Fences, Rallies, status -/

/-- A fence that is present (R390, R392). `court` is 0xFF for none. -/
structure Fence where
  grain : Nat
  cause : Nat
  object : Nat
  seq : Nat
  court : Nat := 0xFF
  job : Nat := 0
  deriving DecidableEq, Repr

/-- STATE of a Rally (Table 14.8). -/
inductive RallyState where
  | opened | committed | frozen | served | aborted | rolledBack | lost
  deriving DecidableEq, Repr

/-- A write staged in a Rally: the object's key, and its value as a number or as bytes. -/
structure Staged where
  key : Nat
  value : Nat
  bytes : List Byte
  isBlob : Bool
  deriving DecidableEq, Repr

/-- A Rally (R335 to R343). `scope` is the Court, or 16 for the device. -/
structure Rally where
  id : Nat := 0
  scope : Nat := 0
  state : RallyState := .opened
  cause : Nat := 0
  tb : Nat := 0
  serve : Nat := 0
  spans : Bool := false
  chan : Nat := 0
  staged : List Staged := []
  pages : Nat := 0
  epoch : Nat := 0
  loadEnd : Nat := 0
  loadRefused : Bool := false
  lastUse : Nat := 0
  commitNo : Nat := 0
  /-- Rallies whose values it was checked against (R336, R340) -/
  deps : List Nat := []
  /-- of a Rally that spans chips: participants, those that voted yes, the decision, those that acknowledged it, this chip's own vote, the
  chip that coordinates, and the clock of the last decision sent (R314, R315) -/
  parts : Nat := 0
  yes : Nat := 0
  noes : Nat := 0
  decision : Option Bool := none
  acks : Nat := 0
  vote : Option Bool := none
  coord : Nat := 0
  sentAt : Nat := 0
  /-- the Serve time on the model's own clock, once committed -/
  serveAt : Int := 0
  deriving DecidableEq, Repr

/-! ### Whistle and Replay (R402 to R408) -/

/-- An entry of the Replay record: KIND, core cycles since S0, payload (Table 17.8). -/
structure ReplayEntry where
  kind : Nat
  stamp : Nat
  payload : List Byte
  deriving DecidableEq, Repr

/-- The start snapshot of a record (R405). `lib` lists model IDs with their versions, `tagCtrs` the tag counters of each core. -/
structure Snapshot where
  obj : Tbl Nat := []
  blob : Tbl (List Byte) := []
  versions : List Nat := []
  lib : List (Nat × Nat) := []
  tallies : Tbl Tally := []
  queues : Tbl HQueue := []
  heldBy : Tbl Nat := []
  harq : List Harq := []
  soft : List Host.Cell := []
  tagCtrs : Tbl (Tbl Nat) := []
  tbs : Tbl TimeBase := []
  deriving DecidableEq, Repr

/-- The record, the entry that injection presents next, the sequence number, and the cycle count at S0 or S1. -/
structure Replay where
  entries : List ReplayEntry := []
  next : Nat := 0
  seq : Nat := 0
  start : Nat := 0
  iqPos : Nat := 0
  /-- the model's clock at S0 or S1 -/
  s0 : Nat := 0
  snap : Option Snapshot := none
  deriving DecidableEq, Repr

/-- RWC values of a Court's earlier epoch, kept while an uncompleted job carries it (R23). -/
structure Past where
  court : Nat
  epoch : Nat
  obj : Tbl Nat := []
  blob : Tbl (List Byte) := []
  deriving DecidableEq, Repr

/-- A Whistle: the Tc count of W and of the resume boundary on WHISTLE_TB, and the model's clock at W. -/
structure Whistle where
  /-- the time base of the edges, WHISTLE_TB when it was armed -/
  tb : Nat := 0
  edge : Option Nat := none
  resume : Option Nat := none
  since : Nat := 0
  /-- members whose word that the edge meets R358 there is awaited (R402) -/
  asked : Nat := 0
  deriving DecidableEq, Repr

/-! ### Messages that wait in a transmit window (R371) -/

/-- Messages of a complete symbol that a fronthaul port could not send yet, oldest first. -/
structure TxHeld where
  carrier : Nat
  sym : Nat
  port : Nat
  msgs : List (List Byte)
  deriving DecidableEq, Repr

/-! ### Object access (R320 to R334) -/

/-- A reply that waits for work outside the control complex: a relay to a chip (R313), a BOOT write to the flash (R389), a model package that
is verified (R453), the other members' word on a Whistle (R402). -/
inductive WaitKind where
  | relay (chip : Nat) (rally : Nat)
  | boot (key : Nat) (value : List Byte)
  | library
  | whistle
  deriving DecidableEq, Repr

/-- A request whose reply waits: its channel, header, and where the reply goes. -/
structure OapWait where
  chan : Nat
  header : List Byte
  reqIndex : Nat
  cap : Nat
  replyAddr : Nat
  kind : WaitKind
  since : Nat
  /-- the channel was reset meanwhile: the work completes, the reply is discarded (R434) -/
  dead : Bool := false
  deriving DecidableEq, Repr

/-- An OAP channel (R320): the function whose rights it has, the SEQ and reply of the last accepted request, the block-transfer staging,
the heartbeat subscription with the TAI instant of its last reply, and the channel's last use. `largest` is its largest payload. -/
structure Chan where
  live : Bool := false
  func : Nat := 0
  mgmt : Bool := false
  largest : Nat := 4096
  addr : Nat := 0
  seq : Option Nat := none
  cache : List Byte := []
  staging : Option (Nat × List Byte) := none
  rate : Nat := 0
  tb : Nat := 0
  subSeq : Nat := 0
  beat : Option (Int × Nat) := none
  lastUse : Nat := 0
  deriving DecidableEq, Repr

/-! ### Megorlink (R293 to R319) -/

/-- A DATA flit that waits for its transmission, or for its acknowledgement: its virtual channel, packet kind, chips and payload. -/
structure TxFlit where
  vc : Nat
  kind : Nat
  src : Nat
  dst : Nat
  first : Bool
  last : Bool
  payload : List Byte
  deriving DecidableEq, Repr

/-- A Megorlink port: link sequence numbers, replay buffer, credits and freed counts per virtual channel, the instants of its retries and
retrains, and the start of the training in progress. -/
structure MglPort where
  nextTx : Nat := 0
  replay : List (Nat × TxFlit) := []
  /-- flits that wait for a credit or for the port, and the position in the rotation of R296 -/
  waiting : List TxFlit := []
  rot : Nat := 0
  /-- chip number that the peer has sent in training -/
  peer : Nat := 0xFF
  expect : Nat := 0
  nakSent : Bool := false
  credits : List Nat := [32, 96, 64, 64]
  /-- flits freed since the last report, per virtual channel -/
  toReturn : List Nat := [0, 0, 0, 0]
  retries : List Nat := []
  trains : List Nat := []
  since : Option Nat := none
  deriving DecidableEq, Repr

/-- A reduction unit this chip holds: its key (carrier, symbol count, chunk, job kind), its home, the chips that have contributed and the sum
of their complex partial sums (R308). `via` lists the neighbours whose units have come. -/
structure RedHeld where
  carrier : Nat
  sym : Nat
  chunk : Nat
  kind : Nat
  home : Nat
  mask : Nat := 0
  sums : List (Int × Int) := []
  via : List Nat := []
  /-- the members, this chip's children and its next hop in the home's tree when the unit was first held -/
  members : Nat := 0
  kids : List Nat := []
  up : Nat := 0xFF
  /-- the home has accepted it -/
  done : Bool := false
  deriving DecidableEq, Repr

/-- A chip of a route tree: its parent toward the root, and its hops. -/
structure TreeNode where
  chip : Nat
  parent : Nat
  hops : Nat
  deriving DecidableEq, Repr

/-- The route tree of a destination chip over the members of a membership, as the Serve time that made it found the trunks (R305). -/
structure RouteTree where
  members : Nat
  root : Nat
  nodes : List TreeNode
  deriving DecidableEq, Repr

/-- What a chip keeps of the other members and of the link. -/
structure Mgl where
  ports : Tbl MglPort := []
  /-- end-to-end sequence numbers by chip * 4 + virtual channel, sent and expected (R294) -/
  e2eTx : Tbl Nat := []
  e2eRx : Tbl Nat := []
  /-- clock at which each chip was last heard, plus one -/
  heard : Tbl Nat := []
  units : List RedHeld := []
  /-- the trees of the memberships served, the newest first -/
  trees : List RouteTree := []
  /-- the port after the last that a trunk was dealt, by neighbour (R294) -/
  dealt : Tbl Nat := []
  /-- packets delivered out of their end-to-end order: stream, sequence number, kind, contents -/
  early : List (Nat × Nat × Nat × List Byte) := []
  /-- payloads delivered of packets whose last flit has not come, by port * 4 + virtual channel -/
  partials : Tbl (List Byte) := []
  lastBeat : Nat := 0
  kickoff : Option Nat := none
  /-- SYSCYCLE at the Kickoff -/
  kickBase : Nat := 0
  deriving DecidableEq, Repr

/-! ### Firmware, security and self-test (R435 to R456) -/

/-- A firmware slot of the boot flash: its state of FW_SLOTS, its slot header as written, the bytes written, and SLOT_SEQ. -/
structure FwSlot where
  state : Nat := 0
  header : List Byte := []
  written : Nat := 0
  seq : Nat := 0
  deriving DecidableEq, Repr

/-- An entry of the self-test record (Table 19.3); `current` that it needs no start-up test; the in-service slices passed in the sequence in
progress and the in-service slice that runs (R440 to R446). -/
structure TestUnit where
  result : Nat := 0
  passed : Nat := 0
  failing : Nat := 0
  boot : Nat := 0
  tai : Nat := 0
  tj : Nat := 0
  current : Bool := false
  sequence : Nat := 0
  /-- slices of the start-up test that have ended, bit s - 1 for slice s -/
  ended : Nat := 0
  slice : Option Nat := none
  deriving DecidableEq, Repr

/-- What boot flash, fuses and the security engine hold, and where start-up, activation and shut-down stand. -/
structure Firm where
  slot0 : FwSlot := {}
  slot1 : FwSlot := {}
  hseq : Nat := 0
  bootCount : Nat := 0
  /-- stored BOOT values, in directory order (R348) -/
  stored : Tbl (Option (List Byte)) := []
  ctrlFuses : Nat := 0
  rtFuses : Nat := 0
  /-- LAST of FW_WRITE received and verification not finished -/
  verifying : Bool := false
  /-- the slot a served activation runs, its Serve time on the model's own clock, and the cores that have switched -/
  activated : Option (Nat × Nat) := none
  switched : BitVec 64 := 0
  units : Tbl TestUnit := []
  rseq : Nat := 0
  /-- an excursion marker names the record's RSEQ; one was written in this run -/
  marked : Bool := false
  /-- clock at which each step of Table 19.1 was reached, plus one -/
  steps : Tbl Nat := []
  /-- records that the archive in xSPI RAM has taken (R397) -/
  archived : Nat := 0
  attest : Option (List Byte × List Byte) := none
  shutStart : Nat := 0
  symWithheld : List Nat := []
  harqWithheld : List Nat := []
  /-- straps CHIP_ID0 to CHIP_ID4 as sampled at the release of reset (R302, R432) -/
  straps : Nat := 0
  /-- sequence number of the copy of the configuration area in force (R389) -/
  cfgSeq : Nat := 0
  deriving DecidableEq, Repr

/-! ### Power, clocks and temperature (R409 to R425) -/

/-- A change of F in progress: its target, the planned switch edge, the end of its relock, and whether voltage and relock are done. -/
structure FreqMove where
  target : Nat
  voltage : Bool
  voltageSince : Nat
  relockFrom : Option Nat
  relocked : Bool := false
  deferred : Bool := false
  deriving DecidableEq, Repr

/-- The power controller. Instants are counts on the model's own clock. -/
structure Power where
  /-- last readings of the six rails in mW, the clock of each rail's last valid reading, and rounds in a row with every rail valid -/
  pout : List Nat := [0, 0, 0, 0, 0, 0]
  validAt : List Nat := [0, 0, 0, 0, 0, 0]
  goodRounds : Nat := 0
  estSum : Nat := 0
  estCount : Nat := 0
  overSince : Option Nat := none
  withinSince : Option Nat := none
  ocWarning : Bool := false
  ocClearAt : Nat := 0
  ocStepAt : Nat := 0
  alert : Option Nat := none
  thermal : Bool := false
  /-- what the limiters permitted at the last decision edge, MHz -/
  permitPower : Nat := 1100
  permitCurrent : Nat := 1100
  permitThermal : Nat := 1100
  move : Option FreqMove := none
  avsOk : Bool := true
  held : Bool := false
  lastEdge : Option Nat := none
  /-- domains being stretched, each with the clock of its firing plus one; the start of the GUST period, and the last clear -/
  gusts : Tbl Nat := []
  gustFrom : Option Nat := none
  gustClear : Option Nat := none
  longGust : Bool := false
  /-- the start of each reason in force, and Tc accumulated over whole periods -/
  since : Tbl Nat := []
  acc : Tbl Nat := []
  tripped : Bool := false
  /-- mean of the activity estimates of the last round, mW -/
  estMean : Nat := 0
  /-- cycles that Gusts have cost a core cluster, in units of 1 / 196,608 of a cycle -/
  lost : Tbl Nat := []
  coding : Nat := 1000
  deriving DecidableEq, Repr

/-! ### Trace drain and debug access (R462 to R467) -/

/-- A register set of the debug access port (Table 20.4). -/
structure DbgSet where
  addr : Nat := 0
  data : Nat := 0
  ctrl : Nat := 0
  status : Nat := 0
  deriving DecidableEq, Repr

/-- The instruction register of the TAP (R466). -/
inductive JtagInstr where
  | bypass | samplePreload | extest | idcode | clamp | extestPulse | extestTrain | dbgacc
  deriving DecidableEq, Repr

/-- Observation traffic of a network-on-chip domain: the present window of 1,024 cycles, the flit slots it has used of it, and the core
of the cluster that was served last (R464). -/
structure ObsShare where
  window : Nat := 0
  used : Nat := 0
  last : Nat := 7
  deriving DecidableEq, Repr

/-- Debug access, the TAP, the producer byte count of the host trace ring, and the clock of the last COUNT snapshot. -/
structure Debug where
  set0 : DbgSet := {}
  set1 : DbgSet := {}
  instr : JtagInstr := .idcode
  boundary : List Bool := []
  producer : Nat := 0
  snapshot : Nat := 0
  /-- by network-on-chip domain (R464) -/
  obs : Tbl ObsShare := []
  deriving DecidableEq, Repr

/-! ### The whole chip -/

/-- Something that has left the chip, or a record it has handed to the outside, oldest first in `State.out`. -/
inductive Out where
  | data (kind : Nat) (dest : Nat) (bytes : List Byte)
  deriving DecidableEq, Repr

/-- The chip. -/
structure State where
  /-- commands that wait, first in first out -/
  pending : List Instr := []
  /-- what has left the chip, oldest first (the model's own record) -/
  out : List Out := []
  /-- number of free values used so far (the model's own field; log entry 3) -/
  freeCtr : Nat := 0
  /-- Tc that have passed since reset (the model's own clock) -/
  clock : Nat := 0
  /-- Tc of air time of the audit time base that the watchdog timers have counted since reset: none while a cut is taken or held (R192, R402) -/
  auditAir : Nat := 0
  /-- bytes of every on-chip and xSPI memory by device-physical address (R5) -/
  mem : List Host.Cell := []
  /-- 6-bit block tag of each 8-byte word, by address / 8 (R133) -/
  tags : Tbl (BitVec 6) := []
  cores : Tbl Core := []
  tallies : Tbl Tally := []
  tpools : Tbl TPool := []
  pools : Tbl Pool := []
  /-- handle queues by Court * 256 + queue number -/
  queues : Tbl HQueue := []
  /-- holder of a handle, by pool * 1024 + handle: JOB_ID, or 0 where a queue holds it -/
  heldBy : Tbl Nat := []
  /-- job that put a handle in the queue it was last taken from, by the same key; 0 none (R393) -/
  handleFrom : Tbl Nat := []
  /-- line credits in use per destination port (R176) -/
  credits : Tbl Nat := []
  jobs : Tbl Job := []
  nextJob : Nat := 1
  /-- swapped-out contexts (R276 to R278) -/
  swapped : List Swapped := []
  /-- accepted orders whose record is not written, by a number of the model's own -/
  orders : Tbl Order := []
  nextOrder : Nat := 1
  coding : Tbl CodingEngine := []
  harq : List Harq := []
  transforms : Tbl TransformEngine := []
  lib : Tbl LibModel := []
  bench : Tbl BenchModel := []
  loads : List Load := []
  funcs : Tbl Func := []
  bursts : List Burst := []
  cplane : List CRun := []
  /-- ecpriSeqId counters by eAxC, direction and plane (Table 16.2) -/
  ecpriSeq : Tbl Nat := []
  txHeld : List TxHeld := []
  /-- slots that contributed samples to the present epoch, and bytes of the sample store in use, by Court (R220, R221) -/
  adaptSlots : Tbl Nat := []
  adaptUsed : Tbl Nat := []
  audit : Audit := {}
  whistle : Whistle := {}
  replay : Replay := {}
  /-- core cycles since reset, in units of 1 / 196,608 of a cycle; stretched cycles count once (R405) -/
  cycles : Nat := 0
  /-- owner of each physical Bench page: 0 free, 0x10000 + model ID, 0x20000 swap, 0x30000 withheld (R280, R441) -/
  benchPages : Tbl Nat := []
  /-- fenced jobs whose disposal is not complete, oldest first (R393) -/
  fenceQueue : List Nat := []
  /-- scalar objects of the dictionary in force, by index * 256 + subindex -/
  obj : Tbl Nat := []
  /-- STR and BLOB objects in force -/
  blob : Tbl (List Byte) := []
  tbs : Tbl TimeBase := []
  pins : Tbl Pin := []
  pps : Pps := {}
  /-- fences present, oldest first (R392) -/
  fences : List Fence := []
  /-- Rallies the chip holds: open, committed, frozen, and the ended ones of HISTORY -/
  rallies : List Rally := []
  /-- service state as DSW SVC shows it without fences: 0 starting, 1 Breeze, 2 full (R329) -/
  svc : Nat := 0
  /-- no core issues: a Whistle cut is being taken or held, or the core clocks are stopped (R402, R425) -/
  coresStopped : Bool := false
  /-- power model mismatch and thermal warning present, fixed-frequency breach not acknowledged (R329) -/
  pwrm : Bool := false
  therm : Bool := false
  fixedBreach : Bool := false
  chip : Nat := 0
  /-- OAP channels: 0 to 15 PCIe functions, 16 to 23 management, 32 + 64 * chip + n relayed (R320) -/
  chans : Tbl Chan := []
  waits : List OapWait := []
  /-- requests that have reached a channel whose earlier request is not complete, in arrival order, with the channel's key, and whether an
  injected record brought them (R320, Table 14.5) -/
  queued : List (Nat × OapReq × Bool) := []
  /-- IPv4 address that DHCP has given the management port (R387) -/
  mgmtIp : Option Nat := none
  /-- Rallies begun since reset (R335) -/
  begun : Nat := 0
  commits : Nat := 0
  mgl : Mgl := {}
  firm : Firm := {}
  power : Power := {}
  dbg : Debug := {}
  /-- by Court, the configuration epoch from which UL_DECODE jobs use the present LDPC table set (R233) -/
  ldpcEpoch : Tbl Nat := []
  /-- clock counts of uncorrectable xSPI RAM words within the last second, by channel, and of fronthaul training failures, by port -/
  xspiErrors : Tbl (List Nat) := []
  fhFails : Tbl (List Nat) := []
  /-- what RWC objects held in epochs before the present one, while a job of that epoch lives (R23) -/
  past : List Past := []
  deriving DecidableEq, Repr

/-- The chip right after reset: TB0 is enabled (Table 2.7) and runs free; what every other register holds is its default (R10). -/
def State.reset : State := { tbs := [(0, { enabled := true, state := .freerun })] }

end Sys2Proof.Machine
end

