-- ==== Sys2Proof/Machine/Time.lean ====
section
/-! DEFINITION. AIRPOS arithmetic (R26 to R29, R35, R486, R487). Tc counts are naturals below one AIRPOS period. -/

namespace Sys2Proof.Machine

open Sys2Proof

/-- One AIRPOS period in Tc (chapter "Air Time"). -/
def airPeriod : Nat := 1319413953331200

/-- Field access of an AIRPOS value. -/
def apExt (p : Nat) : Nat := p / 2 ^ 48 % 65536
def apSfn (p : Nat) : Nat := p / 2 ^ 38 % 1024
def apSf (p : Nat) : Nat := p / 2 ^ 34 % 16
def apSlot (p : Nat) : Nat := p / 2 ^ 28 % 64
def apSym (p : Nat) : Nat := p / 2 ^ 24 % 16
def apOff (p : Nat) : Nat := p % 2 ^ 24

/-- Symbols of a slot (R26). -/
def symsPerSlot (ecp : Bool) : Nat := if ecp then 12 else 14

/-- Length of an ordinary symbol in Tc (Table 2.1). -/
def symBase (mu : Nat) (ecp : Bool) : Nat := if ecp then 40960 else 140288 / 2 ^ mu

/-- Start of symbol l of a subframe, in Tc from the subframe's start (R26, R29). -/
def symStart (mu : Nat) (ecp : Bool) (l : Nat) : Nat :=
  if ecp then l * 40960
  else
    let n := 7 * 2 ^ mu
    l / n * 983040 + (if l % n = 0 then 0 else 1024 + l % n * symBase mu ecp)

/-- Length of symbol l of a subframe (R26). -/
def symLen (mu : Nat) (ecp : Bool) (l : Nat) : Nat :=
  if ecp then 40960 else if l % (7 * 2 ^ mu) = 0 then symBase mu ecp + 1024 else symBase mu ecp

/-- `airpos_to_tc` of R29. -/
def airposToTc (mu : Nat) (ecp : Bool) (p : Nat) : Nat :=
  ((apExt p * 1024 + apSfn p) * 10 + apSf p) * 1966080 + symStart mu ecp (apSlot p * symsPerSlot ecp + apSym p) + apOff p

/-- Symbol index within the subframe and offset of a Tc count within the subframe (R29). -/
def symOfTc (mu : Nat) (ecp : Bool) (r : Nat) : Nat × Nat :=
  if ecp then (r / 40960, r % 40960)
  else
    let base := symBase mu ecp
    let h := r / 983040
    let q := r % 983040
    if q < base + 1024 then (h * (7 * 2 ^ mu), q)
    else (h * (7 * 2 ^ mu) + (1 + (q - base - 1024) / base), (q - base - 1024) % base)

/-- `tc_to_airpos` of R29. -/
def tcToAirpos (mu : Nat) (ecp : Bool) (t0 : Nat) : Nat :=
  let t := t0 % airPeriod
  let frame := t / 19660800
  let sf := t % 19660800 / 1966080
  let lo := symOfTc mu ecp (t % 1966080)
  frame / 1024 * 2 ^ 48 + frame % 1024 * 2 ^ 38 + sf * 2 ^ 34
    + lo.1 / symsPerSlot ecp * 2 ^ 28 + lo.1 % symsPerSlot ecp * 2 ^ 24 + lo.2

/-- Canonical on the numerology (R27). -/
def airCanonical (mu : Nat) (ecp : Bool) (p : Nat) : Bool :=
  decide (p < 2 ^ 64) && decide (apSym p < symsPerSlot ecp) && decide (apSlot p < 2 ^ mu) && decide (apSf p < 10)
    && decide (apOff p < symLen mu ecp (apSlot p * symsPerSlot ecp + apSym p))

/-- The ranges that hold on every numerology (R27). -/
def airPlausible (p : Nat) : Bool :=
  decide (p < 2 ^ 64) && decide (apOff p < 141312) && decide (apSym p < 14) && decide (apSlot p < 64) && decide (apSf p < 10)

/-- The signed difference of b from a, modulo one period, in [-half, half) (R28). -/
def airDiff (a b : Nat) : Int :=
  let d : Nat := (b + airPeriod - a % airPeriod) % airPeriod
  if d < airPeriod / 2 then d else (d : Int) - airPeriod

/-- The Tc count of symbol number k counted from the period's start. -/
def symbolTc (mu : Nat) (ecp : Bool) (k : Nat) : Nat :=
  let per := symsPerSlot ecp * 2 ^ mu
  k / per * 1966080 + symStart mu ecp (k % per)

/-- The symbol number and offset of a Tc count. -/
def symbolOf (mu : Nat) (ecp : Bool) (t : Nat) : Nat × Nat :=
  let lo := symOfTc mu ecp (t % 1966080)
  (t / 1966080 * (symsPerSlot ecp * 2 ^ mu) + lo.1, lo.2)

/-- The Tc count of the first symbol boundary after t. -/
def nextBoundary (mu : Nat) (ecp : Bool) (t : Nat) : Nat := symbolTc mu ecp ((symbolOf mu ecp t).1 + 1)

/-- Whether t is a symbol boundary. -/
def isBoundary (mu : Nat) (ecp : Bool) (t : Nat) : Bool := (symbolOf mu ecp t).2 == 0

/-- The instant N symbols later (R486). -/
def symbolsLater (mu : Nat) (ecp : Bool) (n t : Nat) : Nat :=
  let ko := symbolOf mu ecp t
  symbolTc mu ecp (ko.1 + n) + ko.2

/-- The instant N symbols earlier (R486). -/
def symbolsEarlier (mu : Nat) (ecp : Bool) (n t : Nat) : Nat :=
  let ko := symbolOf mu ecp t
  symbolTc mu ecp (ko.1 - n) + ko.2

/-- Cycles at f MHz as Tc, rounded up (R487). -/
def cyclesToTc (cycles f : Nat) : Nat := (cycles * 196608 + (100 * f - 1)) / (100 * f)

/-- Microseconds as Tc: 1 µs is 1,966.08 Tc; rounded down, as a plain count. -/
def usToTc (us : Nat) : Nat := us * 196608 / 100

/-- The TAI of a Tc count without its frame offset, in units of 1 / `per` ns, `per` 1 or 4: the latest whole unit whose image under the
mapping of R35 is at or before the count. -/
def tcToTai (per : Int) (t : Int) : Int :=
  (t / 1966080000 + 315964819) * (per * 1000000000) + ((t % 1966080000 + 1) * (per * 100000) - 1) / 196608

/-- The air Tc of a TAI instant, seconds and nanoseconds, before the frame offset (R35). -/
def taiToTc (sec ns : Nat) : Int := ((sec : Int) - 315964819) * 1966080000 + (ns * 196608 / 100000 : Nat)

end Sys2Proof.Machine
end

