-- ==== Sys2Proof/Machine/Ops.lean ====
section
/-! DEFINITION. The named operations on tables, memories, registers and cores that every meaning uses. -/

namespace Sys2Proof.Machine

open Sys2Proof

/-! ### Sparse tables -/

/-- The value at a key; `d` where the table lists none. -/
def Tbl.get {α : Type} (d : α) : Tbl α → Nat → α
  | [], _ => d
  | (k, v) :: r, i => if k = i then v else Tbl.get d r i

/-- The table without the key. -/
def Tbl.erase {α : Type} (t : Tbl α) (k : Nat) : Tbl α := t.filter (fun e => decide (e.1 ≠ k))

/-- The entry put in key order. -/
def Tbl.insert {α : Type} (k : Nat) (v : α) : Tbl α → Tbl α
  | [] => [(k, v)]
  | (k', v') :: r => if k < k' then (k, v) :: (k', v') :: r else (k', v') :: Tbl.insert k v r

/-- Writes a key. Writing the value an absent key reads as removes the entry. -/
def Tbl.set {α : Type} [DecidableEq α] (d : α) (t : Tbl α) (k : Nat) (v : α) : Tbl α :=
  if v = d then Tbl.erase t k else Tbl.insert k v (Tbl.erase t k)

/-- The canonical form: keys strictly rising, no entry equal to the default. -/
def Tbl.wf {α : Type} [DecidableEq α] (d : α) : Tbl α → Bool
  | [] => true
  | [(_, v)] => decide (v ≠ d)
  | (k, v) :: (k', v') :: r => decide (k < k') && decide (v ≠ d) && Tbl.wf d ((k', v') :: r)

/-- Applies f at a key. -/
def Tbl.upd {α : Type} [DecidableEq α] (d : α) (t : Tbl α) (k : Nat) (f : α → α) : Tbl α := Tbl.set d t k (f (Tbl.get d t k))

/-- Every value changed by f; entries that become the default leave. -/
def Tbl.mapV {α : Type} [DecidableEq α] (d : α) (t : Tbl α) (f : α → α) : Tbl α :=
  (t.map fun e => (e.1, f e.2)).filter fun e => decide (e.2 ≠ d)

/-! ### Memory: one device-physical space of bytes (R4, R5). A byte nothing has written reads as 0 (log entry 2). -/

/-- The canonical form of memory. -/
def Memory.wf (m : List Host.Cell) : Bool := Tbl.wf (0#8) m

/-- One byte. -/
def memByte (m : List Host.Cell) (a : Nat) : Byte := Tbl.get 0#8 m a

/-- n bytes at a, little-endian, as a natural number. -/
def memNat (m : List Host.Cell) : Nat → Nat → Nat
  | 0, _ => 0
  | n + 1, a => (memByte m a).toNat + 256 * memNat m n (a + 1)

/-- n bytes at a as a list. -/
def memBytes (m : List Host.Cell) : Nat → Nat → List Byte
  | 0, _ => []
  | n + 1, a => memByte m a :: memBytes m n (a + 1)

/-- Stores the low byte. -/
def memPut (m : List Host.Cell) (a : Nat) (b : Byte) : List Host.Cell := Tbl.set 0#8 m a b

/-- Stores the n low bytes of x at a, little-endian. -/
def memPutNat (m : List Host.Cell) : Nat → Nat → Nat → List Host.Cell
  | 0, _, _ => m
  | n + 1, a, x => memPutNat (memPut m a (BitVec.ofNat 8 x)) n (a + 1) (x / 256)

/-- Stores those of the n low bytes of x whose bit of the mask is 1. -/
def memPutMask (m : List Host.Cell) : Nat → Nat → Nat → Nat → List Host.Cell
  | 0, _, _, _ => m
  | n + 1, a, x, mask =>
    memPutMask (if mask % 2 = 1 then memPut m a (BitVec.ofNat 8 x) else m) n (a + 1) (x / 256) (mask / 2)

/-- Stores a list of bytes at a. -/
def memPutBytes (m : List Host.Cell) (a : Nat) : List Byte → List Host.Cell
  | [] => m
  | b :: r => memPutBytes (memPut m a b) (a + 1) r

/-- Sets the tag of every 8-byte word that the n bytes at a touch (R133). -/
def tagRange (t : Tbl (BitVec 6)) (a n : Nat) (v : BitVec 6) : Tbl (BitVec 6) :=
  (List.range ((a + n + 7) / 8 - a / 8)).foldl (fun t i => Tbl.set 0#6 t (a / 8 + i) v) t

/-- The state after a write of n bytes of x at a: the words' tags become 0 (R133). -/
def State.store (s : State) (n a x : Nat) : State :=
  { s with mem := memPutNat s.mem n a x, tags := if n = 0 then s.tags else tagRange s.tags a n 0#6 }

/-- Clears the tags of the words of an aligned line of n bytes of which a byte is written (R133). -/
def tagMask (t : Tbl (BitVec 6)) (a n mask : Nat) : Tbl (BitVec 6) :=
  (List.range (n / 8)).foldl (fun t i => if mask / 2 ^ (8 * i) % 256 = 0 then t else Tbl.set 0#6 t (a / 8 + i) 0#6) t

/-- A write of the lanes of the mask only, to an aligned line. -/
def State.storeMask (s : State) (n a x mask : Nat) : State :=
  { s with mem := memPutMask s.mem n a x mask, tags := tagMask s.tags a n mask }

/-- A write of a list of bytes. -/
def State.storeBytes (s : State) (a : Nat) (b : List Byte) : State :=
  { s with mem := memPutBytes s.mem a b, tags := if b = [] then s.tags else tagRange s.tags a b.length 0#6 }

/-- The n low bytes of a natural number, least significant first. -/
def bytesOf : Nat → Nat → List Byte
  | 0, _ => []
  | n + 1, x => BitVec.ofNat 8 x :: bytesOf n (x / 256)

/-- Little-endian value of a list of bytes. -/
def natOf : List Byte → Nat
  | [] => 0
  | b :: r => b.toNat + 256 * natOf r

/-- n bytes of a byte list from an offset, as a number; bytes beyond the end are 0. -/
def fieldOf (l : List Byte) (off n : Nat) : Nat := natOf ((l.drop off).take n)

/-- Bits hi..lo of a number, `w` of them from `lo`. -/
def bits (x lo w : Nat) : Nat := x / 2 ^ lo % 2 ^ w

/-! ### Cores and contexts -/

/-- Core n. -/
def State.core (s : State) (n : Nat) : Core := Tbl.get (Core.reset n) s.cores n
/-- The state with core n replaced. -/
def State.setCore (s : State) (n : Nat) (c : Core) : State := { s with cores := Tbl.set (Core.reset n) s.cores n c }
/-- The special-function set in a bank of a core (R167). -/
def Core.setInBank (c : Core) (b : Nat) : Option SfSet := c.sfSets.find? fun x => x.bank == some b
/-- The state with core n changed. -/
def State.updCore (s : State) (n : Nat) (f : Core → Core) : State := s.setCore n (f (s.core n))
/-- The state with every core that has left its reset values changed. -/
def State.mapCores (s : State) (f : Core → Core) : State := s.cores.foldl (fun s e => s.updCore e.1 f) s

/-- Context slot k of a core. -/
def Core.ctx (c : Core) (k : Nat) : Ctx := Tbl.get {} c.ctxs k
def Core.setCtx (c : Core) (k : Nat) (x : Ctx) : Core := { c with ctxs := Tbl.set {} c.ctxs k x }
/-- The context whose registers are live. -/
def Core.curCtx (c : Core) : Ctx := c.ctx c.cur
def Core.updCur (c : Core) (f : Ctx → Ctx) : Core := c.setCtx c.cur (f c.curCtx)

/-- Reads g0 to g31; g0 reads zero (Table 3.2). -/
def Core.readG (c : Core) (i : Nat) : Word32 := if i = 0 then 0#32 else Tbl.get 0#32 c.g i
/-- Writes g0 to g31; a write to g0 is discarded (Table 3.2). -/
def Core.writeG (c : Core) (i : Nat) (x : Word32) : Core := if i = 0 then c else { c with g := Tbl.set 0#32 c.g i x }
def Core.readA (c : Core) (i : Nat) : Addr48 := Tbl.get 0#48 c.a i
def Core.writeA (c : Core) (i : Nat) (x : Addr48) : Core := { c with a := Tbl.set 0#48 c.a i x }
def Core.readV (c : Core) (i : Nat) : Vec := Tbl.get 0#1024 c.v i
def Core.writeV (c : Core) (i : Nat) (x : Vec) : Core := { c with v := Tbl.set 0#1024 c.v i x }
def Core.readP (c : Core) (i : Nat) : Pred := Tbl.get 0#128 c.p i
def Core.writeP (c : Core) (i : Nat) (x : Pred) : Core := { c with p := Tbl.set 0#128 c.p i x }
def Core.readLc (c : Core) (i : Nat) : Word32 := Tbl.get 0#32 c.lc i
def Core.readLs (c : Core) (i : Nat) : Addr48 := Tbl.get 0#48 c.ls i
def Core.readLe (c : Core) (i : Nat) : Addr48 := Tbl.get 0#48 c.le i

/-- Walker slot k of the running context. -/
def Core.walker (c : Core) (k : Nat) : Walker := Tbl.get {} c.curCtx.walkers k
def Core.setWalker (c : Core) (k : Nat) (w : Walker) : Core := c.updCur fun x => { x with walkers := Tbl.set {} x.walkers k w }
/-- Accumulator XACC k of the running context. -/
def Core.acc (c : Core) (k : Nat) : XAcc := Tbl.get {} c.curCtx.xacc k
def Core.group (c : Core) (q : Nat) : Group := Tbl.get {} c.groups q
def Core.setGroup (c : Core) (q : Nat) (g : Group) : Core := { c with groups := Tbl.set {} c.groups q g }

/-! ### Time bases -/

def State.tb (s : State) (n : Nat) : TimeBase := Tbl.get {} s.tbs n
def State.setTb (s : State) (n : Nat) (t : TimeBase) : State := { s with tbs := Tbl.set {} s.tbs n t }

/-! ### Free values and output -/

/-- A fresh free value (log entry 3). -/
def State.free (s : State) : BitVec 1024 := Config.freeValue s.freeCtr
/-- The state after a free value has been used. -/
def State.bumpFree (s : State) : State := { s with freeCtr := s.freeCtr + 1 }

/-- Something leaves the chip. -/
def State.emit (s : State) (o : Out) : State := { s with out := s.out ++ [o] }

/-! ### Tallies, jobs, queues -/

def State.tally (s : State) (n : Nat) : Tally := Tbl.get {} s.tallies n
def State.setTally (s : State) (n : Nat) (t : Tally) : State := { s with tallies := Tbl.set {} s.tallies n t }
def State.job (s : State) (j : Nat) : Job := Tbl.get {} s.jobs j
def State.setJob (s : State) (j : Nat) (x : Job) : State := { s with jobs := Tbl.set {} s.jobs j x }
def State.hqueue (s : State) (q : Nat) : HQueue := Tbl.get {} s.queues q
def State.setHqueue (s : State) (q : Nat) (x : HQueue) : State := { s with queues := Tbl.set {} s.queues q x }
def State.pool (s : State) (p : Nat) : Pool := Tbl.get {} s.pools p

/-! ### The dictionary -/

/-- The key of an object: index and subindex. -/
def okey (index sub : Nat) : Nat := index * 256 + sub

end Sys2Proof.Machine
end

