-- ==== Sys2Proof/Machine/Dictionary.lean ====
section
/-! DEFINITION. The object dictionary (chapter "Object Dictionary Reference" and the object tables of every other
chapter): type, access, default and time of effect of every object. -/

namespace Sys2Proof.Machine

open Sys2Proof

/-- Object types (Table 15.2). -/
inductive OType where
  | u8 | u16 | u32 | u64 | i32 | i64 | bool | enum8 | airpos | time80 | str | blob
  deriving DecidableEq, Repr

/-- Access of an object. -/
inductive OAccess where
  | ro | rw | rwc | wo
  deriving DecidableEq, Repr

/-- When a write of an object takes effect. -/
inductive OEffect where
  | none | immediate | serve | boot
  deriving DecidableEq, Repr

/-- One row of an object table: `count` indices from `index` at steps of `stride`, `subs` subindices from `sub` at
steps of `subStride`; `dflt0` is the default of the first index, `dflt` of the others; `maxLen` of a STR or BLOB. -/
structure ObjRow where
  index : Nat
  count : Nat
  stride : Nat
  sub : Nat
  subs : Nat
  subStride : Nat
  ty : OType
  access : OAccess
  effect : OEffect
  dflt0 : Nat
  dflt : Nat
  maxLen : Nat
  deriving DecidableEq, Repr

/-- Object rows of indices 0x1000 to 0x10FF. -/
def objRows10_0 : List ObjRow := [
  ⟨0x1000, 1, 1, 0x01, 1, 1, .str, .ro, .none, 0, 0, 0⟩ /- VENDOR -/,
  ⟨0x1000, 1, 1, 0x02, 1, 1, .str, .ro, .none, 0, 0, 0⟩ /- DEVICE -/,
  ⟨0x1000, 1, 1, 0x03, 1, 1, .u8, .ro, .none, 176, 176, 0⟩ /- STEPPING -/,
  ⟨0x1000, 1, 1, 0x04, 1, 1, .str, .ro, .none, 0, 0, 0⟩ /- ORDERING_CODE -/,
  ⟨0x1000, 1, 1, 0x05, 1, 1, .str, .ro, .none, 0, 0, 0⟩ /- SERIAL -/,
  ⟨0x1000, 1, 1, 0x06, 1, 1, .u64, .ro, .none, 15, 15, 0⟩ /- CAPS -/,
  ⟨0x1001, 1, 1, 0x01, 1, 1, .u32, .ro, .none, 0, 0, 0⟩ /- CTRL_FW_VERSION -/,
  ⟨0x1001, 1, 1, 0x02, 1, 1, .u32, .ro, .none, 0, 0, 0⟩ /- RUNTIME_VERSION -/,
  ⟨0x1001, 1, 1, 0x03, 1, 1, .u32, .ro, .none, 0, 0, 0⟩ /- ROM_VERSION -/,
  ⟨0x1001, 1, 1, 0x04, 1, 1, .u32, .ro, .none, 0, 0, 0⟩ /- BOOT_COUNT -/,
  ⟨0x1001, 1, 1, 0x05, 1, 1, .u8, .ro, .none, 0, 0, 0⟩ /- BOOT_SLOT -/,
  ⟨0x1001, 1, 1, 0x06, 1, 1, .bool, .ro, .none, 0, 0, 0⟩ /- RECOVERY -/,
  ⟨0x1001, 1, 1, 0x07, 1, 1, .enum8, .ro, .none, 0, 0, 0⟩ /- RESET_CAUSE -/,
  ⟨0x1002, 1, 1, 0x01, 1, 1, .blob, .ro, .none, 0, 0, 0⟩ /- DIRECTORY -/,
  ⟨0x1002, 1, 1, 0x02, 1, 1, .u32, .ro, .none, 0, 0, 0⟩ /- DIR_COUNT -/,
  ⟨0x1003, 1, 1, 0x01, 1, 1, .blob, .ro, .none, 0, 0, 0⟩ /- BOOT_STORED -/,
  ⟨0x1003, 1, 1, 0x02, 1, 1, .u16, .ro, .none, 4096, 4096, 0⟩ /- BOOT_FREE -/,
  ⟨0x1003, 1, 1, 0x03, 1, 1, .enum8, .wo, .immediate, 0, 0, 0⟩ /- BOOT_CLEAR -/]

/-- Object rows of indices 0x1100 to 0x11FF. -/
def objRows11_0 : List ObjRow := [
  ⟨0x1100, 1, 1, 0x01, 1, 1, .u16, .ro, .none, 0, 0, 0⟩ /- DSW -/,
  ⟨0x1100, 1, 1, 0x02, 1, 1, .u32, .ro, .none, 0, 0, 0⟩ /- CHANGES -/,
  ⟨0x1100, 1, 1, 0x03, 1, 1, .u32, .ro, .none, 0, 0, 0⟩ /- ATTN_LATCHED -/,
  ⟨0x1100, 1, 1, 0x04, 1, 1, .u32, .ro, .none, 0, 0, 0⟩ /- ATTN_ACTIVE -/,
  ⟨0x1100, 1, 1, 0x05, 1, 1, .u32, .rw, .immediate, 0, 0, 0⟩ /- ATTN_MASK -/,
  ⟨0x1101, 1, 1, 0x01, 15, 1, .u32, .ro, .none, 0, 0, 0⟩ /- LATCH_COUNT0–14 -/,
  ⟨0x1110, 1, 1, 0x01, 1, 1, .u16, .ro, .none, 0, 0, 0⟩ /- HB_RATE -/,
  ⟨0x1110, 1, 1, 0x02, 1, 1, .u8, .ro, .none, 0, 0, 0⟩ /- HB_TB -/,
  ⟨0x1110, 1, 1, 0x03, 1, 1, .u32, .ro, .none, 0, 0, 0⟩ /- HB_DROPPED -/,
  ⟨0x1111, 1, 1, 0x01, 1, 1, .u32, .ro, .none, 0, 0, 0⟩ /- BAD_FRAMES -/,
  ⟨0x1111, 1, 1, 0x02, 1, 1, .u32, .ro, .none, 0, 0, 0⟩ /- DENIALS -/,
  ⟨0x1120, 1, 1, 0x01, 1, 1, .u16, .rw, .boot, 29284, 29284, 0⟩ /- OAP_UDP_PORT -/,
  ⟨0x1120, 1, 1, 0x02, 1, 1, .u16, .rw, .boot, 65535, 65535, 0⟩ /- MGMT_COURTS -/,
  ⟨0x1120, 1, 1, 0x03, 1, 1, .u16, .rw, .immediate, 60, 60, 0⟩ /- MGMT_IDLE -/,
  ⟨0x1120, 1, 1, 0x04, 1, 1, .u8, .ro, .none, 0, 0, 0⟩ /- MGMT_CHANNELS -/]

/-- Object rows of indices 0x1200 to 0x12FF. -/
def objRows12_0 : List ObjRow := [
  ⟨0x1200, 1, 1, 0x01, 1, 1, .u32, .rw, .immediate, 10000, 10000, 0⟩ /- RALLY_IDLE -/,
  ⟨0x1200, 1, 1, 0x02, 1, 1, .u32, .ro, .none, 0, 0, 0⟩ /- OPEN_ID -/,
  ⟨0x1200, 1, 1, 0x03, 1, 1, .u8, .ro, .none, 0, 0, 0⟩ /- PENDING -/,
  ⟨0x1200, 1, 1, 0x04, 1, 1, .u32, .ro, .none, 0, 0, 0⟩ /- CONFIG_EPOCH -/,
  ⟨0x1200, 1, 1, 0x05, 1, 1, .u32, .ro, .none, 0, 0, 0⟩ /- SERVED -/,
  ⟨0x1200, 1, 1, 0x06, 1, 1, .u32, .ro, .none, 0, 0, 0⟩ /- ABORTED -/,
  ⟨0x1200, 1, 1, 0x07, 1, 1, .u32, .ro, .none, 0, 0, 0⟩ /- ROLLED_BACK -/,
  ⟨0x1201, 1, 1, 0x01, 1, 1, .blob, .ro, .none, 0, 0, 1024⟩ /- HISTORY -/]

/-- Object rows of indices 0x2000 to 0x20FF. -/
def objRows20_0 : List ObjRow := [
  ⟨0x2000, 8, 16, 0x01, 1, 1, .bool, .rwc, .serve, 1, 0, 0⟩ /- ENABLE -/,
  ⟨0x2000, 8, 16, 0x02, 1, 1, .u8, .rwc, .serve, 1, 1, 0⟩ /- MU -/,
  ⟨0x2000, 8, 16, 0x03, 1, 1, .enum8, .rwc, .serve, 0, 0, 0⟩ /- CP -/,
  ⟨0x2000, 8, 16, 0x04, 1, 1, .i64, .rwc, .serve, 0, 0, 0⟩ /- FRAME_OFFSET -/,
  ⟨0x2000, 8, 16, 0x05, 1, 1, .enum8, .rw, .immediate, 0, 0, 0⟩ /- PHASE_SRC -/,
  ⟨0x2000, 8, 16, 0x06, 1, 1, .u8, .rw, .immediate, 0, 0, 0⟩ /- PHASE_ARG -/,
  ⟨0x2000, 8, 16, 0x07, 1, 1, .enum8, .rw, .immediate, 0, 0, 0⟩ /- FALLBACK_SRC -/,
  ⟨0x2000, 8, 16, 0x08, 1, 1, .enum8, .rw, .immediate, 0, 0, 0⟩ /- FREQ_SRC -/,
  ⟨0x2000, 8, 16, 0x09, 1, 1, .u16, .rw, .immediate, 100, 100, 0⟩ /- LOOP_BW -/,
  ⟨0x2000, 8, 16, 0x0A, 1, 1, .u32, .rw, .immediate, 100, 100, 0⟩ /- LOCK_THRESH -/,
  ⟨0x2000, 8, 16, 0x0B, 1, 1, .u32, .rw, .immediate, 500, 500, 0⟩ /- UNLOCK_THRESH -/,
  ⟨0x2000, 8, 16, 0x0C, 1, 1, .u32, .rw, .immediate, 10, 10, 0⟩ /- SLEW_RATE -/,
  ⟨0x2000, 8, 16, 0x0D, 1, 1, .u32, .rw, .immediate, 1500, 1500, 0⟩ /- SLEW_LIMIT -/,
  ⟨0x2000, 8, 16, 0x0E, 1, 1, .enum8, .wo, .immediate, 0, 0, 0⟩ /- REALIGN -/,
  ⟨0x2000, 8, 16, 0x0F, 1, 1, .i64, .rwc, .serve, 0, 0, 0⟩ /- STEP -/,
  ⟨0x2000, 8, 16, 0x10, 1, 1, .enum8, .ro, .none, 0, 0, 0⟩ /- STATE -/,
  ⟨0x2000, 8, 16, 0x11, 1, 1, .enum8, .ro, .none, 0, 0, 0⟩ /- HOLDOVER_CAUSE -/,
  ⟨0x2000, 8, 16, 0x12, 1, 1, .airpos, .ro, .none, 0, 0, 0⟩ /- NOW -/,
  ⟨0x2000, 8, 16, 0x13, 1, 1, .time80, .ro, .none, 0, 0, 0⟩ /- NOW_TAI -/,
  ⟨0x2000, 8, 16, 0x14, 1, 1, .i32, .ro, .none, 0, 0, 0⟩ /- OFFSET_EST -/,
  ⟨0x2000, 8, 16, 0x15, 1, 1, .i64, .ro, .none, 0, 0, 0⟩ /- RATE_ADJ -/,
  ⟨0x2000, 8, 16, 0x16, 1, 1, .u32, .ro, .none, 0, 0, 0⟩ /- STATE_CHANGES -/,
  ⟨0x2001, 8, 16, 0x01, 1, 1, .enum8, .rwc, .serve, 0, 0, 0⟩ /- PROFILE -/,
  ⟨0x2001, 8, 16, 0x02, 1, 1, .u8, .rwc, .serve, 24, 24, 0⟩ /- DOMAIN -/,
  ⟨0x2001, 8, 16, 0x03, 1, 1, .u16, .rw, .immediate, 1, 1, 0⟩ /- SLAVE_PORTS -/,
  ⟨0x2001, 8, 16, 0x04, 1, 1, .u16, .rwc, .serve, 0, 0, 0⟩ /- MASTER_PORTS -/,
  ⟨0x2001, 8, 16, 0x05, 1, 1, .u8, .rw, .immediate, 128, 128, 0⟩ /- LOCAL_PRIORITY -/,
  ⟨0x2001, 8, 16, 0x06, 1, 1, .blob, .rw, .immediate, 0, 0, 68⟩ /- UNICAST_MASTERS -/,
  ⟨0x2001, 8, 16, 0x07, 1, 1, .i32, .rw, .immediate, 4294967292, 4294967292, 0⟩ /- LOG_SYNC_INTERVAL -/,
  ⟨0x2001, 8, 16, 0x08, 1, 1, .blob, .ro, .none, 0, 0, 10⟩ /- PARENT -/,
  ⟨0x2001, 8, 16, 0x09, 1, 1, .u8, .ro, .none, 255, 255, 0⟩ /- GM_CLOCK_CLASS -/,
  ⟨0x2001, 8, 16, 0x0A, 1, 1, .i64, .ro, .none, 0, 0, 0⟩ /- MEAN_PATH_DELAY -/,
  ⟨0x2001, 8, 16, 0x0B, 1, 1, .u32, .ro, .none, 0, 0, 0⟩ /- BAD_MESSAGES -/]

/-- Object rows of indices 0x2100 to 0x21FF. -/
def objRows21_0 : List ObjRow := [
  ⟨0x2100, 32, 1, 0x01, 1, 1, .enum8, .rwc, .serve, 0, 0, 0⟩ /- MODE -/,
  ⟨0x2100, 32, 1, 0x02, 1, 1, .u8, .rwc, .serve, 0, 0, 0⟩ /- TB -/,
  ⟨0x2100, 32, 1, 0x03, 1, 1, .enum8, .rwc, .serve, 0, 0, 0⟩ /- POLARITY -/,
  ⟨0x2100, 32, 1, 0x04, 1, 1, .airpos, .rwc, .serve, 0, 0, 0⟩ /- START -/,
  ⟨0x2100, 32, 1, 0x05, 1, 1, .u32, .rwc, .serve, 8, 8, 0⟩ /- WIDTH -/,
  ⟨0x2100, 32, 1, 0x06, 1, 1, .u32, .rwc, .serve, 1, 1, 0⟩ /- PERIOD -/,
  ⟨0x2100, 32, 1, 0x07, 1, 1, .enum8, .rwc, .serve, 1, 1, 0⟩ /- UNIT -/,
  ⟨0x2100, 32, 1, 0x08, 1, 1, .u32, .rwc, .serve, 0, 0, 0⟩ /- REPEAT -/,
  ⟨0x2100, 32, 1, 0x09, 1, 1, .u32, .rwc, .serve, 0, 0, 0⟩ /- LEAD -/,
  ⟨0x2100, 32, 1, 0x0A, 1, 1, .u32, .rwc, .serve, 0, 0, 0⟩ /- LAG -/,
  ⟨0x2100, 32, 1, 0x0B, 1, 1, .u8, .rwc, .serve, 0, 0, 0⟩ /- GATE_CARRIER -/,
  ⟨0x2100, 32, 1, 0x0C, 1, 1, .enum8, .rwc, .serve, 0, 0, 0⟩ /- GATE_DIR -/,
  ⟨0x2100, 32, 1, 0x0D, 1, 1, .u16, .rwc, .serve, 0, 0, 0⟩ /- GATE_MAP -/,
  ⟨0x2100, 32, 1, 0x0E, 1, 1, .enum8, .wo, .immediate, 0, 0, 0⟩ /- FORCE -/,
  ⟨0x2100, 32, 1, 0x0F, 1, 1, .u32, .ro, .none, 0, 0, 0⟩ /- EDGE_COUNT -/,
  ⟨0x2100, 32, 1, 0x10, 1, 1, .u32, .ro, .none, 0, 0, 0⟩ /- DROPPED_EDGES -/,
  ⟨0x2100, 32, 1, 0x11, 1, 1, .u32, .ro, .none, 0, 0, 0⟩ /- CAPTURE_COUNT -/,
  ⟨0x2100, 32, 1, 0x12, 1, 1, .airpos, .ro, .none, 0, 0, 0⟩ /- CAPTURE_LAST -/,
  ⟨0x2120, 1, 1, 0x01, 1, 1, .bool, .rw, .immediate, 0, 0, 0⟩ /- PPS_IN_ENABLE -/,
  ⟨0x2120, 1, 1, 0x02, 1, 1, .i32, .rw, .immediate, 0, 0, 0⟩ /- PPS_IN_DELAY -/,
  ⟨0x2121, 1, 1, 0x01, 1, 1, .u8, .rwc, .serve, 0, 0, 0⟩ /- PPS_OUT_TB -/,
  ⟨0x2121, 1, 1, 0x02, 1, 1, .u32, .rwc, .serve, 1966080, 1966080, 0⟩ /- PPS_OUT_WIDTH -/,
  ⟨0x2122, 1, 1, 0x01, 1, 1, .enum8, .rw, .immediate, 0, 0, 0⟩ /- TOD_DIR -/,
  ⟨0x2122, 1, 1, 0x02, 1, 1, .u32, .rw, .immediate, 9600, 9600, 0⟩ /- TOD_BAUD -/,
  ⟨0x2122, 1, 1, 0x03, 1, 1, .i32, .rw, .immediate, 37, 37, 0⟩ /- TAI_UTC -/,
  ⟨0x2123, 1, 1, 0x01, 1, 1, .u8, .rw, .immediate, 0, 0, 0⟩ /- SYNCE_LANE -/,
  ⟨0x2123, 1, 1, 0x02, 1, 1, .enum8, .rw, .immediate, 0, 0, 0⟩ /- SYNCE_FREQ -/,
  ⟨0x2124, 1, 1, 0x01, 1, 1, .enum8, .rw, .immediate, 0, 0, 0⟩ /- REF_IN_FREQ -/,
  ⟨0x2124, 1, 1, 0x02, 1, 1, .enum8, .ro, .none, 0, 0, 0⟩ /- REF_IN_STATE -/]

/-- Object rows of indices 0x2200 to 0x22FF. -/
def objRows22_0 : List ObjRow := [
  ⟨0x2200, 16, 1, 0x01, 1, 1, .bool, .rwc, .serve, 0, 0, 0⟩ /- ENABLE -/,
  ⟨0x2200, 16, 1, 0x02, 1, 1, .u64, .rwc, .serve, 0, 0, 0⟩ /- MAC -/,
  ⟨0x2200, 16, 1, 0x03, 1, 1, .u16, .rwc, .serve, 0, 0, 0⟩ /- VLAN -/,
  ⟨0x2200, 16, 1, 0x04, 1, 1, .enum8, .ro, .none, 0, 0, 0⟩ /- STATE -/,
  ⟨0x2200, 16, 1, 0x05, 1, 1, .i32, .rw, .immediate, 0, 0, 0⟩ /- TX_ASYM -/,
  ⟨0x2200, 16, 1, 0x06, 1, 1, .i32, .rw, .immediate, 0, 0, 0⟩ /- RX_ASYM -/,
  ⟨0x2200, 16, 1, 0x07, 1, 1, .u32, .ro, .none, 0, 0, 0⟩ /- RX_EARLY -/,
  ⟨0x2200, 16, 1, 0x08, 1, 1, .u32, .ro, .none, 0, 0, 0⟩ /- RX_LATE -/,
  ⟨0x2200, 16, 1, 0x09, 1, 1, .u32, .ro, .none, 0, 0, 0⟩ /- RX_MALFORMED -/,
  ⟨0x2200, 16, 1, 0x0A, 1, 1, .u32, .ro, .none, 0, 0, 0⟩ /- BFP_CLAMP -/,
  ⟨0x2200, 16, 1, 0x0B, 1, 1, .u32, .ro, .none, 0, 0, 0⟩ /- TX_MISSED -/,
  ⟨0x2210, 1, 1, 0x01, 1, 1, .enum8, .rw, .boot, 0, 0, 0⟩ /- FH_CONFIG -/,
  ⟨0x2210, 1, 1, 0x02, 1, 1, .enum8, .rw, .boot, 0, 0, 0⟩ /- LANE_RATE -/]

/-- Object rows of indices 0x2300 to 0x23FF. -/
def objRows23_0 : List ObjRow := [
  ⟨0x2380, 32, 1, 0x01, 1, 1, .u32, .rwc, .serve, 0, 0, 0⟩ /- UL_BASE -/,
  ⟨0x2380, 32, 1, 0x02, 1, 1, .u32, .rwc, .serve, 0, 0, 0⟩ /- DL_BASE -/,
  ⟨0x2380, 32, 1, 0x03, 1, 1, .u8, .rwc, .serve, 3, 3, 0⟩ /- UL_DEPTH -/,
  ⟨0x2380, 32, 1, 0x04, 1, 1, .u8, .rwc, .serve, 3, 3, 0⟩ /- DL_DEPTH -/,
  ⟨0x2380, 32, 1, 0x05, 1, 1, .u32, .ro, .none, 0, 0, 0⟩ /- SLOT_BYTES -/,
  ⟨0x2380, 32, 1, 0x06, 1, 1, .u32, .ro, .none, 0, 0, 0⟩ /- REUSE_FAULTS -/,
  ⟨0x2300, 32, 1, 0x01, 1, 1, .enum8, .rwc, .serve, 0, 0, 0⟩ /- ENABLE -/,
  ⟨0x2300, 32, 1, 0x02, 1, 1, .u8, .rwc, .serve, 0, 0, 0⟩ /- TB -/,
  ⟨0x2300, 32, 1, 0x03, 1, 1, .u16, .rwc, .serve, 273, 273, 0⟩ /- NPRB -/,
  ⟨0x2300, 32, 1, 0x04, 1, 1, .u16, .rwc, .serve, 256, 256, 0⟩ /- NPORT -/,
  ⟨0x2300, 32, 1, 0x05, 1, 1, .u16, .rwc, .serve, 1, 1, 0⟩ /- FH_PORTS -/,
  ⟨0x2300, 32, 1, 0x06, 1, 1, .u16, .rwc, .serve, 0, 0, 0⟩ /- EAXC_BASE -/,
  ⟨0x2300, 32, 1, 0x07, 1, 1, .u8, .rwc, .serve, 9, 9, 0⟩ /- UL_WIDTH -/,
  ⟨0x2300, 32, 1, 0x08, 1, 1, .u8, .rwc, .serve, 9, 9, 0⟩ /- DL_WIDTH -/,
  ⟨0x2300, 32, 1, 0x09, 1, 1, .u32, .rwc, .serve, 49152, 49152, 0⟩ /- UL_OPEN -/,
  ⟨0x2300, 32, 1, 0x0A, 1, 1, .u32, .rwc, .serve, 122880, 122880, 0⟩ /- UL_CLOSE -/,
  ⟨0x2300, 32, 1, 0x0B, 1, 1, .u32, .rwc, .serve, 245760, 245760, 0⟩ /- DL_OPEN -/,
  ⟨0x2300, 32, 1, 0x0C, 1, 1, .u32, .rwc, .serve, 122880, 122880, 0⟩ /- DL_CLOSE -/]

/-- Object rows of indices 0x2400 to 0x24FF. -/
def objRows24_0 : List ObjRow := [
  ⟨0x2400, 1, 1, 0x01, 1, 1, .enum8, .ro, .none, 0, 0, 0⟩ /- LINK_SPEED -/,
  ⟨0x2400, 1, 1, 0x02, 1, 1, .u8, .ro, .none, 0, 0, 0⟩ /- LINK_WIDTH -/,
  ⟨0x2400, 1, 1, 0x03, 1, 1, .enum8, .rw, .boot, 5, 5, 0⟩ /- MAX_SPEED -/,
  ⟨0x2400, 1, 1, 0x04, 1, 1, .u8, .ro, .none, 0, 0, 0⟩ /- NUM_VFS -/,
  ⟨0x2400, 1, 1, 0x05, 1, 1, .u32, .ro, .none, 0, 0, 0⟩ /- AER_CORR -/,
  ⟨0x2400, 1, 1, 0x06, 1, 1, .u32, .ro, .none, 0, 0, 0⟩ /- AER_UNCORR -/,
  ⟨0x2410, 16, 1, 0x01, 1, 1, .blob, .ro, .none, 0, 0, 168⟩ /- RINGS -/,
  ⟨0x2410, 16, 1, 0x02, 1, 1, .u32, .ro, .none, 0, 0, 0⟩ /- HOST_VIOLATIONS -/,
  ⟨0x2410, 16, 1, 0x03, 1, 1, .u32, .ro, .none, 0, 0, 0⟩ /- MALFORMED -/,
  ⟨0x2410, 16, 1, 0x04, 1, 1, .u32, .ro, .none, 0, 0, 0⟩ /- MSIX_SENT -/,
  ⟨0x2410, 16, 1, 0x05, 1, 1, .u32, .ro, .none, 0, 0, 0⟩ /- FLR -/]

/-- Object rows of indices 0x2500 to 0x25FF. -/
def objRows25_0 : List ObjRow := [
  ⟨0x2500, 1, 1, 0x01, 1, 1, .u16, .rw, .boot, 200, 200, 0⟩ /- FREQ -/,
  ⟨0x2500, 1, 1, 0x02, 1, 1, .u16, .ro, .none, 0, 0, 0⟩ /- TOTAL -/,
  ⟨0x2500, 1, 1, 0x03, 1, 1, .u16, .ro, .none, 0, 0, 0⟩ /- UNALLOCATED -/,
  ⟨0x2510, 8, 1, 0x01, 1, 1, .enum8, .ro, .none, 0, 0, 0⟩ /- STATE -/,
  ⟨0x2510, 8, 1, 0x02, 1, 1, .u8, .ro, .none, 0, 0, 0⟩ /- DEVICES -/,
  ⟨0x2510, 8, 1, 0x03, 1, 1, .u32, .ro, .none, 0, 0, 0⟩ /- ECC_CORR -/,
  ⟨0x2510, 8, 1, 0x04, 1, 1, .u32, .ro, .none, 0, 0, 0⟩ /- ECC_UNCORR -/,
  ⟨0x2520, 16, 1, 0x01, 1, 1, .u16, .rwc, .serve, 0, 0, 0⟩ /- REGION -/,
  ⟨0x2520, 16, 1, 0x02, 1, 1, .u64, .ro, .none, 0, 0, 0⟩ /- REGION_BASE -/]

/-- Object rows of indices 0x2600 to 0x26FF. -/
def objRows26_0 : List ObjRow := [
  ⟨0x2600, 1, 1, 0x01, 1, 1, .u8, .rw, .boot, 255, 255, 0⟩ /- CHIP_NUMBER -/,
  ⟨0x2600, 1, 1, 0x02, 1, 1, .u8, .ro, .none, 0, 0, 0⟩ /- CHIP_ID -/,
  ⟨0x2600, 1, 1, 0x03, 1, 1, .enum8, .rw, .boot, 0, 0, 0⟩ /- TOPOLOGY -/,
  ⟨0x2600, 1, 1, 0x04, 1, 1, .u8, .rw, .boot, 1, 1, 0⟩ /- SYSTEM_SIZE -/,
  ⟨0x2600, 1, 1, 0x05, 1, 1, .u32, .rwc, .serve, 0, 0, 0⟩ /- MEMBERS -/,
  ⟨0x2600, 1, 1, 0x06, 1, 1, .u8, .rwc, .serve, 0, 0, 0⟩ /- SYS_TB -/,
  ⟨0x2600, 1, 1, 0x07, 1, 1, .u8, .ro, .none, 255, 255, 0⟩ /- COORDINATOR -/,
  ⟨0x2600, 1, 1, 0x08, 1, 1, .u32, .ro, .none, 0, 0, 0⟩ /- MEMBER_EPOCH -/,
  ⟨0x2600, 1, 1, 0x09, 1, 1, .blob, .ro, .none, 0, 0, 32⟩ /- CONFIG_DIGEST -/,
  ⟨0x2600, 1, 1, 0x0A, 1, 1, .u16, .rw, .immediate, 100, 100, 0⟩ /- LOST_TIMEOUT -/,
  ⟨0x2600, 1, 1, 0x0B, 1, 1, .u16, .rw, .immediate, 64, 64, 0⟩ /- RETRY_LIMIT -/,
  ⟨0x2600, 1, 1, 0x0C, 1, 1, .u64, .ro, .none, 0, 0, 0⟩ /- SYSCYCLE -/,
  ⟨0x2600, 1, 1, 0x0D, 1, 1, .bool, .ro, .none, 0, 0, 0⟩ /- ISOLATED -/,
  ⟨0x2600, 1, 1, 0x0E, 1, 1, .u32, .ro, .none, 0, 0, 0⟩ /- RALLY_VOTES_NO -/,
  ⟨0x2610, 8, 1, 0x01, 1, 1, .bool, .rw, .immediate, 1, 1, 0⟩ /- ENABLE -/,
  ⟨0x2610, 8, 1, 0x02, 1, 1, .u8, .rw, .boot, 255, 255, 0⟩ /- PEER_CHIP -/,
  ⟨0x2610, 8, 1, 0x03, 1, 1, .u8, .rw, .boot, 255, 255, 0⟩ /- PEER_PORT -/,
  ⟨0x2610, 8, 1, 0x04, 1, 1, .enum8, .ro, .none, 0, 0, 0⟩ /- STATE -/,
  ⟨0x2610, 8, 1, 0x05, 1, 1, .i32, .ro, .none, 0, 0, 0⟩ /- LINK_DELAY -/,
  ⟨0x2610, 8, 1, 0x06, 1, 1, .i32, .rw, .immediate, 0, 0, 0⟩ /- ASYMMETRY -/,
  ⟨0x2610, 8, 1, 0x07, 1, 1, .u32, .ro, .none, 0, 0, 0⟩ /- RETRIES -/,
  ⟨0x2610, 8, 1, 0x08, 1, 1, .u32, .ro, .none, 0, 0, 0⟩ /- RETRAINS -/,
  ⟨0x2610, 8, 1, 0x09, 1, 1, .u32, .ro, .none, 0, 0, 0⟩ /- UNKNOWN_PKTS -/,
  ⟨0x2610, 8, 1, 0x0A, 1, 1, .enum8, .wo, .immediate, 0, 0, 0⟩ /- PORT_RETRAIN -/,
  ⟨0x2640, 24, 1, 0x01, 1, 1, .enum8, .ro, .none, 0, 0, 0⟩ /- STATE -/,
  ⟨0x2640, 24, 1, 0x02, 1, 1, .u8, .ro, .none, 0, 0, 0⟩ /- HOPS -/,
  ⟨0x2640, 24, 1, 0x03, 1, 1, .airpos, .ro, .none, 0, 0, 0⟩ /- LAST_HEARD -/,
  ⟨0x2640, 24, 1, 0x04, 1, 1, .u32, .ro, .none, 0, 0, 0⟩ /- REDUCE_MISSED -/,
  ⟨0x2660, 24, 1, 0x01, 1, 1, .blob, .wo, .immediate, 0, 0, 4096⟩ /- RELAY -/]

/-- Object rows of indices 0x3000 to 0x30FF. -/
def objRows30_0 : List ObjRow := [
  ⟨0x3000, 16, 1, 0x01, 1, 1, .u64, .rwc, .serve, 18446744073709551615, 0, 0⟩ /- CORES -/,
  ⟨0x3000, 16, 1, 0x02, 1, 1, .u32, .rwc, .serve, 4294967295, 0, 0⟩ /- CARRIERS -/,
  ⟨0x3000, 16, 1, 0x03, 1, 1, .u16, .rwc, .serve, 10, 10, 0⟩ /- SLICE -/,
  ⟨0x3000, 16, 1, 0x04, 1, 1, .u16, .rwc, .serve, 2, 2, 0⟩ /- BUNDLE_SLACK -/,
  ⟨0x3000, 16, 1, 0x05, 1, 1, .u16, .rwc, .serve, 20, 20, 0⟩ /- EXCL_BOUND -/,
  ⟨0x3000, 16, 1, 0x06, 1, 1, .u16, .rwc, .serve, 16, 0, 0⟩ /- SWAP_PAGES -/,
  ⟨0x3000, 16, 1, 0x07, 1, 1, .u16, .rwc, .serve, 256, 0, 0⟩ /- PIN_QUOTA -/,
  ⟨0x3000, 16, 1, 0x08, 1, 1, .u64, .ro, .none, 0, 0, 0⟩ /- USABLE -/,
  ⟨0x3000, 16, 1, 0x09, 1, 1, .u16, .ro, .none, 0, 0, 0⟩ /- PINNED_PAGES -/,
  ⟨0x3000, 16, 1, 0x0A, 1, 1, .u16, .ro, .none, 0, 0, 0⟩ /- READY -/,
  ⟨0x3020, 16, 1, 0x01, 1, 1, .u32, .ro, .none, 0, 0, 0⟩ /- SUBMITTED -/,
  ⟨0x3020, 16, 1, 0x02, 1, 1, .u32, .ro, .none, 0, 0, 0⟩ /- COMPLETED -/,
  ⟨0x3020, 16, 1, 0x03, 1, 1, .u32, .ro, .none, 0, 0, 0⟩ /- PREEMPTED -/,
  ⟨0x3020, 16, 1, 0x04, 1, 1, .u32, .ro, .none, 0, 0, 0⟩ /- FENCED -/,
  ⟨0x3020, 16, 1, 0x05, 1, 1, .u32, .ro, .none, 0, 0, 0⟩ /- LATE -/,
  ⟨0x3020, 16, 1, 0x06, 1, 1, .u32, .ro, .none, 0, 0, 0⟩ /- SWAPS -/]

/-- Object rows of indices 0x3100 to 0x31FF. -/
def objRows31_0 : List ObjRow := [
  ⟨0x3180, 1, 1, 0x01, 255, 1, .blob, .rwc, .serve, 0, 0, 64⟩ /- POOL0–POOL254 -/,
  ⟨0x3190, 1, 1, 0x01, 1, 1, .u32, .rw, .immediate, 50, 50, 0⟩ /- WATCHDOG -/,
  ⟨0x3190, 1, 1, 0x02, 1, 1, .u32, .ro, .none, 0, 0, 0⟩ /- WATCHDOG_FIRES -/,
  ⟨0x3191, 1, 1, 0x01, 1, 1, .u8, .rwc, .serve, 0, 0, 0⟩ /- AUDIT_TB -/,
  ⟨0x3191, 1, 1, 0x02, 1, 1, .u32, .ro, .none, 0, 0, 0⟩ /- AUDITS -/,
  ⟨0x3191, 1, 1, 0x03, 1, 1, .u32, .ro, .none, 0, 0, 0⟩ /- IMBALANCES -/,
  ⟨0x3191, 1, 1, 0x04, 1, 1, .u32, .ro, .none, 0, 0, 0⟩ /- REMEDIES -/,
  ⟨0x3191, 1, 1, 0x05, 1, 1, .blob, .ro, .none, 0, 0, 16⟩ /- LAST_IMBALANCE -/,
  ⟨0x31A0, 1, 1, 0x01, 1, 1, .u32, .rw, .immediate, 500, 500, 0⟩ /- BIST_BUDGET -/,
  ⟨0x31A0, 1, 1, 0x02, 1, 1, .u16, .rw, .immediate, 32, 32, 0⟩ /- BIST_MAX_BOOTS -/,
  ⟨0x31A0, 1, 1, 0x03, 1, 1, .u16, .rw, .immediate, 30, 30, 0⟩ /- BIST_MAX_AGE -/,
  ⟨0x31A0, 1, 1, 0x04, 1, 1, .i32, .rw, .immediate, 105000, 105000, 0⟩ /- BIST_EXCURSION -/,
  ⟨0x31A0, 1, 1, 0x05, 1, 1, .u32, .rw, .immediate, 200, 200, 0⟩ /- LULL_MIN -/,
  ⟨0x31A0, 1, 1, 0x06, 1, 1, .u8, .rw, .immediate, 2, 2, 0⟩ /- TEST_MAX -/,
  ⟨0x31A0, 1, 1, 0x07, 1, 1, .u8, .rw, .immediate, 2, 2, 0⟩ /- TEST_RESERVE -/,
  ⟨0x31A0, 1, 1, 0x08, 1, 1, .enum8, .wo, .immediate, 0, 0, 0⟩ /- SHUTDOWN -/,
  ⟨0x31A0, 1, 1, 0x09, 1, 1, .enum8, .ro, .none, 0, 0, 0⟩ /- SHUTDOWN_STATE -/,
  ⟨0x31A0, 1, 1, 0x0A, 1, 1, .blob, .ro, .none, 0, 0, 1440⟩ /- BIST_RECORD -/,
  ⟨0x31A0, 1, 1, 0x0B, 1, 1, .u32, .ro, .none, 0, 0, 0⟩ /- SLICES_RUN -/,
  ⟨0x31A0, 1, 1, 0x0C, 1, 1, .u32, .ro, .none, 0, 0, 0⟩ /- SLICES_FAILED -/,
  ⟨0x31A0, 1, 1, 0x0D, 1, 1, .u32, .ro, .none, 0, 0, 0⟩ /- SLICES_ABANDONED -/,
  ⟨0x31A0, 1, 1, 0x0E, 1, 1, .blob, .ro, .none, 0, 0, 44⟩ /- STARTUP_LOG -/]

/-- Object rows of indices 0x3200 to 0x32FF. -/
def objRows32_0 : List ObjRow := [
  ⟨0x3200, 1, 1, 0x01, 1, 1, .u16, .ro, .none, 384, 384, 0⟩ /- PAGES -/,
  ⟨0x3200, 1, 1, 0x02, 1, 1, .u16, .ro, .none, 384, 384, 0⟩ /- FREE -/,
  ⟨0x3200, 1, 1, 0x03, 1, 1, .u8, .rwc, .serve, 75, 75, 0⟩ /- LOAD_SHARE -/,
  ⟨0x3200, 1, 1, 0x04, 1, 1, .u8, .rwc, .serve, 0, 0, 0⟩ /- LOAD_TB -/,
  ⟨0x3200, 1, 1, 0x05, 1, 1, .bool, .rw, .immediate, 1, 1, 0⟩ /- DEMAND_LOAD -/,
  ⟨0x3200, 1, 1, 0x06, 1, 1, .u32, .ro, .none, 53688, 53688, 0⟩ /- PAGE_TIME -/,
  ⟨0x3200, 1, 1, 0x07, 1, 1, .airpos, .ro, .none, 0, 0, 0⟩ /- LOAD_END -/,
  ⟨0x3200, 1, 1, 0x08, 1, 1, .u32, .ro, .none, 0, 0, 0⟩ /- LOADS -/,
  ⟨0x3200, 1, 1, 0x09, 1, 1, .u32, .ro, .none, 0, 0, 0⟩ /- EVICTIONS -/,
  ⟨0x3200, 1, 1, 0x0A, 1, 1, .u32, .ro, .none, 0, 0, 0⟩ /- LOAD_FAILS -/,
  ⟨0x3200, 1, 1, 0x0B, 1, 1, .u32, .ro, .none, 0, 0, 0⟩ /- REFUSED -/,
  ⟨0x3201, 1, 1, 0x01, 1, 1, .blob, .ro, .none, 0, 0, 32768⟩ /- LIB_DIR -/,
  ⟨0x3201, 1, 1, 0x02, 1, 1, .blob, .wo, .immediate, 0, 0, 4259840⟩ /- LIB_PUT -/,
  ⟨0x3201, 1, 1, 0x03, 1, 1, .u16, .wo, .immediate, 0, 0, 0⟩ /- LIB_DELETE -/,
  ⟨0x3201, 1, 1, 0x04, 1, 1, .u32, .ro, .none, 0, 0, 0⟩ /- LIB_FREE -/,
  ⟨0x3202, 1, 1, 0x01, 1, 1, .blob, .ro, .none, 0, 0, 6144⟩ /- BENCH_DIR -/,
  ⟨0x3220, 16, 1, 0x01, 1, 1, .blob, .rwc, .serve, 0, 0, 128⟩ /- PINS -/]

/-- Object rows of indices 0x3300 to 0x33FF. -/
def objRows33_0 : List ObjRow := [
  ⟨0x3300, 1, 1, 0x01, 255, 1, .blob, .rwc, .serve, 0, 0, 12⟩ /- TPOOL0–TPOOL254 -/,
  ⟨0x3340, 1, 1, 0x01, 1, 1, .u32, .ro, .none, 0, 0, 0⟩ /- ABANDONS -/,
  ⟨0x3340, 1, 1, 0x02, 1, 1, .u32, .ro, .none, 0, 0, 0⟩ /- HOLD_FENCES -/]

/-- Object rows of indices 0x4000 to 0x40FF. -/
def objRows40_0 : List ObjRow := [
  ⟨0x4000, 32, 1, 0x01, 1, 1, .u16, .rwc, .serve, 65535, 65535, 0⟩ /- CE_MODEL -/,
  ⟨0x4000, 32, 1, 0x02, 1, 1, .u16, .rwc, .serve, 65535, 65535, 0⟩ /- WT_MODEL -/,
  ⟨0x4000, 32, 1, 0x03, 1, 1, .u16, .rwc, .serve, 65535, 65535, 0⟩ /- DET_MODEL -/,
  ⟨0x4000, 32, 1, 0x04, 1, 1, .u16, .rwc, .serve, 21, 21, 0⟩ /- CHUNK_PRB -/,
  ⟨0x4000, 32, 1, 0x05, 1, 1, .u8, .rwc, .serve, 1, 1, 0⟩ /- WGROUP_PRB -/,
  ⟨0x4000, 32, 1, 0x06, 1, 1, .enum8, .rwc, .serve, 3, 3, 0⟩ /- TRACK -/,
  ⟨0x4000, 32, 1, 0x07, 1, 1, .u32, .rwc, .serve, 1152, 1152, 0⟩ /- FFT_BACKOFF -/,
  ⟨0x4000, 32, 1, 0x08, 1, 1, .u16, .rwc, .serve, 900, 900, 0⟩ /- FALLBACK_CLOCK -/,
  ⟨0x4000, 32, 1, 0x09, 1, 1, .blob, .rwc, .serve, 0, 0, 20⟩ /- LLR_GAIN -/,
  ⟨0x4020, 32, 1, 0x01, 1, 1, .u32, .ro, .none, 0, 0, 0⟩ /- ORDERS -/,
  ⟨0x4020, 32, 1, 0x02, 1, 1, .u32, .ro, .none, 0, 0, 0⟩ /- ORDERS_LATE -/,
  ⟨0x4020, 32, 1, 0x03, 1, 1, .u32, .ro, .none, 0, 0, 0⟩ /- ORDERS_BAD -/,
  ⟨0x4020, 32, 1, 0x04, 1, 1, .u32, .ro, .none, 0, 0, 0⟩ /- FB_RESIDENT -/,
  ⟨0x4020, 32, 1, 0x05, 1, 1, .u32, .ro, .none, 0, 0, 0⟩ /- FB_COST -/,
  ⟨0x4020, 32, 1, 0x06, 1, 1, .u32, .ro, .none, 0, 0, 0⟩ /- FB_FENCE -/,
  ⟨0x4020, 32, 1, 0x07, 1, 1, .u32, .ro, .none, 0, 0, 0⟩ /- FB_EPOCH -/,
  ⟨0x4020, 32, 1, 0x08, 1, 1, .u32, .ro, .none, 0, 0, 0⟩ /- TB_OK -/,
  ⟨0x4020, 32, 1, 0x09, 1, 1, .u32, .ro, .none, 0, 0, 0⟩ /- TB_CRC_FAIL -/,
  ⟨0x4020, 32, 1, 0x0A, 1, 1, .u32, .ro, .none, 0, 0, 0⟩ /- TB_NOT_DECODED -/,
  ⟨0x4020, 32, 1, 0x0B, 1, 1, .u32, .ro, .none, 0, 0, 0⟩ /- EQ_LATE -/,
  ⟨0x4020, 32, 1, 0x0C, 1, 1, .u32, .ro, .none, 0, 0, 0⟩ /- LLR_SAT -/,
  ⟨0x4060, 16, 1, 0x01, 1, 1, .bool, .rwc, .serve, 0, 0, 0⟩ /- ADAPT_ENABLE -/,
  ⟨0x4060, 16, 1, 0x02, 1, 1, .u16, .rwc, .serve, 0, 0, 0⟩ /- ADAPT_MODEL -/,
  ⟨0x4060, 16, 1, 0x03, 1, 1, .u32, .rwc, .serve, 2000, 2000, 0⟩ /- ADAPT_SLOTS -/,
  ⟨0x4060, 16, 1, 0x04, 1, 1, .u8, .rwc, .serve, 16, 16, 0⟩ /- ADAPT_SUB -/,
  ⟨0x4060, 16, 1, 0x05, 1, 1, .u8, .rwc, .serve, 4, 4, 0⟩ /- ADAPT_STEPS -/,
  ⟨0x4060, 16, 1, 0x06, 1, 1, .u32, .rwc, .serve, 981668463, 981668463, 0⟩ /- ADAPT_LR -/,
  ⟨0x4060, 16, 1, 0x07, 1, 1, .u32, .rwc, .serve, 0, 0, 0⟩ /- ADAPT_GAIN_MIN -/,
  ⟨0x4060, 16, 1, 0x08, 1, 1, .u16, .rwc, .serve, 16, 16, 0⟩ /- ADAPT_STORE -/,
  ⟨0x4060, 16, 1, 0x09, 1, 1, .enum8, .wo, .immediate, 0, 0, 0⟩ /- ADAPT_DISCARD -/,
  ⟨0x4060, 16, 1, 0x0A, 1, 1, .enum8, .ro, .none, 0, 0, 0⟩ /- ADAPT_STATE -/,
  ⟨0x4060, 16, 1, 0x0B, 1, 1, .u16, .ro, .none, 0, 0, 0⟩ /- CANDIDATE -/,
  ⟨0x4060, 16, 1, 0x0C, 1, 1, .u32, .ro, .none, 0, 0, 0⟩ /- BASE_LOSS -/,
  ⟨0x4060, 16, 1, 0x0D, 1, 1, .u32, .ro, .none, 0, 0, 0⟩ /- CAND_LOSS -/,
  ⟨0x4060, 16, 1, 0x0E, 1, 1, .u32, .ro, .none, 0, 0, 0⟩ /- SAMPLES -/,
  ⟨0x4060, 16, 1, 0x0F, 1, 1, .u32, .ro, .none, 0, 0, 0⟩ /- CANDIDATES -/,
  ⟨0x4060, 16, 1, 0x10, 1, 1, .u32, .ro, .none, 0, 0, 0⟩ /- REJECTED -/,
  ⟨0x4060, 16, 1, 0x11, 1, 1, .u32, .ro, .none, 0, 0, 0⟩ /- PUBLISH_FAILS -/]

/-- Object rows of indices 0x4100 to 0x41FF. -/
def objRows41_0 : List ObjRow := [
  ⟨0x4100, 32, 1, 0x01, 1, 1, .u8, .rwc, .serve, 3, 3, 0⟩ /- DL_PREP -/,
  ⟨0x4100, 32, 1, 0x02, 1, 1, .u16, .rwc, .serve, 21, 21, 0⟩ /- CHUNK_PRB -/,
  ⟨0x4100, 32, 1, 0x03, 1, 1, .i32, .rwc, .serve, 1073741824, 1073741824, 0⟩ /- DL_SCALE_M -/,
  ⟨0x4100, 32, 1, 0x04, 1, 1, .u8, .rwc, .serve, 30, 30, 0⟩ /- DL_SCALE_S -/,
  ⟨0x4120, 32, 1, 0x01, 1, 1, .u32, .ro, .none, 0, 0, 0⟩ /- ORDERS -/,
  ⟨0x4120, 32, 1, 0x02, 1, 1, .u32, .ro, .none, 0, 0, 0⟩ /- ORDERS_LATE -/,
  ⟨0x4120, 32, 1, 0x03, 1, 1, .u32, .ro, .none, 0, 0, 0⟩ /- ORDERS_BAD -/,
  ⟨0x4120, 32, 1, 0x04, 1, 1, .u32, .ro, .none, 0, 0, 0⟩ /- SYM_LATE -/,
  ⟨0x4120, 32, 1, 0x05, 1, 1, .u32, .ro, .none, 0, 0, 0⟩ /- ENCODE_LATE -/,
  ⟨0x4120, 32, 1, 0x06, 1, 1, .u32, .ro, .none, 0, 0, 0⟩ /- DL_CLAMP -/]

/-- Object rows of indices 0x4200 to 0x42FF. -/
def objRows42_0 : List ObjRow := [
  ⟨0x4200, 1, 1, 0x01, 1, 1, .blob, .rwc, .serve, 0, 0, 512⟩ /- LDPC_TABLE -/,
  ⟨0x4200, 1, 1, 0x02, 1, 1, .u8, .rwc, .serve, 8, 8, 0⟩ /- MAX_ITER -/,
  ⟨0x4200, 1, 1, 0x03, 1, 1, .u8, .rwc, .serve, 1, 1, 0⟩ /- MIN_ITER -/,
  ⟨0x4200, 1, 1, 0x04, 1, 1, .bool, .rwc, .serve, 1, 1, 0⟩ /- EARLY_STOP -/,
  ⟨0x4200, 1, 1, 0x05, 1, 1, .u16, .rwc, .serve, 1000, 1000, 0⟩ /- CODING_CLOCK -/,
  ⟨0x4200, 1, 1, 0x06, 1, 1, .u32, .ro, .none, 0, 0, 0⟩ /- QUEUE_FULL -/,
  ⟨0x4200, 1, 1, 0x07, 1, 1, .u32, .ro, .none, 0, 0, 0⟩ /- ITER_CAPPED -/,
  ⟨0x4200, 1, 1, 0x08, 1, 1, .u32, .ro, .none, 0, 0, 0⟩ /- RM_EXCESS -/,
  ⟨0x4210, 14, 1, 0x01, 1, 1, .enum8, .ro, .none, 0, 0, 0⟩ /- STATE -/,
  ⟨0x4210, 14, 1, 0x02, 1, 1, .u32, .ro, .none, 0, 0, 0⟩ /- UNITS -/,
  ⟨0x4210, 14, 1, 0x03, 1, 1, .u32, .ro, .none, 0, 0, 0⟩ /- FAULTS -/,
  ⟨0x4240, 32, 1, 0x01, 1, 1, .u32, .rwc, .serve, 0, 0, 0⟩ /- UL_TBS_LBRM -/,
  ⟨0x4240, 32, 1, 0x02, 1, 1, .u32, .rwc, .serve, 0, 0, 0⟩ /- DL_TBS_LBRM -/,
  ⟨0x4240, 32, 1, 0x03, 1, 1, .u8, .rwc, .serve, 0, 0, 0⟩ /- LLR_POOL -/,
  ⟨0x4240, 32, 1, 0x04, 1, 1, .u8, .rwc, .serve, 0, 0, 0⟩ /- DL_BIT_POOL -/,
  ⟨0x4240, 32, 1, 0x05, 1, 1, .u32, .ro, .none, 0, 0, 0⟩ /- LLR_SHORT -/,
  ⟨0x4280, 16, 1, 0x01, 1, 1, .u16, .rwc, .serve, 4096, 0, 0⟩ /- HARQ_QUOTA -/,
  ⟨0x4280, 16, 1, 0x02, 1, 1, .u32, .rwc, .serve, 100, 100, 0⟩ /- HARQ_TIMEOUT -/,
  ⟨0x4280, 16, 1, 0x03, 1, 1, .u16, .ro, .none, 0, 0, 0⟩ /- USED -/,
  ⟨0x4280, 16, 1, 0x04, 1, 1, .u16, .ro, .none, 0, 0, 0⟩ /- PROCESSES -/,
  ⟨0x4280, 16, 1, 0x05, 1, 1, .u32, .ro, .none, 0, 0, 0⟩ /- HARQ_EVICT -/,
  ⟨0x4280, 16, 1, 0x06, 1, 1, .u32, .ro, .none, 0, 0, 0⟩ /- HARQ_NOSTORE -/,
  ⟨0x4280, 16, 1, 0x07, 1, 1, .u32, .ro, .none, 0, 0, 0⟩ /- COMBINE_MISS -/,
  ⟨0x4280, 16, 1, 0x08, 1, 1, .u32, .ro, .none, 0, 0, 0⟩ /- COMBINE_RESTART -/,
  ⟨0x42C0, 1, 1, 0x01, 1, 1, .u16, .ro, .none, 4096, 4096, 0⟩ /- TOTAL -/,
  ⟨0x42C0, 1, 1, 0x02, 1, 1, .u16, .ro, .none, 4096, 4096, 0⟩ /- FREE -/,
  ⟨0x42C0, 1, 1, 0x03, 1, 1, .u32, .ro, .none, 0, 0, 0⟩ /- HARQ_ECC -/]

/-- Object rows of indices 0x4300 to 0x43FF. -/
def objRows43_0 : List ObjRow := [
  ⟨0x4300, 32, 1, 0x01, 1, 1, .bool, .rwc, .serve, 0, 0, 0⟩ /- TD_ENABLE -/,
  ⟨0x4300, 32, 1, 0x02, 1, 1, .u16, .rwc, .serve, 4096, 4096, 0⟩ /- NFFT -/,
  ⟨0x4300, 32, 1, 0x03, 1, 1, .u8, .rwc, .serve, 6, 6, 0⟩ /- TD_SHIFT_DL -/,
  ⟨0x4300, 32, 1, 0x04, 1, 1, .u8, .rwc, .serve, 6, 6, 0⟩ /- TD_SHIFT_UL -/,
  ⟨0x4300, 32, 1, 0x05, 1, 1, .u8, .rwc, .serve, 1, 1, 0⟩ /- DL_TD_MARGIN -/,
  ⟨0x4300, 32, 1, 0x06, 1, 1, .u16, .rwc, .serve, 32, 32, 0⟩ /- RAMP_LEN -/,
  ⟨0x4300, 32, 1, 0x07, 1, 1, .blob, .rwc, .serve, 0, 0, 512⟩ /- RAMP_TABLE -/,
  ⟨0x4340, 8, 1, 0x01, 1, 1, .enum8, .ro, .none, 0, 0, 0⟩ /- STATE -/,
  ⟨0x4340, 8, 1, 0x02, 1, 1, .u32, .ro, .none, 0, 0, 0⟩ /- UNITS -/,
  ⟨0x4340, 8, 1, 0x03, 1, 1, .u32, .ro, .none, 0, 0, 0⟩ /- SAT -/]

/-- Object rows of indices 0x5000 to 0x50FF. -/
def objRows50_0 : List ObjRow := [
  ⟨0x5000, 1, 1, 0x01, 1, 1, .u16, .rwc, .serve, 300, 300, 0⟩ /- POWER_CAP -/,
  ⟨0x5000, 1, 1, 0x02, 1, 1, .enum8, .rwc, .serve, 1, 1, 0⟩ /- CLOCK_MODE -/,
  ⟨0x5000, 1, 1, 0x03, 1, 1, .u16, .rwc, .serve, 900, 900, 0⟩ /- FIXED_MHZ -/,
  ⟨0x5000, 1, 1, 0x04, 1, 1, .u16, .rwc, .serve, 1100, 1100, 0⟩ /- BOOST_MAX -/,
  ⟨0x5000, 1, 1, 0x05, 1, 1, .u16, .rwc, .serve, 0, 0, 0⟩ /- HOST_LIMIT -/,
  ⟨0x5000, 1, 1, 0x06, 1, 1, .u32, .ro, .none, 0, 0, 0⟩ /- POWER_MEASURED -/,
  ⟨0x5000, 1, 1, 0x07, 1, 1, .u32, .ro, .none, 0, 0, 0⟩ /- POWER_ESTIMATED -/,
  ⟨0x5000, 1, 1, 0x08, 1, 1, .u32, .ro, .none, 0, 0, 0⟩ /- POWER_USED -/,
  ⟨0x5000, 1, 1, 0x09, 1, 1, .enum8, .ro, .none, 0, 0, 0⟩ /- TELEMETRY -/,
  ⟨0x5000, 1, 1, 0x0A, 1, 1, .u16, .ro, .none, 0, 0, 0⟩ /- CORE_MV -/,
  ⟨0x5000, 1, 1, 0x0B, 1, 1, .u8, .ro, .none, 0, 0, 0⟩ /- THROTTLE_NOW -/,
  ⟨0x5000, 1, 1, 0x0C, 1, 1, .u32, .ro, .none, 0, 0, 0⟩ /- FIXED_BREACHES -/,
  ⟨0x5000, 1, 1, 0x0D, 1, 1, .u32, .ro, .none, 0, 0, 0⟩ /- PWRM_EVENTS -/,
  ⟨0x5001, 1, 1, 0x01, 6, 1, .u64, .ro, .none, 0, 0, 0⟩ /- THR_TIME1–6 -/,
  ⟨0x5002, 1, 1, 0x01, 6, 1, .u32, .ro, .none, 0, 0, 0⟩ /- THR_COUNT1–6 -/,
  ⟨0x5010, 1, 1, 0x01, 1, 1, .i32, .ro, .none, 0, 0, 0⟩ /- TJ_NOW -/,
  ⟨0x5010, 1, 1, 0x02, 1, 1, .i32, .rw, .immediate, 0, 0, 0⟩ /- TJ_PEAK -/,
  ⟨0x5010, 1, 1, 0x03, 1, 1, .i32, .rw, .immediate, 95000, 95000, 0⟩ /- THERM_WARN -/,
  ⟨0x5010, 1, 1, 0x04, 1, 1, .i32, .rw, .immediate, 103000, 103000, 0⟩ /- THERM_LIMIT -/,
  ⟨0x5010, 1, 1, 0x05, 1, 1, .blob, .ro, .none, 0, 0, 128⟩ /- SENSORS -/]

/-- Object rows of indices 0x5100 to 0x51FF. -/
def objRows51_0 : List ObjRow := [
  ⟨0x5100, 1, 1, 0x01, 1, 1, .u16, .ro, .none, 248, 248, 0⟩ /- DOMAINS -/,
  ⟨0x5100, 1, 1, 0x02, 1, 1, .u16, .ro, .none, 0, 0, 0⟩ /- CORE_MHZ -/,
  ⟨0x5100, 1, 1, 0x03, 1, 1, .u32, .ro, .none, 0, 0, 0⟩ /- GUSTS -/,
  ⟨0x5100, 1, 1, 0x04, 1, 1, .u32, .ro, .none, 0, 0, 0⟩ /- GUST_DEFERRALS -/,
  ⟨0x5100, 1, 1, 0x05, 1, 1, .u32, .ro, .none, 0, 0, 0⟩ /- RELOCK_RETRIES -/]

/-- Object rows of indices 0x5200 to 0x52FF. -/
def objRows52_0 : List ObjRow := [
  ⟨0x5200, 1, 1, 0x01, 1, 1, .blob, .ro, .none, 0, 0, 8192⟩ /- FAULT_LOG -/,
  ⟨0x5200, 1, 1, 0x02, 1, 1, .u32, .ro, .none, 0, 0, 0⟩ /- LOG_WRITTEN -/,
  ⟨0x5200, 1, 1, 0x03, 1, 1, .blob, .ro, .none, 0, 0, 16384⟩ /- FENCES -/,
  ⟨0x5200, 1, 1, 0x04, 1, 1, .bool, .rw, .immediate, 1, 1, 0⟩ /- LOG_ARCHIVE -/]

/-- Object rows of indices 0x5300 to 0x53FF. -/
def objRows53_0 : List ObjRow := [
  ⟨0x5300, 1, 1, 0x01, 1, 1, .u8, .rw, .immediate, 0, 0, 0⟩ /- WHISTLE_TB -/,
  ⟨0x5300, 1, 1, 0x02, 1, 1, .airpos, .wo, .immediate, 0, 0, 0⟩ /- WHISTLE -/,
  ⟨0x5300, 1, 1, 0x03, 1, 1, .enum8, .wo, .immediate, 0, 0, 0⟩ /- WHISTLE_CANCEL -/,
  ⟨0x5300, 1, 1, 0x04, 1, 1, .enum8, .wo, .immediate, 0, 0, 0⟩ /- WHISTLE_RESUME -/,
  ⟨0x5300, 1, 1, 0x05, 1, 1, .enum8, .ro, .none, 0, 0, 0⟩ /- WHISTLE_STATE -/,
  ⟨0x5300, 1, 1, 0x06, 1, 1, .enum8, .rwc, .serve, 0, 0, 0⟩ /- REPLAY_MODE -/,
  ⟨0x5300, 1, 1, 0x07, 1, 1, .u16, .rwc, .serve, 64, 64, 0⟩ /- REPLAY_RING -/,
  ⟨0x5300, 1, 1, 0x08, 1, 1, .enum8, .rwc, .serve, 0, 0, 0⟩ /- IQ_RECORD -/,
  ⟨0x5300, 1, 1, 0x09, 1, 1, .u8, .rwc, .serve, 15, 15, 0⟩ /- IQ_MIRROR_PORT -/,
  ⟨0x5300, 1, 1, 0x0A, 1, 1, .u64, .rwc, .serve, 0, 0, 0⟩ /- IQ_HOST_ADDR -/,
  ⟨0x5300, 1, 1, 0x0B, 1, 1, .enum8, .ro, .none, 0, 0, 0⟩ /- REPLAY_STATE -/,
  ⟨0x5300, 1, 1, 0x0C, 1, 1, .u64, .ro, .none, 0, 0, 0⟩ /- REPLAY_BYTES -/]

/-- Object rows of indices 0x6000 to 0x60FF. -/
def objRows60_0 : List ObjRow := [
  ⟨0x6000, 1, 1, 0x01, 1, 1, .u8, .rw, .immediate, 3, 3, 0⟩ /- TRACE_SHARE -/,
  ⟨0x6000, 1, 1, 0x02, 1, 1, .enum8, .rw, .immediate, 2, 2, 0⟩ /- TRACE_DEST -/,
  ⟨0x6000, 1, 1, 0x03, 1, 1, .u64, .rw, .immediate, 0, 0, 0⟩ /- TRACE_HOST_ADDR -/,
  ⟨0x6000, 1, 1, 0x04, 1, 1, .u32, .rw, .immediate, 0, 0, 0⟩ /- TRACE_HOST_SIZE -/,
  ⟨0x6000, 1, 1, 0x05, 1, 1, .u32, .ro, .none, 0, 0, 0⟩ /- TRACE_DROPPED -/,
  ⟨0x6010, 1, 1, 0x01, 64, 1, .u64, .ro, .none, 0, 0, 0⟩ /- GCOUNT0–63 -/,
  ⟨0x6011, 1, 1, 0x01, 64, 1, .u16, .rw, .immediate, 0, 0, 0⟩ /- GSEL0–63 -/,
  ⟨0x6000, 1, 1, 0x06, 1, 1, .bool, .rw, .boot, 0, 0, 0⟩ /- DEBUG_JTAG -/,
  ⟨0x6000, 1, 1, 0x07, 1, 1, .u32, .rw, .immediate, 0, 0, 0⟩ /- SNAP_PERIOD -/,
  ⟨0x6000, 1, 1, 0x08, 1, 1, .u32, .ro, .none, 0, 0, 0⟩ /- TRACE_SPILL_POS -/]

/-- Object rows of indices 0x7000 to 0x70FF. -/
def objRows70_0 : List ObjRow := [
  ⟨0x7000, 1, 1, 0x01, 1, 1, .blob, .ro, .none, 0, 0, 64⟩ /- FW_SLOTS -/,
  ⟨0x7000, 1, 1, 0x02, 1, 1, .blob, .wo, .immediate, 0, 0, 0⟩ /- FW_WRITE -/,
  ⟨0x7000, 1, 1, 0x03, 1, 1, .u8, .rwc, .serve, 0, 0, 0⟩ /- FW_ACTIVATE -/,
  ⟨0x7000, 1, 1, 0x04, 1, 1, .enum8, .ro, .none, 0, 0, 0⟩ /- FW_STATE -/,
  ⟨0x7000, 1, 1, 0x05, 1, 1, .u32, .ro, .none, 0, 0, 0⟩ /- ROLLBACK -/,
  ⟨0x7000, 1, 1, 0x06, 1, 1, .bool, .rw, .boot, 0, 0, 0⟩ /- MODEL_SIG_REQUIRED -/,
  ⟨0x7000, 1, 1, 0x07, 1, 1, .blob, .ro, .none, 0, 0, 16384⟩ /- IDENTITY_CERT -/,
  ⟨0x7000, 1, 1, 0x08, 1, 1, .blob, .wo, .immediate, 0, 0, 32⟩ /- ATTEST_NONCE -/,
  ⟨0x7000, 1, 1, 0x09, 1, 1, .blob, .ro, .none, 0, 0, 31684⟩ /- ATTEST_REPORT -/,
  ⟨0x7000, 1, 1, 0x0A, 1, 1, .blob, .ro, .none, 0, 0, 14508⟩ /- MEASUREMENTS -/,
  ⟨0x7001, 1, 1, 0x01, 1, 1, .enum8, .ro, .none, 0, 0, 0⟩ /- FW_REASON -/,
  ⟨0x7001, 1, 1, 0x02, 1, 1, .blob, .rw, .boot, 0, 0, 128⟩ /- MODEL_KEYS -/,
  ⟨0x7001, 1, 1, 0x03, 1, 1, .blob, .rwc, .serve, 0, 0, 32⟩ /- SF_PACKAGES -/]

/-- Object rows of indices 0x8000 to 0x80FF. -/
def objRows80_0 : List ObjRow := [
  ⟨0x8000, 64, 1, 0x40, 4, 2, .u64, .rw, .immediate, 0, 0, 0⟩ /- ENG_MAX -/,
  ⟨0x8000, 64, 1, 0x41, 4, 2, .blob, .rw, .immediate, 0, 0, 2048⟩ /- ENG_CHMAX -/,
  ⟨0x8000, 64, 1, 0x01, 1, 1, .enum8, .ro, .none, 4, 4, 0⟩ /- STATE -/,
  ⟨0x8000, 64, 1, 0x02, 1, 1, .u8, .ro, .none, 255, 255, 0⟩ /- COURT -/,
  ⟨0x8000, 64, 1, 0x03, 1, 1, .u8, .ro, .none, 0, 0, 0⟩ /- QUARTERS_FENCED -/,
  ⟨0x8000, 64, 1, 0x04, 1, 1, .u8, .ro, .none, 0, 0, 0⟩ /- CONTEXTS -/,
  ⟨0x8000, 64, 1, 0x05, 1, 1, .u8, .ro, .none, 1, 1, 0⟩ /- GROUPS -/,
  ⟨0x8000, 64, 1, 0x06, 1, 1, .u32, .ro, .none, 0, 0, 0⟩ /- ECC_CORR -/,
  ⟨0x8000, 64, 1, 0x07, 1, 1, .u32, .ro, .none, 0, 0, 0⟩ /- TILE_PARITY -/,
  ⟨0x8000, 64, 1, 0x08, 1, 1, .u32, .ro, .none, 0, 0, 0⟩ /- SF_ECC_CORR -/,
  ⟨0x8000, 64, 1, 0x09, 1, 1, .enum8, .ro, .none, 0, 0, 0⟩ /- BIST -/,
  ⟨0x8000, 64, 1, 0x0A, 1, 1, .u64, .ro, .none, 0, 0, 0⟩ /- CYCLES -/,
  ⟨0x8000, 64, 1, 0x0B, 1, 1, .bool, .rw, .immediate, 0, 0, 0⟩ /- TRACE_ENABLE -/,
  ⟨0x8000, 64, 1, 0x10, 16, 1, .u64, .ro, .none, 0, 0, 0⟩ /- COUNT0–15 -/,
  ⟨0x8000, 64, 1, 0x20, 16, 1, .u16, .rw, .immediate, 0, 0, 0⟩ /- COUNT_SEL0–15 -/]

/-- The rows that can hold an index, by its upper byte. -/
def objRows (index : Nat) : List ObjRow :=
  match index / 256 with
  | 0x10 => objRows10_0
  | 0x11 => objRows11_0
  | 0x12 => objRows12_0
  | 0x20 => objRows20_0
  | 0x21 => objRows21_0
  | 0x22 => objRows22_0
  | 0x23 => objRows23_0
  | 0x24 => objRows24_0
  | 0x25 => objRows25_0
  | 0x26 => objRows26_0
  | 0x30 => objRows30_0
  | 0x31 => objRows31_0
  | 0x32 => objRows32_0
  | 0x33 => objRows33_0
  | 0x40 => objRows40_0
  | 0x41 => objRows41_0
  | 0x42 => objRows42_0
  | 0x43 => objRows43_0
  | 0x50 => objRows50_0
  | 0x51 => objRows51_0
  | 0x52 => objRows52_0
  | 0x53 => objRows53_0
  | 0x60 => objRows60_0
  | 0x70 => objRows70_0
  | 0x80 => objRows80_0
  | _ => []

/-- Whether a row holds index and subindex. -/
def ObjRow.holds (r : ObjRow) (index sub : Nat) : Bool :=
  decide (r.index ≤ index) && decide ((index - r.index) % r.stride = 0) && decide ((index - r.index) / r.stride < r.count)
    && decide (r.sub ≤ sub) && decide ((sub - r.sub) % r.subStride = 0) && decide ((sub - r.sub) / r.subStride < r.subs)

/-- The row of an object, where the dictionary has it. -/
def objRow (index sub : Nat) : Option ObjRow := (objRows index).find? (fun r => r.holds index sub)

/-- The default of a scalar object: its value after reset (R10). -/
def objDefault (k : Nat) : Nat :=
  match objRow (k / 256) (k % 256) with
  | some r => if k / 256 = r.index then r.dflt0 else r.dflt
  | none => 0

/-- The value in force of a scalar object. -/
def State.get (s : State) (index sub : Nat) : Nat := Tbl.get (objDefault (okey index sub)) s.obj (okey index sub)

/-- The state with a scalar object's value replaced. -/
def State.put (s : State) (index sub v : Nat) : State :=
  { s with obj := Tbl.set (objDefault (okey index sub)) s.obj (okey index sub) v }

/-- A counter object one higher, modulo 2^32 (R351). -/
def State.bump (s : State) (index sub : Nat) : State := s.put index sub ((s.get index sub + 1) % 2 ^ 32)

/-- A counter object n higher, modulo 2^32. -/
def State.bumpBy (s : State) (index sub n : Nat) : State := s.put index sub ((s.get index sub + n) % 2 ^ 32)

/-- The default RAMP_TABLE of a carrier. -/
def rampDefault : List Nat := [20, 177, 491, 958, 1573, 2331, 3224, 4244, 5381, 6624, 7961, 9379, 10864, 12403, 13980, 15580, 17188, 18788, 20365, 21904, 23389, 24807, 26144, 27387, 28524, 29544, 30437, 31195, 31810, 32277, 32591, 32748]

/-- A STR or BLOB object in force. Its value after reset is that of `blobDefault`. -/
def blobDefault (k : Nat) : List Byte :=
  if k = okey 0x1000 1 then [0x53#8, 0x77#8, 0x65#8, 0x6C#8, 0x61#8, 0x73#8, 0x20#8, 0x53#8, 0x65#8, 0x6D#8, 0x69#8, 0x63#8, 0x6F#8, 0x6E#8, 0x64#8, 0x75#8, 0x63#8, 0x74#8, 0x6F#8, 0x72#8]
  else if k = okey 0x1000 2 then [0x46#8, 0x6C#8, 0x61#8, 0x6D#8, 0x75#8, 0x61#8, 0x6E#8, 0x6F#8, 0x20#8, 0x37#8, 0x32#8, 0x36#8, 0x34#8]
  else if k = okey 0x1000 4 then [0x46#8, 0x4C#8, 0x4D#8, 0x37#8, 0x32#8, 0x36#8, 0x34#8, 0x2D#8, 0x42#8, 0x30#8, 0x2D#8, 0x49#8, 0x58#8]
  else if k % 256 = 9 ∧ 0x4000 ≤ k / 256 ∧ k / 256 < 0x4020 then
    (List.range 5).flatMap (fun _ => [0x00#8, 0x00#8, 0x80#8, 0x3F#8])
  else if k % 256 = 7 ∧ 0x4300 ≤ k / 256 ∧ k / 256 < 0x4320 then rampDefault.flatMap fun w => bytesOf 2 w
  else if k = okey 0x4200 1 then
    (List.range 256).flatMap fun e => [BitVec.ofNat 8 ((Config.ldpcReference e).toNat / 256), BitVec.ofNat 8 (Config.ldpcReference e).toNat]
  else if 0x8000 ≤ k / 256 ∧ k / 256 < 0x8040 ∧ (k % 256 = 0x41 ∨ k % 256 = 0x43 ∨ k % 256 = 0x45 ∨ k % 256 = 0x47) then
    List.replicate 2048 0#8
  else []

def State.blobAt (s : State) (index sub : Nat) : List Byte := Tbl.get (blobDefault (okey index sub)) s.blob (okey index sub)
def State.putBlob (s : State) (index sub : Nat) (b : List Byte) : State :=
  { s with blob := Tbl.set (blobDefault (okey index sub)) s.blob (okey index sub) b }

/-! ### Time bases through their objects (Table 2.7) -/

def State.tbMu (s : State) (n : Nat) : Nat := s.get (0x2000 + n * 16) 2
def State.tbEcp (s : State) (n : Nat) : Bool := s.get (0x2000 + n * 16) 3 == 1
/-- The present AIRPOS of time base n. -/
def State.airNow (s : State) (n : Nat) : Nat := tcToAirpos (s.tbMu n) (s.tbEcp n) (s.tb n).tc
/-- The Tc count of an AIRPOS on time base n. -/
def State.tcOf (s : State) (n p : Nat) : Nat := airposToTc (s.tbMu n) (s.tbEcp n) p
/-- Whether time base n has reached the instant t (a Tc count of one period): one exactly half a period ahead lies in the past (R28). -/
def State.reached (s : State) (n t : Nat) : Bool := decide (airDiff (s.tb n).tc t ≤ 0)

/-- The unreduced count of time base n at an instant of one AIRPOS period. -/
def State.countOf (s : State) (n t : Nat) : Int := ((s.tb n).tc : Int) + airDiff (s.tb n).tc t

/-- A signed 32-bit or 64-bit object's value. -/
def asI32 (x : Nat) : Int := signed 32 x
def asI64 (x : Nat) : Int := signed 64 x

end Sys2Proof.Machine
end

