-- ==== Sys2Proof/Machine/Operands.lean ====
section
/-! DEFINITION. Fields of a slot syllable (Tables 4.2 and 4.3), register classes (Table 4.4), condition codes
(Table 4.6) and the checks every syllable undergoes before it acts (R81 to R83). -/

namespace Sys2Proof.Machine

open Sys2Proof

/-! ### Fields -/

/-- `w` bits of the syllable from bit `lo`. -/
def sylBits (b : BitVec 64) (lo w : Nat) : Nat := b.toNat / 2 ^ lo % 2 ^ w

def sylPen (b : BitVec 64) : Bool := sylBits b 55 1 == 1
def sylPsel (b : BitVec 64) : Nat := sylBits b 52 3
def sylPneg (b : BitVec 64) : Bool := sylBits b 51 1 == 1
def sylD (b : BitVec 64) : Nat := sylBits b 44 7
def sylA (b : BitVec 64) : Nat := sylBits b 37 7
def sylB (b : BitVec 64) : Nat := sylBits b 30 7
def sylVC (b : BitVec 64) : Nat := sylBits b 23 7
def sylSH (b : BitVec 64) : Nat := sylBits b 17 6
def sylET (b : BitVec 64) : Nat := sylBits b 8 4
def sylFN (b : BitVec 64) : Nat := sylBits b 0 8
/-- IMM32 of form I. -/
def sylImm (b : BitVec 64) : BitVec 32 := BitVec.ofNat 32 (sylBits b 5 32)
/-- FN of form I. -/
def sylFnI (b : BitVec 64) : Nat := sylBits b 0 5
def sylPI (b : BitVec 64) : Bool := sylBits b 36 1 == 1
/-- OFS of form M, signed bytes, as 48 bits. -/
def sylOfsM (b : BitVec 64) : BitVec 48 := (BitVec.ofNat 24 (sylBits b 0 24)).signExtend 48
def sylCond (b : BitVec 64) : Nat := sylBits b 47 4
def sylFG (b : BitVec 64) : Nat := sylBits b 46 1
/-- OFS of form J in bytes, as 48 bits. -/
def sylOfsJ (b : BitVec 64) : BitVec 48 := ((BitVec.ofNat 32 (sylBits b 0 32)).signExtend 48) <<< 3
def sylLvl (b : BitVec 64) : Nat := sylBits b 49 2
def sylCI (b : BitVec 64) : Bool := sylBits b 48 1 == 1
def sylCount (b : BitVec 64) : Nat := sylBits b 20 17
/-- END of form LP, in bytes. -/
def sylEnd (b : BitVec 64) : Nat := sylBits b 0 20 * 8

/-! ### Register classes (Table 4.4) -/

def isG (r : Nat) : Bool := decide (r < 0x20)
def isA (r : Nat) : Bool := decide (0x20 ≤ r ∧ r < 0x30)
def isP (r : Nat) : Bool := decide (0x30 ≤ r ∧ r < 0x38)
def isV (r : Nat) : Bool := decide (0x40 ≤ r ∧ r < 0x60)
def isLc (r : Nat) : Bool := decide (0x60 ≤ r ∧ r < 0x64)
def isLse (r : Nat) : Bool := decide (0x64 ≤ r ∧ r < 0x6C)

/-! ### Condition codes (Table 4.6) -/

/-- The four flags of a group: N, Z, C, V (Table 3.3, cs0x001). -/
def flagGroup (f : Byte) (g : Nat) : Bool × Bool × Bool × Bool :=
  let x := f.toNat / 16 ^ g
  (x / 8 % 2 == 1, x / 4 % 2 == 1, x / 2 % 2 == 1, x % 2 == 1)

/-- Whether a condition holds on a flag group. 0xF is reserved. -/
def condHolds (f : Byte) (g c : Nat) : Bool :=
  let q := flagGroup f g
  let n := q.1
  let z := q.2.1
  let cc := q.2.2.1
  let v := q.2.2.2
  match c with
  | 0x0 => z
  | 0x1 => !z
  | 0x2 => cc
  | 0x3 => !cc
  | 0x4 => n
  | 0x5 => !n
  | 0x6 => v
  | 0x7 => !v
  | 0x8 => cc && !z
  | 0x9 => !cc || z
  | 0xA => n == v
  | 0xB => n != v
  | 0xC => !z && (n == v)
  | 0xD => z || (n != v)
  | 0xE => true
  | _ => false

/-! ### Reserved fields and classes (R81, R82) -/

/-- The operand classes and reserved fields of form R: which of D, A, B must be of which class, given as tests,
C[16:12] zero, and the element types and function codes the opcode lists. -/
def formR (b : BitVec 64) (d a bb : Nat → Bool) (et fn : Nat → Bool) : Bool :=
  d (sylD b) && a (sylA b) && bb (sylB b) && (sylBits b 12 5 == 0) && et (sylET b) && fn (sylFN b)

/-- Any value: a field the opcode does not use. -/
def anyF (_ : Nat) : Bool := true

/-- Form M: [35:24] reserved. -/
def formM (b : BitVec 64) (d : Nat → Bool) : Bool := d (sylD b) && isA (sylA b) && (sylBits b 24 12 == 0)

/-- Form J: [45:44] and [36:32] reserved. -/
def formJ (b : BitVec 64) : Bool := (sylBits b 44 2 == 0) && (sylBits b 32 5 == 0)

/-! ### Slots of an opcode (Tables 4.5, 4.7, 4.8, 4.10, 4.11, 4.12) -/

/-- The opcode [63:56] of an operation in its slot's table (Tables 4.5, 4.7, 4.8, 4.10, 4.11, 4.12). -/
def opcodeOf (op : CoreOp) : Nat :=
  match op with
  | .nop => 0
  | .add => 1
  | .sub => 2
  | .addi => 3
  | .and => 4
  | .or => 5
  | .xor => 6
  | .li => 7
  | .shl => 8
  | .shr => 9
  | .sra => 0xA
  | .mul => 0xB
  | .mulh => 0xC
  | .min => 0xD
  | .max => 0xE
  | .cmp => 0xF
  | .cmpi => 0x10
  | .sel => 0x11
  | .br => 0x20
  | .bri => 0x21
  | .call => 0x22
  | .csrr => 0x30
  | .csrw => 0x31
  | .csrc => 0x32
  | .endJob => 0x3E
  | .resume => 0x3F
  | .ldb => 1
  | .ldbu => 2
  | .ldh => 3
  | .ldhu => 4
  | .ldw => 5
  | .lda => 6
  | .ldp => 7
  | .ldv => 8
  | .stb => 0x11
  | .sth => 0x12
  | .stw => 0x13
  | .sta => 0x14
  | .stp => 0x15
  | .stv => 0x16
  | .aadd => 1
  | .aaddi => 2
  | .amov => 3
  | .afromg => 4
  | .atog => 5
  | .sstart => 0x10
  | .spause => 0x11
  | .sstat => 0x12
  | .twait => 0x20
  | .tadd => 0x21
  | .tacq => 0x22
  | .trel => 0x23
  | .tread => 0x24
  | .hdeq => 0x30
  | .henq => 0x31
  | .vadd => 1
  | .vsub => 2
  | .vmul => 3
  | .vfma => 4
  | .vmin => 5
  | .vmax => 6
  | .vabs => 7
  | .vand => 8
  | .vor => 9
  | .vxor => 0xA
  | .vshl => 0xB
  | .vmulrs => 0xC
  | .vdmacs => 0xD
  | .vdnarrow => 0xE
  | .vcmp => 0xF
  | .vsel => 0x10
  | .vbcast => 0x11
  | .vcvt => 0x12
  | .vperm => 0x20
  | .vshuf => 0x21
  | .vpack => 0x22
  | .vunpack => 0x23
  | .vcompress => 0x24
  | .vexpand => 0x25
  | .vred => 0x30
  | .vtset => 0x31
  | .vmrd => 0x40
  | .mtile => 1
  | .mwld => 2
  | .mwpass => 3
  | .mpass => 4
  | .mrq => 5
  | .msplit => 6
  | .moutl => 7
  | .mbwd => 8
  | .fexp => 1
  | .flog => 2
  | .frcp => 3
  | .frsqrt => 4
  | .fsigm => 5
  | .ftanh => 6
  | .fsoftp => 7
  | .fsincos => 8
  | .fatan2 => 9
  | .fsmooth => 0xA
  | .fmp => 0xF
  | .loop => 0x20
  | .mvfl => 0x21
  | .mvtl => 0x22
  | .vsetvl => 0x23
  | .sfbank => 0x30

/-- The operations of a slot's opcode table beside NOP: S0 and S1 share one table (R81). -/
def slotOps (slot : Nat) : List CoreOp :=
  match slot with
  | 0 | 1 => [.add, .sub, .addi, .and, .or, .xor, .li, .shl, .shr, .sra, .mul, .mulh, .min, .max, .cmp, .cmpi, .sel, .br, .bri, .call, .csrr,
    .csrw, .csrc, .endJob, .resume]
  | 2 => [.ldb, .ldbu, .ldh, .ldhu, .ldw, .lda, .ldp, .ldv, .stb, .sth, .stw, .sta, .stp, .stv]
  | 3 => [.aadd, .aaddi, .amov, .afromg, .atog, .sstart, .spause, .sstat, .twait, .tadd, .tacq, .trel, .tread, .hdeq, .henq]
  | 4 => [.vadd, .vsub, .vmul, .vfma, .vmin, .vmax, .vabs, .vand, .vor, .vxor, .vshl, .vmulrs, .vdmacs, .vdnarrow, .vcmp, .vsel, .vbcast,
    .vcvt, .vperm, .vshuf, .vpack, .vunpack, .vcompress, .vexpand, .vred, .vtset, .vmrd]
  | 5 => [.mtile, .mwld, .mwpass, .mpass, .mrq, .msplit, .moutl, .mbwd]
  | 6 => [.fexp, .flog, .frcp, .frsqrt, .fsigm, .ftanh, .fsoftp, .fsincos, .fatan2, .fsmooth, .fmp, .loop, .mvfl, .mvtl, .vsetvl,
    .sfbank]
  | _ => []

/-- Whether a slot's opcode table lists the opcode (R81); every slot has NOP. -/
def opInSlot (op : CoreOp) (slot : Nat) : Bool := (op == .nop && decide (slot < 7)) || (slotOps slot).contains op

/-- Opcode of a syllable (Table 4.2). -/
def sylOpc (b : BitVec 64) : Nat := sylBits b 56 8

/-- Whether the fields of the syllable are legal ones of its opcode, as far as the opcode tables say (Tables 4.5, 4.7, 4.8, 4.10, 4.11,
4.12). What raises ILLEGAL with an EVT_INFO of its own is checked by the operation. -/
def fieldsLegal (op : CoreOp) (slot : Nat) (b : BitVec 64) : Bool :=
  let gg := formR b isG isG isG anyF anyF
  let vvv := fun et => formR b isV isV isV et anyF
  let fns := formR b isV isV anyF (fun e => e == 6 || e == 7) anyF
  match op with
  | .nop => sylBits b 12 5 == 0
  | .add | .sub | .and | .or | .xor | .shl | .shr | .sra | .mul | .mulh | .min | .max => gg
  | .addi => isG (sylD b) && isG (sylA b)
  | .li => isG (sylD b)
  | .cmp => gg && (sylD b == 0)
  | .cmpi => isG (sylA b) && (sylD b == 0)
  | .sel => gg && (sylFN b % 16 != 15)
  | .br => formJ b && (sylCond b != 15)
  | .bri => formJ b && (sylCond b != 15) && isA (sylA b)
  | .call => formJ b && (sylCond b == 14) && (sylFG b == 0) && isA (sylA b)
  | .csrr => isG (sylD b)
  | .csrw => isG (sylA b)
  | .csrc => isG (sylA b)
  | .endJob => (slot == 0) && (sylBits b 12 5 == 0)
  | .resume => (slot == 0) && (sylBits b 12 5 == 0) && isA (sylA b)
  | .ldb | .ldbu | .ldh | .ldhu | .ldw | .stb | .sth | .stw => formM b isG
  | .lda | .sta => formM b isA
  | .ldp | .stp => formM b isP
  | .ldv | .stv => formM b isV
  | .aadd => formR b isA isA isG anyF anyF
  | .aaddi => isA (sylD b) && isA (sylA b)
  | .amov => formR b isA isA anyF anyF anyF
  | .afromg => formR b isA isG isG anyF anyF
  | .atog => formR b isG isA anyF anyF anyF
  | .sstart => formR b anyF isA isG anyF anyF
  | .spause => formR b anyF anyF anyF anyF anyF
  | .sstat => formR b isG anyF anyF anyF anyF
  | .twait | .tadd => formR b anyF isG isG anyF anyF
  | .tacq | .tread => formR b isG isG anyF anyF anyF
  | .trel => formR b anyF isG anyF anyF anyF
  | .hdeq => formR b isG isG anyF anyF anyF
  | .henq => formR b anyF isG isG anyF anyF
  | .vadd | .vsub | .vmul => vvv (fun e => decide (e ≤ 9))
  | .vfma => formR b isV isV isV (fun e => e == 6 || e == 7) anyF && isV (sylVC b)
  | .vmin | .vmax => vvv etIsReal
  | .vabs => formR b isV isV anyF etIsReal anyF
  | .vand | .vor | .vxor => vvv (fun e => decide (e ≤ 9))
  | .vshl => formR b isV isV anyF etIsInt anyF
  | .vmulrs => vvv (fun e => e == 2 || e == 5)
  | .vdmacs => vvv (fun e => e == 2 || e == 5) && (sylD b % 2 == 0)
  | .vdnarrow => formR b isV isV anyF (fun e => e == 2) anyF && (sylA b % 2 == 0)
  | .vcmp => formR b isP isV isV etIsReal (fun f => decide (f % 8 ≤ 5))
  | .vsel => vvv (fun e => decide (e ≤ 9)) && isP (sylVC b)
  | .vbcast => formR b isV isG anyF (fun e => etIsInt e || e == 6 || e == 7) anyF
  | .vcvt => formR b isV isV anyF (fun e => decide (e ≤ 9))
      (fun f => decide (f % 16 ≤ 9) && (etIsComplex (f % 16) == etIsComplex (sylET b)))
  | .vperm | .vshuf => vvv (fun e => decide (e ≤ 9)) && (op != .vshuf || decide (sylFN b ≤ 5))
  | .vpack => vvv (fun e => decide (e ≤ 9))
  | .vunpack => formR b isV isV anyF (fun e => decide (e ≤ 9)) anyF
  | .vcompress | .vexpand => formR b isV isV anyF (fun e => decide (e ≤ 9)) anyF && isP (sylVC b) && !sylPen b
  | .vred => formR b isV isV (fun r => sylFN b % 4 != 2 || isV r) etIsReal (fun f => decide (f / 32 ≤ 3)) && decide (sylSH b ≤ 1)
  | .vtset => formR b anyF isA anyF anyF anyF
  | .vmrd => formR b isV anyF anyF (fun e => e == 5 || e == 3 || e == 7) anyF
  | .mtile | .mwld | .moutl => formR b anyF isA anyF anyF anyF
  | .mwpass => formR b anyF anyF anyF anyF anyF
  | .mpass | .mbwd => formR b anyF isA isG anyF anyF
  | .mrq => formR b anyF isG isG anyF anyF
  | .msplit => formR b anyF anyF anyF anyF (fun f => f % 4 != 3)
  | .fexp | .flog | .frcp | .frsqrt | .fsigm | .ftanh | .fsoftp | .fsmooth => fns
  | .fsincos => fns && (sylD b != 0x5F)
  | .fatan2 => formR b isV isV isV (fun e => e == 6 || e == 7) anyF
  | .fmp => fns
  | .loop => (sylBits b 44 4 == 0) && (sylCI b || isG (sylA b))
  | .mvfl => formR b (fun d => (isLc (sylA b) && isG d) || (isLse (sylA b) && isA d)) anyF anyF anyF anyF
  | .mvtl => formR b (fun d => (isLc d && isG (sylA b)) || (isLse d && isA (sylA b))) anyF anyF anyF anyF
  | .vsetvl => isG (sylD b) && isG (sylA b) && (sylA b == 0 || sylBits b 12 5 == 0)
  | .sfbank => formR b anyF anyF anyF anyF anyF

/-- Whether a syllable is one of the operation in its slot: the slot's table lists the opcode it carries (R81). A syllable whose opcode the table
leaves reserved is one of no operation; it is presented as NOP. -/
def sylIs (op : CoreOp) (slot : Nat) (b : BitVec 64) : Bool := opInSlot op slot && sylOpc b == opcodeOf op

/-- Whether the syllable is a legal one of its slot: its opcode is in the slot's table and its fields are legal (R81, R82). -/
def sylLegal (op : CoreOp) (slot : Nat) (b : BitVec 64) : Bool := sylIs op slot b && fieldsLegal op slot b

/-- Whether the opcode's predicate works lane by lane (R83): V slot, LDV and STV. -/
def byLane (op : CoreOp) (slot : Nat) : Bool := slot == 4 || op == .ldv || op == .stv

/-- Opcode [63:58] of a stream instruction (Table 8.4). -/
def streamOpc (x : StreamIssue) : Nat := x.word.toNat / 2 ^ 58

/-- Operand of a syllable's operation: the core, the slot and the syllable. -/
structure SylArg where
  n : Nat
  slot : Nat
  body : BitVec 64
  ecc : EccFind := .clean
  deriving DecidableEq, Repr

end Sys2Proof.Machine
end

