-- ==== Sys2Proof/Machine/Flags.lean ====
section
/-! DEFINITION. Every flag computation of the scalar slots (R53, R85). -/

namespace Sys2Proof.Machine

open Sys2Proof

/-- The four flags as the bits N, Z, C, V of a group. -/
def packNZCV (n z c v : Bool) : Nat := (if n then 8 else 0) + (if z then 4 else 0) + (if c then 2 else 0) + (if v then 1 else 0)

/-- N is bit 31 of the result. -/
def flagN (r : Word32) : Bool := r.msb
/-- Z is 1 when the result is zero. -/
def flagZ (r : Word32) : Bool := r == 0#32

/-- ADD and ADDI: C the carry out of bit 31, V the signed overflow. -/
def flagsAdd (a b : Word32) : Nat :=
  let r := a + b
  packNZCV (flagN r) (flagZ r) (decide (2 ^ 32 ≤ a.toNat + b.toNat)) (decide (a.toInt + b.toInt ≠ r.toInt))

/-- SUB, CMP and CMPI: C when no borrow occurs, V the signed overflow. -/
def flagsSub (a b : Word32) : Nat :=
  let r := a - b
  packNZCV (flagN r) (flagZ r) (decide (b.toNat ≤ a.toNat)) (decide (a.toInt - b.toInt ≠ r.toInt))

/-- "NZ": N and Z of the result, C and V clear. -/
def flagsNZ (r : Word32) : Nat := packNZCV (flagN r) (flagZ r) false false

/-- "NZC" of a shift: C is the last bit shifted out, 0 for a shift by 0; V clear. -/
def flagsShift (r : Word32) (c : Bool) : Nat := packNZCV (flagN r) (flagZ r) c false

/-- Last bit shifted out of a left shift by n. -/
def shlOut (a : Word32) (n : Nat) : Bool := decide (0 < n) && decide (n ≤ 32) && a.getLsbD (32 - n)
/-- Last bit shifted out of a logical right shift by n. -/
def shrOut (a : Word32) (n : Nat) : Bool := decide (0 < n) && a.getLsbD (n - 1)
/-- Last bit shifted out of an arithmetic right shift by n. -/
def sraOut (a : Word32) (n : Nat) : Bool := decide (0 < n) && (if n ≤ 32 then a.getLsbD (n - 1) else a.msb)

/-- The flag byte with one group replaced (R53). -/
def putFlags (f : Byte) (g : Nat) (x : Nat) : Byte :=
  BitVec.ofNat 8 (if g = 0 then f.toNat / 16 * 16 + x % 16 else x % 16 * 16 + f.toNat % 16)

end Sys2Proof.Machine
end

