-- ==== Sys2Proof/Machine/Status.lean ====
section
/-! DEFINITION. The Device Status Word, CHANGES, the attention sources (R329 to R333) and the fault log (R395, R397). -/

namespace Sys2Proof.Machine

open Sys2Proof

/-! ### Objects that exist once per function, or once per Rally scope (R344) -/

/-- The default of a banked key: the default of the object itself. -/
def bankDefault (k : Nat) : Nat := objDefault (k % 2 ^ 24)
/-- The value for bank b (function, or Rally scope 0 to 15 and 16 for the device) of an object. -/
def State.getB (s : State) (b index sub : Nat) : Nat :=
  Tbl.get (bankDefault (okey index sub)) s.obj (okey index sub + b * 2 ^ 24)
def State.putB (s : State) (b index sub v : Nat) : State :=
  { s with obj := Tbl.set (bankDefault (okey index sub)) s.obj (okey index sub + b * 2 ^ 24) v }
def State.bumpB (s : State) (b index sub : Nat) : State := s.putB b index sub ((s.getB b index sub + 1) % 2 ^ 32)

/-! ### Event counters (R457, R458) -/

/-- `amt` events of selector `sel` on core n: every COUNT whose COUNT_SEL names it advances. -/
def State.countCore (s : State) (n sel amt : Nat) : State :=
  (s.obj.filter fun e => e.1 / 16 == okey (0x8000 + n) 0x20 / 16 && e.2 == sel).foldl (fun (s : State) e =>
    s.put (0x8000 + n) (e.1 % 256 - 0x10) ((s.get (0x8000 + n) (e.1 % 256 - 0x10) + amt) % 2 ^ 64)) s

/-- `amt` events of selector `sel` of the chip: every GCOUNT whose GSEL names it advances. -/
def State.countGlobal (s : State) (sel amt : Nat) : State :=
  (s.obj.filter fun e => e.1 / 256 == 0x6011 && e.2 == sel).foldl (fun (s : State) e =>
    s.put 0x6010 (e.1 % 256) ((s.get 0x6010 (e.1 % 256) + amt) % 2 ^ 64)) s

/-! ### Scopes -/

/-- Carriers of a Court. -/
def State.courtCarriers (s : State) (k : Nat) : List Nat :=
  (List.range 32).filter fun c => (s.get (0x3000 + k) 2).testBit c
/-- Whether a core belongs to a Court. -/
def State.coreInCourt (s : State) (k n : Nat) : Bool := (s.get (0x3000 + k) 1).testBit n
/-- The Court of a carrier; 0xFF none. -/
def State.carrierCourt (s : State) (c : Nat) : Nat :=
  match (List.range 16).find? (fun k => (s.get (0x3000 + k) 2).testBit c) with
  | some k => k
  | none => 0xFF
/-- The Court of a core; 0xFF none. -/
def State.coreCourt (s : State) (n : Nat) : Nat :=
  match (List.range 16).find? (fun k => s.coreInCourt k n) with
  | some k => k
  | none => 0xFF

/-- Whether a fence lies in function f's scope (R330). -/
def State.fenceInScope (s : State) (f : Nat) (x : Fence) : Bool :=
  f == 0
    || x.court == f
    || (x.grain == 5 && (s.courtCarriers f).any fun c => (s.get (0x2300 + c) 5).testBit (x.object % 16))
    || ((x.grain == 1 || x.grain == 2 || x.grain == 3) && s.coreInCourt f (x.object % 64))
    || (x.grain == 4 && x.object % 16 == f)

/-- Whether a time base counts for function f's TIME bit (R41). -/
def State.timeInScope (s : State) (f n : Nat) : Bool :=
  f == 0
    || (s.courtCarriers f).any (fun c => s.get (0x2300 + c) 2 == n)
    || (List.range 32).any (fun p => s.get (0x2100 + p) 1 == 5 && s.get (0x2100 + p) 2 == n && decide (s.get (0x2100 + p) 12 ≤ 1)
        && (s.courtCarriers f).contains (s.get (0x2100 + p) 11))

/-- Source in use of a time base: PHASE_SRC or FALLBACK_SRC. -/
def State.tbSource (s : State) (n : Nat) : Nat := s.get (0x2000 + n * 16) (if (s.tb n).onFallback then 7 else 5)

/-- Whether a time base follows another now (R36): FOLLOW_TB is its source in use. -/
def State.tbFollows (s : State) (n : Nat) : Bool := (s.tb n).enabled && (s.tb n).inUse && s.tbSource n == 3

/-- STATE of a time base (Table 2.4); a follower's is kept at that of the time base it follows (R36, `State.followStates`). -/
def State.tbState (s : State) (n : Nat) : TbState := (s.tb n).state

/-- TIME (R41). -/
def State.dswTime (s : State) (f : Nat) : Bool :=
  (List.range 8).any fun n => ((s.tb n).enabled || f != 0) && s.tbState n != .locked && s.timeInScope f n

/-- FH_PORTS of the enabled carriers in function f's scope. -/
def State.carrierPorts (s : State) (f : Nat) : Nat :=
  ((if f = 0 then List.range 32 else s.courtCarriers f).filter fun c => s.get (0x2300 + c) 1 != 0).foldl
    (fun m c => m ||| s.get (0x2300 + c) 5) 0

/-- LINK (R329, R330): a port in scope is not UP. In scope are the fronthaul ports that enabled carriers in scope name, and on the
physical function the enabled ports. Port states: fronthaul 1 is UP, Megorlink 2 is UP. -/
def State.dswLink (s : State) (f : Nat) : Bool :=
  let m := s.carrierPorts f
  (List.range 16).any (fun p => (m.testBit p || (f == 0 && s.get (0x2200 + p) 1 == 1)) && s.get (0x2200 + p) 4 != 1)
    || (f == 0 && (List.range 8).any fun p => s.get (0x2610 + p) 1 == 1 && s.get (0x2610 + p) 4 != 2 && decide (1 < s.get 0x2600 4))

/-- FENCE (R330). -/
def State.dswFence (s : State) (f : Nat) : Bool := s.fences.any fun x => s.fenceInScope f x

/-- SVC (R329, R392): 11 while a fence of a grain other than job is in scope, unless Breeze service is in force. -/
def State.dswSvc (s : State) (f : Nat) : Nat :=
  if s.svc = 2 ∧ (s.fences.any fun x => x.grain != 0 && s.fenceInScope f x) then 3 else s.svc

/-- RALLY (R329, R330). -/
def State.dswRally (s : State) (f : Nat) : Bool :=
  s.rallies.any fun r => (r.state == .opened || r.state == .committed || r.state == .frozen)
    && (r.scope == f || (f == 0 && r.scope == 16))

/-- ATTN (R332). -/
def State.dswAttn (s : State) (f : Nat) : Bool := (s.getB f 0x1100 3) &&& ((2 ^ 32 - 1) ^^^ (s.getB f 0x1100 5)) != 0

def bitAt (b : Bool) (i : Nat) : Nat := if b then 2 ^ i else 0

/-- THROT (R419): a reason other than GUST, a long GUST period, or a breach that has not been acknowledged. -/
def State.throt (s : State) : Bool := s.get 0x5000 0x0B % 8 != 0 || decide (16 ≤ s.get 0x5000 0x0B) || s.power.longGust || s.fixedBreach

/-- Bits 15:3 of function f's DSW, in place (Table 14.6). LATE and PROT stand while their sources are latched (R332). -/
def State.dswUpper (s : State) (f : Nat) : Nat :=
  let lat := s.getB f 0x1100 3
  bitAt (s.dswAttn f) 15 + bitAt (s.dswFence f) 14
    + bitAt (f == 0 && s.throt) 13 + bitAt (s.dswTime f) 12 + s.dswSvc f * 2 ^ 10
    + bitAt (s.dswRally f) 9 + bitAt (lat.testBit 3) 8 + bitAt (f == 0 && s.pwrm) 7 + bitAt (s.dswLink f) 6
    + bitAt (f == 0 && (s.get 0x7000 4 == 3 || lat.testBit 12)) 5 + bitAt (f == 0 && s.therm) 4 + bitAt (lat.testBit 4) 3

/-- Function f's DSW: bits 15:3, and EPOCH, CHANGES modulo 8 (R331). -/
def State.dsw (s : State) (f : Nat) : Nat := s.dswUpper f + s.getB f 0x1100 2 % 8

/-- Latches an attention source of function f and counts the latch (R332). -/
def State.latch (s : State) (f b : Nat) : State :=
  (s.putB f 0x1100 3 (s.getB f 0x1100 3 ||| 2 ^ b)).bumpB f 0x1101 (b + 1)

/-- The bits of a DSW whose change latches a source: SVC, TIME, LINK, THROT, PWRM, THERM (Table 14.7). -/
def State.latchChanges (s : State) (f old new : Nat) : State :=
  let s := if bits old 10 2 ≠ bits new 10 2 then s.latch f 1 else s
  let s := if bits old 12 1 ≠ bits new 12 1 then s.latch f 2 else s
  let s := if bits old 6 1 ≠ bits new 6 1 then s.latch f 6 else s
  let s := if bits old 13 1 ≠ bits new 13 1 then s.latch f 9 else s
  let s := if bits old 7 1 ≠ bits new 7 1 then s.latch f 10 else s
  if bits old 4 1 ≠ bits new 4 1 then s.latch f 11 else s

/-- Function f's DSW is formed again: a change of bits 15:3 latches what it must and advances CHANGES by one (R331).
The object DSW keeps the bits last formed. -/
def State.settleF (s : State) (f : Nat) : State :=
  let old := s.getB f 0x1100 1
  let s1 := s.latchChanges f old (s.dswUpper f)
  let new := s1.dswUpper f
  if new = old then s1 else (s1.putB f 0x1100 1 new).bumpB f 0x1100 2

/-- Every function's DSW is formed again. -/
def State.settle (s : State) : State := (List.range 16).foldl State.settleF s

/-- An event latches its source on the physical function and, where its Court has a virtual function, there (Table 14.7). -/
def State.attend (s : State) (b : Nat) (court : Nat) : State :=
  let s := s.latch 0 b
  (if 0 < court ∧ court < 16 then s.latch court b else s).settle

/-- A partner violation of a function: PROT (R332). -/
def State.violation (s : State) (court : Nat) : State := s.attend 4 court
/-- A missed deadline: LATE (R332). -/
def State.lateEvent (s : State) (court : Nat) : State := s.attend 3 court

/-! ### Trace records (R459 to R461) -/

/-- The cycle in which the record port takes the next record, one every 4 cycles (R459). -/
def Core.portCycle (c : Core) : Nat :=
  match c.traceLast with
  | some t => max c.cycleNo (t + 4)
  | none => c.cycleNo

/-- A record is written to the ring: word 0 of Table 20.2, the AIRPOS, the payload as one 128-bit number. -/
def State.traceWrite (s : State) (n type slot court tb payload : Nat) : State :=
  let c := s.core n
  let word0 := c.traceSeq.toNat + tb % 256 * 2 ^ 32 + court % 256 * 2 ^ 40 + slot % 4 * 2 ^ 48 + n % 64 * 2 ^ 50
    + type % 256 * 2 ^ 56
  let a := n * Config.coreMemBytes + 0x30000 + c.traceHead % 2048 * 32
  let s0 := s.store 32 a (word0 + s.airNow tb * 2 ^ 64 + payload % 2 ^ 128 * 2 ^ 128)
  let s := if c.traceHead % 4 = 3 then s0.countCore n 0x50 1 else s0
  s.setCore n { c with traceSeq := c.traceSeq + 1, traceHead := (c.traceHead + 1) % 2048, traceCount := min 2048 (c.traceCount + 1),
                       traceLast := some c.portCycle, traceDropPending := 0 }

/-- Bytes of a trace record's payload are given as one 128-bit number. The port takes a record every 4 cycles: a MARK that finds it busy, or the
ring full, merges; another record waits in a queue of 4, and one that finds that queue or the ring full is dropped and counted in
TRACE_DROPPED; a DROP record precedes the next one (R461). COUNT records are presented as the port takes them (R463; log entry 176). -/
def State.trace (s : State) (n type slot court tb payload : Nat) : State :=
  let c := s.core n
  let busy : Bool := c.cycleNo != c.portCycle
  let full : Bool := decide (2048 ≤ c.traceCount) && s.get (0x8000 + n) 0x0B == 1
  if type = 1 ∧ (busy ∨ full) then s.setCore n { c with traceMerged := c.traceMerged + 1 }
  else if full ∨ (type ≠ 7 ∧ c.cycleNo + 16 < c.portCycle) then
    (s.setCore n { c with traceSeq := c.traceSeq + 1, traceDropPending := c.traceDropPending + 1 }).bump 0x6000 5
  else
    let s := if c.traceDropPending = 0 then s
      else s.traceWrite n 8 slot court tb (c.traceDropPending % 2 ^ 32 + c.traceMerged % 2 ^ 32 * 2 ^ 32)
    (s.traceWrite n type slot court tb payload).updCore n fun c => { c with traceMerged := 0 }

/-! ### xSPI RAM addresses, and the Replay record (R385, R386, R405, R407) -/

/-- The xSPI RAM address of byte off of the usable space: 8 KB units striped over the channels, of `dev` devices each
(R385, R386). -/
def xspiAddr (dev off : Nat) : Nat :=
  let u := off / 8192
  let within := u / 8 * 8192 + off % 8192
  let d := if within < 56 * 1048576 then 0 else 1
  0x100000000 + u % 8 * 0x8000000 + (if dev = 2 then d * 0x4000000 + within - d * (56 * 1048576) else within)

def mb : Nat := 1048576
/-- Start of the model library and of the Replay ring (R386). -/
def State.libStart (s : State) : Nat := mb + (if s.get 0x6000 2 = 1 then 32 * mb else 0)
def State.replayStart (s : State) : Nat := s.libStart + 256 * mb

/-- Whether a cut is being taken or held (R402), or every VDD_CORE clock is stopped (R425). -/
def State.cut (s : State) : Bool := decide (2 ≤ s.get 0x5300 5) || s.power.tripped
/-- Whether the chip injects a record (R408). -/
def State.injecting (s : State) : Bool := s.get 0x5300 0x0B == 2

/-- Writes bytes to the usable xSPI RAM space from an offset, byte by byte over the stripes. -/
def State.xspiWrite (s : State) (off : Nat) (b : List Byte) : State :=
  (b.zipIdx).foldl (fun (s : State) e => (s.storeBytes (xspiAddr (s.get 0x2510 2) (off + e.2)) [e.1]).countGlobal
    (0x1020 + (off + e.2) / 8192 % 8) 1) s

/-- An entry of the record: its 16-byte header and the payload, padded to 16 bytes. -/
def entryBytes (seq : Nat) (e : ReplayEntry) : List Byte :=
  bytesOf 1 e.kind ++ bytesOf 1 0 ++ bytesOf 2 e.payload.length ++ bytesOf 4 seq ++ bytesOf 8 e.stamp
    ++ e.payload ++ List.replicate ((16 - e.payload.length % 16) % 16) 0#8

/-- Appends an entry while recording; a full ring or a fenced channel stops the record (R405, R407). -/
def State.replayLog (s : State) (kind : Nat) (payload : List Byte) : State :=
  if s.get 0x5300 0x0B ≠ 1 then s
  else
    let e : ReplayEntry := ⟨kind, (s.cycles - s.replay.start) / 196608, payload⟩
    let b := entryBytes s.replay.seq e
    let used := s.get 0x5300 0x0C
    if s.get 0x5300 7 * mb < used + b.length ∨ (s.fences.any fun x => x.grain == 9) = true then s.put 0x5300 0x0B 3
    else
      let s1 := { s with replay := { s.replay with entries := s.replay.entries ++ [e], seq := (s.replay.seq + 1) % 2 ^ 32 } }
      (s1.xspiWrite (s.replayStart + used) b).put 0x5300 0x0C (used + b.length)

/-- A carry-in entry of job j: released before S0 and not complete (R405). -/
def State.carryIn (s : State) (j kind : Nat) (payload : List Byte) : State :=
  let y := s.job j
  if s.get 0x5300 0x0B = 1 ∧ y.live ∧ (s.clock : Int) + airDiff (s.tb y.tb).tc y.releasedAt < s.replay.s0 then s.replayLog kind payload else s

/-! ### The fault log (R395 to R397) -/

/-- A fault-log record (Table 17.3). -/
def faultRecord (air tb grain cause action object court slot job info seq : Nat) : List Byte :=
  bytesOf 8 air ++ bytesOf 1 tb ++ bytesOf 1 grain ++ bytesOf 1 cause ++ bytesOf 1 action ++ bytesOf 2 object
    ++ bytesOf 1 court ++ bytesOf 1 slot ++ bytesOf 4 job ++ bytesOf 4 info ++ bytesOf 4 seq ++ bytesOf 4 0

/-- Writes a record to the fault log (the newest 256 are kept) and, with LOG_ARCHIVE, to the archive; a record of a
fence latches FENCE (R395, R397). -/
def State.logFault (s : State) (air tb grain cause action object court slot job info : Nat) : State :=
  let seq := (s.get 0x5200 2 + 1) % 2 ^ 32
  let r := faultRecord air tb grain cause action object court slot job info seq
  let l := s.blobAt 0x5200 1 ++ r
  let s := (s.put 0x5200 2 seq).putBlob 0x5200 1 (if 8192 < l.length then l.drop 32 else l)
  let arch := s.firm.archived % 32768 * 32
  let down := s.fences.any fun x => x.grain == 9 && x.object % 8 == arch / 8192 % 8
  let s := if s.get 0x5200 4 = 1 then
      { (if down then s else s.xspiWrite arch r) with firm := { s.firm with archived := (s.firm.archived + 1) % 32768 } } else s
  let s := if action = 0 then s.replayLog 7 r else s
  let core := object % 64
  let s := if action = 0 ∧ (grain = 0 ∧ object < 64 ∨ grain = 1 ∨ grain = 2 ∨ grain = 3) then
      s.trace core 6 (slot % 4) (if slot = 0xFF then 0xFF else court) tb (seq + cause % 256 * 2 ^ 32 + grain % 256 * 2 ^ 40)
    else s
  if action = 0 then s.attend 0 court else s.settle

/-- Every in-service slice in progress is abandoned: it counts neither pass nor fail, and its unit is usable again (R445). -/
def State.abandonSlices (s : State) : State :=
  let l := s.firm.units.filter fun e => e.2.slice.isSome
  if l = [] then s
  else
    let s1 := s.put 0x31A0 0x0D ((s.get 0x31A0 0x0D + l.length) % 2 ^ 32)
    { s1.mapCores fun c => { c with inTest := false } with
              firm := { s1.firm with units := Tbl.mapV {} s1.firm.units fun u => { u with slice := none } },
              coding := Tbl.mapV {} s1.coding fun g => if g.state = 4 then { g with state := 0 } else g,
              transforms := Tbl.mapV {} s1.transforms fun g => if g.state = 4 then { g with state := 0 } else g }

/-- Test unit that holds a fenced object: a core for grains 1 to 3, an engine for 7 and 8 (Table 19.2). -/
def fenceUnit (grain object : Nat) : Option Nat :=
  if grain = 1 ∨ grain = 2 ∨ grain = 3 then some (object % 64)
  else if grain = 7 then some (0x100 + object)
  else if grain = 8 then some (0x200 + object) else none

/-- The in-service sequence of a fenced unit begins again: a lift needs slices that passed after the fence (R446). -/
def State.restartSequence (s : State) (grain object : Nat) : State :=
  match fenceUnit grain object with
  | some u => { s with firm := { s.firm with units := Tbl.upd {} s.firm.units u fun x => { x with sequence := 0 } } }
  | none => s

/-- Makes a fence of a grain other than job: one record, one entry of FENCES (R390, R391, R395). A fence already present
stays as it is. -/
def State.fenceObject (s : State) (grain object cause info court : Nat) : State :=
  if s.fences.any (fun x => x.grain == grain && x.object == object) then s
  else
    let s := s.abandonSlices.restartSequence grain object
    let s := { s with fences := s.fences ++ [Fence.mk grain cause object ((s.get 0x5200 2 + 1) % 2 ^ 32) court 0] }
    s.logFault (s.airNow 0) 0 grain cause 0 object court 0xFF 0 info

/-- Lifts a fence: it leaves FENCES and a record with ACTION 1, its own cause and Court is written (R395). -/
def State.liftFence (s : State) (grain object info : Nat) : State :=
  match s.fences.find? fun x => x.grain == grain && x.object == object with
  | some x => { s with fences := s.fences.filter fun x => !(x.grain == grain && x.object == object) }.logFault
      (s.airNow 0) 0 grain x.cause 1 object x.court 0xFF 0 info
  | none => s

/-- Whether an object is fenced. -/
def State.isFenced (s : State) (grain object : Nat) : Bool := s.fences.any fun x => x.grain == grain && x.object == object

/-- Fences a job: its fence is listed and logged, and it joins the jobs waiting for disposal (R76, R391, R393, R395).
A fault on a job already fenced is ignored. `pc` and `info` are the event registers of its context. -/
def State.fenceJob (s : State) (j cause pc info : Nat) : State :=
  let x := s.job j
  if x.live && x.state != .fenced && x.state != .completed then
    let s := s.abandonSlices
    let s := { s.setJob j { x with state := .fenced, cause := cause, fenceAir := s.airNow x.tb, fencePc := pc, fenceInfo := info } with
      fenceQueue := s.fenceQueue ++ [j] }
    let obj := if x.core < 64 then x.core else 0xFFFF
    let s := { s with fences := s.fences ++ [Fence.mk 0 cause obj ((s.get 0x5200 2 + 1) % 2 ^ 32) x.court j] }
    s.logFault (s.airNow x.tb) x.tb 0 cause 0 obj x.court (if x.core < 64 then x.slot else 0xFF) j info
  else s

end Sys2Proof.Machine
end

