-- ==== Sys2Proof/Machine/CoreOps.lean ====
section
/-! DEFINITION. Shared operations of a core: fencing a job, raising an event, landing results, CSRs, loops and the
issue of a bundle (chapters "The Lorgus Core: Programming Model" and "Lorgus Instruction Reference"). -/

namespace Sys2Proof.Machine

open Sys2Proof

/-! ### Loops (R64, R65) -/

/-- Length of the bundle whose header stands at an address (R51). -/
def State.bundleLenAt (s : State) (a : Nat) : Nat :=
  let m := (memByte s.mem a).toNat % 128
  8 + 8 * ((List.range 7).foldl (fun k i => k + m / 2 ^ i % 2) 0)

/-- The loop evaluation of R65 from level k down, with the bundle at pc: the new counts and the next address. -/
def loopNext (le ls : Tbl Addr48) (pc next : Addr48) : Nat → Tbl Word32 → Tbl Word32 × Addr48
  | 0, lc => (lc, next)
  | k + 1, lc =>
    if Tbl.get 0#32 lc k ≠ 0#32 ∧ pc = Tbl.get 0#48 le k then
      if 1 < (Tbl.get 0#32 lc k).toNat then (Tbl.set 0#32 lc k (Tbl.get 0#32 lc k - 1), Tbl.get 0#48 ls k)
      else loopNext le ls pc next k (Tbl.set 0#32 lc k 0#32)
    else loopNext le ls pc next k lc

/-- Length of the bundle being issued: 8 + 8 for each syllable (R51). A staged header alone adds none. -/
def Core.bundleLen (c : Core) : Nat := 8 + 8 * (c.bundle.filter fun y => decide (y.slot < 7)).length

/-- Address of the bundle that issues after the present one, as far as its syllables have decided (R63 to R65). -/
def Core.nextPc (c : Core) : Addr48 :=
  c.run.taken.getD (c.run.skip.getD (loopNext c.le c.ls c.pc (c.pc + BitVec.ofNat 48 c.bundleLen) 4 c.lc).2)

/-- Whether R64 allows a body at level k: inner levels inactive, ls ≤ le, inside every active outer body. -/
def Core.loopAllowed (c : Core) (k : Nat) (ls le : Addr48) : Bool :=
  ([1, 2, 3].all fun j => decide (j ≤ k) || c.readLc j == 0#32)
    && decide (ls.toNat ≤ le.toNat)
    && ([0, 1, 2].all fun j => decide (k ≤ j) || c.readLc j == 0#32
        || (decide ((c.readLs j).toNat ≤ ls.toNat) && decide (le.toNat ≤ (c.readLe j).toNat)))

/-! ### Events and fences (R75, R76, R391) -/

/-- An entry of the resident runtime on core n: an address of its region that the spec does not give, from a free value (Table 3.5; log entry 3). -/
def runtimeEntry (n : Nat) (v : BitVec 1024) : Addr48 := BitVec.ofNat 48 (n * Config.coreMemBytes + v.toNat % 8192 * 8)

/-- Raises an event on core n: the event registers are written, issue stops, the core is in runtime mode at an entry, and results in flight and a
stop request are dropped (R73, R75, R76). `info` is `none` where the spec states no EVT_INFO: then it is a free value. -/
def State.raise (s : State) (n cause : Nat) (pc : Addr48) (info : Option (BitVec 32)) : State :=
  let c := s.core n
  let iv : BitVec 32 := info.getD (s.free.truncate 32)
  let s := if info.isNone then s.bumpFree else s
  let j := if c.jobMode then c.curCtx.job else 0
  let c' := (c.updCur fun x => { x with evtCause := BitVec.ofNat 32 cause, evtPc := pc, evtInfo := iv, fenced := c.jobMode })
  (s.bumpFree.setCore n { c' with jobMode := false, inflight := [], held := false, heldCycles := 0, bubble := 0, bundle := [],
                                  branched := false, stop := none, pc := runtimeEntry n s.free,
                                  run := { c.run with dead := true } }).fenceJob j cause pc.toNat iv.toNat

def evILLEGAL : Nat := 0x10
def evCLASH : Nat := 0x11
def evADDR : Nat := 0x12
def evALIGN : Nat := 0x13
def evPRIV : Nat := 0x14
def evLOOP : Nat := 0x15
def evECC : Nat := 0x20
def evMATRIX : Nat := 0x21
def evSTREAM : Nat := 0x22
def evWATCHDOG : Nat := 0x23
def evFENCE : Nat := 0x30

/-- Raises an event of a syllable of the bundle being issued: EVT_PC names the bundle, for the causes from 0x20 on the next to issue (R76). -/
def State.fault (s : State) (x : SylArg) (cause : Nat) (info : Option (BitVec 32)) : State :=
  s.raise x.n cause (if cause < 0x20 then (s.core x.n).pc else (s.core x.n).nextPc) info

/-- Raises STREAM with the word of R177 for the context itself (source 0xF). -/
def State.streamFault (s : State) (x : SylArg) (reason : Nat) : State :=
  s.fault x evSTREAM (some (BitVec.ofNat 32 (0x00030F00 + reason)))

/-- Resident contexts of a core. -/
def Core.residents (c : Core) : List Nat := (List.range 4).filter fun k => (c.ctx k).state != .free

/-- The job of context k meets a fault: through its context if it runs, otherwise by the control complex (R122). -/
def State.faultCtx (s : State) (n k cause info : Nat) : State :=
  let c := s.core n
  if c.jobMode ∧ c.cur = k then s.raise n cause c.pc (some (BitVec.ofNat 32 info))
  else (s.updCore n fun c => c.setCtx k { c.ctx k with fenced := true }).fenceJob (c.ctx k).job cause 0 info

/-- A core is fenced: its own record first, then a job fence with cause FENCE for each resident context in slot order and
each swapped-out one. -/
def State.fenceCore (s : State) (n cause info : Nat) : State :=
  if s.isFenced 2 n then s
  else
    let s1 := s.fenceObject 2 n cause info (s.coreCourt n)
    let seq := s1.get 0x5200 2
    let s2 := (s1.core n).residents.foldl (fun s k => s.faultCtx n k evFENCE seq) s1
    let s3 := (s2.swapped.filter fun w => w.core == n).foldl (fun s w => s.fenceJob w.ctx.job evFENCE 0 seq) s2
    (s3.updCore n fun c => { c with fenced := true, jobMode := false, stop := none, run := { c.run with dead := true } }).settle

/-- A read of core memory at an offset meets an uncorrectable error: the job whose access, window or save area it is is fenced with cause ECC, and
in the runtime region the core (R75, R76, Table 17.4). `pc` is the bundle next to issue. -/
def State.eccFault (s : State) (n off : Nat) (pc : Addr48) : State :=
  let c := s.core n
  if off < 0x10000 then s.fenceCore n evECC off
  else if c.jobMode then s.raise n evECC pc (some (BitVec.ofNat 32 off))
  else if 0x10000 ≤ off ∧ off < 0x30000 then s.faultCtx n ((off - 0x10000) / 0x8000) evECC off
  else match c.residents.find? fun k => decide ((c.ctx k).winBase ≤ off ∧ off < (c.ctx k).winLimit) with
    | some k => s.faultCtx n k evECC off
    | none => s

/-- A read of core memory that meets no uncorrectable error goes on; a corrected one is counted in ECC_CORR (R76, Table 15.13). -/
def State.eccRead (s : State) (n off : Nat) (pc : Addr48) (e : EccFind) (k : State → State) : State :=
  match e with
  | .clean => k s
  | .corrected => k (s.bump (0x8000 + n) 6)
  | .uncorrectable => s.eccFault n off pc

/-- The read of core memory that a syllable makes at a device address (R75, R76). -/
def State.sylRead (s : State) (x : SylArg) (a : Nat) (k : State → State) : State :=
  s.eccRead x.n (a % Config.coreMemBytes) (s.core x.n).nextPc x.ecc k

/-! ### Control and status registers (Tables 3.3, 5.4, 7.8, 8.2) -/

/-- Job access of a CSR. -/
inductive CsrAccess where
  | ro | rw | none | absent
  deriving DecidableEq, Repr

def csrAccess (r : Nat) : CsrAccess :=
  if r = 1 ∨ r = 2 then .rw
  else if r ≤ 9 then .ro
  else if 0x10 ≤ r ∧ r ≤ 0x17 then .ro
  else if 0x20 ≤ r ∧ r ≤ 0x22 then .none
  else if r = 0x30 then .ro
  else if r = 0x38 ∨ r = 0x39 then .ro
  else if 0x3F ≤ r ∧ r ≤ 0x7F then .none
  else if 0x80 ≤ r ∧ r ≤ 0x90 then .rw
  else if r = 0xA0 then .ro
  else if r = 0xA7 then .none
  else if 0xB0 ≤ r ∧ r ≤ 0xB7 then .ro
  else if 0xBF ≤ r ∧ r ≤ 0xF7 then .none
  else if 0x100 ≤ r ∧ r ≤ 0x11F then .none
  else .absent

/-- The CSRs the runtime itself may not write (Table 3.3). -/
def csrFixed (r : Nat) : Bool := r == 0 || r == 9 || decide (0x10 ≤ r ∧ r ≤ 0x17)

/-- TDPOS word of a walker (Table 7.8). -/
def tdpos (w : Walker) : Nat :=
  w.vecIdx % 2 ^ 32 + w.len % 256 * 2 ^ 32 + (if w.bound then 2 ^ 40 else 0) + (if w.exhausted then 2 ^ 41 else 0)
/-- TDIDX word of a walker (Table 7.8). -/
def tdidx (w : Walker) : Nat := w.idx1 % 65536 + w.idx2 % 65536 * 2 ^ 16 + w.idx3 % 65536 * 2 ^ 32 + w.idx4 % 65536 * 2 ^ 48

/-- The raw record of an accumulator as a number of 24 bytes (Table 7.4). -/
def xaccRecord (a : XAcc) : Nat :=
  let val : Nat :=
    if a.wide then (if a.kind = 1 then wrapTo 32 a.value else wrapTo 96 a.value) else wrapTo 64 (wrap48 a.value)
  val % 2 ^ 96 + a.count.toNat * 2 ^ 96 + a.kind % 256 * 2 ^ 128
    + ((if a.wide then 1 else 0) + (if a.nan then 2 else 0)) * 2 ^ 136

/-- An accumulator from a raw record (Table 7.4; the inverse of `xaccRecord`). -/
def xaccOfRecord (r : Nat) : XAcc :=
  let wide := bits r 136 1 == 1
  let kind := bits r 128 8
  { kind := kind, wide := wide, count := BitVec.ofNat 32 (bits r 96 32), nan := bits r 137 1 == 1,
    value := if wide then (if kind = 1 then (bits r 0 32 : Nat) else signed 96 (bits r 0 96)) else signed 48 (bits r 0 48) }

/-- The 32 bytes of accumulator q in VCONT: its raw record, or what VCONT has last written there (R172). -/
def xaccWords (x : Ctx) (q : Nat) : Nat :=
  match x.xraw.find? fun e => e.1 == q with
  | some e => e.2
  | none => xaccRecord (Tbl.get {} x.xacc q)

/-- VCONT word w of a context (R172). -/
def vcontWord (x : Ctx) (w : Nat) : Nat :=
  if w < 40 then
    let k := Tbl.get {} x.walkers (w / 10)
    let i := w % 10
    if i < 8 then bits k.desc.toNat (64 * i) 64 else if i = 8 then tdpos k else tdidx k
  else bits (xaccWords x ((w - 40) / 4)) (64 * ((w - 40) % 4)) 64

/-- A walker with its position word written (the inverse of `tdpos`). -/
def walkerOfPos (k : Walker) (v : Nat) : Walker :=
  { k with vecIdx := bits v 0 32, len := bits v 32 8, bound := bits v 40 1 == 1, exhausted := bits v 41 1 == 1 }
def walkerOfIdx (k : Walker) (v : Nat) : Walker :=
  { k with idx1 := bits v 0 16, idx2 := bits v 16 16, idx3 := bits v 32 16, idx4 := bits v 48 16 }

/-- A number with `w` bits from `lo` replaced. -/
def putBits (x lo w v : Nat) : Nat := x - bits x lo w * 2 ^ lo + v % 2 ^ w * 2 ^ lo

/-- A context with VCONT word w written (R172). -/
def putVcont (x : Ctx) (w v : Nat) : Ctx :=
  if w < 40 then
    let k := Tbl.get {} x.walkers (w / 10)
    let i := w % 10
    let k' := if i < 8 then { k with desc := BitVec.ofNat 512 (putBits k.desc.toNat (64 * i) 64 v) }
      else if i = 8 then walkerOfPos k v else walkerOfIdx k v
    { x with walkers := Tbl.set {} x.walkers (w / 10) k' }
  else
    let q := (w - 40) / 4
    let r := putBits (xaccWords x q) (64 * ((w - 40) % 4)) 64 v
    { x with xacc := Tbl.set {} x.xacc q (xaccOfRecord r), xraw := Tbl.insert q r (Tbl.erase x.xraw q) }

/-- Word m of the continuation record of group q (Table 5.4): 0 where there is none. -/
def Ctx.mcontWord (x : Ctx) (q m : Nat) : BitVec 64 := ((Tbl.get {} x.mcont q).words[m]?).getD 0#64

/-- A context with word m of the record of group q written. The record stands for what its 16 words name: the continuation, among those the core
holds, that was saved with the same words; the words of a record are not architectural otherwise (R120; log entry 13). -/
def Ctx.putMcont (x : Ctx) (q m : Nat) (v : BitVec 64) (known : List MCont) : Ctx :=
  let w := (List.range 16).map fun i => if i = m then v else x.mcontWord q i
  let r := match known.find? fun y => y.words == w with
    | some y => y
    | none => { Tbl.get {} x.mcont q with words := w }
  { x with mcont := Tbl.set {} x.mcont q r }

/-- The value of a CSR of the running context of core n, 64 bits. -/
def State.csr (s : State) (n r : Nat) : Nat :=
  let c := s.core n
  let x := c.curCtx
  if r = 0 then s.chip % 32 * 256 + n % 64
  else if r = 1 then c.flags.toNat
  else if r = 2 then c.sticky.toNat
  else if r = 3 then c.cur % 4 * 256 + x.court % 256
  else if r = 4 then x.winBase
  else if r = 5 then x.winLimit
  else if r = 6 then x.codeBase
  else if r = 7 then x.codeLimit
  else if r = 8 then x.cycle.toNat
  else if r = 9 then x.excl.toNat
  else if 0x10 ≤ r ∧ r ≤ 0x17 then s.airNow (r - 0x10)
  else if r = 0x20 then x.evtCause.toNat
  else if r = 0x21 then x.evtPc.toNat
  else if r = 0x22 then x.evtInfo.toNat
  else if r = 0x30 then x.sfBank.toNat
  else if r = 0x38 then x.mgroup.toNat
  else if r = 0x39 then x.mdone.toNat
  else if r = 0x3F then x.mcontSel.toNat
  else if 0x80 ≤ r ∧ r ≤ 0x8F then (Tbl.get 0#64 x.mstat (r - 0x80)).toNat
  else if r = 0x90 then x.mstatp.toNat
  else if r = 0xA0 then x.chain.toNat
  else if r = 0xA7 then x.scontSel.toNat
  else if 0xB0 ≤ r ∧ r ≤ 0xB3 then tdpos (Tbl.get {} x.walkers (r - 0xB0))
  else if 0xB4 ≤ r ∧ r ≤ 0xB7 then tdidx (Tbl.get {} x.walkers (r - 0xB4))
  else if r = 0xBF then x.vcontSel.toNat
  else if 0xC0 ≤ r ∧ r ≤ 0xF7 then vcontWord (c.ctx (x.vcontSel.toNat % 4)) (r - 0xC0)
  else if 0x40 ≤ r ∧ r ≤ 0x7F then ((c.ctx (x.mcontSel.toNat % 4)).mcontWord ((r - 0x40) / 16) (r % 16)).toNat
  else if 0x100 ≤ r ∧ r ≤ 0x11F then (Tbl.get 0#64 (c.ctx (x.scontSel.toNat % 4)).contWords r).toNat
  else 0

/-- A core with a CSR of the running context written, as the write lands (W1C for STICKY; any write of a statistics
CSR clears it, R116). -/
def Core.putCsr (c : Core) (r v : Nat) : Core :=
  if r = 1 then { c with flags := BitVec.ofNat 8 v }
  else if r = 2 then { c with sticky := c.sticky &&& ~~~(BitVec.ofNat 8 v) }
  else if r = 3 then { c with cur := v / 256 % 4 }.updCur fun x => { x with court := v % 256 }
  else if r = 4 then c.updCur fun x => { x with winBase := v }
  else if r = 5 then c.updCur fun x => { x with winLimit := v }
  else if r = 6 then c.updCur fun x => { x with codeBase := v }
  else if r = 7 then c.updCur fun x => { x with codeLimit := v }
  else if r = 8 then c.updCur fun x => { x with cycle := BitVec.ofNat 64 v }
  else if r = 0x20 then c.updCur fun x => { x with evtCause := BitVec.ofNat 32 v }
  else if r = 0x21 then c.updCur fun x => { x with evtPc := BitVec.ofNat 48 v }
  else if r = 0x22 then c.updCur fun x => { x with evtInfo := BitVec.ofNat 32 v }
  else if r = 0x30 then c.updCur fun x => { x with sfBank := BitVec.ofNat 32 (v % 2) }
  else if r = 0x38 then c.updCur fun x => { x with mgroup := BitVec.ofNat 32 (v % 16) }
  else if r = 0x39 then c.updCur fun x => { x with mdone := BitVec.ofNat 32 v }
  else if r = 0x3F then c.updCur fun x => { x with mcontSel := BitVec.ofNat 32 (v % 4) }
  else if 0x80 ≤ r ∧ r ≤ 0x8F then c.updCur fun x => { x with mstat := Tbl.set 0#64 x.mstat (r - 0x80) 0#64 }
  else if r = 0x90 then c.updCur fun x => { x with mstatp := 0#64 }
  else if r = 0xA0 then c.updCur fun x => { x with chain := BitVec.ofNat 32 v }
  else if r = 0xA7 then c.updCur fun x => { x with scontSel := BitVec.ofNat 32 (v % 4) }
  else if 0xB0 ≤ r ∧ r ≤ 0xB3 then c.setWalker (r - 0xB0) (walkerOfPos (c.walker (r - 0xB0)) v)
  else if 0xB4 ≤ r ∧ r ≤ 0xB7 then c.setWalker (r - 0xB4) (walkerOfIdx (c.walker (r - 0xB4)) v)
  else if r = 0xBF then c.updCur fun x => { x with vcontSel := BitVec.ofNat 32 (v % 4) }
  else if 0xC0 ≤ r ∧ r ≤ 0xF7 then
    let k := c.curCtx.vcontSel.toNat % 4
    c.setCtx k (putVcont (c.ctx k) (r - 0xC0) v)
  else if 0x40 ≤ r ∧ r ≤ 0x7F then
    let k := c.curCtx.mcontSel.toNat % 4
    c.setCtx k ((c.ctx k).putMcont ((r - 0x40) / 16) (r % 16) (BitVec.ofNat 64 v) (c.ctxs.flatMap fun e => e.2.mcont.map fun m => m.2))
  else if 0x100 ≤ r ∧ r ≤ 0x11F then
    let k := c.curCtx.scontSel.toNat % 4
    c.setCtx k { c.ctx k with contWords := Tbl.set 0#64 (c.ctx k).contWords r (BitVec.ofNat 64 v) }
  else c

/-! ### Results in flight (R52, R60, R61) -/

/-- The byte mask of a vector register for a lane mask. -/
def expandMask (m : Pred) : Vec :=
  if m = BitVec.allOnes 128 then BitVec.allOnes 1024
  else BitVec.ofNat 1024 ((List.range 128).foldl (fun acc i => if m.getLsbD i then acc + 255 * 2 ^ (8 * i) else acc) 0)

/-- Destinations of results that are no register of Table 4.4. -/
def destFlags (g : Nat) : Nat := 0x80 + g
def destCsr (r : Nat) : Nat := 0x100 + r
def destExclUp : Nat := 0x1000
def destExclDown : Nat := 0x1001

/-- Kinds of results: 0 of latency 1, 1 to 4 those of Table 3.7a, 5 a walker's own step; a result of kind 3 in an a register is VTSET's. -/
def kindPlain : Nat := 0
def kindWalker : Nat := 5
def kindVtset : Nat := 3

/-- A result lands in its register (R52, R54); a predicated one merges under its mask into the register as it stands.
Another instruction's write of a walker's register unbinds the walker (R158). -/
def Core.land (c0 : Core) (r : Land) : Core :=
  let c := { c0 with sticky := c0.sticky ||| r.sticky }
  if r.dest < 0x20 then c.writeG r.dest (r.value.truncate 32)
  else if r.dest < 0x30 then
    let c := if 0x2C ≤ r.dest ∧ r.kind ≠ kindWalker ∧ r.kind ≠ kindVtset ∧ c.jobMode then
        c.setWalker (r.dest - 0x2C) { c.walker (r.dest - 0x2C) with bound := false } else c
    c.writeA (r.dest - 0x20) (r.value.truncate 48)
  else if r.dest < 0x38 then
    c.writeP (r.dest - 0x30) ((c.readP (r.dest - 0x30) &&& ~~~r.mask) ||| (r.value.truncate 128 &&& r.mask))
  else if 0x40 ≤ r.dest ∧ r.dest < 0x60 then
    let m := expandMask r.mask
    c.writeV (r.dest - 0x40) ((c.readV (r.dest - 0x40) &&& ~~~m) ||| (r.value &&& m))
  else if r.dest < 0x64 then { c with lc := Tbl.set 0#32 c.lc (r.dest - 0x60) (r.value.truncate 32) }
  else if r.dest < 0x68 then { c with ls := Tbl.set 0#48 c.ls (r.dest - 0x64) (r.value.truncate 48) }
  else if r.dest < 0x6C then { c with le := Tbl.set 0#48 c.le (r.dest - 0x68) (r.value.truncate 48) }
  else if r.dest = 0x6C then { c with vl := r.value.truncate 8 }
  else if r.dest = 0x80 then { c with flags := putFlags c.flags 0 r.value.toNat }
  else if r.dest = 0x81 then { c with flags := putFlags c.flags 1 r.value.toNat }
  else if r.dest = destExclUp then c.updCur fun x => { x with excl := x.excl + 1 }
  else if r.dest = destExclDown then c.updCur fun x => { x with excl := x.excl - 1 }
  else if 0x100 ≤ r.dest then c.putCsr (r.dest - 0x100) (r.value.truncate 64).toNat
  else c

/-- A write of g0 never takes part in CLASH; a CSRW of FLAGS counts as both flag groups (R84). -/
def sameDest (a b : Nat) : Bool :=
  (a == b && a != 0 && decide (a < 0x1000)) || (a == 0x101 && (b == 0x80 || b == 0x81)) || (b == 0x101 && (a == 0x80 || a == 0x81))

/-- Whether two results of the list land in one register (R61). -/
def anyClash : List Land → Bool
  | [] => false
  | r :: t => t.any (fun q => sameDest r.dest q.dest) || anyClash t

/-- All results of the list land, in the order they were issued. -/
def Core.landAll (c : Core) : List Land → Core
  | [] => c
  | r :: t => (c.land r).landAll t

/-- Whether an engine waits with WAITKIND 3 (Table 8.1). -/
def waitsCredit (g : Engine) : Bool :=
  g.state == .wait && !g.paused && (match g.wait with
    | .credit _ _ => true
    | _ => false)

/-- One core cycle: latencies count down and due results land (R60, R62); CLASH is raised where two land in one register
(R61), EVT_PC naming the bundle issued last. The context's CYCLE and a pending stop's age advance. -/
def State.coreCycle (s : State) (n : Nat) : State :=
  let c := s.core n
  let due := c.inflight.filter (fun r => decide (r.remain ≤ 1))
  let rest := (c.inflight.filter (fun r => decide (1 < r.remain))).map (fun r => { r with remain := r.remain - 1 })
  let c1 := { c with cycleNo := c.cycleNo + 1, inflight := rest,
                     stop := c.stop.map (fun q => { q with cycles := q.cycles + 1 }) }
  let c2 := if c.jobMode then c1.updCur fun x => { x with cycle := x.cycle + 1 } else c1
  let credit := ((List.range 4).filter fun e => c.jobMode && waitsCredit (Tbl.get {} c.curCtx.engines e)).length
  let s1 := if c.jobMode then (s.countCore n 1 1).countCore n 0x31 credit else s
  if anyClash due then (s1.setCore n c2).raise n evCLASH c.lastPc none
  else s1.setCore n (c2.landAll due)

/-- k core cycles with no issue. -/
def State.coreCycles (s : State) (n : Nat) : Nat → State
  | 0 => s
  | k + 1 => (s.coreCycle n).coreCycles n k

/-- A result of latency `lat` joins the results in flight. -/
def State.result (s : State) (n dest lat : Nat) (value : Vec) (mask : Pred) (sticky : Byte) (kind : Nat) : State :=
  s.updCore n fun c => { c with inflight := c.inflight ++ [⟨dest, lat, value, mask, sticky, kind⟩] }

/-- A scalar result of latency 1. -/
def State.result1 (s : State) (n dest : Nat) (value : Nat) : State :=
  s.result n dest 1 (BitVec.ofNat 1024 value) (BitVec.allOnes 128) 0#8 kindPlain

/-- Flags of latency 1 into the group of the issuing slot (R53). -/
def State.flagResult (s : State) (x : SylArg) (f : Nat) : State := s.result1 x.n (destFlags x.slot) f

/-! ### Walkers (R156 to R158) -/

def tdField (d : BitVec 512) (lo w : Nat) : Nat := bits d.toNat lo w
def tdCount0 (d : BitVec 512) : Nat := tdField d 160 32
def tdCount (d : BitVec 512) (i : Nat) : Nat := tdField d (192 + 16 * (i - 1)) 16
def tdStride (d : BitVec 512) (i : Nat) : Int := signed 32 (tdField d (256 + 32 * i) 32)
def tdBase (d : BitVec 512) : Nat := tdField d 64 48
def tdType (d : BitVec 512) : Nat := tdField d 60 4
def tdNdim (d : BitVec 512) : Nat := tdField d 57 3
def tdLevel (d : BitVec 512) : Nat := tdField d 55 2
def tdSetvl (d : BitVec 512) : Bool := tdField d 54 1 == 1

/-- Bytes of a row of dimension 0. -/
def tdRowBytes (d : BitVec 512) : Nat := tdCount0 d * etSize (tdType d)
/-- Vectors of a row. -/
def tdVectors (d : BitVec 512) : Nat := (tdRowBytes d + 127) / 128
/-- Length in bytes of vector v of a row. -/
def tdVecLen (d : BitVec 512) (v : Nat) : Nat := min 128 (tdRowBytes d - 128 * v)

/-- The walker's address: BASE + Σ index × STRIDE + 128 × v (R158). -/
def walkerAddr (w : Walker) : Addr48 :=
  BitVec.ofInt 48 ((tdBase w.desc : Int) + w.idx1 * tdStride w.desc 1 + w.idx2 * tdStride w.desc 2
    + w.idx3 * tdStride w.desc 3 + w.idx4 * tdStride w.desc 4 + 128 * w.vecIdx)

/-- The next row, carrying through dimensions 1 to 4 (R158). -/
def walkerNextRow (w : Walker) : Walker :=
  let nd := tdNdim w.desc
  if 2 ≤ nd ∧ w.idx1 + 1 < tdCount w.desc 1 then { w with idx1 := w.idx1 + 1 }
  else if 3 ≤ nd ∧ w.idx2 + 1 < tdCount w.desc 2 then { w with idx1 := 0, idx2 := w.idx2 + 1 }
  else if 4 ≤ nd ∧ w.idx3 + 1 < tdCount w.desc 3 then { w with idx1 := 0, idx2 := 0, idx3 := w.idx3 + 1 }
  else if 5 ≤ nd ∧ w.idx4 + 1 < tdCount w.desc 4 then { w with idx1 := 0, idx2 := 0, idx3 := 0, idx4 := w.idx4 + 1 }
  else { w with exhausted := true }

/-- One step of a walker (R158): the next vector of the row, or vector 0 of the next row, or exhaustion. -/
def walkerStep (w : Walker) : Walker :=
  if w.exhausted then w
  else if w.vecIdx + 1 < tdVectors w.desc then
    { w with vecIdx := w.vecIdx + 1, len := tdVecLen w.desc (w.vecIdx + 1) }
  else
    let r := walkerNextRow w
    if r.exhausted then { w with exhausted := true, len := 0 } else { r with vecIdx := 0, len := tdVecLen r.desc 0 }

/-- Every bound walker of the running context whose LEVEL is a level ending at this bundle steps; its writes land at latency 1 (R158, R160). -/
def State.stepWalkers (s : State) (n : Nat) (pc : Addr48) : State :=
  (List.range 4).foldl (fun s k =>
    let c := s.core n
    let w := c.walker k
    let l := tdLevel w.desc
    if c.jobMode && w.bound && !w.exhausted && c.readLc l != 0#32 && c.readLe l == pc then
      let w' := walkerStep w
      let s := s.setCore n (c.setWalker k w')
      let s := if w'.exhausted then s
        else s.result n (0x2C + k) 1 (BitVec.ofNat 1024 (walkerAddr w').toNat) (BitVec.allOnes 128) 0#8 kindWalker
      if tdSetvl w.desc then s.result n 0x6C 1 (BitVec.ofNat 1024 w'.len) (BitVec.allOnes 128) 0#8 kindWalker else s
    else s) s

/-! ### Predicates (R83) -/

/-- The lane mask of a syllable: all ones when unpredicated, the register or its complement otherwise. -/
def laneMask (c : Core) (b : BitVec 64) : Pred :=
  if sylPen b then (if sylPneg b then ~~~(c.readP (sylPsel b)) else c.readP (sylPsel b)) else BitVec.allOnes 128

/-- Whether a syllable that is not predicated lane by lane acts: bit 0 of its predicate. -/
def scalarOn (c : Core) (b : BitVec 64) : Bool := (laneMask c b).getLsbD 0

/-- JOB_START when a job's first bundle issues (Table 20.3). -/
def State.traceJob (s : State) (n type payload : Nat) : State :=
  let c := s.core n
  let x := c.curCtx
  s.trace n type c.cur (if x.job = 0 then 0xFF else x.court) (if x.job = 0 then 0 else x.tb) payload

end Sys2Proof.Machine
end

