-- ==== Sys2Proof/Machine/Scalar.lean ====
section
/-! DEFINITION. What each S0 and S1 syllable does (Table 4.5). -/

namespace Sys2Proof.Machine

open Sys2Proof

/-- gA and gB of a syllable. -/
def srcA (s : State) (x : SylArg) : Word32 := (s.core x.n).readG (sylA x.body)
def srcB (s : State) (x : SylArg) : Word32 := (s.core x.n).readG (sylB x.body)

/-- A result into gD with flags into the slot's group, both of latency 1 (R53). -/
def State.aluFlags (s : State) (x : SylArg) (r : Word32) (f : Nat) : State :=
  (s.result1 x.n (sylD x.body) r.toNat).flagResult x f

/-- A result into gD that leaves the flags unchanged. -/
def State.alu (s : State) (x : SylArg) (r : Word32) : State := s.result1 x.n (sylD x.body) r.toNat

def opAdd (x : SylArg) (s : State) : State := s.aluFlags x (srcA s x + srcB s x) (flagsAdd (srcA s x) (srcB s x))
def opSub (x : SylArg) (s : State) : State := s.aluFlags x (srcA s x - srcB s x) (flagsSub (srcA s x) (srcB s x))
def opAddi (x : SylArg) (s : State) : State :=
  s.aluFlags x (srcA s x + sylImm x.body) (flagsAdd (srcA s x) (sylImm x.body))
def opAnd (x : SylArg) (s : State) : State := s.aluFlags x (srcA s x &&& srcB s x) (flagsNZ (srcA s x &&& srcB s x))
def opOr (x : SylArg) (s : State) : State := s.aluFlags x (srcA s x ||| srcB s x) (flagsNZ (srcA s x ||| srcB s x))
def opXor (x : SylArg) (s : State) : State := s.aluFlags x (srcA s x ^^^ srcB s x) (flagsNZ (srcA s x ^^^ srcB s x))
def opLi (x : SylArg) (s : State) : State := s.alu x (sylImm x.body)

/-- Shift amount gB[5:0]. -/
def shiftAmt (s : State) (x : SylArg) : Nat := (srcB s x).toNat % 64

/-- SHL: amounts 32 to 63 give 0. -/
def opShl (x : SylArg) (s : State) : State :=
  let r := srcA s x <<< shiftAmt s x
  s.aluFlags x r (flagsShift r (shlOut (srcA s x) (shiftAmt s x)))
def opShr (x : SylArg) (s : State) : State :=
  let r := srcA s x >>> shiftAmt s x
  s.aluFlags x r (flagsShift r (shrOut (srcA s x) (shiftAmt s x)))
/-- SRA: amounts 32 to 63 give sign fill. -/
def opSra (x : SylArg) (s : State) : State :=
  let r := (srcA s x).sshiftRight (shiftAmt s x)
  s.aluFlags x r (flagsShift r (sraOut (srcA s x) (shiftAmt s x)))
def opMul (x : SylArg) (s : State) : State := s.aluFlags x (srcA s x * srcB s x) (flagsNZ (srcA s x * srcB s x))

/-- High 32 bits of the product; unsigned with FN[0] = 1. -/
def mulHigh (uns : Bool) (a b : Word32) : Word32 :=
  if uns then BitVec.ofNat 32 (a.toNat * b.toNat / 2 ^ 32) else BitVec.ofInt 32 (a.toInt * b.toInt / (2 ^ 32 : Nat))
def opMulh (x : SylArg) (s : State) : State :=
  let r := mulHigh (sylFN x.body % 2 == 1) (srcA s x) (srcB s x)
  s.aluFlags x r (flagsNZ r)

/-- Less-than, unsigned or signed. -/
def lessThan (uns : Bool) (a b : Word32) : Bool := if uns then a.ult b else a.slt b
def opMin (x : SylArg) (s : State) : State :=
  s.alu x (if lessThan (sylFN x.body % 2 == 1) (srcB s x) (srcA s x) then srcB s x else srcA s x)
def opMax (x : SylArg) (s : State) : State :=
  s.alu x (if lessThan (sylFN x.body % 2 == 1) (srcA s x) (srcB s x) then srcB s x else srcA s x)
def opCmp (x : SylArg) (s : State) : State := s.flagResult x (flagsSub (srcA s x) (srcB s x))
def opCmpi (x : SylArg) (s : State) : State := s.flagResult x (flagsSub (srcA s x) (sylImm x.body))
def opSel (x : SylArg) (s : State) : State :=
  s.alu x (if condHolds (s.core x.n).flags (sylFN x.body / 16 % 2) (sylFN x.body % 16) then srcA s x else srcB s x)

/-- A taken branch; the first of a bundle is followed (R63). -/
def State.branchTo (s : State) (n : Nat) (t : Addr48) : State :=
  s.updCore n fun c => { c with run := { c.run with taken := some (c.run.taken.getD t) } }

def opBr (x : SylArg) (s : State) : State :=
  let c := s.core x.n
  if condHolds c.flags (sylFG x.body) (sylCond x.body) then s.branchTo x.n (c.pc + sylOfsJ x.body) else s
def opBri (x : SylArg) (s : State) : State :=
  let c := s.core x.n
  if condHolds c.flags (sylFG x.body) (sylCond x.body) then s.branchTo x.n (c.readA (sylA x.body - 0x20)) else s

/-- CALL: the link register takes the next bundle's address with latency 1. -/
def opCall (x : SylArg) (s : State) : State :=
  let c := s.core x.n
  (s.result1 x.n (sylA x.body) (c.pc + BitVec.ofNat 48 c.bundleLen).toNat).branchTo x.n (c.pc + sylOfsJ x.body)

/-- CSR number of form I. -/
def csrNo (x : SylArg) : Nat := (sylImm x.body).toNat % 4096

/-- Whether a CSR word is engine continuation content, which the spec does not make architectural (Table 8.2). -/
def csrOpaque (c : Core) (r : Nat) : Bool :=
  decide (0x100 ≤ r ∧ r ≤ 0x11F) && (c.ctx (c.curCtx.scontSel.toNat % 4)).engines != []

/-- CSRR: a job-mode access to a CSR whose job access is none raises PRIV; a number no table gives raises ILLEGAL. -/
def opCsrr (x : SylArg) (s : State) : State :=
  let c := s.core x.n
  let r := csrNo x
  if csrAccess r = .absent then s.fault x evILLEGAL none
  else if csrAccess r = .none ∧ c.jobMode = true then s.fault x evPRIV none
  else if csrOpaque c r then s.bumpFree.result1 x.n (sylD x.body) (s.free.truncate 32).toNat
  else s.result1 x.n (sylD x.body) (if sylFnI x.body % 2 = 1 then s.csr x.n r / 2 ^ 32 else s.csr x.n r % 2 ^ 32)

/-- CSRW: PRIV for a job-mode write of a read-only CSR or one whose access is none, and for a CSR nobody writes. -/
def opCsrw (x : SylArg) (s : State) : State :=
  let c := s.core x.n
  let r := csrNo x
  if csrAccess r = .absent then s.fault x evILLEGAL none
  else if csrFixed r = true ∨ (c.jobMode = true ∧ csrAccess r ≠ .rw) then s.fault x evPRIV none
  else s.result1 x.n (destCsr r) (srcA s x).toNat

/-- CSRC: clears the bits of gA in STICKY; PRIV for any other CSR. -/
def opCsrc (x : SylArg) (s : State) : State :=
  if csrNo x = 2 then s.result1 x.n (destCsr 2) (srcA s x).toNat else s.fault x evPRIV none

/-- END in job mode ends the job (R87); in runtime mode there is no job to end. -/
def opEnd (x : SylArg) (s : State) : State :=
  s.updCore x.n fun c => if c.jobMode then { c with run := { c.run with ended := true } } else c

end Sys2Proof.Machine
end

