-- ==== Sys2Proof/Machine/LoadStore.lean ====
section
/-! DEFINITION. What each L syllable does (Table 4.7; R55 to R57, R88, R159). -/

namespace Sys2Proof.Machine

open Sys2Proof

/-- Effective address: aA + OFS, or aA with post-increment (R88). -/
def effAddr (s : State) (x : SylArg) : Addr48 :=
  let a := (s.core x.n).readA (sylA x.body - 0x20)
  if sylPI x.body then a else a + sylOfsM x.body

/-- The post-increment's write of aA, latency 1. -/
def State.postInc (s : State) (x : SylArg) : State :=
  if sylPI x.body then
    s.result1 x.n (sylA x.body) ((s.core x.n).readA (sylA x.body - 0x20) + sylOfsM x.body).toNat
  else s

/-- Whether n bytes at a device address lie in core n's own memory. -/
def inOwnMemory (core a n : Nat) : Bool :=
  decide (core * Config.coreMemBytes ≤ a) && decide (a + n ≤ (core + 1) * Config.coreMemBytes)

/-- Whether an access lies inside the context's data window, or in the core's own memory in runtime mode (R55). -/
def State.inWindow (s : State) (core a n : Nat) : Bool :=
  let c := s.core core
  let off := a - core * Config.coreMemBytes
  inOwnMemory core a n && (!c.jobMode || (decide (c.curCtx.winBase ≤ off) && decide (off + n ≤ c.curCtx.winLimit)))

/-- Offset within core memory of a device address, as EVT_INFO holds it. -/
def offsetWord (a : Addr48) : BitVec 32 := BitVec.ofNat 32 (a.toNat % Config.coreMemBytes)

/-- A scalar access of n bytes: ADDR outside the window, ALIGN when misaligned, otherwise k (R56, R88). -/
def State.access (s : State) (x : SylArg) (n : Nat) (k : Nat → State → State) : State :=
  let a := (effAddr s x).toNat
  if ¬ s.inWindow x.n a n then s.fault x evADDR none
  else if a % n ≠ 0 then s.fault x evALIGN none
  else (k a s).postInc x

/-- A load of latency 4 into the D register; `ext` extends what was read. An uncorrectable error raises ECC, and nothing is written (R88). -/
def State.load (s : State) (x : SylArg) (n : Nat) (kind : Nat) (ext : Nat → Nat) : State :=
  let a := (effAddr s x).toNat
  if s.inWindow x.n a n ∧ a % n = 0 ∧ x.ecc = .uncorrectable then s.sylRead x a id
  else s.access x n fun a s => s.sylRead x a fun s =>
    s.result x.n (sylD x.body) 4 (BitVec.ofNat 1024 (ext (memNat s.mem n a))) (BitVec.allOnes 128) 0#8 kind

/-- A write to a cached range invalidates the lines of the tile cache of the core whose memory it is (R108). -/
def State.dropCached (s : State) (a n : Nat) : State :=
  let core := a / Config.coreMemBytes
  let c := s.core core
  if 64 ≤ core ∨ c.tileCache = [] then s
  else s.setCore core { c with tileCache := c.tileCache.filter fun l => decide (a + n ≤ l) || decide (l + 4096 ≤ a) }

/-- Bytes written by another agent than a core's own L slot: a cached range loses its lines (R108). -/
def State.writeBytes (s : State) (a : Nat) (b : List Byte) : State := (s.storeBytes a b).dropCached a b.length

/-- A store of the n low bytes of v (R57). -/
def State.storeSyl (s : State) (x : SylArg) (n v : Nat) : State :=
  s.access x n fun a s => (s.store n a v).dropCached a n

def opLdb (x : SylArg) (s : State) : State := s.load x 1 1 fun v => wrapTo 32 (signed 8 v)
def opLdbu (x : SylArg) (s : State) : State := s.load x 1 1 id
def opLdh (x : SylArg) (s : State) : State := s.load x 2 1 fun v => wrapTo 32 (signed 16 v)
def opLdhu (x : SylArg) (s : State) : State := s.load x 2 1 id
def opLdw (x : SylArg) (s : State) : State := s.load x 4 1 id
/-- LDA: bytes 5 to 0; bytes 6 and 7 are ignored. -/
def opLda (x : SylArg) (s : State) : State := s.load x 8 1 fun v => v % 2 ^ 48
def opLdp (x : SylArg) (s : State) : State := s.load x 16 1 id
def opStb (x : SylArg) (s : State) : State := s.storeSyl x 1 ((s.core x.n).readG (sylD x.body)).toNat
def opSth (x : SylArg) (s : State) : State := s.storeSyl x 2 ((s.core x.n).readG (sylD x.body)).toNat
def opStw (x : SylArg) (s : State) : State := s.storeSyl x 4 ((s.core x.n).readG (sylD x.body)).toNat
/-- STA: 48 bits, the upper two bytes zero. -/
def opSta (x : SylArg) (s : State) : State := s.storeSyl x 8 ((s.core x.n).readA (sylD x.body - 0x20)).toNat
def opStp (x : SylArg) (s : State) : State := s.storeSyl x 16 ((s.core x.n).readP (sylD x.body - 0x30)).toNat

/-- The bound walker a vector access goes through, if any (R159). -/
def boundWalker (s : State) (x : SylArg) : Option Walker :=
  let r := sylA x.body
  if 0x2C ≤ r then
    let w := (s.core x.n).walker (r - 0x2C)
    if w.bound then some w else none
  else none

/-- Lanes below n bytes. -/
def lanesBelow (n : Nat) : Pred := BitVec.ofNat 128 (2 ^ n - 1)

/-- The element at an address repeated over n bytes of a vector (R159, broadcast walker). -/
def broadcastElem (v size n : Nat) : Vec :=
  BitVec.ofNat 1024 ((List.range (n / size)).foldl (fun acc i => acc + v * 2 ^ (8 * size * i)) 0)

/-- LDV: 128 bytes merged under the predicate; through a bound walker it covers the walker's own length and zeroes the
lanes above. With no lane on, or length 0, it makes no access; a walker of length 0 zeroes every lane (R83, R159). -/
def opLdv (x : SylArg) (s : State) : State :=
  let m := laneMask (s.core x.n) x.body
  let a := (effAddr s x).toNat
  let fin := fun (s : State) (v : Vec) =>
    if x.ecc = .uncorrectable then s.sylRead x a id
    else (s.sylRead x a fun s => s.result x.n (sylD x.body) 4 v m 0#8 2).postInc x
  match boundWalker s x with
  | some w =>
    if m = 0#128 then s.postInc x
    else if w.len = 0 then (s.result x.n (sylD x.body) 4 0#1024 m 0#8 2).postInc x
    else if tdField w.desc 256 32 = 0 then
      let e := etSize (tdType w.desc)
      if ¬ s.inWindow x.n a e then s.fault x evADDR none
      else if a % e ≠ 0 then s.fault x evALIGN none
      else fin s (broadcastElem (memNat s.mem e a) e w.len)
    else if ¬ s.inWindow x.n a 128 then s.fault x evADDR none
    else if a % 128 ≠ 0 then s.fault x evALIGN none
    else fin s (BitVec.ofNat 1024 (memNat s.mem 128 a % 2 ^ (8 * w.len)))
  | none =>
    if m = 0#128 then s.postInc x
    else if ¬ s.inWindow x.n a 128 then s.fault x evADDR none
    else if a % 128 ≠ 0 then s.fault x evALIGN none
    else fin s (BitVec.ofNat 1024 (memNat s.mem 128 a))

/-- STV: the lanes whose predicate bit is 1; through a dense walker only lanes below its length; through a broadcast
walker ILLEGAL 0x23 (R83, R159). -/
def opStv (x : SylArg) (s : State) : State :=
  let m := laneMask (s.core x.n) x.body
  let a := (effAddr s x).toNat
  let v := ((s.core x.n).readV (sylD x.body - 0x40)).toNat
  let put := fun (m : Pred) =>
    if m = 0#128 then s.postInc x
    else if ¬ s.inWindow x.n a 128 then s.fault x evADDR none
    else if a % 128 ≠ 0 then s.fault x evALIGN none
    else ((s.storeMask 128 a v m.toNat).dropCached a 128).postInc x
  match boundWalker s x with
  | some w =>
    if tdField w.desc 256 32 = 0 then s.fault x evILLEGAL (some 0x23#32)
    else put (m &&& lanesBelow w.len)
  | none => put m

end Sys2Proof.Machine
end

