-- ==== Sys2Proof/Machine/AddrSlot.lean ====
section
/-! DEFINITION. What each A syllable does (Table 4.8; R89 to R91, R173 to R175, R287 to R290). -/

namespace Sys2Proof.Machine

open Sys2Proof

def srcAddr (s : State) (x : SylArg) : Addr48 := (s.core x.n).readA (sylA x.body - 0x20)

def opAadd (x : SylArg) (s : State) : State :=
  s.result1 x.n (sylD x.body) (srcAddr s x + (srcB s x).signExtend 48).toNat
def opAaddi (x : SylArg) (s : State) : State :=
  s.result1 x.n (sylD x.body) (srcAddr s x + (sylImm x.body).signExtend 48).toNat
def opAmov (x : SylArg) (s : State) : State := s.result1 x.n (sylD x.body) (srcAddr s x).toNat
/-- AFROMG: gB[15:0] << 32 or gA. -/
def opAfromg (x : SylArg) (s : State) : State :=
  s.result1 x.n (sylD x.body) ((srcB s x).toNat % 65536 * 2 ^ 32 + (srcA s x).toNat)
/-- ATOG: bits 31:0, or bits 47:32 zero-extended with FN[0] = 1. -/
def opAtog (x : SylArg) (s : State) : State :=
  s.result1 x.n (sylD x.body)
    (if sylFN x.body % 2 = 1 then (srcAddr s x).toNat / 2 ^ 32 else (srcAddr s x).toNat % 2 ^ 32)

/-! ### Stream engines (R173 to R175) -/

def Ctx.engine (c : Ctx) (e : Nat) : Engine := Tbl.get {} c.engines e
def Ctx.setEngine (c : Ctx) (e : Nat) (x : Engine) : Ctx := { c with engines := Tbl.set {} c.engines e x }
/-- Engine e of context slot k of core n. -/
def State.engine (s : State) (n k e : Nat) : Engine := ((s.core n).ctx k).engine e
def State.setEngine (s : State) (n k e : Nat) (x : Engine) : State :=
  s.updCore n fun c => c.setCtx k ((c.ctx k).setEngine e x)

/-- SSTART: STREAM reason 0x0E on an engine whose program runs, 0x03 for a program that is misaligned or not in the data
window (R173, R177). -/
def opSstart (x : SylArg) (s : State) : State :=
  let c := s.core x.n
  let e := sylFN x.body % 4
  let g := c.curCtx.engine e
  let a := (srcAddr s x).toNat
  if (g.state = .run ∨ g.state = .wait) ∧ g.paused = false then s.streamFault x 0x0E
  else if a % 8 ≠ 0 ∨ ¬ s.inWindow x.n a 8 then s.streamFault x 0x03
  else s.setEngine x.n c.cur e { state := .run, prog := a, arg := srcB s x, statMode := g.statMode, outstanding := g.outstanding }

/-- SPAUSE: the engine pauses at its next instruction boundary (R174). -/
def opSpause (x : SylArg) (s : State) : State :=
  let c := s.core x.n
  let e := sylFN x.body % 4
  let g := c.curCtx.engine e
  s.setEngine x.n c.cur e { g with paused := g.state == .run || g.state == .wait }

/-- WAITKIND of Table 8.1. -/
def waitKind : EngWait → Nat
  | .none => 0
  | .tally _ _ => 1
  | .handle _ _ => 2
  | .credit _ _ => 3
  | .slot _ _ => 4

/-- The SSTAT status word (Table 8.1). -/
def sstatWord (g : Engine) : Nat :=
  let st := match g.state with
    | .idle => 0
    | .run => 1
    | .wait => 2
    | .ended => 3
  let hv := (List.range 4).foldl (fun a k => if (Tbl.get none g.handles k).isSome then a + 2 ^ k else a) 0
  st * 2 ^ 29 + g.pc % 32 * 2 ^ 24 + waitKind g.wait * 2 ^ 21 + hv * 2 ^ 16 + g.lines.toNat

def opSstat (x : SylArg) (s : State) : State :=
  s.result1 x.n (sylD x.body) (sstatWord ((s.core x.n).curCtx.engine (sylFN x.body % 4)))

/-! ### Tallies (R89, R90, R287 to R291) -/

/-- The Court of the pool a Tally belongs to. -/
def State.tallyCourt (s : State) (t : Nat) : Option Nat :=
  match s.tpools.find? fun e => e.2.live && decide (e.2.first ≤ t) && decide (t < e.2.first + e.2.count) with
  | some e => some e.2.court
  | none => none

/-- The Tally number of a syllable: gA[15:0]. -/
def tallyNo (s : State) (x : SylArg) : Nat := (srcA s x).toNat % 65536

/-- A symbol-count Tally (R30). -/
def isSymbolTally (t : Nat) : Bool := decide (0xFFF8 ≤ t)

/-- Whether the context's Court has the Tally in a pool of its own. -/
def State.tallyOwned (s : State) (n t : Nat) : Bool := s.tallyCourt t == some (s.core n).curCtx.court

/-- Runs k on a Tally the Court owns; ADDR otherwise, EVT_INFO holding the number; symbol-count Tallies go to `sym` (R89). -/
def State.onTally (s : State) (x : SylArg) (sym : State → State) (k : Nat → State → State) : State :=
  let t := tallyNo s x
  if isSymbolTally t then sym s
  else if s.tallyOwned x.n t then k t s
  else s.fault x evADDR (some (BitVec.ofNat 32 t))

/-- The comparison of R90: (count − target) read as signed is not negative. -/
def tallyReached (count target : BitVec 32) : Bool := !(count - target).msb

/-- TWAIT has waited when it issues (R62, R90): it has no other effect. -/
def opTwait (x : SylArg) (s : State) : State := s.onTally x id fun _ s => s

/-- Adds to a Tally; amounts issued and applied stay equal for an addition that is applied at once (Table 8.7). -/
def State.tallyAdd (s : State) (t : Nat) (v : BitVec 32) : State :=
  let y := s.tally t
  s.setTally t { y with count := y.count + v, issued := y.issued + v.toInt, applied := y.applied + v.toInt }

/-- A Tally addition of a job, recorded as carry-in where R405 says so. -/
def State.jobTallyAdd (s : State) (j t : Nat) (v : BitVec 32) : State :=
  (s.tallyAdd t v).carryIn j 0x0A (bytesOf 2 t ++ bytesOf 4 v.toNat)

def opTadd (x : SylArg) (s : State) : State :=
  s.onTally x (fun s => s.fault x evPRIV none) fun t s => s.jobTallyAdd (s.core x.n).curCtx.job t (srcB s x)

/-- Whether a context stands among the waiters of a Tally. -/
def Tally.waiting (y : Tally) (n k : Nat) : Bool := y.waiters.any fun w => w.core == n && w.slot == k
/-- The waiters without a context. -/
def Tally.leave (y : Tally) (n k : Nat) : Tally := { y with waiters := y.waiters.filter fun w => !(w.core == n && w.slot == k) }

/-- Whether TACQ of context k of core n can complete: the Tally is free and no earlier waiter stands before it, or it has
been granted to the waiter (R289). A job that holds the Tally and does not wait is turned away with ILLEGAL, not held. -/
def State.tacqReady (s : State) (n k j t : Nat) : Bool :=
  let y := s.tally t
  if y.holder = 0 then
    match y.waiters with
    | [] => true
    | w :: _ => w.core == n && w.slot == k
  else y.holder == j

/-- TACQ: acquires the Tally; gD := 1 for one left abandoned, which the acquisition clears; EXCL rises as gD lands (R90,
R289, R290). -/
def opTacq (x : SylArg) (s : State) : State :=
  s.onTally x (fun s => s.fault x evPRIV none) fun t s =>
    let c := s.core x.n
    let j := c.curCtx.job
    let y := s.tally t
    if y.holder = j ∧ j ≠ 0 ∧ y.waiting x.n c.cur = false then s.fault x evILLEGAL none
    else
      let s := s.setTally t { y.leave x.n c.cur with holder := j, abandoned := false, since := (s.tb c.curCtx.tb).tc }
      (s.result1 x.n (sylD x.body) (if y.abandoned then 1 else 0)).result1 x.n destExclUp 0

/-- TREL: releases the hold; ILLEGAL if the job does not hold the Tally (R290, R291). -/
def opTrel (x : SylArg) (s : State) : State :=
  s.onTally x (fun s => s.fault x evPRIV none) fun t s =>
    let j := (s.core x.n).curCtx.job
    let y := s.tally t
    if y.holder = j ∧ j ≠ 0 then (s.setTally t { y with holder := 0 }).result1 x.n destExclDown 0
    else s.fault x evILLEGAL none

def opTread (x : SylArg) (s : State) : State :=
  s.onTally x (fun s => s.result1 x.n (sylD x.body) (s.tally (tallyNo s x)).count.toNat) fun t s =>
    s.result1 x.n (sylD x.body) (s.tally t).count.toNat

/-! ### Handle queues (R91, R188 to R190) -/

/-- Key of a queue of a Court. -/
def queueKey (court q : Nat) : Nat := court * 256 + q % 256
/-- Key of a handle of a pool. -/
def handleKey (p h : Nat) : Nat := p * 1024 + h % 1024

/-- Takes the first handle of a queue for a job. -/
def State.takeHandle (s : State) (q j : Nat) : Option (Nat × Nat × State) :=
  let y := s.hqueue q
  match y.items with
  | [] => none
  | h :: r => some (y.pool, h, { s.setHqueue q { y with items := r, from_ := y.from_.drop 1 } with
      heldBy := Tbl.set 0 s.heldBy (handleKey y.pool h) j,
      handleFrom := Tbl.set 0 s.handleFrom (handleKey y.pool h) (y.from_.headD 0) })

/-- Puts a handle on a queue, after every handle there (R190). -/
def State.putHandle (s : State) (q h j : Nat) : State :=
  let y := s.hqueue q
  { s.setHqueue q { y with items := y.items ++ [h], from_ := y.from_ ++ [j] } with
    heldBy := Tbl.set 0 s.heldBy (handleKey y.pool h) 0 }

/-- HDEQ never holds: the handle, or 0x8000_0000 from an empty queue; STREAM 0x06 for a queue the Court does not own. -/
def opHdeq (x : SylArg) (s : State) : State :=
  let c := s.core x.n
  let q := queueKey c.curCtx.court (srcA s x).toNat
  if ¬ (s.hqueue q).live then s.streamFault x 0x06
  else match s.takeHandle q c.curCtx.job with
    | none => s.result1 x.n (sylD x.body) 0x80000000
    | some r => (r.2.2.updCore x.n fun c => c.updCur fun y => { y with taken := y.taken ++ [(r.1, r.2.1)] }).result1 x.n
        (sylD x.body) r.2.1

/-- A buffer that a job enqueues, recorded as carry-in where R405 says so. -/
def State.carryBuffer (s : State) (j p h q : Nat) : State :=
  s.carryIn j 0x08 (bytesOf 1 p ++ bytesOf 2 h ++ bytesOf 2 q ++ memBytes s.mem (s.pool p).bufSize ((s.pool p).base + h * (s.pool p).bufSize))

/-- HENQ: STREAM 0x06 for a queue not owned, 0x07 for a handle not of its pool or not held by the job (R189). -/
def opHenq (x : SylArg) (s : State) : State :=
  let c := s.core x.n
  let q := queueKey c.curCtx.court (srcA s x).toNat
  let y := s.hqueue q
  let h := (srcB s x).toNat % 65536
  if ¬ y.live then s.streamFault x 0x06
  else if (s.pool y.pool).count ≤ h ∨ c.curCtx.job = 0 ∨ Tbl.get 0 s.heldBy (handleKey y.pool h) ≠ c.curCtx.job then
    s.streamFault x 0x07
  else ((s.carryBuffer c.curCtx.job y.pool h q).putHandle q h c.curCtx.job).updCore x.n fun c => c.updCur fun z =>
    { z with taken := z.taken.filter fun p => p != (y.pool, h) }

end Sys2Proof.Machine
end

