-- ==== Sys2Proof/Machine/Vector.lean ====
section
/-! DEFINITION. What each V syllable but VMRD does (Table 4.10; R92, R93, R150 to R163). -/

namespace Sys2Proof.Machine

open Sys2Proof

/-! ### Elements (R150) -/

/-- Element i of size w bytes. -/
def elem (v : Vec) (w i : Nat) : Nat := v.toNat / 2 ^ (8 * w * i) % 2 ^ (8 * w)
/-- Source registers of a V syllable. -/
def vsrcA (s : State) (x : SylArg) : Vec := (s.core x.n).readV (sylA x.body - 0x40)
def vsrcB (s : State) (x : SylArg) : Vec := (s.core x.n).readV (sylB x.body - 0x40)
def vsrcC (s : State) (x : SylArg) : Vec := (s.core x.n).readV (sylVC x.body - 0x40)
/-- The predicate register VC names. -/
def psrcC (s : State) (x : SylArg) : Pred := (s.core x.n).readP (sylVC x.body - 0x30)
/-- Elements of size w that lie below vl. -/
def elemsBelow (s : State) (x : SylArg) (w : Nat) : Nat := min 128 (s.core x.n).vl.toNat / w
def etOf (x : SylArg) : Nat := sylET x.body
def sat0 (x : SylArg) : Bool := sylFN x.body % 2 == 1

/-- Elements of size w and their sticky bits packed into a vector; sticky bits of disabled elements do not count. -/
def packElems (w : Nat) (m : Pred) : Nat → List (Nat × Byte) → Nat × Byte
  | _, [] => (0, 0#8)
  | i, e :: r =>
    let t := packElems w m (i + 1) r
    (t.1 + e.1 % 2 ^ (8 * w) * 2 ^ (8 * w * i), if m.getLsbD (w * i) then t.2 ||| e.2 else t.2)

/-- The byte lanes of a predicated result of n elements of size w: an element's lanes follow its lowest lane's bit, lanes
beyond the elements their own (R83, R150). -/
def elemMask (w n : Nat) (m : Pred) : Pred :=
  if m = BitVec.allOnes 128 then m
  else BitVec.ofNat 128 ((List.range 128).foldl
    (fun acc i => if m.getLsbD (if i < n * w then i / w * w else i) then acc + 2 ^ i else acc) 0)

/-- n elements of size w, each by f from its index, into vD with latency 3. -/
def State.vput (s : State) (x : SylArg) (w n : Nat) (f : Nat → Nat × Byte) : State :=
  let m := laneMask (s.core x.n) x.body
  let r := packElems w m 0 ((List.range n).map f)
  s.result x.n (sylD x.body) 3 (BitVec.ofNat 1024 r.1) (elemMask w n m) r.2 3

/-- Element-wise result over the elements below vl. -/
def State.vmap (s : State) (x : SylArg) (f : Nat → Nat × Byte) : State :=
  s.vput x (etSize (etOf x)) (elemsBelow s x (etSize (etOf x))) f

/-- Parts of a complex element: real low, imaginary high (R126). -/
def partRe (et e : Nat) : Int := signed (etPartBits et) e
def partIm (et e : Nat) : Int := signed (etPartBits et) (e / 2 ^ etPartBits et)
/-- Two parts narrowed into a complex element. -/
def packParts (re im : Nat × Byte) (et : Nat) : Nat × Byte := (re.1 + im.1 * 2 ^ etPartBits et, re.2 ||| im.2)

/-- One element of an arithmetic operation: integer, complex by parts, or floating-point with one rounding. -/
def arithElem (et : Nat) (sat : Bool) (fi : Int → Int → Int) (ff : FVal → FVal → FVal) (a b : Nat) : Nat × Byte :=
  if etIsFloat et then fround (etFmt et) (ff (fdecode (etFmt et) a) (fdecode (etFmt et) b))
  else if etIsComplex et then
    packParts (narrowInt et sat (fi (partRe et a) (partRe et b))) (narrowInt et sat (fi (partIm et a) (partIm et b))) et
  else narrowInt et sat (fi (etVal et a) (etVal et b))

/-- An element-wise operation on vA and vB. -/
def State.vmap2 (s : State) (x : SylArg) (f : Nat → Nat → Nat × Byte) : State :=
  let w := etSize (etOf x)
  s.vmap x fun i => f (elem (vsrcA s x) w i) (elem (vsrcB s x) w i)

def opVadd (x : SylArg) (s : State) : State := s.vmap2 x (arithElem (etOf x) (sat0 x) (· + ·) fadd)
def opVsub (x : SylArg) (s : State) : State :=
  s.vmap2 x (arithElem (etOf x) (sat0 x) (· - ·) fun a b => fadd a b.neg)

/-- Exact complex product of two elements. -/
def cmulRe (et a b : Nat) : Int := partRe et a * partRe et b - partIm et a * partIm et b
def cmulIm (et a b : Nat) : Int := partRe et a * partIm et b + partIm et a * partRe et b

/-- VMUL: integer low part, complex for CI8 and CI16. -/
def opVmul (x : SylArg) (s : State) : State :=
  let et := etOf x
  s.vmap2 x fun a b =>
    if etIsComplex et then packParts (narrowInt et (sat0 x) (cmulRe et a b)) (narrowInt et (sat0 x) (cmulIm et a b)) et
    else arithElem et (sat0 x) (· * ·) fmul a b

/-- VFMA: vA × vB + vVC with one rounding. -/
def opVfma (x : SylArg) (s : State) : State :=
  let f := etFmt (etOf x)
  let w := etSize (etOf x)
  s.vmap x fun i => fround f (fadd (fmul (fdecode f (elem (vsrcA s x) w i)) (fdecode f (elem (vsrcB s x) w i)))
    (fdecode f (elem (vsrcC s x) w i)))

/-- Minimum or maximum of one element; of two zeros of opposite sign the spec states no order (log entry 5). -/
def minMaxElem (et : Nat) (wantMax : Bool) (a b : Nat) : Nat × Byte :=
  if etIsFloat et then
    let f := etFmt et
    let u := fdecode f a
    let v := fdecode f b
    if u = .nan ∨ v = .nan then (f.nanCode, stFPINV)
    else if feq u v then (if a = b then a else withSign f (Config.zeroTieNegative et) 0, 0#8)
    else (if flt u v = wantMax then b else a, 0#8)
  else (if decide (etVal et a < etVal et b) = wantMax then b else a, 0#8)

def opVmin (x : SylArg) (s : State) : State := s.vmap2 x (minMaxElem (etOf x) false)
def opVmax (x : SylArg) (s : State) : State := s.vmap2 x (minMaxElem (etOf x) true)

/-- VABS: the integer minimum saturates under FN[0]. -/
def opVabs (x : SylArg) (s : State) : State :=
  let et := etOf x
  s.vmap2 x fun a _ =>
    if etIsFloat et then
      (if fdecode (etFmt et) a = .nan then ((etFmt et).nanCode, stFPINV) else (a % 2 ^ (etFmt et).bits, 0#8))
    else narrowInt et (sat0 x) (etVal et a).natAbs

def opVand (x : SylArg) (s : State) : State := s.vmap2 x fun a b => (a &&& b, 0#8)
def opVor (x : SylArg) (s : State) : State := s.vmap2 x fun a b => (a ||| b, 0#8)
def opVxor (x : SylArg) (s : State) : State := s.vmap2 x fun a b => (a ^^^ b, 0#8)

/-- VSHL: left by SH; with FN[1] right arithmetic, rounding half up (R93). -/
def opVshl (x : SylArg) (s : State) : State :=
  let et := etOf x
  s.vmap2 x fun a _ =>
    if sylFN x.body / 2 % 2 = 1 then narrowInt et (sat0 x) (shrHalfUp (etVal et a) (sylSH x.body))
    else narrowInt et (sat0 x) (etVal et a * (2 ^ sylSH x.body : Nat))

/-- VMULRS: exact product, rounded half up, saturated to 16 bits (R93). -/
def opVmulrs (x : SylArg) (s : State) : State :=
  let et := etOf x
  let r := fun (p : Int) => narrowInt et true (shrHalfUp p (sylSH x.body))
  s.vmap2 x fun a b =>
    if etIsComplex et then packParts (r (cmulRe et a b)) (r (cmulIm et a b)) et else r (etVal et a * etVal et b)

/-- The exact product that enters lane l (0 to 31) of VDMACS: element 32 × FN[0] + l of INT16, or a part of complex
element 16 × FN[0] + l/2 of CI16; an element that lies beyond vl enters as 0 (log entry 6). -/
def dmacProduct (s : State) (x : SylArg) (l : Nat) : Int :=
  let et := etOf x
  let h := sylFN x.body % 2
  let w := etSize et
  let i := if et = 2 then 32 * h + l else 16 * h + l / 2
  let a := elem (vsrcA s x) w i
  let b := elem (vsrcB s x) w i
  if elemsBelow s x w ≤ i then 0
  else if et = 2 then etVal et a * etVal et b
  else if l % 2 = 0 then cmulRe et a b else cmulIm et a b

/-- VDMACS: both registers of the pair land with latency 3; a saturated sum sets DSPOVF (R93). -/
def opVdmacs (x : SylArg) (s : State) : State :=
  let d := sylD x.body - 0x40
  let m := laneMask (s.core x.n) x.body
  let n := elemsBelow s x 8
  let one := fun (r i : Nat) =>
    let old := signed 48 (elem ((s.core x.n).readV (d + r)) 8 i)
    let sum := old + shrHalfUp (dmacProduct s x (16 * r + i)) (sylSH x.body)
    (wrapTo 64 (clampInt (sLo 48) (sHi 48) sum), if sum < sLo 48 ∨ sHi 48 < sum then stDSPOVF else 0#8)
  let lo := packElems 8 m 0 ((List.range n).map (one 0))
  let hi := packElems 8 m 0 ((List.range n).map (one 1))
  (s.result x.n (sylD x.body) 3 (BitVec.ofNat 1024 lo.1) (elemMask 8 n m) lo.2 3).result
    x.n (sylD x.body + 1) 3 (BitVec.ofNat 1024 hi.1) (elemMask 8 n m) hi.2 3

/-- VDNARROW: half FN[0] of vD; the other half keeps its value (R93). -/
def opVdnarrow (x : SylArg) (s : State) : State :=
  let a := sylA x.body - 0x40
  let h := sylFN x.body % 2
  let m := laneMask (s.core x.n) x.body
  let n := elemsBelow s x 2
  let one := fun (i : Nat) =>
    let l := i - 32 * h
    narrowInt 2 true (shrHalfUp (signed 48 (elem ((s.core x.n).readV (a + l / 16)) 8 (l % 16))) (sylSH x.body))
  let r := packElems 2 m 0 ((List.range (min n (32 * h + 32))).map fun i => if i < 32 * h then (0, 0#8) else one i)
  let half : Pred := if h = 0 then BitVec.ofNat 128 (2 ^ 64 - 1) else BitVec.ofNat 128 ((2 ^ 64 - 1) * 2 ^ 64)
  s.result x.n (sylD x.body) 3 (BitVec.ofNat 1024 r.1) (elemMask 2 n m &&& half) r.2 3

/-- A comparison of Table 4.10; a NaN makes every comparison false but "ne" and sets FPINV. -/
def cmpElem (et code a b : Nat) : Bool × Byte :=
  let lt := if etIsFloat et then flt (fdecode (etFmt et) a) (fdecode (etFmt et) b) else decide (etVal et a < etVal et b)
  let eq := if etIsFloat et then feq (fdecode (etFmt et) a) (fdecode (etFmt et) b) else decide (etVal et a = etVal et b)
  let nan := etIsFloat et && (fdecode (etFmt et) a == .nan || fdecode (etFmt et) b == .nan)
  let r := match code with
    | 0 => eq
    | 1 => !eq
    | 2 => lt
    | 3 => lt || eq
    | 4 => !lt && !eq
    | _ => !lt
  (if nan then code == 1 else r, if nan then stFPINV else 0#8)

/-- VCMP: the same value in every predicate bit of an element's lanes, lanes beyond vl clear (R150). -/
def opVcmp (x : SylArg) (s : State) : State :=
  let et := etOf x
  let w := etSize et
  let n := elemsBelow s x w
  let m := laneMask (s.core x.n) x.body
  let one := fun i => cmpElem et (sylFN x.body % 8) (elem (vsrcA s x) w i) (elem (vsrcB s x) w i)
  let v := (List.range n).foldl (fun acc i => if (one i).1 then acc + (2 ^ w - 1) * 2 ^ (w * i) else acc) 0
  let st := (List.range n).foldl (fun acc i => if m.getLsbD (w * i) then acc ||| (one i).2 else acc) 0#8
  s.result x.n (sylD x.body) 3 (BitVec.ofNat 1024 v) (elemMask w n m) st 3

/-- VSEL: the byte lane of vA where pVC, else of vB. -/
def opVsel (x : SylArg) (s : State) : State :=
  let w := etSize (etOf x)
  let pick := expandMask (psrcC s x)
  let v := (vsrcA s x &&& pick) ||| (vsrcB s x &&& ~~~pick)
  s.vmap x fun i => (elem v w i, 0#8)

def opVbcast (x : SylArg) (s : State) : State :=
  s.vmap x fun _ => ((srcA s x).toNat % 2 ^ (8 * etSize (etOf x)), 0#8)

/-- One part converted between two types (R130). -/
def convPart (se de : Nat) (a : Nat) : Nat × Byte :=
  if etIsFloat se then
    if etIsFloat de then fround (etFmt de) (fdecode (etFmt se) a)
    else let r := ftoInt (etLo de) (etHi de) (fdecode (etFmt se) a); (wrapTo (etPartBits de) r.1, r.2)
  else if etIsFloat de then intToF (etFmt de) (etVal se a)
  else narrowInt de true (etVal se a)

/-- One element converted; complex elements by parts. -/
def convElem (se de : Nat) (a : Nat) : Nat × Byte :=
  if etIsComplex se then
    packParts (narrowInt de true (partRe se a)) (narrowInt de true (partIm se a)) de
  else convPart se de a

/-- VCVT: element i of vA into element i of vD, for the elements that lie below vl in both registers (R92, R150). -/
def opVcvt (x : SylArg) (s : State) : State :=
  let se := etOf x
  let de := sylFN x.body % 16
  let n := min (elemsBelow s x (etSize se)) (elemsBelow s x (etSize de))
  s.vput x (etSize de) n fun i => convElem se de (elem (vsrcA s x) (etSize se) i)

/-- VPERM: element j of vA, j the byte i of vB; at or beyond vl zero and PRANGE (R152). -/
def opVperm (x : SylArg) (s : State) : State :=
  let w := etSize (etOf x)
  let n := elemsBelow s x w
  s.vmap x fun i =>
    let j := elem (vsrcB s x) 1 i
    if j < n then (elem (vsrcA s x) w j, 0#8) else (0, stPRANGE)

/-- Element j of the concatenation C of R153. -/
def shufC (s : State) (x : SylArg) (w n j : Nat) : Nat × Byte :=
  if j < n then (elem (vsrcA s x) w j, 0#8)
  else if j < 2 * n then (elem (vsrcB s x) w (j - n), 0#8) else (0, stPRANGE)

/-- VSHUF patterns (Table 7.1). -/
def opVshuf (x : SylArg) (s : State) : State :=
  let w := etSize (etOf x)
  let n := elemsBelow s x w
  let h := (n + 1) / 2
  let va := fun j => if j < n then (elem (vsrcA s x) w j, 0#8) else (0, stPRANGE)
  let vb := fun j => shufC s x w n (n + j)
  s.vmap x fun i =>
    match sylFN x.body with
    | 0 => if i % 2 = 0 then va (i / 2) else vb ((i - 1) / 2)
    | 1 => if i % 2 = 0 then va (h + i / 2) else vb (h + (i - 1) / 2)
    | 2 => shufC s x w n (2 * i)
    | 3 => shufC s x w n (2 * i + 1)
    | 4 => shufC s x w n (i + sylSH x.body)
    | _ => va (n - 1 - i)

/-- The permitted narrowings of VPACK (R154). -/
def packAllowed (se de : Nat) : Bool :=
  (se == 3 && de == 2) || (se == 2 && (de == 0 || de == 1)) || (se == 5 && de == 4) || (se == 7 && de == 6)
    || (se == 6 && (de == 8 || de == 9))

def opVpack (x : SylArg) (s : State) : State :=
  let se := etOf x
  let de := sylFN x.body % 16
  let w := etSize se
  let n := elemsBelow s x w
  if packAllowed se de then
    s.vput x (etSize de) (2 * n) fun i =>
      convElem se de (if i < n then elem (vsrcA s x) w i else elem (vsrcB s x) w (i - n))
  else s.fault x evILLEGAL none

def opVunpack (x : SylArg) (s : State) : State :=
  let se := etOf x
  let de := sylFN x.body / 16
  let w := etSize se
  let h := elemsBelow s x w / 2
  if packAllowed de se then
    s.vput x (etSize de) h fun i => convElem se de (elem (vsrcA s x) w (sylFN x.body % 2 * h + i))
  else s.fault x evILLEGAL none

/-- Indices of the selected elements, ascending (R155). -/
def selected (p : Pred) (w n : Nat) : List Nat := (List.range n).filter fun i => p.getLsbD (w * i)

/-- VCOMPRESS; with FN[0] also vl := selected × size, landing with vD (R155). -/
def opVcompress (x : SylArg) (s : State) : State :=
  let w := etSize (etOf x)
  let n := elemsBelow s x w
  let l := selected (psrcC s x) w n
  let s1 := s.vmap x fun i => (match l[i]? with | some j => elem (vsrcA s x) w j | none => 0, 0#8)
  if sat0 x then s1.result x.n 0x6C 3 (BitVec.ofNat 1024 (l.length * w)) (BitVec.allOnes 128) 0#8 3 else s1

def opVexpand (x : SylArg) (s : State) : State :=
  let w := etSize (etOf x)
  let n := elemsBelow s x w
  let p := psrcC s x
  s.vmap x fun i => (if p.getLsbD (w * i) then elem (vsrcA s x) w (selected p w i).length else 0, 0#8)

/-! ### Exact reductions (R161 to R163) -/

/-- One element enters an accumulator of width XA48: SUM, MAX or SQDEV. -/
def xa48Enter (a : XAcc) (centre e : Int) : XAcc :=
  let v := if a.kind = 0 then wrap48 (a.value + e)
    else if a.kind = 1 then (if a.count = 0#32 then e else max a.value e)
    else wrap48 (a.value + (e - centre) * (e - centre))
  { a with value := v, count := a.count + 1 }

/-- Order of MAX on FP32 encodings: +0 ranks above −0 (R162). -/
def maxCode (p q : Nat) : Nat :=
  let u := fdecode fmtFP32 p
  let v := fdecode fmtFP32 q
  if feq u v then (if u.sign then q else p) else if flt u v then q else p

/-- One floating-point element enters an accumulator of width XA96 (R145, R162). -/
def xa96Enter (a : XAcc) (centre e : FVal) : XAcc × Byte :=
  if a.kind = 1 then
    if e = .nan then ({ a with nan := true, count := a.count + 1 }, stFPINV)
    else
      let c := (fround fmtFP32 e).1
      ({ a with value := if a.count = 0#32 then (c : Int) else (maxCode a.value.toNat c : Int), count := a.count + 1 }, 0#8)
  else
    let d := fadd e centre.neg
    let t := xa96Term (if a.kind = 0 then e else fmul d d)
    let isNan := if a.kind = 0 then e == .nan else fmul d d == .nan
    ({ a with value := wrap96 (a.value + t.1), nan := a.nan || isNan, count := a.count + 1 }, t.2)

/-- A raw record of the same kind and width is added (MERGE, R162). -/
def xaccMerge (a r : XAcc) : XAcc :=
  let v : Int :=
    if a.kind = 1 then
      (if r.count = 0#32 then a.value else if a.count = 0#32 then r.value
       else if a.wide then (maxCode a.value.toNat r.value.toNat : Int) else max a.value r.value)
    else if a.wide then wrap96 (a.value + r.value) else wrap48 (a.value + r.value)
  { a with value := v, count := a.count + r.count, nan := a.nan || r.nan }

/-- All enabled elements below vl enter, in order. -/
def xaccEnterAll (s : State) (x : SylArg) (a : XAcc) : XAcc × Byte :=
  let et := etOf x
  let w := etSize et
  let m := laneMask (s.core x.n) x.body
  (List.range (elemsBelow s x w)).foldl (fun (p : XAcc × Byte) i =>
    if m.getLsbD (w * i) then
      let e := elem (vsrcA s x) w i
      if etIsFloat et then
        let r := xa96Enter p.1 (fdecode fmtFP32 (elem (vsrcB s x) 4 0)) (fdecode (etFmt et) e)
        (r.1, p.2 ||| r.2)
      else (xa48Enter p.1 (signed 32 (elem (vsrcB s x) 4 0)) (etVal et e), p.2)
    else p) (a, 0#8)

/-- The delivery of OUT 1 or 2 (R163): the bytes of vD and the flags. -/
def xaccDeliver (a : XAcc) (mean bf16 : Bool) : Nat × Byte :=
  let f := if bf16 then fmtBF16 else fmtFP32
  if a.nan then (f.nanCode, 0#8)
  else if a.count = 0#32 then (0, stFPINV)
  else
    let n := if mean ∧ a.kind ≠ 1 then a.count.toNat else 1
    if a.wide then
      if a.kind = 1 then fround f (fdecode fmtFP32 a.value.toNat) else xa96Deliver f a.value n
    else
      let q : Int := if a.value < 0 then -(divEven a.value.natAbs n : Int) else divEven a.value.natAbs n
      (wrapTo 64 q, 0#8)

/-- VRED (Table 7.3). ILLEGAL 0x21 for another kind or width without CLR, or a MERGE of a record of another kind or width or of no kind of
Table 7.4. A predicate selects the elements that enter and the byte lanes of vD that the delivery writes (R83, R162; log entry 164). -/
def opVred (x : SylArg) (s : State) : State :=
  let fn := sylFN x.body
  let kind := fn % 4
  let k := fn / 4 % 4
  let clr := fn / 16 % 2 == 1
  let out := fn / 32
  let wide := etIsFloat (etOf x)
  let bf16 := sylSH x.body % 2 == 1
  let c := s.core x.n
  let m := laneMask c x.body
  let rec_ := xaccOfRecord ((vsrcA s x).toNat % 2 ^ 192)
  let a0 := if clr then { kind := if kind = 3 then rec_.kind else kind, wide := wide : XAcc } else c.acc k
  if (bf16 ∧ wide = false) ∨ (out = 0 ∧ sylD x.body ≠ 0x40) then s.fault x evILLEGAL none
  else if a0.wide ≠ wide ∨ (kind ≠ 3 ∧ a0.kind ≠ kind) ∨ (kind = 3 ∧ (2 < rec_.kind ∨ rec_.kind ≠ a0.kind ∨ rec_.wide ≠ a0.wide)) then
    s.fault x evILLEGAL (some 0x21#32)
  else
    let r := if kind = 3 then (xaccMerge a0 rec_, 0#8) else xaccEnterAll s x a0
    let s := s.updCore x.n fun c => c.updCur fun y => { y with xacc := Tbl.set {} y.xacc k r.1, xraw := Tbl.erase y.xraw k }
    if out = 0 then s.result x.n 0 3 0#1024 (BitVec.allOnes 128) r.2 3
    else if out = 3 then
      s.result x.n (sylD x.body) 3 (BitVec.ofNat 1024 (xaccRecord r.1)) m r.2 3
    else
      let d := xaccDeliver r.1 (out == 2) bf16
      s.result x.n (sylD x.body) 3 (BitVec.ofNat 1024 d.1) m (r.2 ||| d.2) 3

/-! ### Tensor descriptors (R156, R157) -/

/-- Whether a descriptor keeps Table 7.2 and R157 for the vector walker. -/
def tdValid (d : BitVec 512) : Bool :=
  let nd := tdNdim d
  let r := (List.range 4).foldl (fun p i => if i + 1 < nd then p * tdCount d (i + 1) else p) 1
  tdField d 496 16 == 0 && tdField d 112 16 == 0 && tdField d 0 54 == 0 && decide (tdType d ≤ 9) && decide (1 ≤ nd ∧ nd ≤ 5)
    && tdCount0 d != 0
    && ([1, 2, 3, 4].all fun i => if i < nd then tdCount d i != 0 else tdCount d i == 0)
    && tdField d 128 32 == r * tdVectors d
    && (tdField d 256 32 == 0 || tdField d 256 32 == etSize (tdType d))

/-- Alignment of BASE and STRIDE1 to STRIDE4 (R157). -/
def tdAligned (d : BitVec 512) : Bool :=
  let q := if tdField d 256 32 = 0 then etSize (tdType d) else 128
  tdBase d % q == 0 && ([1, 2, 3, 4].all fun i => tdField d (256 + 32 * i) 32 % q == 0)

/-- VTSET: binds the descriptor at aA to slot FN[1:0]; a(12 + k) := BASE and, with SETVL, vl := the length of vector 0,
both at latency 3 (R157). Predicated with every lane off it has no effect (R83; log entry 164). -/
def opVtset (x : SylArg) (s : State) : State :=
  let c := s.core x.n
  let k := sylFN x.body % 4
  let a := (srcAddr s x).toNat
  let d := BitVec.ofNat 512 (memNat s.mem 64 a)
  let w : Walker := { bound := true, desc := d, len := tdVecLen d 0 }
  if laneMask c x.body = 0#128 then s
  else if c.bundle.any (fun y => y.slot == 2) then s.fault x evILLEGAL (some 0x22#32)
  else if ¬ s.inWindow x.n a 64 then s.fault x evADDR none
  else if a % 64 ≠ 0 then s.fault x evALIGN none
  else if ¬ tdValid d ∨ (tdSetvl d ∧ ([0, 1, 2, 3].any fun j => j != k && (c.walker j).bound && tdSetvl (c.walker j).desc)) then
    s.fault x evILLEGAL (some 0x20#32)
  else if ¬ tdAligned d then s.fault x evALIGN none
  else
    let s := s.setCore x.n (c.setWalker k w)
    let s := s.result x.n (0x2C + k) 3 (BitVec.ofNat 1024 (tdBase d)) (BitVec.allOnes 128) 0#8 kindVtset
    if tdSetvl d then s.result x.n 0x6C 3 (BitVec.ofNat 1024 w.len) (BitVec.allOnes 128) 0#8 kindVtset else s

end Sys2Proof.Machine
end

