-- ==== Sys2Proof/Machine/Matrix.lean ====
section
/-! DEFINITION. The matrix array: what each M syllable and VMRD do, the exact value of every output row, and the output
stage (chapter "Matrix Array"; R94, R95, R100 to R125, R135, R140 to R143). -/

namespace Sys2Proof.Machine

open Sys2Proof

/-! ### Modes (Table 5.1) -/

/-- A row of Table 5.1. -/
structure ModeRow where
  columns : Nat
  cyclesPerRow : Nat
  entries : Nat
  tileBytes : Nat
  actBytes : Nat
  weightBits : Nat
  complex : Bool
  float : Bool
  deriving DecidableEq, Repr

def modeRow (m : Nat) : ModeRow :=
  match m with
  | 0x0 => ⟨64, 1, 2, 8192, 1, 8, false, false⟩
  | 0x1 => ⟨16, 1, 1, 4096, 2, 16, true, false⟩
  | 0x2 => ⟨128, 1, 4, 8192, 1, 4, false, false⟩
  | 0x3 => ⟨32, 1, 2, 4096, 2, 8, true, false⟩
  | 0x4 => ⟨32, 1, 1, 4096, 1, 8, false, true⟩
  | 0x5 => ⟨32, 1, 1, 4096, 1, 8, false, true⟩
  | 0x6 => ⟨16, 1, 1, 4096, 2, 16, false, true⟩
  | 0x7 => ⟨16, 4, 1, 8192, 4, 32, true, false⟩
  | 0x8 => ⟨16, 1, 1, 4096, 2, 16, true, false⟩
  | _ => ⟨16, 1, 1, 4096, 1, 16, true, false⟩

/-! ### The tile descriptor (Table 5.2) -/

def dMode (d : BitVec 512) : Nat := bits d.toNat 60 4
def dOutMode (d : BitVec 512) : Nat := bits d.toNat 58 2
def dDetach (d : BitVec 512) : Bool := bits d.toNat 57 1 == 1
def dStats (d : BitVec 512) : Bool := bits d.toNat 56 1 == 1
def dGroup (d : BitVec 512) : Nat := bits d.toNat 54 2
def dOutFmt (d : BitVec 512) : Nat := bits d.toNat 50 4
def dWsrc (d : BitVec 512) : Nat := bits d.toNat 48 2
def dK (d : BitVec 512) : Nat := bits d.toNat 35 13
def dN (d : BitVec 512) : Nat := bits d.toNat 26 9
def dEbase (d : BitVec 512) : Int := signed 8 (bits d.toNat 18 8)
def dBwd (d : BitVec 512) : Nat := bits d.toNat 16 2
def dWaddr (d : BitVec 512) : Nat := bits d.toNat 64 48
def dAstride (d : BitVec 512) : Nat := bits d.toNat 128 32
def dOutStride (d : BitVec 512) : Nat := bits d.toNat 160 32
def dOutAddr (d : BitVec 512) : Nat := bits d.toNat 192 48
def dScaleAddr (d : BitVec 512) : Nat := bits d.toNat 256 48
def dOutlAddr (d : BitVec 512) : Nat := bits d.toNat 320 48
def dScaleStride (d : BitVec 512) : Nat := bits d.toNat 384 32
def dOutlStride (d : BitVec 512) : Nat := bits d.toNat 416 32

/-- Whether OUTFMT is permitted for the mode and output mode. -/
def outFmtAllowed (d : BitVec 512) : Bool :=
  let f := dOutFmt d
  let r := modeRow (dMode d)
  (if dOutMode d = 0 then decide (f ≤ 2) else true)
    && (if r.float then f == 2 || f == 7 else if r.complex then f == 0 || f == 6 || f == 8
        else f == 1 || f == 3 || f == 4 || f == 5 || f == 8)

/-- Whether a tile descriptor keeps R101 with G groups. -/
def tileValid (d : BitVec 512) (g : Nat) : Bool :=
  bits d.toNat 448 64 == 0 && bits d.toNat 368 16 == 0 && bits d.toNat 304 16 == 0 && bits d.toNat 240 16 == 0
    && bits d.toNat 112 16 == 0 && bits d.toNat 0 16 == 0 && decide (dMode d ≤ 9) && decide (dOutMode d ≤ 1)
    && decide (dWsrc d ≤ 1) && decide (1 ≤ dK d ∧ dK d ≤ 4096) && decide (1 ≤ dN d ∧ dN d ≤ 256) && decide (dGroup d < g)
    && outFmtAllowed d && decide (dBwd d ≤ 2) && dWaddr d % 128 == 0 && dAstride d % 128 == 0 && dOutStride d % 64 == 0

/-! ### Folds (R103) -/

/-- The fold geometry of a pass on one of G groups. -/
structure Folds where
  w : Nat
  kf : Nat
  nf : Nat
  h : Nat
  b : Nat
  deriving DecidableEq, Repr

def folds (d : BitVec 512) (g : Nat) : Folds :=
  let r := modeRow (dMode d)
  let w := r.columns / g
  let kf := (dK d + 127) / 128
  { w := w, kf := kf, nf := (dN d + w - 1) / w, b := r.tileBytes / g,
    h := if kf = 1 then 1024 / r.cyclesPerRow else min (32 / r.entries) (1024 / (kf * r.cyclesPerRow)) }

/-- Folds of a pass, in order (R103): one for each row block, column fold and depth fold; a backward pass has one. -/
def foldCount (p : Pass) (g : Nat) : Nat :=
  let f := folds p.desc g
  if p.backward then (if p.rows = 0 then 0 else 1) else (p.rows + f.h - 1) / f.h * (f.nf * f.kf)

/-- Where a fold stands: the first row and the rows of its row block, its column fold and its depth fold (R103). -/
structure FoldAt where
  r0 : Nat
  hb : Nat
  j : Nat
  i : Nat
  deriving DecidableEq, Repr

/-- The place of the fold of a pass that is in the array, or that begins next. -/
def foldPlace (p : Pass) (g : Nat) : FoldAt :=
  let f := folds p.desc g
  if p.backward then ⟨0, p.rows, 0, 0⟩
  else
    let r0 := p.fold / (f.nf * f.kf) * f.h
    ⟨r0, min f.h (p.rows - r0), p.fold / f.kf % f.nf, p.fold % f.kf⟩

/-- Physical tile of that fold. -/
def foldTile (p : Pass) (g : Nat) : Nat := (foldPlace p g).j * (folds p.desc g).kf + (foldPlace p g).i

/-- Whether the folds of a pass use a stationary tile (Table 5.7). -/
def usesTile (p : Pass) : Bool := !p.backward || dBwd p.desc == 0

/-- Rows that the output stage takes of a pass: one for each activation row and column fold; of a backward pass one for each entry (Table 5.7). -/
def passRows (p : Pass) (g : Nat) : Nat :=
  if p.backward then (if dBwd p.desc = 0 then 8 * p.rows else 64) else p.rows * (folds p.desc g).nf

/-- Output-stage entries of one such row. -/
def rowEntries (p : Pass) : Nat := if p.backward then 1 else (modeRow (dMode p.desc)).entries

/-- Where row u of a pass stands: the first row of its block, the block's rows, the column fold, the row within the block. -/
def arowPlace (p : Pass) (g u : Nat) : Nat × Nat × Nat × Nat :=
  let f := folds p.desc g
  if p.backward then (0, passRows p g, 0, u)
  else
    let b := min (u / (f.nf * f.h)) (p.rows / f.h)
    let r0 := b * f.h
    let hb := min f.h (p.rows - r0)
    let v := u - r0 * f.nf
    (r0, hb, v / hb, v % hb)

/-- Rows of the pass ahead of the tile whose fold is in the array. -/
def tileStart (p : Pass) (g : Nat) : Nat :=
  if p.backward then 0 else (foldPlace p g).r0 * (folds p.desc g).nf + (foldPlace p g).j * (foldPlace p g).hb

/-- Rows of that tile. -/
def tileRows (p : Pass) (g : Nat) : Nat := if p.backward then passRows p g else (foldPlace p g).hb

/-- Rows of that tile that have left its last depth fold. -/
def tileTaken (p : Pass) (g : Nat) : Nat := p.produced + p.formed.length - tileStart p g

/-- Rows that become ready together from row u on: a group narrower than 16 outputs packs 16/w into one output row (R105). -/
def packLen (p : Pass) (g u : Nat) : Nat :=
  let f := folds p.desc g
  let q := arowPlace p g u
  if p.backward ∨ 16 ≤ f.w then 1 else min (16 / f.w) (q.2.1 - q.2.2.2)

/-! ### Weights, activations and products -/

/-- Address of physical tile t of a pass: where MWLD took tile 0 from, otherwise its place in the weight image (R102). -/
def tileAddr (p : Pass) (b t : Nat) : Nat := if t = 0 then p.tile0.getD (dWaddr p.desc) else dWaddr p.desc + t * b

/-- The weight code of array row k and column c of a tile's bytes (R102: stored row by row). -/
def weightCode (d : BitVec 512) (w : Nat) (tile : List Byte) (k c : Nat) : Nat :=
  let wb := (modeRow (dMode d)).weightBits
  let i := k * w + c
  if wb = 4 then bits (fieldOf tile (i / 2) 1) (i % 2 * 4) 4 else fieldOf tile (i * (wb / 8)) (wb / 8)

/-- Weight as real and imaginary parts (R126, R141). -/
def weightParts (mode code : Nat) : Int × Int :=
  match mode with
  | 0x0 => (signed 8 code, 0)
  | 0x2 => (signed 4 code, 0)
  | 0x3 => (signed 4 code, signed 4 (code / 16))
  | 0x7 => (signed 16 code, signed 16 (code / 65536))
  | _ => (signed 8 code, signed 8 (code / 256))

/-- Address of activation element k of row r (R102). -/
def actAddr (p : Pass) (r k : Nat) : Nat :=
  p.act + r * dAstride p.desc + k * (modeRow (dMode p.desc)).actBytes

/-- An activation as parts, its zero point taken off in the R8 modes (R140). -/
def actParts (s : State) (p : Pass) (r k : Nat) : Int × Int :=
  let a := actAddr p r k
  match dMode p.desc with
  | 0x0 | 0x2 => ((memNat s.mem 1 a : Int) - p.rq.zeroAct.toNat, 0)
  | 0x7 => (signed 16 (memNat s.mem 2 a), signed 16 (memNat s.mem 2 (a + 2)))
  | _ => (signed 8 (memNat s.mem 1 a), signed 8 (memNat s.mem 1 (a + 1)))

def cMul (a b : Int × Int) : Int × Int := (a.1 * b.1 - a.2 * b.2, a.1 * b.2 + a.2 * b.1)
def cAdd (a b : Int × Int) : Int × Int := (a.1 + b.1, a.2 + b.2)
def cConj (a : Int × Int) : Int × Int := (a.1, -a.2)

/-- The outlier entry of a channel: its slot, if the channel is listed (R110). -/
def outlierSlot (p : Pass) (k : Nat) : Option Nat :=
  match p.outliers.find? fun e => e % 4096 == k with
  | some e => some (e / 4096 % 8)
  | none => none

/-- The side-path product of an outlier channel (R110): the sidecar's 16-bit value times its 16-bit weight. -/
def outlierProduct (s : State) (p : Pass) (f : Folds) (r k j c slot : Nat) : Int × Int :=
  let cx := dMode p.desc = 0x1
  let z := if cx then 4 else 2
  let i := k / 128
  let va := dOutlAddr p.desc + r * dOutlStride p.desc + i * (8 * z) + slot * z
  let wa := dWaddr p.desc + f.kf * f.nf * f.b + (j * f.kf + i) * 8 * f.w * z + (slot * f.w + c) * z
  if cx then cMul (signed 16 (memNat s.mem 2 va), signed 16 (memNat s.mem 2 (va + 2)))
      (signed 16 (memNat s.mem 2 wa), signed 16 (memNat s.mem 2 (wa + 2)))
  else (signed 16 (memNat s.mem 2 va) * signed 16 (memNat s.mem 2 wa), 0)

/-- Elements of depth fold i (R102: those at K or beyond enter as zero). -/
def foldDepth (p : Pass) (i : Nat) : Nat := min 128 (dK p.desc - 128 * i)

/-- Exact integer products of row r, column c of fold (j, i) (R103, R141). -/
def intFold (s : State) (p : Pass) (tile : List Byte) (f : Folds) (r j i c : Nat) : Int × Int :=
  (List.range (foldDepth p i)).foldl (fun acc kk =>
    let k := i * 128 + kk
    match outlierSlot p k with
    | some slot => cAdd acc (outlierProduct s p f r k j c slot)
    | none => cAdd acc (cMul (actParts s p r k) (weightParts (dMode p.desc) (weightCode p.desc f.w tile kk c)))) (0, 0)

/-! ### Shared-exponent blocks (R111, R112, R131 to R135) -/

/-- Scale entry of block c of row r. -/
def scaleEntry (s : State) (p : Pass) (r c : Nat) : Nat := memNat s.mem 2 (dScaleAddr p.desc + r * dScaleStride p.desc + 2 * c)
/-- Address of block c of row r, and its bytes. -/
def blockBytes (p : Pass) : Nat := if dMode p.desc = 8 then 16 else 8
def blockAddr (p : Pass) (r c : Nat) : Nat := p.act + r * dAstride p.desc + c * blockBytes p

/-- The tags of the words of a block. -/
def blockTags (s : State) (p : Pass) (r c : Nat) : List Nat :=
  (List.range (blockBytes p / 8)).map fun i => (Tbl.get 0#6 s.tags (blockAddr p r c / 8 + i)).toNat

/-- The mismatch of a block, if any: the data tag to report (R135). -/
def blockMismatch (s : State) (p : Pass) (r c : Nat) : Option Nat :=
  let e := scaleEntry s p r c
  let tags := blockTags s p r c
  if tags.all (fun t => t == bits e 8 6) && bits e 8 6 != 0 && bits e 14 2 == 0 then none
  else match tags.find? fun t => t != bits e 8 6 with
    | some t => some t
    | none => some (tags.headD 0)

/-- Mantissa pair j of block c (R131). -/
def blockElem (s : State) (p : Pass) (r c j : Nat) : Int × Int :=
  let a := blockAddr p r c
  if dMode p.desc = 8 then (signed 8 (memNat s.mem 1 (a + 2 * j)), signed 8 (memNat s.mem 1 (a + 2 * j + 1)))
  else let b := memNat s.mem 1 (a + j); (signed 4 b, signed 4 (b / 16))

/-- Alignment of a block sum by d = e − EBASE (R111), and whether it saturated. -/
def alignBlock (d x : Int) : Int × Bool :=
  if d < 0 then (shrEven x (-d).toNat, false)
  else if d ≤ 28 then (x * (2 ^ d.toNat : Nat), false)
  else let y := x * (2 ^ d.toNat : Nat); (clampInt (sLo 48) (sHi 48) y, decide (y < sLo 48 ∨ sHi 48 < y))

/-- Adds into an INT48 accumulator, saturating (R111). -/
def sat48 (a b : Int) : Int × Bool := (clampInt (sLo 48) (sHi 48) (a + b), decide (a + b < sLo 48 ∨ sHi 48 < a + b))

/-- An SB accumulator after depth fold i of row r and column c, with RQCLAMP if anything saturated (R111). -/
def sbFold (s : State) (p : Pass) (tile : List Byte) (f : Folds) (r i c : Nat) (prev : (Int × Int) × Byte) : (Int × Int) × Byte :=
  (List.range ((foldDepth p i + 7) / 8)).foldl (fun (acc : (Int × Int) × Byte) b =>
    let blk := i * 16 + b
    let e := scaleEntry s p r blk % 256
    let sum := (List.range (min 8 (foldDepth p i - 8 * b))).foldl (fun x l =>
      cAdd x (cMul (blockElem s p r blk l) (weightParts 1 (weightCode p.desc f.w tile (8 * b + l) c)))) (0, 0)
    let d := signed 8 e - dEbase p.desc
    let re := alignBlock d sum.1
    let im := alignBlock d sum.2
    let ar := sat48 acc.1.1 re.1
    let ai := sat48 acc.1.2 im.1
    if e = 0x80 then acc
    else ((ar.1, ai.1), acc.2 ||| (if re.2 || im.2 || ar.2 || ai.2 then stRQCLAMP else 0#8))) prev

/-! ### Floating-point modes (R115) -/

/-- The float format of activations and weights of a mode. -/
def modeFmt (m : Nat) : FFmt := if m = 4 then fmtE4M3 else if m = 5 then fmtE5M2 else fmtBF16

/-- Exact sum of one depth fold. -/
def floatFold (s : State) (p : Pass) (tile : List Byte) (f : Folds) (r i c : Nat) : FVal :=
  let fm := modeFmt (dMode p.desc)
  (List.range (foldDepth p i)).foldl (fun acc kk =>
    fadd acc (fmul (fdecode fm (memNat s.mem (modeRow (dMode p.desc)).actBytes (actAddr p r (i * 128 + kk))))
      (fdecode fm (weightCode p.desc f.w tile kk c)))) (.fin false 0 0)

/-- FP32 partial sum after a depth fold: one rounding per fold. -/
def floatAcc (s : State) (p : Pass) (tile : List Byte) (f : Folds) (r i c : Nat) (prev : (Int × Int) × Byte) : (Int × Int) × Byte :=
  let x := floatFold s p tile f r i c
  let y := fround fmtFP32 (if i = 0 then x else fadd (fdecode fmtFP32 prev.1.1.toNat) x)
  (((y.1 : Int), 0), prev.2 ||| y.2)

/-! ### Rows of the output stage (R103) -/

/-- One accumulator after a depth fold. Columns at N or beyond are zero (R103). -/
def accAt (s : State) (p : Pass) (tile : List Byte) (f : Folds) (r j i c : Nat) (prev : (Int × Int) × Byte) : (Int × Int) × Byte :=
  if dN p.desc ≤ j * f.w + c then ((0, 0), 0#8)
  else if (modeRow (dMode p.desc)).float then floatAcc s p tile f r i c prev
  else if 8 ≤ dMode p.desc then sbFold s p tile f r i c prev
  else (cAdd prev.1 (intFold s p tile f r j i c), prev.2)

/-- Row r of the block after depth fold i of column fold j: the accumulators of its partial row gone through the fold. -/
def foldRow (s : State) (p : Pass) (tile : List Byte) (f : Folds) (r j i : Nat) (prev : ARow) : ARow :=
  let l := (List.range f.w).map fun c => accAt s p tile f r j i c ((prev.cols[c]?).getD (0, 0), 0#8)
  ⟨l.map fun x => x.1, l.foldl (fun a x => a ||| x.2) prev.st⟩

/-- Gradient value c of row r (R125). -/
def gradAt (s : State) (p : Pass) (r c : Nat) : Int × Int :=
  let a := dScaleAddr p.desc + r * dScaleStride p.desc + 4 * c
  (signed 16 (memNat s.mem 2 a), signed 16 (memNat s.mem 2 (a + 2)))

/-- An output of a backward pass (Table 5.7): kind 0 gives dx[k] of row r, kinds 1 and 2 give dw[k][c]. -/
def backwardAt (s : State) (p : Pass) (tile : List Byte) (f : Folds) (r k c : Nat) : Int × Int :=
  if dBwd p.desc = 0 then
    (if dK p.desc ≤ k then (0, 0)
     else (List.range (dN p.desc)).foldl (fun acc c =>
       cAdd acc (cMul (cConj (weightParts (dMode p.desc) (weightCode p.desc f.w tile k c))) (gradAt s p r c))) (0, 0))
  else
    (if dK p.desc ≤ k ∨ dN p.desc ≤ c then (0, 0)
     else (List.range p.rows).foldl (fun acc r => cAdd acc (cMul (cConj (actParts s p r k)) (gradAt s p r c))) (0, 0))

/-- Row u of a pass whose last depth fold is in the array, over the weights of the active bank. -/
def lastRow (s : State) (p : Pass) (tile : List Byte) (g u : Nat) : ARow :=
  let f := folds p.desc g
  let q := arowPlace p g u
  if p.backward then
    ⟨(List.range 16).map fun i => if dBwd p.desc = 0 then backwardAt s p tile f (u / 8) (u % 8 * 16 + i) 0
      else backwardAt s p tile f 0 (u + if dBwd p.desc = 1 then 0 else 64) i, 0#8⟩
  else foldRow s p tile f (q.1 + q.2.2.2) q.2.2.1 (f.kf - 1) (p.part.headD ⟨[], 0#8⟩)

/-- The fault that entering row r of depth fold i meets, as cause and EVT_INFO: a read outside the data window given (R102), or a block whose tags
disagree (R112, R135). -/
def enterFault (s : State) (ok : Nat → Nat → Bool) (p : Pass) (r i : Nat) : Option (Nat × Nat) :=
  let m := modeRow (dMode p.desc)
  let n := foldDepth p i
  let addr := some (evADDR, actAddr p r (128 * i) % Config.coreMemBytes)
  let sb : Bool := 8 ≤ dMode p.desc && !p.backward
  if usesTile p && p.backward then
    (if ok (dScaleAddr p.desc + r * dScaleStride p.desc) (4 * dN p.desc) then none else addr)
  else if ¬ ok (if sb then blockAddr p r (16 * i) else actAddr p r (128 * i))
      (if sb then (n + 7) / 8 * blockBytes p else n * m.actBytes) then addr
  else if p.backward ∧ ¬ ok (dScaleAddr p.desc + r * dScaleStride p.desc) (4 * dN p.desc) then addr
  else if sb ∧ ¬ ok (dScaleAddr p.desc + r * dScaleStride p.desc + 32 * i) (2 * ((n + 7) / 8)) then addr
  else if p.outliers.any (fun e => e % 4096 / 128 == i)
      && !ok (dOutlAddr p.desc + r * dOutlStride p.desc + i * (if dMode p.desc = 1 then 32 else 16)) (if dMode p.desc = 1 then 32 else 16) then addr
  else if sb then
    (List.range ((n + 7) / 8)).findSome? fun b =>
      (blockMismatch s p r (16 * i + b)).map fun t => (evSTREAM, 0x20000 + t * 256 + bits (scaleEntry s p r (16 * i + b)) 8 6)
  else none

/-- The first fault among a list of rows. -/
def enterFaults (s : State) (ok : Nat → Nat → Bool) (p : Pass) (i : Nat) (l : List Nat) : Option (Nat × Nat) :=
  l.findSome? fun r => enterFault s ok p r i

/-! ### The requantiser at the output (R115) -/

/-- Bytes of one output of an OUTFMT. -/
def outSize (fmt : Nat) (cx : Bool) : Nat :=
  match fmt with
  | 0 => 4 | 1 => 4 | 2 => 4 | 3 => 2 | 4 => 1 | 5 => 1 | 6 => 2 | 7 => 2
  | _ => if cx then 16 else 8

/-- One output in its OUTFMT encoding, with the sticky bits: RQCLAMP, or those of the BF16 rounding. -/
def deliver (p : Pass) (o : Int × Int) : Nat × Byte :=
  let fmt := dOutFmt p.desc
  let cx := (modeRow (dMode p.desc)).complex
  let rq := fun a => requant a p.rq.mult.toInt p.rq.shift.toNat p.rq.zeroOut.toNat fmt
  if fmt = 2 then (o.1.toNat, 0#8)
  else if fmt = 7 then fround fmtBF16 (fdecode fmtFP32 o.1.toNat)
  else if fmt = 8 then (if cx then wrapTo 64 o.1 + wrapTo 64 o.2 * 2 ^ 64 else wrapTo 64 o.1, 0#8)
  else
    let b := outSize fmt cx * (if cx then 4 else 8)
    let re := rq o.1
    let im := rq o.2
    let st := if re.2 ∨ (cx ∧ im.2) then stRQCLAMP else 0#8
    (if cx then wrapTo b re.1 + wrapTo b im.1 * 2 ^ b else wrapTo b re.1, st)

/-- An output row packed into bytes, as VMRD delivers it: 64 bytes, or 128 for FP32 (R94). -/
def rowBytes (p : Pass) (row : List (Int × Int)) : Nat × Byte :=
  let z := outSize (dOutFmt p.desc) (modeRow (dMode p.desc)).complex
  let rec go : Nat → List (Int × Int) → Nat × Byte
    | i, a :: r =>
      let o := deliver p a
      let t := go (i + 1) r
      (o.1 % 2 ^ (8 * z) * 2 ^ (8 * z * i) + t.1, o.2 ||| t.2)
    | _, [] => (0, 0#8)
  go 0 row

/-! ### The output queue of a group (R94, R113) -/

/-- The output rows of R94 that rows u, u + 1, … of the output stage make in a narrow group: 16/w to a row, the earliest first, the last of a row
block filled up with zeros (R105). -/
def packRows (p : Pass) (g : Nat) : Nat → Nat → List ARow → List (List (Int × Int))
  | 0, _, _ => []
  | _, _, [] => []
  | k + 1, u, l =>
    let n := packLen p g u
    let c := (l.take n).flatMap fun x => x.cols
    (c ++ List.replicate (16 - c.length) (0, 0)) :: packRows p g k (u + n) (l.drop n)

/-- Rows of R94 that one row of a wide integer group makes. -/
def wideRows (p : Pass) (g : Nat) : Nat :=
  let f := folds p.desc g
  if p.backward ∨ (modeRow (dMode p.desc)).float ∨ f.w ≤ 16 then 1 else f.w / 16

/-- The output rows of R94 that a pass has ready and that are not read, in order. A floating-point group of 32 columns makes one row of each (log
entry 8). -/
def Pass.rows94 (p : Pass) (g : Nat) : List (List (Int × Int)) :=
  let per := wideRows p g
  if dOutMode p.desc ≠ 0 then []
  else if 1 < per then
    (p.queue.flatMap fun x => (List.range per).map fun k => (x.cols.drop (16 * k)).take 16).drop (p.read % per)
  else packRows p g p.queue.length (p.produced - p.queue.length) p.queue

/-- The pass after one of its output rows is read: its entries are free when the whole row is (R113). -/
def Pass.readRow (p : Pass) (g : Nat) : Pass :=
  let per := wideRows p g
  { p with read := p.read + 1, queue := if (p.read + 1) % per = 0 then p.queue.drop (packLen p g (p.produced - p.queue.length)) else p.queue }

/-! ### Groups -/

/-- The passes of a group whose rows are read in turn, oldest first. -/
def Group.readers (g : Group) : List Pass := g.draining ++ g.current.toList

/-- The output rows of a group that are ready and not read, oldest first, each with its pass. A pass that has rows to come keeps back those of a
later one. -/
def readyRows (split : Nat) : List Pass → List (Pass × List (Int × Int))
  | [] => []
  | p :: r =>
    let l := (p.rows94 split).map fun x => (p, x)
    if p.produced < p.total then l else l ++ readyRows split r

def Group.ready (g : Group) (split : Nat) : List (Pass × List (Int × Int)) := readyRows split g.readers

/-- Whether more rows of QUEUE passes will become ready without a new MPASS. -/
def Group.moreToCome (g : Group) : Bool :=
  (g.readers ++ g.queued.toList).any fun p => dOutMode p.desc == 0 && decide (p.produced < p.total)

/-- One output row is read, of the earliest pass that has one. -/
def readOne (split : Nat) : List Pass → List Pass
  | [] => []
  | p :: r => if p.rows94 split = [] then p :: readOne split r else p.readRow split :: r

/-- A pass that is not wholly read. -/
def unread (p : Pass) : Bool := p.queue != [] || decide (p.produced < p.total)

/-- The group after one output row has been read: a pass all of whose rows are read leaves it. -/
def Group.readRow (g : Group) (split : Nat) : Group :=
  let l := readOne split g.readers
  match g.current with
  | none => { g with draining := l.filter unread }
  | some _ => { g with draining := l.dropLast.filter unread, current := l.getLast? }

/-- The group after n output rows have been read. -/
def Group.take (g : Group) (split : Nat) : Nat → Group
  | 0 => g
  | n + 1 => (g.readRow split).take split n

/-- Output-stage entries of a group in use (R113). -/
def Group.entriesUsed (g : Group) : Nat :=
  g.readers.foldl (fun k p => k + rowEntries p * (p.queue.length + p.formed.length + p.part.length)) 0

/-- Whether the group has entries for k more rows of a pass. -/
def Group.entriesFree (g : Group) (p : Pass) (k : Nat) : Bool := decide (g.entriesUsed + rowEntries p * k ≤ 80)

/-- Whether group q is in the context's MGROUP (R118). -/
def Core.ownsGroup (c : Core) (q : Nat) : Bool := c.curCtx.mgroup.toNat.testBit q

/-- Quarters of a group: columns 4u to 4u + 3 (R117). -/
def groupQuarters (split q : Nat) : List Nat := (List.range (4 / split)).map fun i => q * (4 / split) + i
/-- Mask of the quarters of a group. -/
def groupMask (split q : Nat) : Nat := (groupQuarters split q).foldl (fun m u => m + 2 ^ u) 0

def Core.groupFenced (c : Core) (q : Nat) : Bool := (groupQuarters c.split q).any fun u => c.quarterFenced.getLsbD u

/-- Rows VMRD asks for and the group it names. -/
def vmrdRows (x : SylArg) : Nat := sylFN x.body % 4
def vmrdGroup (x : SylArg) : Nat := sylFN x.body / 16 % 4

/-- Whether a VMRD must hold: its rows are not ready and will be (R62, R94). -/
def vmrdHolds (s : State) (x : SylArg) : Bool :=
  let c := s.core x.n
  let g := c.group (vmrdGroup x)
  decide ((g.ready c.split).length < vmrdRows x) && g.moreToCome && c.ownsGroup (vmrdGroup x)

/-- VMRD: rows of the group's output queue through the requantiser into vD, whole elements below vl under the predicate of their lowest lanes;
MATRIX 1 after the last row, MATRIX 3 on a group not owned (R94, R113, R118, R150). -/
def opVmrd (x : SylArg) (s : State) : State :=
  let c := s.core x.n
  let q := vmrdGroup x
  let n := vmrdRows x
  let g := c.group q
  let rows := (g.ready c.split).take n
  let fp := rows.any fun r => dOutFmt r.1.desc == 2
  if n = 0 ∨ n = 3 then s.fault x evILLEGAL none
  else if ¬ c.ownsGroup q then s.fault x evMATRIX (some 3#32)
  else if rows.length < n then s.fault x evMATRIX (some 1#32)
  else if fp ∧ n ≠ 1 then s.fault x evILLEGAL none
  else
    let b := rows.map fun r => rowBytes r.1 r.2
    let v := match b with
      | [a] => a
      | [a, e] => (a.1 % 2 ^ 512 + e.1 * 2 ^ 512, a.2 ||| e.2)
      | _ => (0, 0#8)
    let z := etSize (sylET x.body)
    let k := elemsBelow s x z
    let m := elemMask z k (laneMask c x.body)
    let s := s.setCore x.n (c.setGroup q (g.take c.split n))
    s.result x.n (sylD x.body) 3 (BitVec.ofNat 1024 (v.1 % 2 ^ (8 * (z * k)))) m v.2 3

/-! ### M syllables (Table 4.11) -/

def State.setNext (s : State) (n : Nat) (f : NextPass → NextPass) : State :=
  s.updCore n fun c => c.updCur fun y => { y with next := f y.next }

/-- The set-up of the next pass gets a number of its own with the tile that MWLD or MWPASS names: what an earlier one has filled is stale. -/
def State.numberNext (s : State) (n : Nat) (f : NextPass → NextPass) : State :=
  s.updCore n fun c => { c.updCur fun y => { y with next := f { y.next with id := c.passNo } } with passNo := c.passNo + 1 }

/-- MTILE: the tile descriptor at aA, for the next pass (R101). -/
def opMtile (x : SylArg) (s : State) : State :=
  let a := (srcAddr s x).toNat
  let d := BitVec.ofNat 512 (memNat s.mem 64 a)
  if ¬ s.inWindow x.n a 64 then s.fault x evADDR none
  else if a % 64 ≠ 0 then s.fault x evALIGN none
  else if ¬ tileValid d (s.core x.n).split then s.fault x evILLEGAL (some 0x10#32)
  else s.setNext x.n fun p => { p with tile := some d }

/-- Bytes of the stationary tile the next pass needs. -/
def nextTileBytes (c : Core) : Nat :=
  match c.curCtx.next.tile with
  | some d => (folds d c.split).b
  | none => 4096 / c.split

/-- MWLD: the stationary tile at aA fills the shadow bank of the next pass. -/
def opMwld (x : SylArg) (s : State) : State :=
  let a := (srcAddr s x).toNat
  if ¬ s.inWindow x.n a (nextTileBytes (s.core x.n)) then s.fault x evADDR none
  else if a % 128 ≠ 0 then s.fault x evALIGN none
  else s.numberNext x.n fun p => { p with weights := some a, chain := false, arrived := 0 }

/-- MWPASS: arms the chain port; STREAM 0x0F when FN[0] differs from CHAIN.LAST or CHAIN.VALID is clear (R109, R193). -/
def opMwpass (x : SylArg) (s : State) : State :=
  let ch := (s.core x.n).curCtx.chain.toNat
  if bits ch 15 1 = 0 ∨ bits ch 16 1 ≠ sylFN x.body % 2 then s.streamFault x 0x0F
  else s.numberNext x.n fun p => { p with chain := true, chainLast := sylFN x.body % 2 == 1, weights := none, arrived := 0 }

/-- MRQ: multiplier gA, shift gB[5:0], output zero point gB[15:8], activation zero point gB[23:16] (R140, R142). -/
def opMrq (x : SylArg) (s : State) : State :=
  let b := (srcB s x).toNat
  s.setNext x.n fun p => { p with rq := { mult := srcA s x, shift := BitVec.ofNat 6 b, zeroOut := BitVec.ofNat 8 (b / 256),
                                           zeroAct := BitVec.ofNat 8 (b / 65536) } }

/-- MSPLIT: requests 1, 2 or 4 groups; ILLEGAL 9 unless the context holds every group (R117). -/
def opMsplit (x : SylArg) (s : State) : State :=
  let c := s.core x.n
  if (List.range c.split).all fun q => c.ownsGroup q then
    s.setCore x.n { c with splitPending := some (2 ^ (sylFN x.body % 4)) }
  else s.fault x evILLEGAL (some 9#32)

/-- MOUTL: names the outlier list at aA; the next MPASS judges it (R110). -/
def opMoutl (x : SylArg) (s : State) : State :=
  let a := (srcAddr s x).toNat
  if ¬ s.inWindow x.n a 2 then s.fault x evADDR none
  else s.setNext x.n fun p => { p with outlierAddr := some a }

/-- The entries of an outlier list. -/
def outlierList (s : State) (a : Nat) : List Nat :=
  (List.range (memNat s.mem 2 a)).map fun i => memNat s.mem 2 (a + 2 + 2 * i)

/-- Whether an outlier list keeps R110 for depth K. -/
def outliersOk (s : State) (a k : Nat) : Bool :=
  let l := outlierList s a
  a % 16 == 0 && decide (memNat s.mem 2 a ≤ 256) && (l.all fun e => decide (e < 32768) && decide (e % 4096 < k))
    && (l.all fun e =>
      let same := l.filter fun y => y % 4096 / 128 == e % 4096 / 128
      decide (same.length ≤ 8) && ((same.filter fun y => y / 4096 % 8 == e / 4096 % 8).length == 1))

/-- Whether a STORE pass keeps R114. -/
def storeFits (d : BitVec 512) (rows g : Nat) : Bool :=
  let f := folds d g
  let m := modeRow (dMode d)
  decide (rows * f.kf * f.nf * m.cyclesPerRow ≤ 1024) && decide (rows * f.nf * m.entries ≤ 80)

/-- Whether a backward pass keeps R125 and Table 5.7. -/
def backwardFits (d : BitVec 512) (rows g : Nat) : Bool :=
  (dMode d == 1 || dMode d == 7) && decide (dK d ≤ 128) && decide (dN d ≤ (folds d g).w)
    && (if dBwd d = 0 then (if dOutMode d = 1 then decide (rows ≤ 10) else decide (rows ≤ 128))
        else decide (rows ≤ 1024) && dOutMode d == 1 && (dOutFmt d == 0 || dOutFmt d == 8))

/-- Contexts of the core whose MGROUP names group q. -/
def groupHolders (c : Core) (q : Nat) : Nat :=
  ((List.range 4).filter fun k => (c.ctx k).state != .free && (c.ctx k).mgroup.toNat.testBit q).length

/-- A completed pass counts in MDONE of its group, modulo 256 (Table 5.4). -/
def countDone (m : BitVec 32) (q : Nat) : BitVec 32 :=
  BitVec.ofNat 32 (putBits m.toNat (8 * q) 8 (bits m.toNat (8 * q) 8 + 1))

/-- Array rows of a pass: its activation rows over all its folds (Table 20.1). -/
def arrayRows (p : Pass) (g : Nat) : Nat := let f := folds p.desc g; p.rows * (f.kf * f.nf)

/-- A pass begins (R95): it is the one in progress, and its array rows count. -/
def State.beginPass (s : State) (n q : Nat) (p : Pass) : State :=
  let s1 := s.countCore n 0x10 (arrayRows p (s.core n).split)
  s1.updCore n fun c => c.setGroup q { c.group q with current := some p, atBoundary := false }

/-- The pass that MPASS or MBWD issues from what the context has set (R95). -/
def newPass (c : Core) (d : BitVec 512) (act rows : Nat) (back : Bool) (outliers : List Nat) : Pass :=
  let x := c.curCtx.next
  let p : Pass := { id := if x.id = 0 then c.passNo else x.id, desc := d, act := act, rows := rows, job := c.curCtx.job, slot := c.cur,
                    rq := x.rq, outliers := outliers, backward := back, chain := x.chain || dWsrc d == 1, chainLast := x.chainLast,
                    tile0 := x.weights, arrived := x.arrived, detached := dDetach d }
  { p with total := passRows p c.split }

/-- Issue of a forward or backward pass: the checks of R95, R114, R117 to R119, R123, R110 in turn, and the pass in
progress or queued (R102). A pass of 0 rows completes at once. -/
def State.issuePass (s : State) (x : SylArg) (back : Bool) : State :=
  let c := s.core x.n
  let rows := (srcB s x).toNat
  match c.curCtx.next.tile with
  | none => s.fault x evILLEGAL (some 0x10#32)
  | some d =>
    let q := dGroup d
    let g := c.group q
    let ol := match c.curCtx.next.outlierAddr with
      | some a => if dMode d ≤ 1 ∧ ¬ back then some a else none
      | none => none
    if c.splitPending.isSome then s.fault x evILLEGAL (some 5#32)
    else if c.split ≤ q then s.fault x evILLEGAL (some 0x10#32)
    else if ¬ c.ownsGroup q then s.fault x evILLEGAL (some 3#32)
    else if back ∧ s.get (0x4060 + c.curCtx.court) 1 = 0 then s.fault x evILLEGAL (some 7#32)
    else if c.groupFenced q then s.fault x evMATRIX (some 0xB#32)
    else if g.queued.isSome then s.fault x evILLEGAL (some 2#32)
    else if 65535 < rows then s.fault x evILLEGAL none
    else if (back ∧ ¬ backwardFits d rows c.split) ∨ (¬ back ∧ dOutMode d = 1 ∧ ¬ storeFits d rows c.split) then
      s.fault x evILLEGAL (some 4#32)
    else if dDetach d ∧ (dOutMode d ≠ 1 ∨ groupHolders c q ≠ 1) then s.fault x evILLEGAL (some 6#32)
    else if (match ol with | some a => !outliersOk s a (dK d) | none => false) then s.fault x evILLEGAL (some 8#32)
    else
      let p := newPass c d (srcAddr s x).toNat rows back (match ol with | some a => outlierList s a | none => [])
      let c1 := { c.updCur fun y => { y with next := { y.next with id := 0, weights := none, chain := false, arrived := 0, outlierAddr := none } }
        with passNo := c.passNo + 1 }
      let s1 := s.setCore x.n c1
      if rows = 0 then s1.updCore x.n fun c => c.updCur fun y => { y with mdone := countDone y.mdone q }
      else if g.current.isNone ∧ ¬ g.scrub then s1.beginPass x.n q p
      else s1.setCore x.n (c1.setGroup q { g with queued := some p })

def opMpass (x : SylArg) (s : State) : State := s.issuePass x false
def opMbwd (x : SylArg) (s : State) : State := s.issuePass x true

end Sys2Proof.Machine
end

