-- ==== Sys2Proof/Machine/SfReference.lean ====
section
/-! DEFINITION. The mathematical functions of Table 7.5, computed in fixed point with 512 fraction bits, far finer than any bound of
the table: the reference that a special-function result is held to (R166). Each function is a truncated series whose error lies below 2^-440. -/

namespace Sys2Proof.Machine

/-! ### Fixed-point arithmetic: an integer n stands for n / 2^512 -/

def fixBits : Nat := 512
def fixOne : Nat := 2 ^ fixBits
def fixMul (a b : Nat) : Nat := a * b / fixOne
def fixDiv (a b : Nat) : Nat := a * fixOne / b

/-- The fixed-point image of a finite magnitude m × 2^e, rounded down. -/
def fixOf (m : Nat) (e : Int) : Nat :=
  let k := e + fixBits
  if k < 0 then m / 2 ^ (-k).toNat else m * 2 ^ k.toNat

/-- n terms of a series of positive terms: `next i t` is the term after term i. -/
def fixSeries (next : Nat → Nat → Nat) : Nat → Nat → Nat → Nat
  | 0, _, _ => 0
  | n + 1, i, t => t + fixSeries next n (i + 1) (next i t)

/-- n terms of an alternating series, as the sums of its even and its odd terms. -/
def fixAlternating (next : Nat → Nat → Nat) : Nat → Nat → Nat → Nat × Nat
  | 0, _, _ => (0, 0)
  | n + 1, i, t => let r := fixAlternating next n (i + 1) (next i t); (t + r.2, r.1)

/-- Integer square root, bit by bit. -/
def sqrtBits : Nat → Nat → Nat → Nat
  | 0, _, acc => acc
  | k + 1, x, acc => let t := acc + 2 ^ k; sqrtBits k x (if t * t ≤ x then t else acc)

/-- atanh z = z + z³/3 + … for z of at most 1/3. -/
def fixAtanh (z : Nat) : Nat :=
  let q := fixMul z z
  let odd := fun (n : Nat) => (List.range n).foldl (fun (p : Nat × Nat) i => (p.1 + p.2 / (2 * i + 1), fixMul p.2 q)) (0, z)
  (odd 170).1

/-- atan t for t of at most 1, by Euler's series, whose terms at least halve. -/
def fixAtan (t : Nat) : Nat :=
  let d := fixOne + fixMul t t
  let r := fixDiv (fixMul t t) d
  fixSeries (fun i x => fixMul x r * (2 * i + 2) / (2 * i + 3)) 460 0 (fixDiv t d)

def fixLn2 : Nat := 2 * fixAtanh (fixOne / 3)
/-- π by Machin's formula. -/
def fixPi : Nat := 16 * fixAtan (fixOne / 5) - 4 * fixAtan (fixOne / 239)

/-! ### The functions: results as fractions of naturals -/

/-- e to a fixed-point argument, of either sign, as numerator and denominator. -/
def expFrac (neg : Bool) (x : Nat) : Nat × Nat :=
  let k := x / fixLn2
  let r := x % fixLn2
  let e := fixSeries (fun i t => fixMul t r / (i + 1)) 120 0 fixOne
  if neg then (fixOne, e * 2 ^ k) else (e * 2 ^ k, fixOne)

/-- e to minus a fixed-point argument, as a fixed-point number. -/
def expNeg (x : Nat) : Nat := let f := expFrac true x; f.1 * fixOne / f.2

/-- An argument m × 2^e, cut to 256, beyond which the functions that use it are constant at any format's precision. -/
def cutArg (m : Nat) (e : Int) : Nat := if 0 < m ∧ (9 : Int) < e + Nat.log2 m then 256 * fixOne else min (256 * fixOne) (fixOf m e)

/-- The natural logarithm of m × 2^e, with its sign: m is scaled to between 3/4 and 3/2. -/
def logFrac (m : Nat) (e : Int) : Bool × Nat × Nat :=
  let l := Nat.log2 m
  let up : Bool := decide (3 * 2 ^ l ≤ 2 * m)
  let k : Int := e + l + (if up then 1 else 0)
  let d := 2 ^ (l + (if up then 1 else 0))
  let z := (if m < d then d - m else m - d) * fixOne / (m + d)
  let part : Int := if m < d then -(2 * fixAtanh z : Nat) else (2 * fixAtanh z : Nat)
  let v := part + k * (fixLn2 : Nat)
  (decide (v < 0), v.natAbs, fixOne)

/-- 1 / (1 + e^-x). -/
def sigmFrac (neg : Bool) (x : Nat) : Nat × Nat :=
  let q := expNeg x
  if neg then (q, fixOne + q) else (fixOne, fixOne + q)

/-- tanh of a magnitude. -/
def tanhFrac (x : Nat) : Nat × Nat := let q := expNeg (2 * x); (fixOne - q, fixOne + q)

/-- log (1 + e^-x) of a magnitude, in fixed point. -/
def log1pExpNeg (x : Nat) : Nat :=
  let q := expNeg x
  2 * fixAtanh (fixDiv q (2 * fixOne + q))

/-- (1 + erf x) / 2: erf by its series of positive terms. -/
def smoothFrac (neg : Bool) (x : Nat) : Nat × Nat :=
  let c := min x (14 * fixOne)
  let q := fixMul c c
  let sum := fixSeries (fun i t => fixMul t (2 * q) / (2 * i + 3)) 1400 0 c
  let rootPi := sqrtBits (fixBits + 2) (fixPi * fixOne) 0
  let erf := min fixOne (2 * fixDiv (fixMul (expNeg q) sum) rootPi)
  if neg then (fixOne - erf, 2 * fixOne) else (fixOne + erf, 2 * fixOne)

/-- The sine and cosine of a fixed-point angle of at most a quarter turn. -/
def sinCosFix (r : Nat) : Nat × Nat :=
  let q := fixMul r r
  let s := fixAlternating (fun i t => fixMul t q / ((2 * i + 2) * (2 * i + 3))) 80 0 r
  let c := fixAlternating (fun i t => fixMul t q / ((2 * i + 1) * (2 * i + 2))) 80 0 fixOne
  (s.1 - s.2, c.1 - c.2)

/-- Sine (part 0) or cosine (part 1) of an angle of sign `neg`: sign and magnitude. -/
def sinCosFrac (part : Nat) (neg : Bool) (x : Nat) : Bool × Nat × Nat :=
  let h := fixPi / 2
  let k := x / h % 4
  let sc := sinCosFix (x % h)
  let useSin : Bool := (k % 2 == 0) == (part == 0)
  let sign : Bool := if part = 0 then neg != decide (2 ≤ k) else k == 1 || k == 2
  (sign, if useSin then sc.1 else sc.2, fixOne)

/-- atan2 of magnitudes y and x, with the sign of x. -/
def atan2Frac (y : Nat × Int) (xNeg : Bool) (x : Nat × Int) : Nat × Nat :=
  let e := min y.2 x.2
  let a := y.1 * 2 ^ (y.2 - e).toNat
  let b := x.1 * 2 ^ (x.2 - e).toNat
  let t := if a ≤ b then fixAtan (a * fixOne / b) else fixPi / 2 - fixAtan (b * fixOne / a)
  (if xNeg then fixPi - t else t, fixOne)

/-! ### The bound of Table 7.5 -/

/-- Whether an encoding lies within `ulps` units in the last place of num / den, or within num / den and 2^-abs where `abs` is given; an infinity
counts as the value just above the largest finite one. -/
def withinBound (f : FFmt) (ulps : Nat) (abs : Option Nat) (neg : Bool) (num den code : Nat) : Bool :=
  let emin : Int := 1 - (f.bias : Int) - f.mbits
  let lg : Int := (Nat.log2 num : Int) - (Nat.log2 den : Int)
  let below : Bool := if lg < 0 then num * 2 ^ (-lg).toNat < den else num < den * 2 ^ lg.toNat
  let u : Int := max emin ((if below then lg - 1 else lg) - f.mbits)
  let got : FVal := match fdecode f code with
    | .inf s => .fin s 1 (f.bias + 1)
    | v => v
  match got with
  | .fin s m e =>
    let c := min e u
    let diff : Int := (if s then -((m * 2 ^ (e - c).toNat : Nat) : Int) else ((m * 2 ^ (e - c).toNat : Nat) : Int)) * den
    let want : Int := (if neg then -(num : Int) else num)
    -- both sides times den, in units of 2^c
    let w : Int := if c < 0 then want * (2 ^ (-c).toNat : Nat) else want
    let g : Int := if c < 0 then diff else diff * (2 ^ c.toNat : Nat)
    let lim : Nat := match abs with
      | some a => if c < 0 then den * 2 ^ (-c).toNat / 2 ^ a else 0
      | none => if c < 0 then ulps * den * 2 ^ (u - c).toNat else ulps * den * 2 ^ u.toNat
    decide ((g - w).natAbs ≤ lim)
  | _ => false

/-- The candidate where it keeps the bound, else the value rounded once. -/
def heldTo (f : FFmt) (ulps : Nat) (abs : Option Nat) (neg : Bool) (num den cand : Nat) : Nat :=
  if withinBound f ulps abs neg num den cand then cand else (froundQ f neg num den).1

end Sys2Proof.Machine
end

