-- ==== Sys2Proof/Machine/Special.lean ====
section
/-! DEFINITION. What each F syllable does (Table 4.12; R96 to R99, R166, R167, R170, R171). -/

namespace Sys2Proof.Machine

open Sys2Proof

/-! ### Evaluation of one argument (R166, Table 7.5) -/

/-- The candidate result of a built-in function: an encoding of the format that the spec bounds and does not fix (log entry 4); each function
holds it to its bound. Function codes are the opcodes of Table 4.12; `bank` names the built-in set of the table bank. -/
def sfCandidate (fn et bank a b : Nat) : Nat := Config.specialFunction fn et bank a b % 2 ^ (8 * etSize et)

/-- Comparison of a value with the decimal bound num / 100. -/
def belowHundredths (v : FVal) (num : Int) : Bool :=
  flt (fmul v (.fin false 100 0)) (.fin (decide (num < 0)) num.natAbs 0)
def aboveHundredths (v : FVal) (num : Int) : Bool :=
  flt (.fin (decide (num < 0)) num.natAbs 0) (fmul v (.fin false 100 0))

def isZeroV : FVal → Bool
  | .fin _ m _ => m == 0
  | _ => false

/-- The encodings of the format next to a rounded positive encoding: one below, itself, one above. -/
def oneUlp (c x : Nat) : Bool := decide (x ≤ c + 1) && decide (c ≤ x + 1)

/-- The candidate where it lies within one unit in the last place of the correctly rounded result c, else c itself. -/
def boundedBy (c x : Nat) : Nat := if oneUlp c x then x else c

/-- The correctly rounded reciprocal square root of a positive finite value, as an encoding: the largest encoding y
whose square times x does not exceed 1, found bit by bit. -/
def rsqrtFloor (f : FFmt) (x : FVal) : Nat → Nat → Nat
  | 0, acc => acc
  | k + 1, acc =>
    let t := acc + 2 ^ k
    let y := fdecode f t
    if t ≤ f.maxCode ∧ ¬ flt (.fin false 1 0) (fmul (fmul y y) x) then rsqrtFloor f x k t else rsqrtFloor f x k acc

/-- NaN and the default NaN with FPINV. -/
def sfNaN (f : FFmt) : Nat × Byte := (f.nanCode, stFPINV)

/-- Sticky bits of a result that a function computed from the candidate: overflow to infinity and a subnormal result. -/
def sfResultFlags (f : FFmt) (mask : Byte) (c : Nat) : Byte :=
  ((if c % 2 ^ f.bits = overflowCode f then stFPOVF else 0#8)
    ||| (if c % 2 ^ f.bits < 2 ^ f.mbits then stFPUND else 0#8)) &&& mask

/-- The bound of a function in units in the last place: that of FP32, and 1 for BF16 (R166). -/
def sfUlps (et n : Nat) : Nat := if et = 6 then 1 else n

/-- A finite argument as sign and fixed-point magnitude, cut to 256; an infinity counts as 256. -/
def sfArg : FVal → Bool × Nat
  | .fin s m e => (s, cutArg m e)
  | .inf s => (s, 256 * fixOne)
  | .nan => (false, 0)

/-- Whether num / den lies below 2^-k. -/
def fracBelow (num den k : Nat) : Bool := decide (num * 2 ^ k < den)

/-- One argument of FEXP. -/
def sfExp (et bank a : Nat) : Nat × Byte :=
  let f := etFmt et
  match fdecode f a with
  | .nan => sfNaN f
  | .inf true => (0, stSFDOM)
  | .inf false => (overflowCode f, stSFDOM ||| stFPOVF)
  | v =>
    if belowHundredths v (-10397) then (0, stSFDOM ||| stFPUND)
    else if aboveHundredths v 8872 then (overflowCode f, stSFDOM ||| stFPOVF)
    else
      let x := sfArg v
      let r := expFrac x.1 x.2
      let c := heldTo f (sfUlps et (if fracBelow r.1 r.2 126 then 1 else 2)) none false r.1 r.2 (sfCandidate 1 et bank a 0)
      (c, sfResultFlags f (stFPOVF ||| stFPUND) c)

/-- One argument of FLOG. -/
def sfLog (et bank a : Nat) : Nat × Byte :=
  let f := etFmt et
  match fdecode f a with
  | .nan => sfNaN f
  | .inf true => (f.nanCode, stSFDOM ||| stFPINV)
  | .inf false => (overflowCode f, 0#8)
  | .fin s m e =>
    if m = 0 then (withSign f true (overflowCode f), stSFDOM)
    else if s then (f.nanCode, stSFDOM ||| stFPINV)
    else let r := logFrac m e; (heldTo f (sfUlps et 2) none r.1 r.2.1 r.2.2 (sfCandidate 2 et bank a 0), 0#8)

/-- The reciprocal of a non-zero finite value, correctly rounded, as an encoding. -/
def rcpRounded (f : FFmt) (s : Bool) (m : Nat) (e : Int) : Nat × Byte :=
  if e < 0 then froundQ f s (2 ^ (-e).toNat) m else froundQ f s 1 (m * 2 ^ e.toNat)

/-- One argument of FRCP: within 1 ulp in its range; smaller overflows to infinity, larger underflows within 1 ulp. -/
def sfRcp (et bank a : Nat) : Nat × Byte :=
  let f := etFmt et
  match fdecode f a with
  | .nan => sfNaN f
  | .inf s => (withSign f s 0, 0#8)
  | .fin s m e =>
    let mag : FVal := .fin false m e
    let c := rcpRounded f false m e
    if m = 0 ∨ flt mag (.fin false 1 (-126)) then (withSign f s (overflowCode f), stSFDOM ||| stFPOVF)
    else if flt (.fin false 1 126) mag then
      (withSign f s (boundedBy c.1 (sfCandidate 3 et bank a 0 % 2 ^ f.bits)), stSFDOM ||| stFPUND)
    else (withSign f s (boundedBy c.1 (sfCandidate 3 et bank a 0 % 2 ^ f.bits)), 0#8)

/-- One argument of FRSQRT. -/
def sfRsqrt (et bank a : Nat) : Nat × Byte :=
  let f := etFmt et
  match fdecode f a with
  | .nan => sfNaN f
  | .inf true => (f.nanCode, stSFDOM ||| stFPINV)
  | .inf false => (0, 0#8)
  | .fin s m e =>
    if m = 0 then (overflowCode f, stSFDOM)
    else if s then (f.nanCode, stSFDOM ||| stFPINV)
    else
      let c := rsqrtFloor f (.fin false m e) f.bits 0
      let x := sfCandidate 4 et bank a 0 % 2 ^ f.bits
      (if x = c ∨ x = c + 1 then x else c, 0#8)

/-- The exact results of the functions tabulated for every x: FSIGM (5), FTANH (6), FSOFTP (7), FSMOOTH (10), as sign and fraction. -/
def sfTotalFrac (fn : Nat) (v : FVal) : Bool × Nat × Nat :=
  let x := sfArg v
  if fn = 5 then (false, sigmFrac x.1 x.2)
  else if fn = 6 then (x.1, tanhFrac x.2)
  else if fn = 10 then (false, smoothFrac x.1 x.2)
  else
    let l := log1pExpNeg x.2
    match v with
    | .fin false m e => if e < 0 then (false, m * fixOne + l * 2 ^ (-e).toNat, fixOne * 2 ^ (-e).toNat) else (false, m * 2 ^ e.toNat * fixOne + l, fixOne)
    | _ => (false, l, fixOne)

/-- One argument of a function tabulated for every x; softplus of +∞ is +∞, and an infinity from a finite argument sets FPOVF. -/
def sfTotal (fn et bank a : Nat) : Nat × Byte :=
  let f := etFmt et
  match fdecode f a with
  | .nan => sfNaN f
  | v =>
    if fn = 7 ∧ v = .inf false then (overflowCode f, 0#8)
    else
      let r := sfTotalFrac fn v
      let c := heldTo f (sfUlps et 2) none r.1 r.2.1 r.2.2 (sfCandidate fn et bank a 0)
      (c, sfResultFlags f (if fn = 7 then stFPOVF else 0#8) c)

/-- Sine (part 0) or cosine (part 1) of one argument. -/
def sfSinCos (part et bank a : Nat) : Nat × Byte :=
  let f := etFmt et
  match fdecode f a with
  | .nan => sfNaN f
  | .inf _ => (f.nanCode, stSFDOM ||| stFPINV)
  | .fin s m e =>
    if flt (.fin false 32768 0) (.fin false m e) then (if part = 0 then 0 else (fround f (.fin false 1 0)).1, stSFDOM)
    else
      let r := sinCosFrac part s (fixOf m e)
      let abs := if et ≠ 6 ∧ fracBelow r.2.1 r.2.2 10 then some 33 else none
      (heldTo f (sfUlps et 2) abs r.1 r.2.1 r.2.2 (sfCandidate 8 et bank a part), 0#8)

/-- π × k / 4 rounded into the format, from the FP32 constants; k = 1 to 4. -/
def quarterPi (et k : Nat) : Nat :=
  let c := match k with
    | 1 => 0x3F490FDB
    | 2 => 0x3FC90FDB
    | 3 => 0x4016CBE4
    | _ => 0x40490FDB
  (fround (etFmt et) (fdecode fmtFP32 c)).1

/-- FATAN2 of (y, x): infinities give the values IEEE 754 recommends. -/
def sfAtan2 (et bank y x : Nat) : Nat × Byte :=
  let f := etFmt et
  match fdecode f y, fdecode f x with
  | .nan, _ => sfNaN f
  | _, .nan => sfNaN f
  | .inf s, .inf t => (withSign f s (quarterPi et (if t then 3 else 1)), 0#8)
  | .inf s, .fin _ _ _ => (withSign f s (quarterPi et 2), 0#8)
  | .fin s _ _, .inf t => (withSign f s (if t then quarterPi et 4 else 0), 0#8)
  | .fin s m e, .fin t n k =>
    if m = 0 ∧ n = 0 then (0, stSFDOM)
    else let r := atan2Frac (m, e) t (n, k); (heldTo f (sfUlps et 2) none s r.1 r.2 (sfCandidate 9 et bank y x), 0#8)

/-! ### The instruction around it (R96) -/

/-- 32 elements into register d with latency 6: all lanes for FP32; bytes 0 to 63 for BF16, the rest zero. A predicated
syllable that issues merges under its mask (R83, Example 3.1; log entry 9). -/
def State.fput (s : State) (x : SylArg) (d : Nat) (f : Nat → Nat × Byte) : State :=
  let w := etSize (etOf x)
  let m := laneMask (s.core x.n) x.body
  let r := packElems w m 0 ((List.range 32).map f)
  s.result x.n d 6 (BitVec.ofNat 1024 r.1) (elemMask w 32 m) r.2 4

/-- The bank a special function evaluates with: SF_BANK at its issue. -/
def sfBankOf (s : State) (x : SylArg) : Nat := (s.core x.n).curCtx.sfBank.toNat % 2
/-- The built-in tables that the bank holds, by the version of the runtime they came with (R451). -/
def sfSetOf (s : State) (x : SylArg) : Nat :=
  (((s.core x.n).setInBank (sfBankOf s x)).bind fun y => y.image).getD (s.get 0x1001 2)

/-- A read of the table bank: a corrected error is counted in SF_ECC_CORR; an uncorrectable one fences the core (R169). -/
def State.bankRead (s : State) (x : SylArg) (k : State → State) : State :=
  match x.ecc with
  | .clean => k s
  | .corrected => k (s.bump (0x8000 + x.n) 8)
  | .uncorrectable => s.fenceCore x.n evECC 0

/-- A built-in function of one argument. -/
def State.fmap (s : State) (x : SylArg) (f : Nat → Nat → Nat → Nat × Byte) : State :=
  s.bankRead x fun s => s.fput x (sylD x.body) fun i => f (etOf x) (sfSetOf s x) (elem (vsrcA s x) (etSize (etOf x)) i)

def opFexp (x : SylArg) (s : State) : State := s.fmap x sfExp
def opFlog (x : SylArg) (s : State) : State := s.fmap x sfLog
def opFrcp (x : SylArg) (s : State) : State := s.fmap x sfRcp
def opFrsqrt (x : SylArg) (s : State) : State := s.fmap x sfRsqrt
def opFsigm (x : SylArg) (s : State) : State := s.fmap x (sfTotal 5)
def opFtanh (x : SylArg) (s : State) : State := s.fmap x (sfTotal 6)
def opFsoftp (x : SylArg) (s : State) : State := s.fmap x (sfTotal 7)
def opFsmooth (x : SylArg) (s : State) : State := s.fmap x (sfTotal 10)
/-- FSINCOS: the sine to vD and the cosine to vD+1. -/
def opFsincos (x : SylArg) (s : State) : State :=
  let a := fun i => elem (vsrcA s x) (etSize (etOf x)) i
  s.bankRead x fun s => (s.fput x (sylD x.body) fun i => sfSinCos 0 (etOf x) (sfSetOf s x) (a i)).fput x (sylD x.body + 1) fun i =>
    sfSinCos 1 (etOf x) (sfSetOf s x) (a i)
/-- FATAN2: atan2(vA, vB). -/
def opFatan2 (x : SylArg) (s : State) : State :=
  s.bankRead x fun s => s.fput x (sylD x.body) fun i =>
    sfAtan2 (etOf x) (sfSetOf s x) (elem (vsrcA s x) (etSize (etOf x)) i) (elem (vsrcB s x) (etSize (etOf x)) i)

/-! ### Micro-programs (R170, R171) -/

/-- What the steps pass on. -/
structure MpRun where
  r : Nat
  k : Int := 0
  t0 : Nat := 0x3F800000
  t1 : Nat := 0
  p : Option Nat := none
  y : Option Nat := none
  done : Option Nat := none
  st : Byte := 0#8
  deriving DecidableEq, Repr

/-- Entry i of a micro-program's table. The spec gives no value beyond its end (log entry 4). -/
def mpTable (mp : List Byte) (i : Nat) : Nat :=
  let steps := fieldOf mp 5 1
  if i < fieldOf mp 12 2 then fieldOf mp (32 + 16 * steps + 4 * i) 4
  else Config.specialFunction 256 (fieldOf mp 4 1) 0 i 0 % 2 ^ 32

/-- One FP32 operation: the encoding and its sticky bits joined to a run's. -/
def mpRound (v : FVal) : Nat × Byte := fround fmtFP32 v
def dec32 (x : Nat) : FVal := fdecode fmtFP32 x
/-- fma with one rounding. -/
def mpFma (a b c : Nat) : Nat × Byte := mpRound (fadd (fmul (dec32 a) (dec32 b)) (dec32 c))

/-- round_te of an FP32 value to the k of RRED: |k| < 2²³, larger clamps and sets SFDOM. -/
def mpInt (x : Nat) : Int × Byte :=
  let lim : Int := 2 ^ 23 - 1
  match dec32 x with
  | .nan => (0, stFPINV)
  | .inf s => (if s then -lim else lim, stSFDOM)
  | v => let n := v.nearest; (clampInt (-lim) lim n, if n < -lim ∨ lim < n then stSFDOM else 0#8)

/-- The index of TLU with flags [0] = 1. -/
def mpIndex (x : Nat) (top : Nat) : Nat :=
  match dec32 x with
  | .nan => 0
  | .inf s => if s then 0 else top
  | v => (clampInt 0 top v.floor).toNat

/-- Horner evaluation over n further coefficients. -/
def mpHorner (mp : List Byte) (r : Nat) : Nat → Nat → Nat × Byte → Nat × Byte
  | 0, _, p => p
  | n + 1, i, p => let q := mpFma p.1 r (mpTable mp i); mpHorner mp r n (i + 1) (q.1, p.2 ||| q.2)

/-- Negation of an FP32 encoding. -/
def neg32 (x : Nat) : Nat := (x + 2 ^ 31) % 2 ^ 32

/-- One step of Table 7.7 on argument x; `w` is the step's 16 bytes. -/
def mpStep (mp : List Byte) (x : Nat) (w : List Byte) (u : MpRun) : MpRun :=
  let code := fieldOf w 0 1
  let fl := fieldOf w 1 1
  let pm := fieldOf w 2 2
  let c1 := fieldOf w 4 4
  let c2 := fieldOf w 8 4
  let c3 := fieldOf w 12 4
  if u.done.isSome then u
  else if code = 1 then
    let pick := fun t => if fl % 2 = 1 then t % 2 ^ 31 + x / 2 ^ 31 * 2 ^ 31 else t
    if flt (dec32 x) (dec32 c1) then { u with done := some (pick (mpTable mp pm)), st := u.st ||| stSFDOM }
    else if flt (dec32 c2) (dec32 x) then { u with done := some (pick (mpTable mp (pm + 1))), st := u.st ||| stSFDOM }
    else u
  else if code = 2 then
    let q := mpRound (fmul (dec32 x) (dec32 c1))
    let k := mpInt q.1
    let nk := (mpRound (.fin (decide (0 < k.1)) k.1.natAbs 0)).1
    let r1 := mpFma nk c2 x
    let r2 := mpFma nk c3 r1.1
    { u with k := k.1, r := r2.1, st := u.st ||| q.2 ||| k.2 ||| r1.2 ||| r2.2 }
  else if code = 3 then
    let n : Nat := 2 ^ (pm % 16)
    let d := mpRound (fadd (dec32 u.r) (dec32 c1).neg)
    let e := mpRound (fmul (dec32 d.1) (dec32 c2))
    let i := if fl % 2 = 0 then (u.k % (n : Int)).toNat else mpIndex e.1 (n - 1)
    let st := if fl % 2 = 0 then 0#8 else d.2 ||| e.2
    { u with t0 := mpTable mp (pm / 16 + i), t1 := if fl / 2 % 2 = 1 then mpTable mp (pm / 16 + n + i) else u.t1,
             st := u.st ||| st }
  else if code = 4 then
    let h := mpHorner mp u.r (pm % 8) (pm / 16 + 1) (mpTable mp (pm / 16), 0#8)
    { u with p := some h.1, st := u.st ||| h.2 }
  else if code = 5 then
    let a := mpFma u.t0 (u.p.getD u.r) (if fl % 2 = 1 then u.t1 else 0)
    let sh := u.k / (2 ^ (pm % 16) : Nat)
    let b := if fl / 2 % 2 = 1 then mpRound (fmul (dec32 a.1) (.fin false 1 sh)) else (a.1, 0#8)
    let c := if fl / 4 % 2 = 1 ∧ 2 ≤ u.k % 4 then neg32 b.1 else b.1
    let d := if fl / 8 % 2 = 1 then mpRound (fadd (dec32 c3) (dec32 c).neg) else (c, 0#8)
    { u with y := some d.1, st := u.st ||| a.2 ||| b.2 ||| d.2 }
  else u

/-- The steps in order. -/
def mpSteps (mp : List Byte) (x : Nat) : Nat → Nat → MpRun → MpRun
  | 0, _, u => u
  | n + 1, i, u => mpSteps mp x n (i + 1) (mpStep mp x ((mp.drop (32 + 16 * i)).take 16) u)

/-- One argument of a micro-program: only declared sticky bits are set (R171). -/
def mpEval (mp : List Byte) (et a : Nat) : Nat × Byte :=
  let f := etFmt et
  let x := (fround fmtFP32 (fdecode f a)).1
  let declared := BitVec.ofNat 8 (fieldOf mp 6 1)
  if fdecode f a = .nan then (f.nanCode, stFPINV &&& declared)
  else
    let u := mpSteps mp x (fieldOf mp 5 1) 0 { r := x }
    let y := u.done.getD (u.y.getD (u.p.getD u.r))
    let o := if et = 7 then (y, 0#8) else fround f (dec32 y)
    (o.1, (u.st ||| o.2) &&& declared)

/-- FMP: ILLEGAL for an identifier with no loaded micro-program. -/
def opFmp (x : SylArg) (s : State) : State :=
  let mp := Tbl.get [] (s.core x.n).microprograms (sfBankOf s x * 256 + sylFN x.body)
  if mp = [] then s.fault x evILLEGAL none
  else s.bankRead x fun s => s.fput x (sylD x.body) fun i => mpEval mp (etOf x) (elem (vsrcA s x) (etSize (etOf x)) i)

/-! ### Loop control and moves -/

/-- LOOP: lc, ls and le of a level with latency 1; a count of 0 skips the body (R64, R97). -/
def opLoop (x : SylArg) (s : State) : State :=
  let c := s.core x.n
  let k := sylLvl x.body
  let n : Nat := if sylCI x.body then sylCount x.body else (srcA s x).toNat
  let ls := c.pc + BitVec.ofNat 48 c.bundleLen
  let le := c.pc + BitVec.ofNat 48 (sylEnd x.body)
  if c.loopAllowed k ls le then
    let s1 := ((s.result1 x.n (0x60 + k) n).result1 x.n (0x64 + k) ls.toNat).result1 x.n (0x68 + k) le.toNat
    if n = 0 then
      s1.updCore x.n fun c => { c with run := { c.run with skip := some (le + BitVec.ofNat 48 (s.bundleLenAt le.toNat)) } }
    else s1
  else s.fault x evLOOP none

/-- MVFL: a loop register into a g or a register. -/
def opMvfl (x : SylArg) (s : State) : State :=
  let c := s.core x.n
  let a := sylA x.body
  s.result1 x.n (sylD x.body)
    (if a < 0x64 then (c.readLc (a - 0x60)).toNat else if a < 0x68 then (c.readLs (a - 0x64)).toNat
     else (c.readLe (a - 0x68)).toNat)

/-- MVTL: a g or a register into a loop register; LOOP for a non-zero count R64 forbids. -/
def opMvtl (x : SylArg) (s : State) : State :=
  let c := s.core x.n
  let d := sylD x.body
  if d < 0x64 then
    if srcA s x ≠ 0#32 ∧ ¬ c.loopAllowed (d - 0x60) (c.readLs (d - 0x60)) (c.readLe (d - 0x60)) then s.fault x evLOOP none
    else s.result1 x.n d (srcA s x).toNat
  else s.result1 x.n d (srcAddr s x).toNat

/-- VSETVL: min(gA, 128), or min(IMM32, 128) where A names g0 (R99; log entry 10). -/
def opVsetvl (x : SylArg) (s : State) : State :=
  let n := min 128 (if sylA x.body = 0 then (sylImm x.body).toNat else (srcA s x).toNat)
  (s.result1 x.n (sylD x.body) n).result1 x.n 0x6C n

/-- SFBANK: the other table bank; runtime only (R96, R167). -/
def opSfbank (x : SylArg) (s : State) : State :=
  if (s.core x.n).jobMode then s.fault x evILLEGAL none
  else s.result1 x.n (destCsr 0x30) (1 - sfBankOf s x)

end Sys2Proof.Machine
end

