-- ==== Sys2Proof/Machine/Issue.lean ====
section
/-! DEFINITION. Issue of a bundle: what one syllable does, the hold of a bundle, and the next address (R51, R52, R62 to
R65, R80 to R87), and RESUME (R72, R78). -/

namespace Sys2Proof.Machine

open Sys2Proof

/-! ### The save area (Table 3.7) -/

/-- Device address of the save area of context k of core n (R74). -/
def saveArea (n k : Nat) : Nat := n * Config.coreMemBytes + 0x10000 + k * 0x8000

/-- The in-flight descriptor i of the save area at a, with its data record (Table 3.7a). -/
def savedLand (s : State) (a i : Nat) : Land :=
  let w := memNat s.mem 8 (a + 0x300 + 32 * i)
  let slot := bits w 16 8
  let d := a + (if slot = 16 then 0x780 else 0x1800 + slot * 0x80)
  { dest := bits w 0 8, remain := bits w 8 4, value := BitVec.ofNat 1024 (memNat s.mem 128 d),
    mask := BitVec.ofNat 128 (memNat s.mem 16 (a + 0x300 + 32 * i + 8)), sticky := BitVec.ofNat 8 (bits w 24 8),
    kind := bits w 12 4 }

/-- A register file of `count` registers of `size` bytes read from memory at a, from register i on. -/
def loadFile {α : Type} [DecidableEq α] (d : α) (conv : Nat → α) (m : List Host.Cell) (a size : Nat) :
    Nat → Nat → Tbl α → Tbl α
  | 0, _, t => t
  | k + 1, i, t => loadFile d conv m a size k (i + 1) (Tbl.set d t i (conv (memNat m size (a + size * i))))

/-! #### The matrix state of a save area (Table 5.5; log entry 13) -/

/-- 48-bit values that the output-stage entries of a row hold: real and imaginary parts in turn in complex modes. -/
def entryVals (p : Pass) (r : ARow) : List Int :=
  if (modeRow (dMode p.desc)).complex then r.cols.flatMap fun c => [c.1, c.2] else r.cols.map fun c => c.1

/-- The row with the values that its entries hold; a value the list does not give stays. -/
def putEntryVals (p : Pass) (r : ARow) (v : Nat → Option Int) : ARow :=
  let cx := (modeRow (dMode p.desc)).complex
  { r with cols := r.cols.zipIdx.map fun c =>
      if cx then ((v (2 * c.2)).getD c.1.1, (v (2 * c.2 + 1)).getD c.1.2) else ((v c.2).getD c.1.1, c.1.2) }

/-- Address, in the save area at a, of value v of a row whose entries begin at entry e, in group q of G: an entry has 32 values of 48 bits, and the
group owns its own columns of it. None where the row has no such value. -/
def entryAddr (p : Pass) (a g q e v : Nat) : Option Nat :=
  let per := 32 / g
  if v < per * rowEntries p ∧ e + v / per < 80 then some (a + 0x2000 + 192 * (e + v / per) + 6 * (q * per + v % per)) else none

/-- Rows of a pass that hold entries, oldest first. -/
def Pass.entryRows (p : Pass) : List ARow := p.queue ++ p.formed ++ p.part

/-- The pass with the values of its rows read from the save area at a, its entries from entry e on (R72). -/
def loadPass (m : List Host.Cell) (a g q e : Nat) (p : Pass) : Pass :=
  let rd := fun (e0 : Nat) (l : List ARow) => l.zipIdx.map fun r => putEntryVals p r.1 fun v =>
    (entryAddr p a g q (e0 + rowEntries p * r.2) v).map fun b =>
      if (modeRow (dMode p.desc)).float then ((memNat m 4 b : Nat) : Int) else signed 48 (memNat m 6 b)
  { p with queue := rd e p.queue, formed := rd (e + rowEntries p * p.queue.length) p.formed,
           part := rd (e + rowEntries p * (p.queue.length + p.formed.length)) p.part }

/-- The passes of a continuation with the values of their rows read from the save area at a. -/
def loadPasses (m : List Host.Cell) (a g q : Nat) : Nat → List Pass → List Pass
  | _, [] => []
  | e, p :: r => loadPass m a g q e p :: loadPasses m a g q (e + rowEntries p * p.entryRows.length) r

/-- Address in the save area at a of byte i of the tile of group q: the banks lie in physical column order, 512 bytes to a column, its rows one
after another. -/
def bankAddr (a g q b i : Nat) : Nat :=
  let row := b / 128
  let z := row / (16 / g)
  a + 0x6000 + 512 * (q * (16 / g) + i % row / z) + i / row * z + i % row % z

/-- The record of group q of a save area: the context's continuation, if the area still holds its 16 words (log entry 13). -/
def savedMcont (m : List Host.Cell) (a q : Nat) (x : Ctx) : MCont :=
  let y := Tbl.get {} x.mcont q
  if (List.range 16).all fun i => (y.words[i]?).any fun w => w.toNat == memNat m 8 (a + 0x5C00 + 128 * q + 8 * i) then y else {}

/-- A continuation of a context that is now in slot k. -/
def MCont.inSlot (y : MCont) (k : Nat) : MCont :=
  { y with current := y.current.map fun p => { p with slot := k }, queued := y.queued.map fun p => { p with slot := k },
           draining := y.draining.map fun p => { p with slot := k } }

/-- The groups of a core with the continuations of the context of the save area at a put back in slot k: with MATRIX_VALID the rows and the bank from
the save area, otherwise the records of the continuation store, and the bank is what the group still holds (R72, R120, R121). -/
def restoreGroups (m : List Host.Cell) (c : Core) (x : Ctx) (a k : Nat) (valid : Bool) : Tbl Group :=
  let g := c.split
  (List.range 4).foldl (fun gs q =>
    let r := (if valid then savedMcont m a q x else Tbl.get {} x.mcont q).inSlot k
    let l := r.draining ++ r.current.toList
    let l := if valid then loadPasses m a g q 0 l else l
    let y := Tbl.get {} gs q
    let b := match r.current, r.bank with
      | some p, some i => if valid then
          some ⟨i.1, i.2, k, (List.range (folds p.desc g).b).map fun t => memByte m (bankAddr a g q (folds p.desc g).b t)⟩ else y.active
      | _, _ => y.active
    Tbl.set {} gs q { y with
      current := if r.current.isSome then l.getLast? else y.current, queued := r.queued <|> y.queued,
      draining := (if r.current.isSome then l.dropLast else l) ++ y.draining, active := b,
      shadow := if r.current.isSome then none else y.shadow, bandsSwapped := if r.current.isSome then 0 else y.bandsSwapped }) c.groups

/-- The context slot whose save area lies at an address. -/
def areaSlot (n a : Nat) : Nat := (a - n * Config.coreMemBytes - 0x10000) / 0x8000 % 4

/-- A core with the context of the save area at a restored (R72): registers, loop registers (R78), records in flight,
matrix and stream continuations. -/
def restoreCtx (s : State) (n a : Nat) : Core :=
  let c := s.core n
  let k := areaSlot n a
  let x := c.ctx k
  let m := s.mem
  let st := BitVec.ofNat 8 (memNat m 4 (a + 0x28)) ||| x.pendSticky
  let c1 : Core := { c with
    g := Tbl.erase (loadFile 0#32 (BitVec.ofNat 32) m (a + 0x100) 4 32 0 []) 0,
    a := loadFile 0#48 (BitVec.ofNat 48) m (a + 0x180) 8 16 0 [],
    p := loadFile 0#128 (BitVec.ofNat 128) m (a + 0x200) 16 8 0 [],
    v := loadFile 0#1024 (BitVec.ofNat 1024) m (a + 0x800) 128 32 0 [],
    lc := loadFile 0#32 (BitVec.ofNat 32) m (a + 0x280) 4 4 0 [],
    ls := loadFile 0#48 (BitVec.ofNat 48) m (a + 0x290) 8 4 0 [],
    le := loadFile 0#48 (BitVec.ofNat 48) m (a + 0x2B0) 8 4 0 [],
    vl := BitVec.ofNat 8 (memNat m 1 (a + 0x20)), flags := BitVec.ofNat 8 (memNat m 4 (a + 0x24)), sticky := st,
    pc := BitVec.ofNat 48 (memNat m 6 (a + 8)), branched := false, bubble := 0, jobMode := true, cur := k,
    inflight := (List.range (memNat m 1 (a + 4) % 18)).map (savedLand s a), bundle := [], run := {}, held := false,
    heldCycles := 0, groups := restoreGroups m c x a k ((memNat m 2 (a + 2)).testBit 0) }
  c1.setCtx k { x with state := .running, cycle := BitVec.ofNat 64 (memNat m 8 (a + 0x10)), pendSticky := 0#8, mcont := [] }

/-- The job of a context enters a state. -/
def State.jobState (s : State) (j : Nat) (st : JobState) : State :=
  let y := s.job j
  if y.live && y.state != .fenced && y.state != .completed then s.setJob j { y with state := st } else s

/-- RESUME: ILLEGAL in job mode; a save area whose LOOP_SAVED is clear fences its job with cause INTERNAL, one that meets an uncorrectable error
with cause ECC (R72, R75, R78). The restore comes about at the end of the bundle, whose other syllables are of the runtime. -/
def opResume (x : SylArg) (s : State) : State :=
  let c := s.core x.n
  let a := (srcAddr s x).toNat
  let j := (c.ctx (areaSlot x.n a)).job
  if c.jobMode then s.fault x evILLEGAL none
  else s.sylRead x a fun s =>
    if ¬ (memNat s.mem 2 (a + 2)).testBit 2 then s.fenceJob j 0x44 0 0
    else s.updCore x.n fun c => { c with run := { c.run with resume := some a } }

/-- The restore of a RESUME: the bundle at NEXT_PC is the next to issue, and every record in flight has its REMAIN left (R72). -/
def State.resumeCtx (s : State) (n a : Nat) : State :=
  let j := ((s.core n).ctx (areaSlot n a)).job
  let s1 := s.setCore n { restoreCtx s n a with sliceStart := s.clock }
  (s1.traceJob n 5 (j + memNat s.mem 6 (a + 8) * 2 ^ 64)).jobState j .running

/-! ### One syllable -/

def opNop (_x : SylArg) (s : State) : State := s

/-- What the syllable of an opcode does. -/
def runOp (op : CoreOp) (x : SylArg) (s : State) : State :=
  match op with
  | .nop => opNop x s
  | .add => opAdd x s
  | .sub => opSub x s
  | .addi => opAddi x s
  | .and => opAnd x s
  | .or => opOr x s
  | .xor => opXor x s
  | .li => opLi x s
  | .shl => opShl x s
  | .shr => opShr x s
  | .sra => opSra x s
  | .mul => opMul x s
  | .mulh => opMulh x s
  | .min => opMin x s
  | .max => opMax x s
  | .cmp => opCmp x s
  | .cmpi => opCmpi x s
  | .sel => opSel x s
  | .br => opBr x s
  | .bri => opBri x s
  | .call => opCall x s
  | .csrr => opCsrr x s
  | .csrw => opCsrw x s
  | .csrc => opCsrc x s
  | .endJob => opEnd x s
  | .resume => opResume x s
  | .ldb => opLdb x s
  | .ldbu => opLdbu x s
  | .ldh => opLdh x s
  | .ldhu => opLdhu x s
  | .ldw => opLdw x s
  | .lda => opLda x s
  | .ldp => opLdp x s
  | .ldv => opLdv x s
  | .stb => opStb x s
  | .sth => opSth x s
  | .stw => opStw x s
  | .sta => opSta x s
  | .stp => opStp x s
  | .stv => opStv x s
  | .aadd => opAadd x s
  | .aaddi => opAaddi x s
  | .amov => opAmov x s
  | .afromg => opAfromg x s
  | .atog => opAtog x s
  | .sstart => opSstart x s
  | .spause => opSpause x s
  | .sstat => opSstat x s
  | .twait => opTwait x s
  | .tadd => opTadd x s
  | .tacq => opTacq x s
  | .trel => opTrel x s
  | .tread => opTread x s
  | .hdeq => opHdeq x s
  | .henq => opHenq x s
  | .vadd => opVadd x s
  | .vsub => opVsub x s
  | .vmul => opVmul x s
  | .vfma => opVfma x s
  | .vmin => opVmin x s
  | .vmax => opVmax x s
  | .vabs => opVabs x s
  | .vand => opVand x s
  | .vor => opVor x s
  | .vxor => opVxor x s
  | .vshl => opVshl x s
  | .vmulrs => opVmulrs x s
  | .vdmacs => opVdmacs x s
  | .vdnarrow => opVdnarrow x s
  | .vcmp => opVcmp x s
  | .vsel => opVsel x s
  | .vbcast => opVbcast x s
  | .vcvt => opVcvt x s
  | .vperm => opVperm x s
  | .vshuf => opVshuf x s
  | .vpack => opVpack x s
  | .vunpack => opVunpack x s
  | .vcompress => opVcompress x s
  | .vexpand => opVexpand x s
  | .vred => opVred x s
  | .vtset => opVtset x s
  | .vmrd => opVmrd x s
  | .mtile => opMtile x s
  | .mwld => opMwld x s
  | .mwpass => opMwpass x s
  | .mpass => opMpass x s
  | .mrq => opMrq x s
  | .msplit => opMsplit x s
  | .moutl => opMoutl x s
  | .mbwd => opMbwd x s
  | .fexp => opFexp x s
  | .flog => opFlog x s
  | .frcp => opFrcp x s
  | .frsqrt => opFrsqrt x s
  | .fsigm => opFsigm x s
  | .ftanh => opFtanh x s
  | .fsoftp => opFsoftp x s
  | .fsincos => opFsincos x s
  | .fatan2 => opFatan2 x s
  | .fsmooth => opFsmooth x s
  | .fmp => opFmp x s
  | .loop => opLoop x s
  | .mvfl => opMvfl x s
  | .mvtl => opMvtl x s
  | .vsetvl => opVsetvl x s
  | .sfbank => opSfbank x s

/-- Whether a bundle holds both VTSET and an L syllable that accesses memory (R157). -/
def vtsetClash (l : List Syl) : Bool := (l.any fun y => y.op == .vtset) && (l.any fun y => y.slot == 2)

/-- The event counter an issued syllable advances: V-slot instructions, special functions (Table 20.1). -/
def Syl.countSel (y : Syl) : Nat :=
  if y.slot = 4 ∧ y.op ≠ .nop then 0x20
  else if y.op ∈ [.fexp, .flog, .frcp, .frsqrt, .fsigm, .ftanh, .fsoftp, .fsincos, .fatan2, .fsmooth, .fmp] then 0x21
  else 0

/-- One syllable of the bundle: nothing when its scalar predicate is off (R83); ILLEGAL for a reserved encoding (R81,
R82); otherwise its operation. -/
def State.actSyl (s : State) (n : Nat) (y : Syl) : State :=
  let c := s.core n
  let x : SylArg := { n := n, slot := y.slot, body := y.body, ecc := y.ecc }
  if ¬ byLane y.op y.slot ∧ ¬ scalarOn c y.body then s
  else if ¬ sylLegal y.op y.slot y.body then s.fault x evILLEGAL none
  else runOp y.op x s

/-- One syllable of the bundle in its turn. After an event of the bundle nothing more acts. -/
def State.runSyl (s : State) (n : Nat) (y : Syl) : State :=
  let c := s.core n
  if c.run.dead then s
  else if c.jobMode ∧ y.countSel ≠ 0 then (s.countCore n y.countSel 1).actSyl n y
  else s.actSyl n y

/-! ### Holds (R62) -/

/-- Whether a syllable holds its bundle now. -/
def sylHolds (s : State) (n : Nat) (y : Syl) : Bool :=
  let c := s.core n
  let x : SylArg := { n := n, slot := y.slot, body := y.body }
  let t := tallyNo s x
  let reach := isSymbolTally t || s.tallyOwned n t
  if ¬ sylLegal y.op y.slot y.body then false
  else match y.op with
    | .twait => scalarOn c y.body && reach && !tallyReached (s.tally t).count (srcB s x)
    | .tacq => scalarOn c y.body && s.tallyOwned n t && !isSymbolTally t && !s.tacqReady n c.cur c.curCtx.job t
        && !((s.tally t).holder == c.curCtx.job && c.curCtx.job != 0)
    | .vmrd => vmrdHolds s x
    | _ => false

/-- A context that a TACQ holds joins the waiters of its Tally, once (R289). -/
def State.joinWaiters (s : State) (n : Nat) (y : Syl) : State :=
  let c := s.core n
  let t := tallyNo s { n := n, slot := y.slot, body := y.body }
  let w := s.tally t
  if y.op = .tacq ∧ sylHolds s n y = true ∧ w.waiting n c.cur = false then
    s.setTally t { w with waiters := w.waiters ++ [⟨n, c.cur, c.curCtx.job, s.clock⟩] }
  else s

/-! ### The bundle -/

/-- Whether the bundle at pc lies in core memory, and in job mode in the fetch window (R55, R86, Table 3.8). -/
def Core.fetchOk (c : Core) (n len : Nat) : Bool :=
  let off := c.pc.toNat - n * Config.coreMemBytes
  inOwnMemory n c.pc.toNat len && (!c.jobMode || (decide (c.curCtx.codeBase ≤ off) && decide (off + len ≤ c.curCtx.codeLimit)))

/-- A MARK record, and the context's count of marked bundles (R80, Table 20.3). -/
def State.markBundle (s : State) (n : Nat) : State :=
  let c := s.core n
  if c.run.mark then
    let k := c.curCtx.markCount + 1
    (s.updCore n fun c => c.updCur fun x => { x with markCount := k }).traceJob n 1 (c.pc.toNat + k.toNat * 2 ^ 64)
  else s

/-- JOB_START at a job's first bundle (Table 20.3). -/
def State.jobStart (s : State) (n : Nat) : State :=
  let c := s.core n
  let x := c.curCtx
  if c.jobMode ∧ x.started = false then
    let y := s.job x.job
    (s.updCore n fun c => c.updCur fun x => { x with started := true }).traceJob n 2
      (x.job + y.kind % 256 * 2 ^ 32 + y.prio % 256 * 2 ^ 40 + y.model % 65536 * 2 ^ 48 + y.epoch % 2 ^ 32 * 2 ^ 64
        + y.carrier % 256 * 2 ^ 96 + y.chunk % 256 * 2 ^ 104)
  else s

/-- After the syllables: the next address (R63, R65), the walkers of the levels that end here, whether or not a branch is taken (R158), and the cycle
in which results land. -/
def State.finishBundle (s : State) (n : Nat) : State :=
  let c := s.core n
  let next := c.pc + BitVec.ofNat 48 c.bundleLen
  if c.run.dead then s.updCore n fun c => { c with bundle := [], run := {} }
  else if c.run.resume.isSome then s.resumeCtx n (c.run.resume.getD 0)
  else if c.run.ended then
    (s.updCore n fun c => ({ c with lastPc := c.pc, bundle := [], run := {} }).updCur fun x => { x with state := .ending }).coreCycle n
  else match c.run.taken with
    | some t =>
      ((s.stepWalkers n c.pc).updCore n fun c => { c with lastPc := c.pc, pc := t, branched := true, bubble := 2, bundle := [], run := {} }).coreCycle n
    | none =>
      let s := s.stepWalkers n c.pc
      let l := loopNext c.le c.ls c.pc next 4 c.lc
      let t := c.run.skip.getD l.2
      (s.updCore n fun c => { c with lc := l.1, lastPc := c.pc, pc := t, branched := false, bundle := [], run := {} }).coreCycle n

/-- A held bundle: a cycle passes with no other effect (R62). -/
def State.holdBundle (s : State) (n : Nat) : State :=
  let c := s.core n
  let why := if c.bundle.any (fun y => y.op == .vmrd && sylHolds s n y) then 3 else 5
  let s := (c.bundle.foldl (fun s y => s.joinWaiters n y) s).countCore n why 1
  (s.updCore n fun c => ({ c with held := true, heldCycles := c.heldCycles + 1 }).updCur fun x =>
    if c.held then x else { x with waitStart := s.clock, waitAir := s.auditAir }).coreCycle n

/-- The staged bundle issues, or is held. -/
def State.issueBundle (s : State) (n : Nat) : State :=
  let c0 := s.core n
  let s := (s.updCore n fun c => { c with bubble := 0, run := { mark := c.run.mark } }).coreCycles n c0.bubble
  let c := s.core n
  if c.run.dead then s.finishBundle n
  else if ¬ c.fetchOk n c.bundleLen then
    (s.raise n evADDR c.lastPc (if c.branched then some (offsetWord c.pc) else none)).finishBundle n
  else if vtsetClash c.bundle then (s.raise n evILLEGAL c.pc (some 0x22#32)).finishBundle n
  else if c.bundle.any (fun y => sylHolds s n y) then s.holdBundle n
  else
    let s := (if c.jobMode then s.countCore n 2 1 else s).jobStart n |>.markBundle n
    (c.bundle.foldl (fun s y => s.runSyl n y) (s.updCore n fun c => { c with held := false, heldCycles := 0 })).finishBundle n

/-- Whether a core takes a syllable: it issues (R402, R425), is not fenced, no bundle of it is held, and no END waits for
JOB_END. -/
def State.takesSyl (s : State) (n : Nat) : Bool :=
  let c := s.core n
  !s.coresStopped && !c.fenced && !c.held && !(c.jobMode && c.curCtx.state == .ending)

/-- Whether a slot is one that the bundle's header names, where it has been presented (R51). -/
def Core.names (c : Core) (slot : Nat) : Bool :=
  match c.run.present with
  | some m => m.testBit slot
  | none => true

/-- Whether the syllables staged are those that the bundle's header names, where it has been presented (R51, R80). -/
def Core.whole (c : Core) : Bool :=
  match c.run.present with
  | some m => (List.range 7).all fun i => m.testBit i == c.bundle.any fun y => y.slot == i
  | none => true

/-- A syllable is staged; the bundle's last syllable makes it issue. A syllable out of slot order, or of a slot that the header leaves out, is no
part of the bundle (R51). -/
def State.stage (s : State) (op : CoreOp) (is : Issue) : State :=
  let n := is.core.val
  let c := s.core n
  let y : Syl := { op := op, slot := is.slot.val, body := is.body, ecc := is.ecc }
  if ¬ s.takesSyl n then s
  else
    let ok := c.names y.slot && c.bundle.all fun z => decide (z.slot < y.slot)
    let s := if ok then s.updCore n fun c => { c with bundle := c.bundle ++ [y] } else s
    if is.last ∧ (s.core n).whole = true then s.issueBundle n else s

/-- The header of a bundle as it is fetched, with any error of its word: ILLEGAL for a wrong tag or a reserved bit; the mask names the slots of the
bundle; MARK makes a trace record (R51, R76, R80). An empty mask is the whole bundle. -/
def State.stageHeader (s : State) (is : Issue) : State :=
  let n := is.core.val
  let w := is.body.toNat
  let c := s.core n
  if ¬ s.takesSyl n then s
  else if is.ecc = .uncorrectable then (s.eccFault n (c.pc.toNat % Config.coreMemBytes) c.pc).finishBundle n
  else s.eccRead n (c.pc.toNat % Config.coreMemBytes) c.pc is.ecc fun s =>
    if bits w 16 8 ≠ 0x5A ∨ bits w 24 40 ≠ 0 ∨ bits w 9 7 ≠ 0 ∨ bits w 7 1 ≠ 0 then
      (s.raise n evILLEGAL (s.core n).pc none).finishBundle n
    else
      let s := s.updCore n fun c => { c with bundle := [], run := { c.run with mark := bits w 8 1 == 1, present := some (bits w 0 7) } }
      if is.last ∧ (s.core n).whole = true then s.issueBundle n else s

end Sys2Proof.Machine
end

