-- ==== Sys2Proof/Machine/CoreExec.lean ====
section
/-! DEFINITION. The meaning of every Lorgus instruction: its syllable is presented to a core, and the bundle issues with
its last syllable (R51). What each syllable does is its operation in Scalar, LoadStore, AddrSlot, Vector, Matrix, Special
and Issue. -/

namespace Sys2Proof.Machine

open Sys2Proof

/-- What a command of a core answers. -/
abbrev Answer := Host.Outcome State Fault Refusal

/-- NOP: a syllable without operation, or in slot 7 the header of a bundle with an empty presence mask (R51). -/
def execNop (is : Issue) (s : State) : Answer :=
  .next (if is.slot = 7 then s.stageHeader is else s.stage .nop is)
/-- MARK: a header syllable (R80). -/
def execMark (is : Issue) (s : State) : Answer := .next (s.stageHeader is)
/-- ADD (R85). -/
def execAdd (is : Issue) (s : State) : Answer := .next (s.stage .add is)
/-- SUB (R85). -/
def execSub (is : Issue) (s : State) : Answer := .next (s.stage .sub is)
/-- ADDI (R85). -/
def execAddi (is : Issue) (s : State) : Answer := .next (s.stage .addi is)
/-- AND (R85). -/
def execAnd (is : Issue) (s : State) : Answer := .next (s.stage .and is)
/-- OR (R85). -/
def execOr (is : Issue) (s : State) : Answer := .next (s.stage .or is)
/-- XOR (R85). -/
def execXor (is : Issue) (s : State) : Answer := .next (s.stage .xor is)
/-- LI (R85). -/
def execLi (is : Issue) (s : State) : Answer := .next (s.stage .li is)
/-- SHL (R85). -/
def execShl (is : Issue) (s : State) : Answer := .next (s.stage .shl is)
/-- SHR (R85). -/
def execShr (is : Issue) (s : State) : Answer := .next (s.stage .shr is)
/-- SRA (R85). -/
def execSra (is : Issue) (s : State) : Answer := .next (s.stage .sra is)
/-- MUL (R85). -/
def execMul (is : Issue) (s : State) : Answer := .next (s.stage .mul is)
/-- MULH (R85). -/
def execMulh (is : Issue) (s : State) : Answer := .next (s.stage .mulh is)
/-- MIN (R85). -/
def execMin (is : Issue) (s : State) : Answer := .next (s.stage .min is)
/-- MAX (R85). -/
def execMax (is : Issue) (s : State) : Answer := .next (s.stage .max is)
/-- CMP (R85). -/
def execCmp (is : Issue) (s : State) : Answer := .next (s.stage .cmp is)
/-- CMPI (R85). -/
def execCmpi (is : Issue) (s : State) : Answer := .next (s.stage .cmpi is)
/-- SEL (R85). -/
def execSel (is : Issue) (s : State) : Answer := .next (s.stage .sel is)
/-- BR (R86). -/
def execBr (is : Issue) (s : State) : Answer := .next (s.stage .br is)
/-- BRI (R86). -/
def execBri (is : Issue) (s : State) : Answer := .next (s.stage .bri is)
/-- CALL (R86). -/
def execCall (is : Issue) (s : State) : Answer := .next (s.stage .call is)
/-- CSRR (R85). -/
def execCsrr (is : Issue) (s : State) : Answer := .next (s.stage .csrr is)
/-- CSRW (R84). -/
def execCsrw (is : Issue) (s : State) : Answer := .next (s.stage .csrw is)
/-- CSRC (R54). -/
def execCsrc (is : Issue) (s : State) : Answer := .next (s.stage .csrc is)
/-- END (R87). -/
def execEndJob (is : Issue) (s : State) : Answer := .next (s.stage .endJob is)
/-- RESUME (R72). -/
def execResume (is : Issue) (s : State) : Answer := .next (s.stage .resume is)
/-- LDB (R88). -/
def execLdb (is : Issue) (s : State) : Answer := .next (s.stage .ldb is)
/-- LDBU (R88). -/
def execLdbu (is : Issue) (s : State) : Answer := .next (s.stage .ldbu is)
/-- LDH (R88). -/
def execLdh (is : Issue) (s : State) : Answer := .next (s.stage .ldh is)
/-- LDHU (R88). -/
def execLdhu (is : Issue) (s : State) : Answer := .next (s.stage .ldhu is)
/-- LDW (R88). -/
def execLdw (is : Issue) (s : State) : Answer := .next (s.stage .ldw is)
/-- LDA (R88). -/
def execLda (is : Issue) (s : State) : Answer := .next (s.stage .lda is)
/-- LDP (R88). -/
def execLdp (is : Issue) (s : State) : Answer := .next (s.stage .ldp is)
/-- LDV (R88). -/
def execLdv (is : Issue) (s : State) : Answer := .next (s.stage .ldv is)
/-- STB (R88). -/
def execStb (is : Issue) (s : State) : Answer := .next (s.stage .stb is)
/-- STH (R88). -/
def execSth (is : Issue) (s : State) : Answer := .next (s.stage .sth is)
/-- STW (R88). -/
def execStw (is : Issue) (s : State) : Answer := .next (s.stage .stw is)
/-- STA (R88). -/
def execSta (is : Issue) (s : State) : Answer := .next (s.stage .sta is)
/-- STP (R88). -/
def execStp (is : Issue) (s : State) : Answer := .next (s.stage .stp is)
/-- STV (R88). -/
def execStv (is : Issue) (s : State) : Answer := .next (s.stage .stv is)
/-- AADD (R88). -/
def execAadd (is : Issue) (s : State) : Answer := .next (s.stage .aadd is)
/-- AADDI (R88). -/
def execAaddi (is : Issue) (s : State) : Answer := .next (s.stage .aaddi is)
/-- AMOV (R88). -/
def execAmov (is : Issue) (s : State) : Answer := .next (s.stage .amov is)
/-- AFROMG (R88). -/
def execAfromg (is : Issue) (s : State) : Answer := .next (s.stage .afromg is)
/-- ATOG (R88). -/
def execAtog (is : Issue) (s : State) : Answer := .next (s.stage .atog is)
/-- SSTART (R173). -/
def execSstart (is : Issue) (s : State) : Answer := .next (s.stage .sstart is)
/-- SPAUSE (R174). -/
def execSpause (is : Issue) (s : State) : Answer := .next (s.stage .spause is)
/-- SSTAT (R175). -/
def execSstat (is : Issue) (s : State) : Answer := .next (s.stage .sstat is)
/-- TWAIT (R90). -/
def execTwait (is : Issue) (s : State) : Answer := .next (s.stage .twait is)
/-- TADD (R181). -/
def execTadd (is : Issue) (s : State) : Answer := .next (s.stage .tadd is)
/-- TACQ (R90). -/
def execTacq (is : Issue) (s : State) : Answer := .next (s.stage .tacq is)
/-- TREL (R90). -/
def execTrel (is : Issue) (s : State) : Answer := .next (s.stage .trel is)
/-- TREAD (R89). -/
def execTread (is : Issue) (s : State) : Answer := .next (s.stage .tread is)
/-- HDEQ (R91). -/
def execHdeq (is : Issue) (s : State) : Answer := .next (s.stage .hdeq is)
/-- HENQ (R91). -/
def execHenq (is : Issue) (s : State) : Answer := .next (s.stage .henq is)
/-- VADD (R92). -/
def execVadd (is : Issue) (s : State) : Answer := .next (s.stage .vadd is)
/-- VSUB (R92). -/
def execVsub (is : Issue) (s : State) : Answer := .next (s.stage .vsub is)
/-- VMUL (R92). -/
def execVmul (is : Issue) (s : State) : Answer := .next (s.stage .vmul is)
/-- VFMA (R92). -/
def execVfma (is : Issue) (s : State) : Answer := .next (s.stage .vfma is)
/-- VMIN (R92). -/
def execVmin (is : Issue) (s : State) : Answer := .next (s.stage .vmin is)
/-- VMAX (R92). -/
def execVmax (is : Issue) (s : State) : Answer := .next (s.stage .vmax is)
/-- VABS (R92). -/
def execVabs (is : Issue) (s : State) : Answer := .next (s.stage .vabs is)
/-- VAND (R92). -/
def execVand (is : Issue) (s : State) : Answer := .next (s.stage .vand is)
/-- VOR (R92). -/
def execVor (is : Issue) (s : State) : Answer := .next (s.stage .vor is)
/-- VXOR (R92). -/
def execVxor (is : Issue) (s : State) : Answer := .next (s.stage .vxor is)
/-- VSHL (R93). -/
def execVshl (is : Issue) (s : State) : Answer := .next (s.stage .vshl is)
/-- VMULRS (R93). -/
def execVmulrs (is : Issue) (s : State) : Answer := .next (s.stage .vmulrs is)
/-- VDMACS (R93). -/
def execVdmacs (is : Issue) (s : State) : Answer := .next (s.stage .vdmacs is)
/-- VDNARROW (R93). -/
def execVdnarrow (is : Issue) (s : State) : Answer := .next (s.stage .vdnarrow is)
/-- VCMP (R150). -/
def execVcmp (is : Issue) (s : State) : Answer := .next (s.stage .vcmp is)
/-- VSEL (R92). -/
def execVsel (is : Issue) (s : State) : Answer := .next (s.stage .vsel is)
/-- VBCAST (R92). -/
def execVbcast (is : Issue) (s : State) : Answer := .next (s.stage .vbcast is)
/-- VCVT (R130). -/
def execVcvt (is : Issue) (s : State) : Answer := .next (s.stage .vcvt is)
/-- VPERM (R152). -/
def execVperm (is : Issue) (s : State) : Answer := .next (s.stage .vperm is)
/-- VSHUF (R153). -/
def execVshuf (is : Issue) (s : State) : Answer := .next (s.stage .vshuf is)
/-- VPACK (R154). -/
def execVpack (is : Issue) (s : State) : Answer := .next (s.stage .vpack is)
/-- VUNPACK (R154). -/
def execVunpack (is : Issue) (s : State) : Answer := .next (s.stage .vunpack is)
/-- VCOMPRESS (R155). -/
def execVcompress (is : Issue) (s : State) : Answer := .next (s.stage .vcompress is)
/-- VEXPAND (R155). -/
def execVexpand (is : Issue) (s : State) : Answer := .next (s.stage .vexpand is)
/-- VRED (R162). -/
def execVred (is : Issue) (s : State) : Answer := .next (s.stage .vred is)
/-- VTSET (R157). -/
def execVtset (is : Issue) (s : State) : Answer := .next (s.stage .vtset is)
/-- VMRD (R94). -/
def execVmrd (is : Issue) (s : State) : Answer := .next (s.stage .vmrd is)
/-- MTILE (R101). -/
def execMtile (is : Issue) (s : State) : Answer := .next (s.stage .mtile is)
/-- MWLD (R106). -/
def execMwld (is : Issue) (s : State) : Answer := .next (s.stage .mwld is)
/-- MWPASS (R109). -/
def execMwpass (is : Issue) (s : State) : Answer := .next (s.stage .mwpass is)
/-- MPASS (R102). -/
def execMpass (is : Issue) (s : State) : Answer := .next (s.stage .mpass is)
/-- MRQ (R142). -/
def execMrq (is : Issue) (s : State) : Answer := .next (s.stage .mrq is)
/-- MSPLIT (R117). -/
def execMsplit (is : Issue) (s : State) : Answer := .next (s.stage .msplit is)
/-- MOUTL (R110). -/
def execMoutl (is : Issue) (s : State) : Answer := .next (s.stage .moutl is)
/-- MBWD (R125). -/
def execMbwd (is : Issue) (s : State) : Answer := .next (s.stage .mbwd is)
/-- FEXP (R166). -/
def execFexp (is : Issue) (s : State) : Answer := .next (s.stage .fexp is)
/-- FLOG (R166). -/
def execFlog (is : Issue) (s : State) : Answer := .next (s.stage .flog is)
/-- FRCP (R166). -/
def execFrcp (is : Issue) (s : State) : Answer := .next (s.stage .frcp is)
/-- FRSQRT (R166). -/
def execFrsqrt (is : Issue) (s : State) : Answer := .next (s.stage .frsqrt is)
/-- FSIGM (R166). -/
def execFsigm (is : Issue) (s : State) : Answer := .next (s.stage .fsigm is)
/-- FTANH (R166). -/
def execFtanh (is : Issue) (s : State) : Answer := .next (s.stage .ftanh is)
/-- FSOFTP (R166). -/
def execFsoftp (is : Issue) (s : State) : Answer := .next (s.stage .fsoftp is)
/-- FSINCOS (R96). -/
def execFsincos (is : Issue) (s : State) : Answer := .next (s.stage .fsincos is)
/-- FATAN2 (R166). -/
def execFatan2 (is : Issue) (s : State) : Answer := .next (s.stage .fatan2 is)
/-- FSMOOTH (R166). -/
def execFsmooth (is : Issue) (s : State) : Answer := .next (s.stage .fsmooth is)
/-- FMP (R171). -/
def execFmp (is : Issue) (s : State) : Answer := .next (s.stage .fmp is)
/-- LOOP (R97). -/
def execLoop (is : Issue) (s : State) : Answer := .next (s.stage .loop is)
/-- MVFL (R98). -/
def execMvfl (is : Issue) (s : State) : Answer := .next (s.stage .mvfl is)
/-- MVTL (R98). -/
def execMvtl (is : Issue) (s : State) : Answer := .next (s.stage .mvtl is)
/-- VSETVL (R99). -/
def execVsetvl (is : Issue) (s : State) : Answer := .next (s.stage .vsetvl is)
/-- SFBANK (R96). -/
def execSfbank (is : Issue) (s : State) : Answer := .next (s.stage .sfbank is)

end Sys2Proof.Machine
end

