-- ==== Sys2Proof/Machine/Nr.lean ====
section
/-! DEFINITION. The parts of TS 38.211 and TS 38.212 that the chip's own rules rest on: segmentation, rate matching, CRCs,
scrambling, resource elements (R227 to R239, R244, R250). The numbers of those standards are not in the spec (log entry 15). -/

namespace Sys2Proof.Machine

open Sys2Proof

/-! ### Bits -/

/-- U16 values of a byte list. -/
def u16s : Nat → List Byte → List Nat
  | 0, _ => []
  | n + 1, b => if b = [] then [] else fieldOf b 0 2 :: u16s n (b.drop 2)

/-- Bits of bytes, bit 7 of the first byte first. -/
def bitsOfBytes (b : List Byte) : List Bool := b.flatMap fun x => (List.range 8).map fun i => x.getLsbD (7 - i)

/-- Bytes of bits, the first bit in bit 7 of the first byte; the last byte is filled with zeros. -/
def bytesOfBits : Nat → List Bool → List Byte
  | 0, _ => []
  | n + 1, l =>
    if l = [] then []
    else BitVec.ofNat 8 ((List.range 8).foldl (fun a i => if (l[i]?).getD false then a + 2 ^ (7 - i) else a) 0) ::
      bytesOfBits n (l.drop 8)
def packMsb (l : List Bool) : List Byte := bytesOfBits (l.length + 1) l

/-- Bytes of bits, the first bit in bit 0 of the first byte (R244). -/
def packLsb : Nat → List Bool → List Byte
  | 0, _ => []
  | n + 1, l =>
    if l = [] then []
    else BitVec.ofNat 8 ((List.range 8).foldl (fun a i => if (l[i]?).getD false then a + 2 ^ i else a) 0) :: packLsb n (l.drop 8)

/-! ### CRCs (Table 10.2) -/

/-- The remainder of a bit string by a generator of degree n, whose low n bits are given. -/
def crcOf (n poly : Nat) (l : List Bool) : Nat :=
  l.foldl (fun r b =>
    let top := r / 2 ^ (n - 1) % 2
    let r' := r * 2 % 2 ^ n
    if (decide (top = 1)) != b then r' ^^^ poly else r') 0

def crc24A (l : List Bool) : Nat := crcOf 24 0x864CFB l
def crc24B (l : List Bool) : Nat := crcOf 24 0x800063 l
def crc24C (l : List Bool) : Nat := crcOf 24 0xB2B117 l
def crc16 (l : List Bool) : Nat := crcOf 16 0x1021 l
def crc11 (l : List Bool) : Nat := crcOf 11 0x621 l
def crc6 (l : List Bool) : Nat := crcOf 6 0x21 l

/-- n bits of a number, most significant first. -/
def natBits (n x : Nat) : List Bool := (List.range n).map fun i => x.testBit (n - 1 - i)

/-! ### Segmentation (R228) -/

/-- The sizes of a codeword's segmentation. -/
structure Seg where
  bg : Nat
  c : Nat
  kp : Nat
  k : Nat
  zc : Nat
  n : Nat
  crc : Nat
  deriving DecidableEq, Repr

/-- The 51 lifting sizes, ascending. -/
def liftSizes : List Nat :=
  (List.range 385).filter fun z => [2, 3, 5, 7, 9, 11, 13, 15].any fun a => (List.range 8).any fun j => z == a * 2 ^ j

/-- Base graph by the rule of clause 6.2.2. -/
def baseGraph (a rate field : Nat) : Nat :=
  if field ≠ 0 then field
  else if a ≤ 292 ∨ (a ≤ 3824 ∧ rate * 100 ≤ 67 * 1024) ∨ rate * 4 ≤ 1024 then 2 else 1

def segment (a rate field : Nat) : Seg :=
  let bg := baseGraph a rate field
  let crc := if 3824 < a then 24 else 16
  let b := a + crc
  let kcb := if bg = 1 then 8448 else 3840
  let c := if b ≤ kcb then 1 else (b + kcb - 24 - 1) / (kcb - 24)
  let bp := if c = 1 then b else b + 24 * c
  let kp := (bp + c - 1) / c
  let kb := if bg = 1 then 22 else if 640 < b then 10 else if 560 < b then 9 else if 192 < b then 8 else 6
  let zc := (liftSizes.find? fun z => decide (kp ≤ kb * z)).getD 384
  { bg := bg, c := c, kp := kp, k := (if bg = 1 then 22 else 10) * zc, zc := zc, n := (if bg = 1 then 66 else 50) * zc, crc := crc }

/-- Circular-buffer length under limited-buffer rate matching (R229). -/
def ncbOf (g : Seg) (lbrm : Nat) : Nat := if lbrm = 0 then g.n else min g.n (3 * lbrm / (2 * g.c))

/-- Rate-matched length of code block r of a codeword of `gb` bits (clause 5.4.2.1). -/
def rmLength (g : Seg) (gb nl qm r : Nat) : Nat :=
  let u := max 1 (nl * qm)
  let q := gb / u
  if r < g.c - q % g.c then u * (q / g.c) else u * ((q + g.c - 1) / g.c)

/-- Starting position of a redundancy version; RV 2 of base graph 1 starts at 37 / 66 as Example 10.1 states. -/
def k0Of (g : Seg) (rv ncb : Nat) : Nat :=
  let num := if g.bg = 1 then (if rv = 0 then 0 else if rv = 1 then 17 else if rv = 2 then 37 else 56)
    else (if rv = 0 then 0 else if rv = 1 then 13 else if rv = 2 then 25 else 43)
  num * ncb / ((if g.bg = 1 then 66 else 50) * g.zc) * g.zc

/-- Filler positions of the circular buffer. -/
def isFiller (g : Seg) (p : Nat) : Bool := decide (g.kp - 2 * g.zc ≤ p ∧ p < g.k - 2 * g.zc)

/-- The positions of the circular buffer without fillers. -/
def bufPositions (g : Seg) (ncb : Nat) : List Nat := (List.range ncb).filter fun p => !isFiller g p

/-- Position of selected bit k, of the transmission that starts at k0; the buffer's non-filler positions are `ps`. -/
def selPosition (ps : List Nat) (k0 k : Nat) : Nat :=
  let from_ := (ps.filter fun p => decide (p < k0)).length
  (ps[(from_ + k) % max 1 ps.length]?).getD 0

/-- Index before bit interleaving of bit t of the rate-matching output (clause 5.4.2.2). -/
def deinterleave (e qm t : Nat) : Nat := t % max 1 qm * (e / max 1 qm) + t / max 1 qm

/-- Highest position that a transmission of e bits fills. -/
def highest (g : Seg) (ncb k0 e : Nat) : Option Nat :=
  let ps := bufPositions g ncb
  if e = 0 then none else some ((List.range (min e ps.length)).foldl (fun m k => max m (selPosition ps k0 k)) 0)

/-- Active layers (R230). -/
def activeLayers (g : Seg) (q : Nat) : Nat :=
  let m := (q + 1 + g.zc - 1) / g.zc + 2 - (if g.bg = 1 then 22 else 10)
  max 4 (min (if g.bg = 1 then 46 else 42) m)

/-- Engine cycles of Table 10.1. -/
def decodeCycles (g : Seg) (m n : Nat) : Nat := 160 + n * m * ((g.zc + 31) / 32)
def encodeCycles (g : Seg) (m : Nat) : Nat := 26 + 2 * m * ((g.zc + 31) / 32)

/-- Soft-buffer blocks of one code block (R237). -/
def softBlocks (ncb : Nat) : Nat := (3 * ((ncb + 1) / 2) + 4095) / 4096

/-! ### Scrambling (R207, R244) -/

/-- One step of the two registers of the length-31 Gold sequence. -/
def goldStep (x : Nat × Nat) : Nat × Nat :=
  ((x.1 / 2) + ((x.1 + x.1 / 8) % 2) * 2 ^ 30, (x.2 / 2) + ((x.2 + x.2 / 2 + x.2 / 4 + x.2 / 8) % 2) * 2 ^ 30)

def goldRun : Nat → Nat × Nat → Nat × Nat
  | 0, x => x
  | n + 1, x => goldRun n (goldStep x)

def goldBits : Nat → Nat × Nat → List Bool
  | 0, _ => []
  | n + 1, x => decide ((x.1 + x.2) % 2 = 1) :: goldBits n (goldStep x)

/-- n bits of the scrambling sequence of an initial value, from bit `off`. -/
def gold (cinit off n : Nat) : List Bool := goldBits n (goldRun (1600 + off) (1, cinit))

/-! ### Entries of slot orders (Tables 9.5 and 11.5) -/

def enRnti (e : List Byte) : Nat := fieldOf e 0 2
def enChannel (e : List Byte) : Nat := fieldOf e 2 1
def enHome (e : List Byte) : Nat := fieldOf e 3 1
def enQm (e : List Byte) : Nat := fieldOf e 5 1
def enRate (e : List Byte) : Nat := fieldOf e 6 2
def enTbs (e : List Byte) : Nat := fieldOf e 8 4
def enPrb0 (e : List Byte) : Nat := fieldOf e 12 2
def enNprb (e : List Byte) : Nat := fieldOf e 14 2
def enSym0 (e : List Byte) : Nat := fieldOf e 16 1
def enNsym (e : List Byte) : Nat := fieldOf e 17 1
def enLayer0 (e : List Byte) : Nat := fieldOf e 18 1
def enNlayer (e : List Byte) : Nat := fieldOf e 19 1
def enPorts (e : List Byte) : Nat := fieldOf e 20 3
def enDmrs (e : List Byte) : Nat := fieldOf e 24 2 % 2 ^ 14
def enDmrsCfg (e : List Byte) : Nat := fieldOf e 26 1
def enPtrs (e : List Byte) : Nat := fieldOf e 27 1
def enDataId (e : List Byte) : Nat := fieldOf e 30 2
def enBg (e : List Byte) : Nat := fieldOf e 32 1
/-- TBS, QM and RATE of codeword q; the second codeword's fields lie elsewhere in the two directions. -/
def enTbsOf (dl : Bool) (e : List Byte) (q : Nat) : Nat := if q = 0 then enTbs e else fieldOf e (if dl then 36 else 48) 4
def enQmOf (dl : Bool) (e : List Byte) (q : Nat) : Nat := if q = 0 then enQm e else fieldOf e (if dl then 40 else 52) 1
def enRateOf (dl : Bool) (e : List Byte) (q : Nat) : Nat := if q = 0 then enRate e else fieldOf e (if dl then 42 else 54) 2
/-- Layers of codeword q: all, or the lower and upper part above four layers. -/
def enLayersOf (e : List Byte) (q : Nat) : Nat :=
  let n := enNlayer e
  if n ≤ 4 then (if q = 0 then n else 0) else if q = 0 then n / 2 else n - n / 2
/-- DMRS of type 1 (plain or enhanced). -/
def dmrsType1 (e : List Byte) : Bool := enDmrsCfg e % 2 == 0

/-! ### Resource elements (R249, R250) -/

/-- Whether a symbol carries PTRS of an entry (clauses 6.4.1.2 and 7.4.1.2). -/
def ptrsSymbol (e : List Byte) (s : Nat) : Bool :=
  let l := 2 ^ (enPtrs e % 4)
  let ref := (List.range (s - enSym0 e)).foldl (fun r i => if (enDmrs e).testBit (enSym0 e + i) then enSym0 e + i else r) (enSym0 e)
  (enDmrsCfg e).testBit 5 && decide ((s - ref) % l = 0)

/-- Subcarrier of PTRS in its resource block, by lowest DMRS port and RE offset. -/
def ptrsRe (e : List Byte) : Nat :=
  let p := ((List.range 24).find? fun i => (enPorts e).testBit i).getD 0
  let o := enPtrs e / 8 % 4
  let row : List Nat := if dmrsType1 e then ([[0, 2, 6, 8], [2, 4, 8, 10], [1, 3, 7, 9], [3, 5, 9, 11]][p % 4]?).getD []
    else ([[0, 1, 6, 7], [1, 6, 7, 0], [2, 3, 8, 9], [3, 8, 9, 2], [4, 5, 10, 11], [5, 10, 11, 4]][p % 6]?).getD []
  (row[o]?).getD 0

/-- Whether resource element (symbol s, subcarrier k of the carrier) is PTRS of the entry. -/
def isPtrs (e : List Byte) (s k : Nat) : Bool :=
  let step := if (enPtrs e).testBit 2 then 4 else 2
  let n := max 1 (enNprb e)
  let off := if n % step = 0 then enRnti e % step else enRnti e % (n % step)
  let i := k / 12 - enPrb0 e
  ptrsSymbol e s && decide (off ≤ i) && decide ((i - off) % step = 0) && decide (k % 12 = ptrsRe e)

/-- Whether a resource element is taken by the DMRS of the entry: on the uplink all of a DMRS symbol, on the downlink the CDM
groups without data (R250). -/
def isDmrs (dl : Bool) (e : List Byte) (s k : Nat) : Bool :=
  (enDmrs e).testBit s && (!dl ||
    (if dmrsType1 e then decide (k % 2 < enDmrsCfg e / 64) else decide (k % 6 / 2 < enDmrsCfg e / 64)))

/-- PRBs and symbols that an entry spans: its own, and for an SSB the 240 subcarriers from its offset and four symbols. -/
def enPrbs (e : List Byte) : Nat := if enChannel e = 0x30 then (enRate e + 251) / 12 else enNprb e
def enSyms (e : List Byte) : Nat := if enChannel e = 0x30 then 4 else enNsym e

/-- Whether an SSB, PDCCH or RS_LIST entry uses a resource element; `d` is the data read for it (R250). REG indices of a CORESET
run over its symbols first. -/
def usesRe (e d : List Byte) (s k : Nat) : Bool :=
  let c := enChannel e
  if c = 0x30 then
    decide (enSym0 e ≤ s ∧ s < enSym0 e + 4) && decide (enPrb0 e * 12 + enRate e ≤ k ∧ k < enPrb0 e * 12 + enRate e + 240)
  else if c = 0x20 then
    let b := d.drop ((((enTbs e + 7) / 8) + 63) / 64 * 64)
    (u16s (6 * enQm e) b).any fun r => s == enSym0 e + r % max 1 (enNsym e) && k / 12 == enPrb0 e + r / max 1 (enNsym e)
  else if c = 0x40 then
    (List.range (enTbs e)).any fun i => fieldOf d (4 * i) 2 == k && fieldOf d (4 * i + 2) 1 == s
  else false

/-- Whether such an entry uses a resource element on a layer slot; an item of an RS_LIST names its own. -/
def usesLayer (e d : List Byte) (s k l : Nat) : Bool :=
  if enChannel e = 0x40 then
    (List.range (enTbs e)).any fun i => fieldOf d (4 * i) 2 == k && fieldOf d (4 * i + 2) 1 == s && fieldOf d (4 * i + 3) 1 == l
  else usesRe e d s k && decide (enLayer0 e ≤ l ∧ l < enLayer0 e + enNlayer e)

/-- Whether such an entry uses any resource element of n PRBs from p0 in symbol s. -/
def usesPrbs (e d : List Byte) (s p0 n : Nat) : Bool := (List.range (12 * n)).any fun i => usesRe e d s (12 * p0 + i)

/-- Subcarriers of the carrier that carry data of an entry in symbol s, ascending. `others` are the order's SSB, PDCCH and RS_LIST entries with
their data. -/
def dataList (dl : Bool) (e : List Byte) (others : List (List Byte × List Byte)) (s : Nat) : List Nat :=
  if s < enSym0 e ∨ enSym0 e + enNsym e ≤ s then []
  else ((List.range (12 * enNprb e)).map fun i => enPrb0 e * 12 + i).filter fun k =>
    !isDmrs dl e s k && !isPtrs e s k && !(others.any fun o => usesRe o.1 o.2 s k)

def dataRes (dl : Bool) (e : List Byte) (others : List (List Byte × List Byte)) (s : Nat) : Nat := (dataList dl e others s).length

/-- Data resource elements of an entry before symbol s: the index of the symbol's first one in the codeword's order (R220, R229). -/
def dataBefore (dl : Bool) (e : List Byte) (others : List (List Byte × List Byte)) (s : Nat) : Nat :=
  ((List.range s).map (dataRes dl e others)).sum

/-- Bits of codeword q that each of the 14 symbols carries. -/
def symbolBits (dl : Bool) (e : List Byte) (others : List (List Byte × List Byte)) (q : Nat) : List Nat :=
  (List.range 14).map fun s => dataRes dl e others s * enQmOf dl e q * enLayersOf e q

/-- Segmentation, all bits and rate-matched length of block r of codeword q. -/
def entrySeg (dl : Bool) (e : List Byte) (q : Nat) : Seg := segment (enTbsOf dl e q) (enRateOf dl e q) (enBg e)
def blockLen (dl : Bool) (e : List Byte) (others : List (List Byte × List Byte)) (q r : Nat) : Nat :=
  rmLength (entrySeg dl e q) (symbolBits dl e others q).sum (enLayersOf e q) (enQmOf dl e q) r

/-- First bit of block r in its codeword. -/
def blockStart (dl : Bool) (e : List Byte) (others : List (List Byte × List Byte)) (q r : Nat) : Nat :=
  (List.range r).foldl (fun a i => a + blockLen dl e others q i) 0

/-- Symbols that carry bits of block r of codeword q. -/
def blockSymbols (dl : Bool) (e : List Byte) (others : List (List Byte × List Byte)) (q r : Nat) : List Nat :=
  let sb := symbolBits dl e others q
  let a := blockStart dl e others q r
  let b := a + blockLen dl e others q r
  (List.range 14).filter fun s =>
    let lo := (sb.take s).sum
    let hi := lo + (sb[s]?).getD 0
    decide (lo < b) && decide (a < hi) && decide (lo < hi)

end Sys2Proof.Machine
end

