-- ==== Sys2Proof/Machine/Start.lean ====
section
/-! DEFINITION. Slot orders in force, the epoch a job carries, time-base samples, and what is decided as a job starts (R23, R31, R199, R210, R250,
R253). -/

namespace Sys2Proof.Machine

open Sys2Proof

/-! ### Reading an order -/

def orKind (b : List Byte) : Nat := fieldOf b 0 1
def orCarrier (b : List Byte) : Nat := fieldOf b 4 1
def orCount (b : List Byte) : Nat := fieldOf b 5 1
def orSlot (b : List Byte) : Nat := fieldOf b 8 8
def orTag (b : List Byte) : Nat := fieldOf b 16 8
def orUsers (b : List Byte) : List (List Byte) := (List.range (orCount b)).map fun i => (b.drop (64 + 64 * i)).take 64
/-- UL_SYMBOLS or DL_SYMBOLS. -/
def orSymbols (b : List Byte) : Nat := fieldOf b (if orKind b = 2 then 24 else 30) 2
def Order.user (o : Order) (i : Nat) : List Byte := (o.body.drop (64 + 64 * i)).take 64
def Order.carrier (o : Order) : Nat := orCarrier o.body
def Order.dl (o : Order) : Bool := o.kind == 2

/-- Whether two ranges, each a start and a length, meet. -/
def overlap (a la b lb : Nat) : Bool := decide (a < b + lb) && decide (b < a + la)

/-! ### Orders in force -/

def State.order (s : State) (i : Nat) : Order := Tbl.get {} s.orders i
def State.setOrder (s : State) (i : Nat) (o : Order) : State := { s with orders := Tbl.set {} s.orders i o }

/-- The order with one codeword replaced. -/
def Order.putWord (o : Order) (w : Codeword) : Order :=
  { o with words := o.words.map fun x => if x.user = w.user ∧ x.cw = w.cw then w else x }

/-- Whether an entry has PRBs of a chunk. -/
def inChunk (u : List Byte) (ch : Nat × Nat) : Bool := overlap (enPrb0 u) (enPrbs u) ch.1 ch.2

/-- DMRS occasions of an entry: first and last symbol (R199). -/
def occasions (u : List Byte) : List (Nat × Nat) :=
  let dm := enDmrs u
  let dbl := (enDmrsCfg u).testBit 4
  let rec go : Nat → Nat → List (Nat × Nat)
    | 0, _ => []
    | k + 1, s =>
      if dm.testBit s then
        (if dbl ∧ dm.testBit (s + 1) then (s, s + 1) :: go (k - 1) (s + 2) else (s, s) :: go k (s + 1))
      else go k (s + 1)
  go 14 0

/-- The occasion a data symbol of an entry uses: the most recent at or before it, else the first (R199). -/
def occasionFor (u : List Byte) (s : Nat) : Option (Nat × Nat) :=
  let l := occasions u
  match (l.filter fun o => decide (o.1 ≤ s)).getLast? with
  | some o => some o
  | none => l.head?

/-- Data symbols of an entry. -/
def dataSymbols (u : List Byte) : List Nat := (List.range 14).filter fun k => decide (0 < dataRes false u [] k)

/-! ### Resource elements of the other downlink channels (R250) -/

/-- Whether an entry is one of those whose resource elements PDSCH leaves out. -/
def isSignal (u : List Byte) : Bool := enChannel u != 0
/-- The order's SSB entries, and its PDCCH and RS_LIST entries whose data has been read, with the data. -/
def Order.signals (o : Order) : List (List Byte × List Byte) :=
  ((orUsers o.body).zipIdx).filterMap fun e =>
    if isSignal e.1 ∧ (enChannel e.1 = 0x30 ∨ o.ready.contains e.2) then some (e.1, Tbl.get [] o.data e.2) else none
/-- Whether a PDCCH, SSB or RS_LIST entry has resource elements in n PRBs from p0 in symbol k; before its data is read, its own PRBs
and symbols count. -/
def Order.signalIn (o : Order) (i k p0 n : Nat) : Bool :=
  let u := o.user i
  if o.ready.contains i ∨ enChannel u = 0x30 then usesPrbs u (Tbl.get [] o.data i) k p0 n
  else overlap (enPrb0 u) (enPrbs u) p0 n && decide (enSym0 u ≤ k ∧ k < enSym0 u + enSyms u)

/-! ### The epoch a job carries (R23) -/

/-- The values of the epoch that a job carries: those in force, or those kept from before the Serve time that ended its epoch. Only RWC values are
read from it. -/
def State.forOf (s : State) (y : Job) : State :=
  match s.past.find? fun p => p.court == y.court && p.epoch == y.epoch with
  | some p => { s with obj := p.obj, blob := p.blob }
  | none => s
def State.forJob (s : State) (j : Nat) : State := s.forOf (s.job j)

/-! ### Time-base samples (R31) -/

/-- What a time-base sample is for, in a Replay record: the completion of a job, its start, a fallback chosen in advance, its dispatch to a coding unit,
its slack at a request to pre-empt, the re-run of it. -/
inductive Purpose where
  | commit | completion | start | ahead | dispatch | slack | rerun
  deriving DecidableEq, Repr

def Purpose.code : Purpose → Nat
  | .commit => 0
  | .completion => 1
  | .start => 2
  | .ahead => 3
  | .dispatch => 4
  | .slack => 5
  | .rerun => 6

/-- The time-base sample for a job (R31): while a record is injected, the recorded one of that job and purpose, if there is one. -/
def State.sample (s : State) (n : Nat) (p : Purpose) (j : Nat) : Nat :=
  match (if s.injecting then s.replay.entries.find? fun e => e.kind == 4 && e.payload.length == 14 && e.payload.drop 9 == bytesOf 1 p.code ++ bytesOf 4 j
      else none) with
  | some e => s.tcOf n (fieldOf e.payload 1 8)
  | none => (s.tb n).tc

/-- The sample enters the Replay record (R405). -/
def State.noteSample (s : State) (n : Nat) (p : Purpose) (j : Nat) : State :=
  s.replayLog 4 (bytesOf 1 n ++ bytesOf 8 (s.airNow n) ++ bytesOf 1 p.code ++ bytesOf 4 j)

/-! ### The start of a job -/

/-- Users of an order with PRBs in a stage job's chunk. -/
def State.chunkUsers (s : State) (y : Job) : List Nat :=
  let o := s.order y.order
  (List.range (orCount o.body)).filter fun i => !o.capacity.contains i && inChunk (o.user i) (y.prb0, y.nprb)

/-- A codeword of a DL_SYMBOL's chunk and symbol whose encode has not completed is zeroed (R253). -/
def State.encodeLate (s : State) (j : Nat) : State :=
  let y := s.job j
  let us := s.chunkUsers y
  let o := s.order y.order
  (o.words.filter fun w => us.contains w.user && !w.zeroed && !w.ended && w.blocks.any (fun b => b.result == 0)
      && (if enChannel (o.user w.user) = 0 then
            (List.range w.blocks.length).any fun r => (blockSymbols true (o.user w.user) o.signals w.cw r).contains y.sym
          else o.signalIn w.user y.sym y.prb0 y.nprb)).foldl
    (fun s w =>
      let o := s.order y.order
      ((s.setOrder y.order (o.putWord { w with zeroed := true, status := 1, cause := 4 })).bump (0x4120 + y.carrier) 5).lateEvent y.court) s

/-- What is decided as a job starts: the Breeze receiver where only it meets the deadline (R210), and the zeroing of late codewords (R253). -/
def State.startChecks (s : State) (j : Nat) : State :=
  let y := s.job j
  if 2 ≤ y.kind ∧ y.kind ≤ 4 then
    let f := max 1 ((s.forJob j).get (0x4000 + y.carrier) 8)
    let left := match y.deadline with
      | some d => airDiff (s.sample y.tb .start j) (s.tcOf y.tb d)
      | none => 0
    let s0 := s.noteSample y.tb .start j
    if !y.breeze && decide (left < (cyclesToTc y.cycles f : Int)) && decide ((cyclesToTc y.costB f : Int) ≤ left) then
      (s0.setJob j { y with model := 0xFFFF, breeze := true, cycles := y.costB, inClass := 1, outClass := 1 }).bump (0x4020 + y.carrier) 5
    else s0
  else if y.kind = 0x12 then s.encodeLate j
  else s

end Sys2Proof.Machine
end

