-- ==== Sys2Proof/Machine/Sched.lean ====
section
/-! DEFINITION. Shared operations of the scheduler: placement, the ready queue, slices, saves, the end of a job and the
disposal of what it holds (R31, R66 to R79, R174, R188 to R190, R265 to R279, R290, R393). -/

namespace Sys2Proof.Machine

open Sys2Proof

/-! ### Instants of different time bases (R35, R268) -/

/-- The image on TAI of a Tc count of time base n: air Tc less FRAME_OFFSET, within one AIRPOS period (R35). -/
def State.taiKey (s : State) (n tc : Nat) : Nat :=
  (((tc : Int) - asI64 (s.get (0x2000 + n * 16) 4)) % (airPeriod : Int)).toNat

/-- Whether instant a lies before instant b, both as `taiKey`. -/
def keyBefore (a b : Nat) : Bool := decide (0 < airDiff a b)

/-- TAI key of a job's deadline and release. -/
def State.deadlineKey (s : State) (y : Job) : Option Nat := y.deadline.map fun p => s.taiKey y.tb (s.tcOf y.tb p)
def State.releaseKey (s : State) (y : Job) : Nat := s.taiKey y.tb (s.tcOf y.tb y.release)

/-- Ready-queue order (R268, R272): priority, then deadline (none last), then release, then JOB_ID. -/
def State.jobBefore (s : State) (i j : Nat) : Bool :=
  let a := s.job i
  let b := s.job j
  if a.prio ≠ b.prio then decide (b.prio < a.prio)
  else
    let tail := if s.releaseKey a = s.releaseKey b then decide (i < j) else keyBefore (s.releaseKey a) (s.releaseKey b)
    match s.deadlineKey a, s.deadlineKey b with
    | some x, some y => if x = y then tail else keyBefore x y
    | some _, none => true
    | none, some _ => false
    | none, none => tail

/-- The first of a list under an order. -/
def firstBy {α : Type} (lt : α → α → Bool) : List α → Option α
  | [] => none
  | a :: r => match firstBy lt r with
    | none => some a
    | some b => if lt b a then some b else some a

/-! ### Usable cores and placement (R270, R271) -/

/-- The data windows reserved in a core's shared region: those of its contexts, resident and swapped out (R278). -/
def State.windowsOf (s : State) (n : Nat) : List (Nat × Nat) :=
  (((List.range 4).map fun k => (s.core n).ctx k).filter fun x => x.state != .free).map (fun x => (x.winBase, x.winLimit))
    ++ (s.swapped.filter fun w => w.core == n).map fun w => (w.ctx.winBase, w.ctx.winLimit)

/-- The lowest base at which a window of `size` bytes fits the shared region (log entry 11). Candidates are the start of
the region and the ends of the windows there. -/
def windowBase (ws : List (Nat × Nat)) (size : Nat) : Option Nat :=
  firstBy (fun a b => decide (a < b)) ((0x40000 :: ws.map fun w => w.2).filter fun b =>
    decide (b + size ≤ 0x200000) && ws.all fun w => decide (b + size ≤ w.1) || decide (w.2 ≤ b))

/-- Bytes of a job's data window, in whole 4 KB. -/
def windowBytes (y : Job) : Nat := (y.window * 1024 + 4095) / 4096 * 4096

/-- Groups another context owns. -/
def ownedGroups (c : Core) : Nat :=
  (List.range 4).foldl (fun m k => if (c.ctx k).state = .free then m else m ||| (c.ctx k).mgroup.toNat) 0

/-- Groups of the core for a job that needs `quarters` quarters: the lowest aligned run of quarters whose groups are
unfenced and owned by no other context (R117, R270). -/
def groupsFor (c : Core) (quarters : Nat) : Option Nat :=
  let own := ownedGroups c
  let gq := 4 / c.split
  ((List.range (4 / quarters)).map fun i =>
      (List.range c.split).foldl (fun m q =>
        if q * gq < (i + 1) * quarters ∧ i * quarters < (q + 1) * gq then m + 2 ^ q else m) 0).find? fun m =>
    (List.range c.split).all fun q => !m.testBit q || (!own.testBit q && !c.groupFenced q)

/-- After a served activation, a core that has not switched takes only jobs released before the Serve time (R451). -/
def State.runtimeFor (s : State) (n : Nat) (y : Job) : Bool :=
  match s.firm.activated with
  | some a => s.firm.switched.getLsbD n || decide ((s.clock : Int) + airDiff (s.tb y.tb).tc (s.tcOf y.tb y.release) < (a.2 : Int))
  | none => true

/-- Whether a core still holds contexts of another Court, which it completes first (R266). -/
def State.foreign (s : State) (n k : Nat) : Bool :=
  ((List.range 4).any fun i => ((s.core n).ctx i).state != .free && ((s.core n).ctx i).court != k)
    || s.swapped.any fun w => w.core == n && w.ctx.court != k

/-! ### Table banks (R167, R168) -/

/-- The banks of a core that no resident context's SF_BANK names and that are not being loaded. -/
def Core.freeBanks (c : Core) : List Nat :=
  [0, 1].filter fun b => c.sfHeld != some b && c.residents.all fun k => (c.ctx k).sfBank.toNat % 2 != b

/-- Bank b is cleared; its set stays with the runtime. -/
def Core.emptyBank (c : Core) (b : Nat) : Core :=
  { c with sfSets := c.sfSets.map fun x => if x.bank = some b then { x with bank := none } else x,
           microprograms := c.microprograms.filter fun e => e.1 / 256 != b }

/-- A set is written into bank b. -/
def Core.loadBank (c : Core) (b : Nat) (x : SfSet) : Core :=
  let c1 := c.emptyBank b
  { c1 with sfSets := (c1.sfSets.filter fun y => y.since != x.since) ++ [{ x with bank := some b }],
            microprograms := x.progs.foldl (fun t e => Tbl.set [] t (b * 256 + e.1) e.2) c1.microprograms }

/-- The set of an epoch: of those from which the epoch counts on, the newest. -/
def Core.setFor (c : Core) (epoch : Nat) : Option SfSet :=
  (c.sfSets.filter fun x => decide (x.since ≤ epoch)).foldl (fun m x =>
    match m with
    | none => some x
    | some y => if y.since ≤ x.since then some x else m) none

/-- The bank a context of an epoch evaluates with, and the core with it: the runtime writes the set again into a free bank where it is in none
(R167, R168; log entry 165). -/
def Core.takeBank (c : Core) (epoch : Nat) : Option (Nat × Core) :=
  match c.setFor epoch with
  | none => none
  | some x => match x.bank with
    | some b => some (b, c)
    | none => c.freeBanks.head?.map fun b => (b, c.loadBank b x)

/-- Whether a core is usable for a job (R270), with a table bank for its epoch; a TEST job also runs on a core in no Court (Table 12.3). -/
def State.usable (s : State) (n : Nat) (y : Job) : Bool :=
  let c := s.core n
  (s.coreInCourt y.court n || (y.kind == 0x31 && s.coreCourt n == 0xFF)) && !s.foreign n y.court && !c.fenced && !s.isFenced 2 n && s.get (0x8000 + n) 9 == 1 && !c.inTest && s.runtimeFor n y
    && (c.takeBank y.epoch).isSome && (groupsFor c y.groups).isSome && (windowBase (s.windowsOf n) (windowBytes y)).isSome

def Core.freeSlot (c : Core) : Option Nat := (List.range 4).find? fun k => (c.ctx k).state == .free

/-- The core rules 1 to 3 of R271 give a job; ADAPT and TEST by rule 1 only. -/
def State.placement (s : State) (y : Job) : Option Nat :=
  let us := (List.range 64).filter fun n => s.usable n y
  match us.find? fun n => (s.core n).residents == [] with
  | some n => some n
  | none =>
    if y.kind = 0x30 ∨ y.kind = 0x31 then none
    else match us.find? fun n => (s.core n).freeSlot.isSome
        && (s.core n).residents.all fun k => decide ((s.job ((s.core n).ctx k).job).prio < y.prio) with
      | some n => some n
      | none => us.find? fun n => (s.core n).freeSlot.isSome

/-! ### Running a context (R273) -/

/-- A register file of free values: what a job finds in registers the spec gives no value at its start (log entry 12). -/
def freeFile (w ctr count : Nat) : Tbl (BitVec w) :=
  (List.range count).foldl (fun t i => Tbl.set 0 t i ((Config.freeValue (ctr + i)).truncate w)) []

/-- A fresh context starts, and with it its job (R210): its first bundle will be at its entry; loops are inactive, flags and sticky flags clear. -/
def State.startCtx (s : State) (n k : Nat) : State :=
  let c := s.core n
  let x := c.ctx k
  let f := s.freeCtr
  let c1 : Core := { c with
    g := Tbl.erase (freeFile 32 f 32) 0, a := freeFile 48 (f + 32) 16, v := freeFile 1024 (f + 48) 32,
    p := freeFile 128 (f + 80) 8, vl := BitVec.ofNat 8 ((Config.freeValue (f + 88)).toNat % 129),
    lc := [], ls := [], le := [], flags := 0#8, sticky := 0#8, pc := BitVec.ofNat 48 x.entry, branched := false, bubble := 0,
    jobMode := true, cur := k, inflight := [], bundle := [], run := {}, held := false, heldCycles := 0, sliceStart := s.clock }
  let s1 := { s.setCore n (c1.setCtx k { x with state := .running }) with freeCtr := f + 89 }
  (s1.jobState x.job .running).startChecks x.job

/-- Whether the wait of a blocked context is satisfied by the present counts (R276). -/
def State.waitDone (s : State) (n k : Nat) (x : Ctx) : Bool :=
  match x.waitOn with
  | some (t, some target) => tallyReached (s.tally t).count target
  | some (t, none) => s.tacqReady n k x.job t
  | none => true

/-- Whether a context can run. -/
def State.runnable (s : State) (n k : Nat) : Bool :=
  let x := (s.core n).ctx k
  !x.fenced && (match x.state with
    | .ready | .stopped => true
    | .blocked => s.waitDone n k x
    | _ => false)

/-- Slots in the order of R273: from the slot after the one that ran last. -/
def slotOrder (last : Nat) : List Nat := (List.range 4).map fun i => (last + 1 + i) % 4

/-- The runnable context of highest priority; equal ones in slot order (R273). -/
def State.nextCtx (s : State) (n : Nat) : Option Nat :=
  let c := s.core n
  let prio := fun k => (s.job (c.ctx k).job).prio
  firstBy (fun a b => decide (prio b < prio a)) ((slotOrder c.cur).filter fun k => s.runnable n k)

/-- On a core where nothing runs, the chosen context starts if it is fresh; a stopped one waits for the runtime's RESUME. -/
def State.startNext (s : State) (n : Nat) : State :=
  let c := s.core n
  if c.jobMode ∨ c.fenced ∨ s.coresStopped then s
  else match s.nextCtx n with
    | some k => if (c.ctx k).state = .ready then s.startCtx n k else s
    | none => s

/-- A stop request reaches a core (R66); a request for a BUNDLE stop prevails over one for a TILE stop. A core that runs no
job takes it at its next job-mode bundle (R73). -/
def State.requestStop (s : State) (n : Nat) (tile : Bool) : State :=
  s.updCore n fun c => { c with stop := match c.stop with
    | some r => some { r with tile := r.tile && tile }
    | none => some { tile := tile } }

/-- The slack of a job is below BUNDLE_SLACK (R274): deadline less the sample less its declared cycles at FALLBACK_CLOCK. -/
def State.slackBelow (s : State) (j : Nat) : Bool :=
  let y := s.job j
  match y.deadline with
  | none => false
  | some p =>
    let f := (s.forOf y).get (0x4000 + y.carrier % 32) 8
    decide (airDiff (s.sample y.tb .slack j) (s.tcOf y.tb p) - (cyclesToTc y.cycles (max 1 f) : Nat)
      < (usToTc (s.get (0x3000 + y.court) 4) : Nat))

/-- A runnable context of higher priority pre-empts the running one (R273, R274). -/
def State.preempt (s : State) (n : Nat) : State :=
  let c := s.core n
  match s.nextCtx n with
  | some k =>
    let j := (c.ctx k).job
    if c.jobMode ∧ (s.job c.curCtx.job).prio < (s.job j).prio then (s.requestStop n (!s.slackBelow j)).noteSample (s.job j).tb .slack j else s
  | none => s

/-- Resident contexts of the stage that job j runs, by core and slot: at most one for each core, in ascending order (R193). -/
def State.chainMates (s : State) (j : Nat) : List (Nat × Nat) :=
  let y := s.job j
  (List.range 64).filterMap fun n =>
    ((List.range 4).find? fun k =>
      let x := (s.core n).ctx k
      let z := s.job x.job
      x.state != .free && z.order == y.order && z.kind == y.kind && z.model == y.model && z.sym == y.sym && z.occ == y.occ).map
      fun k => (n, k)

/-- Chain numbers in use. -/
def State.chainsUsed (s : State) : List Nat :=
  (List.range 64).flatMap fun n => (List.range 4).filterMap fun k =>
    let v := ((s.core n).ctx k).chain
    if v.getLsbD 15 then some (bits v.toNat 24 5) else none

/-- The control complex writes the CHAIN registers of the members of a stage whose weights come on a Pass chain (R193). -/
def State.linkChain (s : State) (j : Nat) : State :=
  if (Tbl.get {} s.lib (s.job j).model).chained = false then s
  else
    -- a core whose port passes tiles through for a job that is gone takes the new member's part (R195)
    let l := s.chainMates j
    let own := (l.map fun m => ((s.core m.1).ctx m.2).chain).find? fun v => v.getLsbD 15
    let no : Option Nat := match own with
      | some v => some (bits v.toNat 24 5)
      | none => (List.range 32).find? fun i => !s.chainsUsed.contains i
    match no with
    | some h => (l.zipIdx).foldl (fun (s : State) e => s.updCore e.1.1 fun c =>
        { c with chainPort := none }.setCtx e.1.2 { c.ctx e.1.2 with
          chain := BitVec.ofNat 32 (h * 2 ^ 24 + (if e.2 + 1 = l.length then 2 ^ 16 else 0) + 2 ^ 15 + e.2) })
        (if own.isSome then s else s.mapCores fun c => { c with chainPort := c.chainPort.filter fun v => bits v.toNat 24 5 != h })
    | none => s

/-- A job becomes a context of a core (R270, R271): slot, groups and windows are set. -/
def State.placeOn (s : State) (j n : Nat) : State :=
  let y := s.job j
  let t := ((s.core n).takeBank y.epoch).getD (0, s.core n)
  let c := t.2
  match c.freeSlot, groupsFor c y.groups, windowBase (s.windowsOf n) (windowBytes y) with
  | some k, some m, some w =>
    let base := n * Config.coreMemBytes
    let x : Ctx := { state := .ready, job := j, court := y.court, tb := y.tb, epoch := y.epoch, winBase := w,
                     winLimit := w + windowBytes y, codeBase := 0x40000, codeLimit := 0x200000, mgroup := BitVec.ofNat 32 m,
                     sfBank := BitVec.ofNat 32 t.1,
                     entry := base + 0x40000, waitStart := s.clock }
    let s1 := (s.setCore n (c.setCtx k x)).setJob j { y with state := .resident, core := n, slot := k }
    ((s1.linkChain j).startNext n).preempt n
  | _, _, _ => s

/-- The released job is placed, or waits in its Court's ready queue (R271). -/
def State.tryPlace (s : State) (j : Nat) : State :=
  let y := s.job j
  match s.placement y with
  | some n => s.placeOn j n
  | none => s.setJob j { y with state := .ready }

/-- The jobs in a Court's ready queue. -/
def State.readyJobs (s : State) (court : Nat) : List Nat :=
  (s.jobs.filter fun e => e.2.live && e.2.state == .ready && e.2.court == court && e.2.kind != 5 && e.2.kind != 0x11
    && e.2.kind != 6 && e.2.kind != 0x14).map fun e => e.1

/-- The head of a Court's ready queue is placed if it can be (R272). -/
def State.placeHead (s : State) (court : Nat) : State :=
  match firstBy s.jobBefore (s.readyJobs court) with
  | some j => if (s.placement (s.job j)).isSome then s.tryPlace j else s
  | none => s

/-! ### Saves (R68 to R74) -/

/-- A register file as one number: `count` registers of `size` bytes. -/
def packFile (size count : Nat) (f : Nat → Nat) : Nat :=
  (List.range count).foldl (fun acc i => acc + f i % 2 ^ (8 * size) * 2 ^ (8 * size * i)) 0

/-- The descriptor of an in-flight record (Table 3.7a). -/
def landWord (r : Land) (slot : Nat) : Nat :=
  r.dest % 256 + r.remain % 16 * 2 ^ 8 + r.kind % 16 * 2 ^ 12 + slot * 2 ^ 16 + r.sticky.toNat * 2 ^ 24

/-- Stores the in-flight records, each with its data record. -/
def State.storeLands (s : State) (a : Nat) : Nat → List Land → State
  | _, [] => s
  | i, r :: t =>
    ((s.store 32 (a + 0x300 + 32 * i) (landWord r i + r.mask.toNat * 2 ^ 64)).store 128
      (a + if i = 16 then 0x780 else 0x1800 + i * 0x80) r.value.toNat).storeLands a (i + 1) t

/-- Whether a pass of the group is attached to the context in slot k. -/
def attachedTo (k : Nat) (p : Option Pass) : Bool :=
  match p with
  | some p => p.slot == k && !p.detached
  | none => false

/-- The continuation record of the running context in a group: its attached passes, and the tile of the active bank once every band has swapped to
it (R120, R121). The words of a record are free values (log entry 13). -/
def takeRecord (c : Core) (g : Group) (words : List (BitVec 64)) : MCont :=
  let own := fun p => attachedTo c.cur (some p)
  let m : MCont := { current := g.current.filter own, queued := g.queued.filter own, draining := g.draining.filter own }
  if m = {} then {}
  else { m with words := words,
                bank := if m.current.isSome ∧ g.bandsSwapped = 0 then g.active.map fun b => (b.pass, b.tile) else none }

/-- The group without the passes that a record takes along: its active bank stays unless its bands were swapping, the shadow bank is not kept. -/
def Group.without (g : Group) (c : Core) (m : MCont) : Group :=
  let keep := fun p => !attachedTo c.cur (some p)
  let g1 := { g with current := g.current.filter keep, queued := g.queued.filter keep, draining := g.draining.filter keep }
  if m.current.isSome then { g1 with shadow := none, bandsSwapped := 0, active := if g.bandsSwapped = 0 then g.active else none } else g1

/-- The groups of a core and the continuation records of its running context, as its attached passes leave the groups (R120, R121). -/
def takeMatrix (c : Core) (f : Nat) : Tbl Group × Tbl MCont :=
  (List.range 4).foldl (fun acc q =>
    let g := Tbl.get {} acc.1 q
    let m := takeRecord c g ((List.range 16).map fun i => (Config.freeValue (f + 16 * q + i)).truncate 64)
    (Tbl.set {} acc.1 q (g.without c m), Tbl.set {} acc.2 q m)) (c.groups, [])

/-- Stores the rows of a group's passes as output-stage entries of the save area at a, from entry e on (Table 5.5). -/
def State.storeEntries (s : State) (a g q : Nat) : Nat → List (Pass × ARow) → State
  | _, [] => s
  | e, r :: t =>
    ((entryVals r.1 r.2).zipIdx.foldl (fun s v => match entryAddr r.1 a g q e v.2 with
      | some b => s.store 6 b (wrapTo 48 v.1)
      | none => s) s).storeEntries a g q (e + rowEntries r.1) t

/-- Stores the matrix state of a context (Table 5.5): output-stage entries, pass position records, and the active banks of its passes. What the
layout leaves unsaid holds free values (log entry 13). -/
def State.storeMatrix (s : State) (a : Nat) (gs : Tbl Group) (split : Nat) (mc : Tbl MCont) : State :=
  let s0 := { s.store 0x6000 (a + 0x2000) (packFile 128 192 fun i => (Config.freeValue (s.freeCtr + i)).toNat) with freeCtr := s.freeCtr + 192 }
  mc.foldl (fun (s : State) m =>
    let ps := m.2.draining ++ m.2.current.toList
    let s1 := s.storeEntries a split m.1 0 (ps.flatMap fun p => p.entryRows.map fun r => (p, r))
    let s2 := m.2.words.zipIdx.foldl (fun s w => s.store 8 (a + 0x5C00 + 128 * m.1 + 8 * w.2) w.1.toNat) s1
    match m.2.current, m.2.bank, (Tbl.get {} gs m.1).active with
    | some p, some _, some b =>
      b.bytes.zipIdx.foldl (fun s y => s.store 1 (bankAddr a m.1 split (folds p.desc split).b y.2) y.1.toNat) s2
    | _, _, _ => s2) s0

/-- The cycles of a pending branch bubble pass before the boundary of a stop (R63, R73). -/
def State.drainBubble (s : State) (n : Nat) : State :=
  (s.updCore n fun c => { c with bubble := 0 }).coreCycles n (s.core n).bubble

/-- The hardware save of the running context with the runtime's loop-state copy, and entry to the runtime (R68 to R74, R77). -/
def State.saveCtx (s0 : State) (n cause : Nat) : State :=
  let s := { s0 with freeCtr := s0.freeCtr + 64 }
  let c := s.core n
  let k := c.cur
  let x := c.curCtx
  let a := saveArea n k
  let mt := takeMatrix c s0.freeCtr
  let mv : Bool := cause != 1 && mt.2 != []
  let hdr := 1 + (4 + (if cause = 1 then 2 else 0) + (if mv then 1 else 0)) * 2 ^ 16 + c.inflight.length * 2 ^ 32 + k * 2 ^ 40
    + cause * 2 ^ 48 + x.tb % 256 * 2 ^ 56
  let s1 := s.store 0x2C a (hdr + c.pc.toNat * 2 ^ 64 + x.cycle.toNat * 2 ^ 128 + s.airNow x.tb * 2 ^ 192
    + c.vl.toNat * 2 ^ 256 + c.flags.toNat * 2 ^ 288 + c.sticky.toNat * 2 ^ 320)
  let s2 := s1.store 128 (a + 0x100) (packFile 4 32 fun i => (c.readG i).toNat)
  let s3 := s2.store 128 (a + 0x180) (packFile 8 16 fun i => (c.readA i).toNat)
  let s4 := s3.store 128 (a + 0x200) (packFile 16 8 fun i => (c.readP i).toNat)
  let s5 := s4.store 80 (a + 0x280) (packFile 4 4 (fun i => (c.readLc i).toNat)
    + packFile 8 4 (fun i => (c.readLs i).toNat) * 2 ^ 128 + packFile 8 4 (fun i => (c.readLe i).toNat) * 2 ^ 384)
  let s6 := s5.store 4096 (a + 0x800) (packFile 128 32 fun i => (c.readV i).toNat)
  let s7 := s6.storeLands a 0 (c.inflight.take 17)
  let s8 := if mv then s7.storeMatrix a c.groups c.split mt.2 else s7
  let x' : Ctx := { x with state := if cause = 3 then .blocked else .stopped, mcont := mt.2,
                           evtCause := BitVec.ofNat 32 cause, evtPc := c.pc, evtInfo := s8.free.truncate 32,
                           waitStart := if cause = 3 then x.waitStart else s.clock }
  let c' := { c.setCtx k x' with groups := mt.1, jobMode := false, inflight := [], bundle := [], run := {}, held := false,
                                 heldCycles := 0, stop := none, branched := false, bubble := 0, pc := runtimeEntry n s8.free }
  let s9 := (s8.bumpFree.setCore n c').traceJob n 4 (x.job + cause * 2 ^ 32 + c.pc.toNat * 2 ^ 64)
  let s10 := { s9 with tallies := Tbl.mapV {} s9.tallies fun y => y.leave n k }
  s10.jobState x.job (if cause = 3 then .blocked else .resident)

/-! ### What a job gives back (R174, R290, R393) -/

/-- The free queue of a pool (Table 8.6). -/
def State.freeQueueKey (s : State) (p : Nat) : Nat := queueKey (s.pool p).court (s.pool p).freeQueue

/-- A handle goes back to its pool's free queue. -/
def State.returnHandle (s : State) (p h : Nat) : State := s.putHandle (s.freeQueueKey p) h 0

/-- Handles a job holds, as keys of `heldBy`, in ascending order. -/
def State.handlesOf (s : State) (j : Nat) : List Nat := (s.heldBy.filter fun e => e.2 == j).map fun e => e.1

/-- Every handle a job holds returns to its pool's free queue, in ascending order (R174). -/
def State.returnHandles (s : State) (j : Nat) : State :=
  if j = 0 then s else (s.handlesOf j).foldl (fun s e => s.returnHandle (e / 1024) (e % 1024)) s

/-- Every Tally a job holds is released with ABANDONED set; ABANDONS counts each (R290). -/
def State.abandonTallies (s : State) (j : Nat) : State :=
  if j = 0 then s
  else
    let k := (s.tallies.filter fun e => e.2.holder == j).length
    { s with tallies := Tbl.mapV {} s.tallies fun y =>
      if y.holder = j then { y with holder := 0, abandoned := true } else y }.bumpBy 0x3340 1 k

/-- A context slot freed: its records, bindings and engines are gone (R87, R160); credits of lines that are still outstanding return. The chain port
of a member goes on forwarding what it holds and passes tiles through (R194, R195). -/
def State.freeCtx (s : State) (n k : Nat) : State :=
  let x := (s.core n).ctx k
  let ports := x.engines.flatMap fun e => e.2.outstanding
  { s.updCore n fun c => { c.setCtx k {} with idleSince := s.clock, chainPort := if x.chain.getLsbD 15 then some x.chain else c.chainPort } with credits := ports.foldl (fun t p => Tbl.upd 0 t p fun c => c - 1) s.credits }

/-- The completion event of a job (R31): its time base is sampled and its deadline judged. A late uplink stage counts in
EQ_LATE, a late UL_DETECT in LATE_SYM of its order (R201); each late job counts once in LATE of its Court (R279). -/
def State.judge (s : State) (j : Nat) : State :=
  let y := s.job j
  if y.done then s
  else
    let late : Bool := match y.deadline with
      | some p => decide (airDiff (s.sample y.tb .completion j) (s.tcOf y.tb p) < 0)
      | none => false
    let s1 := (s.setJob j { y with done := true, doneAt := s.sample y.tb .completion j % airPeriod, lateCounted := late || y.lateCounted }).noteSample y.tb .completion j
    let s2 := if late ∧ 1 ≤ y.kind ∧ y.kind ≤ 4 then s1.bump (0x4020 + y.carrier) 0x0B else s1
    let s3 := if late ∧ y.kind = 4 then
        { s2 with orders := Tbl.upd {} s2.orders y.order fun o =>
            if o.live then { o with symbols := o.symbols ||| BitVec.ofNat 14 (2 ^ y.sym) } else o }
      else s2
    if late ∧ y.lateCounted = false then (s3.bump (0x3020 + y.court) 5).lateEvent y.court else s3

/-- A job ends (R279): its completion is judged if it was not, and COMPLETED counts it. -/
def State.completeJob (s : State) (j : Nat) : State :=
  let y := s.job j
  if y.live && y.state != .fenced && y.state != .completed then
    let s1 := s.judge j
    (s1.setJob j { s1.job j with state := .completed, core := 0xFF }).bump (0x3020 + y.court) 2
  else s

/-- The groups of a core without the passes of the context in slot k, whatever their state (R87, R393). -/
def dropPasses (c : Core) (k : Nat) (detachedToo : Bool) : Core :=
  let keep := fun (p : Pass) => !(p.slot == k && (detachedToo || !p.detached))
  { c with groups := Tbl.mapV {} c.groups fun g =>
      { g with current := g.current.filter keep, queued := g.queued.filter keep, draining := g.draining.filter keep } }

end Sys2Proof.Machine
end

