-- ==== Sys2Proof/Machine/CoreEvents.lean ====
section
/-! DEFINITION. The meaning of every event of a core and of its matrix array (chapters "The Lorgus Core: Programming Model"
and "Matrix Array"). An event whose condition does not hold leaves the state as it is. -/

namespace Sys2Proof.Machine

open Sys2Proof

/-- RESULT_LANDING: one core cycle in which nothing issues; due results land (R60). While a cut is taken, issued results land (R402). -/
def execResultLanding (core : Fin 64) (s : State) : Answer :=
  .next (if s.coresStopped ∧ (s.get 0x5300 5 ≠ 2 ∨ (s.core core).inflight = []) then s else s.coreCycle core)

/-- HOLD_RELEASE: a held bundle is evaluated again; it issues, or is held for one more cycle (R62). -/
def execHoldRelease (core : Fin 64) (s : State) : Answer :=
  .next (if (s.core core).held ∧ s.coresStopped = false then s.issueBundle core else s)

/-! ### Stops (R66 to R74) -/

/-- STOP_REQUEST: a TILE or BUNDLE stop request reaches the core (R66). -/
def execStopRequest (core : Fin 64) (tile : Bool) (s : State) : Answer := .next (s.requestStop core tile)

/-- TILE_STOP_TIMEOUT: a TILE stop older than 1,100 cycles becomes a BUNDLE stop (R66). -/
def execTileStopTimeout (core : Fin 64) (s : State) : Answer :=
  if s.coresStopped then .next s else
  match (s.core core).stop with
  | some r =>
    .next (if r.tile ∧ 1100 ≤ r.cycles then s.updCore core fun c => { c with stop := some { r with tile := false } } else s)
  | none => .next s

/-- Whether a group stands at a tile boundary for the running context: no attached pass has an entry in use (R104). -/
def groupAtBoundary (c : Core) (g : Group) : Bool :=
  (!attachedTo c.cur g.current || g.atBoundary) && !(g.draining.any fun p => attachedTo c.cur (some p))

/-- A stop is taken: a pending branch bubble passes, then the save, and PREEMPTED of the Court. A fault of the bubble's cycles is taken in its place
(R68, R73, R279). -/
def State.takeStop (s0 : State) (n cause : Nat) : State :=
  let s := s0.drainBubble n
  if (s.core n).jobMode = false then s
  else (((s.countCore n (if cause = 1 then 0x40 else 0x41) 1).saveCtx n cause).bump (0x3020 + (s.core n).curCtx.court) 3).startNext n

/-- STOP_TILE: taken when no attached pass holds an entry, while EXCL is 0 (R66, R67, R71). -/
def execStopTile (core : Fin 64) (s : State) : Answer :=
  if s.coresStopped then .next s else
  let c := s.core core
  match c.stop with
  | some r =>
    .next (if r.tile ∧ c.jobMode ∧ c.curCtx.state = .running ∧ c.curCtx.excl = 0#32
        ∧ (List.range 4).all (fun q => groupAtBoundary c (c.group q)) = true then s.takeStop core 1 else s)
  | none => .next s

/-- STOP_BUNDLE: taken at the bundle boundary, while EXCL is 0 (R66, R67, R71). -/
def execStopBundle (core : Fin 64) (s : State) : Answer :=
  if s.coresStopped then .next s else
  let c := s.core core
  match c.stop with
  | some r =>
    .next (if r.tile = false ∧ c.jobMode ∧ c.curCtx.state = .running ∧ c.curCtx.excl = 0#32 then s.takeStop core 2 else s)
  | none => .next s

/-- The Tally wait of the held bundle: TWAIT with its target, or TACQ. -/
def State.heldWait (s : State) (n : Nat) : Option (Nat × Option (BitVec 32)) :=
  (s.core n).bundle.findSome? fun y =>
    let x : SylArg := { n := n, slot := y.slot, body := y.body }
    if ¬ sylHolds s n y then none
    else match y.op with
      | .twait => some (tallyNo s x, some (srcB s x))
      | .tacq => some (tallyNo s x, none)
      | _ => none

/-- BLOCKED: a Tally wait that has held its bundle for 64 cycles saves the context (R90). -/
def execBlocked (core : Fin 64) (s : State) : Answer :=
  if s.coresStopped then .next s else
  let c := s.core core
  match s.heldWait core with
  | some w =>
    .next (if c.held ∧ 64 ≤ c.heldCycles ∧ c.jobMode then
        (((s.countCore core 0x42 1).saveCtx core 3).updCore core fun d => d.setCtx c.cur { d.ctx c.cur with waitOn := some w }).startNext core
      else s)
  | none => .next s

/-! ### The end of a job (R87) -/

/-- Whether any pass of the context in slot k is unfinished: rows to come, or a STORE not drained. -/
def passesOpen (c : Core) (k : Nat) : Bool :=
  (List.range 4).any fun q =>
    let g := c.group q
    (g.draining ++ g.current.toList ++ g.queued.toList).any fun p =>
      p.slot == k && (decide (p.produced < p.total) || dOutMode p.desc == 1)

/-- JOB_END: once results have landed and passes are delivered, the job is complete; its rows are discarded, its handles
return, its Tallies are left abandoned, its slot is free. The runtime finds cause 0x04 and the address of the END bundle (R75, R87, R174, R290). -/
def execJobEnd (core : Fin 64) (s : State) : Answer :=
  if s.coresStopped then .next s else
  let c := s.core core
  let k := c.cur
  let x := c.curCtx
  .next (if c.jobMode ∧ x.state = .ending ∧ c.inflight = [] ∧ passesOpen c k = false then
      let s1 := s.traceJob core 3 (x.job + x.cycle.toNat * 2 ^ 32)
      let s2 := (s1.returnHandles x.job).abandonTallies x.job
      let s3 := s2.updCore core fun d =>
        { (dropPasses d k true) with jobMode := false, stop := none, run := {}, pc := runtimeEntry core s2.free }
      let s4 := (s3.bumpFree.freeCtx core k).updCore core fun d => d.updCur fun y =>
        { y with evtCause := 4#32, evtPc := c.pc, evtInfo := s3.bumpFree.free.truncate 32 }
      (s4.bumpFree.completeJob x.job).startNext core
    else s)

/-! ### Core fences (R75, R391, R395) -/

/-- CORE_FENCE: a core fenced from outside abandons every resident context (R75). -/
def execCoreFence (core : Fin 64) (cause : BitVec 8) (info : BitVec 32) (s : State) : Answer :=
  .next (s.fenceCore core cause.toNat info.toNat)

/-! ### Passes (R95, R102 to R109, R112 to R116) -/

def State.updGroup (s : State) (n q : Nat) (f : Group → Group) : State := s.updCore n fun c => c.setGroup q (f (c.group q))

/-- The group without its passes and rows (R122). -/
def Group.abandon (g : Group) : Group := { g with current := none, queued := none, draining := [], atBoundary := false }

/-- The passes of a group meet a fault as a row enters: they are abandoned, and the job that issued the pass is fenced (R102, R112). -/
def State.abandonFault (s : State) (n q : Nat) (p : Pass) (cause info : Nat) : State :=
  (s.updGroup n q Group.abandon).faultCtx n p.slot cause info

/-- Whether every band of the active bank holds the tile of the fold of a pass (R107). -/
def Group.foldActive (g : Group) (p : Pass) (split : Nat) : Bool :=
  decide (p.fold < foldCount p split) && (!usesTile p || (g.bandsSwapped == 0 && match g.active with
    | some b => b.pass == p.id && b.tile == foldTile p split && b.slot == p.slot
    | none => false))

/-- What comes of letting rows of a fold enter the array: they wait at band 0, a fault, or the pass after it. -/
inductive Entry where
  | waits
  | fault (cause info : Nat)
  | pass (p : Pass)
  deriving DecidableEq, Repr

/-- Whether a range lies in the data window of context k. -/
def inCtxWindow (c : Core) (n k : Nat) (a len : Nat) : Bool :=
  let off := a - n * Config.coreMemBytes
  inOwnMemory n a len && decide ((c.ctx k).winBase ≤ off) && decide (off + len ≤ (c.ctx k).winLimit)

/-- The next k rows of the last depth fold leave it. -/
def enterRows (s : State) (tile : List Byte) (g : Nat) : Nat → Pass → Pass
  | 0, p => p
  | k + 1, p =>
    let r := lastRow s p tile g (p.produced + p.formed.length)
    enterRows s tile g k { p with part := p.part.drop 1, formed := p.formed ++ [r] }

/-- The activation rows that the next k rows of the last depth fold are made from. -/
def enterNos (p : Pass) (g k : Nat) : List Nat :=
  if p.backward then (if dBwd p.desc = 0 then (List.range k).map fun i => (tileTaken p g + i) / 8 else List.range p.rows)
  else (List.range k).map fun i => (foldPlace p g).r0 + tileTaken p g + i

/-- Bytes of the active bank. -/
def Group.activeBytes (g : Group) : List Byte := (g.active.map fun b => b.bytes).getD []

/-- k more rows of the last depth fold enter the array. A pass of one depth fold takes an entry for each row as it enters; otherwise the first depth
fold has taken them (R102, R112, R113). -/
def Core.enterLast (s : State) (n : Nat) (c : Core) (g : Group) (p : Pass) (k : Nat) : Entry :=
  let f := folds p.desc c.split
  let i := (foldPlace p c.split).i
  if g.foldActive p c.split = false ∨ i + 1 ≠ f.kf then .waits
  else if f.kf = 1 ∧ g.entriesFree p k = false then .waits
  else match enterFaults s (inCtxWindow c n p.slot) p i (enterNos p c.split k) with
    | some e => .fault e.1 e.2
    | none =>
      let p1 := enterRows s g.activeBytes c.split k p
      .pass (if tileRows p c.split ≤ tileTaken p1 c.split then { p1 with fold := p1.fold + 1, part := [] } else p1)

/-- The rest of the fold in the array passes (R103, R107): of the last depth fold, the rows of the tile that have not entered; of an earlier one,
all rows of the block, whose partial sums the entries hold. -/
def Core.enterFold (s : State) (n : Nat) (c : Core) (g : Group) (p : Pass) : Entry :=
  let f := folds p.desc c.split
  let a := foldPlace p c.split
  if a.i + 1 = f.kf then Core.enterLast s n c g p (tileRows p c.split - tileTaken p c.split)
  else if g.foldActive p c.split = false ∨ (a.i = 0 ∧ g.entriesFree p a.hb = false) then .waits
  else match enterFaults s (inCtxWindow c n p.slot) p a.i ((List.range a.hb).map fun r => a.r0 + r) with
    | some e => .fault e.1 e.2
    | none =>
      let rows := (List.range a.hb).map fun r => foldRow s p g.activeBytes f (a.r0 + r) a.j a.i ((p.part[r]?).getD ⟨[], 0#8⟩)
      .pass { p with fold := p.fold + 1, part := rows }

/-- PASS_BEGIN: the queued pass begins once the pass in progress has issued its last activation row. A STORE pass in progress must have drained
(R114); a QUEUE pass goes on delivering its rows ahead of the new pass (R95, R107). -/
def execPassBegin (core : Fin 64) (group : Fin 4) (s : State) : Answer :=
  if s.coresStopped then .next s else
  let c := s.core core
  let g := c.group group
  let start := fun (s : State) (o : List Pass) (p : Pass) =>
    (s.updGroup core group fun g => { g with current := none, queued := none, draining := g.draining ++ o }).beginPass core group p
  match g.queued, g.current with
  | some p, none => .next (if g.scrub then s else start s [] p)
  | some p, some o =>
    .next (if g.scrub ∨ dOutMode o.desc = 1 then s
      else if foldCount o c.split ≤ o.fold then start s [o] p
      else if o.fold + 1 < foldCount o c.split then s
      else match Core.enterFold s core c g o with
        | .waits => s
        | .fault e i => s.abandonFault core group o e i
        | .pass o' => start s [o'] p)
  | none, _ => .next s

/-- A tile that the shadow bank of a group may fill with: its pass, slot and number, its address and bytes, and whether it comes on the chain and has
arrived. -/
structure Fill where
  pass : Nat
  slot : Nat
  tile : Nat
  addr : Nat
  len : Nat
  chain : Bool
  here : Bool
  deriving DecidableEq, Repr

/-- The fill of the tile of a pass's fold. -/
def fillOf (split : Nat) (p : Pass) : Fill :=
  let t := foldTile p split
  let b := (folds p.desc split).b
  ⟨p.id, p.slot, t, tileAddr p b t, b, p.chain, !p.chain || decide (t < p.arrived)⟩

/-- The fill of tile 0 of the pass that a context sets up on group q by MWLD or MWPASS (R107). -/
def setupFill (split q k : Nat) (x : NextPass) : Option Fill :=
  match x.tile with
  | some d =>
    if x.id ≠ 0 ∧ dGroup d = q then
      some ⟨x.id, k, 0, x.weights.getD (dWaddr d), (folds d split).b, x.chain, !x.chain || decide (0 < x.arrived)⟩
    else none
  | none => none

/-- The tile that the shadow bank of group q fills with (R106, R107): of the fold that waits for its tile; behind it of the next fold; behind the last
fold of the pass in progress of the queued pass, or of the pass that is being set up. -/
def Core.nextFill (c : Core) (q : Nat) : Option Fill :=
  let g := c.group q
  let after := match g.queued with
    | some p => if usesTile p then some (fillOf c.split p) else none
    | none => (List.range 4).findSome? fun k => if (c.ctx k).state = .free then none else setupFill c.split q k (c.ctx k).next
  if g.scrub then none
  else match g.current with
    | none => after
    | some p =>
      if foldCount p c.split ≤ p.fold then after
      else if g.foldActive p c.split = false then some (fillOf c.split p)
      else
        let p1 := { p with fold := p.fold + 1 }
        if foldCount p c.split ≤ p1.fold then after
        else if foldTile p1 c.split = foldTile p c.split then none
        else some (fillOf c.split p1)

/-- A line that a fill reads becomes the most recently used of the tile cache (R108). -/
def cacheLines (lines cache : List Nat) : List Nat := (lines ++ cache.filter fun l => !lines.contains l).take 8

/-- TILE_FILL_DONE: the shadow bank holds the tile that is next for the group, from the tile cache, core memory or the chain; no band still swaps to
the tile before. Bit i of `parity` tells that line i of the tile fails its check in the cache: it is invalidated and counted, and the fill reads core
memory (R106, R108). -/
def execTileFillDone (core : Fin 64) (group : Fin 4) (tile : BitVec 16) (parity : BitVec 2) (s : State) : Answer :=
  if s.coresStopped then .next s else
  let c := s.core core
  let g := c.group group
  match c.nextFill group with
  | some f =>
    let lines := (List.range ((f.len + 4095) / 4096)).map fun i => (f.addr / 4096 + i) * 4096
    let bad := (lines.zipIdx.filter fun l => parity.getLsbD l.2 && c.tileCache.contains l.1).map fun l => l.1
    let cache := c.tileCache.filter fun l => !bad.contains l
    let hit := (lines.filter fun l => cache.contains l).length
    let full : Bool := match g.shadow with
      | some b => b.pass == f.pass && b.tile == f.tile
      | none => false
    .next (if f.tile ≠ tile.toNat ∨ g.bandsSwapped ≠ 0 ∨ full ∨ f.here = false then s
      else
        let s1 := if f.chain then s else (s.countCore core 0x12 hit).countCore core 0x13 (lines.length - hit)
        (s1.bumpBy (0x8000 + core.val) 7 bad.length).updCore core fun c =>
          { c.setGroup group { g with shadow := some ⟨f.pass, f.tile, f.slot, memBytes s.mem f.len f.addr⟩ } with
            tileCache := cacheLines lines cache })
  | none => .next s

/-- BAND_SWAP: one more band computes on the shadow bank, once the last row of the fold in the array has passed it; after the eighth the banks have
changed places (R107). -/
def execBandSwap (core : Fin 64) (group : Fin 4) (s : State) : Answer :=
  if s.coresStopped then .next s else
  let c := s.core core
  let g := c.group group
  let swap := fun (g : Group) (b : Bank) =>
    if g.bandsSwapped = 7 then { g with bandsSwapped := 0, active := some b, shadow := none }
    else { g with bandsSwapped := g.bandsSwapped + 1 }
  match g.shadow, c.nextFill group with
  | some b, some f =>
    .next (if b.pass ≠ f.pass ∨ b.tile ≠ f.tile then s
      else match g.current with
        | some p =>
          if g.bandsSwapped ≠ 0 ∨ g.foldActive p c.split = false then s.updGroup core group fun g => swap g b
          else (match Core.enterFold s core c g p with
            | .waits => s
            | .fault e i => s.abandonFault core group p e i
            | .pass p' => s.updGroup core group fun g => swap { g with current := some p', atBoundary := false } b)
        | none => s.updGroup core group fun g => swap g b)
  | _, _ => .next s

/-- The pass of a group that delivers the next row: the earliest with rows to come. -/
def Group.producer (g : Group) : Option Pass :=
  (g.draining ++ g.current.toList).find? fun p => decide (p.produced < p.total)

/-- The group with the producer replaced. -/
def Group.putProducer (g : Group) (p : Pass) : Group :=
  match g.draining.findIdx? fun q => decide (q.produced < q.total) with
  | some i => { g with draining := g.draining.set i p }
  | none => { g with current := some p }

/-- Sticky bits of a context: at once if it runs, otherwise when it next runs (R115). -/
def State.ctxSticky (s : State) (n k : Nat) (b : Byte) : State :=
  if b = 0#8 then s
  else s.updCore n fun c =>
    if c.jobMode ∧ c.cur = k then { c with sticky := c.sticky ||| b }
    else c.setCtx k { c.ctx k with pendSticky := (c.ctx k).pendSticky ||| b }

/-- The magnitude of an accumulator: of its larger part, of a floating-point value without the sign; NaN counts nothing (R116, R148). -/
def accMag (float : Bool) (o : Int × Int) : Nat :=
  if float then (let v := o.1.toNat % 2 ^ 31; if 0x7F800000 < v then 0 else v) else max o.1.natAbs o.2.natAbs % 2 ^ 48

/-- Statistics of a row of a STATS pass: each physical column's and the pass's largest magnitude (R116; log entry 8). -/
def rowStats (p : Pass) (split : Nat) (x : Ctx) (row : ARow) : Ctx :=
  let fl := (modeRow (dMode p.desc)).float
  let per := if p.backward then 1 else (folds p.desc split).w / (16 / split)
  let base := if p.backward then 0 else dGroup p.desc * (16 / split)
  let col := row.cols.zipIdx.foldl (fun (t : Tbl (BitVec 64)) o =>
    let i := (base + o.2 / per) % 16
    Tbl.set 0#64 t i (BitVec.ofNat 64 (max (Tbl.get 0#64 t i).toNat (accMag fl o.1)))) x.mstat
  { x with mstat := col, mstatp := BitVec.ofNat 64 (row.cols.foldl (fun m o => max m (accMag fl o)) x.mstatp.toNat) }

/-- A pass delivered its last row: MDONE counts a QUEUE pass, and its rows wait to be read (Table 5.4). -/
def Group.finish (g : Group) : Group :=
  match g.current with
  | some p =>
    if p.produced = p.total ∧ dOutMode p.desc = 0 then
      { g with current := none, draining := if p.queue = [] then g.draining else g.draining ++ [p] }
    else g
  | none => g

/-- The next rows of a pass that become ready together move into the output queue (R105). -/
def Pass.ready (p : Pass) (k : Nat) : Pass := { p with produced := p.produced + k, queue := p.queue ++ p.formed.take k, formed := p.formed.drop k }

/-- OUTPUT_ROW_READY: the next row of the group's earliest unfinished pass is ready and queued: a row that has left the array, or the next one to
enter it on the active bank. It waits for the tile of its last depth fold and for a free entry; ADDR for a read outside the data window, STREAM for a
tag mismatch (R102, R105, R107, R112, R113, R116). -/
def execOutputRowReady (core : Fin 64) (group : Fin 4) (s : State) : Answer :=
  if s.coresStopped then .next s else
  let c := s.core core
  let g := c.group group
  match g.producer with
  | some p =>
    let k := packLen p c.split p.produced
    match if k ≤ p.formed.length then .pass p else Core.enterLast s core c g p (k - p.formed.length) with
    | .waits => .next s
    | .fault e i => .next (s.abandonFault core group p e i)
    | .pass p1 =>
      let rows := p1.formed.take k
      let p' := p1.ready k
      let s1 := s.updGroup core group fun g => ({ g.putProducer p' with atBoundary := false }).finish
      let s2 := if dStats p.desc then s1.updCore core fun c => c.setCtx p.slot (rows.foldl (rowStats p c.split) (c.ctx p.slot)) else s1
      let s3 := if p'.produced = p'.total ∧ dOutMode p.desc = 0 then
          (s2.countCore core 0x11 1).updCore core fun c => c.setCtx p.slot { c.ctx p.slot with mdone := countDone (c.ctx p.slot).mdone group }
        else s2
      .next (s3.ctxSticky core p.slot (rows.foldl (fun a r => a ||| r.st) 0#8))
  | none => .next s

/-- TILE_BOUNDARY: the last row of a tile has been emitted and read (R104). -/
def execTileBoundary (core : Fin 64) (group : Fin 4) (s : State) : Answer :=
  if s.coresStopped then .next s else
  let c := s.core core
  let g := c.group group
  match g.current with
  | some p =>
    let q := arowPlace p c.split p.produced
    .next (if dOutMode p.desc = 0 ∧ 0 < p.produced ∧ p.entryRows = [] ∧ g.draining = [] ∧ q.2.2.2 = 0 then
        s.updGroup core group fun g => { g with atBoundary := true } else s)
  | none => .next s

/-- Address of output i of row u of a STORE pass (R114, Table 5.7). -/
def storeAddr (p : Pass) (split u i : Nat) : Nat :=
  let z := outSize (dOutFmt p.desc) (modeRow (dMode p.desc)).complex
  let q := arowPlace p split u
  if p.backward then
    (if dBwd p.desc = 0 then dOutAddr p.desc + u / 8 * dOutStride p.desc + (u % 8 * 16 + i) * z
     else dOutAddr p.desc + u * dOutStride p.desc + i * z)
  else dOutAddr p.desc + (q.1 + q.2.2.2) * dOutStride p.desc + (q.2.2.1 * (folds p.desc split).w + i) * z

/-- The stores of a drained pass: address, encoding, sticky bits. -/
def storeList (p : Pass) (split : Nat) : List (Nat × Nat × Byte) :=
  (p.queue.zipIdx).flatMap fun e => (e.1.cols.zipIdx).map fun o => (storeAddr p split e.2 o.2, deliver p o.1)

/-- A fault of a group: its passes are abandoned, the banks and tile cache cleared, the quarters' faults noted, the issuing
job fenced; a quarter with three faults within 1 s of TB0 is fenced, a core with four fenced quarters too (R122, R123). -/
def State.groupFault (s : State) (n q mask : Nat) : State :=
  let g := (s.core n).group q
  let now := (s.tb 0).tc
  let s1 := s.updCore n fun c => { c.setGroup q { g.abandon with scrub := true, active := none, shadow := none, bandsSwapped := 0 } with
    tileCache := [],
    quarterFaults := (List.range 4).foldl (fun t u =>
      if mask.testBit u then Tbl.upd [] t u fun l => now :: l.filter fun x => decide (airDiff x now < 1966080000) else t)
      c.quarterFaults }
  let s2 := match (g.current <|> g.draining.head? <|> g.queued) with
    | some p => s1.faultCtx n p.slot evMATRIX (0x10000 + mask)
    | none => s1
  let bad := (List.range 4).filter fun u => mask.testBit u && decide (3 ≤ (Tbl.get [] (s2.core n).quarterFaults u).length)
    && !(s2.core n).quarterFenced.getLsbD u
  let s3 := bad.foldl (fun s u => (s.updCore n fun c => { c with quarterFenced := c.quarterFenced ||| BitVec.ofNat 4 (2 ^ u) }).fenceObject
    1 (n + 2 ^ (8 + u)) evMATRIX (0x10000 + mask) (s.coreCourt n)) s2
  if (s3.core n).quarterFenced = 15#4 then s3.fenceCore n evMATRIX (0x10000 + mask) else s3

/-- STORE_DRAIN: the staged outputs are checked, rescaled and written, and MDONE advances; a failed check abandons the pass
before anything is written (R114, R115). -/
def execStoreDrain (core : Fin 64) (group : Fin 4) (eccFault : Bool) (s : State) : Answer :=
  if s.coresStopped then .next s else
  let c := s.core core
  let g := c.group group
  match g.current with
  | some p =>
    let l := storeList p c.split
    let z := outSize (dOutFmt p.desc) (modeRow (dMode p.desc)).complex
    if dOutMode p.desc ≠ 1 ∨ p.produced ≠ p.total then .next s
    else if eccFault then .next (s.groupFault core group (groupMask c.split group))
    else if l.all (fun e => inCtxWindow c core p.slot e.1 z) = false then
      .next ((s.updGroup core group Group.abandon).faultCtx core p.slot evADDR (dOutAddr p.desc % Config.coreMemBytes))
    else
      let s1 := l.foldl (fun s e => (s.store z e.1 e.2.1).dropCached e.1 z) s
      let s2 := s1.updCore core fun c => { c.setGroup group { c.group group with current := none } with
        ctxs := Tbl.upd {} c.ctxs p.slot fun x => { x with mdone := countDone x.mdone group } }
      .next ((s2.countCore core 0x11 1).ctxSticky core p.slot (l.foldl (fun a e => a ||| e.2.2) 0#8))
  | none => .next s

/-- SPLIT_TAKES_EFFECT: in the first cycle with no pass in progress, queued or suspended (R117). -/
def execSplitTakesEffect (core : Fin 64) (s : State) : Answer :=
  if s.coresStopped then .next s else
  let c := s.core core
  match c.splitPending with
  | some g =>
    let busy := (List.range 4).any fun q =>
      ((c.group q).current).isSome || ((c.group q).queued).isSome || (c.group q).draining != []
        || (List.range 4).any fun k => (Tbl.get {} (c.ctx k).mcont q).current.isSome || (Tbl.get {} (c.ctx k).mcont q).queued.isSome
    .next (if busy then s else s.updCore core fun c => { c with split := g, splitPending := none })
  | none => .next s

/-- GROUP_FAULT: a residue, parity or entry error in the named quarters of a group (R122). -/
def execGroupFault (core : Fin 64) (group : Fin 4) (quarters : BitVec 4) (s : State) : Answer :=
  .next (s.groupFault core group (quarters.toNat &&& groupMask (s.core core).split group))

/-- GROUP_SCRUB_END: the group accepts passes again, and a queued pass begins (R123). -/
def execGroupScrubEnd (core : Fin 64) (group : Fin 4) (s : State) : Answer :=
  let g := (s.core core).group group
  .next (if g.scrub then
      let s1 := s.updGroup core group fun g => { g with scrub := false }
      match g.current, g.queued with
      | none, some p => (s1.updGroup core group fun g => { g with queued := none }).beginPass core group p
      | _, _ => s1
    else s)

end Sys2Proof.Machine
end

