-- ==== Sys2Proof/Machine/Digest.lean ====
section
/-! DEFINITION. SHA-256, which CONFIG_DIGEST, the slot headers and the measurements use (R350, R436, R455), and the CRC-32 of IEEE 802.3 (R295).
Both are the named standards' functions (log entry 19). -/

namespace Sys2Proof.Machine

open Sys2Proof

/-- The round constants of SHA-256 (FIPS 180-4). -/
def shaK : List (BitVec 32) := [
  0x428a2f98#32, 0x71374491#32, 0xb5c0fbcf#32, 0xe9b5dba5#32, 0x3956c25b#32, 0x59f111f1#32, 0x923f82a4#32, 0xab1c5ed5#32,
  0xd807aa98#32, 0x12835b01#32, 0x243185be#32, 0x550c7dc3#32, 0x72be5d74#32, 0x80deb1fe#32, 0x9bdc06a7#32, 0xc19bf174#32]
  ++ [
  0xe49b69c1#32, 0xefbe4786#32, 0x0fc19dc6#32, 0x240ca1cc#32, 0x2de92c6f#32, 0x4a7484aa#32, 0x5cb0a9dc#32, 0x76f988da#32,
  0x983e5152#32, 0xa831c66d#32, 0xb00327c8#32, 0xbf597fc7#32, 0xc6e00bf3#32, 0xd5a79147#32, 0x06ca6351#32, 0x14292967#32]
  ++ [
  0x27b70a85#32, 0x2e1b2138#32, 0x4d2c6dfc#32, 0x53380d13#32, 0x650a7354#32, 0x766a0abb#32, 0x81c2c92e#32, 0x92722c85#32,
  0xa2bfe8a1#32, 0xa81a664b#32, 0xc24b8b70#32, 0xc76c51a3#32, 0xd192e819#32, 0xd6990624#32, 0xf40e3585#32, 0x106aa070#32]
  ++ [
  0x19a4c116#32, 0x1e376c08#32, 0x2748774c#32, 0x34b0bcb5#32, 0x391c0cb3#32, 0x4ed8aa4a#32, 0x5b9cca4f#32, 0x682e6ff3#32,
  0x748f82ee#32, 0x78a5636f#32, 0x84c87814#32, 0x8cc70208#32, 0x90befffa#32, 0xa4506ceb#32, 0xbef9a3f7#32, 0xc67178f2#32]

/-- The chaining value of SHA-256. -/
structure Sha where
  a : BitVec 32 := 0x6a09e667#32
  b : BitVec 32 := 0xbb67ae85#32
  c : BitVec 32 := 0x3c6ef372#32
  d : BitVec 32 := 0xa54ff53a#32
  e : BitVec 32 := 0x510e527f#32
  f : BitVec 32 := 0x9b05688c#32
  g : BitVec 32 := 0x1f83d9ab#32
  h : BitVec 32 := 0x5be0cd19#32
  deriving DecidableEq, Repr

/-- One round with a round constant and a schedule word. -/
def Sha.round (x : Sha) (k w : BitVec 32) : Sha :=
  let s1 := x.e.rotateRight 6 ^^^ x.e.rotateRight 11 ^^^ x.e.rotateRight 25
  let ch := (x.e &&& x.f) ^^^ (~~~x.e &&& x.g)
  let t1 := x.h + s1 + ch + k + w
  let s0 := x.a.rotateRight 2 ^^^ x.a.rotateRight 13 ^^^ x.a.rotateRight 22
  let maj := (x.a &&& x.b) ^^^ (x.a &&& x.c) ^^^ (x.b &&& x.c)
  ⟨t1 + (s0 + maj), x.a, x.b, x.c, x.d + t1, x.e, x.f, x.g⟩

/-- The rounds over a window of the last 16 schedule words, oldest first. -/
def Sha.rounds (x : Sha) : List (BitVec 32) → List (BitVec 32) → Sha
  | [], _ => x
  | k :: ks, w =>
    let w0 := w.headD 0
    let w1 := (w[1]?).getD 0
    let w9 := (w[9]?).getD 0
    let w14 := (w[14]?).getD 0
    let n := (w1.rotateRight 7 ^^^ w1.rotateRight 18 ^^^ (w1 >>> 3)) + w0 + w9 + (w14.rotateRight 17 ^^^ w14.rotateRight 19 ^^^ (w14 >>> 10))
    (x.round k w0).rounds ks (w.drop 1 ++ [n])

def Sha.add (x y : Sha) : Sha := ⟨x.a + y.a, x.b + y.b, x.c + y.c, x.d + y.d, x.e + y.e, x.f + y.f, x.g + y.g, x.h + y.h⟩

/-- A big-endian number. -/
def beNat (l : List Byte) : Nat := l.foldl (fun a b => a * 256 + b.toNat) 0
/-- A number as n big-endian bytes. -/
def beBytes : Nat → Nat → List Byte
  | 0, _ => []
  | n + 1, x => beBytes n (x / 256) ++ [BitVec.ofNat 8 x]

/-- The blocks of a padded message, folded in. -/
def Sha.blocks (x : Sha) : Nat → List Byte → Sha
  | 0, _ => x
  | n + 1, m =>
    let w := (List.range 16).map fun i => BitVec.ofNat 32 (beNat ((m.drop (4 * i)).take 4))
    (x.add (x.rounds shaK w)).blocks n (m.drop 64)

/-- SHA-256 of a message. -/
def sha256 (m : List Byte) : List Byte :=
  let pad := (119 - m.length % 64) % 64
  let p := m ++ [0x80#8] ++ List.replicate pad 0#8 ++ beBytes 8 (8 * m.length)
  let x := (({} : Sha).blocks (p.length / 64) p)
  [x.a, x.b, x.c, x.d, x.e, x.f, x.g, x.h].flatMap fun w => beBytes 4 w.toNat

/-- One bit of the reflected CRC-32. -/
def crcBit (c : BitVec 32) : BitVec 32 := if c.getLsbD 0 then (c >>> 1) ^^^ 0xEDB88320#32 else c >>> 1
def crcByte (c : BitVec 32) (b : Byte) : BitVec 32 :=
  crcBit (crcBit (crcBit (crcBit (crcBit (crcBit (crcBit (crcBit (c ^^^ b.zeroExtend 32))))))))

/-- The CRC-32 of IEEE 802.3. -/
def crc32 (m : List Byte) : BitVec 32 := (m.foldl crcByte 0xFFFFFFFF#32) ^^^ 0xFFFFFFFF#32

end Sys2Proof.Machine
end

