-- ==== Sys2Proof/Machine/Ldpc.lean ====
section
/-! DEFINITION. The LDPC code of the coding engines: encoding, and the layered min-sum of the decoders (R228, R230 to R232, R234, R244), over the
base graphs that the hardware holds and the spec does not print (`Config.ldpcEdges`; log entry 15). -/

namespace Sys2Proof.Machine

open Sys2Proof

/-! ### The lifted graph -/

/-- The edges of base-graph row r: column and shift. -/
def Seg.row (g : Seg) (r : Nat) : List (Nat × Nat) := Config.ldpcEdges g.bg g.zc r
/-- Columns of the base graph, and those of the systematic bits. -/
def Seg.cols (g : Seg) : Nat := if g.bg = 1 then 68 else 52
def Seg.sysCols (g : Seg) : Nat := if g.bg = 1 then 22 else 10
/-- The variable that an edge joins to lifted row i of its base row. -/
def Seg.varAt (g : Seg) (e : Nat × Nat) (i : Nat) : Nat := e.1 * g.zc + (i + e.2) % g.zc
/-- The edge class of a column (Table 10.3). -/
def edgeClass (bg col : Nat) : Nat :=
  if col < 2 then 0 else if col < (if bg = 1 then 22 else 10) then 1 else if col < (if bg = 1 then 26 else 14) then 2 else 3

/-! ### Layered min-sum (R231) -/

/-- Posteriors by variable, and check messages by edge of the lifted graph. -/
structure MinSum where
  app : Array Int
  msg : Array Int

/-- Place of the message of a variable's edge in lifted row i of base row r. -/
def Seg.edgeAt (g : Seg) (r col i : Nat) : Nat := (r * g.cols + col) * g.zc + i

/-- One lifted row: t, the messages c, and the new posteriors. `entry` gives ALPHA and BETA of an edge class. -/
def checkRow (g : Seg) (entry : Nat → Nat × Nat) (r i : Nat) (d : MinSum) : MinSum :=
  let es := g.row r
  let ts := es.map fun e => clampInt (-511) 511 (d.app.getD (g.varAt e i) 0 - d.msg.getD (g.edgeAt r e.1 i) 0)
  es.zipIdx.foldl (fun d x =>
    let others := ts.eraseIdx x.2
    let mn := others.foldl (fun (m : Nat) t => min m t.natAbs) 511
    let odd := (others.filter fun t => decide (t < 0)).length % 2
    let ab := entry (edgeClass g.bg x.1.1)
    let v := clampInt 0 127 (shrEven (mn * ab.1 : Nat) 8 - (ab.2 : Int))
    let c := if odd = 1 then -v else v
    { app := d.app.setIfInBounds (g.varAt x.1 i) ((ts[x.2]?).getD 0 + c), msg := d.msg.setIfInBounds (g.edgeAt r x.1.1 i) c }) d

/-- One iteration over the m active layers, in row order. -/
def minSumIteration (g : Seg) (entry : Nat → Nat × Nat) (m : Nat) (d : MinSum) : MinSum :=
  (List.range m).foldl (fun d r => (List.range g.zc).foldl (fun d i => checkRow g entry r i d) d) d

/-- The hard decisions: 0 where the posterior is not negative. -/
def MinSum.hard (d : MinSum) (n : Nat) : List Bool := (List.range n).map fun v => decide (d.app.getD v 0 < 0)

/-- Whether every parity check of the m active layers holds on the hard decisions (R234). -/
def MinSum.checksHold (d : MinSum) (g : Seg) (m : Nat) : Bool :=
  (List.range m).all fun r => (List.range g.zc).all fun i =>
    ((g.row r).filter fun e => decide (d.app.getD (g.varAt e i) 0 < 0)).length % 2 == 0

/-- Iterations up to `fuel` more, the next of number n: the posteriors and the iterations run. It ends early where `stop` says so. -/
def minSumRun (g : Seg) (entry : Nat → Nat → Nat × Nat) (m : Nat) (stop : Nat → MinSum → Bool) : Nat → Nat → MinSum → MinSum × Nat
  | 0, n, d => (d, n - 1)
  | fuel + 1, n, d =>
    let d1 := minSumIteration g (entry n) m d
    if stop n d1 then (d1, n) else minSumRun g entry m stop fuel (n + 1) d1

/-- The posteriors before iteration 1: the values of the circular buffer behind the two punctured columns, +511 for filler bits (R229). -/
def minSumStart (g : Seg) (value : Nat → Int) : MinSum :=
  { app := ((List.range (g.cols * g.zc)).map fun v =>
      if v < 2 * g.zc then 0 else if isFiller g (v - 2 * g.zc) then 511 else value (v - 2 * g.zc)).toArray,
    msg := Array.replicate (46 * g.cols * g.zc) 0 }

/-- ALPHA and BETA of an entry of the 512-byte table (R232, Table 10.4). -/
def tableEntry (table : List Byte) (bg n cls : Nat) : Nat × Nat :=
  let e := fieldOf table (2 * ((bg - 1) * 128 + (n - 1) * 4 + cls)) 2
  (e / 256 % 256, e % 16)

/-- A code block decoded: the hard decisions of its K' bits and the iterations run (R231, R234). `crc` judges the decisions. -/
def ldpcDecode (g : Seg) (table : List Byte) (m cap minIter : Nat) (early : Bool) (crc : List Bool → Bool) (value : Nat → Int) : List Bool × Nat :=
  let stop := fun n (d : MinSum) => early && decide (minIter ≤ n) && d.checksHold g m && crc (d.hard g.kp)
  let r := minSumRun g (fun n c => tableEntry table g.bg n c) m stop cap 1 (minSumStart g value)
  (r.1.hard g.kp, r.2)

/-! ### Encoding (R244) -/

/-- The parity that the known columns give the lifted rows of base row r. -/
def rowParity (g : Seg) (x : Tbl (List Bool)) (r : Nat) : List Bool :=
  (List.range g.zc).map fun i => ((g.row r).filter fun e => (((Tbl.get [] x e.1)[(i + e.2) % g.zc]?).getD false)).length % 2 == 1

/-- A column solved from what its rotation by a shift must be. -/
def unrotate (zc shift : Nat) (l : List Bool) : List Bool := (List.range zc).map fun j => (l[(j + zc - shift % zc) % zc]?).getD false

/-- The first core parity column: the four core rows sum to it alone, rotated by the shift that it has an odd number of times in them. -/
def firstParity (g : Seg) (x : Tbl (List Bool)) : List Bool :=
  let rows := (List.range 4).map fun r => rowParity g x r
  let sum := (List.range g.zc).map fun i => (rows.filter fun l => (l[i]?).getD false).length % 2 == 1
  let shifts := (List.range 4).flatMap fun r => (g.row r).filterMap fun e => if e.1 = g.sysCols then some e.2 else none
  let odd := (shifts.find? fun v => (shifts.filter fun w => w == v).length % 2 == 1).getD 0
  unrotate g.zc odd sum

/-- One parity column more: that of the first row with a single unknown one. -/
def solveOne (g : Seg) (x : Tbl (List Bool)) : Tbl (List Bool) :=
  let open_ := fun r => (g.row r).filter fun e => (Tbl.get [] x e.1) == []
  match (List.range 46).find? fun r => (open_ r).length == 1 with
  | some r => match open_ r with
    | e :: _ => Tbl.set [] x e.1 (unrotate g.zc e.2 (rowParity g x r))
    | [] => x
  | none => x

def solveAll (g : Seg) : Nat → Tbl (List Bool) → Tbl (List Bool)
  | 0, x => x
  | n + 1, x => solveAll g n (solveOne g x)

/-- The circular buffer of a code block of K' bits: the codeword behind its two punctured columns. -/
def ldpcEncode (g : Seg) (bits : List Bool) : List Bool :=
  let sys := (List.range g.sysCols).foldl (fun t c =>
    Tbl.set [] t c ((List.range g.zc).map fun i => (bits[c * g.zc + i]?).getD false)) ([] : Tbl (List Bool))
  let x := solveAll g 46 (Tbl.set [] sys g.sysCols (firstParity g sys))
  (List.range (g.cols - 2)).flatMap fun c => let l := Tbl.get [] x (c + 2); if l = [] then List.replicate g.zc false else l

end Sys2Proof.Machine
end

