-- ==== Sys2Proof/Machine/Carrier.lean ====
section
/-! DEFINITION. Carriers, their symbols and symbol-buffer slots (R15, R18, R137, R183 to R187, R365, R369), and the reach of a
Court (R267, R385, R386). -/

namespace Sys2Proof.Machine

open Sys2Proof

/-! ### Carrier objects (Tables 8.9 and 15.6) -/

def State.car (s : State) (c sub : Nat) : Nat := s.get (0x2300 + c) sub
def State.carTb (s : State) (c : Nat) : Nat := s.car c 2 % 8
def State.carUl (s : State) (c : Nat) : Bool := s.car c 1 % 2 == 1
def State.carDl (s : State) (c : Nat) : Bool := s.car c 1 / 2 % 2 == 1

/-- Ports of a carrier on this chip: 256 of the system's NPORT at most (R20, R365). -/
def State.localPorts (s : State) (c : Nat) : Nat := min 256 (s.car c 4 - 256 * s.chip)
/-- Mantissa width of a direction; 0 uncompressed. -/
def State.carWidth (s : State) (c : Nat) (dl : Bool) : Nat := s.car c (if dl then 8 else 7)
/-- Stored bytes of one PRB (R183). -/
def prbBytes (w : Nat) : Nat := if w = 0 then 48 else 1 + 3 * w
/-- Bytes of a port's presence map. -/
def State.presenceStride (s : State) (c : Nat) : Nat := (s.car c 3 + 63) / 64 * 8
/-- Offset of the port data in a slot: header, and the presence map padded to 128 bytes (R183). -/
def State.portData (s : State) (c : Nat) : Nat := 64 + (s.presenceStride c * s.localPorts c + 127) / 128 * 128
/-- Time-domain mode of a carrier (Table 11.9). -/
def State.tdOn (s : State) (c : Nat) : Bool := s.get (0x4300 + c) 1 == 1
/-- Width of the frequency-domain area of a slot: that area of a time-domain carrier is uncompressed (R372). -/
def State.areaWidth (s : State) (c : Nat) (dl : Bool) : Nat := if s.tdOn c then 0 else s.carWidth c dl
def State.portStride (s : State) (c : Nat) (dl : Bool) : Nat := (s.car c 3 * prbBytes (s.areaWidth c dl) + 63) / 64 * 64
/-- Samples of the cyclic prefix of a symbol, the longest where `first` (R257). -/
def State.cpSamples (s : State) (c : Nat) (first : Bool) : Nat :=
  let tb := s.get (0x2300 + c) 2 % 8
  let mu := s.get (0x2000 + tb * 16) 2
  let cp := if s.get (0x2000 + tb * 16) 3 = 1 then 8192 else 9216 / 2 ^ mu + if first then 1024 else 0
  cp * s.get (0x4300 + c) 2 * 2 ^ mu / 131072
/-- Blocks of 12 samples of a symbol (R372). -/
def State.sampleBlocks (s : State) (c : Nat) (first : Bool) : Nat := (s.cpSamples c first + s.get (0x4300 + c) 2 + 11) / 12
/-- Bytes of the sample area that a slot of a time-domain carrier has after its frequency-domain area (R372). -/
def State.sampleArea (s : State) (c : Nat) (dl : Bool) : Nat :=
  if s.tdOn c then (s.localPorts c * s.sampleBlocks c true * prbBytes (s.carWidth c dl) + 127) / 128 * 128 else 0
/-- Bytes of a slot (R183, R372). -/
def State.slotBytes (s : State) (c : Nat) (dl : Bool) : Nat := s.portData c + s.localPorts c * s.portStride c dl + s.sampleArea c dl
def State.carDepth (s : State) (c : Nat) (dl : Bool) : Nat := s.get (0x2380 + c) (if dl then 4 else 3)
/-- Device address of the slot of symbol n of a direction. -/
def State.slotAddr (s : State) (c : Nat) (dl : Bool) (n : Nat) : Nat :=
  0x8000000 + s.get (0x2380 + c) (if dl then 2 else 1) + n % max 1 (s.carDepth c dl) * s.slotBytes c dl
/-- Address of a PRB of a port in a slot, and of its presence byte with the bit. -/
def State.prbAddr (s : State) (c : Nat) (dl : Bool) (n port prb : Nat) : Nat :=
  s.slotAddr c dl n + s.portData c + port * s.portStride c dl + prb * prbBytes (s.areaWidth c dl)
/-- Address of a block of samples of a port (R372). -/
def State.blockAddr (s : State) (c : Nat) (dl : Bool) (n port blk : Nat) : Nat :=
  s.slotAddr c dl n + s.portData c + s.localPorts c * s.portStride c dl
    + (port * s.sampleBlocks c true + blk) * prbBytes (s.carWidth c dl)
def State.presenceByte (s : State) (c : Nat) (dl : Bool) (n port prb : Nat) : Nat :=
  s.slotAddr c dl n + 64 + port * s.presenceStride c + prb / 8
def State.present (s : State) (c : Nat) (dl : Bool) (n port prb : Nat) : Bool :=
  (memByte s.mem (s.presenceByte c dl n port prb)).getLsbD (prb % 8)
def State.setPresent (s : State) (c : Nat) (dl : Bool) (n port prb : Nat) : State :=
  let a := s.presenceByte c dl n port prb
  s.store 1 a ((memByte s.mem a).toNat ||| 2 ^ (prb % 8))
/-- Symbol number in a slot's header. -/
def State.slotSymbol (s : State) (c : Nat) (dl : Bool) (n : Nat) : Nat := memNat s.mem 4 (s.slotAddr c dl n)

/-- Writes a slot's header: U32 symbol number, then the AIRPOS at byte 8 (R183, R185). -/
def State.slotHeader (s : State) (c : Nat) (dl : Bool) (n air : Nat) : State :=
  (s.store 4 (s.slotAddr c dl n) n).store 8 (s.slotAddr c dl n + 8) air
/-- Clears a slot's presence map. -/
def State.clearPresence (s : State) (c : Nat) (dl : Bool) (n : Nat) : State :=
  s.store (s.portData c - 64) (s.slotAddr c dl n + 64) 0

/-! ### Symbols and windows -/

/-- Symbol-count Tally of a time base (R30). -/
def State.symCount (s : State) (tb : Nat) : BitVec 32 := (s.tally (0xFFF8 + tb % 8)).count

/-- Tc count, within one AIRPOS period, of the boundary at which symbol number n of a time base begins. -/
def State.symStartTc (s : State) (tb n : Nat) : Nat :=
  let mu := s.tbMu tb
  let e := s.tbEcp tb
  let k := (symbolOf mu e (s.tb tb).tc).1
  let d := signed 32 ((n + 2 ^ 32 - (s.symCount tb).toNat) % 2 ^ 32)
  let per := symsPerSlot e * 2 ^ mu * (airPeriod / 1966080)
  symbolTc mu e (((k : Int) + d) % (per : Int)).toNat

/-- Symbol number that begins at Tc count t of a time base. -/
def State.symNumber (s : State) (tb t : Nat) : Nat :=
  let mu := s.tbMu tb
  let e := s.tbEcp tb
  let per : Int := symsPerSlot e * 2 ^ mu * (airPeriod / 1966080)
  let d := (((symbolOf mu e (t % airPeriod)).1 : Int) - (symbolOf mu e (s.tb tb).tc).1) % per
  (((s.symCount tb).toNat : Int) + (if d < per / 2 then d else d - per)) % (2 ^ 32 : Int) |>.toNat

/-- Opening and closing of a symbol's reception window (Table 15.6: after its air end). -/
def State.ulOpen (s : State) (c n : Nat) : Nat := (s.symStartTc (s.carTb c) (n + 1) + s.car c 9) % airPeriod
def State.ulClose (s : State) (c n : Nat) : Nat := (s.symStartTc (s.carTb c) (n + 1) + s.car c 10) % airPeriod
/-- Opening and closing of a symbol's transmit window (before its air start). -/
def State.dlOpen (s : State) (c n : Nat) : Nat := (s.symStartTc (s.carTb c) n + airPeriod - s.car c 11) % airPeriod
def State.dlClose (s : State) (c n : Nat) : Nat := (s.symStartTc (s.carTb c) n + airPeriod - s.car c 12) % airPeriod

/-- Whether an instant of a time base is at or before its present. -/
def State.passed (s : State) (tb t : Nat) : Bool := s.reached tb t

/-! ### Fronthaul ports of a carrier (R365, Table 17.1) -/

/-- Ports of FH_PORTS in ascending order, those fenced left out. -/
def State.carPorts (s : State) (c : Nat) : List Nat :=
  (List.range 16).filter fun p => (s.car c 5).testBit p && !s.isFenced 5 p
/-- The fronthaul port of a local antenna port. -/
def State.portOf (s : State) (c a : Nat) : Nat :=
  let l := s.carPorts c
  (l[a % max 1 l.length]?).getD 0

/-! ### PRBs (R137 to R139) -/

/-- Big-endian value of a byte list. -/
def natOfBe (l : List Byte) : Nat := l.foldl (fun a b => a * 256 + b.toNat) 0
/-- n bytes of a number, most significant first. -/
def bytesBe (n x : Nat) : List Byte := (bytesOf n x).reverse

/-- Exact parts of resource element `re` of a stored PRB. -/
def prbElem (w : Nat) (b : List Byte) (re : Nat) : Int × Int :=
  let x := if w = 0 then 0 else (b.headD 0#8).toNat % 16
  let mw := if w = 0 then 16 else w
  let v := natOfBe (if w = 0 then b else b.drop 1)
  let part := fun i => signed mw (v / 2 ^ ((23 - i) * mw)) * (2 ^ x : Nat)
  (part (2 * re), part (2 * re + 1))

/-- The stored bytes of a PRB of 24 CI16 parts (R139). -/
def prbStored (w : Nat) (v : List Int) : List Byte :=
  let mw := if w = 0 then 16 else w
  let c := if w = 0 then (0, v) else bfpCompress v w
  let body := c.2.foldl (fun a m => a * 2 ^ mw + wrapTo mw m) 0
  if w = 0 then bytesBe 48 body else BitVec.ofNat 8 c.1 :: bytesBe (3 * w) body

/-! ### xSPI RAM (R385, R386) -/

def xspiBase : Nat := 0x100000000
/-- The offset in the striped usable space of an xSPI RAM address; none in the reserved top of a device. -/
def xspiOffset (dev a : Nat) : Option Nat :=
  let r := a - xspiBase
  let h := r / 0x8000000
  let d := r % 0x8000000 / 0x4000000
  let w := r % 0x4000000
  if xspiBase ≤ a ∧ h < 8 ∧ d < dev ∧ w < 56 * 1048576 then
    let l := d * (56 * 1048576) + w
    some ((l / 8192 * 8 + h) * 8192 + l % 8192)
  else none

/-- Start of Court k's adaptation store and of Court k's region (R386). -/
def State.adaptStart (s : State) (k : Nat) : Nat :=
  s.replayStart + s.get 0x5300 7 * mb + (List.range k).foldl (fun a i => a + s.get (0x4060 + i) 8 * mb) 0
def State.regionStart (s : State) (k : Nat) : Nat :=
  s.adaptStart 16 + (List.range k).foldl (fun a i => a + s.get (0x2520 + i) 1 * mb) 0

/-- Whether a Court reaches an xSPI RAM address: its adaptation store and its region. -/
def State.xspiReach (s : State) (k a n : Nat) : Bool :=
  match xspiOffset (s.get 0x2510 2) a, xspiOffset (s.get 0x2510 2) (a + n - 1) with
  | some o, some _ =>
    (decide (s.adaptStart k ≤ o) && decide (o + n ≤ s.adaptStart k + s.get (0x4060 + k) 8 * mb))
      || (decide (s.regionStart k ≤ o) && decide (o + n ≤ s.regionStart k + s.get (0x2520 + k) 1 * mb))
  | _, _ => false

/-! ### Reach (R267, Table 12.1) -/

/-- Whether an address lies in the symbol-buffer regions of the Court's carriers. -/
def State.sbReach (s : State) (k a n : Nat) : Bool :=
  (s.courtCarriers k).any fun c => [false, true].any fun dl =>
    let b := 0x8000000 + s.get (0x2380 + c) (if dl then 2 else 1)
    decide (b ≤ a) && decide (a + n ≤ b + s.carDepth c dl * s.slotBytes c dl)

/-- Whether an address lies in Bench pages of models that the Court's jobs reference. -/
def State.benchReach (s : State) (k a n : Nat) : Bool :=
  let p := (a - 0xA000000) / 65536
  let o := Tbl.get 0 s.benchPages p
  decide (0xA000000 ≤ a) && decide (p < 384) && decide ((a + n - 1 - 0xA000000) / 65536 = p)
    && decide (0x10000 ≤ o ∧ o < 0x20000)
    && s.jobs.any fun e => e.2.live && e.2.court == k && e.2.state != .completed && e.2.model == o - 0x10000

/-! ### The Tally window (R287, Table 12.5) -/

def tallyBase : Nat := 0x18000000
def inTally (a n : Nat) : Bool := decide (tallyBase ≤ a) && decide (a + n ≤ tallyBase + 0x100000)

/-- The record of Tally t. -/
def State.tallyRecord (s : State) (t : Nat) : List Byte :=
  let y := s.tally t
  let p := match s.tpools.find? fun e => e.2.live && decide (e.2.first ≤ t) && decide (t < e.2.first + e.2.count) with
    | some e => e.1
    | none => 0xFFFF
  bytesOf 4 y.count.toNat ++ bytesOf 2 p ++ bytesOf 1 (bitAt (y.holder != 0) 0 + bitAt y.abandoned 1 + bitAt (y.waiters != []) 2) ++ [0#8]
    ++ bytesOf 4 y.holder ++ [0#8, 0#8, 0#8, 0#8]

/-- n bytes of the window at an address. -/
def State.tallyBytes (s : State) (a n : Nat) : List Byte :=
  let o := a - tallyBase
  (((List.range ((o + n + 15) / 16 - o / 16)).flatMap fun i => s.tallyRecord (o / 16 + i)).drop (o % 16)).take n

/-- Whether every Tally that n bytes touch is in a pool of the Court. -/
def State.tallyReach (s : State) (k a n : Nat) : Bool :=
  let o := a - tallyBase
  inTally a n && (List.range ((o + n + 15) / 16 - o / 16)).all fun i => s.tallyCourt (o / 16 + i) == some k

/-- A write into the window: a 32-bit write of ADD adds; every other write is ignored, and `bad` counts it as its source's violation. -/
def State.tallyWrite (s : State) (a : Nat) (b : List Byte) (bad : State → State) : State :=
  if a % 16 = 12 ∧ b.length = 4 then s.tallyAdd ((a - tallyBase) / 16) (BitVec.ofNat 32 (natOf b)) else bad s

/-- Base of host memory (R376) and of the remote windows (R311). -/
def hostBase : Nat := 0x800000000000
def remoteBase : Nat := 0x100000000000

/-- Reach of a Court within one chip, for addresses that are not its own core's. -/
def State.localReach (s : State) (k a n : Nat) (write : Bool) : Bool :=
  if a + n ≤ 64 * Config.coreMemBytes then
    let off := a % Config.coreMemBytes
    s.coreInCourt k (a / Config.coreMemBytes) && decide (0x40000 ≤ off) && decide (off + n ≤ Config.coreMemBytes)
  else if 0x8000000 ≤ a ∧ a + n ≤ 0x9800000 then s.sbReach k a n
  else if 0xA000000 ≤ a ∧ a + n ≤ 0xB800000 then !write && s.benchReach k a n
  else if xspiBase ≤ a ∧ a < 0x140000000 then s.xspiReach k a n
  else s.tallyReach k a n

/-- Whether chip c is a member: bit c of MEMBERS, or this chip of a system of one (R303). -/
def State.isMember (s : State) (c : Nat) : Bool :=
  (s.get 0x2600 5).testBit c || (s.get 0x2600 5 == 0 && c == s.chip)

/-- Reach of an engine of context k of core n: its own data window, its Court's ranges, host memory, remote chips. -/
def State.engineReach (s : State) (n k a len : Nat) (write : Bool) : Bool :=
  let c := s.core n
  let court := (c.ctx k).court
  if inOwnMemory n a len then inCtxWindow c n k a len
  else if hostBase ≤ a then decide (a + len ≤ 2 * hostBase)
  else if remoteBase ≤ a ∧ a < remoteBase + 24 * 0x10000000000 then
    s.isMember ((a - remoteBase) / 0x10000000000) && s.localReach court ((a - remoteBase) % 0x10000000000) len write
  else s.localReach court a len write

/-! ### Line credits (R176, R298) -/

/-- Destination port of an address: 0 to 63 core memories, 64 to 79 symbol buffer, 80 to 87 Bench, 96 to 103 xSPI RAM
channels, 104 PCIe outbound, 128 + c remote chip c; 88 to 91 the HARQ ports, which no engine reaches. Symbol-buffer, Bench and HARQ ports
interleave by 128-byte line (log entry 14). -/
def destPort (a : Nat) : Nat :=
  if a < 64 * Config.coreMemBytes then a / Config.coreMemBytes
  else if a < 0xA000000 then 64 + a / 128 % 16
  else if a < 0xC000000 then 80 + a / 128 % 8
  else if a < 0xD000000 then 88 + a / 128 % 4
  else if hostBase ≤ a then 104
  else if remoteBase ≤ a then 128 + (a - remoteBase) / 0x10000000000
  else 96 + (a - xspiBase) / 0x8000000 % 8

/-- Credits of a destination port (R176, R298). -/
def portTotal (p : Nat) : Nat :=
  if p < 64 then 64 else if p < 80 then 128 else if p < 96 then 64 else if p < 104 then 32 else if p = 104 then 256 else 128

end Sys2Proof.Machine
end

