-- ==== Sys2Proof/Machine/Stream.lean ====
section
/-! DEFINITION. Stream programs: what each instruction of an engine does (R173 to R187, Tables 8.3 to 8.5). -/

namespace Sys2Proof.Machine

open Sys2Proof

/-! ### An engine's instruction -/

/-- `w` bits of a stream instruction from `lo`. -/
def stBits (x : StreamIssue) (lo w : Nat) : Nat := bits x.word.toNat lo w

/-- An engine fault: STREAM with the word of R177. -/
def State.engineFault (s : State) (n e reason : Nat) : State :=
  s.raise n evSTREAM (s.core n).pc (some (BitVec.ofNat 32 (0x00030000 + e * 256 + reason)))

/-- The loop evaluation of a stream program after the instruction at pc (R179). -/
def streamNext (g : Engine) (pc : Nat) : Nat → Tbl (BitVec 32) → Tbl (BitVec 32) × Nat
  | 0, lc => (lc, pc + 1)
  | k + 1, lc =>
    if Tbl.get 0#32 lc k ≠ 0#32 ∧ pc = Tbl.get 0 g.loopEnd k then
      if 1 < (Tbl.get 0#32 lc k).toNat then (Tbl.set 0#32 lc k (Tbl.get 0#32 lc k - 1), Tbl.get 0 g.loopStart k)
      else streamNext g pc k (Tbl.set 0#32 lc k 0#32)
    else streamNext g pc k lc

/-- The engine after its instruction: the next one, by its loops. -/
def Engine.advance (g : Engine) : Engine :=
  let r := streamNext g g.pc 4 g.loopCount
  { g with loopCount := r.1, pc := r.2, state := .run, wait := .none }

/-- Physical engine that backs context engine e: the (e mod u)-th unfenced one (Table 17.1). -/
def State.physEngine (s : State) (n e : Nat) : Nat :=
  let l := (List.range 4).filter fun p => !s.isFenced 3 (n + p * 256)
  (l[e % max 1 l.length]?).getD e

/-- The SB tag counter of a physical engine: 1 at reset (R173). -/
def Core.tagCtr (c : Core) (p : Nat) : Nat := Tbl.get 1 c.tagCounter p

/-- Whether the wait of an engine is over by the present values (R181, R187). -/
def State.engineWaitOver (s : State) (g : Engine) : Bool :=
  match g.wait with
  | .tally t target => tallyReached (s.tally t).count target
  | _ => false

/-- Runs an instruction on the engine it is presented to: only while its context runs and the engine's program runs and
is not paused (R173, R174). A WAITT whose count has reached its target is left first. `ok` holds when every reserved field
is zero; otherwise reason 0x01, as for an opcode that is not the instruction's own: a word of a reserved opcode is presented as NOP. At index 32
the program has no instruction: reason 0x02. An instruction outside the data window gives 0x03, one that meets an uncorrectable error 0x0C. -/
def State.onEngine (s : State) (x : StreamIssue) (opc : Nat) (ok : Bool) (f : Engine → State → State) : State :=
  let n := x.core.val
  let e := x.engine.val
  let c := s.core n
  let g0 := c.curCtx.engine e
  let g := if g0.state = .wait ∧ s.engineWaitOver g0 = true then g0.advance else g0
  if s.coresStopped ∨ ¬ c.jobMode ∨ g.state ≠ .run ∨ g.paused then s
  else if 32 ≤ g.pc then s.engineFault n e 2
  else if inCtxWindow c n c.cur (g.prog + 8 * g.pc) 8 = false then s.engineFault n e 3
  else if x.ecc = .uncorrectable then s.engineFault n e 0x0C
  else s.eccRead n ((g.prog + 8 * g.pc) % Config.coreMemBytes) c.pc x.ecc fun s =>
    if ok = false ∨ streamOpc x ≠ opc then s.engineFault n e 1 else f g s

/-- The engine is written back after its instruction. -/
def State.endInstr (s : State) (x : StreamIssue) (g : Engine) : State :=
  s.setEngine x.core (s.core x.core).cur x.engine g.advance

/-- STREAM_NOP. -/
def execStreamNop (x : StreamIssue) (s : State) : Answer :=
  .next (s.onEngine x 0 (x.word == 0) fun g s => s.endInstr x g)

/-! ### Bindings -/

/-- Whether a tensor descriptor is one an engine takes: reserved bits zero, a known type, 1 to 5 dimensions with their
counts, unused ones zero (Table 7.2). -/
def streamDescOk (d : BitVec 512) : Bool :=
  tdField d 0 54 == 0 && tdField d 112 16 == 0 && tdField d 496 16 == 0 && decide (tdType d ≤ 11)
    && decide (1 ≤ tdNdim d ∧ tdNdim d ≤ 5) && tdCount0 d != 0
    && [1, 2, 3, 4].all fun i => if i < tdNdim d then tdCount d i != 0 else tdCount d i == 0

/-- n bytes from an address, on the chip, in the Tally window, or from `ext`. -/
def readUnit (s : State) (ext : List Byte) (a n : Nat) : Nat × List Byte :=
  if inTally a n then (natOf (s.tallyBytes a n), ext)
  else if remoteBase ≤ a then (fieldOf ext 0 n, ext.drop n) else (memNat s.mem n a, ext)

/-- BIND: the descriptor at DESC, absolute or relative to the buffer of Hk (R178). `ext` is what a DESC outside the chip returns. -/
def execBind (x : StreamIssue) (ext : List Byte) (s : State) : Answer :=
  .next (s.onEngine x 1 (stBits x 48 5 == 0 && decide (stBits x 55 2 ≤ 1)) fun g s =>
    let n := x.core.val
    let k := (s.core n).cur
    let a := stBits x 0 48
    let d := BitVec.ofNat 512 (readUnit s ext a 64).1
    let h := Tbl.get none g.handles (stBits x 53 2)
    let off := match h with
      | some ph => (s.pool ph.1).base + ph.2 * (s.pool ph.1).bufSize
      | none => 0
    if a % 64 ≠ 0 ∨ ¬ s.engineReach n k a 64 false then s.engineFault n x.engine 3
    else if stBits x 55 2 = 1 ∧ h = none then s.engineFault n x.engine 5
    else if ¬ streamDescOk d then s.engineFault n x.engine 1
    else
      let o := if stBits x 55 2 = 1 then off else 0
      let side : Side := .tensor d ((tdBase d + o) % 2 ^ 48) ((tdField d 416 48 + o) % 2 ^ 48)
      s.endInstr x (if stBits x 57 1 = 0 then { g with src := side, srcPos := 0, srcMode := [] }
        else { g with dst := side, dstPos := 0, dstMode := [], part := [], blk := [], lastLine := none, lastScale := none }))

/-- Fields of SYM. -/
def symCarrier (w : BitVec 64) : Nat := bits w.toNat 53 5
def symDl (w : BitVec 64) : Bool := bits w.toNat 52 1 == 1
def symPort0 (w : BitVec 64) : Nat := bits w.toNat 44 8
def symNport (w : BitVec 64) : Nat := bits w.toNat 36 8 + 1
def symPrb0 (w : BitVec 64) : Nat := bits w.toNat 27 9
def symNprb (w : BitVec 64) : Nat := bits w.toNat 18 9 + 1

/-- SYM: a symbol side, symbol n := ARG + SOFS; reason 0x0A outside the carrier's configuration, 0x03 for a carrier of
another Court (R177, R186, R187). -/
def execSym (x : StreamIssue) (s : State) : Answer :=
  .next (s.onEngine x 2 (stBits x 16 2 == 0) fun g s =>
    let n := x.core.val
    let w := x.word
    let c := symCarrier w
    let sym : BitVec 32 := g.arg + (BitVec.ofNat 16 (stBits x 0 16)).signExtend 32
    if s.carrierCourt c ≠ (s.core n).curCtx.court then s.engineFault n x.engine 3
    else if ¬ (if symDl w then s.carDl c else s.carUl c) ∨ s.localPorts c < symPort0 w + symNport w
        ∨ s.car c 3 < symPrb0 w + symNprb w then s.engineFault n x.engine 0x0A
    else s.endInstr x (if symDl w then 
        { g with dst := .symbol w sym, dstPos := 0, dstMode := [], part := [], blk := [], opened := false, lastLine := none, lastScale := none }
      else { g with src := .symbol w sym, srcPos := 0, srcMode := [], clamped := [] }))

/-! ### Addressing (R158, R180) -/

/-- Bit reversal of i over log2 n bits. -/
def bitRev : Nat → Nat → Nat
  | 0, _ => 0
  | k + 1, i => i % 2 * 2 ^ k + bitRev k (i / 2)

/-- An index under its AMODE. -/
def modeIndex (m : IdxMode) (count i : Nat) : Nat :=
  if m.mode = 1 then i % max 1 m.param else if m.mode = 2 then bitRev (Nat.log2 count) i else i

/-- Count of a dimension. -/
def tdCnt (d : BitVec 512) (i : Nat) : Nat := if i = 0 then tdCount0 d else max 1 (tdCount d i)
/-- Elements of a tensor. -/
def tdTotal (d : BitVec 512) : Nat := [0, 1, 2, 3, 4].foldl (fun a i => a * tdCnt d i) 1
/-- Index of dimension i at linear position p, under the modes. -/
def tdIndex (d : BitVec 512) (m : Tbl IdxMode) (p i : Nat) : Nat :=
  modeIndex (Tbl.get {} m i) (tdCnt d i) (p / ((List.range i).foldl (fun a j => a * tdCnt d j) 1) % tdCnt d i)
/-- Byte offset of the row of position p, dimensions 1 to 4. -/
def tdRowOffset (d : BitVec 512) (m : Tbl IdxMode) (p : Nat) : Int :=
  [1, 2, 3, 4].foldl (fun a i => a + (tdIndex d m p i : Int) * tdStride d i) 0
/-- Row number of position p. -/
def tdRowNo (d : BitVec 512) (m : Tbl IdxMode) (p : Nat) : Nat :=
  tdIndex d m p 1 + tdCnt d 1 * (tdIndex d m p 2 + tdCnt d 2 * (tdIndex d m p 3 + tdCnt d 3 * tdIndex d m p 4))
/-- Whether a type is SB8 or SB4, and the bytes of its block. -/
def isSb (t : Nat) : Bool := t == 10 || t == 11
def sbBytes (t : Nat) : Nat := if t = 10 then 16 else 8
/-- Bytes of one unit at a position: an element, or an SB block. -/
def unitBytes (t : Nat) : Nat := if isSb t then sbBytes t else etSize t
/-- Address of the element, or of the SB block, at position p. -/
def unitAddr (d : BitVec 512) (base : Nat) (m : Tbl IdxMode) (p : Nat) : Nat :=
  let i := tdIndex d m p 0
  let o : Int := if isSb (tdType d) then (i / 8 * sbBytes (tdType d) : Nat) else (i : Int) * tdStride d 0
  (((base : Int) + tdRowOffset d m p + o) % (2 ^ 48 : Nat)).toNat
/-- Address of the scale entry of the block at position p (R131). -/
def scaleAddrOf (d : BitVec 512) (scale : Nat) (m : Tbl IdxMode) (p : Nat) : Nat :=
  scale + tdRowNo d m p * tdField d 464 32 + 2 * (tdIndex d m p 0 / 8)

/-- Type code of a side: Table 4.9, 10 SB8, 11 SB4, 16 uplink symbol, 17 downlink symbol, 255 none. -/
def sideType : Side → Nat
  | .none => 255
  | .tensor d _ _ => tdType d
  | .symbol w _ => if symDl w then 17 else 16
/-- Elements of a side. -/
def sideTotal : Side → Nat
  | .none => 0
  | .tensor d _ _ => tdTotal d
  | .symbol w _ => 12 * symNprb w * symNport w

/-- The conversions of Table 8.5. -/
def convOk (a b : Nat) : Bool :=
  (a == 16 && (b == 5 || b == 10 || b == 11)) || (a == 5 && (b == 10 || b == 11 || b == 17)) || (a == 4 && b == 5)
    || (a == b && decide (a ≤ 11))

/-! ### One unit of a MOVE -/

/-- A MOVE under way. `ext` holds the bytes that reads outside the chip return, in order. -/
structure MoveRun where
  s : State
  g : Engine
  left : Nat
  exhaust : Bool
  ext : List Byte
  fault : Option Nat := none
  wait : EngWait := .none

/-- Element e of a symbol source: subcarrier by subcarrier, the port fastest (R186). A PRB that is absent enters as zeros. -/
def symElem (s : State) (w : BitVec 64) (n e : Nat) : (Int × Int) × Nat × Nat :=
  let c := symCarrier w
  let port := symPort0 w + e % symNport w
  let sc := e / symNport w
  let prb := symPrb0 w + sc / 12
  let mw := s.areaWidth c false
  if s.present c false n port prb then
    (prbElem mw (memBytes s.mem (prbBytes mw) (s.prbAddr c false n port prb)) (sc % 12), port, prb)
  else ((0, 0), port, prb)

/-- The value of the next source element: exact parts and the raw encoding, with what reads outside the chip return after it. -/
def srcValue (s : State) (g : Engine) (ext : List Byte) : ((Int × Int) × Nat) × List Byte :=
  match g.src with
  | .symbol w n => (((symElem s w n.toNat g.srcPos).1, 0), ext)
  | .tensor d base _ =>
    let u := readUnit s ext (unitAddr d base g.srcMode g.srcPos) (unitBytes (tdType d))
    let t := tdType d
    ((if etIsComplex t then (partRe t u.1, partIm t u.1) else (etVal t u.1, 0), u.1), u.2)
  | .none => (((0, 0), 0), ext)

/-- Whether the next source element is one that the engine reaches (R177). -/
def State.srcReach (s : State) (n : Nat) (g : Engine) : Bool :=
  match g.src with
  | .tensor d base scale =>
    s.engineReach n (s.core n).cur (unitAddr d base g.srcMode g.srcPos) (unitBytes (tdType d)) false
      && (!isSb (tdType d) || s.engineReach n (s.core n).cur (scaleAddrOf d scale g.srcMode g.srcPos) 2 false)
  | _ => true

/-- Statistics of a written value (R148, R182): ENG_MAX, and with MODE 2 the channel's maximum. -/
def State.engineStats (s : State) (n e mode chan : Nat) (t : Nat) (v : Int × Int) (raw : Nat) : State :=
  let m : Nat :=
    if etIsFloat t then
      (match fdecode (etFmt t) raw with
       | .nan => 0
       | x => (fround fmtFP32 x).1 % 2 ^ 31)
    else max v.1.natAbs v.2.natAbs
  let i := 0x8000 + n
  let s1 := s.put i (0x40 + 2 * e) (max (s.get i (0x40 + 2 * e)) m)
  if mode = 0 then s
  else if mode = 2 then
    let b := s1.blobAt i (0x41 + 2 * e)
    let b := if b.length = 2048 then b else List.replicate 2048 0#8
    let c := chan % 256
    s1.putBlob i (0x41 + 2 * e) (b.take (8 * c) ++ bytesOf 8 (max (fieldOf b (8 * c) 8) m) ++ b.drop (8 * c + 8))
  else s1

/-- The state with a 6-bit tag put on every word of a block (R133). -/
def State.tagBlock (s : State) (a n t : Nat) : State := { s with tags := tagRange s.tags a n (BitVec.ofNat 6 t) }

/-- A write of an engine of a Court: to memory of the chip, to the Tally window, or out of the chip. Data that leaves the chip carries its
address. A write to a cached range of a core invalidates its line (R108). -/
def State.engineStore (s : State) (court a n v : Nat) : State :=
  if inTally a n then s.tallyWrite a (bytesOf n v) fun s => s.violation court
  else if remoteBase ≤ a then s.emit (.data 1 a (bytesOf n v)) else (s.store n a v).dropCached a n

/-- A destination line that a unit writes: its address, and whether it is of the scale stream. -/
abbrev LineRef := Nat × Bool

/-- A line of the destination is begun where it is not the present one of its stream: it counts in LINES, and outside the core's own memory takes a
credit (R175, R176). None where the credit is missing. -/
def takeLine (n : Nat) (l : LineRef) (r : MoveRun) : Option MoveRun :=
  let line := l.1 / 128
  if (if l.2 then r.g.lastScale else r.g.lastLine) = some line then some r
  else
    let g := if l.2 then { r.g with lastScale := some line, lines := r.g.lines + 1 } else { r.g with lastLine := some line, lines := r.g.lines + 1 }
    let r1 := { r with s := r.s.countCore n 0x30 1 }
    if inOwnMemory n (line * 128) 128 ∨ inTally l.1 1 then some { r1 with g := g }
    else
      let p := destPort l.1
      if r.g.outstanding.length < 16 ∧ Tbl.get 0 r.s.credits p < portTotal p then
        some { r1 with g := { g with outstanding := r.g.outstanding ++ [p] },
                       s := { r1.s with credits := Tbl.upd 0 r1.s.credits p fun c => c + 1 } }
      else none

/-- Every line that a unit writes is begun, or none. -/
def takeLines (n : Nat) : List LineRef → MoveRun → Option MoveRun
  | [], r => some r
  | l :: t, r => (takeLine n l r).bind (takeLines n t)

/-- The lines of z bytes at an address. -/
def linesOf (a z : Nat) : List LineRef := (List.range ((a + z + 127) / 128 - a / 128)).map fun i => (a / 128 * 128 + 128 * i, false)

/-- An element of an uplink symbol that saturates in CI16: its PRB is counted on the port once and sets PROT (R138). -/
def bfpClamp (v : Int × Int) (r : MoveRun) : MoveRun :=
  match r.g.src with
  | .symbol w _ =>
    let p := r.g.srcPos
    let port := symPort0 w + p % symNport w
    let key := port * 512 + p / symNport w / 12
    let seen := if p % (12 * symNport w) = 0 then [] else r.g.clamped
    if (v.1 < sLo 16 ∨ sHi 16 < v.1 ∨ v.2 < sLo 16 ∨ sHi 16 < v.2) ∧ seen.contains key = false then
      let c := symCarrier w
      { r with s := (r.s.bump (0x2200 + r.s.portOf c port) 0x0A).violation (r.s.carrierCourt c), g := { r.g with clamped := key :: seen } }
    else { r with g := { r.g with clamped := seen } }
  | _ => r

/-- The next tag of a physical engine's counter (R134, R182). -/
def nextTag (t : Nat) : Nat := t % 63 + 1

/-- Whether the position of a destination tensor is the last one of its block, or of its row (R182). -/
def blockEnds (d : BitVec 512) (p : Nat) : Bool :=
  let i := p % tdCount0 d
  i % 8 == 7 || i + 1 == tdCount0 d

/-- Exact values of an SB block's parts as integers, rounded towards minus infinity where the exponent is negative (R131; log entry 53). -/
def sbExact (t raw ent i : Nat) : Int × Int :=
  let e := signed 8 (ent % 256)
  let m := fun j => if t = 10 then signed 8 (raw / 256 ^ j) else signed 4 (raw / 16 ^ j)
  let f := fun (x : Int) => if ent % 256 = 0x80 then 0 else if 0 ≤ e then x * (2 ^ e.toNat : Nat) else x / (2 ^ (-e).toNat : Nat)
  (f (m (2 * i)), f (m (2 * i + 1)))

/-- One element towards an SB destination: it is gathered, and a block is written with its last element, data, scale entry and tag together (R131,
R133, R134, R182). A copy takes the block of the source as it stands. -/
def moveToBlock (n e : Nat) (d : BitVec 512) (base scale : Nat) (r : MoveRun) : MoveRun :=
  let t := tdType d
  let z := unitBytes t
  let a := unitAddr d base r.g.dstMode r.g.dstPos
  let sa := scaleAddrOf d scale r.g.dstMode r.g.dstPos
  let court := ((r.s.core n).ctx (r.s.core n).cur).court
  let chan := tdIndex d r.g.dstMode r.g.dstPos 0
  let copy := sideType r.g.src == t
  let v := if copy then (((0, 0), 0), r.ext) else srcValue r.s r.g r.ext
  let adv := { r.g with srcPos := r.g.srcPos + 1, dstPos := r.g.dstPos + 1 }
  let blk := r.g.blk ++ [v.1.1.1, v.1.1.2]
  let s0 := if copy then r.s else r.s.engineStats n e r.g.statMode chan 5 v.1.1 0
  if ¬ blockEnds d r.g.dstPos then { r with s := s0, g := { adv with blk := blk }, ext := v.2 }
  else match takeLines n [(a, false), (sa, true)] { r with s := s0 } with
    | none => { r with wait := .credit r.left r.exhaust }
    | some r1 =>
      let adv := { r1.g with srcPos := r.g.srcPos + 1, dstPos := r.g.dstPos + 1, blk := [] }
      let far : Bool := xspiBase ≤ a || inTally a z
      match r.g.src, copy with
      | .tensor d2 b2 s2, true =>
        let a2 := unitAddr d2 b2 r.g.srcMode r.g.srcPos
        let raw := readUnit r.s r.ext a2 z
        let ent := readUnit r.s raw.2 (scaleAddrOf d2 s2 r.g.srcMode r.g.srcPos) 2
        let s1 := r1.s.engineStore court a z raw.1
        let s2 := if far then s1
          else { s1 with tags := (List.range (z / 8)).foldl (fun ts i =>
            Tbl.set 0#6 ts (a / 8 + i) (Tbl.get 0#6 r.s.tags (a2 / 8 + i))) s1.tags }
        let s3 := (List.range (chan % 8 + 1)).foldl (fun (s : State) i =>
          s.engineStats n e r.g.statMode (chan / 8 * 8 + i) 5 (sbExact t raw.1 ent.1 i) 0) s2
        { r1 with s := s3.engineStore court sa 2 ent.1, g := adv, ext := ent.2 }
      | _, _ =>
        let w := if t = 10 then 8 else 4
        let q := toSb (blk ++ List.replicate (16 - blk.length) 0) w
        let data := (q.2.zipIdx).foldl (fun acc m => acc + wrapTo w m.1 * 2 ^ (w * m.2)) 0
        let p := r.s.physEngine n e
        let tag := (r.s.core n).tagCtr p
        let s1 := r1.s.engineStore court a z data
        let s2 := if far then s1 else s1.tagBlock a z tag
        let s3 := s2.engineStore court sa 2 (q.1 % 256 + tag * 256)
        { r1 with s := s3.updCore n fun c => { c with tagCounter := Tbl.set 1 c.tagCounter p (nextTag tag) }, g := adv, ext := v.2 }

/-- One element to a memory tensor. -/
def moveToTensor (n e : Nat) (d : BitVec 512) (base scale : Nat) (r : MoveRun) : MoveRun :=
  let t := tdType d
  let st := sideType r.g.src
  let a := unitAddr d base r.g.dstMode r.g.dstPos
  let z := unitBytes t
  let k := (r.s.core n).cur
  if ¬ r.s.engineReach n k a z true ∨ ¬ r.s.srcReach n r.g
      ∨ (isSb t ∧ ¬ r.s.engineReach n k (scaleAddrOf d scale r.g.dstMode r.g.dstPos) 2 true) then { r with fault := some 3 }
  else if isSb t then moveToBlock n e d base scale r
  else match takeLines n (linesOf a z) r with
    | none => { r with wait := .credit r.left r.exhaust }
    | some r1 =>
      let v := srcValue r.s r.g r.ext
      let q := v.1.1
      let w : Int × Int := if st = t then q else (clampInt (sLo 16) (sHi 16) q.1, clampInt (sLo 16) (sHi 16) q.2)
      let enc : Nat := if st = t then v.1.2 else wrapTo 16 w.1 + wrapTo 16 w.2 * 2 ^ 16
      let r2 := bfpClamp q { r1 with s := r1.s.engineStore ((r.s.core n).ctx k).court a z enc }
      { r2 with s := r2.s.engineStats n e r.g.statMode (tdIndex d r.g.dstMode r.g.dstPos 0) (if st ≤ 9 then st else 5) w v.1.2,
                g := { r2.g with srcPos := r.g.srcPos + 1, dstPos := r.g.dstPos + 1 }, ext := v.2 }

/-- One element to a downlink symbol: PRBs are compressed and written when their twelve resource elements are there. Before its first write the
engine waits until the transmit window of symbol n − DEPTH has closed and writes the header (R187); the presence map is cleared where the slot held
another symbol. Statistics are of the values as written (R148). -/
def moveToSymbol (n e : Nat) (w : BitVec 64) (sym : BitVec 32) (r : MoveRun) : MoveRun :=
  let c := symCarrier w
  let p := r.g.dstPos
  let port := symPort0 w + p % symNport w
  let sc := p / symNport w
  let prb := symPrb0 w + sc / 12
  let tb := r.s.carTb c
  let old := (sym.toNat + 2 ^ 32 - r.s.carDepth c true) % 2 ^ 32
  let v := srcValue r.s r.g r.ext
  let mw := r.s.areaWidth c true
  let a := r.s.prbAddr c true sym.toNat port prb
  let part := Tbl.set (0, 0) r.g.part (port * 16 + sc % 12) v.1.1
  let adv := fun (g : Engine) => { g with srcPos := r.g.srcPos + 1, dstPos := p + 1, part := part }
  if r.g.opened = false ∧ ¬ r.s.passed tb (r.s.dlClose c old) then { r with wait := .slot r.left r.exhaust }
  else if ¬ r.s.srcReach n r.g then { r with fault := some 3 }
  else if sc % 12 ≠ 11 then { r with g := adv r.g, ext := v.2 }
  else match takeLines n (linesOf a (prbBytes mw)) r with
    | none => { r with wait := .credit r.left r.exhaust }
    | some r1 =>
      let s1 := if r.g.opened then r1.s
        else
          let h := r1.s.slotHeader c true sym.toNat (tcToAirpos (r.s.tbMu tb) (r.s.tbEcp tb) (r.s.symStartTc tb sym.toNat))
          if r.s.slotSymbol c true sym.toNat = sym.toNat then h else h.clearPresence c true sym.toNat
      let b := prbStored mw ((List.range 12).flatMap fun i => let x := Tbl.get (0, 0) part (port * 16 + i); [x.1, x.2])
      let s2 := (List.range 12).foldl (fun (s : State) i => s.engineStats n e r.g.statMode (p % symNport w) 5 (prbElem mw b i) 0) s1
      { r1 with s := (s2.storeBytes a b).setPresent c true sym.toNat port prb, g := { adv r1.g with opened := true }, ext := v.2 }

/-- One element of a MOVE. Before a line of an uplink symbol is read, its slot's symbol number is compared: reason 0x09 (R186). -/
def moveUnit (n e : Nat) (r : MoveRun) : MoveRun :=
  let reuse : Bool := match r.g.src with
    | .symbol w sym => r.s.slotSymbol (symCarrier w) false sym.toNat != sym.toNat
    | _ => false
  if reuse then
    { r with fault := some 9, s := (match r.g.src with
        | .symbol w _ => r.s.bump (0x2380 + symCarrier w) 6
        | _ => r.s) }
  else match r.g.dst with
    | .tensor d base scale => moveToTensor n e d base scale r
    | .symbol w sym => moveToSymbol n e w sym r
    | .none => { r with fault := some 4 }

/-- Units until the count is moved, a side is exhausted, or the engine faults or waits. -/
def moveLoop (n e : Nat) : Nat → MoveRun → MoveRun
  | 0, r => r
  | k + 1, r =>
    if r.fault.isSome ∨ r.wait ≠ .none ∨ (r.exhaust = false ∧ r.left = 0) ∨ sideTotal r.g.src ≤ r.g.srcPos
        ∨ sideTotal r.g.dst ≤ r.g.dstPos then r
    else
      let r' := moveUnit n e r
      moveLoop n e k { r' with left := r.left - (r'.g.srcPos - r.g.srcPos) }

/-- Runs a MOVE with `left` elements to go and writes its engine back: advanced, waiting or faulted. -/
def State.runMove (s : State) (n e : Nat) (g : Engine) (left : Nat) (exhaust : Bool) (ext : List Byte) : State :=
  let fuel := min (if exhaust then sideTotal g.src else left) (sideTotal g.src - g.srcPos)
  let r := moveLoop n e fuel { s := s, g := g, left := left, exhaust := exhaust, ext := ext }
  let k := (s.core n).cur
  match r.fault with
  | some f => (r.s.setEngine n k e r.g).engineFault n e f
  | none =>
    if r.wait = .none then r.s.setEngine n k e r.g.advance
    else r.s.setEngine n k e { r.g with state := .wait, wait := r.wait, waitStart := r.s.auditAir }

/-- MOVE: COUNT elements, or until a side is exhausted; reason 0x04 for a conversion Table 8.5 does not give. `read` tells what its reads meet:
reason 0x0C for an uncorrectable error, a count for one corrected in core memory. `ext` is what reads outside the chip return (R76, R177, R178,
Table 8.5). -/
def execMove (x : StreamIssue) (read : EccFind) (ext : List Byte) (s : State) : Answer :=
  .next (s.onEngine x 3 (stBits x 32 26 == 0) fun g s =>
    let n := x.core.val
    let from_ := match g.src with
      | .tensor d base _ => unitAddr d base g.srcMode g.srcPos
      | _ => remoteBase
    if ¬ convOk (sideType g.src) (sideType g.dst) then s.engineFault n x.engine 4
    else if read = .uncorrectable then s.engineFault n x.engine 0x0C
    else
      let s := if read = .corrected ∧ from_ < 64 * Config.coreMemBytes then s.bump (0x8000 + from_ / Config.coreMemBytes) 6 else s
      s.runMove n x.engine { g with lastLine := none, lastScale := none } (stBits x 0 32) (stBits x 0 32 == 0) ext)

/-! ### Control -/

/-- STREAM_LOOP: level LVL over the following instructions to END (R179). -/
def execStreamLoop (x : StreamIssue) (s : State) : Answer :=
  .next (s.onEngine x 4 (stBits x 32 18 == 0) fun g s =>
    let k := stBits x 56 2
    let e := stBits x 51 5
    let n : BitVec 32 := if stBits x 50 1 = 1 then g.arg else BitVec.ofNat 32 (stBits x 0 32)
    let inner := [1, 2, 3].all fun j => decide (j ≤ k) || Tbl.get 0#32 g.loopCount j == 0#32
    let outer := [0, 1, 2].all fun j => decide (k ≤ j) || Tbl.get 0#32 g.loopCount j == 0#32 || decide (e ≤ Tbl.get 0 g.loopEnd j)
    if ¬ inner ∨ ¬ outer ∨ e < g.pc then s.engineFault x.core x.engine 1
    else if n = 0#32 then s.setEngine x.core (s.core x.core).cur x.engine { g with pc := e + 1 }
    else s.setEngine x.core (s.core x.core).cur x.engine
      { g with loopCount := Tbl.set 0#32 g.loopCount k n, loopStart := Tbl.set 0 g.loopStart k (g.pc + 1),
               loopEnd := Tbl.set 0 g.loopEnd k e, pc := g.pc + 1 })

/-- Whether a Tally can be named by an engine: a symbol-count Tally, or one of its Court's pools. -/
def State.engineTally (s : State) (n t : Nat) : Bool := isSymbolTally t || s.tallyOwned n t

/-- WAITT: waits until the Tally's count has reached the target (R178); reason 0x06 for a Tally not in the Court's pools. -/
def execWaitt (x : StreamIssue) (s : State) : Answer :=
  .next (s.onEngine x 5 (stBits x 48 9 == 0) fun g s =>
    let t := stBits x 32 16
    let target : BitVec 32 := BitVec.ofNat 32 (stBits x 0 32) + (if stBits x 57 1 = 1 then g.arg else 0#32)
    if ¬ s.engineTally x.core t then s.engineFault x.core x.engine 6
    else if tallyReached (s.tally t).count target then s.endInstr x g
    else s.setEngine x.core (s.core x.core).cur x.engine { g with state := .wait, wait := .tally t target, waitStart := s.auditAir })

/-- STREAM_TADD: adds AMOUNT to a Tally of the Court (R181). -/
def execStreamTadd (x : StreamIssue) (s : State) : Answer :=
  .next (s.onEngine x 6 (stBits x 48 10 == 0) fun g s =>
    let t := stBits x 32 16
    if ¬ s.tallyOwned x.core t ∨ isSymbolTally t then s.engineFault x.core x.engine 6
    else (s.jobTallyAdd (s.core x.core).curCtx.job t (BitVec.ofNat 32 (stBits x 0 32))).endInstr x g)

/-- Whether the declared order permits a wait on pool p by a job that holds handles (R191). -/
def State.holdPermitted (s : State) (j p : Nat) : Bool :=
  (s.handlesOf j).all fun e => (s.pool p).holdMap.getLsbD (e / 1024) || e / 1024 == p && (s.pool p).holdMap.getLsbD p

/-- A handle enters Hk of an engine. -/
def State.giveHandle (s : State) (n k e hk : Nat) (g : Engine) (q : Nat) : State :=
  match s.takeHandle q ((s.core n).ctx k).job with
  | some r => r.2.2.setEngine n k e ({ g with handles := Tbl.set none g.handles hk (some (r.1, r.2.1)) }).advance
  | none => s

/-- HGET: takes a handle or waits; reason 0x05 into a valid Hk, 0x06 for a queue not the Court's, 0x08 against the declared
order (R191). -/
def execHget (x : StreamIssue) (s : State) : Answer :=
  .next (s.onEngine x 7 (stBits x 0 48 == 0) fun g s =>
    let c := s.core x.core
    let hk := stBits x 56 2
    let q := queueKey c.curCtx.court (stBits x 48 8)
    if ¬ (s.hqueue q).live then s.engineFault x.core x.engine 6
    else if (Tbl.get none g.handles hk).isSome then s.engineFault x.core x.engine 5
    else if ¬ s.holdPermitted c.curCtx.job (s.hqueue q).pool then s.engineFault x.core x.engine 8
    else if (s.hqueue q).items = [] then
      s.setEngine x.core c.cur x.engine { g with state := .wait, wait := .handle hk q, waitStart := s.auditAir }
    else s.giveHandle x.core c.cur x.engine hk g q)

/-- HPUT: enqueues Hk after the engine's earlier writes and clears it; reasons 0x05, 0x06 and 0x07 (R181, R189). -/
def execHput (x : StreamIssue) (s : State) : Answer :=
  .next (s.onEngine x 8 (stBits x 0 48 == 0) fun g s =>
    let c := s.core x.core
    let hk := stBits x 56 2
    let q := queueKey c.curCtx.court (stBits x 48 8)
    match Tbl.get none g.handles hk with
    | none => s.engineFault x.core x.engine 5
    | some ph =>
      if ¬ (s.hqueue q).live then s.engineFault x.core x.engine 6
      else if (s.hqueue q).pool ≠ ph.1 ∨ Tbl.get 0 s.heldBy (handleKey ph.1 ph.2) ≠ c.curCtx.job then
        s.engineFault x.core x.engine 7
      else ((s.carryBuffer c.curCtx.job ph.1 ph.2 q).putHandle q ph.2 c.curCtx.job).setEngine x.core c.cur x.engine
        ({ g with handles := Tbl.set none g.handles hk none }).advance)

/-- TAGSET: the tag counter of the physical engine; with CONT it keeps its value. T0 is 1 to 63. -/
def execTagset (x : StreamIssue) (s : State) : Answer :=
  .next (s.onEngine x 9 (stBits x 7 51 == 0 && (stBits x 6 1 == 1 || stBits x 0 6 != 0)) fun g s =>
    let p := s.physEngine x.core x.engine
    let s1 := if stBits x 6 1 = 1 then s
      else s.updCore x.core fun c => { c with tagCounter := Tbl.set 1 c.tagCounter p (stBits x 0 6) }
    s1.endInstr x g)

/-- AMODE: modulo, bit-reversed or linear indexing of a dimension of a bound side; reason 0x01 otherwise (R180). -/
def execAmode (x : StreamIssue) (s : State) : Answer :=
  .next (s.onEngine x 0xA (stBits x 32 20 == 0 && decide (stBits x 55 2 ≤ 2)) fun g s =>
    let dst := stBits x 57 1 == 1
    let dim := stBits x 52 3
    let prm := stBits x 0 32
    let side := if dst then g.dst else g.src
    let m : IdxMode := if stBits x 55 2 = 0 then {} else { mode := stBits x 55 2, param := if stBits x 55 2 = 1 then prm else 0 }
    match side with
    | .tensor d _ _ =>
      let n := tdCnt d dim
      let ok := decide (dim < tdNdim d) && (if stBits x 55 2 = 1 then decide (1 ≤ prm ∧ prm ≤ n)
        else if stBits x 55 2 = 2 then decide (2 ^ Nat.log2 n = n) else true)
      if ok then s.endInstr x (if dst then { g with dstMode := Tbl.set {} g.dstMode dim m }
        else { g with srcMode := Tbl.set {} g.srcMode dim m })
      else s.engineFault x.core x.engine 1
    | _ => s.engineFault x.core x.engine 1)

/-- STATS: the statistics mode; with CLR the engine's maxima are cleared (R182). -/
def execStats (x : StreamIssue) (s : State) : Answer :=
  .next (s.onEngine x 0xB (stBits x 0 47 == 0 && stBits x 48 8 == 0 && decide (stBits x 56 2 ≤ 2)) fun g s =>
    let i := 0x8000 + x.core.val
    let e := x.engine.val
    let s1 := if stBits x 47 1 = 1 then (s.put i (0x40 + 2 * e) 0).putBlob i (0x41 + 2 * e) (List.replicate 2048 0#8) else s
    s1.endInstr x { g with statMode := stBits x 56 2 })

/-- STREAM_END: the program ends; reason 0x0B with a valid handle register. -/
def execStreamEnd (x : StreamIssue) (s : State) : Answer :=
  .next (s.onEngine x 0x3F (stBits x 0 58 == 0) fun g s =>
    if (List.range 4).any fun k => (Tbl.get none g.handles k).isSome then s.engineFault x.core x.engine 0x0B
    else s.setEngine x.core (s.core x.core).cur x.engine { g with state := .ended, wait := .none })

end Sys2Proof.Machine
end

