-- ==== Sys2Proof/Machine/HostRing.lean ====
section
/-! DEFINITION. Host rings, result records and MSI-X (R376 to R383), and instants on the model's own clock. -/

namespace Sys2Proof.Machine

open Sys2Proof

/-- The count on the model's own clock of an instant of a time base, given as a Tc count of one AIRPOS period. It never
wraps, so it orders use times and ends of loads over any span. -/
def State.mono (s : State) (tb tc : Nat) : Int := (s.clock : Int) + airDiff (s.tb tb).tc tc

/-- The Tc count of time base `tb` at a count of the model's own clock. -/
def State.ofMono (s : State) (tb : Nat) (m : Int) : Nat := (((s.tb tb).tc + (m - s.clock)) % (airPeriod : Int)).toNat

/-- An instant given as a Tc count of one AIRPOS period, the present one, and the Tc count of an instant. -/
def State.instantAt (s : State) (tb tc : Nat) : Instant := ⟨tb, s.countOf tb tc⟩
def State.instantNow (s : State) (tb : Nat) : Instant := ⟨tb, ((s.tb tb).tc : Int)⟩
def Instant.tc (i : Instant) : Nat := (i.count % (airPeriod : Int)).toNat

/-- Whether instant a lies before instant b: on one time base by their counts, otherwise as TAI instants (R35); instants that lie far apart are
told by how long ago they were. -/
def State.instantBefore (s : State) (a b : Instant) : Bool :=
  let d := (((s.tb a.tb).tc : Int) - a.count) - (((s.tb b.tb).tc : Int) - b.count)
  if a.tb = b.tb then decide (a.count < b.count)
  else if ((airPeriod / 4 : Nat) : Int) ≤ d.natAbs then decide (0 < d)
  else keyBefore (s.taiKey a.tb a.tc) (s.taiKey b.tb b.tc)

/-- An instant on another time base, through TAI (R35). -/
def State.onBase (s : State) (tb : Nat) (i : Instant) : Instant :=
  if i.tb = tb then i
  else s.instantAt tb (((s.taiKey i.tb i.tc : Int) + asI64 (s.get (0x2000 + tb * 16) 4)) % (airPeriod : Int)).toNat

/-- Whether at least `us` microseconds lie between two counts. -/
def spansUs (us : Nat) (a b : Int) : Bool := decide ((us : Int) * 196608 ≤ (b - a) * 100)

/-! ### Violations -/

/-- A host partner violation of a function: HOST_VIOLATIONS and PROT (R399). -/
def State.hostViolation (s : State) (f : Nat) : State := (s.bump (0x2410 + f) 2).violation f

/-! ### Rings -/

def State.func (s : State) (f : Nat) : Func := Tbl.get {} s.funcs f
def State.setFunc (s : State) (f : Nat) (x : Func) : State := { s with funcs := Tbl.set {} s.funcs f x }
def State.ring (s : State) (f q : Nat) : Ring := Tbl.get {} (s.func f).rings q
def State.setRing (s : State) (f q : Nat) (r : Ring) : State :=
  s.setFunc f { s.func f with rings := Tbl.set {} (s.func f).rings q r }
def Ring.enabled (r : Ring) : Bool := r.ctrl % 2 == 1
def Ring.irq (r : Ring) : Bool := r.ctrl / 2 % 2 == 1
/-- Entries, or 64-byte units, of a ring (R378). -/
def Ring.cap (r : Ring) : Nat := 2 ^ (r.size % 32)
/-- Vector of a ring: 0 of RP, 1 to 4 of the result rings (R383). -/
def ringVector (q : Nat) : Option Nat := if q = 1 then some 0 else if 6 ≤ q ∧ q ≤ 9 then some (q - 5) else none

/-- Whether an address is host memory that the device reaches (R376). -/
def hostReach (a n : Nat) : Bool := decide (hostBase ≤ a) && decide (a + n ≤ 2 * hostBase)

/-- The device index of a ring advances: it is written to the status block, then its vector becomes pending (R379, R383). -/
def State.advanceDev (s : State) (f q n : Nat) : State :=
  let r := s.ring f q
  let d := r.dev + BitVec.ofNat 32 n
  let s1 := s.setRing f q { r with dev := d }
  let s2 := if (s1.func f).statusAddr = 0 then s1 else s1.emit (.data 2 ((s1.func f).statusAddr + 4 * q) (bytesOf 4 d.toNat))
  match ringVector q with
  | some v => if r.irq then s2.setFunc f { s2.func f with pend := (s2.func f).pend ||| BitVec.ofNat 8 (2 ^ v) } else s2
  | none => s2

/-- Bytes written into a ring at a unit position, wrapping at its end. -/
def State.ringWrite (s : State) (base unit cap pos : Nat) (b : List Byte) : State :=
  let p := pos % cap
  let room := (cap - p) * unit
  if b.length ≤ room then s.emit (.data 2 (base + p * unit) b)
  else (s.emit (.data 2 (base + p * unit) (b.take room))).emit (.data 2 base (b.drop room))

/-- Free units of a ring the device produces. -/
def Ring.space (r : Ring) : Nat := r.cap - (r.dev - r.host).toNat

/-! ### Result records (R218, R263, R368, R381, R382) -/

/-- Bytes of a list replaced from an offset. -/
def patch (b : List Byte) (off : Nat) (v : List Byte) : List Byte := b.take off ++ v ++ b.drop (off + v.length)

/-- A record as it is written: the DSW and the sample WRITTEN are those of the write. -/
def State.stampRecord (s : State) (f : Nat) (b : List Byte) : List Byte :=
  let kind := fieldOf b 0 1
  let b1 := patch b 6 (bytesOf 2 (s.dsw f))
  let air := bytesOf 8 (s.airNow (s.carTb (fieldOf b 4 1)))
  if kind = 0x81 ∨ kind = 0x82 then patch b1 36 air else if kind = 0x83 then patch b1 32 air else b1

/-- Held records are written while the ring has space (R382). -/
def State.drainHeld (s : State) (f q : Nat) : Nat → State
  | 0 => s
  | k + 1 =>
    let r := s.ring f q
    match r.held with
    | b :: t =>
      if b.length / 64 ≤ r.space then
        (((s.setRing f q { r with held := t }).ringWrite r.base 64 r.cap r.dev.toNat (s.stampRecord f b)).advanceDev f q
          (b.length / 64)).drainHeld f q k
      else s
    | [] => s

/-- A record falls due on result ring RSr of a function: written, held, or discarded (R382). -/
def State.record (s : State) (f r : Nat) (b : List Byte) : State :=
  let q := 6 + r
  let x := s.ring f q
  if x.enabled = false ∨ x.cap < b.length / 64 then s.hostViolation f
  else if x.held = [] ∧ b.length / 64 ≤ x.space then
    (s.ringWrite x.base 64 x.cap x.dev.toNat (s.stampRecord f b)).advanceDev f q (b.length / 64)
  else if (x.held.map List.length).sum + b.length ≤ 65536 then s.setRing f q { x with held := x.held ++ [b] }
  else s.hostViolation f

/-- An entry of the reply ring; the caller has seen that it has room. -/
def State.replyEntry (s : State) (f : Nat) (b : List Byte) : State :=
  let x := s.ring f 1
  (s.ringWrite x.base 64 x.cap x.dev.toNat b).advanceDev f 1 1

/-- Requests of a channel that are not answered: those whose reply waits, and those that wait behind them. -/
def State.unanswered (s : State) (key : Nat) : Nat :=
  (s.waits.filter fun w => w.chan == key && !w.dead).length + (s.queued.filter fun e => e.1 == key).length

/-- Whether the reply ring takes another entry, beside those of the requests not yet answered (R382). -/
def State.replyRoom (s : State) (f : Nat) : Bool := (s.ring f 1).enabled && decide (s.unanswered f + 1 ≤ (s.ring f 1).space)

/-- Data written to host memory through a function. -/
def State.hostWrite (s : State) (a : Nat) (b : List Byte) : State := if b = [] then s else s.emit (.data 2 a b)

end Sys2Proof.Machine
end

