-- ==== Sys2Proof/Machine/Link.lean ====
section
/-! DEFINITION. The Megorlink link layer: flits, credits, retry, trunks and routes (R293 to R305). Packets are the model's own layout: a
4-byte end-to-end sequence number, a 4-byte length, the contents (log entry 25). -/

namespace Sys2Proof.Machine

open Sys2Proof

def mpIx (p : Nat) : Nat := 0x2610 + p
def State.mport (s : State) (p : Nat) : MglPort := Tbl.get {} s.mgl.ports p
def State.setMport (s : State) (p : Nat) (x : MglPort) : State := { s with mgl := { s.mgl with ports := Tbl.set {} s.mgl.ports p x } }
/-- STATE of a port: 0 DOWN, 1 TRAINING, 2 UP, 3 FENCED, 4 MISMATCH. -/
def State.mportState (s : State) (p : Nat) : Nat := s.get (mpIx p) 4

/-! ### Flits (Table 13.1, R295) -/

def flitHeader (type vc cvc credits seq : Nat) (first last : Bool) (src dst kind : Nat) : Nat :=
  kind % 256 * 2 ^ 16 + dst % 32 * 2 ^ 24 + src % 32 * 2 ^ 29 + (if last then 2 ^ 34 else 0) + (if first then 2 ^ 35 else 0)
    + seq % 4096 * 2 ^ 36 + credits % 256 * 2 ^ 48 + cvc % 4 * 2 ^ 56 + vc % 4 * 2 ^ 58 + type % 16 * 2 ^ 60

/-- A flit: header, 256 bytes of payload, trailer with the CRC-32 over both and ACKSEQ, where a flit has been accepted. -/
def flitBytes (header : Nat) (payload : List Byte) (ack : Option Nat) : List Byte :=
  let b := bytesOf 8 header ++ payload.take 256 ++ List.replicate (256 - payload.length) 0#8
  b ++ bytesOf 8 ((crc32 b).toNat * 2 ^ 32 + (match ack with
    | some a => a % 4096 * 2 ^ 20 + 2 ^ 19
    | none => 0))

/-- ACKSEQ of a port: the sequence number before the expected one. -/
def MglPort.ack (x : MglPort) : Option Nat := some ((x.expect + 4095) % 4096)

/-- Codes of the packet kinds: 0 heartbeat, 1 Kickoff, 2 prepare, 3 vote, 4 retract, 5 decision, 6 query, 7 membership, 8 Tally addition,
9 relayed object access, 10 time-source sample, 11 partial sums, 12 weight-group sums, 13 accumulator records, 14 downlink layer values,
15 remote request, 16 remote response, 17 a forwarded slot order, 18 a symbol not sent for want of layer values, 19 a member's
count of C-plane messages for the coordinating chip (log entry 23). -/
def knownKind (k : Nat) : Bool := (List.range 20).any fun i => (Config.flitKind i).toNat == k

/-- A flit that is not DATA: an IDLE or a NAK, with the credits of one virtual channel. It takes no credit. -/
def State.sendControl (s : State) (p type seq vc : Nat) : State :=
  let x := s.mport p
  let c := (x.toReturn[vc]?).getD 0
  let s1 := s.emit (.data 7 (256 + p) (flitBytes (flitHeader type 0 vc c seq false false s.chip 0x1F 0) [] x.ack))
  s1.setMport p { x with toReturn := x.toReturn.set vc 0 }

/-- The bytes of a DATA flit at its transmission. -/
def State.dataFlit (s : State) (p seq : Nat) (f : TxFlit) : List Byte :=
  let x := s.mport p
  flitBytes (flitHeader 1 f.vc f.vc ((x.toReturn[f.vc]?).getD 0) seq f.first f.last f.src f.dst f.kind) f.payload x.ack

/-! ### Arbitration and credits (R296, R297) -/

/-- The rotation of 4, 2 and 1 flits of VC1, VC3 and VC2. -/
def vcPattern : List Nat := [1, 1, 1, 1, 3, 3, 2]

/-- Whether a virtual channel has a flit and a credit. -/
def MglPort.canSend (x : MglPort) (vc : Nat) : Bool :=
  (x.waiting.any fun f => f.vc == vc) && decide (0 < (x.credits[vc]?).getD 0) && decide (x.replay.length < 128)

/-- The channel served next, with the rotation's position after it: VC0 before the others. -/
def MglPort.pick (x : MglPort) : Option (Nat × Nat) :=
  if x.canSend 0 then some (0, x.rot)
  else ((List.range 7).map fun i => (x.rot + i) % 7).findSome? fun i =>
    let v := (vcPattern[i]?).getD 1
    if x.canSend v then some (v, (i + 1) % 7) else none

/-- The first transmission of waiting flits: each takes a credit, a sequence number and a place in the replay buffer. While a cut is taken
or held nothing is sent (Table 17.7). -/
def State.pump (s : State) (p : Nat) : Nat → State
  | 0 => s
  | n + 1 =>
    let x := s.mport p
    match if s.mportState p = 2 ∧ s.cut = false then x.pick else none with
    | some (vc, rot) =>
      match x.waiting.find? fun f => f.vc == vc with
      | some f =>
        let s1 := (s.emit (.data 7 (256 + p) (s.dataFlit p x.nextTx f))).countGlobal (0x1010 + p) 1
        (s1.setMport p { x with waiting := x.waiting.eraseP fun g => g.vc == vc, rot := rot, nextTx := (x.nextTx + 1) % 4096,
                                replay := x.replay ++ [(x.nextTx, f)], credits := x.credits.set vc ((x.credits[vc]?).getD 0 - 1),
                                toReturn := x.toReturn.set vc 0 }).pump p n
      | none => s
    | none => s

def State.pumpAll (s : State) (p : Nat) : State := s.pump p (s.mport p).waiting.length

/-! ### Trunks and routes (R294, R304, R305) -/

/-- Neighbours of a chip in a topology. -/
def topoPeers (topology size c : Nat) : List Nat :=
  if topology = 1 then [(c + 1) % max 1 size, (c + size - 1) % max 1 size]
  else if topology = 2 then
    [c / 4 * 4 + (c + 1) % 4, c / 4 * 4 + (c + 3) % 4, (c / 4 + 1) % 6 * 4 + c % 4, (c / 4 + 5) % 6 * 4 + c % 4]
  else if topology = 3 then (List.range size).filter fun d => d != c
  else []

/-- The chip a port meets: what it sent in training, else the expected peer; 0xFF none. -/
def State.peerOf (s : State) (p : Nat) : Nat := if s.mportState p = 2 then (s.mport p).peer else s.get (mpIx p) 2

/-- Neighbours of a chip, ascending: for this chip those its ports that are UP reach. Trunks of other chips are taken from the topology
and count as up (DESIGN CHOICE). `members` limits them to members. -/
def State.neighbours (s : State) (members : Bool) (c : Nat) : List Nat :=
  let up := ((List.range 8).filter fun p => s.mportState p == 2).map fun p => s.peerOf p
  let l := if c = s.chip then up else (topoPeers (s.get 0x2600 3) (s.get 0x2600 4) c).filter fun d => d != s.chip || up.contains c
  (List.range 24).filter fun d => l.contains d && (!members || s.isMember d)

/-- Chips reached within n more hops, each with its parent toward the root and its hops, in breadth-first order. -/
def State.spread (s : State) (members : Bool) : Nat → List (Nat × Nat × Nat) → List (Nat × Nat × Nat)
  | 0, t => t
  | n + 1, t =>
    let d := t.foldl (fun m e => max m e.2.2) 0
    let t' := (t.filter fun e => e.2.2 == d).foldl (fun (acc : List (Nat × Nat × Nat)) e =>
      (s.neighbours members e.1).foldl (fun acc c => if acc.any (fun x => x.1 == c) then acc else acc ++ [(c, e.1, d + 1)]) acc) t
    if t'.length = t.length then t else s.spread members n t'

/-- The breadth-first tree from chip h: (chip, parent, hops). -/
def State.tree (s : State) (members : Bool) (h : Nat) : List (Nat × Nat × Nat) := s.spread members 24 [(h, h, 0)]

/-- This chip's next hop toward chip c: on the tree over members, else over every chip. -/
def State.nextHop (s : State) (c : Nat) : Option Nat :=
  let at_ := fun (m : Bool) => ((s.tree m c).find? fun e => e.1 == s.chip).map fun e => e.2.1
  at_ true <|> at_ false

/-- The trees over the members in force, one for each (R305). -/
def State.serveTrees (s : State) : State :=
  let m := s.get 0x2600 5
  let new := ((List.range 24).filter m.testBit).map fun h => RouteTree.mk m h ((s.tree true h).map fun e => ⟨e.1, e.2.1, e.2.2⟩)
  { s with mgl := { s.mgl with trees := new ++ (s.mgl.trees.filter fun t => t.members != m).take 96 } }

/-- The tree of chip h over the members `m`, as its Serve time made it. -/
def State.treeOf (s : State) (m h : Nat) : List TreeNode :=
  match s.mgl.trees.find? fun t => t.members == m && t.root == h with
  | some t => t.nodes
  | none => (s.tree true h).map fun e => ⟨e.1, e.2.1, e.2.2⟩

/-- The next hop from chip `own` away from a tree's root, toward chip c: the reverse tree (R310). -/
def hopDown (t : List TreeNode) (own : Nat) : Nat → Nat → Option Nat
  | 0, _ => none
  | n + 1, c =>
    match t.find? fun e => e.chip == c with
    | some e => if e.parent = own ∧ c ≠ own then some c else if e.parent = c then none else hopDown t own n e.parent
    | none => none

/-- The port to which a trunk deals its next packet: its ports that are UP in rotation; else one that waits for its training. -/
def State.trunkPort (s : State) (nb : Nat) : Option Nat :=
  let up := (List.range 8).filter fun p => s.mportState p == 2 && s.peerOf p == nb
  if 24 ≤ nb then none
  else if up = [] then (List.range 8).find? fun p => s.get (mpIx p) 2 == nb || (s.mport p).peer == nb
  else (up.find? fun p => decide (Tbl.get 0 s.mgl.dealt nb ≤ p)) <|> up.head?

/-- Payloads of 256 bytes. -/
def chunks256 : Nat → List Byte → List (List Byte)
  | 0, _ => []
  | n + 1, b => if b.length ≤ 256 then [b] else b.take 256 :: chunks256 n (b.drop 256)

/-- A packet is dealt to the trunk of a neighbour as flits. -/
def State.deal (s : State) (nb vc kind src dst : Nat) (packet : List Byte) : State :=
  match s.trunkPort nb with
  | some p =>
    let l := chunks256 (packet.length + 1) packet
    let fs := (l.zipIdx).map fun (e : List Byte × Nat) => TxFlit.mk vc kind src dst (e.2 == 0) (e.2 + 1 == l.length) e.1
    let s1 := { s with mgl := { s.mgl with dealt := Tbl.set 0 s.mgl.dealt nb (p + 1) } }
    (s1.setMport p { s1.mport p with waiting := (s1.mport p).waiting ++ fs }).pumpAll p
  | none => s

/-- A packet of this chip for another: it takes the next end-to-end sequence number of its stream and leaves toward its next hop. One for
a chip that no trunk reaches is not sent. -/
def State.sendVia (s : State) (nb c vc kind : Nat) (b : List Byte) : State :=
  let k := c * 4 + vc
  let q := Tbl.get 0 s.mgl.e2eTx k
  let s1 := { s with mgl := { s.mgl with e2eTx := Tbl.set 0 s.mgl.e2eTx k ((q + 1) % 2 ^ 32) } }
  s1.deal nb vc (Config.flitKind kind).toNat s.chip c (bytesOf 4 q ++ bytesOf 4 b.length ++ b)

def State.sendMgl (s : State) (c vc kind : Nat) (b : List Byte) : State :=
  if c = s.chip then s
  else match s.nextHop c with
    | some nb => s.sendVia nb c vc kind b
    | none => s

/-- A packet of VC1 from this chip down its own tree over the members `m` (R305, R310). -/
def State.sendDown (s : State) (m c kind : Nat) (b : List Byte) : State :=
  match hopDown (s.treeOf m s.chip) s.chip 24 c with
  | some nb => s.sendVia nb c 1 kind b
  | none => s.sendMgl c 1 kind b

end Sys2Proof.Machine
end

