-- ==== Sys2Proof/Machine/Bench.lean ====
section
/-! DEFINITION. The Bench and the model library: references, pins, loads, evictions (R14, R206, R280 to R286, R489). -/

namespace Sys2Proof.Machine

open Sys2Proof

/-! ### The library -/

def State.model (s : State) (m : Nat) : LibModel := Tbl.get {} s.lib m
def State.resident (s : State) (m : Nat) : BenchModel := Tbl.get {} s.bench m
def State.loading (s : State) (m : Nat) : Bool := s.loads.any fun l => l.model == m

/-- Library bytes that models take, counted once (R386: 128 MB of models). -/
def State.libUsed (s : State) : Nat := (s.lib.map fun e => e.2.pages * 65536).sum
def libTotal : Nat := 134217728

/-- Model IDs that a value of an object names, where the object is one of CE_MODEL, WT_MODEL, DET_MODEL, ADAPT_MODEL and
PINS; none for another object (R284). -/
def modelsOf (key value : Nat) (bytes : List Byte) : Option (List Nat) :=
  let i := key / 256
  let b := key % 256
  if 0x4000 ≤ i ∧ i < 0x4020 ∧ 1 ≤ b ∧ b ≤ 3 then some [value]
  else if 0x4060 ≤ i ∧ i < 0x4070 ∧ b = 2 then some [value]
  else if 0x3220 ≤ i ∧ i < 0x3230 ∧ b = 1 then some (u16s (bytes.length / 2) bytes)
  else none

/-- Whether a model ID names a library model at all (R280). -/
def realModel (m : Nat) : Bool := m != 0 && m != 0xFFFF

/-- Models pinned by Court k in force (R280). -/
def State.pinnedBy (s : State) (k : Nat) : List Nat :=
  (((s.courtCarriers k).flatMap fun c => [s.get (0x4000 + c) 1, s.get (0x4000 + c) 2, s.get (0x4000 + c) 3])
    ++ [s.get (0x4060 + k) 2] ++ u16s 64 (s.blobAt (0x3220 + k) 1)).filter realModel |>.eraseDups

/-- A model is pinned while a carrier default, of a carrier in no Court too, ADAPT_MODEL or PINS in force names it. -/
def State.isPinned (s : State) (m : Nat) : Bool :=
  ((List.range 16).any fun k => (s.pinnedBy k).contains m)
    || realModel m && (List.range 32).any fun c => [1, 2, 3].any fun b => s.get (0x4000 + c) b == m

/-- Whether a Rally's staged writes name a model. -/
def rallyNames (r : Rally) (m : Nat) : Bool :=
  r.staged.any fun w => match modelsOf w.key w.value w.bytes with
    | some l => l.contains m
    | none => false

/-- A model is referenced while an uncompleted job carries it or an open or unserved Rally names it (R280). -/
def State.isReferenced (s : State) (m : Nat) : Bool :=
  (s.jobs.any fun e => e.2.live && e.2.state != .completed && e.2.model == m)
    || s.rallies.any fun r => (r.state == .opened || r.state == .committed || r.state == .frozen) && rallyNames r m

/-! ### Pages -/

/-- Pages in service: 384 less the withheld (R286, R441). -/
def State.benchPagesTotal (s : State) : Nat :=
  ((List.range 384).filter fun p => Tbl.get 0 s.benchPages p != 0x30000).length
def State.benchFree (s : State) : List Nat := (List.range 384).filter fun p => Tbl.get 0 s.benchPages p == 0
def State.ownPages (s : State) (l : List Nat) (o : Nat) : State :=
  { s with benchPages := l.foldl (fun t p => Tbl.set 0 t p o) s.benchPages }
/-- Swap pages that a Court's swapped-out contexts take (R278). -/
def State.swapUsed (s : State) (k : Nat) : Nat := (s.swapped.filter fun w => w.ctx.court == k).length

/-- xSPI RAM channels with devices that are not fenced. -/
def State.xspiUp (s : State) : Nat := ((List.range 8).filter fun h => !s.isFenced 9 h && s.get (0x2510 + h) 2 != 0).length

/-- The page time P in Tc (R283); 0xFFFFFFFF while no channel is usable. -/
def State.pageTime (s : State) : Nat :=
  let h := s.xspiUp
  let d := s.get 0x3200 3 * 4000000 * h
  if h = 0 ∨ d = 0 then 0xFFFFFFFF else (65536 * 1966080000 + d - 1) / d

def State.loadTb (s : State) : Nat := s.get 0x3200 4 % 8

/-! ### Eviction (R281) -/

/-- Models that may be evicted, least recently used first, equal use times by ascending ID. -/
def insertModel (s : State) (m : Nat) : List Nat → List Nat
  | [] => [m]
  | a :: r =>
    let ua := (s.resident a).usedAt
    let um := (s.resident m).usedAt
    if s.instantBefore um ua ∨ (s.instantBefore ua um = false ∧ m < a) then m :: a :: r else a :: insertModel s m r

def State.evictable (s : State) : List Nat :=
  ((s.bench.filter fun e => e.2.live && !s.isReferenced e.1 && !s.isPinned e.1 && !s.loading e.1 && e.2.rally == 0).map fun e => e.1).foldl
    (fun l m => insertModel s m l) []

/-- A model leaves the Bench; its pages are free. -/
def State.dropModel (s : State) (m : Nat) : State :=
  { s.ownPages (s.resident m).pages 0 with bench := Tbl.set {} s.bench m {} }

/-- Models are evicted in order until at least `need` pages are free. -/
def State.evictUntil (s : State) (need : Nat) : List Nat → State
  | [] => s
  | m :: r => if need ≤ s.benchFree.length then s else ((s.dropModel m).bump 0x3200 9).evictUntil need r

/-! ### Loads (R283, R284) -/

/-- Whether a load of n pages can have them: free pages and those of every evictable model suffice. -/
def State.pagesSuffice (s : State) (n : Nat) : Bool :=
  decide (n ≤ s.benchFree.length + (s.evictable.map fun m => (s.resident m).pages.length).sum)

/-- The scheduled end of a load of n pages requested now. -/
def State.loadDue (s : State) (n : Nat) : Instant :=
  let now := s.instantNow s.loadTb
  let start := match s.loads.getLast? with
    | some l => max now.count (s.onBase s.loadTb l.due).count
    | none => now.count
  ⟨s.loadTb, start + (n * s.pageTime : Nat)⟩

/-- A load is requested: scheduled, or refused and counted (R281, R283). The lowest free pages are taken. -/
def State.requestLoad (s : State) (m rally : Nat) (demand : Bool) : State × Bool :=
  let x := s.model m
  if s.xspiUp = 0 ∨ x.live = false ∨ x.damaged ∨ s.pagesSuffice x.pages = false then (s.bump 0x3200 0x0B, false)
  else
    let s1 := s.evictUntil x.pages s.evictable
    let p := s1.benchFree.take x.pages
    let s2 := s1.ownPages p (0x10000 + m)
    ({ s2 with loads := s2.loads ++ [{ model := m, pages := p, due := s2.loadDue x.pages, rally := rally, demand := demand }] }, true)

/-- The first symbol boundary of LOAD_TB at or after an instant. -/
def State.boundaryFrom (s : State) (i : Instant) : Instant :=
  let j := s.onBase s.loadTb i
  if isBoundary (s.tbMu j.tb) (s.tbEcp j.tb) j.tc then j
  else { j with count := j.count + airDiff j.tc (nextBoundary (s.tbMu j.tb) (s.tbEcp j.tb) j.tc % airPeriod) }

/-- Whether a model serves a job released at an instant (R14, R284, R285). -/
def State.serves (s : State) (m : Nat) (released : Instant) : Bool :=
  (s.resident m).live && (match (s.resident m).usableFrom with
    | some u => !s.instantBefore released u
    | none => false)

/-- A demand load of a model a job fell back from (R285). -/
def State.demandLoad (s : State) (m : Nat) : State :=
  if s.get 0x3200 5 = 1 ∧ s.loading m = false ∧ (s.model m).damaged = false ∧ s.xspiUp ≠ 0 ∧ (s.model m).live
      ∧ (s.resident m).live = false then (s.requestLoad m 0 true).1
  else s

/-- A load ends without its model becoming resident: its pages are free. -/
def State.cancelLoad (s : State) (l : Load) : State :=
  { s.ownPages l.pages 0 with loads := s.loads.filter fun x => !(x == l) }

/-- A Rally ends unserved: loads in progress of it are cancelled; models it loaded stay, unpinned, and become usable at the next
boundary of LOAD_TB (R284). -/
def State.releaseRallyLoads (s : State) (id : Nat) : State :=
  let s1 := (s.loads.filter fun l => l.rally == id).foldl (fun s l => s.cancelLoad l) s
  let u := s1.boundaryFrom (s1.instantNow s1.loadTb)
  { s1 with bench := Tbl.mapV {} s1.bench fun x => if x.rally = id ∧ id ≠ 0 then { x with rally := 0, usableFrom := some u } else x }

/-- A Rally is served: the models it loaded are usable by jobs released from now on (R284). -/
def State.serveRallyLoads (s : State) (id : Nat) : State :=
  let at_ := match s.rallies.find? fun r => r.id == id with
    | some r => s.instantAt r.tb (s.tcOf r.tb r.serve % airPeriod)
    | none => s.instantNow s.loadTb
  { s with bench := Tbl.mapV {} s.bench fun x =>
      if x.rally = id ∧ id ≠ 0 then { x with rally := 0, usableFrom := some at_ } else x }

/-- Whether every load of a Rally has ended. -/
def State.loadsEnded (s : State) (id : Nat) : Bool := !(s.loads.any fun l => l.rally == id)

/-! ### Events -/

/-- BENCH_LOAD_REQUEST: a load of a model is requested for an open Rally (0: a demand load) (R283 to R285). -/
def execBenchLoadRequest (model : BitVec 16) (rally : BitVec 32) (s : State) : Answer :=
  let m := model.toNat
  let r := rally.toNat
  if s.loading m ∨ (s.resident m).live then .next s
  else if r = 0 then .next (s.demandLoad m)
  else if s.rallies.any fun x => x.id == r && x.state == .opened then
    let q := s.requestLoad m r false
    .next (if q.2 then q.1 else { q.1 with rallies := q.1.rallies.map fun x => if x.id = r then { x with loadRefused := true } else x })
  else .next s

/-- The Rally of a load is marked as one that cannot be served. -/
def State.failRallyLoad (s : State) (r : Nat) : State :=
  { s with rallies := s.rallies.map fun x => if x.id = r ∧ r ≠ 0 then { x with loadRefused := true } else x }

/-- BENCH_PAGE_LOADED: the next page of the load at the head of the timeline is checked against its CRC-32; a failed one is
read again from its mirror, and a second failure fails the load and marks the model damaged (R283). -/
def execBenchPageLoaded (crcOk : Bool) (s : State) : Answer :=
  match s.loads with
  | l :: t =>
    .next (if l.pages.length ≤ l.done then s
      else if crcOk then
        let b := ((s.model l.model).data.drop (l.done * 65536)).take 65536
        let a := 0xA000000 + (l.pages[l.done]?).getD 0 * 65536
        let s := (List.range 8).foldl (fun (s : State) h => s.countGlobal (0x1020 + h) 8192) s
        { s.storeBytes a b with loads := { l with done := l.done + 1, mirrored := false } :: t }
      else if l.mirrored = false then { s with loads := { l with mirrored := true } :: t }
      else
        let s1 := ((s.cancelLoad l).bump 0x3200 0x0A).failRallyLoad l.rally
        { s1 with lib := Tbl.upd {} s1.lib l.model fun x => { x with damaged := true } })
  | [] => .next s

/-- BENCH_LOAD_END: the load at the head is complete: its model is resident with the end as its use time, and becomes usable at
a boundary of LOAD_TB (a demand load) or at its Rally's Serve time (R281, R284, R285). -/
def execBenchLoadEnd (s : State) : Answer :=
  match s.loads with
  | l :: t =>
    .next (if l.done < l.pages.length then s
      else
        let now := s.instantNow l.due.tb
        let e := if l.due.count < now.count then now else l.due
        let open_ : Bool := s.rallies.any fun r => r.id == l.rally && (r.state == .opened || r.state == .committed || r.state == .frozen)
        let x : BenchModel := { live := true, pages := l.pages, usedAt := e, rally := if open_ then l.rally else 0,
                                usableFrom := if open_ then none else some (s.boundaryFrom e) }
        { s.bump 0x3200 8 with loads := t, bench := Tbl.set {} s.bench l.model x })
  | [] => .next s

end Sys2Proof.Machine
end

