-- ==== Sys2Proof/Machine/Report.lean ====
section
/-! DEFINITION. What the receivers of a user measure and what its result record reports of it (R204, R205, R219, Table 9.9). The order of the
FP32 operations of a field is the model's (log entry 169). -/

namespace Sys2Proof.Machine

open Sys2Proof

/-! ### FP32 arithmetic, one rounding each -/

def mul32 (a b : Nat) : Nat := (mpRound (fmul (dec32 a) (dec32 b))).1
def add32 (a b : Nat) : Nat := (mpRound (fadd (dec32 a) (dec32 b))).1

/-- A quotient. -/
def div32 (a b : Nat) : Nat :=
  match dec32 a, dec32 b with
  | .fin s m e, .fin t n k =>
    if n = 0 then (if m = 0 then fmtFP32.nanCode else withSign fmtFP32 (s != t) (overflowCode fmtFP32))
    else if e < k then (froundQ fmtFP32 (s != t) m (n * 2 ^ (k - e).toNat)).1 else (froundQ fmtFP32 (s != t) (m * 2 ^ (e - k).toNat) n).1
  | .inf s, .fin t _ _ => withSign fmtFP32 (s != t) (overflowCode fmtFP32)
  | .fin s _ _, .inf t => withSign fmtFP32 (s != t) 0
  | _, _ => fmtFP32.nanCode

/-- The square root of a value that is not negative: an integer root with 64 bits more and a sticky bit, rounded once. -/
def sqrt32 (a : Nat) : Nat :=
  match dec32 a with
  | .fin false m e =>
    let k : Nat := 64 + (e % 2).toNat
    let x := m * 2 ^ k
    let r := sqrtBits 48 x 0
    (froundDy fmtFP32 false (2 * r + if r * r = x then 0 else 1) ((e - k) / 2 - 1)).1
  | .inf false => overflowCode fmtFP32
  | _ => fmtFP32.nanCode

/-- Whether |x| × k exceeds a limit, of an FP32 encoding. -/
def exceeds32 (x k limit : Nat) : Bool :=
  match dec32 x with
  | .fin _ m e => if e < 0 then decide (limit * 2 ^ (-e).toNat < m * k) else decide (limit < m * k * 2 ^ e.toNat)
  | .inf _ => true
  | .nan => false

/-! ### Sums (R145, R219) -/

/-- FP32 values enter an XA96 sum. -/
def XAcc.enterAll (a : XAcc) (l : List (BitVec 32)) : XAcc := l.foldl (fun a x => (xa96Enter a (.fin false 0 0) (dec32 x.toNat)).1) a
/-- A sum rounded once to FP32. -/
def XAcc.fp32 (a : XAcc) : Nat := if a.nan then fmtFP32.nanCode else (xa96Deliver fmtFP32 a.value 1).1

/-- What a receiver job has found joins what is known of a user; `uci` bits that coding engines have set stand (R219, R236). -/
def Meas.join (m : Meas) (r : UserReport) (breeze : Bool) : Meas :=
  let fields := (((r.uciBits ++ [[], [], []]).take 3).zipIdx).map fun (e : List Byte × Nat) => if m.uci.getLsbD e.2 then (m.uciBits[e.2]?).getD [] else e.1
  { noise := m.noise.enterAll r.noise, error := m.error.enterAll r.error, power := m.power.enterAll r.power,
    freq := r.freq <|> m.freq, timing := r.timing <|> m.timing, prob := r.prob <|> m.prob,
    breeze := if r.noise = [] then m.breeze else breeze, uci := m.uci ||| r.uci, uciBits := if r.uci = 0#3 then m.uciBits else fields }

/-! ### Fields (Table 9.9) -/

/-- 10 log₁₀ of an FP32 value: FLOG times the FP32 image of 10 / ln 10. `set` names the built-in tables. -/
def tenLog (set x : Nat) : Nat := mul32 (sfLog 7 set x).1 0x408AF967

def Meas.sinr (m : Meas) (set : Nat) : Option Nat :=
  if m.noise.count = 0#32 then none else some (tenLog set (div32 (intToF fmtFP32 m.noise.count.toNat).1 m.noise.fp32))
/-- The ratio of error to magnitude under both EVM fields. -/
def Meas.evm (m : Meas) : Option Nat := if m.power.count = 0#32 then none else some (div32 m.error.fp32 m.power.fp32)
def Meas.evmDb (m : Meas) (set : Nat) : Option Nat := m.evm.map (tenLog set)
def Meas.evmPct (m : Meas) : Option Nat := m.evm.map fun q => mul32 0x42C80000 (sqrt32 q)

/-- The pass probability of a Breeze receiver from its SINR margin over the runtime table: 0.1, 0.9, and linear between. -/
def marginProb (sinr target : Nat) : Nat :=
  match fadd (dec32 sinr) (dec32 target).neg with
  | .fin false m e =>
    if flt (.fin false 3 0) (.fin false m e) then 0x3F666666
    else if e < 0 then (froundQ fmtFP32 false (3 * 2 ^ (-e).toNat + 8 * m) (30 * 2 ^ (-e).toNat)).1
    else (froundQ fmtFP32 false (3 + 8 * m * 2 ^ e.toNat) 30).1
  | .inf false => 0x3F666666
  | _ => 0x3DCCCCCD

/-- The pass probability of a user: what its detector gave, or of a Breeze detector what its SINR gives. -/
def Meas.pass (m : Meas) (set qm rate : Nat) : Option Nat :=
  if m.breeze then (m.sinr set).map fun x => marginProb x (Config.sinrTarget qm rate).toNat else m.prob.map BitVec.toNat

/-- f̂: PRIOR_FREQ plus the measured offset, which is 0 with one DMRS occasion and no PTRS (R204). -/
def userFreq (u : List Byte) (m : Meas) : Option Nat :=
  let prior := signed 32 (fieldOf u 44 4)
  let f := if (occasions u).length ≤ 1 ∧ (enDmrsCfg u).testBit 5 = false then some 0 else m.freq.map BitVec.toNat
  f.map fun x => add32 (froundQ fmtFP32 (decide (prior < 0)) prior.natAbs 1000).1 x

end Sys2Proof.Machine
end

