-- ==== Sys2Proof/Machine/Orders.lean ====
section
/-! DEFINITION. Slot orders: checks, job graphs, result and completion records (R12 to R20, R199 to R201, R206, R212 to R219,
R228, R246 to R248, R255, R261 to R263, R366 to R368, R381). -/

namespace Sys2Proof.Machine

open Sys2Proof

/-! ### Instants of a time base (R486) -/

def State.symsLater (s : State) (tb n t : Nat) : Nat := symbolsLater (s.tbMu tb) (s.tbEcp tb) n t % airPeriod
def State.symsEarlier (s : State) (tb n t : Nat) : Nat := symbolsEarlier (s.tbMu tb) (s.tbEcp tb) n (t + airPeriod) % airPeriod
def State.airOf (s : State) (tb t : Nat) : Nat := tcToAirpos (s.tbMu tb) (s.tbEcp tb) t
def State.slotSyms (s : State) (tb : Nat) : Nat := symsPerSlot (s.tbEcp tb)
/-- The longest symbol of a numerology. -/
def State.longSym (s : State) (tb : Nat) : Nat := if s.tbEcp tb then 40960 else symBase (s.tbMu tb) false + 1024

/-- Members of the system, and whether it has more than one chip (R303). -/
def State.memberCount (s : State) : Nat := ((List.range 24).filter fun c => (s.get 0x2600 5).testBit c).length
def State.multiChip (s : State) : Bool := decide (1 < s.memberCount)

/-- The Courts a function controls: its own, and for the physical function those whose virtual function is not enabled (R265). -/
def State.funcOfCourt (s : State) (k : Nat) : Nat := if k ≤ s.get 0x2400 4 then k else 0

/-- The configuration epoch of a Court, 16 for the device (R341). -/
def State.epochOf (s : State) (k : Nat) : Nat := s.getB k 0x1200 4

/-- Whether Breeze service is in force (R212, R255); the start-up state 0 counts as Breeze. -/
def State.breezeService (s : State) : Bool := decide (s.svc ≤ 1)

/-- Whether the bytes of a list from `off` are zero. -/
def zeroAt (b : List Byte) (off n : Nat) : Bool := fieldOf b off n == 0

/-- Whether every reserved bit of an order's body is zero (R216, R261, R367). -/
def orderReserved (b : List Byte) : Bool :=
  if orKind b = 1 then
    decide (fieldOf b 6 2 < 2) && decide (fieldOf b 30 2 < 2 ^ 14) && zeroAt b 32 32
      && (orUsers b).all fun u => zeroAt u 23 1 && decide (fieldOf u 24 2 < 2 ^ 14) && decide (fieldOf u 26 1 < 64)
        && decide (fieldOf u 27 1 < 32) && zeroAt u 33 1 && decide (fieldOf u 40 4 < 2 ^ 17) && zeroAt u 53 1
  else if orKind b = 2 then
    zeroAt b 6 2 && decide (fieldOf b 24 2 < 2 ^ 14) && zeroAt b 26 38
      && (orUsers b).all fun u => decide (fieldOf u 4 1 < 16) && zeroAt u 23 1 && decide (fieldOf u 24 2 < 2 ^ 14)
        && !(fieldOf u 26 1).testBit 3 && decide (fieldOf u 27 1 < 32) && zeroAt u 35 1 && zeroAt u 41 1 && zeroAt u 44 4
  else
    zeroAt b 30 34 && (List.range (orCount b)).all fun i =>
      let x := (b.drop (64 + 16 * i)).take 16
      decide (fieldOf x 0 2 < 4096) && zeroAt x 7 1 && zeroAt x 12 4

/-- LENGTH that an order kind's formula gives, and whether its count is in range. -/
def orderLength (b : List Byte) : Nat := 64 + (if orKind b = 3 then 16 else 64) * orCount b

/-- The REASON of the first failed check of a slot-order entry and its body (R381). -/
def entryReason (entry body : List Byte) (readable : Bool) : Option Nat :=
  let a := fieldOf entry 0 8
  let k := fieldOf entry 8 1
  let v := fieldOf entry 9 1
  let n := fieldOf entry 10 2
  if fieldOf entry 12 4 ≠ 0 then some 1
  else if a % 64 ≠ 0 ∨ hostReach a (max 64 n) = false then some 3
  else if readable = false then some 4
  else if k < 1 ∨ 3 < k ∨ v ≠ 1 ∨ orKind body ≠ k ∨ fieldOf body 1 1 ≠ v ∨ fieldOf body 2 2 ≠ n ∨ n ≠ orderLength body
      ∨ n < 64 ∨ (k ≠ 3 ∧ (orCount body < 1 ∨ 64 < orCount body)) then some 2
  else if orderReserved (body.take n) = false then some 1
  else none

/-- The ring error record (Table 16.10). -/
def errorRecord (q reason index : Nat) (entry : List Byte) : List Byte :=
  [0x80#8, 1#8, 64#8, 0#8] ++ bytesOf 1 q ++ bytesOf 1 reason ++ bytesOf 2 0 ++ bytesOf 4 index ++ bytesOf 4 0
    ++ (entry ++ List.replicate 16 0#8).take 16 ++ List.replicate 32 0#8

/-! ### Validity (R217, R262, R368) -/

/-- 2^a × 3^b × 5^c. -/
def smooth (n : Nat) : Bool :=
  let r := fun p n => (List.range 13).foldl (fun m _ => if m % p = 0 ∧ 0 < m then m / p else m) n
  r 5 (r 3 (r 2 n)) == 1

/-- SLOT is canonical on the carrier's numerology and a slot boundary. -/
def State.slotOk (s : State) (c air : Nat) : Bool :=
  let tb := s.carTb c
  airCanonical (s.tbMu tb) (s.tbEcp tb) air && apSym air == 0 && apOff air == 0

/-- CARRIER is an enabled carrier of the direction, of a Court that the function controls. -/
def State.carrierOk (s : State) (f c : Nat) (dl : Bool) : Bool :=
  decide (c < 32) && (if dl then s.carDl c else s.carUl c) && s.carrierCourt c != 0xFF
    && s.funcOfCourt (s.carrierCourt c) == f && (s.tb (s.carTb c)).enabled

/-- Whether a model ID may stand in an order for a stage. -/
def State.orderModelOk (s : State) (m stage : Nat) : Bool :=
  m == 0 || m == 0xFFFF || ((s.model m).live && (s.model m).stage == stage)

/-- HOME_CHIP names a member, or 0 in a system of one chip. -/
def State.homeOk (s : State) (h : Nat) : Bool := if s.multiChip then s.isMember h else h == 0

/-- Fields of an entry that have a range in Tables 9.5 and 11.5 beside the grounds of R217: BASE_GRAPH, the PTRS time density, and on the
downlink DMRS_AMP, PRG and the CDM groups without data. -/
def entryRanges (dl : Bool) (u : List Byte) : Bool :=
  decide (enBg u ≤ 2) && !((enDmrsCfg u).testBit 5 && enPtrs u % 4 == 3)
    && (!dl || (decide (1 ≤ fieldOf u 33 1 ∧ fieldOf u 33 1 ≤ 127) && [0, 1, 2, 4].contains (fieldOf u 34 1)
      && !(enChannel u == 0 && enDmrsCfg u / 64 == 0)))

/-- The ground of R217 for one entry of either direction. More layers than DMRS ports means that two layers share one. -/
def State.entryOk (s : State) (b u : List Byte) : Bool :=
  let dl := orKind b == 2
  let c := orCarrier b
  let syms := s.slotSyms (s.carTb c)
  let pdata := enChannel u == 0
  let cfg := enDmrsCfg u
  decide (1 ≤ enNprb u ∧ enPrb0 u + max (enPrbs u) (enNprb u) ≤ s.car c 3) && decide (1 ≤ enNsym u ∧ enSym0 u + max (enSyms u) (enNsym u) ≤ syms)
    && (List.range (enSyms u)).all (fun i => (orSymbols b).testBit (enSym0 u + i))
    && !((!dl || pdata) && (List.range 14).any (fun k => (enDmrs u).testBit k && !(orSymbols b).testBit k))
    && decide (1 ≤ enNlayer u ∧ enNlayer u ≤ 8 ∧ enLayer0 u + enNlayer u ≤ 32)
    && !(enTbsOf dl u 1 != 0 && decide (enNlayer u ≤ 4)) && !(pdata && enTbsOf dl u 1 == 0 && decide (4 < enNlayer u))
    && !(pdata && decide (((List.range 24).filter fun i => (enPorts u).testBit i).length < enNlayer u))
    && s.homeOk (enHome u) && entryRanges dl u
    && (if dl then
          (if enChannel u = 0 then [2, 4, 6, 8, 10].contains (enQm u) && (enTbsOf dl u 1 == 0 || [2, 4, 6, 8, 10].contains (enQmOf dl u 1))
              && enTbs u != 0
            else if enChannel u = 0x20 then [1, 2, 4, 8, 16].contains (enQm u) && decide (12 ≤ enTbs u ∧ enTbs u ≤ 140)
            else if enChannel u = 0x30 then decide (enRate u ≤ 11) else enChannel u == 0x40)
          && decide (fieldOf u 48 8 % 64 = 0) && hostReach (fieldOf u 48 8) 64
          && decide (fieldOf u 56 8 % 2 = 0)
        else
          (enChannel u == 0 || decide (0x10 ≤ enChannel u ∧ enChannel u ≤ 0x14))
          && [1, 2, 4, 6, 8].contains (enQm u) && (enTbsOf dl u 1 == 0 || [1, 2, 4, 6, 8].contains (enQmOf dl u 1))
          && !(cfg.testBit 3 && (enNlayer u != 1 || cfg.testBit 5 || !smooth (enNprb u)))
          && decide (fieldOf u 56 8 % 64 = 0) && decide (hostBase ≤ fieldOf u 56 8))

/-- Whether two entries exclude each other: a shared resource element with overlapping layer slots, or a shared DMRS port and
nSCID on one PRB. On the downlink PDSCH leaves out the resource elements of the other channels (R250), so that two PDSCH entries
and two SSB entries are compared here, and the others once their indices are read. -/
def entriesClash (dl : Bool) (u v : List Byte) : Bool :=
  overlap (enPrb0 u) (enPrbs u) (enPrb0 v) (enPrbs v)
    && (if dl ∧ (enChannel u ≠ 0 ∨ enChannel v ≠ 0) then
          enChannel u == 0x30 && enChannel v == 0x30 && overlap (enSym0 u) 4 (enSym0 v) 4
            && overlap (enPrb0 u * 12 + enRate u) 240 (enPrb0 v * 12 + enRate v) 240
            && overlap (enLayer0 u) (enNlayer u) (enLayer0 v) (enNlayer v)
        else (overlap (enSym0 u) (enNsym u) (enSym0 v) (enNsym v) && overlap (enLayer0 u) (enNlayer u) (enLayer0 v) (enNlayer v))
          || ((enPorts u &&& enPorts v) != 0 && (enDmrsCfg u).testBit 2 == (enDmrsCfg v).testBit 2))

def anyPair (f : List Byte → List Byte → Bool) : List (List Byte) → Bool
  | [] => false
  | a :: r => r.any (f a) || anyPair f r

/-- Whether the contents of an order beyond CARRIER and SLOT are valid. -/
def State.orderContentsOk (s : State) (b : List Byte) : Bool :=
  let c := orCarrier b
  let k := orKind b
  let syms := s.slotSyms (s.carTb c)
  if k = 3 then
    let secs := (List.range (orCount b)).map fun i => (b.drop (64 + 16 * i)).take 16
    decide (1 ≤ orCount b ∧ orCount b ≤ 16) && decide (1 ≤ fieldOf b 6 1 ∧ fieldOf b 6 1 ≤ 15)
      && !(anyPair (fun x y => fieldOf x 0 2 == fieldOf y 0 2) secs)
      && secs.all fun x => decide (fieldOf x 6 1 + fieldOf x 5 1 ≤ syms)
          && decide (fieldOf x 2 2 + (if fieldOf x 4 1 = 0 then s.car c 3 else fieldOf x 4 1) ≤ s.car c 3)
  else
    (orUsers b).all (s.entryOk b) && !(anyPair (entriesClash (k == 2)) (orUsers b)) && decide (orSymbols b < 2 ^ syms)
      && (k == 2 || (s.orderModelOk (fieldOf b 24 2) 2 && s.orderModelOk (fieldOf b 26 2) 3 && s.orderModelOk (fieldOf b 28 2) 4))

/-! ### Leads (R12, R17, R368) -/

/-- The latest sample at which an order is in time. -/
def State.leadLimit (s : State) (b : List Byte) : Nat :=
  let c := orCarrier b
  let tb := s.carTb c
  let t0 := s.tcOf tb (orSlot b)
  let n := (if orKind b = 1 then 4 else 6) + (if s.multiChip then 1 else 0)
  if orKind b = 1 then s.symsEarlier tb n t0
  else if orKind b = 2 then s.symsEarlier tb n ((t0 + airPeriod - s.car c 11) % airPeriod)
  else
    let first := ((List.range (orCount b)).map fun i => fieldOf b (64 + 16 * i + 6) 1).foldl min 13
    s.symsEarlier tb n ((s.symsLater tb first t0 + airPeriod - s.car c 11 - s.longSym tb) % airPeriod)

/-! ### Records -/

/-- A value an FP32 encoding gives after scaling by num / den, rounded to nearest with ties to even and clamped (R219). -/
def scaledField (x num den : Nat) (lo hi : Int) : Int :=
  match dec32 x with
  | .nan => lo
  | .inf n => if n then lo else hi
  | v =>
    let d := v.toDyadic
    let m := d.1 * (num : Int)
    let q : Nat := if 0 ≤ d.2 then divEven (m.natAbs * 2 ^ d.2.toNat) den else divEven m.natAbs (den * 2 ^ (-d.2).toNat)
    clampInt lo hi (if m < 0 then -(q : Int) else q)

/-- Bytes 7 to 19 of a user result: CONFIDENCE, SINR, EVM_PCT, EVM_DB, TIMING_ERR, FREQ_ERR (Tables 9.7 and 9.9). A value that
is not available has the code R219 gives; where it gives none, CONFIDENCE, the byte is free; FREQ_ERR then has the code of a 32-bit field (log
entry 169). `track` is the carrier's TRACK. -/
def measBytes (s : State) (m : Meas) (u : List Byte) (track : Nat) : List Byte :=
  let na := wrapTo 16 (-32768)
  let pucch : Bool := enChannel u != 0
  let set := s.get 0x1001 2
  let i16 := fun (v : Option Nat) (num den : Nat) =>
    match v with
    | some x => wrapTo 16 (scaledField x num den (-32767) 32767)
    | none => na
  let conf : Byte := match m.pass set (enQm u) (enRate u) with
    | some x => BitVec.ofNat 8 (scaledField x 255 1 0 255).toNat
    | none => s.free.truncate 8
  let pct : Nat := if pucch then 0xFFFF else match m.evmPct with
    | some x => (scaledField x 100 1 0 65534).toNat
    | none => 0xFFFF
  let freq : Nat := if pucch ∨ track = 0 then 2 ^ 31 else match userFreq u m with
    | some x => wrapTo 32 (scaledField x 1000 1 (-2147483647) 2147483647)
    | none => 2 ^ 31
  conf :: bytesOf 2 (i16 (m.sinr set) 256 1) ++ bytesOf 2 pct ++ bytesOf 2 (if pucch then na else i16 (m.evmDb set) 256 1)
    ++ bytesOf 2 (if pucch ∨ track < 2 then na else i16 (m.timing.map BitVec.toNat) 4 1) ++ bytesOf 4 freq

/-- TRACK_RANGE: a residual beyond 0.8 of what the pilots can tell apart: a frequency of 1 / (2T), T between the user's first and last DMRS
occasion; a timing of half the cyclic prefix (R205). -/
def State.trackRange (s : State) (o : Order) (u : List Byte) (m : Meas) (track : Nat) : Bool :=
  let tb := s.carTb o.carrier
  let at_ := fun (k : Nat) => s.symsLater tb k (s.tcOf tb (orSlot o.body))
  let span : Nat := match (occasions u).head?, (occasions u).getLast? with
    | some a, some b => (airDiff (at_ a.1) (at_ b.1)).toNat
    | _, _ => 0
  let cp := if s.tbEcp tb then 8192 else 9216 / 2 ^ s.tbMu tb
  (decide (1 ≤ track) && m.freq.any fun x => exceeds32 x.toNat span 786432000)
    || (decide (2 ≤ track) && m.timing.any fun x => exceeds32 x.toNat 5 (2 * cp))

/-- Entries that this chip's record lists: in a system of more than one chip, those homed on it (R20). -/
def Order.entries (o : Order) : List Nat := o.home.getD (List.range (orCount o.body))
def State.homeOf (s : State) (b : List Byte) : Option (List Nat) :=
  if s.multiChip then some ((List.range (orCount b)).filter fun i => enHome ((b.drop (64 + 64 * i)).take 64) == s.chip) else none

/-- One codeword's part of a result: status, cause, iterations, failed blocks. -/
def Order.word (o : Order) (u q : Nat) : Option Codeword := o.words.find? fun w => w.user == u && w.cw == q
def Order.wordStatus (o : Order) (u q : Nat) : Nat := ((o.word u q).map fun w => w.status).getD 3
def Codeword.iters (w : Codeword) : Nat := w.blocks.foldl (fun m b => max m b.iters) 0
/-- Blocks that failed CRC24B; a codeword of one block has none. -/
def Codeword.fails (w : Codeword) : Nat := if w.blocks.length ≤ 1 then 0 else (w.blocks.filter fun b => b.result == 2).length

/-- CAUSE of a user: of its first codeword that was not decoded or sent. -/
def Order.userCause (o : Order) (u : Nat) : Nat :=
  match (o.words.filter fun w => w.user == u && decide (w.cw < 2) && w.cause != 0) with
  | w :: _ => w.cause
  | [] => 0

/-- RECEIVER: 0 learned, 1 Breeze in part, 2 Breeze throughout. -/
def Order.receiver (o : Order) (u : Nat) : Nat :=
  if Tbl.get 0 o.breeze u = 0 then 0 else if Tbl.get 0 o.learned u = 0 then 2 else 1

/-- The result record of an uplink order (Tables 9.6 and 9.7). -/
def State.ulRecord (s : State) (o : Order) (slotCause e1 e2 : Nat) : List Byte :=
  let n := o.entries.length
  let hdr := [0x81#8, 1#8] ++ bytesOf 2 (64 + 64 * n) ++ bytesOf 1 o.carrier ++ bytesOf 1 n ++ bytesOf 2 0
    ++ bytesOf 8 (orSlot o.body) ++ bytesOf 8 (orTag o.body) ++ bytesOf 4 e1 ++ bytesOf 4 e2 ++ bytesOf 1 slotCause ++ bytesOf 1 0
    ++ bytesOf 2 o.symbols.toNat ++ bytesOf 8 0 ++ List.replicate 20 0#8
  let track := s.get (0x4000 + o.carrier) 6
  hdr ++ o.entries.flatMap fun i =>
    let u := o.user i
    let m := Tbl.get {} o.meas i
    let it := fun q => ((o.word i q).map Codeword.iters).getD 0
    let fl := fun q => ((o.word i q).map Codeword.fails).getD 0
    let st := o.wordStatus i 0 + o.wordStatus i 1 * 4 + o.receiver i * 16
      + bitAt (s.trackRange o u m track) 6 + bitAt (o.adapt.contains i) 7
    u.take 3 ++ bytesOf 1 st ++ bytesOf 1 (o.userCause i) ++ bytesOf 1 (it 0) ++ bytesOf 1 (it 1)
      ++ measBytes s m u track ++ bytesOf 1 m.uci.toNat ++ List.replicate 3 0#8
      ++ bytesOf 2 (fl 0) ++ bytesOf 2 (fl 1) ++ List.replicate 36 0#8

/-- The completion record of a downlink order (Tables 11.6 and 11.7). -/
def dlRecord (o : Order) (slotCause e1 e2 : Nat) : List Byte :=
  let n := o.entries.length
  [0x82#8, 1#8] ++ bytesOf 2 (64 + 16 * n) ++ bytesOf 1 o.carrier ++ bytesOf 1 n ++ bytesOf 2 0
    ++ bytesOf 8 (orSlot o.body) ++ bytesOf 8 (orTag o.body) ++ bytesOf 4 e1 ++ bytesOf 4 e2 ++ bytesOf 1 slotCause ++ bytesOf 1 0
    ++ bytesOf 2 o.symbols.toNat ++ bytesOf 8 0 ++ bytesOf 4 o.clamps ++ List.replicate 16 0#8
    ++ o.entries.flatMap fun i =>
      (o.user i).take 3 ++ bytesOf 1 (o.wordStatus i 0 + o.wordStatus i 1 * 4) ++ bytesOf 1 (o.userCause i) ++ List.replicate 11 0#8

/-- The completion record of a C-plane order (Table 16.12). -/
def cpRecord (o : Order) (slotCause : Nat) : List Byte :=
  [0x83#8, 1#8, 64#8, 0#8] ++ bytesOf 1 o.carrier ++ bytesOf 1 (orCount o.body) ++ bytesOf 2 0 ++ bytesOf 8 (orSlot o.body)
    ++ bytesOf 8 (orTag o.body) ++ bytesOf 1 slotCause ++ List.replicate 3 0#8 ++ bytesOf 4 o.sent ++ bytesOf 8 0
    ++ List.replicate 24 0#8

/-- Codewords of an order: those whose TBS is not zero. SSB, PDCCH and RS_LIST entries count as one codeword on the downlink. -/
def orderWords (b : List Byte) : List Codeword :=
  let dl := orKind b == 2
  if orKind b = 3 then []
  else ((orUsers b).zipIdx).flatMap fun e =>
    [0, 1].filterMap fun q =>
      if dl ∧ enChannel e.1 ≠ 0 then (if q = 0 then some { user := e.2, cw := q, status := 0 } else none)
      else if (enChannel e.1 = 0 ∧ enTbsOf dl e.1 q ≠ 0) then some { user := e.2, cw := q, status := if dl then 0 else 2 } else none

/-- Refuses an order: every codeword is not decoded or not sent, with the cause (R13, R17, R217, R262, R368). The host's faults
count as host violations; `cause` 4 is the Court's fence and is none. -/
def State.refuseOrder (s : State) (f r : Nat) (b : List Byte) (cause : Nat) : State :=
  let k := orKind b
  let c := orCarrier b
  let bad := if k = 2 then 1 else 2
  let lcause := if cause = 4 then 3 else cause
  let o : Order := { live := true, kind := k, func := f, ring := r, body := b,
                     words := (orderWords b).map fun w => { w with status := bad, cause := if k = 2 then lcause else cause } }
  let ctr := if k = 2 then 0x4120 + c else 0x4020 + c
  let s1 := if c < 32 ∧ cause < 4 then s.bump ctr (if cause = 1 then 2 else 3) else s
  let s2 := if k = 1 ∧ c < 32 then s1.bumpBy (0x4020 + c) 0x0A o.words.length else s1
  let s3 := if cause < 4 then s2.hostViolation f else s2
  let e := s.epochOf (s.carrierCourt c % 256 % 17)
  let sc := if cause < 4 then cause else 0
  (s3.record f r (if k = 1 then s3.ulRecord o sc e e else if k = 2 then dlRecord o sc e e else cpRecord o sc)).bumpFree

/-! ### Orders and jobs in force -/

/-- A job descriptor is made: its JOB_ID is one higher than the last, modulo 2^32 (Table 12.2). -/
def State.newJob (s : State) (y : Job) : State × Nat :=
  ({ s.setJob s.nextJob { y with live := true } with nextJob := (s.nextJob + 1) % 2 ^ 32 }, s.nextJob)

/-- Priorities of Table 12.3. -/
def kindPriority (k : Nat) : Nat :=
  if k = 6 ∨ k = 0x14 then 7 else if k = 1 ∨ k = 0x13 then 6 else if k = 2 ∨ k = 3 ∨ k = 4 ∨ k = 0x12 then 5
  else if k = 5 ∨ k = 0x11 then 4 else 0

/-- Carrier chunks: first PRB and length (R199, R246). -/
def chunksOf (nprb size : Nat) : List (Nat × Nat) :=
  (List.range ((nprb + max 1 size - 1) / max 1 size)).map fun i => (i * size, min size (nprb - i * size))

/-- Declared cycles per subcarrier of the Breeze receivers (Table 9.3) and of the built-in downlink stage (Table 11.2). -/
def breezeCost (kind : Nat) : Nat := if kind = 2 then 6 else if kind = 3 then 24 else if kind = 4 then 17 else 0

/-- The reference models: ID, stage, layers, and declared cycles per subcarrier at 256 ports and those layers (Table 9.3). -/
def referenceModels : List (Nat × Nat × Nat × Nat) := [(0x0101, 2, 32, 44), (0x0102, 3, 32, 14), (0x0103, 4, 32, 21), (0x0104, 4, 8, 8)]

/-- Declared cycles per subcarrier of library model `id` at a (ports, layers) point; none where it does not declare it (R206, R213). -/
def LibModel.cost (m : LibModel) (id ports layers : Nat) : Option Nat :=
  match referenceModels.find? fun r => r.1 == id && r.2.1 == m.stage && ports == 256 && layers == r.2.2.1 with
  | some r => some r.2.2.2
  | none => (m.points.find? fun p => ports == p.1 && layers == p.2.1).map fun p => p.2.2

/-- Layers that the users of a chunk occupy. -/
def chunkLayers (us : List (List Byte)) : Nat :=
  ((List.range 32).filter fun l => us.any fun u => decide (enLayer0 u ≤ l ∧ l < enLayer0 u + enNlayer u)).length

/-- The model an order names for a stage, or the carrier's default (R206). -/
def State.stageModel (s : State) (b : List Byte) (kind : Nat) : Nat :=
  let m := fieldOf b (20 + 2 * kind) 2
  let d := if m = 0 then s.get (0x4000 + orCarrier b) (kind - 1) else m
  if d = 0 then 0xFFFF else d

/-- Contiguous runs of the symbols of a mask: start and length. -/
def runsOf (mask : Nat) : List (Nat × Nat) :=
  (List.range 14).filterMap fun s =>
    if mask.testBit s && (s == 0 || !mask.testBit (s - 1)) then
      some (s, ((List.range (14 - s)).takeWhile fun i => mask.testBit (s + i)).length)
    else none

/-- The bursts that an order gives GATE pins (R46). -/
def State.addBursts (s : State) (b : List Byte) : State :=
  let c := orCarrier b
  let tb := s.carTb c
  let t0 := s.tcOf tb (orSlot b)
  { s with bursts := s.bursts ++ (runsOf (orSymbols b)).map fun r =>
      { carrier := c, tb := tb, dl := orKind b == 2, start := s.countOf tb (s.symsLater tb r.1 t0),
        stop := s.countOf tb (s.symsLater tb (r.1 + r.2) t0) } }

/-- n bits of a number, as bits. -/
def fieldBits (n x : Nat) : List Bool := natBits n x

/-- The body of a section type 1 message of a run, from dataDirection on (R366): the O-RAN common header and one section. -/
def cplaneBody (s : State) (c slotAir : Nat) (dl : Bool) (r : Nat × Nat) : List Byte :=
  let w := s.carWidth c dl
  packMsb (fieldBits 1 (if dl then 1 else 0) ++ fieldBits 3 1 ++ fieldBits 4 0 ++ fieldBits 8 (apSfn slotAir % 256)
    ++ fieldBits 4 (apSf slotAir) ++ fieldBits 6 (apSlot slotAir) ++ fieldBits 6 r.1 ++ fieldBits 8 1 ++ fieldBits 8 1
    ++ fieldBits 4 (w % 16) ++ fieldBits 4 (if w = 0 then 0 else 1) ++ fieldBits 8 0
    ++ fieldBits 12 r.1 ++ fieldBits 1 0 ++ fieldBits 1 0 ++ fieldBits 10 0 ++ fieldBits 8 0 ++ fieldBits 12 0xFFF
    ++ fieldBits 4 r.2 ++ fieldBits 1 0 ++ fieldBits 15 0)

/-- The body of the section type 3 message that carries the sections of a C-plane order which begin at symbol `first` (R367; log entry 173). -/
def cplane3Body (b : List Byte) (first : Nat) : List Byte :=
  let l := ((List.range (orCount b)).map fun i => (b.drop (64 + 16 * i)).take 16).filter fun x => fieldOf x 6 1 == first
  packMsb (fieldBits 1 0 ++ fieldBits 3 1 ++ fieldBits 4 (fieldOf b 6 1) ++ fieldBits 8 (apSfn (orSlot b) % 256)
      ++ fieldBits 4 (apSf (orSlot b)) ++ fieldBits 6 (apSlot (orSlot b)) ++ fieldBits 6 first ++ fieldBits 8 l.length
      ++ fieldBits 8 3 ++ fieldBits 16 (fieldOf b 24 4) ++ fieldBits 8 (fieldOf b 7 1) ++ fieldBits 16 (fieldOf b 28 2) ++ fieldBits 8 0)
    ++ l.flatMap fun x =>
      packMsb (fieldBits 12 (fieldOf x 0 2) ++ fieldBits 2 0 ++ fieldBits 10 (fieldOf x 2 2) ++ fieldBits 8 (fieldOf x 4 1)
        ++ fieldBits 12 0xFFF ++ fieldBits 4 (fieldOf x 5 1) ++ fieldBits 16 0 ++ fieldBits 24 (fieldOf x 8 4) ++ fieldBits 8 0)

/-- The section type 1 messages of an executed order wait for their departure; none on a time-domain carrier (R366). -/
def State.addCplane (s : State) (id : Nat) (b : List Byte) : State :=
  let c := orCarrier b
  let tb := s.carTb c
  let dl := orKind b == 2
  let t0 := s.tcOf tb (orSlot b)
  if s.get (0x4300 + c) 1 = 1 then s
  else { s with cplane := s.cplane ++ (runsOf (orSymbols b)).map fun r =>
    { order := id, carrier := c, dl := dl, stype := 1, body := cplaneBody s c (orSlot b) dl r,
      earliest := s.countOf tb ((s.symsLater tb r.1 t0 + airPeriod - s.car c 11 - s.longSym tb) % airPeriod) } }

/-! ### The uplink job graph (R199) -/

/-- What building a job graph has made: the jobs, and the weights jobs by chunk and occasion. -/
structure Graph where
  s : State
  jobs : List Nat := []
  fronts : List (Nat × Nat) := []
  weights : List ((Nat × Nat) × Nat) := []
  detects : List ((Nat × Nat) × Nat) := []

def Graph.add (g : Graph) (y : Job) : Graph × Nat :=
  let r := g.s.newJob y
  ({ g with s := r.1, jobs := g.jobs ++ [r.2] }, r.2)

/-- Closing of the reception window of symbol k of a slot. -/
def State.slotClose (s : State) (b : List Byte) (k : Nat) : Nat :=
  let tb := s.carTb (orCarrier b)
  (s.symsLater tb (k + 1) (s.tcOf tb (orSlot b)) + s.car (orCarrier b) 10) % airPeriod

/-- Report deadline of a slot (R16), and its cut-off (R200). -/
def State.reportDue (s : State) (b : List Byte) : Nat :=
  let c := orCarrier b
  let tb := s.carTb c
  (s.symsLater tb (s.slotSyms tb) (s.tcOf tb (orSlot b)) + 589824 + (s.car c 10 - 196608)) % airPeriod
def State.cutoff (s : State) (b : List Byte) : Nat := (s.reportDue b + airPeriod - 20480) % airPeriod

/-- Whether an entry is not processed in Breeze service (R212, R255). -/
def State.noCapacity (s : State) (u : List Byte) : Bool := s.breezeService && decide (8 < enLayer0 u + enNlayer u)

/-- A stage job of a carrier. -/
def State.stageJob (s : State) (id : Nat) (b : List Byte) (kind ci nprb sym occ rel dead : Nat) (deps : List Nat) : Job :=
  let c := orCarrier b
  let tb := s.carTb c
  { kind := kind, court := s.carrierCourt c, prio := kindPriority kind, tb := tb, carrier := c, chunk := ci, nprb := nprb, sym := sym,
    prb0 := ci * (if kind = 0x12 then s.get (0x4100 + c) 2 else s.get (0x4000 + c) 4),
    occ := occ, release := s.airOf tb rel, deadline := some (s.airOf tb dead), groups := 4, order := id, orderTag := orTag b,
    deps := deps, costB := breezeCost kind * 12 * nprb }

/-- UL_FRONT jobs of a time-domain carrier: due 4/5 of the symbol after its close (Table 9.1). -/
def Graph.fronts_ (g : Graph) (id : Nat) (b : List Byte) : Graph :=
  let c := orCarrier b
  let tb := g.s.carTb c
  if g.s.get (0x4300 + c) 1 = 0 then g
  else ((List.range 14).filter fun k => (orSymbols b).testBit k).foldl (fun g k =>
    let close := g.s.slotClose b k
    let t := g.s.symsLater tb k (g.s.tcOf tb (orSlot b))
    let len := symLen (g.s.tbMu tb) (g.s.tbEcp tb) (symbolOf (g.s.tbMu tb) (g.s.tbEcp tb) (t % 1966080)).1
    let r := g.add (g.s.stageJob id b 1 0 (g.s.car c 3) k 0 close ((close + len * 4 / 5) % airPeriod) [])
    { r.1 with fronts := r.1.fronts ++ [(k, r.2)] }) g

def Graph.frontDeps (g : Graph) (l : List Nat) : List Nat := (g.fronts.filter fun e => l.contains e.1).map fun e => e.2

/-- Deadline of the UL_DETECT of symbol k of a chunk: one symbol after the later of its own close and those of the DMRS symbols
its users' estimates come from (R15). -/
def State.detectDue (s : State) (b : List Byte) (us : List (List Byte)) (k : Nat) : Nat :=
  let tb := s.carTb (orCarrier b)
  let last := (us.filter fun u => (dataSymbols u).contains k).foldl (fun m u =>
    match occasionFor u k with
    | some o => max m o.2
    | none => m) k
  s.symsLater tb 1 (s.slotClose b last)

/-- UL_CHEST and UL_WEIGHTS of one occasion and chunk. -/
def Graph.occasion (g : Graph) (id : Nat) (b : List Byte) (us : List (List Byte)) (ci : Nat) (ch o : Nat × Nat) : Graph :=
  let c := orCarrier b
  let first := ((List.range 14).filter fun k => us.any fun u => (dataSymbols u).contains k && occasionFor u k == some o).head?
  let m := g.s.stageModel b 4
  let per := if g.s.breezeService then breezeCost 4
    else ((g.s.model m).cost m (g.s.localPorts c) (chunkLayers us)).getD (breezeCost 4)
  let dead := match first with
    | some k => (g.s.detectDue b us k + airPeriod - cyclesToTc (per * 12 * ch.2) (max 1 (g.s.get (0x4000 + c) 8))) % airPeriod
    | none => g.s.cutoff b
  let r1 := g.add (g.s.stageJob id b 2 ci ch.2 o.2 o.1 (g.s.slotClose b o.2) dead (g.frontDeps [o.1, o.2]))
  let r2 := r1.1.add (g.s.stageJob id b 3 ci ch.2 o.2 o.1 (g.s.slotClose b o.2) dead [r1.2])
  { r2.1 with weights := r2.1.weights ++ [((ci, o.1), r2.2)] }

/-- The stage jobs of one chunk. -/
def Graph.chunk (g : Graph) (id : Nat) (b : List Byte) (all : List (List Byte)) (ci : Nat) (ch : Nat × Nat) : Graph :=
  let us := all.filter fun u => inChunk u ch
  if us = [] then g
  else
    let occs := (us.flatMap occasions).eraseDups
    let g1 := occs.foldl (fun g o => g.occasion id b us ci ch o) g
    ((List.range 14).filter fun k => us.any fun u => (dataSymbols u).contains k).foldl (fun g k =>
      let need := (us.filter fun u => (dataSymbols u).contains k).filterMap fun u => occasionFor u k
      let deps := (g.weights.filter fun e => e.1.1 == ci && need.any fun o => o.1 == e.1.2).map fun e => e.2
      let r := g.add (g.s.stageJob id b 4 ci ch.2 k 0 (g.s.slotClose b k) (g.s.detectDue b us k) (deps ++ g.frontDeps [k]))
      { r.1 with detects := r.1.detects ++ [((k, ci), r.2)] }) g1

/-- The UL_DECODE jobs of a codeword: each takes a handle of the LLR pool; with too few, the codeword is not decoded with cause
CODING (R228, R229). -/
def Graph.decodes (g : Graph) (id : Nat) (b : List Byte) (chs : List (Nat × Nat)) (w : Codeword) : Graph × Codeword :=
  let c := orCarrier b
  let u := (b.drop (64 + 64 * w.user)).take 64
  let seg := entrySeg false u w.cw
  let pool := g.s.get (0x4240 + c) 3
  let q := g.s.freeQueueKey pool
  if (g.s.pool pool).live = false ∨ (g.s.hqueue q).items.length < seg.c then
    ({ g with s := g.s.bump (0x4240 + c) 5 }, { w with status := 2, cause := 7, ended := true })
  else
    let r := (List.range seg.c).foldl (fun (a : Graph × List CodeBlock) i =>
      let syms := blockSymbols false u [] w.cw i
      let deps := (a.1.detects.filter fun e => syms.contains e.1.1 && inChunk u ((chs[e.1.2]?).getD (0, 0))).map fun e => e.2
      let y : Job := { (a.1.s.stageJob id b 5 0 0 0 0 (a.1.s.tb (a.1.s.carTb c)).tc (a.1.s.cutoff b) deps) with
        user := w.user, cw := w.cw, blk := i }
      let j := a.1.add y
      match j.1.s.takeHandle q j.2 with
      | some h => ({ j.1 with s := h.2.2 }, a.2 ++ [{ job := j.2, handle := some (h.1, h.2.1) }])
      | none => (j.1, a.2 ++ [{ job := j.2 }])) (g, [])
    (r.1, { w with blocks := r.2 })

/-- Bits of UCI field f of an entry: 0 HARQ-ACK, 1 CSI part 1, 2 CSI part 2. -/
def uciLen (u : List Byte) (f : Nat) : Nat := fieldOf u (34 + 2 * f) 2

/-- The UL_DECODE jobs of the UCI fields of 12 bits or more, as codewords 2 to 4 of the user; a field of 1,013 bits or more has
two segments (R236). -/
def Graph.ucis (g : Graph) (id : Nat) (b : List Byte) (i : Nat) : Graph × List Codeword :=
  let u := (b.drop (64 + 64 * i)).take 64
  [0, 1, 2].foldl (fun (a : Graph × List Codeword) f =>
    if uciLen u f < 12 then a
    else
      let n := if 1013 ≤ uciLen u f then 2 else 1
      let r := (List.range n).foldl (fun (x : Graph × List CodeBlock) k =>
        let deps := (x.1.detects.filter fun e => (dataSymbols u).contains e.1.1).map fun e => e.2
        let j := x.1.add { (x.1.s.stageJob id b 5 0 0 0 0 (x.1.s.tb (x.1.s.carTb (orCarrier b))).tc (x.1.s.cutoff b) deps) with
          user := i, cw := 2 + f, blk := k }
        (j.1, x.2 ++ [{ job := j.2 }])) (a.1, [])
      (r.1, a.2 ++ [{ user := i, cw := 2 + f, blocks := r.2, status := 2 }])) (g, [])

/-- An uplink order is executed: its jobs wait for their release (R199, R228, R46, R366). -/
def State.startUplink (s : State) (f r : Nat) (b : List Byte) (sample : Nat) : State :=
  let id := s.nextOrder
  let c := orCarrier b
  let us := orUsers b
  let chs := chunksOf (s.car c 3) (s.get (0x4000 + c) 4)
  let served := us.filter fun u => !s.noCapacity u
  let mine := (s.homeOf b).getD (List.range us.length)
  let g0 : Graph := ({ s := { s with nextOrder := id + 1 } } : Graph).fronts_ id b
  let g1 := (chs.zipIdx).foldl (fun g e => g.chunk id b served e.2 e.1) g0
  let ws := ((orderWords b).filter fun w => mine.contains w.user).foldl (fun (a : Graph × List Codeword) w =>
    if s.noCapacity ((us[w.user]?).getD []) then (a.1, a.2 ++ [{ w with cause := 5, ended := true }])
    else
      let d := a.1.decodes id b chs w
      (d.1, a.2 ++ [d.2])) (g1, [])
  let ws := mine.foldl (fun (a : Graph × List Codeword) i =>
    if s.noCapacity ((us[i]?).getD []) then a
    else
      let d := a.1.ucis id b i
      (d.1, a.2 ++ d.2)) ws
  let rep := ws.1.add { (s.stageJob id b 6 0 0 0 0 (s.cutoff b) (s.reportDue b) []) with groups := 1 }
  let o : Order := { live := true, kind := 1, func := f, ring := r, body := b, sample := sample, words := ws.2, jobs := rep.1.jobs, home := s.homeOf b,
                     capacity := (List.range us.length).filter fun i => s.noCapacity ((us[i]?).getD []) }
  let lost := (ws.2.filter fun w => w.ended).length
  ((((rep.1.s.setOrder id o).bump (0x4020 + c) 1).bumpBy (0x4020 + c) 0x0A lost).addBursts b).addCplane id b

/-! ### The downlink job graph (R246, R247) -/

/-- Release of the DL_SYMBOL jobs of symbol k: the later of DL_PREP symbols before its window opens and the close of the window
of the symbol DL_DEPTH before (R247). -/
def State.dlRelease (s : State) (b : List Byte) (k : Nat) : Nat :=
  let c := orCarrier b
  let tb := s.carTb c
  let t := s.symsLater tb k (s.tcOf tb (orSlot b))
  let p := s.symsEarlier tb (s.get (0x4100 + c) 1) ((t + airPeriod - s.car c 11) % airPeriod)
  let q := (s.symsEarlier tb (s.carDepth c true) t + airPeriod - s.car c 12) % airPeriod
  if 0 ≤ airDiff p q then q else p

/-- Opening and closing of the transmit window of symbol k of a slot. -/
def State.txOpen (s : State) (b : List Byte) (k : Nat) : Nat :=
  let c := orCarrier b
  let tb := s.carTb c
  (s.symsLater tb k (s.tcOf tb (orSlot b)) + airPeriod - s.car c 11) % airPeriod
def State.txClose (s : State) (b : List Byte) (k : Nat) : Nat :=
  let c := orCarrier b
  let tb := s.carTb c
  (s.symsLater tb k (s.tcOf tb (orSlot b)) + airPeriod - s.car c 12) % airPeriod

/-- Cycles per subcarrier of the built-in DL_SYMBOL (Table 11.2). -/
def dlCost (u : List Byte) : Nat := if fieldOf u 34 1 = 1 then 36 else 18

/-- DL_SYMBOL jobs of one symbol, and its DL_TD. -/
def Graph.symbol (g : Graph) (id : Nat) (b : List Byte) (us : List (List Byte)) (k : Nat) : Graph :=
  let c := orCarrier b
  let tb := g.s.carTb c
  let td : Bool := g.s.get (0x4300 + c) 1 == 1
  let dead := if td then g.s.symsEarlier tb (g.s.get (0x4300 + c) 5) (g.s.txOpen b k) else g.s.txOpen b k
  let on := us.filter fun u => decide (enSym0 u ≤ k ∧ k < enSym0 u + enSyms u)
  let chs := chunksOf (g.s.car c 3) (g.s.get (0x4100 + c) 2)
  let g1 := (chs.zipIdx).foldl (fun (a : Graph × List Nat) e =>
    let here := on.filter fun u => inChunk u e.1
    if here = [] then a
    else
      let cost := (here.map dlCost).foldl max 0 * 12 * e.1.2
      let r := a.1.add { (a.1.s.stageJob id b 0x12 e.2 e.1.2 k 0 (a.1.s.dlRelease b k) dead []) with cycles := cost, costB := cost }
      (r.1, a.2 ++ [r.2])) (g, [])
  if td ∧ g1.2 ≠ [] then
    (g1.1.add { (g1.1.s.stageJob id b 0x13 0 (g1.1.s.car c 3) k 0 (g1.1.s.dlRelease b k) (g1.1.s.txOpen b k) g1.2) with groups := 4 }).1
  else g1.1

/-- Release of the first DL_SYMBOL that carries a codeword's bits of a block; the last symbol's where none does. -/
def State.encodeDue (s : State) (b u : List Byte) (sig : List (List Byte × List Byte)) (q r : Nat) : Nat :=
  let syms := if enChannel u = 0 then blockSymbols true u sig q r else [enSym0 u]
  s.dlRelease b ((syms.head?).getD (enSym0 u))

/-- The DL_ENCODE jobs of a codeword: one per code block, one for a PDCCH or PBCH payload, none for RS_LIST. -/
def Graph.encodes (g : Graph) (id : Nat) (b : List Byte) (w : Codeword) : Graph × Codeword :=
  let u := (b.drop (64 + 64 * w.user)).take 64
  let n := if enChannel u = 0 then (entrySeg true u w.cw).c else if enChannel u = 0x40 then 0 else 1
  let tb := g.s.carTb (orCarrier b)
  let r := (List.range n).foldl (fun (a : Graph × List CodeBlock) i =>
    let y : Job := { (a.1.s.stageJob id b 0x11 0 0 0 0 (a.1.s.tb tb).tc (a.1.s.encodeDue b u (({ body := b } : Order).signals) w.cw i) []) with
      user := w.user, cw := w.cw, blk := i }
    let j := a.1.add y
    (j.1, a.2 ++ [{ job := j.2 }])) (g, [])
  (r.1, { w with blocks := r.2 })

/-- A downlink order is executed (R246, R255). -/
def State.startDownlink (s : State) (f r : Nat) (b : List Byte) (sample : Nat) : State :=
  let id := s.nextOrder
  let c := orCarrier b
  let us := orUsers b
  let sent := us.filter fun u => !s.noCapacity u
  let mine := (s.homeOf b).getD (List.range us.length)
  let ws := ((orderWords b).filter fun w => mine.contains w.user).foldl (fun (a : Graph × List Codeword) w =>
    if s.noCapacity ((us[w.user]?).getD []) then (a.1, a.2 ++ [{ w with status := 1, cause := 5, ended := true }])
    else
      let d := a.1.encodes id b w
      (d.1, a.2 ++ [d.2])) ({ s := { s with nextOrder := id + 1 } }, [])
  let g := ((List.range 14).filter fun k => (orSymbols b).testBit k).foldl (fun g k => g.symbol id b sent k) ws.1
  let last := ((List.range 14).filter fun k => (orSymbols b).testBit k).foldl max 0
  let rel := s.txClose b last
  let rep := g.add { (s.stageJob id b 0x14 0 0 last 0 rel ((rel + 19660) % airPeriod) []) with groups := 1 }
  let o : Order := { live := true, kind := 2, func := f, ring := r, body := b, sample := sample, words := ws.2, jobs := rep.1.jobs, home := s.homeOf b,
                     capacity := (List.range us.length).filter fun i => s.noCapacity ((us[i]?).getD []) }
  (((rep.1.s.setOrder id o).bump (0x4120 + c) 1).addBursts b).addCplane id b

/-- A C-plane order is executed: its section type 3 messages wait for their departure, those of each start symbol for its own (R367, R368). On the chip
that an order was posted to, every other member's messages are awaited. -/
def State.startCplane (s : State) (f r : Nat) (b : List Byte) (sample : Nat) (posted : Bool) : State :=
  let id := s.nextOrder
  let c := orCarrier b
  let tb := s.carTb c
  let syms := (List.range 14).filter fun k => (List.range (orCount b)).any fun i => fieldOf b (64 + 16 * i + 6) 1 == k
  let others := if s.multiChip then (((List.range 24).filter fun m => s.isMember m && m != s.chip).map fun m => 2 ^ m).sum else 0
  let o : Order := { live := true, kind := 3, func := f, ring := r, body := b, sample := sample, awaits := if posted then 2 ^ 31 + others else 0 }
  let run := fun (k : Nat) => CRun.mk id c false 3
    (s.countOf tb ((s.symsLater tb k (s.tcOf tb (orSlot b)) + airPeriod - s.car c 11 - s.longSym tb) % airPeriod)) 0 (cplane3Body b k)
  { ({ s with nextOrder := id + 1 }.setOrder id o) with cplane := s.cplane ++ syms.map run }

/-- An order as the members receive it: function, ring, the eight samples of its doorbell, the order. -/
def orderPacket (f r : Nat) (samples : List Nat) (b : List Byte) : List Byte :=
  bytesOf 1 f ++ bytesOf 1 r ++ (List.range 8).flatMap (fun n => bytesOf 8 ((samples[n]?).getD 0)) ++ b

/-- Acceptance of a well-formed order: CARRIER and SLOT, the lead, then the contents (R12, R13, R17, R217, R262, R368). In a system of
more than one chip the coordinating chip, the lowest-numbered member, forwards an order that it accepts from its host to every member
(`forward`; R20). The record of a C-plane order is the coordinating chip's alone (R368). -/
def State.takeOrder (s : State) (f r : Nat) (b : List Byte) (samples : List Nat) (forward : Bool) : State :=
  let c := orCarrier b
  let k := orKind b
  let s := s.replayLog 3 (bytesOf 1 f ++ bytesOf 1 r ++ bytesOf 8 (s.airOf (s.carTb c) ((samples[s.carTb c]?).getD 0 % airPeriod)) ++ b)
  let no := fun (cause : Nat) => if k = 3 ∧ forward = false then s else s.refuseOrder f r b cause
  if s.carrierOk f c (k == 2) = false ∨ s.slotOk c (orSlot b) = false then no 2
  else
    let sample := (samples[s.carTb c]?).getD 0
    if airDiff sample (s.leadLimit b) < 0 then no 1
    else if s.orderContentsOk b = false then no 2
    else if s.isFenced 4 (s.carrierCourt c) ∧ k ≠ 3 then s.refuseOrder f r b 4
    else
      let s1 := if forward ∧ s.multiChip ∧ (List.range s.chip).all (fun m => !s.isMember m) then
          (List.range 24).foldl (fun s m => if s.isMember m ∧ m ≠ s.chip then s.sendMgl m 0 17 (orderPacket f r samples b) else s) s
        else s
      if k = 1 then s1.startUplink f r b sample else if k = 2 then s1.startDownlink f r b sample else s1.startCplane f r b sample forward

/-- An order from this chip's host. -/
def State.acceptOrder (s : State) (f r : Nat) (b : List Byte) (samples : List Nat) : State := s.takeOrder f r b samples true

/-- An order that the coordinating chip has forwarded. -/
def State.forwardedOrder (s : State) (p : List Byte) : State :=
  s.takeOrder (fieldOf p 0 1 % 16) (fieldOf p 1 1 % 4) (p.drop 66) ((List.range 8).map fun n => fieldOf p (2 + 8 * n) 8) false

end Sys2Proof.Machine
end

