-- ==== Sys2Proof/Machine/Polar.lean ====
section
/-! DEFINITION. The polar codes of the polar engines: construction, rate matching, encoding and list decoding (R236, R251), after TS 38.212 clauses
5.3.1, 5.4.1, 6.3.1, 7.1.3 and 7.3.2 to 7.3.4. The polar sequence and the input interleaver are the hardware's and are not printed in the spec (log
entry 15). -/

namespace Sys2Proof.Machine

open Sys2Proof

/-! ### Construction -/

/-- Smallest n with 2^n at least x. -/
def log2Up (x : Nat) : Nat := if x ≤ 1 then 0 else Nat.log2 (x - 1) + 1

/-- log2 of the code length for k bits (CRC included) in e, at most 2^nmax (clause 5.3.1). -/
def polarLog (k e nmax : Nat) : Nat :=
  let c := log2Up e
  let n1 := if 8 * e ≤ 9 * 2 ^ (c - 1) ∧ 16 * k < 9 * e then c - 1 else c
  max 5 (min (min n1 (log2Up (8 * k))) nmax)

/-- The sub-block interleaver's pattern of 32 (Table 5.4.1.1-1 of TS 38.212). -/
def subBlockPattern : List Nat :=
  [0, 1, 2, 4, 3, 5, 6, 7, 8, 16, 9, 17, 10, 18, 11, 19, 12, 20, 13, 21, 14, 22, 15, 23, 24, 25, 26, 28, 27, 29, 30, 31]
/-- Index before the sub-block interleaver of its output bit n, of 2^lg. -/
def subBlock (lg n : Nat) : Nat := (subBlockPattern[32 * n / 2 ^ lg]?).getD 0 * (2 ^ lg / 32) + n % (2 ^ lg / 32)

/-- How e selects among n coded bits. -/
inductive PolarMatch where
  | repeats | punctures | shortens
  deriving DecidableEq, Repr

def polarMatch (k e n : Nat) : PolarMatch := if n ≤ e then .repeats else if 16 * k ≤ 7 * e then .punctures else .shortens

/-- Indices that rate matching freezes (clause 5.4.1.1). -/
def matchFrozen (k e lg : Nat) : List Nat :=
  let n := 2 ^ lg
  match polarMatch k e n with
  | .repeats => []
  | .punctures =>
    (List.range (n - e)).map (subBlock lg)
      ++ (if 3 * n ≤ 4 * e then List.range ((3 * n - 2 * e + 3) / 4) else List.range ((9 * n - 4 * e + 15) / 16))
  | .shortens => (List.range (n - e)).map fun i => subBlock lg (e + i)

/-- What stands at an index of the code. -/
inductive PolarBit where
  | frozen | parity | info
  deriving DecidableEq, Repr

/-- The indices below 2^lg, most reliable last. -/
def reliability (lg : Nat) : List Nat := ((List.range 1024).map Config.polarSequence).filter fun q => decide (q < 2 ^ lg)

/-- Ones of a number below 2^10: the row weight of the generator is 2 to them. -/
def onesOf (x : Nat) : Nat := ((List.range 10).filter fun i => x.testBit i).length

/-- The kinds of all indices, of k bits in e with npc parity-check bits, of which nwm go to rows of least weight (clause 5.3.1.2). -/
def polarKinds (k e lg npc nwm : Nat) : List PolarBit :=
  let frozen := matchFrozen k e lg
  let free := (reliability lg).filter fun q => !frozen.contains q
  let used := free.drop (free.length - (k + npc))
  let low := used.take (npc - nwm)
  let best := used.drop npc
  let least := best.foldl (fun m q => min m (onesOf q)) 10
  let wm := ((best.filter fun q => onesOf q == least).reverse).take nwm
  (List.range (2 ^ lg)).map fun i =>
    if low.contains i || wm.contains i then .parity else if used.contains i then .info else .frozen

/-- Parity-check bits and those at least weight: for UCI of 18 to 25 bits with its CRC. -/
def uciParity (k e : Nat) : Nat × Nat := if 18 ≤ k ∧ k ≤ 25 then (3, if k + 192 < e + 3 then 1 else 0) else (0, 0)

/-! ### Encoding -/

/-- x = u G: halves (a + b, b), with no bit reversal. -/
def polarTransform : Nat → List Bool → List Bool
  | 0, l => l.take 1
  | n + 1, l =>
    let a := polarTransform n (l.take (2 ^ n))
    let b := polarTransform n (l.drop (2 ^ n))
    (a.zip b).map (fun p => p.1 != p.2) ++ b

/-- The five-bit register of the parity-check bits, rotated by one index. -/
def rotateY (y : List Bool) : List Bool := y.drop 1 ++ y.take 1

/-- Bits placed at their indices, parity-check bits formed as they come. -/
def placeBits : List PolarBit → List Bool → List Bool → List Bool
  | [], _, _ => []
  | .frozen :: r, y, c => false :: placeBits r (rotateY y) c
  | .parity :: r, y, c => let z := rotateY y; (z.headD false) :: placeBits r z c
  | .info :: r, y, c =>
    let z := rotateY y
    let b := c.headD false
    b :: placeBits r ((z.headD false != b) :: z.drop 1) (c.drop 1)

def zeroY : List Bool := List.replicate 5 false

/-- The input interleaver of the downlink (clause 5.3.1.1). -/
def polarInterleave (c : List Bool) : List Bool :=
  let k := c.length
  ((List.range 164).map Config.polarInterleaver).filterMap fun p => if 164 - k ≤ p then (c.drop (p - (164 - k))).head? else none

/-- Rate-matched bits of the coded bits d (clause 5.4.1). -/
def polarRate (k e lg : Nat) (d : List Bool) : List Bool :=
  let n := 2 ^ lg
  let y := (List.range n).map fun i => (d[subBlock lg i]?).getD false
  (List.range e).map fun i =>
    let at_ := match polarMatch k e n with
      | .repeats => i % n
      | .punctures => i + n - e
      | .shortens => i
    (y[at_]?).getD false

/-- Rate-matched bits of a downlink payload with its CRC: code length at most 512, no parity-check bits. -/
def polarEncodeDl (c : List Bool) (e : Nat) : List Bool :=
  let k := c.length
  let lg := polarLog k e 9
  polarRate k e lg (polarTransform lg (placeBits (polarKinds k e lg 0 0) zeroY (polarInterleave c)))

/-- A DCI with its CRC24C, formed over 24 ones and the payload and masked with the RNTI (clauses 7.3.2 and 7.3.3; R251). -/
def dciBits (a : List Bool) (rnti : Nat) : List Bool := a ++ natBits 24 (crc24C (List.replicate 24 true ++ a) ^^^ rnti)
/-- A PBCH payload with its CRC24C (clause 7.1.3). -/
def pbchBits (a : List Bool) : List Bool := a ++ natBits 24 (crc24C a)

/-! ### List decoding (R236): successive cancellation with eight entries, in the arithmetic and widths of R231 -/

/-- One entry of the list: its path metric, decisions with the last first, the parity register, the LLRs of the open nodes and the bits of the
finished ones. -/
structure PolarPath where
  metric : Nat := 0
  u : List Bool := []
  y : List Bool := zeroY
  llrs : List (List Int) := []
  parts : List (List Bool) := []

/-- The check-node step: product of signs and least magnitude, sign(0) = +1. -/
def polarF (a b : Int) : Int :=
  let m : Int := min a.natAbs b.natAbs
  if decide (a < 0) != decide (b < 0) then -m else m
/-- The variable-node step, saturated to the width of t in R231. -/
def polarG (u : Bool) (a b : Int) : Int := clampInt (-511) 511 (if u then b - a else b + a)

/-- An entry takes decision b on an LLR. -/
def PolarPath.decide_ (p : PolarPath) (info : Bool) (llr : Int) (b : Bool) : PolarPath :=
  let z := rotateY p.y
  { p with
    metric := p.metric + (if b != decide (llr < 0) then llr.natAbs else 0), u := b :: p.u,
    y := if info then (z.headD false != b) :: z.drop 1 else z, llrs := p.llrs.drop 1, parts := [b] :: p.parts }

/-- An entry put into a list that is in order of its metric, behind its equals. -/
def insertPath (p : PolarPath) : List PolarPath → List PolarPath
  | [] => [p]
  | q :: r => if p.metric < q.metric then p :: q :: r else q :: insertPath p r

/-- The eight most likely entries, most likely first; among equals in the order they stand. -/
def bestPaths (l : List PolarPath) : List PolarPath := (l.foldl (fun t p => insertPath p t) []).take 8

/-- A leaf: the entries decide the next index. -/
def polarLeaf (kinds : List PolarBit) (l : List PolarPath) : List PolarPath :=
  let one := fun (p : PolarPath) =>
    let llr := (p.llrs.headD []).headD 0
    match (kinds[p.u.length]?).getD .frozen with
    | .frozen => [p.decide_ false llr false]
    | .parity => [p.decide_ false llr ((rotateY p.y).headD false)]
    | .info => [p.decide_ true llr false, p.decide_ true llr true]
  bestPaths (l.flatMap one)

/-- A node of 2^n indices: its left half, its right half with the left one's bits, and the bits of both joined. -/
def polarNode (kinds : List PolarBit) : Nat → List PolarPath → List PolarPath
  | 0, l => polarLeaf kinds l
  | n + 1, l =>
    let h := 2 ^ n
    let l1 := polarNode kinds n (l.map fun p =>
      let x := p.llrs.headD []
      { p with llrs := ((x.take h).zip (x.drop h)).map (fun q => polarF q.1 q.2) :: p.llrs })
    let l2 := polarNode kinds n (l1.map fun p =>
      let x := p.llrs.headD []
      let b := p.parts.headD []
      { p with llrs := (((x.take h).zip (x.drop h)).zip b).map (fun q => polarG q.2 q.1.1 q.1.2) :: p.llrs })
    l2.map fun p =>
      let right := p.parts.headD []
      let left := (p.parts.drop 1).headD []
      { p with llrs := p.llrs.drop 1, parts := ((left.zip right).map (fun q => q.1 != q.2) ++ right) :: p.parts.drop 2 }

/-- Side of the triangle of the channel interleaver. -/
def triangleSide (e : Nat) : Nat := ((List.range (e + 1)).find? fun t => decide (e ≤ t * (t + 1) / 2)).getD 0
/-- Indices before the channel interleaver, in the order of its output (clause 5.4.1.3): a triangle filled by rows and read by columns. -/
def channelOrder (e : Nat) : List Nat :=
  let t := triangleSide e
  (List.range t).flatMap fun j => (List.range (t - j)).filterMap fun i =>
    let k := i * t - i * (i - 1) / 2 + j
    if k < e then some k else none

/-- LLRs of the coded bits from e received ones: the channel interleaver undone, repetitions added, punctured bits 0, shortened ones +511. -/
def polarRecover (k lg : Nat) (llrs : List Int) : List Int :=
  let e := llrs.length
  let n := 2 ^ lg
  let f := (channelOrder e).zip llrs |>.foldl (fun (t : Array Int) x => t.setIfInBounds x.1 x.2) (Array.replicate e 0)
  let y := fun i => match polarMatch k e n with
    | .repeats => clampInt (-511) 511 (((List.range ((e + n - 1 - i) / n)).map fun r => f.getD (i + r * n) 0).sum)
    | .punctures => if i < n - e then 0 else f.getD (i + e - n) 0
    | .shortens => if i < e then f.getD i 0 else 511
  ((List.range n).foldl (fun (t : Array Int) i => t.setIfInBounds (subBlock lg i) (y i)) (Array.replicate n 0)).toList

/-- The list entries of a UCI segment of k bits with its CRC, most likely first: the bits that each decides for it. -/
def polarDecodeUci (k : Nat) (llrs : List Int) : List (List Bool) :=
  let e := llrs.length
  let lg := polarLog k e 10
  let pc := uciParity k e
  let kinds := polarKinds k e lg pc.1 pc.2
  (polarNode kinds lg [{ llrs := [polarRecover k lg llrs] }]).map fun p =>
    (kinds.zip p.u.reverse).filterMap fun x => if x.1 = .info then some x.2 else none

end Sys2Proof.Machine
end

