-- ==== Sys2Proof/Machine/Coding.lean ====
section
/-! DEFINITION. The coding engines and the HARQ soft buffer (R225 to R245), over the codes of Ldpc.lean and Polar.lean. -/

namespace Sys2Proof.Machine

open Sys2Proof

/-! ### Codewords of orders in force -/

/-- The codeword with one block replaced. -/
def Codeword.updBlock (w : Codeword) (i : Nat) (f : CodeBlock → CodeBlock) : Codeword :=
  { w with blocks := (w.blocks.zipIdx).map fun e => if e.2 = i then f e.1 else e.1 }
def Codeword.block (w : Codeword) (i : Nat) : CodeBlock := (w.blocks[i]?).getD {}

/-- The codeword that a coding job works for, changed. -/
def State.updWord (s : State) (y : Job) (f : Codeword → Codeword) : State :=
  match (s.order y.order).word y.user y.cw with
  | some w => s.setOrder y.order ((s.order y.order).putWord (f w))
  | none => s

/-- Whether a coding job's order still stands. -/
def State.orderLive (s : State) (y : Job) : Bool := (s.order y.order).live

/-! ### HARQ processes (R237 to R239) -/

def softBase : Nat := 0xC000000

/-- The Court's processes, its blocks in use, and every block owned. -/
def State.courtHarq (s : State) (k : Nat) : List Harq := s.harq.filter fun p => s.carrierCourt p.carrier == k
def Harq.blocksOwned (p : Harq) : List Nat := p.owned.flatMap fun e => e.1
def State.harqUsed (s : State) (k : Nat) : Nat := ((s.courtHarq k).map fun p => p.blocksOwned.length).sum
def State.softOwned (s : State) : List Nat := s.harq.flatMap Harq.blocksOwned
/-- Blocks in service: those not withheld by a failed start-up test (R441). -/
def State.softTotal (s : State) : Nat := s.get 0x42C0 1
def State.softFree (s : State) : List Nat :=
  ((List.range 4096).filter fun b => !s.softOwned.contains b && !s.firm.harqWithheld.contains (b / 16)).take (s.softTotal - s.softOwned.length)

def Harq.is (p : Harq) (c r n q : Nat) : Bool := p.carrier == c && p.rnti == r && p.proc == n && p.cw == q
def State.findHarq (s : State) (c r n q : Nat) : Option Harq := s.harq.find? fun p => p.is c r n q
def State.putHarq (s : State) (p : Harq) : State :=
  if s.harq.any fun x => x.is p.carrier p.rnti p.proc p.cw then
    { s with harq := s.harq.map fun x => if x.is p.carrier p.rnti p.proc p.cw then p else x }
  else { s with harq := s.harq ++ [p] }
/-- A process is flushed: it owns no block and stores nothing. -/
def Harq.flush (p : Harq) : Harq := { p with owned := [], high := [], passes := 0 }

/-- HARQ fields of an uplink entry: NDI, RV, process. -/
def enNdi (u : List Byte) : Nat := fieldOf u 4 1 / 128
def enRv (u : List Byte) : Nat := fieldOf u 4 1 / 32 % 4
def enProc (u : List Byte) : Nat := fieldOf u 4 1 % 32

/-- The process of a codeword of an uplink order. -/
def State.wordHarq (s : State) (o : Order) (w : Codeword) : Option Harq :=
  s.findHarq o.carrier (enRnti (o.user w.user)) (enProc (o.user w.user)) w.cw

/-- Circular-buffer length of a codeword, under the UL_TBS_LBRM of the epoch that block r's decode carries (R23, R229). -/
def State.ulBuffer (s : State) (o : Order) (w : Codeword) (r : Nat) : Nat :=
  ncbOf (entrySeg false (o.user w.user) w.cw) ((s.forJob (w.block r).job).get (0x4240 + o.carrier) 1)

/-- Whether a queued or running decode uses a process, or one of a transmission whose combine stages have begun. -/
def State.harqBusy (s : State) (p : Harq) : Bool :=
  s.orders.any fun e => e.2.live && e.2.kind == 1 && e.2.carrier == p.carrier
    && e.2.words.any fun w => !w.ended && w.cw == p.cw && enRnti (e.2.user w.user) == p.rnti && enProc (e.2.user w.user) == p.proc
      && (w.begun || w.blocks.any fun b => (s.job b.job).live && ((s.job b.job).state == .ready || (s.job b.job).state == .running))

/-- The oldest process of a Court that holds blocks and that no decode uses (R238). -/
def State.harqVictim (s : State) (k : Nat) : Option Harq :=
  ((s.courtHarq k).filter fun p => !s.harqBusy p && p.blocksOwned != []).foldl (fun m p =>
    match m with
    | none => some p
    | some q => if p.last < q.last then some p else some q) none

/-- Processes are evicted until `need` blocks fit the Court's quota and the free blocks. -/
def State.harqEvict (s : State) (k need : Nat) : Nat → State
  | 0 => s
  | n + 1 =>
    if s.harqUsed k + need ≤ s.get (0x4280 + k) 1 ∧ need ≤ s.softFree.length then s
    else match s.harqVictim k with
      | some p => ((s.putHarq p.flush).bump (0x4280 + k) 5).harqEvict k need n
      | none => s

/-- `n` lists of `z` from a list. -/
def splitLists (z : Nat) : Nat → List Nat → List (List Nat)
  | 0, _ => []
  | n + 1, l => l.take z :: splitLists z n (l.drop z)

/-- The lookup of a transmission's process when its first combine stage begins: new data allocates blocks, a retransmission
combines, restarts, or finds nothing stored (R237, R238). `r` is the block whose decode starts. -/
def State.harqBegin (s : State) (oid : Nat) (w : Codeword) (r : Nat) : State :=
  let o := s.order oid
  let u := o.user w.user
  let c := o.carrier
  let k := s.carrierCourt c
  let seg := entrySeg false u w.cw
  let ncb := s.ulBuffer o w r
  let z := softBlocks ncb
  let now : Int := s.clock
  let passes := ((List.range seg.c).map fun r => (blockLen false u [] w.cw r + ncb - 1) / max 1 ncb).foldl max 0
  let old := s.wordHarq o w
  let fresh : Bool := match old with
    | none => true
    | some p => p.ndi != enNdi u || (p.owned != [] && p.owned.length != seg.c)
  let p0 : Harq := old.getD { carrier := c, rnti := enRnti u, proc := enProc u, cw := w.cw }
  let done := fun (s : State) (p : Harq) (nostore : Bool) =>
    (s.putHarq { p with ndi := enNdi u, last := now, lastTc := (s.tb (s.carTb c)).tc }).setOrder oid (o.putWord { w with begun := true, nostore := nostore })
  if fresh then
    let s1 := (s.putHarq p0.flush).harqEvict k (z * seg.c) (s.harq.length + 1)
    if s1.harqUsed k + z * seg.c ≤ s1.get (0x4280 + k) 1 ∧ z * seg.c ≤ s1.softFree.length ∧ s1.harq.length ≤ 16384 then
      done s1 { p0.flush with owned := (splitLists z seg.c s1.softFree).map fun l => (l, none), high := List.replicate seg.c none,
                              passes := passes } false
    else if s1.harq.length ≤ 16384 then done (s1.bump (0x4280 + k) 6) p0.flush true
    else (s.bump (0x4280 + k) 6).setOrder oid (o.putWord { w with begun := true, nostore := true })
  else if p0.owned = [] then done (s.bump (0x4280 + k) 7) p0 true
  else if 16 < p0.passes + passes then
    done (s.bump (0x4280 + k) 8) { p0 with passes := passes, high := p0.high.map fun _ => none } false
  else done s { p0 with passes := p0.passes + passes } false

/-- The 12-bit value stored at position p of a code block's soft-buffer blocks (R237). -/
def softGet (s : State) (bl : List Nat) (p : Nat) : Int :=
  let off := p / 2 * 3
  let byte := fun i => (memByte s.mem (softBase + (bl[(off + i) / 4096]?).getD 0 * 4096 + (off + i) % 4096)).toNat
  let v := byte 0 + byte 1 * 256 + byte 2 * 65536
  signed 12 (if p % 2 = 0 then v % 4096 else v / 4096)

/-- A pair of values stored in the three bytes of positions 2i and 2i + 1. -/
def softPut (s : State) (bl : List Nat) (i : Nat) (a b : Int) : State :=
  let v := wrapTo 12 a + wrapTo 12 b * 4096
  (List.range 3).foldl (fun s k =>
    let off := i * 3 + k
    s.store 1 (softBase + (bl[off / 4096]?).getD 0 * 4096 + off % 4096) (v / 256 ^ k % 256)) s

/-- What a block's new LLRs add at each buffer position: the INT8 LLRs of its handle, de-interleaved, at most sixteen passes
(R229). -/
def State.llrSums (s : State) (o : Order) (w : Codeword) (r : Nat) : Tbl Int :=
  let u := o.user w.user
  let seg := entrySeg false u w.cw
  let ncb := s.ulBuffer o w r
  let e := blockLen false u [] w.cw r
  let ps := bufPositions seg ncb
  let k0 := k0Of seg (enRv u) ncb
  let a := match (w.block r).handle with
    | some h => (s.pool h.1).base + h.2 * (s.pool h.1).bufSize
    | none => 0
  (List.range e).foldl (fun t j =>
    let k := deinterleave e (enQmOf false u w.cw) j
    if k < 16 * ps.length then Tbl.upd 0 t (selPosition ps k0 k) (fun x => x + signed 8 (memByte s.mem (a + j)).toNat) else t) []

/-- The combine stage of a decode: the new LLRs join the stored values and the sums are written back (R237, R240). -/
def State.combine (s : State) (oid : Nat) (w : Codeword) (r : Nat) : State :=
  let o := s.order oid
  let u := o.user w.user
  let seg := entrySeg false u w.cw
  let ncb := s.ulBuffer o w r
  let e := blockLen false u [] w.cw r
  let ps := bufPositions seg ncb
  let s0 := s.bumpBy 0x4200 8 (e - 16 * ps.length)
  match s0.wordHarq o w with
  | some p =>
    if w.nostore then s0
    else
      let bl := ((p.owned[r]?).getD ([], none)).1
      let high := (p.high[r]?).getD none
      let sums := s0.llrSums o w r
      let val := fun i => (if high.isSome then softGet s0 bl i else 0) + Tbl.get 0 sums i
      let s1 := (List.range ((ncb + 1) / 2)).foldl (fun s i => softPut s bl i (val (2 * i)) (val (2 * i + 1))) s0
      let h := highest seg ncb (k0Of seg (enRv u) ncb) e
      let m := match high, h with
        | some a, some b => some (max a b)
        | a, none => a
        | none, b => b
      (s1.putHarq { p with high := (p.high.zipIdx).map fun x => if x.2 = r then m else x.1 }).carryIn ((w.block r).job) 9
        (bytesOf 1 p.carrier ++ bytesOf 2 p.rnti ++ bytesOf 1 p.proc ++ bytesOf 1 p.cw ++ bytesOf 1 r ++ bytesOf 4 (m.elim 0 fun x => x + 1)
          ++ (List.range ncb).flatMap fun i => bytesOf 2 (wrapTo 16 (val i)))
  | none => s0

/-- The value at a circular-buffer position that the decode of block r sees: the combined one of the soft buffer, or the sum of its own LLRs where
the transmission is not stored (R229, R237, R238). -/
def State.softValue (s : State) (o : Order) (w : Codeword) (r : Nat) : Nat → Int :=
  match s.wordHarq o w with
  | some p =>
    if w.nostore then fun i => Tbl.get 0 (s.llrSums o w r) i
    else fun i => if ((p.high[r]?).getD none).isSome then softGet s ((p.owned[r]?).getD ([], none)).1 i else 0
  | none => fun i => Tbl.get 0 (s.llrSums o w r) i

/-- The highest buffer position a decode of the block sees (R230). -/
def State.decodeHigh (s : State) (o : Order) (w : Codeword) (r : Nat) : Nat :=
  let u := o.user w.user
  let seg := entrySeg false u w.cw
  let ncb := s.ulBuffer o w r
  let own := (highest seg ncb (k0Of seg (enRv u) ncb) (blockLen false u [] w.cw r)).getD 0
  match s.wordHarq o w with
  | some p => if w.nostore then own else max own (((p.high[r]?).getD none).getD 0)
  | none => own

/-! ### The end of a codeword (R235, R239) -/

/-- The bits of a transport block: each code block's K' bits without its CRC24B. -/
def Codeword.tbBits (w : Codeword) (seg : Seg) : List Bool :=
  w.blocks.flatMap fun b => (bitsOfBytes b.bits).take (seg.kp - if 1 < seg.c then 24 else 0)

/-- Whether the transport-block CRC holds over A + L bits (Table 10.2). -/
def tbCrcOk (l : List Bool) (a crc : Nat) : Bool :=
  let b := l.take (a + crc)
  b.length == a + crc && (if crc = 24 then crc24A b else crc16 b) == 0

/-- The process after its decode (R239): a passed block frees everything; a failed one keeps the bits of the code blocks that
passed CRC24B in place of their soft values, in one block each, which K' bits always fit. -/
def Harq.after (p : Harq) (w : Codeword) : Harq :=
  if w.status = 0 then p.flush
  else if w.status = 1 ∧ 1 < w.blocks.length then
    { p with owned := (p.owned.zipIdx).map fun e => if (w.block e.2).result = 1 then (e.1.1.take 1, some (w.block e.2).bits) else e.1 }
  else p

/-- The bits of a UCI field from its one or two segments; a field of odd length has a zero before its first segment (R236). -/
def Codeword.uciBits (w : Codeword) (len : Nat) : List Bool :=
  match w.blocks with
  | [b] => (bitsOfBytes b.bits).take len
  | [b, c] => let a := (len + 1) / 2; ((bitsOfBytes b.bits).take a).drop (2 * a - len) ++ (bitsOfBytes c.bits).take a
  | _ => []

/-- A codeword all of whose blocks have ended takes its STATUS (R235). UCI fields set their UCI_STATUS bit (R236). -/
def State.closeWord (s : State) (oid : Nat) (w : Codeword) : State :=
  let o := s.order oid
  if w.ended ∨ w.blocks.any (fun b => b.result == 0) then s
  else if 2 ≤ w.cw then
    let ok := w.blocks.all fun b => b.result == 1
    let bits := packMsb (w.uciBits (fieldOf (o.user w.user) (34 + 2 * (w.cw - 2)) 2))
    let m := Tbl.get {} o.meas w.user
    let m' : Meas := if ok then { m with uci := m.uci ||| BitVec.ofNat 3 (2 ^ (w.cw - 2)),
                                         uciBits := (((m.uciBits ++ [[], [], []]).take 3).zipIdx).map fun (e : List Byte × Nat) => if e.2 = w.cw - 2 then bits else e.1 }
      else m
    s.setOrder oid { o.putWord { w with ended := true, status := if ok then 0 else 2 } with meas := Tbl.set {} o.meas w.user m' }
  else
    let u := o.user w.user
    let seg := entrySeg false u w.cw
    let st := if w.blocks.any (fun b => b.result == 3) then 2
      else if w.blocks.any (fun b => b.result == 2) then 1
      else if tbCrcOk (w.tbBits seg) (enTbsOf false u w.cw) seg.crc then 0 else 1
    let cause := if st = 2 then ((w.blocks.find? fun b => b.result == 3).map fun b => b.cause).getD 0 else 0
    let w' := { w with ended := true, status := st, cause := cause }
    let s1 := (s.setOrder oid (o.putWord w')).bump (0x4020 + o.carrier) (8 + st)
    match s1.wordHarq o w' with
    | some p => if w'.nostore ∨ w'.begun = false then s1 else s1.putHarq (p.after w')
    | none => s1

/-- A code block has ended: its result is entered, its handle goes back, its job is complete, and the codeword may close. -/
def State.endBlock (s : State) (j result cause iters : Nat) (bits : List Byte) : State :=
  let y := s.job j
  let s1 := match (s.order y.order).word y.user y.cw with
    | some w => match (w.block y.blk).handle with
      | some h => s.returnHandle h.1 h.2
      | none => s
    | none => s
  let s2 := s1.updWord y fun w => w.updBlock y.blk fun b =>
    { b with result := result, cause := cause, iters := iters, bits := bits, handle := none }
  let s3 := s2.completeJob j
  match (s3.order y.order).word y.user y.cw with
  | some w => s3.closeWord y.order w
  | none => s3

/-! ### The queues (R226) -/

/-- Engine kind of a coding job: 0 LDPC decoder, 1 LDPC encoder, 2 polar. -/
def State.codingKind (s : State) (y : Job) : Nat :=
  if y.kind = 5 then (if y.cw < 2 then 0 else 2)
  else if enChannel ((s.order y.order).user y.user) = 0 then 1 else 2

/-- Engines of a kind. -/
def enginesOf (k : Nat) : List Nat := if k = 0 then List.range 8 else if k = 1 then [8, 9, 10, 11] else [12, 13]

def isCoding (y : Job) : Bool := y.kind == 5 || y.kind == 0x11

/-- Units of a kind in the queue. -/
def State.codingQueue (s : State) (k : Nat) : List Nat :=
  (s.jobs.filter fun e => e.2.live && isCoding e.2 && e.2.queued && e.2.state == .ready && s.codingKind e.2 == k).map fun e => e.1

/-- Queue order (R226): priority, deadline, release, carrier, RNTI, codeword, code block; a unit given back by a fault stands at the head (R241). -/
def State.unitBefore (s : State) (i j : Nat) : Bool :=
  let a := s.job i
  let b := s.job j
  let key := fun (y : Job) => [y.carrier, enRnti ((s.order y.order).user y.user), y.cw, y.blk]
  let rest := decide (key a < key b)
  if a.front ≠ b.front then a.front
  else if a.prio ≠ b.prio then decide (b.prio < a.prio)
  else
    let rel := if s.releaseKey a = s.releaseKey b then rest else keyBefore (s.releaseKey a) (s.releaseKey b)
    match s.deadlineKey a, s.deadlineKey b with
    | some x, some y => if x = y then rel else keyBefore x y
    | some _, none => true
    | none, some _ => false
    | none, none => rel

/-- A released coding job enters its queue, or waits outside a full one (R226). -/
def State.enqueueUnit (s : State) (j : Nat) : State :=
  let y := s.job j
  if 4096 ≤ (s.codingQueue (s.codingKind y)).length then (s.setJob j { y with state := .ready, queued := false }).bump 0x4200 6
  else s.setJob j { y with state := .ready, queued := true }

/-- Jobs that wait outside a full queue enter as space comes, first of the queue's order first. -/
def State.admitUnits (s : State) (k : Nat) : State :=
  if 4096 ≤ (s.codingQueue k).length then s
  else match firstBy s.unitBefore ((s.jobs.filter fun e =>
      e.2.live && isCoding e.2 && !e.2.queued && e.2.state == .ready && s.codingKind e.2 == k).map fun e => e.1) with
    | some j => s.setJob j { s.job j with queued := true }
    | none => s

def State.engineC (s : State) (e : Nat) : CodingEngine := Tbl.get {} s.coding e
def State.setEngineC (s : State) (e : Nat) (g : CodingEngine) : State := { s with coding := Tbl.set {} s.coding e g }
/-- The lowest-numbered idle engine of a kind that is not fenced. -/
def State.idleEngine (s : State) (k : Nat) : Option Nat :=
  (enginesOf k).find? fun e => (s.engineC e).state == 0 && !s.isFenced 7 e

/-- The largest number of iterations from 1 to MAX_ITER that ends by the cut-off (R227); 0 where none does. -/
def State.iterCap (s : State) (j : Nat) : Nat :=
  let y := s.job j
  match (s.order y.order).word y.user y.cw, y.deadline with
  | some w, some d =>
    let seg := entrySeg false ((s.order y.order).user y.user) y.cw
    let m := activeLayers seg (s.decodeHigh (s.order y.order) w y.blk)
    let left := airDiff (s.sample y.tb .dispatch j) (s.tcOf y.tb d)
    ((List.range ((s.forJob j).get 0x4200 2)).filter fun n =>
      decide ((cyclesToTc (decodeCycles seg m (n + 1)) (max 1 ((s.forJob j).get 0x4200 5)) : Int) ≤ left)).foldl (fun a n => max a (n + 1)) 0
  | _, _ => 0

/-- The bits kept for a block from an earlier transmission of its process (R239). -/
def State.keptBits (s : State) (j : Nat) : Option (List Byte) :=
  let y := s.job j
  match (s.order y.order).word y.user y.cw with
  | some w => match s.wordHarq (s.order y.order) w with
    | some p => if w.begun && !w.nostore then ((p.owned[y.blk]?).getD ([], none)).2 else none
    | none => none
  | none => none

/-- The state in which a decode's process is looked up: at the first decode of its transmission the lookup takes place. -/
def State.lookedUp (s : State) (j : Nat) : State :=
  let y := s.job j
  match (s.order y.order).word y.user y.cw with
  | some w => if w.begun then s else s.harqBegin y.order w y.blk
  | none => s

/-- Whether a queued decode can start: its block's bits are kept, or one iteration at least fits (R227, R239). -/
def State.decodeFits (s : State) (j : Nat) : Bool :=
  let t := s.lookedUp j
  (t.keptBits j).isSome || decide (0 < t.iterCap j)

/-- A decode is dispatched: the process is looked up at the first of its transmission, kept bits end the block at once, otherwise
the iteration cap is fixed and the combine stage runs (R227, R237 to R240). -/
def State.startDecode (s : State) (j e : Nat) : State :=
  let y := s.job j
  match (s.order y.order).word y.user y.cw with
  | some _ =>
    let s1 := s.lookedUp j
    match s1.keptBits j with
    | some b => s1.endBlock j 1 0 0 b
    | none =>
      let n := s1.iterCap j
      if n = 0 then s1
      else
        let s2 := ((if n < (s1.forJob j).get 0x4200 2 then s1.bump 0x4200 7 else s1).countGlobal 0x1032 1).noteSample y.tb .dispatch j
        let s3 := match (s2.order y.order).word y.user y.cw with
          | some w => s2.combine y.order w y.blk
          | none => s2
        (s3.setJob j { s3.job j with state := .running }).setEngineC e { s3.engineC e with state := 1, job := j, cap := n, since := s3.clock }
  | none => s.completeJob j

/-- CODING_DISPATCH: the first unit of a kind's queue that can start goes to the lowest idle engine; a decode for which not one
iteration fits stays in the queue (R226, R227). An encode takes a handle of the carrier's DL_BIT_POOL. -/
def execCodingDispatch (kind : Fin 3) (s : State) : Answer :=
  let k := kind.val
  match s.idleEngine k with
  | none => .next s
  | some e =>
    let q := if s.cut then [] else s.codingQueue k
    let fits := q.filter fun j => (s.job j).kind != 5 || k == 2 || s.decodeFits j
    match firstBy s.unitBefore fits with
    | none => .next s
    | some j =>
      let y := s.job j
      if k = 0 then .next ((s.startDecode j e).admitUnits k)
      else if y.kind = 5 then
        .next (((s.setJob j { y with state := .running }).setEngineC e { s.engineC e with state := 1, job := j, since := s.clock }).admitUnits k)
      else match s.takeHandle (s.freeQueueKey ((s.forJob j).get (0x4240 + y.carrier) 4)) j with
        | some h =>
          let s1 := h.2.2.updWord y fun w => w.updBlock y.blk fun b => { b with handle := some (h.1, h.2.1) }
          .next (((s1.setJob j { y with state := .running }).setEngineC e { s1.engineC e with state := 1, job := j, since := s.clock }).admitUnits k)
        | none => .next s

/-! ### Ends of work units -/

/-- The engine is idle again; a decoder's UNITS counts code blocks completed. -/
def State.freeEngine (s : State) (e : Nat) : State :=
  let s1 := s.setEngineC e { s.engineC e with state := 0, job := 0, cap := 0 }
  if e < 8 then s1.bump (0x4210 + e) 2 else s1

/-- Whether the CRC that judges a code block's K' decisions holds: CRC24B of a block of several, the transport block's of a single one (R234). -/
def blockCrcOk (seg : Seg) (tbs : Nat) (l : List Bool) : Bool :=
  if 1 < seg.c then crc24B l == 0 && l.length == seg.kp else tbCrcOk l tbs seg.crc

/-- LDPC_DECODE_DONE: a decoder ends its work unit: layered min-sum over the active layers with the table of the job's epoch, up to the cap that its
dispatch fixed (R227, R230 to R235). -/
def execLdpcDecodeDone (engine : Fin 8) (s : State) : Answer :=
  let g := s.engineC engine
  if g.state ≠ 1 then .next s
  else
    let y := s.job g.job
    let u := (s.order y.order).user y.user
    let seg := entrySeg false u y.cw
    let v := s.forJob g.job
    let judge := blockCrcOk seg (enTbsOf false u y.cw)
    match (s.order y.order).word y.user y.cw with
    | some w =>
      let m := activeLayers seg (s.decodeHigh (s.order y.order) w y.blk)
      let d := ldpcDecode seg (v.blobAt 0x4200 1) m g.cap (v.get 0x4200 3) (v.get 0x4200 4 == 1) judge (s.softValue (s.order y.order) w y.blk)
      .next ((s.freeEngine engine).endBlock g.job (if judge d.1 then 1 else 2) 0 d.2 (packMsb d.1))
    | none => .next (s.freeEngine engine)

/-- The K' bits of code block r of a codeword: its part of the transport block with CRC, and CRC24B where there are several (R244). -/
def codeBlockBits (seg : Seg) (tb : List Bool) (r : Nat) : List Bool :=
  let all := tb ++ natBits seg.crc (if seg.crc = 24 then crc24A tb else crc16 tb)
  let n := seg.kp - if 1 < seg.c then 24 else 0
  let b := (all.drop (r * n)).take n
  if 1 < seg.c then b ++ natBits 24 (crc24B b) else b

/-- The transport block of codeword q of a downlink entry, from what was read at TB_ADDR: codeword 1 from the next 64-byte boundary (R261). -/
def dlBlockBits (u d : List Byte) (q : Nat) : List Bool :=
  let off := if q = 0 then 0 else ((enTbs u + 7) / 8 + 63) / 64 * 64
  (bitsOfBytes (d.drop off)).take (enTbsOf true u q)

/-- Bits of a code block's rate-matching output, interleaved, from its circular buffer `src` (clause 5.4.2). -/
def rateMatched (seg : Seg) (ncb rv qm len : Nat) (src : List Bool) : List Bool :=
  let ps := bufPositions seg ncb
  let k0 := k0Of seg rv ncb
  (List.range len).map fun t => (src[selPosition ps k0 (deinterleave len qm t)]?).getD false

/-- LDPC_ENCODE_DONE: the unit's code block is encoded, rate-matched under the order's RV and DL_TBS_LBRM, interleaved and scrambled, and its bits
are written to the unit's handle (R244). -/
def execLdpcEncodeDone (engine : Fin 4) (s : State) : Answer :=
  let e := 8 + engine.val
  let g := s.engineC e
  if g.state ≠ 1 then .next s
  else
    let y := s.job g.job
    let o := s.order y.order
    let u := o.user y.user
    let seg := entrySeg true u y.cw
    let ncb := ncbOf seg ((s.forJob g.job).get (0x4240 + y.carrier) 2)
    let len := blockLen true u o.signals y.cw y.blk
    let src := ldpcEncode seg (codeBlockBits seg (dlBlockBits u (Tbl.get [] o.data y.user) y.cw) y.blk)
    let sel := rateMatched seg ncb (fieldOf u 4 1 / 4 ^ y.cw % 4) (enQmOf true u y.cw) len src
    let scr := gold (enRnti u * 2 ^ 15 + y.cw * 2 ^ 14 + enDataId u) (blockStart true u o.signals y.cw y.blk) len
    let out := (scr.zip sel).map fun x => x.1 != x.2
    let s1 := match ((o.word y.user y.cw).map fun w => (w.block y.blk).handle).getD none with
      | some h => s.writeBytes ((s.pool h.1).base + h.2 * (s.pool h.1).bufSize) (packLsb (len + 1) out)
      | none => s
    let s2 := s1.updWord y fun w => w.updBlock y.blk fun b => { b with result := 1 }
    .next ((s2.freeEngine e).completeJob g.job)

/-- POLAR_DECODE_DONE: a UCI segment is decoded from the LLRs `llrs` that UL_DETECT wrote to the field's staging handle, one byte each: of the
list's entries, most likely first, the first whose CRC6 or CRC11 holds is the field (R236). -/
def execPolarDecodeDone (engine : Fin 2) (llrs : List Byte) (s : State) : Answer :=
  let e := 12 + engine.val
  let g := s.engineC e
  let y := s.job g.job
  if g.state ≠ 1 ∨ y.kind ≠ 5 then .next s
  else
    let a0 := uciLen ((s.order y.order).user y.user) (y.cw - 2)
    let a := if 1013 ≤ a0 then (a0 + 1) / 2 else a0
    let n := if a < 20 then 6 else 11
    match (polarDecodeUci (a + n) (llrs.map fun b => signed 8 b.toNat)).find? fun l => (if n = 6 then crc6 l else crc11 l) == 0 with
    | some l => .next ((s.freeEngine e).endBlock g.job 1 0 0 (packMsb (l.take a)))
    | none => .next ((s.freeEngine e).endBlock g.job 2 0 0 [])

/-- POLAR_ENCODE_DONE: a DCI, or a PBCH payload of 32 bits, is encoded and rate-matched; a DCI's bits are scrambled with DATA_ID and RNTI, a PBCH's
with the cell identity from the part of the sequence that its SSB index names, and the bits are written (R236, R251; log entry 167). -/
def execPolarEncodeDone (engine : Fin 2) (s : State) : Answer :=
  let e := 12 + engine.val
  let g := s.engineC e
  let y := s.job g.job
  if g.state ≠ 1 ∨ y.kind ≠ 0x11 then .next s
  else
    let o := s.order y.order
    let u := o.user y.user
    let len := if enChannel u = 0x20 then 108 * enQm u else 864
    let a := bitsOfBytes (Tbl.get [] o.data y.user)
    let src := if enChannel u = 0x20 then polarEncodeDl (dciBits (a.take (enTbs u)) (enRnti u)) len else polarEncodeDl (pbchBits (a.take 32)) len
    let scr := if enChannel u = 0x20 then gold ((enRnti u * 2 ^ 16 + enDataId u) % 2 ^ 31) 0 len else gold (enDataId u) (enQm u % 8 * 864) len
    let out := (scr.zipIdx).map fun x => x.1 != (src[x.2]?).getD false
    let s1 := match ((o.word y.user y.cw).map fun w => (w.block y.blk).handle).getD none with
      | some h => s.writeBytes ((s.pool h.1).base + h.2 * (s.pool h.1).bufSize) (packLsb (len + 1) out)
      | none => s
    let s2 := s1.updWord y fun w => w.updBlock y.blk fun b => { b with result := 1 }
    .next ((s2.freeEngine e).completeJob g.job)

/-! ### Faults (R241) and the timeout (R239) -/

/-- The process of a decode is flushed. -/
def State.flushFor (s : State) (y : Job) : State :=
  match (s.order y.order).word y.user y.cw with
  | some w => match s.wordHarq (s.order y.order) w with
    | some p => s.putHarq p.flush
    | none => s
  | none => s

/-- ENGINE_FAULT: with `softRead` an uncorrectable word of soft-buffer block `block` met by the decode: its job is fenced, its process
flushed; otherwise an internal fault: the unit goes back to its queue, the engine is scrubbed, and three faults within 1 s of TB0
fence it (R241). -/
def execEngineFault (engine : Fin 14) (softRead combining : Bool) (block : BitVec 12) (s : State) : Answer :=
  let e := engine.val
  let g := s.engineC e
  let y := s.job g.job
  if softRead then
    .next (if g.state ≠ 1 ∨ y.kind ≠ 5 ∨ 7 < e then s
      else
        let s1 := (((s.flushFor y).bump 0x42C0 3).updWord y fun w => { w with nostore := true }).setEngineC e { g with state := 0, job := 0 }
        s1.fenceJob g.job 0x4B 0 block.toNat)
  else if g.state = 3 ∨ s.isFenced 7 e then .next s
  else
    let now := (s.tb 0).tc
    let recent := now :: g.faults.filter fun t => decide (airDiff t now < 1966080000)
    let s1 := if g.state = 1 then
        let s1 := if combining then (s.flushFor y).updWord y fun w => { w with nostore := true } else s
        s1.setJob g.job { y with state := .ready, queued := true, front := true }
      else s
    let s2 := if e < 8 then s1.bump (0x4210 + e) 3 else s1
    if 3 ≤ recent.length then
      .next ((s2.setEngineC e { state := 3, faults := recent }).fenceObject 7 e 0x45 recent.length 0xFF).settle
    else .next (s2.setEngineC e { state := 2, faults := recent })

/-- ENGINE_SCRUB_END: the 2,000-cycle scrub of an engine ends; engines from 14 on are the transform engines. -/
def execEngineScrubEnd (engine : Fin 22) (s : State) : Answer :=
  if engine.val < 14 then
    let g := s.engineC engine
    .next (if g.state = 2 then s.setEngineC engine { g with state := 0 } else s)
  else .next { s with transforms := Tbl.upd {} s.transforms (engine.val - 14) fun g => if g.state = 2 then { g with state := 0 } else g }

/-- HARQ_TIMEOUT: processes without a transmission for HARQ_TIMEOUT of air time free their blocks and their entry (R239). -/
def execHarqTimeout (s : State) : Answer :=
  .next { s with harq := s.harq.filter fun p =>
            s.harqBusy p || decide (airDiff p.lastTc (s.tb (s.carTb p.carrier)).tc < usToTc (1000 * s.get (0x4280 + s.carrierCourt p.carrier) 2)) }

end Sys2Proof.Machine
end

