-- ==== Sys2Proof/Machine/Receiver.lean ====
section
/-! DEFINITION. What a UL_DETECT leaves behind: LLRs in the handles of the code blocks (R207, R229), and the samples of site adaptation with their
labels (R220). -/

namespace Sys2Proof.Machine

open Sys2Proof

/-! ### LLRs (R207, R229) -/

/-- LLR_GAIN of a modulation, by its place among QM 1, 2, 4, 6, 8. -/
def State.llrGain (s : State) (c qm : Nat) : Nat := fieldOf (s.blobAt (0x4000 + c) 9) (4 * (if qm ≤ 1 then 0 else qm / 2)) 4

/-- The INT8 LLR of a per-bit output: its FP32 product with the gain, converted by VCVT; whether it saturated. -/
def llrOf (gain : Nat) (asInt : Bool) (v : BitVec 32) : Int × Bool :=
  let x := if asInt then (intToF fmtFP32 v.toInt).1 else v.toNat
  let r := ftoInt (-128) 127 (dec32 (mul32 x gain))
  (r.1, r.2 == stVSAT)

/-- LLRs with the descrambling sign of TS 38.211; −(−128) is 127 (log entry 170). -/
def descrambled (scr : List Bool) (l : List Int) : List Int := (scr.zip l).map fun x => if x.1 then min 127 (-x.2) else x.2

/-- Data resource elements of an entry in the chunk and symbol of a job: the first one's index in the codeword's order, and how many. -/
def chunkData (u : List Byte) (y : Job) : Nat × Nat :=
  let l := dataList false u [] y.sym
  (dataBefore false u [] y.sym + (l.filter fun k => decide (k < 12 * y.prb0)).length,
   (l.filter fun k => decide (12 * y.prb0 ≤ k ∧ k < 12 * (y.prb0 + y.nprb))).length)

/-- The LLRs of codeword q that a UL_DETECT has found go to the handles of its code blocks, each at its place in the block's rate-matching
output; whether one saturated. An output that the job has not written counts as 0. -/
def State.writeLlrs (s : State) (y : Job) (q : Nat) (r : UserReport) : State × Bool :=
  let o := s.order y.order
  let i := r.user.toNat
  let u := o.user i
  match o.word i q with
  | none => (s, false)
  | some w =>
    let per := enQmOf false u q * enLayersOf u q
    let d := chunkData u y
    let start := d.1 * per
    let n := d.2 * per
    let outs := ((if q = 0 then r.bits0 else r.bits1) ++ List.replicate n 0#32).take n
    let l := outs.map (llrOf ((s.forOf y).llrGain y.carrier (enQmOf false u q)) r.asInt)
    let v := descrambled (gold (enRnti u * 2 ^ 15 + q * 2 ^ 14 + enDataId u) start n) (l.map fun x => x.1)
    (((List.range w.blocks.length).foldl (fun (s : State) b =>
        match (w.block b).handle with
        | some h =>
          let a := blockStart false u [] q b
          let e := a + blockLen false u [] q b
          let lo := max a start
          let part := (v.drop (lo - start)).take (e - lo)
          s.writeBytes ((s.pool h.1).base + h.2 * (s.pool h.1).bufSize + (lo - a)) (part.map fun x => BitVec.ofInt 8 x)
        | none => s) s),
      l.any fun x => x.2)

/-! ### Samples of site adaptation (R220) -/

/-- Whether a UL_DETECT collects: the Court's detector, in a slot with ADAPT_OK, while the Court collects. -/
def State.collects (s : State) (y : Job) : Bool :=
  let k := y.court % 16
  s.get (0x4060 + k) 1 == 1 && s.get (0x4060 + k) 0x0A == 1 && fieldOf (s.order y.order).body 6 2 % 2 == 1
    && !y.breeze && y.model == s.get (0x4060 + k) 2

/-- The slot's number on its time base. -/
def State.slotNumber (s : State) (o : Order) : Nat := apSf (orSlot o.body) * 2 ^ s.tbMu (s.carTb o.carrier) + apSlot (orSlot o.body)

/-- Indices of the data resource elements that a job samples of an entry: those with i mod ADAPT_SUB equal to the slot number modulo ADAPT_SUB. -/
def State.sampled (s : State) (y : Job) (u : List Byte) : List Nat :=
  let sub := max 1 (s.get (0x4060 + y.court % 16) 4)
  let d := chunkData u y
  ((List.range d.2).map fun n => d.1 + n).filter fun i => i % sub == s.slotNumber (s.order y.order) % sub

/-- The inputs of the first adaptable layer join the order's samples. -/
def State.collect (s : State) (y : Job) (r : UserReport) : State :=
  if s.collects y = false then s
  else
    let o := s.order y.order
    let i := r.user.toNat
    let new := ((s.sampled y (o.user i)).zipIdx).map fun e => (e.1, (r.inputs[e.2]?).getD [])
    s.setOrder y.order { o with samples := Tbl.upd [] o.samples i fun l => l ++ new }

/-- The codeword's bits as sent, before scrambling: its decoded blocks encoded and rate-matched again. -/
def State.labelBits (s : State) (o : Order) (i q : Nat) : List Bool :=
  let u := o.user i
  match o.word i q with
  | some w =>
    let seg := entrySeg false u q
    let ncb := s.ulBuffer o w 0
    (w.blocks.zipIdx).flatMap fun e =>
      rateMatched seg ncb (enRv u) (enQmOf false u q) (blockLen false u [] q e.2) (ldpcEncode seg ((bitsOfBytes e.1.bits).take seg.kp))
  | none => []

/-- Samples of one user in order of i, each its input and the label bits of both codewords at its resource element. -/
def State.userSamples (s : State) (o : Order) (i : Nat) : List (List Byte) :=
  let u := o.user i
  let labels := fun (q : Nat) => (enQmOf false u q * enLayersOf u q, s.labelBits o i q)
  let l := [labels 0, labels 1]
  ((Tbl.get [] o.samples i).mergeSort fun a b => decide (a.1 ≤ b.1)).map fun e =>
    e.2 ++ packMsb (l.flatMap fun x => (x.2.drop (e.1 * x.1)).take x.1)

/-- A sample enters the Court's store; one that does not fit, and all after it, are not kept in this epoch. -/
def State.keepSample (k : Nat) (s : State) (b : List Byte) : State :=
  let size := s.get (0x4060 + k) 8 * mb
  let used := Tbl.get 0 s.adaptUsed k
  if size < used + b.length then { s with adaptUsed := Tbl.set 0 s.adaptUsed k (size + 1) }
  else { (s.xspiWrite (s.adaptStart k + used) b).bump (0x4060 + k) 0x0E with adaptUsed := Tbl.set 0 s.adaptUsed k (used + b.length) }

/-- At the record of an order the samples of each user whose blocks' CRC passed are kept, in order of user and i, the others discarded; the slot
contributes to the epoch, which ends after ADAPT_SLOTS of them and is then trained on (R220, R221). -/
def State.keepSamples (s : State) (oid : Nat) : State :=
  let o := s.order oid
  let k := s.carrierCourt o.carrier % 16
  let full := fun (s : State) => decide (s.get (0x4060 + k) 8 * mb < Tbl.get 0 s.adaptUsed k)
  let passed := o.entries.filter fun i => Tbl.get [] o.samples i != [] && o.wordStatus i 0 == 0 && [0, 3].contains (o.wordStatus i 1)
  if s.get (0x4060 + k) 0x0A ≠ 1 ∨ passed = [] then s
  else
    let r := passed.foldl (fun (x : State × List Nat) i =>
      let before := x.1.get (0x4060 + k) 0x0E
      let t := (s.userSamples o i).foldl (State.keepSample k) x.1
      (t, if full x.1 = false ∧ before ≠ t.get (0x4060 + k) 0x0E then x.2 ++ [i] else x.2)) (s, [])
    let n := Tbl.get 0 s.adaptSlots k + 1
    let s1 := r.1.setOrder oid { o with adapt := r.2 }
    if r.2 = [] then s1
    else
      let s2 := { s1 with adaptSlots := Tbl.set 0 s1.adaptSlots k n }
      if s.get (0x4060 + k) 3 ≤ n then s2.put (0x4060 + k) 0x0A 2 else s2

end Sys2Proof.Machine
end

