-- ==== Sys2Proof/Machine/DlSymbol.lean ====
section
/-! DEFINITION. What a DL_SYMBOL does: modulation, reference signals and mapping to layer slots (R249 to R251), precoding and requantising (R252),
the PRBs in the symbol's slot (R139, R187), and the layer values that go from an entry's home chip to the members (R256). -/

namespace Sys2Proof.Machine

open Sys2Proof

/-! ### Modulation (R249) -/

/-- One part of a QAM value, from the bits of its axis: the odd integer of clause 5.1 before normalisation. -/
def qamPart : List Bool → Int
  | [] => 0
  | b :: r => (if b then -1 else 1) * ((2 ^ r.length : Nat) - qamPart r)

/-- The value of QM bits: even places the real part, odd places the imaginary part. -/
def qamValue (l : List Bool) : Int × Int :=
  let axis := fun (p : Nat) => ((l.zipIdx).filter fun e => e.2 % 2 == p).map fun e => e.1
  (qamPart (axis 0), qamPart (axis 1))

/-- n QPSK-valued elements (±1, ±1) of the sequence of an initial value. -/
def qpskSeq (cinit n : Nat) : Array (Int × Int) :=
  let b := (gold cinit 0 (2 * n)).toArray
  ((List.range n).map fun i => (if b.getD (2 * i) false then -1 else 1, if b.getD (2 * i + 1) false then -1 else 1)).toArray

/-! ### Sequences of TS 38.211 clauses 7.4.1 to 7.4.3 (log entry 15) -/

/-- Initial value of a DMRS sequence: symbols per slot, slot of the frame, symbol, identity, n_SCID. -/
def dmrsInit (syms slot l id scid : Nat) : Nat := (2 ^ 17 * (syms * slot + l + 1) * (2 * id + 1) + 2 * id + scid) % 2 ^ 31

/-- A maximum-length sequence of 127 bits with taps at offsets a and 0 from x(0) to x(6). -/
def mSeq (a : Nat) (init : List Nat) : List Nat :=
  (List.range 120).foldl (fun l i => l ++ [((l[i + a]?).getD 0 + (l[i]?).getD 0) % 2]) init

/-- PSS and SSS of a cell identity: ±1. -/
def pssOf (id : Nat) : List Int :=
  let x := mSeq 4 [0, 1, 1, 0, 1, 1, 1]
  (List.range 127).map fun n => 1 - 2 * (((x[(n + 43 * (id % 3)) % 127]?).getD 0 : Nat) : Int)
def sssOf (id : Nat) : List Int :=
  let x0 := mSeq 4 [1, 0, 0, 0, 0, 0, 0]
  let x1 := mSeq 1 [1, 0, 0, 0, 0, 0, 0]
  let m0 := 15 * (id / 3 / 112) + 5 * (id % 3)
  let m1 := id / 3 % 112
  (List.range 127).map fun n =>
    (1 - 2 * (((x0[(n + m0) % 127]?).getD 0 : Nat) : Int)) * (1 - 2 * (((x1[(n + m1) % 127]?).getD 0 : Nat) : Int))

/-- A DMRS antenna port of a configuration: its CDM group, its frequency and its time cover code. -/
def dmrsPort (type2 enhanced : Bool) (p : Nat) : Nat × Nat × Nat :=
  let g := if type2 then 3 else 2
  (p / 2 % g, p % 2 + (if enhanced then 2 * (p / (4 * g)) else 0), p / (2 * g) % 2)

/-- A value under element k of a frequency cover code: 1, alternating signs, and for enhanced types quarter turns either way. -/
def covered (code k : Nat) (v : Int × Int) : Int × Int :=
  let turns := (if code = 0 then 0 else if code = 1 then 2 * k else if code = 2 then k else 3 * k) % 4
  if turns = 0 then v else if turns = 1 then (-v.2, v.1) else if turns = 2 then (-v.1, -v.2) else (v.2, -v.1)

/-- The n-th set bit of DMRS_PORTS: the port of layer n. -/
def layerPort (u : List Byte) (n : Nat) : Nat := (((List.range 24).filter fun i => (enPorts u).testBit i)[n]?).getD 0

/-! ### Layer values of an entry -/

def enDmrsId (u : List Byte) : Nat := fieldOf u 28 2
/-- DMRS_AMP. -/
def enAmp (u : List Byte) : Int := (fieldOf u 33 1 : Nat)
def scaled (a : Int) (v : Int × Int) : Int × Int := (a * v.1, a * v.2)

/-- The bits of a codeword as its encodes have written them, block after block; none of a block whose encode is not complete. -/
def State.wordBits (s : State) (o : Order) (w : Codeword) : Array Bool :=
  let u := o.user w.user
  ((w.blocks.zipIdx).flatMap fun e =>
    let n := if enChannel u = 0 then blockLen true u o.signals w.cw e.2 else if enChannel u = 0x20 then 108 * enQm u else 864
    match e.1.handle with
    | some h => ((memBytes s.mem ((n + 7) / 8) ((s.pool h.1).base + h.2 * (s.pool h.1).bufSize)).flatMap fun b =>
        (List.range 8).map fun i => b.getLsbD i).take n
    | none => List.replicate n false).toArray

/-- A codeword's bits for modulation; none where it has been zeroed (R253). -/
def State.sentBits (s : State) (o : Order) (i q : Nat) : Option (Array Bool) :=
  match o.word i q with
  | some w => if w.zeroed then none else some (s.wordBits o w)
  | none => none

/-- QAM value t of a codeword. -/
def wordValue (b : Option (Array Bool)) (qm t : Nat) : Int × Int :=
  match b with
  | some a => qamValue ((List.range qm).map fun i => a.getD (t * qm + i) false)
  | none => (0, 0)

/-- Values of a PDSCH entry in a symbol: its DMRS on its layers' ports, its PTRS on the first layer, its data on every layer (R249, R250). -/
def State.pdschVals (s : State) (o : Order) (i sym slot syms : Nat) : List LayerVal :=
  let u := o.user i
  let type2 : Bool := !dmrsType1 u
  let enhanced : Bool := (enDmrsCfg u).testBit 1
  let at_ := fun (k n : Nat) (v : Int × Int) => LayerVal.mk i k (enLayer0 u + n) v.1 v.2
  let scid := bitAt ((enDmrsCfg u).testBit 2) 0
  let top := enPrb0 u + enNprb u
  let seq := fun (l : Nat) => qpskSeq (dmrsInit syms slot l (enDmrsId u) scid) (6 * top)
  let place := fun (k : Nat) => if type2 then 2 * (k / 6) + k % 2 else k / 2
  let group := fun (k : Nat) => if type2 then k % 6 / 2 else k % 2
  let second : Bool := (occasions u).any fun c => c.2 == sym && c.1 != c.2
  let free := fun (k : Nat) => !(o.signals.any fun e => usesRe e.1 e.2 sym k)
  let band := (List.range (12 * enNprb u)).map fun k => 12 * enPrb0 u + k
  let dmrs :=
    if (enDmrs u).testBit sym = false then []
    else
      let r := seq sym
      (band.filter free).flatMap fun k => (List.range (enNlayer u)).filterMap fun n =>
        let p := dmrsPort type2 enhanced (layerPort u n)
        if group k = p.1 then
          let v := covered p.2.1 (place k % (if enhanced then 4 else 2)) (r.getD (place k) (1, 1))
          some (at_ k n (scaled (if p.2.2 = 1 ∧ second then -enAmp u else enAmp u) v))
        else none
  let ptrs :=
    let first := ((List.range 14).find? fun l => (enDmrs u).testBit l).getD 0
    let ks := band.filter fun k => isPtrs u sym k && !(enDmrs u).testBit sym && free k
    if ks = [] then [] else
      let r := seq first
      ks.map fun k => at_ k 0 (scaled (enAmp u) (r.getD (place k) (1, 1)))
  let base := dataBefore true u o.signals sym
  let words := [0, 1].map fun q => (enLayersOf u q, enQmOf true u q, s.sentBits o i q)
  let data := ((dataList true u o.signals sym).zipIdx).flatMap fun e => ((words.zipIdx).flatMap fun w =>
    (List.range w.1.1).map fun n =>
      at_ e.1 (n + if w.2 = 1 then enLayersOf u 0 else 0) (wordValue w.1.2.2 w.1.2.1 ((base + e.2) * w.1.1 + n)))
  dmrs ++ ptrs ++ data

/-- Values of a PDCCH entry: its bits over the REG list in order, nine elements of each, and its DMRS on every fourth (R251). -/
def State.pdcchVals (s : State) (o : Order) (i sym slot syms : Nat) : List LayerVal :=
  let u := o.user i
  let d := Tbl.get [] o.data i
  let regs := u16s (6 * enQm u) (d.drop ((((enTbs u + 7) / 8) + 63) / 64 * 64))
  let bits := s.sentBits o i 0
  let r := qpskSeq (dmrsInit syms slot sym (enDmrsId u) 0) (3 * (enPrb0 u + enNprb u))
  (regs.zipIdx).flatMap fun e =>
    if enSym0 u + e.1 % max 1 (enNsym u) ≠ sym then []
    else
      let prb := enPrb0 u + e.1 / max 1 (enNsym u)
      (List.range 12).map fun k =>
        let v := if k % 4 = 1 then scaled (enAmp u) (r.getD (3 * prb + k / 4) (1, 1))
          else wordValue bits 2 (9 * e.2 + (k - (k + 2) / 4))
        ⟨i, 12 * prb + k, enLayer0 u, v.1, v.2⟩

/-- Values of an SSB entry in its symbol l of four: PSS, PBCH with its DMRS, SSS (R251). -/
def State.ssbVals (s : State) (o : Order) (i sym : Nat) : List LayerVal :=
  let u := o.user i
  let id := enDataId u
  let l := sym - enSym0 u
  let k0 := 12 * enPrb0 u + enRate u
  let bits := s.sentBits o i 0
  let ssb := enQm u % 8
  let r := qpskSeq (2 ^ 11 * (ssb + 1) * (id / 4 + 1) + 2 ^ 6 * (ssb + 1) + id % 4) 144
  let pbch := fun (l : Nat) => if l = 1 ∨ l = 3 then List.range 240 else if l = 2 then (List.range 48) ++ (List.range 48).map fun k => 192 + k else []
  let part := fun (dm : Bool) (l : Nat) => (pbch l).filter fun k => (k % 4 == id % 4) == dm
  let before := fun (dm : Bool) => ((List.range l).map fun j => (part dm j).length).sum
  let at_ := fun (k : Nat) (v : Int × Int) => LayerVal.mk i (k0 + k) (enLayer0 u) v.1 v.2
  let real := fun (q : List Int) => (q.zipIdx).map fun e => at_ (56 + e.2) (enAmp u * e.1, 0)
  (if l = 0 then real (pssOf id) else if l = 2 then real (sssOf id) else [])
    ++ ((part true l).zipIdx).map (fun e => at_ e.1 (scaled (enAmp u) (r.getD (before true + e.2) (1, 1))))
    ++ ((part false l).zipIdx).map fun e => at_ e.1 (wordValue bits 2 (before false + e.2))

/-- Values of an RS_LIST entry: (DMRS_AMP, 0) at each of its items (R249). -/
def listVals (o : Order) (i sym : Nat) : List LayerVal :=
  let u := o.user i
  let d := Tbl.get [] o.data i
  (List.range (enTbs u)).filterMap fun n =>
    if fieldOf d (4 * n + 2) 1 = sym then some ⟨i, fieldOf d (4 * n) 2, fieldOf d (4 * n + 3) 1, enAmp u, 0⟩ else none

/-- Layer values of an entry in a symbol of its slot. An entry whose data could not be read has none, nor one that is not sent for capacity
(R255, R262). -/
def State.entryVals (s : State) (o : Order) (i sym : Nat) : List LayerVal :=
  let u := o.user i
  let tb := s.carTb o.carrier
  let slot := apSf (orSlot o.body) * 2 ^ s.tbMu tb + apSlot (orSlot o.body)
  if o.capacity.contains i ∨ o.readFail.contains i ∨ sym < enSym0 u ∧ enChannel u ≠ 0x40 then []
  else if enChannel u = 0 then (if sym < enSym0 u + enNsym u then s.pdschVals o i sym slot (s.slotSyms tb) else [])
  else if enChannel u = 0x20 then s.pdcchVals o i sym slot (s.slotSyms tb)
  else if enChannel u = 0x30 then (if sym < enSym0 u + 4 then s.ssbVals o i sym else [])
  else listVals o i sym

/-! ### Precoding (R252) -/

/-- Whether an entry uses a PRB of a symbol: a PRB that carries at least one of its resource elements (R248). -/
def Order.usesPrb (o : Order) (i sym u : Nat) : Bool :=
  let e := o.user i
  if o.capacity.contains i then false
  else if enChannel e = 0 then decide (enPrb0 e ≤ u ∧ u < enPrb0 e + enNprb e ∧ enSym0 e ≤ sym ∧ sym < enSym0 e + enNsym e)
  else usesPrbs e (Tbl.get [] o.data i) sym u 1

/-- PRG of a PRB of an entry: the first begins at the entry's PRB0 (log entry 171). -/
def prgOf (u : List Byte) (prb : Nat) : Nat := if fieldOf u 34 1 = 0 then 0 else (prb - enPrb0 u) / fieldOf u 34 1

/-- Weight of layer i of an entry for port p of the system in a PRB, from the bytes at PRECODER_ADDR. -/
def precoderWeight (u : List Byte) (w : Array Byte) (nport prb i p : Nat) : Int × Int :=
  let off := 2 * ((prgOf u prb * enNlayer u + i) * nport + p)
  ((w.getD off 0#8).toInt, (w.getD (off + 1) 0#8).toInt)

/-- The exact sum over layer slots for one subcarrier and port, through the requantiser to CI16: real and imaginary part, and the clamps. -/
def State.precoded (s : State) (o : Order) (ws : Array (Array Byte)) (p : Nat) (l : List LayerVal) : Int × Int × Nat :=
  let c := o.carrier
  let acc := l.foldl (fun (a : Int × Int) v =>
    let u := o.user v.user
    let w := precoderWeight u (ws.getD v.user #[]) (s.car c 4) (v.k / 12) (v.layer - enLayer0 u) p
    (a.1 + (w.1 * v.re - w.2 * v.im), a.2 + (w.1 * v.im + w.2 * v.re))) (0, 0)
  let q := fun (x : Int) => requant x (signed 32 (s.get (0x4100 + c) 3)) (s.get (0x4100 + c) 4) 0 3
  ((q acc.1).1, (q acc.2).1, bitAt (q acc.1).2 0 + bitAt (q acc.2).2 0)

/-- Symbol number of a job's symbol. -/
def State.jobSymbol (s : State) (y : Job) : Nat :=
  let tb := s.carTb y.carrier
  s.symNumber tb (s.symsLater tb y.sym (s.tcOf tb (orSlot (s.order y.order).body)))

/-- The header of the downlink slot of symbol n, where it holds another symbol. -/
def State.claimDl (s : State) (c n : Nat) : State :=
  if s.slotSymbol c true n = n then s
  else (s.slotHeader c true n (s.airOf (s.carTb c) (s.symStartTc (s.carTb c) n))).clearPresence c true n

/-- The PRBs of a job's chunk that entries use are precoded for every port of this chip and written, and their presence bits set; clamps count in
the order and in DL_CLAMP. -/
def State.writeChunk (s : State) (y : Job) (vals : List LayerVal) : State :=
  let o := s.order y.order
  let c := y.carrier
  let n := s.jobSymbol y
  let users := List.range (orCount o.body)
  let prbs := ((List.range y.nprb).map fun i => y.prb0 + i).filter fun u => (users.any fun i => o.usesPrb i y.sym u) || vals.any fun v => v.k / 12 == u
  let ws := (users.map fun i => (Tbl.get [] o.weights i).toArray).toArray
  let rows := ((List.range (12 * y.nprb)).map fun k => vals.filter fun v => v.k == 12 * y.prb0 + k).toArray
  let r := (List.range (s.localPorts c)).foldl (fun (a : State × Nat) port =>
    prbs.foldl (fun (a : State × Nat) u =>
      let x := (List.range 12).map fun e => (s.forOf y).precoded o ws (256 * s.chip + port) (rows.getD (12 * (u - y.prb0) + e) [])
      let parts := x.flatMap fun q => [q.1, q.2.1]
      ((a.1.storeBytes (a.1.prbAddr c true n port u) (prbStored (s.areaWidth c true) parts)).setPresent c true n port u,
       a.2 + (x.map fun q => q.2.2).sum)) a) (s.claimDl c n, 0)
  (r.1.setOrder y.order { o with clamps := o.clamps + r.2 }).bumpBy (0x4120 + c) 6 r.2

/-! ### Home chips (R256) -/

/-- Chips whose entries have PRBs in a job's chunk and symbol; this chip alone in a system of one. -/
def State.chunkHomes (s : State) (y : Job) : List Nat :=
  let o := s.order y.order
  match o.home with
  | none => [s.chip]
  | some _ => (((List.range (orCount o.body)).filter fun i =>
      ((List.range y.nprb).any fun p => o.usesPrb i y.sym (y.prb0 + p))).map fun i => enHome (o.user i)).eraseDups

/-- Layer values of the entries homed on this chip in a job's chunk. -/
def State.ownVals (s : State) (y : Job) : List LayerVal :=
  let o := s.order y.order
  (o.entries.flatMap fun i => s.entryVals o i y.sym).filter fun v => decide (12 * y.prb0 ≤ v.k ∧ v.k < 12 * (y.prb0 + y.nprb))

/-- Whether the layer values of every home chip of a job's chunk are here. -/
def State.valsHere (s : State) (y : Job) : Bool :=
  (s.chunkHomes y).all fun h => (s.order y.order).layers.any fun l => l.sym == y.sym && l.chunk == y.chunk && l.home == h

/-- A chunk whose layer values are all here is precoded and written. -/
def State.precodeChunk (s : State) (y : Job) : State :=
  if s.valsHere y then
    s.writeChunk y (((s.order y.order).layers.filter fun l => l.sym == y.sym && l.chunk == y.chunk).flatMap fun l => l.vals)
  else s

/-- Layer values as they travel: carrier, SLOT, symbol, chunk, then user, subcarrier, layer slot and the CI8 parts of each. -/
def valsPacket (b : List Byte) (v : ChunkVals) : List Byte :=
  bytesOf 1 (orCarrier b) ++ bytesOf 8 (orSlot b) ++ bytesOf 1 v.sym ++ bytesOf 2 v.chunk
    ++ v.vals.flatMap fun x => bytesOf 1 x.user ++ bytesOf 2 x.k ++ bytesOf 1 x.layer ++ [BitVec.ofInt 8 x.re, BitVec.ofInt 8 x.im]

/-- A DL_SYMBOL completes: this chip's layer values are formed, sent to the other members, and the chunk is written as soon as every home
chip's are here. -/
def State.dlSymbolDone (s : State) (j : Nat) : State :=
  let y := s.job j
  let o := s.order y.order
  let v : ChunkVals := ⟨y.sym, y.chunk, s.chip, s.ownVals y⟩
  let mask := (s.forOf y).get 0x2600 5
  let s1 := s.setOrder y.order { o with layers := o.layers ++ [v] }
  let s2 := if o.home.isSome ∧ (s.chunkHomes y).contains s.chip then
      (List.range 24).foldl (fun (s : State) m => if mask.testBit m ∧ m ≠ s.chip then s.sendDown mask m 14 (valsPacket o.body v) else s) s1
    else s1
  s2.precodeChunk y

/-- The downlink order of a packet's carrier and slot. -/
def State.packetOrder (s : State) (b : List Byte) : Option Nat :=
  (s.orders.find? fun e => e.2.live && e.2.kind == 2 && e.2.carrier == fieldOf b 0 1 && orSlot e.2.body == fieldOf b 1 8).map fun e => e.1

/-- Layer values of another chip arrive. -/
def State.valsIn (s : State) (src : Nat) (b : List Byte) : State :=
  match s.packetOrder b with
  | some id =>
    let o := s.order id
    let rec go : Nat → List Byte → List LayerVal
      | 0, _ => []
      | n + 1, x => if x.length < 6 then []
        else ⟨fieldOf x 0 1, fieldOf x 1 2, fieldOf x 3 1, signed 8 (fieldOf x 4 1), signed 8 (fieldOf x 5 1)⟩ :: go n (x.drop 6)
    let v : ChunkVals := ⟨fieldOf b 9 1, fieldOf b 10 2, src, go b.length (b.drop 12)⟩
    if o.layers.any fun l => l.sym == v.sym && l.chunk == v.chunk && l.home == src then s
    else
      let s1 := s.setOrder id { o with layers := o.layers ++ [v] }
      match s1.jobs.find? fun e => e.2.live && e.2.order == id && e.2.kind == 0x12 && e.2.sym == v.sym && e.2.chunk == v.chunk && e.2.done && !e.2.lost with
      | some e => s1.precodeChunk e.2
      | none => s1
  | none => s

end Sys2Proof.Machine
end

