-- ==== Sys2Proof/Machine/Jobs.lean ====
section
/-! DEFINITION. Slot-order entries, the release, placement and completion of jobs, reports and records, swapping, and the disposal of
fenced jobs (R13 to R16, R31, R199 to R219, R246 to R263, R268 to R279, R289, R290, R379, R381, R393). -/

namespace Sys2Proof.Machine

open Sys2Proof

/-! ### Slot-order rings (R379, R381) -/

/-- The samples of the doorbell that announced entry `i` of a ring. -/
def samplesFor (l : List (BitVec 32 × List Nat)) (i : BitVec 32) : List Nat :=
  ((l.find? fun e => !(e.1 - (i + 1)).msb).map fun e => e.2).getD []

/-- SO_ENTRY_READ: the next announced entry of a slot-order ring and its body are read, checked in the order of R381, and the order is
accepted or refused; a malformed entry is skipped and answered with an error record. -/
def execSoEntryRead (func : Fin 16) (ring : Fin 4) (entry body : List Byte) (readable : Bool) (s : State) : Answer :=
  let f := func.val
  let q := 2 + ring.val
  let r := s.ring f q
  if r.enabled = false ∨ r.host = r.dev ∨ s.cut ∨ s.injecting ∨ s.get 0x31A0 9 ≠ 0 ∨ s.get 0x1001 6 = 1 then .next s
  else
    let smp := samplesFor r.samples r.dev
    let s1 := (s.setRing f q { r with samples := r.samples.filter fun e => e.1 != r.dev + 1 }).advanceDev f q 1
    match entryReason entry body readable with
    | some n => .next (((s1.bump (0x2410 + f) 3).hostViolation f).record f ring (errorRecord q n r.dev.toNat entry))
    | none => .next (s1.acceptOrder f ring (body.take (fieldOf entry 10 2)) smp)

/-! ### Release (R11, R14, R23, R31, R199, R206 to R212, R229, R246) -/

/-- Whether the completion that a job waits for has happened. -/
def State.depDone (s : State) (d : Nat) : Bool :=
  let y := s.job d
  !y.live || y.done || y.state == .completed
def State.depsDone (s : State) (y : Job) : Bool := y.deps.all s.depDone

/-- Whether the last UL_DECODE of an order has completed, and with it the chain before it (Table 9.1). -/
def State.reportEarly (s : State) (o : Order) : Bool :=
  o.live && (o.jobs.any fun i => (s.job i).kind == 5) && (o.words.all fun w => w.ended)
    && o.jobs.all fun i => (s.job i).kind == 6 || s.depDone i

/-- The release air position of a job, as a Tc count: its own, or the completion of the last input it waits for where that is later; of a UL_REPORT the
cut-off, or the last completion before it (Table 9.1, R23). -/
def State.releasePos (s : State) (j : Nat) : Nat :=
  let y := s.job j
  let o := s.order y.order
  let t0 := s.tcOf y.tb y.release % airPeriod
  let ends := fun (l : List Nat) => (l.filter fun d => (s.job d).live && (s.job d).done).map fun d => (s.job d).doneAt
  let latest := fun (l : List Nat) => firstBy (fun a b => decide (0 < airDiff b a)) l
  if y.kind = 6 then
    (match (if s.reportEarly o then latest (ends (o.jobs.filter fun i => (s.job i).kind != 6)) else none) with
    | some t => if 0 < airDiff t t0 then t else t0
    | none => t0)
  else (latest (t0 :: ends y.deps)).getD t0

/-- Whether a job may be released now. -/
def State.releasable (s : State) (j : Nat) : Bool :=
  let y := s.job j
  let o := s.order y.order
  y.live && y.state == .waiting
    && (if y.kind = 6 then s.reached y.tb (s.tcOf y.tb y.release) || s.reportEarly o
        else s.reached y.tb (s.tcOf y.tb y.release) && s.depsDone y)
    && (y.kind != 0x11 || o.ready.contains y.user)

/-- The job counts as released at its release air position: SUBMITTED, its epoch, and the earliest and latest release of its order (R23, R279,
Table 9.6). -/
def State.countRelease (s : State) (j : Nat) : State :=
  let t := s.releasePos j
  let y : Job := { s.job j with release := s.airOf (s.job j).tb t }
  let e := s.epochOf y.court
  let key := s.releaseKey y
  let y' := { y with epoch := e, releasedAt := t }
  let s1 := (s.setJob j y').bump (0x3020 + y.court) 1
  let o := s1.order y.order
  if o.live then
    s1.setOrder y.order { o with
      first := match o.first with
        | some f => if keyBefore key f.1 then some (key, e) else some f
        | none => some (key, e),
      last := match o.last with
        | some f => if keyBefore key f.1 then some f else some (key, e)
        | none => some (key, e) }
  else s1

/-- The users that an uplink stage job serves: those of its chunk with the occasion of an estimate or of weights, or with the data symbol detected. -/
def State.servedUsers (s : State) (y : Job) : List Nat :=
  (s.chunkUsers y).filter fun i =>
    let u := (s.order y.order).user i
    if y.kind = 4 then (dataSymbols u).contains y.sym else (occasions u).any fun o => o.1 == y.occ

/-- Which receivers served the users of an uplink stage job that has completed (R211); PUCCH is always detected by Breeze (R214). -/
def State.countReceiver (s : State) (j : Nat) : State :=
  let y := s.job j
  let o := s.order y.order
  if o.live ∧ 2 ≤ y.kind ∧ y.kind ≤ 4 then
    s.setOrder y.order ((s.servedUsers y).foldl (fun (o : Order) i =>
      if y.breeze ∨ (y.kind = 4 ∧ enChannel (o.user i) ≠ 0) then { o with breeze := Tbl.upd 0 o.breeze i fun n => n + 1 }
      else { o with learned := Tbl.upd 0 o.learned i fun n => n + 1 }) o)
  else s

/-- The model of an uplink stage job, resolved at its release (R14, R206, R208, R211, R212, R214). -/
def State.resolve (s : State) (j : Nat) : State :=
  let y := s.job j
  let o := s.order y.order
  let c := y.carrier
  let m := s.stageModel o.body y.kind
  let x := s.model m
  let pucch : Bool := y.kind == 4 && ((s.servedUsers y).all fun i => enChannel (o.user i) != 0)
  let forced := s.breezeService || pucch || y.deps.any fun d => (s.job d).breeze && decide ((s.job d).kind = 2 ∨ (s.job d).kind = 3)
  let fall := fun (s : State) => s.setJob j { y with model := 0xFFFF, breeze := true, cycles := y.costB, inClass := 1, outClass := 1 }
  if forced ∨ m = 0xFFFF then fall s
  else if x.live = false then fall (s.bump (0x4020 + c) 4)
  else if s.serves m (s.instantAt y.tb (s.tcOf y.tb y.release)) = false then fall ((s.bump (0x4020 + c) 4).demandLoad m)
  else match x.cost m (s.localPorts c) (chunkLayers ((s.chunkUsers y).map o.user)) with
    | none => fall (s.bump (0x4020 + c) 5)
    | some per =>
      if y.deps.any fun d => (s.job d).epoch != y.epoch && (s.job d).outClass != x.inClass then fall (s.bump (0x4020 + c) 7)
      else
        let s1 := s.setJob j { y with model := m, cycles := per * 12 * y.nprb, inClass := x.inClass, outClass := x.outClass }
        { s1 with bench := Tbl.upd {} s1.bench m fun b =>
            { b with usedAt := let u := s.instantAt y.tb (s.tcOf y.tb y.release); if s.instantBefore b.usedAt u then u else b.usedAt } }

/-- The fence cause of what a job's input was lost with: MEMBER_LOST (0x49) where a reduction missed a member (R310); and the cause of its
blocks, MEMBER_LOST or FENCED (Table 9.8). -/
def State.lostCause (s : State) (y : Job) : Nat := if y.deps.any fun d => (s.job d).lost && (s.job d).cause == 0x49 then 0x49 else 0
def State.blockCause (s : State) (y : Job) : Nat := if s.lostCause y = 0x49 then 6 else 4

/-- A stage job whose input was lost with a fenced job enters no core: what it would have written is absent (R211). -/
def State.loseJob (s : State) (j : Nat) : State :=
  s.setJob j { s.job j with lost := true, done := true, doneAt := s.releasePos j, state := .completed, cause := s.lostCause (s.job j) }

/-- Release of a job: a coding job enters its queue, a control-complex job runs, any other is resolved and placed. -/
def State.releaseJob (s : State) (j : Nat) : State :=
  let y := s.job j
  let lost := y.deps.any fun d => (s.job d).lost
  if lost ∧ (y.kind = 3 ∨ y.kind = 4) then s.loseJob j
  else
    let s1 := s.countRelease j
    if lost ∧ y.kind = 5 then s1.endBlock j 3 (s.blockCause y) 0 []
    else if isCoding y then s1.enqueueUnit j
    else if y.kind = 6 ∨ y.kind = 0x14 then s1.setJob j { s1.job j with state := .running }
    else
      let s2 := if 2 ≤ y.kind ∧ y.kind ≤ 4 then s1.resolve j else s1
      let z := s2.job j
      let s3 := if z.order ≠ 0 then s2.setJob j { z with window := Config.stageWindow z.kind z.model % 1793 } else s2
      s3.tryPlace j

/-- A job of a customer graph, of adaptation or of in-service testing becomes a descriptor (Table 12.2). -/
def reqJob (r : JobReq) : Job :=
  { kind := r.kind.toNat, court := r.court, prio := if r.kind = 0x20#8 then r.prio else 0, tb := r.tb, model := r.model.toNat,
    carrier := r.carrier.toNat, chunk := r.chunk.toNat, release := r.release.toNat,
    deadline := if r.deadline = BitVec.allOnes 64 then none else some r.deadline.toNat, inQueues := r.inQueues, outQueues := r.outQueues,
    groups := if r.groups = 2#8 then 2 else if r.groups = 4#8 then 4 else 1, window := r.window.toNat % 1793, cycles := r.cycles.toNat }

/-- JOB_RELEASE: a job is released at its release air position, and placed or queued (R31, R271). With `req` a job of a customer
graph, of adaptation or of testing is made first; its JOB_ID is the next one. -/
def execJobRelease (job : BitVec 32) (req : Option JobReq) (s : State) : Answer :=
  let r := match req with
    | some q => s.newJob (reqJob q)
    | none => (s, job.toNat)
  .next (if r.1.releasable r.2 ∧ s.cut = false then r.1.releaseJob r.2 else r.1)

/-! ### Records (R200, R218, R263) -/

def align64 (a : Nat) : Nat := (a + 63) / 64 * 64

/-- The payloads of one user: each codeword that passed, then the decoded UCI fields, each in its place (R218). -/
def State.writePayload (s : State) (o : Order) (i : Nat) : State :=
  let u := o.user i
  let a0 := fieldOf u 56 8
  let word := fun (s : State) (q a : Nat) =>
    match o.word i q with
    | some w =>
      let t := enTbsOf false u q
      if w.status = 0 then s.hostWrite a (packMsb ((w.tbBits (entrySeg false u q)).take t)) else s
    | none => s
  let a1 := align64 (a0 + (enTbs u + 7) / 8)
  let a2 := align64 (a1 + (enTbsOf false u 1 + 7) / 8)
  let s1 := word (word s 0 a0) 1 a1
  let m := Tbl.get {} o.meas i
  ([0, 1, 2].foldl (fun (x : State × Nat) f =>
    let n := (uciLen u f + 7) / 8
    let b := ((m.uciBits[f]?).getD []).take n
    (if 0 < n ∧ m.uci.getLsbD f then x.1.hostWrite x.2 b else x.1, x.2 + n)) (s1, a2)).1

/-- An order is finished: its descriptors that have ended leave, and the order with them. -/
def State.dropOrder (s : State) (oid : Nat) : State :=
  let o := s.order oid
  { s with orders := Tbl.set {} s.orders oid {},
           jobs := s.jobs.filter fun e => !(o.jobs.contains e.1 && (e.2.state == .completed || e.2.state == .waiting)) }

/-- The result record of an uplink order is written with its payloads, and the order is finished (R218). -/
def State.writeUplink (s : State) (oid : Nat) : State :=
  let s := s.keepSamples oid
  let o := s.order oid
  let e := s.epochOf (s.carrierCourt o.carrier % 16)
  let s1 := o.entries.foldl (fun s i => s.writePayload o i) s
  let rec_ := s1.ulRecord o 0 ((o.first.map fun x => x.2).getD e) ((o.last.map fun x => x.2).getD e)
  (if o.home = some [] then s1 else (s1.record o.func o.ring rec_).bumpFree).dropOrder oid

/-- A UL_DECODE that has not completed is cancelled at the cut-off: NOT_DECODED with cause DEADLINE, or FENCED where its LLRs were lost;
an engine that works on it is free (R200, R211, R240). -/
def State.cancelDecode (s : State) (j : Nat) : State :=
  let y := s.job j
  let cause := if y.deps.any fun d => (s.job d).lost then s.blockCause y else 3
  let s1 := { s with coding := Tbl.mapV {} s.coding fun g => if g.state = 1 ∧ g.job = j then { g with state := 0, job := 0, cap := 0 } else g }
  let s2 := if y.lateCounted then s1 else (s1.setJob j { y with lateCounted := true, done := true }).bump (0x3020 + y.court) 5
  if y.state = .waiting then
    let s3 := s2.setJob j { s2.job j with state := .completed }
    s3.endBlock j 3 cause 0 []
  else s2.endBlock j 3 cause 0 []

/-- REPORT_CUTOFF: at the report cut-off of the order whose UL_REPORT is `job`, decodes not complete are cancelled and the record is
written (R200, R218). -/
def execReportCutoff (job : BitVec 32) (s : State) : Answer :=
  let j := job.toNat
  let y := s.job j
  let o := s.order y.order
  if y.live = false ∨ y.kind ≠ 6 ∨ o.live = false ∨ s.reached y.tb (s.cutoff o.body) = false then .next s
  else
    let open_ := (o.words.filter fun w => !w.ended).flatMap fun w => (w.blocks.filter fun b => b.result == 0).map fun b => b.job
    let s0 := if y.state = .waiting then s.countRelease j else s
    let s1 := open_.foldl (fun s i => s.cancelDecode i) s0
    let s2 := if open_ = [] then s1 else s1.lateEvent y.court
    .next ((s2.completeJob j).writeUplink y.order)

/-- The reduction unit that a UL_WEIGHTS or UL_DETECT takes at the home chip of a user it serves (R215, R308). -/
def State.unitFor (s : State) (y : Job) : RedHeld → Bool := fun u =>
  u.carrier == y.carrier && u.sym == s.jobSymbol y % 2 ^ 32 && u.chunk == y.chunk && u.kind == y.kind && u.home == s.chip

/-- Whether transforms of a UL_FRONT or DL_TD are still to be done (R202, R257). -/
def State.transformsLeft (s : State) (j : Nat) : Bool :=
  let y := s.job j
  (y.kind == 1 || y.kind == 0x13) && decide (0 < s.localPorts y.carrier)
    && (y.ports != some [] || s.transforms.any fun e => e.2.state == 1 && e.2.job == j)

/-- Whether a job waits for its reduction: a user it serves is at home here, and the sum of every member has not come (R21). -/
def State.awaitsUnit (s : State) (y : Job) : Bool :=
  let o := s.order y.order
  (y.kind == 3 || y.kind == 4) && o.home.isSome && ((s.servedUsers y).any o.entries.contains)
    && !(s.mgl.units.any fun u => s.unitFor y u && u.done)

/-- The finished sum goes to its job. -/
def State.takeUnit (s : State) (y : Job) : State :=
  if y.kind = 3 ∨ y.kind = 4 then { s with mgl := { s.mgl with units := s.mgl.units.filter fun u => !(s.unitFor y u && u.done) } } else s

/-- What a UL_CHEST or UL_DETECT has found for a user at home here: measurements, and of a UL_DETECT the LLRs and samples. A user without a report
has none, and LLRs of 0; whether an LLR saturated. -/
def State.receive (s : State) (y : Job) (users : List UserReport) (i : Nat) : State × Bool :=
  let o := s.order y.order
  let r : UserReport := (users.find? fun r => r.user.toNat == i).getD { user := BitVec.ofNat 8 i }
  let mine : UserReport := if y.kind = 2 then { user := r.user, freq := r.freq, timing := r.timing } else { r with freq := none, timing := none }
  let breeze : Bool := y.breeze || enChannel (o.user i) != 0
  let s1 := s.setOrder y.order { o with meas := Tbl.upd {} o.meas i fun m => m.join mine breeze }
  if y.kind = 2 then (s1, false)
  else
    let a := s1.writeLlrs y 0 r
    let b := a.1.writeLlrs y 1 r
    (b.1.collect y r, a.2 || b.2)

/-- What a receiver job leaves behind for its users; a UL_DETECT in which an LLR saturated counts in LLR_SAT (R207). -/
def State.receiverDone (s : State) (y : Job) (users : List UserReport) : State :=
  let o := s.order y.order
  let r := ((s.servedUsers y).filter o.entries.contains).foldl (fun (a : State × Bool) i =>
    let b := a.1.receive y users i
    (b.1, a.2 || b.2)) (s, false)
  if r.2 then r.1.bump (0x4020 + y.carrier) 0x0C else r.1

/-- JOB_COMPLETION: the completion event of a job: its time base is sampled and its deadline judged (R31, R201); a job that waits for its reduction
or for transforms does not complete (R21, R202, R257). `users` is what a receiver job has found. A UL_REPORT that was released before the cut-off writes its record here. -/
def execJobCompletion (job : BitVec 32) (users : List UserReport) (s : State) : Answer :=
  let j := job.toNat
  let y := s.job j
  let o := s.order y.order
  if y.live = false ∨ y.done ∨ y.state = .waiting ∨ y.state = .ready ∨ y.state = .fenced ∨ isCoding y ∨ y.kind = 0x14 then .next s
  else if y.kind = 6 then .next (if o.live ∧ o.words.all (fun w => w.ended) then (s.completeJob j).writeUplink y.order else s)
  else if s.transformsLeft j ∨ s.awaitsUnit y then .next s
  else
    let s1 := ((s.takeUnit y).judge j).countReceiver j
    .next (if o.live = false then s1
      else if y.kind = 2 ∨ y.kind = 4 then s1.receiverDone y users
      else if y.kind = 0x12 then s1.dlSymbolDone j
      else s1)

/-- Handles that encodes of an order still hold go back to their pools. -/
def State.returnBits (s : State) (oid : Nat) : State :=
  ((s.order oid).words.flatMap fun w => w.blocks.filterMap fun b => b.handle).foldl (fun s h => s.returnHandle h.1 h.2) s

/-- DL_REPORT_WRITE: after the last downlink window of the slot has closed, the completion record is written (R263). -/
def execDlReportWrite (job : BitVec 32) (s : State) : Answer :=
  let j := job.toNat
  let y := s.job j
  let o := s.order y.order
  if y.live = false ∨ y.kind ≠ 0x14 ∨ y.state ≠ .running ∨ o.live = false then .next s
  else
    let e := s.epochOf (y.court % 16)
    let s0 := s.completeJob j
    let s1 := if o.home = some [] then s0
      else s0.record o.func o.ring (dlRecord o 0 ((o.first.map fun x => x.2).getD e) ((o.last.map fun x => x.2).getD e))
    .next ((s1.returnBits y.order).dropOrder y.order)

/-- Drops a downlink order whose entries were found invalid after their data was read: its record carries BAD_ORDER (R262, R263). -/
def State.badDownlink (s : State) (oid : Nat) : State :=
  let o := s.order oid
  (({ (s.returnBits oid).dropOrder oid with cplane := s.cplane.filter fun r => r.order != oid }).refuseOrder o.func o.ring o.body 2)

/-- Whether the indices read for an entry lie inside the carrier and DL_SYMBOLS, or the entry's CORESET (R262). -/
def State.indicesOk (s : State) (c mask : Nat) (u d : List Byte) : Bool :=
  if enChannel u = 0x20 then
    (u16s (6 * enQm u) (d.drop (align64 ((enTbs u + 7) / 8)))).all fun r => decide (r < enNprb u * enNsym u)
  else if enChannel u = 0x40 then
    (List.range (enTbs u)).all fun i => decide (fieldOf d (4 * i) 2 < 12 * s.car c 3) && mask.testBit (fieldOf d (4 * i + 2) 1)
      && decide (fieldOf d (4 * i + 3) 1 < 32)
  else true

/-- Whether two PDCCH, SSB or RS_LIST entries carry a resource element on one layer slot (R262). -/
def signalsClash (nprb : Nat) (u d v e : List Byte) : Bool :=
  (List.range 14).any fun k => (List.range (12 * nprb)).any fun p => usesRe u d k p && usesRe v e k p &&
    (List.range 32).any fun l => usesLayer u d k p l && usesLayer v e k p l

/-- Whether what was read for entry i leaves the order valid (R262). -/
def State.readOk (s : State) (o : Order) (i : Nat) (d : List Byte) : Bool :=
  let u := o.user i
  s.indicesOk o.carrier (orSymbols o.body) u d
    && !(isSignal u && (List.range (orCount o.body)).any fun n => n != i && isSignal (o.user n)
      && (enChannel (o.user n) == 0x30 || o.ready.contains n) && signalsClash (s.car o.carrier 3) u d (o.user n) (Tbl.get [] o.data n))

/-- DL_SYMBOL jobs, and a DL_TD, for the chunks that an RS_LIST names and no other entry of the order uses (R246). -/
def State.listJobs (s : State) (oid i : Nat) : State :=
  let o := s.order oid
  let u := o.user i
  let b := o.body
  if enChannel u ≠ 0x40 ∨ o.capacity.contains i then s
  else
    let td : Bool := s.get (0x4300 + o.carrier) 1 == 1
    let tb := s.carTb o.carrier
    ((chunksOf (s.car o.carrier 3) (s.get (0x4100 + o.carrier) 2)).zipIdx).foldl (fun s e => (List.range 14).foldl (fun (s : State) k =>
      let o := s.order oid
      if o.signalIn i k e.1.1 e.1.2 = false ∨ o.jobs.any (fun j => (s.job j).kind == 0x12 && (s.job j).sym == k && (s.job j).chunk == e.2) then s
      else
        let cost := dlCost u * 12 * e.1.2
        let dead := if td then s.symsEarlier tb (s.get (0x4300 + o.carrier) 5) (s.txOpen b k) else s.txOpen b k
        let r := s.newJob { s.stageJob oid b 0x12 e.2 e.1.2 k 0 (s.dlRelease b k) dead [] with cycles := cost, costB := cost }
        let s1 := r.1.setOrder oid { o with jobs := o.jobs ++ [r.2] }
        if td = false then s1
        else match o.jobs.find? fun j => (s.job j).kind == 0x13 && (s.job j).sym == k with
          | some j => s1.setJob j { s1.job j with deps := (s1.job j).deps ++ [r.2] }
          | none =>
            let w := s1.newJob (s1.stageJob oid b 0x13 0 (s.car o.carrier 3) k 0 (s.dlRelease b k) (s.txOpen b k) [r.2])
            w.1.setOrder oid { w.1.order oid with jobs := (w.1.order oid).jobs ++ [w.2] }) s) s

/-- Deadlines of the DL_ENCODE jobs of PDSCH entries, now that more of the resource elements they leave out are known (R250). -/
def State.redue (s : State) (oid : Nat) : State :=
  let o := s.order oid
  o.words.foldl (fun s w => if enChannel (o.user w.user) ≠ 0 then s
    else (w.blocks.zipIdx).foldl (fun (s : State) e =>
      let y := s.job e.1.job
      if y.live = false ∨ y.state ≠ .waiting then s
      else s.setJob e.1.job { y with deadline := some (s.airOf y.tb (s.encodeDue o.body (o.user w.user) o.signals w.cw e.2)) }) s) s

/-- Precoder weights of an entry (R252): those read from host memory, or what stands at PRECODER_ADDR on the chip. -/
def State.readWeights (s : State) (c : Nat) (u weights : List Byte) : List Byte :=
  let a := fieldOf u 56 8
  let prgs := if fieldOf u 34 1 = 0 then 1 else (enPrbs u + fieldOf u 34 1 - 1) / fieldOf u 34 1
  if hostBase ≤ a then weights else memBytes s.mem (2 * (prgs * enNlayer u * s.car c 4)) a

/-- TB_READ_DONE: the read of the transport block and precoder of entry `user` of the downlink order of a carrier's slot completes,
or fails: NOT_SENT with cause READ_FAIL (R246, R262). A chip that is not the entry's home reads its precoder and the indices of its resource
elements (R20, R250). -/
def execTbReadDone (carrier : Fin 32) (slot : BitVec 64) (user : BitVec 6) (data weights : List Byte) (ok : Bool) (s : State) : Answer :=
  match s.orders.find? fun e => e.2.live && e.2.kind == 2 && e.2.carrier == carrier.val && orSlot e.2.body == slot.toNat with
  | none => .next s
  | some e =>
    let i := user.toNat
    let o := e.2
    if o.ready.contains i ∨ o.readFail.contains i ∨ o.capacity.contains i ∨ orCount o.body ≤ i then .next s
    else if ok then
      if s.readOk o i data = false then .next (s.badDownlink e.1)
      else
        let s0 := (o.jobs.filter fun j => (s.job j).kind == 0x11 && (s.job j).user == i && (s.job j).state == .waiting).foldl
          (fun (s : State) j => s.setJob j { s.job j with release := s.airNow (s.job j).tb }) s
        let w := s.readWeights carrier (o.user i) weights
        let s1 := s0.setOrder e.1 { o with ready := o.ready ++ [i], data := Tbl.set [] o.data i data, weights := Tbl.set [] o.weights i w }
        .next (if isSignal (o.user i) then (s1.listJobs e.1 i).redue e.1 else s1)
    else
      let jobs := (o.words.filter fun w => w.user == i).flatMap fun w => w.blocks.map fun b => b.job
      let s1 := jobs.foldl (fun (s : State) j => s.setJob j { s.job j with done := true, state := .completed }) s
      let ws := o.words.map fun w => if w.user = i then { w with status := 1, cause := 7, ended := true } else w
      .next (s1.setOrder e.1 { o with readFail := o.readFail ++ [i], words := ws })

/-! ### The scheduler (R272 to R278, R289, R290) -/

/-- Swapped-out contexts of a core that could return to it. -/
def State.returning (s : State) (n : Nat) : List Swapped :=
  s.swapped.filter fun w => w.core == n && s.waitDone n 0 w.ctx && ((s.core n).takeBank w.ctx.epoch).isSome

/-- Whether such a context comes before job j in ready-queue order (R276). -/
def State.swappedFirst (s : State) (n j : Nat) : Bool := (s.returning n).any fun w => s.jobBefore w.ctx.job j

/-- CONTEXT_SLOT_FREE: the head of the ready queue of the core's Court is placed, unless a swapped-out context comes before it in the slot, and a runnable
context starts (R272, R273, R276). -/
def execContextSlotFree (core : Fin 64) (s : State) : Answer :=
  let q := s.coreCourt core
  let first := firstBy s.jobBefore (s.readyJobs q)
  let yields := first.any fun j => s.placement (s.job j) == some core.val && s.swappedFirst core.val j
  .next ((if yields then s else s.placeHead q).startNext core)

/-- SLICE_END: the running context's slice is over while another of equal priority is runnable: a TILE stop (R273, R274). -/
def execSliceEnd (core : Fin 64) (s : State) : Answer :=
  let c := s.core core
  let y := s.job c.curCtx.job
  let other := (List.range 4).any fun k => k != c.cur && s.runnable core k && (s.job (c.ctx k).job).prio == y.prio
  .next (if c.jobMode ∧ other ∧ spansUs (s.get (0x3000 + y.court) 3) c.sliceStart s.clock then s.requestStop core true else s)

/-- Whether a context may be swapped out (R277). -/
def swappable (x : Ctx) (c : Core) (k : Nat) : Bool :=
  x.excl == 0#32 && !(x.chain.getLsbD 15) && x.engines.all (fun e => e.2.outstanding == [])
    && (List.range 4).all fun q =>
      let g := c.group q
      (g.current.toList ++ g.queued.toList ++ g.draining).all fun p => !(p.slot == k && p.detached)

/-- Swapped-out contexts of a core whose wait is over, with the jobs of its Court's ready queue it could take but for its slots. -/
def State.wakers (s : State) (n : Nat) : List Nat :=
  ((s.swapped.filter fun w => w.core == n && s.waitDone n 0 w.ctx).map fun w => w.ctx.job)
    ++ (s.readyJobs (s.coreCourt n)).filter fun j => s.usable n (s.job j) && (s.job j).kind != 0x30 && (s.job j).kind != 0x31

/-- The blocked context of a core whose wait began first, lowest slot among equals. -/
def State.swapVictim (s : State) (n : Nat) : Option Nat :=
  let c := s.core n
  firstBy (fun a b => decide ((c.ctx a).waitStart < (c.ctx b).waitStart ∨ ((c.ctx a).waitStart = (c.ctx b).waitStart ∧ a < b)))
    ((List.range 4).filter fun k => (c.ctx k).state == .blocked && !s.waitDone n k (c.ctx k) && swappable (c.ctx k) c k)

/-- SWAP_OUT: with every slot of the core taken by a BLOCKED context and a context or job that could use one, the earliest waiter's
records are copied to a Bench page of its Court and its slot is free (R276 to R278). -/
def execSwapOut (core : Fin 64) (s : State) : Answer :=
  let n := core.val
  let c := s.core n
  let all := (List.range 4).all fun k => (c.ctx k).state == .blocked
  match s.swapVictim n, s.benchFree.head? with
  | some k, some p =>
    let x := c.ctx k
    if all = false ∨ s.wakers n = [] ∨ s.get (0x3000 + x.court) 6 ≤ s.swapUsed x.court then .next s
    else
      let s1 := (s.ownPages [p] 0x20000).storeBytes (0xA000000 + p * 65536) (memBytes s.mem 0x8000 (saveArea n k))
      let s2 := { s1.freeCtx n k with swapped := s1.swapped ++ [Swapped.mk n p x],
                                      tallies := Tbl.mapV {} s1.tallies fun t => t.leave n k }
      .next ((s2.setJob x.job { s2.job x.job with state := .swapped }).bump (0x3020 + x.court) 6)
  | _, _ => .next s

/-- SWAP_IN: the runnable swapped-out context of the core that comes first in ready-queue order returns to a free slot,
unless a job that the core could take comes before it (R276, R278). -/
def execSwapIn (core : Fin 64) (s : State) : Answer :=
  let n := core.val
  let ready := s.returning n
  match firstBy s.jobBefore (ready.map fun w => w.ctx.job), (s.core n).freeSlot with
  | some j, some k =>
    let before := (s.readyJobs (s.coreCourt n)).any fun i => s.usable n (s.job i) && (s.job i).kind != 0x30 && (s.job i).kind != 0x31 && s.jobBefore i j
    if before then .next s else
    match ready.find? fun w => w.ctx.job == j with
    | some w =>
      let s1 := s.storeBytes (saveArea n k) (memBytes s.mem 0x8000 (0xA000000 + w.page * 65536))
      let t := ((s1.core n).takeBank w.ctx.epoch).getD (0, s1.core n)
      let s2 := { (s1.ownPages [w.page] 0).setCore n (t.2.setCtx k { w.ctx with sfBank := BitVec.ofNat 32 t.1 }) with swapped := s.swapped.filter fun v => !(v == w) }
      .next ((s2.setJob j { s2.job j with state := .resident, slot := k }).startNext n)
    | none => .next s
  | _, _ => .next s

/-- TACQ_GRANT: a free Tally goes to its earliest waiter: the held bundle of that core is evaluated again and issues (R289). -/
def execTacqGrant (tally : BitVec 16) (s : State) : Answer :=
  let t := s.tally tally.toNat
  match t.waiters with
  | w :: _ => .next (if t.holder = 0 ∧ (s.core w.core).held ∧ s.coresStopped = false then s.issueBundle w.core else s)
  | [] => .next s

/-- The context a job has: on a core, with its slot. -/
def State.fenceJobAnywhere (s : State) (j cause info : Nat) : State :=
  let y := s.job j
  if y.live ∧ y.core < 64 ∧ y.state ≠ .swapped then s.faultCtx y.core y.slot cause info else s.fenceJob j cause 0 info

/-- HOLD_BOUND_EXPIRY: a hold that has lasted EXCL_BOUND on its job's time base: the holder is fenced with HOLD and its Tallies are
abandoned (R290). -/
def execHoldBoundExpiry (tally : BitVec 16) (s : State) : Answer :=
  let t := s.tally tally.toNat
  let y := s.job t.holder
  .next (if t.holder ≠ 0 ∧ s.cut = false ∧ (usToTc ((s.forOf y).get (0x3000 + y.court) 5) : Int) ≤ airDiff t.since (s.tb y.tb).tc then
      ((s.bump 0x3340 2).fenceJobAnywhere t.holder 0x40 tally.toNat).abandonTallies t.holder
    else s)

/-! ### Disposal of a fenced job (R393, R398) -/

/-- Handles the job put in stage queues and no job took go back to their pools, in ascending order. -/
def State.returnEnqueued (s : State) (j : Nat) : State :=
  let stage := fun (e : Nat × HQueue) => e.1 != s.freeQueueKey e.2.pool
  let mine := (s.queues.filter stage).flatMap fun e => ((e.2.items.zip e.2.from_).filter fun x => x.2 == j).map fun x => (e.2.pool, x.1)
  let strip := fun (e : Nat × HQueue) =>
    let keep := (e.2.items.zip e.2.from_).filter fun x => x.2 != j
    (e.1, { e.2 with items := keep.map fun x => x.1, from_ := keep.map fun x => x.2 })
  let s1 := { s with queues := s.queues.map fun e => cond (stage e) (strip e) e }
  (mine.mergeSort fun a b => decide (a.2 ≤ b.2)).foldl (fun s h => s.returnHandle h.1 h.2) s1

/-- USER jobs that hold a handle taken from the fenced job's output are fenced with UPSTREAM. -/
def State.fenceConsumers (s : State) (j : Nat) : State :=
  ((s.heldBy.filter fun e => Tbl.get 0 s.handleFrom e.1 == j && e.2 != 0 && e.2 != j).map fun e => e.2).eraseDups.foldl
    (fun s i => if (s.job i).kind = 0x20 then s.fenceJobAnywhere i 0x42 j else s) s

/-- The job's dependants wait for its re-run instead. -/
def State.redirect (s : State) (j n : Nat) : State :=
  { s with jobs := s.jobs.map fun e => (e.1, { e.2 with deps := e.2.deps.map fun d => if d = j then n else d }) }

/-- The re-run of a fenced stage job: a new job of the same epoch, with its Breeze receiver on the uplink, if its cost still meets the
deadline (R211, R254); otherwise its outputs are absent. -/
def State.rerun (s : State) (j : Nat) : State :=
  let y := s.job j
  let f := max 1 ((s.forOf y).get (0x4000 + y.carrier) 8)
  let fits : Bool := match y.deadline with
    | some d => decide ((cyclesToTc y.costB f : Int) ≤ airDiff (s.sample y.tb .rerun j) (s.tcOf y.tb d))
    | none => true
  let up : Bool := decide (1 ≤ y.kind) && decide (y.kind ≤ 4)
  if (s.order y.order).live = false then s
  else
  let s := s.noteSample y.tb .rerun j
  if fits && !s.isFenced 4 y.court && (up || y.kind == 0x12 || y.kind == 0x13) then
    let z : Job := { y with state := .waiting, cause := 0, core := 0xFF, rerunOf := j, done := false, cycles := y.costB,
                            model := if up then 0xFFFF else y.model, breeze := up, inClass := 1, outClass := 1, lateCounted := false }
    let r := s.newJob z
    let s1 := (r.1.redirect j r.2).bump (0x3020 + y.court) 1
    let s2 := if up then s1.bump (0x4020 + y.carrier) 6 else s1
    let s3 := s2.setOrder y.order { s2.order y.order with jobs := (s2.order y.order).jobs ++ [r.2] }
    s3.tryPlace r.2
  else s.setJob j { s.job j with lost := true, done := true }

/-- The re-run of a fenced decode from its own LLRs, if the cap allows an iteration; otherwise the block is not decoded with cause
FENCED (R241). -/
def State.rerunDecode (s : State) (j : Nat) : State :=
  let y := s.job j
  if (s.order y.order).live = false then s
  else if s.isFenced 4 y.court then s.endBlock j 3 4 0 []
  else
    let r := s.newJob { y with state := .ready, queued := true, front := false, cause := 0, rerunOf := j, core := 0xFF }
    let s1 := r.1.updWord y fun w => w.updBlock y.blk fun b => { b with job := r.2 }
    let s2 := ({ s1 with heldBy := s1.heldBy.map fun (e : Nat × Nat) => (e.1, if e.2 = j then r.2 else e.2) }).bump (0x3020 + y.court) 1
    if s2.iterCap r.2 = 0 then s2.endBlock r.2 3 4 0 [] else s2

/-- The chain port of a core whose job in slot k is fenced goes on in its pass-through way (R195). -/
def keepPort (c : Core) (k : Nat) : Core :=
  if (c.ctx k).chain.getLsbD 15 then { c with chainPort := some (c.ctx k).chain } else c

/-- FENCE_DISPOSAL: the oldest fenced job is disposed of in the order of R393; its fence is then lifted and it counts as FENCED. -/
def execFenceDisposal (s : State) : Answer :=
  match s.fenceQueue with
  | [] => .next s
  | j :: rest =>
    let y := s.job j
    let s0 := { s with fenceQueue := rest }
    let s1 := if y.core < 64 then
        { (s0.updCore y.core fun c => keepPort (dropPasses c y.slot true) y.slot).freeCtx y.core y.slot with
          tallies := Tbl.mapV {} s0.tallies fun t => t.leave y.core y.slot }
      else s0
    let gone := s1.swapped.filter fun w => w.ctx.job == j
    let s2 := { s1.ownPages (gone.map fun w => w.page) 0 with swapped := s1.swapped.filter fun w => w.ctx.job != j }
    let s3 := if y.kind = 5 then s2 else s2.returnHandles j
    let s4 := ((s3.returnEnqueued j).fenceConsumers j).abandonTallies j
    let s5 := if y.kind = 5 then s4.rerunDecode j else s4.rerun j
    let s6 := (s5.setJob j { s5.job j with live := (s5.job j).lost, core := 0xFF, done := true }).bump (0x3020 + y.court) 4
    let s7 := { s6 with fences := s6.fences.filter fun x => !(x.grain == 0 && x.job == j) }
    let obj := if y.core < 64 then y.core else 0xFFFF
    let s8 := s7.logFault (s7.airNow y.tb) y.tb 0 y.cause 1 obj y.court (if y.core < 64 then y.slot else 0xFF) j y.fenceInfo
    .next (if y.core < 64 then (s8.placeHead (s8.coreCourt y.core)).startNext y.core else s8)

end Sys2Proof.Machine
end

