-- ==== Sys2Proof/Machine/Watch.lean ====
section
/-! DEFINITION. Acknowledged lines, granted handles, the progress watchdog and the Pass chain (R109, R176, R190, R192 to R195). -/

namespace Sys2Proof.Machine

open Sys2Proof

/-- A MOVE that waits for a credit or a symbol slot goes on where it stands. -/
def State.resumeMove (s : State) (n k e : Nat) (ext : List Byte) : State :=
  let g := s.engine n k e
  if (s.core n).jobMode = false ∨ (s.core n).cur ≠ k ∨ g.paused ∨ g.state ≠ .wait ∨ s.coresStopped then s
  else match g.wait with
    | .credit left ex => s.runMove n e { g with state := .run, wait := .none } left ex ext
    | .slot left ex => s.runMove n e { g with state := .run, wait := .none } left ex ext
    | _ => s

/-- LINE_ACK: the oldest outstanding line of an engine is acknowledged and its credit returns (R176); a MOVE that waits goes on.
With no line outstanding only the wait is tried again. -/
def execLineAck (core : Fin 64) (slot : Fin 4) (engine : Fin 4) (ext : List Byte) (s : State) : Answer :=
  let g := s.engine core slot engine
  let s1 := match g.outstanding with
    | p :: r => { s.setEngine core slot engine { g with outstanding := r } with credits := Tbl.upd 0 s.credits p fun c => c - 1 }
    | [] => s
  .next (s1.resumeMove core slot engine ext)

/-- HANDLE_GRANT: a handle of the queue reaches the HGET that waits for it while its context runs (R173, R178, R190). -/
def execHandleGrant (core : Fin 64) (slot : Fin 4) (engine : Fin 4) (s : State) : Answer :=
  let g := s.engine core slot engine
  let c := s.core core
  match g.state, g.wait with
  | .wait, .handle hk q =>
    .next (if s.coresStopped ∨ c.jobMode = false ∨ c.cur ≠ slot.val ∨ g.paused then s else s.giveHandle core slot engine hk g q)
  | _, _ => .next s

/-! ### The watchdog (R192) -/

/-- Whether a wait that began at a count of `auditAir` has reached WATCHDOG. -/
def State.waitExpired (s : State) (since : Nat) : Bool := spansUs (s.get 0x3190 1) since s.auditAir

/-- The job the watchdog fences: the lower priority, then the later release, then the higher core and the higher slot. -/
def State.watchBefore (s : State) (a b : Nat) : Bool :=
  let x := s.job a
  let y := s.job b
  let d := airDiff (s.tcOf y.tb y.release) (s.tcOf x.tb x.release)
  if x.prio ≠ y.prio then decide (x.prio < y.prio)
  else if d ≠ 0 then decide (0 < d)
  else if x.core ≠ y.core then decide (y.core < x.core)
  else decide (y.slot < x.slot)

/-- One of the waiting job and the holders is fenced with WATCHDOG; EVT_INFO is the waiter's JOB_ID. -/
def State.watchFence (s : State) (waiter : Nat) (holders : List Nat) : State :=
  match firstBy s.watchBefore ((waiter :: holders).filter fun j => j != 0) with
  | some j => (s.bump 0x3190 2).fenceJobAnywhere j evWATCHDOG waiter
  | none => s

/-- Jobs that hold handles of a pool. -/
def State.poolHolders (s : State) (p : Nat) : List Nat :=
  ((s.heldBy.filter fun e => e.1 / 1024 == p && e.2 != 0).map fun e => e.2).eraseDups

/-- The CHAIN value of a core's port: of the context that has one, or the one it passes tiles through with. -/
def Core.port (c : Core) : Option (Option Nat × BitVec 32) :=
  match (List.range 4).find? fun k => (c.ctx k).state != .free && (c.ctx k).chain.getLsbD 15 with
  | some k => some (some k, (c.ctx k).chain)
  | none => c.chainPort.map fun v => (none, v)

def chainNo (v : BitVec 32) : Nat := bits v.toNat 24 5
def chainPos (v : BitVec 32) : Nat := bits v.toNat 0 6

/-- The core at a position of a chain. -/
def State.chainMember (s : State) (h p : Nat) : Option Nat :=
  (List.range 64).find? fun n => match (s.core n).port with
    | some v => chainNo v.2 == h && chainPos v.2 == p
    | none => false

/-- The job whose context holds a core's chain port, 0 none. -/
def State.portJob (s : State) (n : Nat) : Nat :=
  match (s.core n).port with
  | some (some k, _) => ((s.core n).ctx k).job
  | _ => 0

/-- Whether an engine waits for something that has come about: its count is reached, or a handle is there. -/
def State.engineSatisfied (s : State) (g : Engine) : Bool :=
  match g.wait with
  | .tally t target => tallyReached (s.tally t).count target
  | .handle _ q => (s.hqueue q).items != []
  | _ => false

/-- The wait of a context for a Tally has reached WATCHDOG and is not satisfied: the waiter, or for TACQ it or the exclusive holder, is fenced. -/
def State.watchTally (s : State) (since job : Nat) (w : Nat × Option (BitVec 32)) : State :=
  if s.waitExpired since = false then s
  else match w.2 with
    | none => if (s.tally w.1).holder = 0 then s else s.watchFence job [(s.tally w.1).holder]
    | some target => if tallyReached (s.tally w.1).count target then s else s.watchFence job []

/-- WATCHDOG_EXPIRY: a wait has reached WATCHDOG: of an engine, of a context held on or saved for a Tally, or of a chain port
that holds a tile for a member that has not armed. -/
def execWatchdogExpiry (wait : WaitRef) (s : State) : Answer :=
  if s.cut then .next s else
  match wait with
  | .engine n k e =>
    let g := s.engine n k e
    let j := ((s.core n).ctx k).job
    if g.state ≠ .wait ∨ g.wait = .none ∨ s.waitExpired g.waitStart = false ∨ s.engineSatisfied g then .next s
    else match g.wait with
      | .handle _ q => .next (s.watchFence j (s.poolHolders (s.hqueue q).pool))
      | _ => .next (s.watchFence j [])
  | .context n k =>
    let c := s.core n
    let x := c.ctx k
    let w := if x.state = .blocked then x.waitOn else if c.jobMode ∧ c.cur = k ∧ c.held then s.heldWait n else none
    match w with
    | some v => .next (s.watchTally x.waitAir x.job v)
    | none => .next s
  | .swapped p =>
    match s.swapped.find? fun w => w.page == p.val with
    | some w => (match w.ctx.waitOn with
      | some v => .next (s.watchTally w.ctx.waitAir w.ctx.job v)
      | none => .next s)
    | none => .next s
  | .port n =>
    match (s.core n).chainSince, (s.core n).port with
    | some t, some v =>
      let up := if chainPos v.2 = 0 then 0 else match s.chainMember (chainNo v.2) (chainPos v.2 - 1) with
        | some u => s.portJob u
        | none => 0
      .next (if s.waitExpired t then
          (s.watchFence up [s.portJob n]).updCore n fun c => { c with chainSince := none }
        else s)
    | _, _ => .next s

/-! ### The Pass chain (R109, R193 to R195) -/

/-- Where the pass stands that a port takes tiles for. -/
inductive Armed where
  | current (q : Nat) (p : Pass)
  | queued (q : Nat) (p : Pass)
  | savedCurrent (q : Nat) (p : Pass)
  | savedQueued (q : Nat) (p : Pass)
  | next (d : BitVec 512) (arrived : Nat)
  deriving DecidableEq, Repr

/-- A pass that still takes tiles of its chain. -/
def wantsTile (split k : Nat) (p : Pass) : Bool :=
  p.chain && p.slot == k && (let f := folds p.desc split; decide (p.arrived < f.kf * f.nf))

/-- The pass that the port of context k is armed for (R194); a stop of the context does not disarm it. -/
def Core.armed (c : Core) (k : Nat) : Option Armed :=
  (List.range 4).findSome? (fun q =>
      match (c.group q).current.filter (wantsTile c.split k) with
      | some p => some (.current q p)
      | none => match (c.group q).queued.filter (wantsTile c.split k) with
        | some p => some (.queued q p)
        | none => match (Tbl.get {} (c.ctx k).mcont q).current.filter (wantsTile c.split k) with
          | some p => some (.savedCurrent q p)
          | none => ((Tbl.get {} (c.ctx k).mcont q).queued.filter (wantsTile c.split k)).map (.savedQueued q))
    <|> (let x := (c.ctx k).next
         if x.chain then (x.tile.filter fun d => let f := folds d c.split; decide (x.arrived < f.kf * f.nf)).map fun d => .next d x.arrived
         else none)

/-- Tile number that comes next, and the descriptor of its pass. -/
def Armed.tile : Armed → Nat × BitVec 512
  | .current _ p => (p.arrived, p.desc)
  | .queued _ p => (p.arrived, p.desc)
  | .savedCurrent _ p => (p.arrived, p.desc)
  | .savedQueued _ p => (p.arrived, p.desc)
  | .next d t => (t, d)

/-- The arrival is counted. -/
def Core.tookTile (c : Core) (k : Nat) : Armed → Core
  | .current q p => c.setGroup q { c.group q with current := some { p with arrived := p.arrived + 1 } }
  | .queued q p => c.setGroup q { c.group q with queued := some { p with arrived := p.arrived + 1 } }
  | .savedCurrent q p => c.setCtx k { c.ctx k with
      mcont := Tbl.upd {} (c.ctx k).mcont q fun m => { m with current := some { p with arrived := p.arrived + 1 } } }
  | .savedQueued q p => c.setCtx k { c.ctx k with
      mcont := Tbl.upd {} (c.ctx k).mcont q fun m => { m with queued := some { p with arrived := p.arrived + 1 } } }
  | .next _ t => c.setCtx k { c.ctx k with next := { (c.ctx k).next with arrived := t + 1 } }

/-- Members of a chain from a position on, in order. -/
def State.chainFrom (s : State) (h p : Nat) : List Nat :=
  (List.range 64).filterMap fun i => if i < p then none else s.chainMember h i

/-- A hop that failed for the third time: the jobs of every member downstream are fenced and their ports pass tiles through. -/
def State.chainFail (s : State) (h p : Nat) : State :=
  (s.chainFrom h p).foldl (fun s m =>
    match (s.core m).port with
    | some v =>
      let s1 := s.fenceJobAnywhere (s.portJob m) 0x43 (h * 2 ^ 24 + p)
      s1.updCore m fun c => { c with chainPort := some v.2, chainBad := 0 }
    | none => s) s

/-- The tile leaves the port upstream, which has forwarded it. -/
def State.leftUpstream (s : State) (v : BitVec 32) : State :=
  if chainPos v = 0 then s
  else match s.chainMember (chainNo v) (chainPos v - 1) with
    | some u => s.updCore u fun c => { c with chainBuf := c.chainBuf.drop 1 }
    | none => s

/-- Whether the port of a core passes tiles through: that of a fenced core or job, of a job that has ended, or behind a hop that has failed (R195). -/
def Core.passesThrough (c : Core) (v : Option Nat × BitVec 32) : Bool :=
  c.fenced || v.1.isNone || (match v.1 with
    | some k => (c.ctx k).fenced || c.chainPort == some v.2
    | none => true)

/-- What the port of a core is armed for, unless it passes tiles through. -/
def Core.takes (c : Core) : Option Armed :=
  match c.port with
  | some v => if c.passesThrough v then none else v.1.bind c.armed
  | none => none

/-- n bytes of a resident model from an offset in it, as its Bench pages hold them. -/
def State.modelBytes (s : State) (m off n : Nat) : List Byte :=
  (List.range n).map fun i =>
    let o := off + i
    memByte s.mem (0xA000000 + (((s.resident m).pages[o / 65536]?).getD 0) * 65536 + o % 65536)

/-- The tile that the Bench, the head of chain h, sends next: of the stage's model, the tile that the first member takes which does not pass tiles
through, less those on their way to it (R193). Where the tiles of a stage lie in its model the spec does not say (log entry 76). -/
def State.headTile (s : State) (h : Nat) : Option (Nat × List Byte) :=
  let l := s.chainFrom h 0
  match l.find? fun n => ((s.core n).takes).isSome with
  | some n =>
    match (s.core n).takes with
    | some a =>
      let f := folds a.tile.2 (s.core n).split
      let t := a.tile.1 + ((l.takeWhile fun m => m != n).map fun m => (s.core m).chainBuf.length).sum
      let y := s.job (s.portJob n)
      if t < f.kf * f.nf then some (t, s.modelBytes y.model (Config.tileOffset y.model y.kind t) f.b) else none
    | none => none
  | none => none

/-- The tile that stands before a port: what the Bench sends, or the upstream buffer's. -/
def State.comingTile (s : State) (v : BitVec 32) : Option (Nat × List Byte) :=
  if chainPos v = 0 then s.headTile (chainNo v)
  else match s.chainMember (chainNo v) (chainPos v - 1) with
    | some u => (s.core u).chainBuf.head?
    | none => none

/-- CHAIN_TILE_ARRIVAL: a tile stands at the chain port of a core. Until the port is armed, or while its two buffers are taken,
the member upstream holds it. A CRC error has it sent again; the third fences downstream. Otherwise it is copied to W_ADDR + t × B,
enters the tile cache and waits to be forwarded, unless the member is the last; a port that passes through only forwards. -/
def execChainTileArrival (core : Fin 64) (crcOk : Bool) (s : State) : Answer :=
  let n := core.val
  let c := s.core n
  match c.port with
  | none => .next s
  | some v =>
    let last : Bool := v.2.getLsbD 16
    let through := c.passesThrough v
    match s.comingTile v.2 with
    | none => .next s
    | some tile =>
      if 2 ≤ c.chainBuf.length then .next s
      else if through = false ∧ c.takes = none then
        .next (s.updCore n fun c => { c with chainSince := c.chainSince <|> some s.auditAir })
      else if crcOk = false then
        let s1 := s.updCore n fun c => { c with chainBad := c.chainBad + 1, chainRetries := c.chainRetries + 1 }
        .next (if 3 ≤ (s1.core n).chainBad then s1.chainFail (chainNo v.2) (chainPos v.2) else s1)
      else
        let s1 := s.leftUpstream v.2
        let keep := fun (c : Core) =>
          { c with chainBad := 0, chainSince := none, chainBuf := if last then c.chainBuf else c.chainBuf ++ [tile] }
        match c.takes, v.1 with
        | some a, some k =>
          let t := a.tile
          let b := (folds t.2 c.split).b
          let w := dWaddr t.2 + t.1 * b
          let lines := (List.range ((b + 4095) / 4096)).map fun i => (w / 4096 + i) * 4096
          let s2 := s1.writeBytes w (tile.2.take b)
          .next (s2.updCore n fun c => keep { c.tookTile k a with tileCache := cacheLines lines c.tileCache })
        | _, _ => .next (s1.updCore n keep)

end Sys2Proof.Machine
end

