-- ==== Sys2Proof/Machine/Fronthaul.lean ====
section
/-! DEFINITION. Fronthaul reception and transmission: U-plane, C-plane, one-way delay (R15, R18, R19, R137, R185, R187, R248, R254,
R363 to R372, R406). The layout of eCPRI and O-RAN headers is the standards' (log entry 17). -/

namespace Sys2Proof.Machine

open Sys2Proof

/-! ### Ports -/

/-- A violation by the partner of a fronthaul port: PROT of every function whose Court has a carrier on the port (R330, R399). -/
def State.portViolation (s : State) (p : Nat) : State :=
  ((((List.range 16).filter fun k => 0 < k ∧ (s.courtCarriers k).any fun c => (s.car c 5).testBit p).foldl
    (fun s k => s.latch k 4) (s.latch 0 4))).settle

/-- A dropped or malformed packet counts in RX_MALFORMED of its port and sets PROT. -/
def State.malformed (s : State) (p : Nat) : State := (s.bump (0x2200 + p) 9).portViolation p

/-! ### Frames (R363) -/

/-- Where the payload of a frame begins, with at most one tag, and its ethertype. -/
def framePayload (b : List Byte) : Nat × Nat :=
  let be := fun (i : Nat) => natOfBe ((b.drop i).take 2)
  if be 12 = 0x8100 then (18, be 16) else (14, be 12)

/-- Whether a frame is for a port: its station address, or a PTP multicast address. -/
def State.frameForPort (s : State) (p : Nat) (b : List Byte) : Bool :=
  let d := natOfBe (b.take 6)
  d == s.get (0x2200 + p) 2 % 2 ^ 48 || d == 0x011B19000000 || d == 0x0180C200000E

/-- The PTP message of a frame: whether it came over UDP, the sender's address as UNICAST_MASTERS writes one, and the message (R37). -/
def ptpOf (frame : List Byte) : Option (Bool × List Byte × List Byte) :=
  let h := framePayload frame
  let m := frame.drop h.1
  let be := fun (i n : Nat) => natOfBe ((m.drop i).take n)
  let udp := fun (n : Nat) (addr : List Byte) => if be (n + 2) 2 = 319 ∨ be (n + 2) 2 = 320 then some (true, addr, m.drop (n + 8)) else none
  if h.2 = 0x88F7 then some (false, [], m)
  else if h.2 = 0x0800 ∧ be 9 1 = 17 then udp (be 0 1 % 16 * 4) (4#8 :: (m.drop 12).take 4 ++ List.replicate 12 0#8)
  else if h.2 = 0x86DD ∧ be 6 1 = 17 then udp 40 (6#8 :: (m.drop 8).take 16)
  else none

/-- Frames of PTP, and slow-protocol frames that carry ESMC (subtype 0x0A), which other steps take (R37, R39, R363). -/
def otherProtocol (frame : List Byte) : Bool :=
  let h := framePayload frame
  (ptpOf frame).isSome || (h.2 == 0x8809 && fieldOf frame h.1 1 == 0x0A)

/-! ### Sections of a U-plane message -/

/-- A section: rb, symInc, first unit, number of units (0: every one of the carrier), and its IQ data. -/
structure USection where
  rb : Nat
  inc : Nat
  start : Nat
  num : Nat
  data : List Byte
  deriving DecidableEq, Repr

/-- The sections of a message body, units of P bytes; the last one holds what there is. -/
def uSections (units P : Nat) : Nat → List Byte → List USection
  | 0, _ => []
  | k + 1, b =>
    if b = [] then []
    else
      let h := natOfBe (b.take 4)
      let n := if h % 256 = 0 then units else h % 256
      { rb := bits h 19 1, inc := bits h 18 1, start := bits h 8 10, num := n, data := (b.drop 4).take (n * P) }
        :: uSections units P k (b.drop (4 + n * P))

/-- The carrier of an eAxC on a port: an enabled uplink carrier (R365, Table 16.4). -/
def State.carrierOfEaxc (s : State) (p id : Nat) : Option Nat :=
  (List.range 32).find? fun c => s.carUl c && (s.car c 5).testBit p && decide (s.car c 6 ≤ id) && decide (id < s.car c 6 + s.localPorts c)

/-- The SFN of a message: congruent to frameId modulo 256 within 128 frames of the present (R369). Answers a frame of the period. -/
def State.frameOf (s : State) (tb fid : Nat) : Nat :=
  let f : Int := (s.tb tb).tc / Config.tcPerFrame
  let d := (((fid : Int) - f) % 256 + 256) % 256
  ((f + (if d < 128 then d else d - 256)) % (airPeriod / Config.tcPerFrame : Nat)).toNat

/-! ### Reception (R185, R369, R370) -/

/-- The slot of symbol n is opened: header, cleared presence map, a silent sample area (R185, R372). -/
def State.openSlot (s : State) (c n : Nat) : State :=
  let tb := s.carTb c
  let air := s.airOf tb (s.symStartTc tb n)
  if s.slotSymbol c false n = n ∧ memNat s.mem 8 (s.slotAddr c false n + 8) = air then s
  else
    let s1 := (s.slotHeader c false n air).clearPresence c false n
    if s.tdOn c then s1.store (s1.sampleArea c false) (s1.blockAddr c false n 0 0) 0 else s1

/-- RX_WINDOW_OPEN: symbol `sym` of a carrier begins to be received. -/
def execRxWindowOpen (carrier : Fin 32) (sym : BitVec 32) (s : State) : Answer :=
  let c := carrier.val
  let n := sym.toNat
  .next (if s.carUl c ∧ (s.tb (s.carTb c)).enabled ∧ s.passed (s.carTb c) (s.ulOpen c n) ∧ s.passed (s.carTb c) (s.ulClose c n) = false
    then s.openSlot c n else s)

/-- RX_WINDOW_CLOSE: the jobs of the symbol are released in ready-queue order; a PRB that is absent enters them as zero. A job that
still waits for another job's completion is released by its own event. -/
def execRxWindowClose (carrier : Fin 32) (sym : BitVec 32) (s : State) : Answer :=
  let c := carrier.val
  let t := s.ulClose c sym.toNat
  if s.cut ∨ s.carUl c = false ∨ s.passed (s.carTb c) t = false then .next s
  else
    let due := s.airOf (s.carTb c) t
    let l := (s.jobs.filter fun e => e.2.live && e.2.state == .waiting && decide (1 ≤ e.2.kind ∧ e.2.kind ≤ 4) && e.2.carrier == c
      && e.2.release == due).map fun e => e.1
    .next ((l.mergeSort fun a b => s.jobBefore a b).foldl (fun s j => if s.releasable j then s.releaseJob j else s) s)

/-- Units of a carrier's symbol: PRBs, or blocks of 12 samples (R372). -/
def State.rxUnits (s : State) (c t : Nat) : Nat :=
  let tb := s.carTb c
  if s.tdOn c then
    s.sampleBlocks c (decide (symBase (s.tbMu tb) (s.tbEcp tb) < symLen (s.tbMu tb) (s.tbEcp tb) (symbolOf (s.tbMu tb) (s.tbEcp tb) (t % 1966080)).1))
  else s.car c 3

/-- One unit of an accepted section: placed, or dropped where its presence bit is set already. -/
def State.placeUnit (s : State) (p c n port u : Nat) (d : List Byte) : State :=
  if s.tdOn c then s.storeBytes (s.blockAddr c false n port u) d
  else if s.present c false n port u then s.malformed p
  else (s.storeBytes (s.prbAddr c false n port u) d).setPresent c false n port u

/-- One section (Table 16.4, checks 6 and 7). -/
def State.placeSection (s : State) (p c n port units P : Nat) (x : USection) : State :=
  if x.num = 0 ∨ units < x.start + x.num ∨ x.data.length ≠ x.num * P then s.malformed p
  else (List.range x.num).foldl (fun s i => s.placeUnit p c n port (x.start + i) ((x.data.drop (i * P)).take P)) s

/-- Presence map of the units of accepted sections, as Replay keeps it. -/
def sectionMap (units : Nat) (l : List USection) : List Byte :=
  bytesOf ((units + 63) / 64 * 8) ((List.range units).foldl (fun m u =>
    if l.any fun x => decide (x.start ≤ u ∧ u < x.start + x.num) then m + 2 ^ u else m) 0)

/-- An eCPRI message header of revision 1 and its payload. -/
def ecpriMsg (type : Nat) (payload : List Byte) : List Byte :=
  [0x10#8] ++ bytesOf 1 type ++ bytesBe 2 payload.length ++ payload

/-- The record of an accepted arrival, and its IQ as IQ_RECORD selects (R405, R406). -/
def State.recordArrival (s : State) (c n id units : Nat) (l : List USection) (msg : List Byte) : State :=
  let s1 := s.replayLog 5 (bytesOf 1 c ++ bytesOf 4 n ++ bytesOf 2 id ++ sectionMap units l)
  if s1.get 0x5300 0x0B ≠ 1 then s1
  else if s1.get 0x5300 8 = 1 then s1.emit (.data 4 (s1.get 0x5300 9) (ecpriMsg 0 msg))
  else if s1.get 0x5300 8 = 2 then
    let d := l.flatMap fun x => x.data
    if 2 ^ 30 < s1.replay.iqPos + d.length then s1.put 0x5300 0x0B 3
    else { s1.hostWrite (s1.get 0x5300 0x0A + s1.replay.iqPos) d with replay := { s1.replay with iqPos := s1.replay.iqPos + d.length } }
  else s1

/-- A U-plane message on a port, from its ecpriPcid on: the checks of Table 16.4 in order. The arrival is the present of the carrier's
time base. -/
def State.uplane (s : State) (p : Nat) (m : List Byte) : State :=
  let id := natOfBe (m.take 2)
  match s.carrierOfEaxc p id with
  | none => s.malformed p
  | some c =>
    let tb := s.carTb c
    let h := natOfBe ((m.drop 4).take 4)
    let fid := bits h 16 8
    let sf := bits h 12 4
    let slot := bits h 6 6
    let sym := bits h 0 6
    let f := s.frameOf tb fid
    let air := f / 1024 * 2 ^ 48 + f % 1024 * 2 ^ 38 + sf * 2 ^ 34 + slot * 2 ^ 28 + sym % 16 * 2 ^ 24
    let t := airposToTc (s.tbMu tb) (s.tbEcp tb) air
    let units := s.rxUnits c t
    let P := prbBytes (s.carWidth c false)
    let l := uSections units P (m.length + 1) (m.drop 8)
    if m.length < 8 ∨ bits h 31 1 ≠ 0 ∨ bits h 28 3 ≠ 1 ∨ 16 ≤ sym ∨ airCanonical (s.tbMu tb) (s.tbEcp tb) air = false
        ∨ l.any (fun x => x.rb != 0 || x.inc != 0) then s.malformed p
    else
      let n := s.symNumber tb t
      if s.passed tb (s.ulOpen c n) = false then (s.bump (0x2200 + p) 7).violation (s.carrierCourt c)
      else if s.passed tb (s.ulClose c n) then (s.bump (0x2200 + p) 8).violation (s.carrierCourt c)
      else
        let good := l.filter fun x => x.num != 0 && decide (x.start + x.num ≤ units) && x.data.length == x.num * P
        (l.foldl (fun s x => s.placeSection p c n (id - s.car c 6) units P x) (s.openSlot c n)).recordArrival c n id units good m

/-- The TAI of a time base at 0.25 ns: seconds in 48 bits and nanoseconds in 32, and what is left as a compensation value in units of 2^-16 ns,
each big-endian (R35, R364). -/
def State.taiBytes (s : State) (tb : Nat) : List Byte :=
  let t := tcToTai 4 (((s.tb tb).tc : Int) - asI64 (s.get (0x2000 + tb * 16) 4))
  bytesBe 6 (t / 4000000000 % 2 ^ 48).toNat ++ bytesBe 4 (t % 4000000000 / 4).toNat ++ bytesBe 8 (t % 4 * 2 ^ 14).toNat

/-- The time base of a port's delay measurements: whose PTP instance lists it in SLAVE_PORTS, else TB0 (R364). -/
def State.delayTb (s : State) (p : Nat) : Nat :=
  ((List.range 8).find? fun n => s.get (0x2001 + n * 16) 1 != 0 && (s.get (0x2001 + n * 16) 3).testBit p).getD 0

/-- A type 5 message: Request and Remote Request are answered with a Response and a Follow_Up that carry the TAI of their
message timestamp points; every other action is malformed (Table 16.2). -/
def State.delayRequest (s : State) (p : Nat) (m : List Byte) : State :=
  let a := ((m[1]?).getD 0#8).toNat
  if a ≠ 0 ∧ a ≠ 3 then s.malformed p
  else
    let t := s.taiBytes (s.delayTb p)
    let r := fun (act : Nat) => ecpriMsg 5 (m.take 1 ++ bytesOf 1 act ++ t)
    (s.emit (.data 4 p (r 2))).emit (.data 4 p (r 5))

/-- The eCPRI messages of a frame, each on its own; a concatenated one begins at the next multiple of 4 bytes. `want` is the type
that the step handles; of the accepted types, the other one's messages are left to its own step. -/
def State.ecpri (s : State) (p want : Nat) (short : Bool) : Nat → List Byte → State
  | 0, _ => s
  | k + 1, b =>
    let h := natOfBe (b.take 4)
    let n := h % 65536
    let more := bits h 24 1 == 1
    let type := bits h 16 8
    let mine := want == 0 || type == want
    let bad : Bool := decide (b.length < 4) || bits h 28 4 != 1 || decide (b.length < 4 + n) || (!more && !short && b.length != 4 + n)
    if bad then (if want = 0 then s.malformed p else s)
    else
      let m := (b.drop 4).take n
      let s1 := if mine = false then s
        else if type = 0 ∧ want = 0 then s.uplane p m
        else if type = 5 then (if want = 5 then s.delayRequest p m else s)
        else if want = 0 then s.malformed p else s
      if more then s1.ecpri p want short k (b.drop ((4 + n + 3) / 4 * 4)) else s1

/-- A received frame (R363): only a port that is UP receives; while a record is injected live fronthaul is ignored (R408). -/
def State.fhFrame (s : State) (p want : Nat) (b : List Byte) : State :=
  let h := framePayload b
  if s.get (0x2200 + p) 4 ≠ 1 ∨ s.injecting ∨ s.frameForPort p b = false ∨ otherProtocol b then s
  else if h.2 ≠ 0xAEFE ∨ 9216 < b.length + 4 then (if want = 0 then s.malformed p else s)
  else s.ecpri p want (decide (b.length ≤ 60)) b.length (b.drop h.1)

/-- UPLANE_RX: a frame from the destination address to before its FCS arrives at a port. -/
def execUplaneRx (port : Fin 16) (frame : List Byte) (s : State) : Answer := .next (s.fhFrame port 0 frame)

/-- ECPRI_DELAY_REQUEST: a frame with a one-way delay measurement arrives at a port (R364). -/
def execEcpriDelayRequest (port : Fin 16) (frame : List Byte) (s : State) : Answer := .next (s.fhFrame port 5 frame)

/-! ### Transmission (R18, R19, R248, R254, R371, R372) -/

/-- The next ecpriSeqId of an eAxC, direction and plane, with E bit 1 and subsequence 0 (Table 16.2). -/
def State.nextSeq (s : State) (id dir plane : Nat) : State × List Byte :=
  let k := id * 4 + dir * 2 + plane
  let v := Tbl.get 0 s.ecpriSeq k
  ({ s with ecpriSeq := Tbl.set 0 s.ecpriSeq k ((v + 1) % 256) }, bytesOf 1 v ++ [0x80#8])

/-- Runs of the units of a list of ascending numbers, split every 255 (R371). -/
def unitRuns (l : List Nat) : List (Nat × Nat) :=
  (l.foldl (fun (acc : List (Nat × Nat)) u =>
    match acc with
    | (a, n) :: r => if u = a + n ∧ n < 255 then (a, n + 1) :: r else (u, 1) :: acc
    | [] => [(u, 1)]) []).reverse

/-- The live downlink order that has symbol n of a carrier, with the symbol of the slot. -/
def State.dlOrderOf (s : State) (c n : Nat) : Option (Nat × Nat) :=
  let tb := s.carTb c
  let t := s.symStartTc tb n
  (s.orders.findSome? fun e =>
    if e.2.live && e.2.kind == 2 && e.2.carrier == c then
      ((List.range 14).find? fun k => (orSymbols e.2.body).testBit k
        && s.symsLater tb k (s.tcOf tb (orSlot e.2.body)) == t).map fun k => (e.1, k)
    else none)

/-- The C-plane section of a symbol: the first symbol of its run (R366). -/
def runStart (mask k : Nat) : Nat := ((runsOf mask).find? fun r => decide (r.1 ≤ k ∧ k < r.1 + r.2)).map (fun r => r.1) |>.getD k

/-- One U-plane message of local port a: units from `u`, `n` of them. -/
def State.uplaneMsg (s : State) (c sym a sect : Nat) (r : Nat × Nat) : State × List Byte :=
  let tb := s.carTb c
  let air := s.airOf tb (s.symStartTc tb sym)
  let id := (s.car c 6 + a) % 65536
  let q := s.nextSeq id 1 0
  let P := prbBytes (s.carWidth c true)
  let at_ := if s.tdOn c then s.blockAddr c true sym a r.1 else s.prbAddr c true sym a r.1
  let hdr := packMsb (natBits 1 1 ++ natBits 3 1 ++ natBits 4 0 ++ natBits 8 (apSfn air % 256) ++ natBits 4 (apSf air)
    ++ natBits 6 (apSlot air) ++ natBits 6 (apSym air) ++ natBits 12 sect ++ natBits 1 0 ++ natBits 1 0 ++ natBits 10 r.1 ++ natBits 8 r.2)
  (q.1, ecpriMsg 0 (bytesBe 2 id ++ q.2 ++ hdr ++ memBytes s.mem (r.2 * P) at_))

/-- Units of local port a that leave for a symbol: PRBs whose presence bit is set, or every block of the symbol. -/
def State.txUnits (s : State) (c sym a : Nat) : List Nat :=
  if s.tdOn c then List.range (s.rxUnits c (s.symStartTc (s.carTb c) sym))
  else (List.range (s.car c 3)).filter fun u => s.present c true sym a u

/-- Every message of a symbol, by port, in ascending eAxC and unit order; `units` gives the units of a port. -/
def State.symbolMsgs (s : State) (c sym sect : Nat) (units : Nat → List Nat) : State × List (Nat × List Byte) :=
  (List.range (s.localPorts c)).foldl (fun (acc : State × List (Nat × List Byte)) a =>
    (unitRuns (units a)).foldl (fun (acc : State × List (Nat × List Byte)) r =>
      let m := acc.1.uplaneMsg c sym a sect r
      (m.1, acc.2 ++ [(s.portOf c a, m.2)])) acc) (s, [])

/-- Messages leave, but for those of ports that cannot send, which wait. -/
def State.sendMsgs (s : State) (c sym : Nat) (blocked : BitVec 16) (l : List (Nat × List Byte)) : State :=
  l.foldl (fun (s : State) m =>
    if blocked.getLsbD m.1 ∨ s.get (0x2200 + m.1) 4 ≠ 1 then
      { s with txHeld := s.txHeld ++ [{ carrier := c, sym := sym, port := m.1, msgs := [m.2] }] }
    else s.emit (.data 4 m.1 m.2)) s

/-- Codewords of a downlink order with bits in symbol k of its slot. -/
def Order.wordsIn (o : Order) (k : Nat) : List Codeword :=
  o.words.filter fun w =>
    if enChannel (o.user w.user) = 0 then
      (List.range w.blocks.length).any fun r => (blockSymbols true (o.user w.user) o.signals w.cw r).contains k
    else o.signalIn w.user k 0 275

/-- A symbol is not sent: SYM_LATE, LATE, NOT_SENT_SYM, and its codewords PARTIAL with the cause (R19, R254, R256). -/
def State.symbolLost (s : State) (id k cause : Nat) : State :=
  let o := s.order id
  let c := o.carrier
  let l := (o.wordsIn k).filter fun w => w.status == 0
  let o1 := l.foldl (fun (o : Order) w => o.putWord { w with status := 2, cause := cause }) o
  let s1 := (s.setOrder id { o1 with symbols := o1.symbols ||| BitVec.ofNat 14 (2 ^ k) }).bump (0x4120 + c) 4
  if s.cut then s1 else s1.lateEvent (s.carrierCourt c)

/-- Home chips whose layer values for a symbol have not come (R256). -/
def State.missingHomes (s : State) (id k : Nat) : List Nat :=
  ((s.jobs.filter fun e => e.2.live && e.2.order == id && e.2.kind == 0x12 && e.2.sym == k).flatMap fun e =>
    (s.chunkHomes e.2).filter fun h => h != s.chip
      && !(s.order id).layers.any fun l => l.sym == k && l.chunk == e.2.chunk && l.home == h).eraseDups

/-- A symbol that this chip does not send for want of layer values: lost here, and its home chips are told (R256; log entry 171). -/
def State.symbolUnfed (s : State) (id k : Nat) : State :=
  let b := (s.order id).body
  let s1 := (s.missingHomes id k).foldl (fun s h => s.sendMgl h 0 18 (bytesOf 1 (orCarrier b) ++ bytesOf 8 (orSlot b) ++ bytesOf 1 k)) s
  s1.symbolLost id k 6

/-- Another member has not sent a symbol for want of this chip's layer values: the record reports it with cause MEMBER_LOST (R256). -/
def State.unfedIn (s : State) (b : List Byte) : State :=
  match s.packetOrder b with
  | some id =>
    let o := s.order id
    let k := fieldOf b 9 1
    let o1 := ((o.wordsIn k).filter fun w => w.status == 0).foldl (fun (o : Order) w => o.putWord { w with status := 2, cause := 6 }) o
    s.setOrder id { o1 with symbols := o1.symbols ||| BitVec.ofNat 14 (2 ^ k) }
  | none => s

/-- Whether every DL_SYMBOL, and in time-domain mode the DL_TD, of a symbol has completed by the opening of its transmit window (R19, R248). -/
def State.symbolDone (s : State) (id k : Nat) : Bool :=
  s.jobs.all fun e => !(e.2.live && e.2.order == id && e.2.sym == k && (e.2.kind == 0x12 || e.2.kind == 0x13))
    || (e.2.done && !e.2.lost && decide (0 ≤ airDiff e.2.doneAt (s.txOpen (s.order id).body k)))

/-- Blocks of a ramp-down that stand at the head of a symbol which is not itself sent (R260, R372). -/
def State.rampBlocks (s : State) (c : Nat) : Nat := (s.get (0x4300 + c) 6 + 11) / 12

/-- Whether a symbol follows the last symbol of a downlink burst of a carrier. -/
def State.afterBurst (s : State) (c n : Nat) : Bool :=
  let m := s.countOf (s.carTb c) (s.symStartTc (s.carTb c) n)
  s.bursts.any fun b => b.carrier == c && b.dl && b.stop == m

/-- Whether this chip has been removed from the membership of a system (R22). -/
def State.removedMember (s : State) : Bool := s.get 0x2600 5 != 0 && !s.isMember s.chip

/-- TX_WINDOW_OPEN: the transmit window of a symbol opens. A complete symbol is sent; `blocked` names ports that cannot send now, whose
messages wait for the step to come again within the window. A symbol for which a home chip's layer values have not come is not sent
(R256), and a removed member sends nothing. While a cut is taken or held nothing is sent (R403). -/
def execTxWindowOpen (carrier : Fin 32) (sym : BitVec 32) (blocked : BitVec 16) (s : State) : Answer :=
  let c := carrier.val
  let n := sym.toNat
  let tb := s.carTb c
  if s.carDl c = false ∨ s.passed tb (s.dlOpen c n) = false ∨ s.passed tb (s.dlClose c n) then .next s
  else match s.dlOrderOf c n with
    | some (id, k) =>
      let o := s.order id
      if o.tried.getLsbD k then
        let mine := s.txHeld.filter fun h => h.carrier == c && h.sym == n
        .next (if s.cut then s else ({ s with txHeld := s.txHeld.filter fun h => !(h.carrier == c && h.sym == n) }).sendMsgs c n blocked
          (mine.flatMap fun (h : TxHeld) => h.msgs.map fun m => (h.port, m)))
      else
        let s1 := s.setOrder id { o with tried := o.tried ||| BitVec.ofNat 14 (2 ^ k) }
        if s.cut ∨ s1.symbolDone id k = false then .next (s1.symbolLost id k 3)
        else if s1.missingHomes id k ≠ [] then .next (s1.symbolUnfed id k)
        else if s1.slotSymbol c true n ≠ n ∨ s1.removedMember then .next s1
        else
          let m := s1.symbolMsgs c n (runStart (orSymbols o.body) k) (s1.txUnits c n)
          .next (m.1.sendMsgs c n blocked m.2)
    | none =>
      if s.cut ∨ s.tdOn c = false ∨ s.afterBurst c n = false ∨ s.get (0x4300 + c) 6 = 0 ∨ s.slotSymbol c true n ≠ n then .next s
      else
        let m := s.symbolMsgs c n (apSym (s.airOf tb (s.symStartTc tb n))) fun _ => List.range (s.rampBlocks c)
        .next (m.1.sendMsgs c n blocked m.2)

/-- TX_WINDOW_CLOSE: messages of the symbol that could not leave count in TX_MISSED of their port and set LATE; the slot is free, and
engines that wait for it go on (R187, R371). -/
def execTxWindowClose (carrier : Fin 32) (sym : BitVec 32) (s : State) : Answer :=
  let c := carrier.val
  let n := sym.toNat
  if s.carDl c = false ∨ s.passed (s.carTb c) (s.dlClose c n) = false then .next s
  else
    let lost := s.txHeld.filter fun h => h.carrier == c && h.sym == n
    let s1 := { s with txHeld := s.txHeld.filter fun h => !(h.carrier == c && h.sym == n) }
    let s2 := lost.foldl (fun (s : State) (h : TxHeld) => s.bumpBy (0x2200 + h.port) 0x0B h.msgs.length) s1
    let s3 := if lost = [] then s2 else s2.lateEvent (s.carrierCourt c)
    let waiters := (List.range 64).flatMap fun m => (List.range 4).filterMap fun e =>
      match ((s3.core m).curCtx.engine e).wait with
      | .slot _ _ => some (m, e)
      | _ => none
    .next (waiters.foldl (fun s w => s.resumeMove w.1 (s.core w.1).cur w.2 []) s3)

/-! ### C-plane (R366 to R368) -/

/-- Messages of a C-plane order have all left: this chip's (bit 31), or a member's, `count` of them. Once none is awaited the record is written, by the
chip that the order was posted to; another chip tells the coordinating chip (R368). -/
def State.cplaneDone (s : State) (id bit count : Nat) : State :=
  let o := s.order id
  let gone : State := { s with orders := Tbl.set {} s.orders id {} }
  let o1 := { o with awaits := o.awaits &&& (2 ^ 32 - 1 - 2 ^ bit), sent := o.sent + count }
  if o.awaits = 0 then
    match (List.range 24).find? fun m => s.isMember m with
    | some m => gone.sendMgl m 0 19 (bytesOf 1 (orCarrier o.body) ++ bytesOf 8 (orSlot o.body) ++ bytesOf 8 (orTag o.body) ++ bytesOf 4 o.sent)
    | none => gone
  else if o1.awaits = 0 then gone.record o.func o.ring (cpRecord o1 0)
  else s.setOrder id o1

/-- A member tells how many messages it has sent for a C-plane order. -/
def State.cplaneIn (s : State) (src : Nat) (b : List Byte) : State :=
  match s.orders.find? fun e => e.2.live && e.2.kind == 3 && e.2.awaits.testBit src && orCarrier e.2.body == fieldOf b 0 1
      && orSlot e.2.body == fieldOf b 1 8 && orTag e.2.body == fieldOf b 9 8 with
  | some e => s.cplaneDone e.1 src (fieldOf b 17 4)
  | none => s

/-- A chip that has left the membership is awaited no more. -/
def State.cplaneLost (s : State) (c : Nat) : State :=
  (s.orders.filter fun e => e.2.live && e.2.kind == 3 && e.2.awaits.testBit c).foldl (fun (s : State) e => s.cplaneDone e.1 c 0) s

/-- CPLANE_TX: the next message of the first run whose earliest departure has come leaves; after the last message of a C-plane order
its record is written. -/
def execCplaneTx (s : State) : Answer :=
  match s.cplane.find? fun r => decide (r.earliest ≤ ((s.tb (s.carTb r.carrier)).tc : Int)) with
  | none => .next s
  | some r =>
    if s.cut then .next s
    else
      let rest := s.cplane.erase r
      let last : Bool := decide (s.localPorts r.carrier ≤ r.next + 1)
      let s1 := { s with cplane := if last then rest else { r with next := r.next + 1 } :: rest }
      let s2 := if s.localPorts r.carrier ≤ r.next then s1
        else
          let id := (s.car r.carrier 6 + r.next) % 65536
          let q := s1.nextSeq id (if r.dl then 1 else 0) 1
          q.1.emit (.data 4 (s.portOf r.carrier r.next) (ecpriMsg 2 (bytesBe 2 id ++ q.2 ++ r.body)))
      let o := s2.order r.order
      if r.stype ≠ 3 ∨ o.live = false then .next s2
      else
        let s3 := s2.setOrder r.order { o with sent := o.sent + if r.next < s.localPorts r.carrier then 1 else 0 }
        .next (if last ∧ (rest.all fun x => x.order != r.order) then s3.cplaneDone r.order 31 0 else s3)

end Sys2Proof.Machine
end

