-- ==== Sys2Proof/Machine/Transform.lean ====
section
/-! DEFINITION. The arithmetic of the transform engines (R202, R257, R258): decimation in frequency over radix 5, 3, 4 and a final 2, CI18 twiddle
factors, products rounded back by 17 bits. Where in a radix-3 or radix-5 butterfly the products are rounded is the model's (log entry 168). -/

namespace Sys2Proof.Machine

open Sys2Proof

/-- A CI18 constant: round_te(2¹⁷ cos 2πk/n) and round_te(2¹⁷ sin 2πk/n). -/
def twiddleOf (n k : Nat) : Int × Int :=
  let x := 2 * fixPi * k / n
  let part := fun (p : Nat) =>
    let r := sinCosFrac p false x
    let v : Int := (divEven (r.2.1 * 2 ^ 17) r.2.2 : Nat)
    if r.1 then -v else v
  (part 1, part 0)

/-- A value times a constant, each part rounded once. -/
def twiddled (v c : Int × Int) : Int × Int := (shrEven (v.1 * c.1 - v.2 * c.2) 17, shrEven (v.1 * c.2 + v.2 * c.1) 17)

/-- Stage radices of an n-point transform: fives, threes, fours, a two. -/
def stageRadices (n : Nat) : List Nat :=
  let times := fun (p : Nat) => ((List.range 13).filter fun i => n % p ^ (i + 1) == 0).length
  let two := times 2
  List.replicate (times 5) 5 ++ List.replicate (times 3) 3 ++ List.replicate (two / 2) 4 ++ (if two % 2 = 1 then [2] else [])

/-- Output p of a radix-r butterfly. Its constants W_r^(mp) are signs and exchanges of parts for radix 2 and 4. `w` gives a constant by its place
on the circle of n. -/
def butterfly (n r p : Nat) (w : Nat → Int × Int) (x : List (Int × Int)) : Int × Int :=
  (x.zipIdx).foldl (fun (a : Int × Int) e =>
    let t := twiddled e.1 (w (n / r * (e.2 * p % r)))
    (a.1 + t.1, a.2 + t.2)) (0, 0)

/-- The stages over values whose number is the product of the radices. `step` is the distance on the circle of n between constants of this size. -/
def stages (n : Nat) (w : Nat → Int × Int) : List Nat → Nat → List (Int × Int) → List (Int × Int)
  | [], _, v => v
  | r :: rs, step, v =>
    let a := v.toArray
    let m := v.length / max 1 r
    let subs := (List.range r).map fun p =>
      (stages n w rs (step * r) ((List.range m).map fun i =>
        twiddled (butterfly n r p w ((List.range r).map fun q => a.getD (i + q * m) (0, 0))) (w (step * (i * p) % max 1 n)))).toArray
    (List.range (m * r)).map fun k => (subs.getD (k % r) #[]).getD (k / r) (0, 0)

/-- The forward transform of n values, Σ x e^(−jθ), or the inverse, with 32-bit parts and no output shift. -/
def transformOf (n : Nat) (inverse : Bool) (v : List (Int × Int)) : List (Int × Int) :=
  let t := ((List.range n).map fun k => let c := twiddleOf n k; (c.1, if inverse then c.2 else -c.2)).toArray
  stages n (fun k => t.getD k (2 ^ 17, 0)) (stageRadices n) 1 v

/-- Whether a symbol is one whose cyclic prefix is the longer. -/
def State.longPrefix (s : State) (tb t : Nat) : Bool :=
  decide (symBase (s.tbMu tb) (s.tbEcp tb) < symLen (s.tbMu tb) (s.tbEcp tb) (symbolOf (s.tbMu tb) (s.tbEcp tb) (t % 1966080)).1)

/-- What a transform of a UL_FRONT takes: NFFT samples of a port from CP − FFT_BACKOFF on (R202). -/
def State.ulInput (s : State) (c n port : Nat) : List (Int × Int) :=
  let nfft := s.get (0x4300 + c) 2
  let tb := s.carTb c
  let back := s.get (0x4000 + c) 7 * nfft * 2 ^ s.tbMu tb / 131072
  let start := s.cpSamples c (s.longPrefix tb (s.symStartTc tb n)) - back
  let w := s.carWidth c false
  let blocks := ((List.range ((start + nfft + 11) / 12)).map fun b => memBytes s.mem (prbBytes w) (s.blockAddr c false n port b)).toArray
  (List.range nfft).map fun i =>
    let q := if s.slotSymbol c false n = n then prbElem w (blocks.getD ((start + i) / 12) []) ((start + i) % 12) else (0, 0)
    (clampInt (sLo 16) (sHi 16) q.1, clampInt (sLo 16) (sHi 16) q.2)

/-- What a transform of a DL_TD takes: subcarrier k in bin (k − 6 NPRB) mod NFFT, all other bins and absent PRBs zero (R257). -/
def State.dlInput (s : State) (c n port : Nat) : List (Int × Int) :=
  let nfft := max 1 (s.get (0x4300 + c) 2)
  let p := s.car c 3
  let prbs := ((List.range p).map fun u =>
    if s.slotSymbol c true n = n ∧ s.present c true n port u then memBytes s.mem 48 (s.prbAddr c true n port u) else []).toArray
  (List.range nfft).map fun b =>
    let k := (b + 6 * p) % nfft
    if k < 12 * p then prbElem 0 (prbs.getD (k / 12) []) (k % 12) else (0, 0)

end Sys2Proof.Machine
end

