-- ==== Sys2Proof/Machine/Adapt.lean ====
section
/-! DEFINITION. Site adaptation (R220 to R223) and the transform engines (R202, R203, R257 to R260). -/

namespace Sys2Proof.Machine

open Sys2Proof

/-! ### Site adaptation -/

/-- Collection begins again from nothing. -/
def State.adaptRestart (s : State) (k : Nat) : State :=
  { (s.put (0x4060 + k) 0x0E 0).put (0x4060 + k) 0x0A (if s.get (0x4060 + k) 1 = 1 then 1 else 0) with
    adaptSlots := Tbl.set 0 s.adaptSlots k 0, adaptUsed := Tbl.set 0 s.adaptUsed k 0 }

/-- One weight part trained (R221): from its CI8 value at the declared scale, w := w − LR × g by VFMA for each step's sum, then quantised to that
scale, to nearest with ties to even. -/
def trainPart (scale lr : Nat) (q : Int) (sums : List Int) : Int :=
  let w := sums.foldl (fun w g => (mpFma (neg32 lr) (intToF fmtFP32 g).1 w).1) (mul32 (intToF fmtFP32 q).1 scale)
  (ftoInt (-128) 127 (dec32 (div32 w scale))).1

/-- The candidate's data: the detector's, with the weights of its two adaptable layers trained. -/
def trained (data : List Byte) (x : Training) (lr : Nat) : List Byte :=
  let n := x.sums.foldl (fun m l => max m l.length) 0
  (data.zipIdx).map fun e =>
    if x.offset ≤ e.2 ∧ e.2 < x.offset + n then
      BitVec.ofInt 8 (trainPart x.scale.toNat lr e.1.toInt (x.sums.map fun l => (l[e.2 - x.offset]?).getD 0))
    else e.1

/-- The lowest model ID from 0x8000 to 0xFFFE that the library does not use. -/
def State.candidateId (s : State) : Option Nat := (List.range 32767).map (fun i => 0x8000 + i) |>.find? fun m => !(s.model m).live

/-- ADAPT_EPOCH_END: the training of an epoch has run: the held-out losses of the detector in service and of the candidate, in units of 2^-16
nat per bit, and the gradient sums of each step come from the adaptation jobs (R221). The candidate is published where its loss
meets R222. -/
def execAdaptEpochEnd (court : Fin 16) (baseLoss candLoss : BitVec 32) (train : Training) (s : State) : Answer :=
  let k := court.val
  let i := 0x4060 + k
  if s.get i 1 ≠ 1 ∨ s.get i 0x0A ≠ 2 ∨ Tbl.get 0 s.adaptSlots k < s.get i 3 then .next s
  else
    let s1 := (s.put i 0x0C baseLoss.toNat).put i 0x0D candLoss.toNat
    if baseLoss.toNat < candLoss.toNat + s.get i 7 then .next ((s1.bump i 0x10).adaptRestart k)
    else
      let base := s.model (s.get i 2)
      match s.candidateId with
      | some m =>
        if libTotal < s.libUsed + base.pages * 65536 then .next (((s1.bump i 0x11).adaptRestart k).attend 8 k)
        else
          let x : LibModel := { base with live := true, adapted := true, signed := false, damaged := false, data := trained base.data { train with sums := train.sums.take (s.get i 5) } (s.get i 6) }
          let s2 := { s1 with lib := Tbl.set {} s1.lib m x, adaptSlots := Tbl.set 0 s1.adaptSlots k 0, adaptUsed := Tbl.set 0 s1.adaptUsed k 0 }
          .next ((((s2.put i 0x0B m).put i 0x0A 3).bump i 0x0F).attend 8 k)
      | none => .next (((s1.bump i 0x11).adaptRestart k).attend 8 k)

/-- The published candidate of a Court leaves CANDIDATE and collection resumes; the model leaves the library unless something
references or pins it. -/
def State.discardCandidate (s : State) (k : Nat) : State :=
  let m := s.get (0x4060 + k) 0x0B
  let s1 := if m = 0 ∨ s.isReferenced m ∨ s.isPinned m ∨ (s.resident m).live then s else { s with lib := Tbl.set {} s.lib m {} }
  (s1.put (0x4060 + k) 0x0B 0).adaptRestart k

/-- ADAPT_DISCARD: writing 1 discards the published candidate and resumes collection (R222); any other value is no change. -/
def execAdaptDiscard (court : Fin 16) (value : BitVec 8) (s : State) : Answer :=
  .next (if value = 1#8 ∧ s.get (0x4060 + court.val) 0x0A = 3 then s.discardCandidate court else s)

/-! ### Transform engines -/

def State.xfEngine (s : State) (e : Nat) : TransformEngine := Tbl.get {} s.transforms e
def State.setXf (s : State) (e : Nat) (g : TransformEngine) : State := { s with transforms := Tbl.set {} s.transforms e g }

/-- Ports of a job that wait for a transform. -/
def State.xfWaiting (s : State) (j : Nat) : List Nat :=
  let y := s.job j
  match y.ports with
  | some l => l
  | none => List.range (s.localPorts y.carrier)

/-- The next transform: of a UL_FRONT before any DL_TD, the earlier job first (R203). -/
def State.nextTransform (s : State) : Option (Nat × Nat) :=
  let run := fun (kind : Nat) => ((s.jobs.filter fun e => e.2.live && e.2.kind == kind && e.2.state == .running && s.xfWaiting e.1 != []).map
    fun e => e.1)
  match firstBy s.jobBefore (run 1) <|> firstBy s.jobBefore (run 0x13) with
  | some j => (s.xfWaiting j).head?.map fun p => (j, p)
  | none => none

/-- An idle engine takes the next transform. -/
def State.xfDispatch (s : State) (e : Nat) : State :=
  let g := s.xfEngine e
  if g.state ≠ 0 ∨ s.cut then s
  else match s.nextTransform with
    | some (j, p) => (s.setXf e { g with state := 1, job := j, port := p, since := s.clock }).setJob j { s.job j with ports := some ((s.xfWaiting j).drop 1) }
    | none => s

/-- A value shifted right by n bits, to nearest with ties to even, saturated to CI16; whether it saturated (R258). -/
def xfOut (n : Nat) (v : Int) : Int × Bool :=
  let q : Int := if v < 0 then -((divEven v.natAbs (2 ^ n) : Nat) : Int) else ((divEven v.natAbs (2 ^ n) : Nat) : Int)
  (clampInt (-32768) 32767 q, decide (q < -32768 ∨ 32767 < q))

/-- A sample multiplied by a Q15 weight, rounding half up (R260; VMULRS with SH = 15). -/
def rampMul (w : Nat) (v : Int) : Int := clampInt (-32768) 32767 ((v * w + 16384) / 32768)

/-- Weight n of RAMP_TABLE. -/
def State.rampW (s : State) (c n : Nat) : Nat := fieldOf (s.blobAt (0x4300 + c) 7) (2 * n) 2

/-- Whether the burst of a carrier covers the symbol before symbol n. -/
def State.burstBefore (s : State) (c n : Nat) : Bool :=
  let m := s.countOf (s.carTb c) (s.symStartTc (s.carTb c) n)
  s.bursts.any fun b => b.carrier == c && b.dl && decide (b.start < m ∧ m ≤ b.stop)
/-- Whether symbol n is the last of its burst: no burst covers the symbol after it. -/
def State.burstEnds (s : State) (c n : Nat) : Bool :=
  let m := s.countOf (s.carTb c) (s.symStartTc (s.carTb c) (n + 1))
  !(s.bursts.any fun b => b.carrier == c && b.dl && decide (b.start ≤ m ∧ m < b.stop))

/-- Samples written to the sample area of a downlink slot, in blocks of 12, the last padded with zeros (R372). -/
def State.writeSamples (s : State) (c n port : Nat) (v : List (Int × Int)) : State :=
  (List.range ((v.length + 11) / 12)).foldl (fun s b =>
    let x := ((v.drop (12 * b)).take 12).flatMap fun q => [q.1, q.2]
    s.storeBytes (s.blockAddr c true n port b) (prbStored (s.carWidth c true) (x ++ List.replicate (24 - x.length) 0))) s

/-- The output of a transform of a DL_TD: cyclic prefix, ramps, and the samples in the symbol's slot (R257, R260, R372). -/
def State.dlSamples (s : State) (c n port : Nat) (v : List (Int × Int)) : State :=
  let tb := s.carTb c
  let first := decide (symBase (s.tbMu tb) (s.tbEcp tb)
    < symLen (s.tbMu tb) (s.tbEcp tb) (symbolOf (s.tbMu tb) (s.tbEcp tb) (s.symStartTc tb n % 1966080)).1)
  let cp := s.cpSamples c first
  let l := s.get (0x4300 + c) 6
  let all := v.drop (v.length - cp) ++ v
  let up := if s.burstBefore c n then all
    else (all.zipIdx).map fun (e : (Int × Int) × Nat) => if e.2 < l then (rampMul (s.rampW c e.2) e.1.1, rampMul (s.rampW c e.2) e.1.2) else e.1
  let s1 := (s.claimDl c n).writeSamples c n port up
  if s.burstEnds c n ∧ l ≠ 0 then
    let down := ((v.take l).zipIdx).map fun (e : (Int × Int) × Nat) =>
      (rampMul (s.rampW c (l - 1 - e.2)) e.1.1, rampMul (s.rampW c (l - 1 - e.2)) e.1.2)
    (s1.claimDl c (n + 1)).writeSamples c (n + 1) port down
  else s1

/-- The output of a transform of a UL_FRONT: subcarrier k from bin (k − 6 NPRB) mod NFFT, uncompressed, every presence bit set (R202). -/
def State.ulBins (s : State) (c n port : Nat) (v : List (Int × Int)) : State :=
  let f := max 1 (s.get (0x4300 + c) 2)
  let p := s.car c 3
  (List.range p).foldl (fun s u =>
    let x := (List.range 12).flatMap fun i =>
      let b := (12 * u + i + f - 6 * p % f) % f
      let q := (v[b]?).getD (0, 0)
      [q.1, q.2]
    (s.storeBytes (s.prbAddr c false n port u) (prbStored 0 x)).setPresent c false n port u) s

/-- TRANSFORM_DONE: the engine completes its transform: the results are shifted by TD_SHIFT and saturated, written where the job's kind says, and the
engine takes the next transform, uplink first. An idle engine only takes the next. -/
def execTransformDone (engine : Fin 8) (s : State) : Answer :=
  let e := engine.val
  let g := s.xfEngine e
  if g.state ≠ 1 then .next (s.xfDispatch e)
  else
    let y := s.job g.job
    let c := y.carrier
    let w := s.forOf y
    let sh := w.get (0x4300 + c) (if y.kind = 1 then 4 else 3)
    let n := s.jobSymbol y
    let live : Bool := (s.order y.order).live
    let values := if live = false then []
      else if y.kind = 1 then transformOf (w.get (0x4300 + c) 2) false (w.ulInput c n g.port)
      else transformOf (w.get (0x4300 + c) 2) true (w.dlInput c n g.port)
    let o := values.map fun v => (xfOut sh v.1, xfOut sh v.2)
    let sat := (o.filter fun v => v.1.2 || v.2.2).length
    let v := o.map fun v => (v.1.1, v.2.1)
    let s1 := ((s.setXf e { g with state := 0, job := 0, port := 0 }).bump (0x4340 + e) 2).bumpBy (0x4340 + e) 3 sat |>.countGlobal 0x1033 1
    let s2 := if live = false then s1 else if y.kind = 1 then s1.ulBins c n g.port v else s1.dlSamples c n g.port v
    .next (s2.xfDispatch e)

/-- TRANSFORM_ENGINE_FAULT: the transform is done again from its start on another engine; three faults within 1 s of TB0 fence the
engine (Table 17.1). -/
def execTransformEngineFault (engine : Fin 8) (s : State) : Answer :=
  let e := engine.val
  let g := s.xfEngine e
  if g.state = 3 ∨ s.isFenced 8 e then .next s
  else
    let now := (s.tb 0).tc
    let recent := now :: g.faults.filter fun t => decide (airDiff t now < 1966080000)
    let s1 := if g.state = 1 then s.setJob g.job { s.job g.job with ports := some (g.port :: s.xfWaiting g.job) } else s
    if 3 ≤ recent.length then
      .next ((s1.setXf e { state := 3, faults := recent }).fenceObject 8 e 0x45 recent.length 0xFF).settle
    else .next (s1.setXf e { state := 2, faults := recent })

end Sys2Proof.Machine
end

