-- ==== Sys2Proof/Machine/Clocks.lean ====
section
/-! DEFINITION. Time bases, PTP, the timing pins and the timed pins (R30, R34 to R49). -/

namespace Sys2Proof.Machine

open Sys2Proof

def tbIx (n : Nat) : Nat := 0x2000 + n * 16

/-- 0.25 ns units as Tc, and Tc as 0.25 ns units, rounded down. -/
def quarterToTc (q : Int) : Int := q * 49152 / 100000
def tcToQuarter (d : Int) : Int := d * 100000 / 49152

/-- The TAI that a time base reports, in whole ns and in 0.25 ns units (R35, R38). -/
def State.taiNs (s : State) (n : Nat) : Int := tcToTai 1 (((s.tb n).tc : Int) - asI64 (s.get (tbIx n) 4))
def State.taiQuarter (s : State) (n : Nat) : Int := tcToTai 4 (((s.tb n).tc : Int) - asI64 (s.get (tbIx n) 4))

/-! ### References (R42) -/

/-- Whether the values of the dictionary that `g` gives refer to a time base: an enabled carrier, or a timed pin in a mode other than
OFF or CAPTURE. -/
def tbNamed (g : Nat → Nat → Nat) (n : Nat) : Bool :=
  ((List.range 32).any fun c => g (0x2300 + c) 1 != 0 && g (0x2300 + c) 2 == n)
    || (List.range 32).any fun p => g (0x2100 + p) 1 != 0 && g (0x2100 + p) 1 != 6 && g (0x2100 + p) 2 == n

/-- Whether an uncompleted job follows a time base. -/
def State.tbJobs (s : State) (n : Nat) : Bool := s.jobs.any fun e => e.2.live && e.2.state != .completed && e.2.tb == n

/-- Whether this chip coordinates the system: the lowest-numbered member (R303). -/
def State.coordinates (s : State) : Bool := !s.multiChip || ((List.range 24).find? fun c => s.isMember c) == some s.chip

/-- A referenced time base never steps (R42). -/
def State.tbReferenced (s : State) (n : Nat) : Bool :=
  tbNamed s.get n || s.tbJobs n
    || (s.rallies.any fun r => (r.state == .committed || r.state == .frozen) && r.tb == n)
    || (s.multiChip && s.coordinates && (s.tb n).enabled)

/-! ### States (Table 2.4, R36, R37, R41 to R44) -/

/-- A change of state: STATE_CHANGES, the counts of updates begin again, TIME is formed again. -/
def State.tbEnter (s : State) (n : Nat) (x : TbState) (cause : Nat) : State :=
  let t := s.tb n
  let s1 := s.put (tbIx n) 0x11 (if x = .holdover then cause else 0)
  if t.state = x then s1 else ((s1.setTb n { t with state := x, good := 0, bad := 0 }).bump (tbIx n) 0x16).settle

/-- Offset of a time base from the one it follows: that one's air time plus its own FRAME_OFFSET (Table 2.2), as Tc. -/
def State.followOffset (s : State) (n : Nat) : Int :=
  let f := s.get (tbIx n) 6 % 8
  ((s.tb f).tc : Int) + asI64 (s.get (tbIx n) 4) - (s.tb n).tc

/-- STATE and HOLDOVER_CAUSE of a follower: those of the time base it follows, FREQ_LOCKED for LOCKED while it slews (R36). -/
def State.followState (s : State) (n : Nat) : TbState × Nat :=
  let f := s.get (tbIx n) 6 % 8
  (if (s.tb f).state = .locked ∧ (s.tb n).slew ≠ 0 then .freqLocked else (s.tb f).state, s.get (tbIx f) 0x11)

/-- Every follower takes the state of the time base it follows. -/
def State.followStates (s : State) : State :=
  (List.range 8).foldl (fun (s : State) n =>
    if s.tbFollows n then
      let x := s.followState n
      if (s.tb n).state = x.1 ∧ s.get (tbIx n) 0x11 = (if x.1 = .holdover then x.2 else 0) then s else s.tbEnter n x.1 x.2
    else s) s

/-- Time base n steps by d Tc, and the offsets of its sources with it; one that follows it steps too, or slews where it is referenced (R42). -/
def State.tbStep (s : State) (n : Nat) (d : Int) : State :=
  let t := s.tb n
  let less := fun (o : Option Int) => o.map fun x => x - tcToQuarter d
  (List.range 8).foldl (fun (s : State) m =>
    if m ≠ n ∧ s.tbFollows m ∧ s.get (tbIx m) 6 % 8 = n then
      let u := s.tb m
      s.setTb m (if s.tbReferenced m then { u with slew := u.slew + d } else { u with tc := ((u.tc : Int) + d).toNat })
    else s) (s.setTb n { t with tc := ((t.tc : Int) + d).toNat, prim := less t.prim, fb := less t.fb })

/-- The offset of the source that `onFallback` names, in 0.25 ns units and in Tc. -/
def State.phaseQuarter (s : State) (n : Nat) : Int :=
  if s.tbSource n = 3 then tcToQuarter (s.followOffset n) else ((if (s.tb n).onFallback then (s.tb n).fb else (s.tb n).prim).getD 0)
def State.phaseTc (s : State) (n : Nat) : Int := if s.tbSource n = 3 then s.followOffset n else quarterToTc (s.phaseQuarter n)

/-- Whether that offset is beyond SLEW_LIMIT of a referenced time base (R43). -/
def State.stepNeeded (s : State) (n : Nat) : Bool := s.tbReferenced n && decide (s.get (tbIx n) 0x0D * 4 < (s.phaseQuarter n).natAbs)

/-- The source that `onFallback` names comes into use: an unreferenced time base steps to its phase, a referenced one slews (R42). A follower takes
the followed time base's state, any other is ACQUIRING. -/
def State.tbAcquire (s : State) (n : Nat) : State :=
  let d := s.phaseTc n
  let s1 := if s.tbReferenced n then s.setTb n { s.tb n with inUse := true, slew := d }
    else let s2 := s.tbStep n d
         s2.setTb n { s2.tb n with inUse := true, slew := 0 }
  if s.tbSource n = 3 then s1.tbEnter n (s1.followState n).1 (s1.followState n).2 else s1.tbEnter n .acquiring 0

/-- A source waits with STEP_NEEDED (R43). -/
def State.tbWait (s : State) (n : Nat) : State := (s.setTb n { s.tb n with inUse := false, slew := 0 }).tbEnter n .holdover 2

/-- A new or returning source is acquired, or STEP_NEEDED beyond SLEW_LIMIT (R43). -/
def State.tbTake (s : State) (n : Nat) : State := if s.stepNeeded n then s.tbWait n else s.tbAcquire n

/-- A source qualifies with its offset, or is measured again (R37, R41, R43). The fallback waits while the primary is qualified. -/
def State.tbQualify (s : State) (n : Nat) (fallback : Bool) (off : Int) : State :=
  let t := s.tb n
  let t1 := if fallback then { t with fb := some off } else { t with prim := some off }
  let s1 := s.setTb n t1
  if t.enabled = false then s
  else if fallback then
    (if t.inUse = false ∧ t.prim = none then (s1.setTb n { t1 with onFallback := true }).tbTake n else s1)
  else if t.inUse = false ∨ t.onFallback then (s1.setTb n { t1 with onFallback := false, inUse := false }).tbTake n
  else s1

/-- To the qualified fallback (R37): the state is kept where a source was in use, and the offset is slewed out; a follower takes the followed time
base's state. -/
def State.toFallback (s : State) (n : Nat) : State :=
  let t := s.tb n
  let s1 := s.setTb n { t with onFallback := true }
  if s1.stepNeeded n then s1.tbWait n
  else if t.inUse then
    let s2 := s1.setTb n { s1.tb n with slew := s1.phaseTc n }
    if s2.tbSource n = 3 then s2.tbEnter n (s2.followState n).1 (s2.followState n).2 else s2
  else s1.tbAcquire n

/-- The source that was in use or waited is gone: to the fallback where it is qualified, else HOLDOVER from FREQ_LOCKED and LOCKED, `other` from any
other state (Table 2.4, R37). -/
def State.dropSource (s : State) (n : Nat) (other : TbState) : State :=
  let t := s.tb n
  if t.onFallback = false ∧ t.fb.isSome then s.toFallback n
  else
    let s1 := s.setTb n { t with inUse := false, onFallback := false, slew := 0 }
    if t.state = .freqLocked ∨ t.state = .locked then s1.tbEnter n .holdover 1 else s1.tbEnter n other 1

/-- A source is lost (R37, Table 2.4); one that waits with STEP_NEEDED leaves its time base in HOLDOVER with its source lost. -/
def State.tbLose (s : State) (n : Nat) (fallback : Bool) : State :=
  let t := s.tb n
  let had := (if fallback then t.fb else t.prim).isSome
  let s1 := s.setTb n (if fallback then { t with fb := none } else { t with prim := none })
  if t.enabled = false ∨ had = false ∨ t.onFallback ≠ fallback then s1
  else s1.dropSource n (if t.state = .holdover then .holdover else .freerun)

/-- A source FOLLOW_TB is qualified while the time base it names is enabled, and lost with it (R36). -/
def State.followSync (s : State) (n : Nat) : State :=
  let up := (s.tb (s.get (tbIx n) 6 % 8)).enabled
  let one := fun (s : State) (fallback : Bool) =>
    if s.get (tbIx n) (if fallback then 7 else 5) ≠ 3 then s
    else if up = false then s.tbLose n fallback
    else if (if fallback then (s.tb n).fb else (s.tb n).prim).isSome then s
    else s.tbQualify n fallback (tcToQuarter (s.followOffset n))
  if (s.tb n).enabled then one (one s false) true else s

/-- A time base that becomes unreferenced while STEP_NEEDED moves to ACQUIRING at once, and steps there (R42). -/
def State.tbSettle (s : State) (n : Nat) : State :=
  if (s.tb n).state = .holdover ∧ (s.tb n).inUse = false ∧ s.get (tbIx n) 0x11 = 2 ∧ s.tbReferenced n = false then s.tbAcquire n else s

/-- A value as an I32 object holds it: saturated. -/
def satI32 (x : Int) : Nat := wrapTo 32 (max (-2147483648) (min 2147483647 x))

/-- SERVO_UPDATE: an update of the loop of a time base that runs a servo: offset from the source (0.25 ns units, the source less the
time base), frequency error (ppb) and the loop filter's correction (2^-48 units) (R41). The phase is corrected by slewing. A source that waits with
STEP_NEEDED is only measured. -/
def execServoUpdate (tb : Fin 8) (offset : BitVec 64) (freqPpb : BitVec 32) (rate : BitVec 64) (s : State) : Answer :=
  let n := tb.val
  let t := s.tb n
  let off := offset.toInt
  let m := if t.onFallback then { t with fb := t.fb.map fun _ => off } else { t with prim := t.prim.map fun _ => off }
  if s.tbSource n = 3 ∨ t.enabled = false then .next s
  else if t.inUse = false then .next ((s.setTb n m).tbSettle n).followStates
  else
    let s1 := (s.put (tbIx n) 0x14 (satI32 off)).put (tbIx n) 0x15 rate.toNat
    let t1 := { m with slew := quarterToTc off }
    let go := fun (g b : Nat) (on : Bool) (x : TbState) =>
      let s2 := s1.setTb n { t1 with good := g, bad := b }
      (if on then s2.tbEnter n x 0 else s2).followStates
    match t.state with
    | .acquiring =>
      let g := if freqPpb.toInt.natAbs ≤ 50 then t.good + 1 else 0
      .next (go g t.bad (decide (16 ≤ g)) .freqLocked)
    | .freqLocked =>
      let g := if s.tbSource n ≠ 0 ∧ off.natAbs ≤ 4 * s.get (tbIx n) 0x0A then t.good + 1 else 0
      .next (go g t.bad (decide (16 ≤ g)) .locked)
    | .locked =>
      let b := if 4 * s.get (tbIx n) 0x0B < off.natAbs then t.bad + 1 else 0
      .next (go t.good b (decide (4 ≤ b)) .freqLocked)
    | _ => .next s

/-! ### Loss and qualification of sources (R41) -/

/-- 2^log seconds in Tc. -/
def logSeconds (log : Int) : Nat := if log < 0 then 1966080000 / 2 ^ log.natAbs else 1966080000 * 2 ^ log.toNat

/-- The master that the best master clock algorithm selects: the lowest rank (R37). -/
def TimeBase.master (t : TimeBase) : Option PtpMaster := firstBy (fun (a b : PtpMaster) => decide (natOfBe a.rank < natOfBe b.rank)) t.masters

/-- A PTP source is lost after three announce intervals with no Announce, or three Sync intervals with no Sync (R41). -/
def State.ptpLost (s : State) (n : Nat) : Bool :=
  let t := s.tb n
  match t.master with
  | none => true
  | some m => decide (m.seen + 3 * logSeconds m.interval ≤ s.clock)
      || decide (t.lastSync.getD m.seen + 3 * logSeconds (signed 32 (s.get (tbIx n + 1) 7)) ≤ s.clock)

/-- Whether the primary or fallback source of a time base is lost now. -/
def State.sourceGone (s : State) (n : Nat) (fallback : Bool) : Bool :=
  let src := s.get (tbIx n) (if fallback then 7 else 5)
  if src = 1 then s.ptpLost n else if src = 3 then !(s.tb (s.get (tbIx n) 6 % 8)).enabled else true

/-- SOURCE_LOSS: the primary or fallback phase source of a time base is lost; the masters of a PTP source are forgotten. -/
def execSourceLoss (tb : Fin 8) (fallback : Bool) (s : State) : Answer :=
  .next (if s.sourceGone tb fallback then
      let s1 := if s.get (tbIx tb) (if fallback then 7 else 5) = 1 then s.setTb tb { s.tb tb with masters := [], lastSync := none } else s
      (s1.tbLose tb fallback).followStates
    else s)

/-- Eight consecutive offset measurements that lie within 1 ms of one another (R41). -/
def offsetsAgree (l : List (BitVec 64)) : Bool := l.length == 8 && l.all fun a => l.all fun b => decide (a.toInt - b.toInt ≤ 4000000)

/-- Whether a source has what it measures against: a selected PTP master, a labelled PPS_IN edge, a coordinating chip (Table 2.2). -/
def State.sourceReady (s : State) (n src : Nat) : Bool :=
  if src = 1 then (s.tb n).master.isSome else if src = 2 then s.pps.label.isSome else src == 4 && s.multiChip && !s.coordinates

/-- SOURCE_QUALIFIED: the primary or fallback phase source of a time base qualifies by its last eight offset measurements, in 0.25 ns units; the last one
is its offset. -/
def execSourceQualified (tb : Fin 8) (fallback : Bool) (offsets : List (BitVec 64)) (s : State) : Answer :=
  .next (if offsetsAgree offsets ∧ s.sourceReady tb (s.get (tbIx tb) (if fallback then 7 else 5)) then
      (s.tbQualify tb fallback (offsets.getLastD 0#64).toInt).followStates
    else s)

/-- Whether FOLLOW_TB is the primary or fallback source under the values `g`. -/
def followsBy (g : Nat → Nat → Nat) (n : Nat) : Bool := g (tbIx n) 5 == 3 || g (tbIx n) 7 == 3

/-- Whether a write of PHASE_SRC, PHASE_ARG or FALLBACK_SRC keeps following at depth one (R36). -/
def State.followOk (s : State) (n sub v : Nat) : Bool :=
  let g := fun i b => if i = tbIx n ∧ b = sub then v else s.get i b
  let f := g (tbIx n) 6
  !(followsBy g n)
    || (f != n && decide (f < 8) && !(followsBy g f) && (List.range 8).all fun m => m == n || !(followsBy g m && g (tbIx m) 6 == n))

/-- A time base whose written sources no longer qualify: the one written, and a FOLLOW_TB whose PHASE_ARG is written. -/
def State.forgetSources (s : State) (n sub : Nat) : State :=
  let t := s.tb n
  let gone := fun (k : Nat) => sub == k || (sub == 6 && s.get (tbIx n) k == 3)
  s.setTb n { t with prim := if gone 5 then none else t.prim, fb := if gone 7 then none else t.fb }

/-- A write of PHASE_SRC (5), PHASE_ARG (6) or FALLBACK_SRC (7) in force: where it replaces the source in use, that source is lost
(R37); none where R36 refuses it. -/
def State.writeSource (s : State) (n sub v : Nat) : Option State :=
  if s.followOk n sub v = false then none
  else if s.get (tbIx n) sub = v then some s
  else
    let t := s.tb n
    let used : Bool := if sub = 5 then !t.onFallback else if sub = 7 then t.onFallback else s.tbSource n == 3
    let s1 := (s.forgetSources n sub).put (tbIx n) sub v
    some ((if used ∧ t.enabled then s1.dropSource n .freerun else s1).followSync n).followStates

/-- PHASE_SRC_WRITE: a write of PHASE_SRC, PHASE_ARG or FALLBACK_SRC (`sub` 0 to 2) of a time base. -/
def execPhaseSrcWrite (tb : Fin 8) (sub : Fin 3) (value : BitVec 8) (s : State) : Answer :=
  .next ((s.writeSource tb (5 + sub.val) value.toNat).getD s)

/-- REALIGN = SLEW in force; none (RANGE) unless in HOLDOVER with STEP_NEEDED (R43). A follower takes HOLDOVER from the time base it follows, and
goes on following it. -/
def State.realign (s : State) (n : Nat) : Option State :=
  let t := s.tb n
  if t.state = .holdover ∧ s.get (tbIx n) 0x11 = 2 then
    some (if t.inUse then s
      else
        let s1 := s.setTb n { t with inUse := true, slew := s.phaseTc n }
        (if s.tbSource n = 3 then s1.tbEnter n (s1.followState n).1 (s1.followState n).2 else s1.tbEnter n .acquiring 0).followStates)
  else none

/-- REALIGN: a time base with STEP_NEEDED slews through its whole offset. -/
def execRealign (tb : Fin 8) (s : State) : Answer := .next ((s.realign tb).getD s)

/-- STEP_APPLY: at a symbol boundary with no uncompleted job on the time base a served STEP is applied: it steps, enters ACQUIRING and
takes its source's phase where it has a qualified source; STEP returns to 0 (R43). -/
def execStepApply (tb : Fin 8) (s : State) : Answer :=
  let n := tb.val
  let t := s.tb n
  .next (if t.enabled = false ∨ t.step = 0 ∨ s.tbJobs n ∨ isBoundary (s.tbMu n) (s.tbEcp n) (t.tc % airPeriod) = false then s
    else
      let s1 := (s.tbStep n t.step).put (tbIx n) 0x0F 0
      let s2 := s1.setTb n { s1.tb n with step := 0 }
      (if ((if t.onFallback then t.fb else t.prim).isSome) then (s2.setTb n { s2.tb n with inUse := false }).tbAcquire n
       else (s2.setTb n { s2.tb n with slew := 0 }).tbEnter n .acquiring 0).followStates)

/-- SYMBOL_BOUNDARY: the symbol-count Tally of an enabled time base advances by one for each of its symbol boundaries up to now (R30). -/
def execSymbolBoundary (tb : Fin 8) (s : State) : Answer :=
  let n := tb.val
  let t := s.tb n
  let k := (symbolOf (s.tbMu n) (s.tbEcp n) t.tc).1
  .next (if t.enabled = false ∨ k < t.nextSym then s
    else
      let y := s.tally (0xFFF8 + n)
      (s.setTb n { t with nextSym := k + 1 }).setTally (0xFFF8 + n) { y with count := y.count + BitVec.ofNat 32 (k + 1 - t.nextSym) })

/-! ### PTP (R37, R38) -/

/-- A 10-byte PTP timestamp in 0.25 ns units. -/
def ptpTime (b : List Byte) : Int := (natOfBe (b.take 6) : Int) * 4000000000 + (natOfBe ((b.drop 6).take 4) : Int) * 4

/-- Whether a time base's instance takes messages from an address: any on G.8275.1, those of UNICAST_MASTERS on G.8275.2. -/
def State.ptpFrom (s : State) (n : Nat) (udp : Bool) (addr : List Byte) : Bool :=
  (s.get (tbIx n + 1) 1 == 1) == udp
    && (!udp || (List.range 4).any fun k => addr != [] && ((s.blobAt (tbIx n + 1) 6).drop (17 * k)).take 17 == addr)

/-- The time base of a PTP message: its domain and transport, and the port among those it listens on or serves. -/
def State.ptpPort (s : State) (p domain : Nat) (udp : Bool) (addr : List Byte) : Option Nat :=
  (List.range 8).find? fun n => (s.tb n).enabled && s.get (tbIx n + 1) 2 == domain && s.ptpFrom n udp addr
    && ((s.get (tbIx n + 1) 3).testBit p || (s.get (tbIx n + 1) 4).testBit p)

/-- A PTP message ignored: BAD_MESSAGES of its time base, and PROT (Table 2.8). -/
def State.ptpBad (s : State) (n p : Nat) : State := (s.bump (tbIx n + 1) 0x0B).portViolation p

/-- The record of a master that an Announce gives. The comparison is that of the alternate best master clock algorithm with localPriority: clock class,
accuracy, variance, priority2, LOCAL_PRIORITY, identity, steps removed, port identity (log entry 163). -/
def State.announced (s : State) (n p : Nat) (addr m : List Byte) : PtpMaster :=
  { source := (m.drop 20).take 10, port := p, addr := addr, clockClass := natOfBe ((m.drop 48).take 1), seen := s.clock,
    interval := signed 8 (natOfBe ((m.drop 33).take 1)),
    rank := (m.drop 48).take 5 ++ bytesOf 1 (s.get (tbIx n + 1) 5) ++ (m.drop 53).take 8 ++ (m.drop 61).take 2 ++ (m.drop 20).take 10 }

/-- An Announce: the master enters the list of those heard, those whose Announce is three intervals old leave it, and PARENT and GM_CLOCK_CLASS follow the
selected one. -/
def State.ptpAnnounce (s : State) (n : Nat) (x : PtpMaster) : State :=
  let t := s.tb n
  let l := (t.masters.filter fun m => m.source != x.source && decide (s.clock < m.seen + 3 * logSeconds m.interval)) ++ [x]
  let t1 := { t with masters := l }
  let same : Bool := (t1.master.map fun m => m.source) == t.master.map fun m => m.source
  let s1 := s.setTb n (if same then t1 else { t1 with lastSync := some s.clock })
  match t1.master with
  | some m => (s1.putBlob (tbIx n + 1) 8 m.source).put (tbIx n + 1) 9 m.clockClass
  | none => s1

/-- PTP_MESSAGE_RX: a PTP message arrives at a port and is timestamped in 0.25 ns units of the TAI of its time base, less
RX_ASYM. Announce gives the masters, the parent and its clock class; Sync, Follow_Up and Delay_Resp of the parent feed the servo and give the path delay;
a Delay_Req on a master port is answered. The message layout is IEEE 1588's (log entry 17). -/
def execPtpMessageRx (port : Fin 16) (frame : List Byte) (s : State) : Answer :=
  let p := port.val
  match ptpOf frame with
  | none => .next s
  | some (udp, addr, m) =>
    let type := natOfBe (m.take 1) % 16
    let dom := natOfBe ((m.drop 4).take 1)
    if s.get (0x2200 + p) 4 ≠ 1 ∨ s.frameForPort p frame = false then .next s
    else match s.ptpPort p dom udp addr with
      | none => .next (((List.range 8).find? fun n => (s.get (tbIx n + 1) 3).testBit p).elim s fun n => s.ptpBad n p)
      | some n =>
        let t := s.tb n
        let i := tbIx n + 1
        let slave := (s.get i 3).testBit p
        let parent : Bool := slave && (t.master.map fun x => x.source) == some ((m.drop 20).take 10)
        let now := s.taiQuarter n - signed 32 (s.get (0x2200 + p) 6)
        let corr : Int := signed 64 (natOfBe ((m.drop 8).take 8)) / 16384
        let stamp := ptpTime ((m.drop 34).take 10)
        if m.length < 34 ∨ natOfBe ((m.drop 1).take 1) % 16 ≠ 2 then .next (s.ptpBad n p)
        else if type = 0x0B ∧ slave ∧ 64 ≤ m.length then .next (s.ptpAnnounce n (s.announced n p addr m))
        else if (type = 0 ∨ type = 8 ∨ type = 9) ∧ slave ∧ 44 ≤ m.length then
          (if parent = false then .next s
           else if type = 0 then
            .next (s.setTb n { t with t2 := now, lastSync := some s.clock,
                                      t1 := if (natOfBe ((m.drop 6).take 1)).testBit 1 then t.t1 else stamp + corr })
           else if type = 8 then .next (s.setTb n { t with t1 := stamp + corr })
           else .next (s.put i 0x0A (wrapTo 64 (((t.t2 - t.t1) + (stamp - corr - t.t3)) / 2))))
        else if type = 0x0C ∧ slave then .next s
        else if type = 1 ∧ (s.get i 4).testBit p then
          .next (s.emit (.data 4 p ([0x09#8, 0x02#8] ++ bytesBe 2 54 ++ bytesOf 1 dom ++ List.replicate 3 0#8 ++ (m.drop 8).take 8
            ++ List.replicate 14 0#8 ++ (m.drop 30).take 2 ++ [3#8, 0#8] ++ bytesBe 6 (now / 4000000000).toNat
            ++ bytesBe 4 (now % 4000000000 / 4).toNat ++ (m.drop 20).take 10)))
        else .next (s.ptpBad n p)

/-- The TLV that asks a unicast master for a message kind: its type, its interval, and a duration of 300 s. -/
def unicastRequest (type : Nat) (log : Int) : List Byte :=
  bytesBe 2 4 ++ bytesBe 2 6 ++ bytesOf 1 (16 * type) ++ bytesOf 1 (wrapTo 8 log) ++ bytesBe 4 300

/-- PTP_MESSAGE_TX: at its interval an instance sends Sync (0) or Announce (1) on a master port, Delay_Req (2) on a slave port, with
the TAI of its departure, or to each of its unicast masters a request for Announce, Sync and Delay_Resp (3). A message over UDP follows its
destination address in the record of what has left the chip. -/
def execPtpMessageTx (tb : Fin 8) (port : Fin 16) (kind : Fin 4) (s : State) : Answer :=
  let n := tb.val
  let p := port.val
  let i := tbIx n + 1
  let t := s.tb n
  let udp : Bool := s.get i 1 == 1
  let slave : Bool := (s.get i 3).testBit p && (s.get (tbIx n) 5 == 1 || s.get (tbIx n) 7 == 1)
  let may := if kind.val = 2 then slave && (!udp || t.master.isSome) else if kind.val = 3 then slave && udp else (s.get i 4).testBit p && !udp
  if t.enabled = false ∨ may = false ∨ s.get (0x2200 + p) 4 ≠ 1 ∨ s.cut then .next s
  else
    let now := s.taiQuarter n + signed 32 (s.get (0x2200 + p) 5)
    let type := if kind.val = 0 then 0 else if kind.val = 1 then 0x0B else if kind.val = 2 then 1 else 0x0C
    let len := if kind.val = 1 then 64 else if kind.val = 3 then 74 else 44
    let head := bytesOf 1 type ++ [0x02#8] ++ bytesBe 2 len ++ bytesOf 1 (s.get i 2) ++ List.replicate 25 0#8 ++ bytesBe 2 t.ptpSeq ++ [0#8, 0#8]
    let origin := bytesBe 6 (now / 4000000000).toNat ++ bytesBe 4 (now % 4000000000 / 4).toNat
    let sync := signed 32 (s.get i 7)
    let msg := head ++ (if kind.val = 3 then List.replicate 10 0xFF#8 ++ unicastRequest 0x0B 0 ++ unicastRequest 0 sync ++ unicastRequest 9 sync
      else origin ++ (if kind.val = 1 then List.replicate 4 0#8 ++ bytesOf 1 (s.get i 9) ++ List.replicate 15 0#8 else []))
    let dests : List (List Byte) := if kind.val = 3 then (List.range ((s.blobAt i 6).length / 17)).map fun k => ((s.blobAt i 6).drop (17 * k)).take 17
      else if udp then [((t.master.map fun m => m.addr).getD [])] else [[]]
    let s1 := s.setTb n { t with ptpSeq := (t.ptpSeq + 1) % 65536, t3 := if kind.val = 2 then now else t.t3 }
    .next (dests.foldl (fun (s : State) a => s.emit (.data 4 p (a ++ msg))) s1)

/-! ### PPS, time of day, REF_IN, Synchronous Ethernet (R39, R40) -/

/-- The enabled time bases that use PPS_TOD, which time its edges. -/
def State.ppsTbs (s : State) : List Nat := (List.range 8).filter fun n => (s.tb n).enabled && (s.get (tbIx n) 5 == 2 || s.get (tbIx n) 7 == 2)

/-- PPS_IN_EDGE: a rising edge is timestamped in 0.25 ns units, less PPS_IN_DELAY, on every time base that uses it. -/
def execPpsInEdge (s : State) : Answer :=
  .next (if s.get 0x2120 1 = 1 then
      s.ppsTbs.foldl (fun (s : State) n => s.setTb n { s.tb n with stamp := s.taiQuarter n - signed 32 (s.get 0x2120 2) })
        { s with pps := { s.pps with edge := some s.clock, label := none } }
    else s)

/-- n as w decimal digits in ASCII. -/
def decDigits : Nat → Nat → List Byte
  | 0, _ => []
  | w + 1, n => decDigits w (n / 10) ++ [BitVec.ofNat 8 (48 + n % 10)]

/-- Year, month and day of a count of days since 1970-01-01. -/
def civilDate (days : Nat) : Nat × Nat × Nat :=
  let z := days + 719468
  let era := z / 146097
  let doe := z % 146097
  let yoe := (doe - doe / 1460 + doe / 36524 - doe / 146096) / 365
  let doy := doe - (365 * yoe + yoe / 4 - yoe / 100)
  let mp := (5 * doy + 2) / 153
  let m := if mp < 10 then mp + 3 else mp - 9
  (yoe + era * 400 + (if m ≤ 2 then 1 else 0), m, doy - (153 * mp + 2) / 5 + 1)

/-- A digit of a checksum in ASCII. -/
def hexDigit (x : Nat) : Byte := BitVec.ofNat 8 (if x < 10 then 48 + x else 55 + x)

/-- The NMEA 0183 ZDA sentence of a count of UTC seconds since 1970-01-01 (R40). -/
def zdaSentence (utc : Nat) : List Byte :=
  let d := civilDate (utc / 86400)
  let h := utc % 86400
  let c : List Byte := [44#8]
  let body := [0x47#8, 0x50#8, 0x5A#8, 0x44#8, 0x41#8] ++ c ++ decDigits 2 (h / 3600) ++ decDigits 2 (h / 60 % 60) ++ decDigits 2 (h % 60) ++ [46#8, 48#8, 48#8]
    ++ c ++ decDigits 2 d.2.2 ++ c ++ decDigits 2 d.2.1 ++ c ++ decDigits 4 d.1 ++ c ++ decDigits 2 0 ++ c ++ decDigits 2 0
  let x := (body.foldl (fun a b => a ^^^ b) 0#8).toNat
  [0x24#8] ++ body ++ [0x2A#8, hexDigit (x / 16), hexDigit (x % 16), 13#8, 10#8]

/-- TOD_MESSAGE: a ZDA or RMC sentence with UTC seconds labels the preceding edge when it comes 10 ms to 900 ms after it; otherwise it
is ignored and counted as bad for every time base that uses PPS_TOD. In output mode the port sends ZDA with the UTC second of PPS_OUT_TB. -/
def execTodMessage (utc : BitVec 48) (valid : Bool) (s : State) : Answer :=
  let timely : Bool := match s.pps.edge with
    | some e => spansUs 10000 e s.clock && !(spansUs 900000 e s.clock && !(s.clock - e) * 100 == 900000 * 196608)
    | none => false
  if s.get 0x2122 1 = 1 then
    .next (s.emit (.data 15 0 (zdaSentence (s.taiNs (s.get 0x2121 1 % 8) / 1000000000 - signed 32 (s.get 0x2122 3)).toNat)))
  else if valid ∧ timely then
    .next { s with pps := { s.pps with label := some ((utc.toNat : Int) + signed 32 (s.get 0x2122 3)).toNat } }
  else
    .next (((List.range 8).filter fun n => s.get (tbIx n) 5 == 2 || s.get (tbIx n) 7 == 2).foldl
      (fun s n => (s.bump (tbIx n + 1) 0x0B).attend 4 0xFF) s)

/-- Time bases that take only their frequency, from REF_IN. -/
def State.refUsers (s : State) : List Nat := (List.range 8).filter fun n => s.get (tbIx n) 8 == 1 && s.get (tbIx n) 5 == 0

/-- Whether REF_IN is within 50 ppm of REF_IN_FREQ, given its deviation in ppb. -/
def refInTolerance (ppb : BitVec 32) : Bool := decide (ppb.toInt.natAbs ≤ 50000)

/-- REF_IN_LOSS: REF_IN is declared lost when no edge has arrived for 10 µs (`quiet` Tc), or its frequency deviates by more than 50 ppm (`ppb`);
a time base that has no other source loses it. -/
def execRefInLoss (quiet ppb : BitVec 32) (s : State) : Answer :=
  .next (if s.get 0x2124 2 = 1 ∧ (spansUs 10 0 quiet.toNat ∨ refInTolerance ppb = false) then
      (s.refUsers.foldl (fun s n => s.tbLose n false) (s.put 0x2124 2 2)).followStates
    else s)

/-- REF_IN_RETURN: REF_IN edges return within tolerance; it qualifies for the time bases that take only frequency. -/
def execRefInReturn (ppb : BitVec 32) (s : State) : Answer :=
  .next (if s.get 0x2124 2 = 1 ∨ refInTolerance ppb = false then s
    else (s.refUsers.foldl (fun s n => s.tbQualify n false 0) (s.put 0x2124 2 1)).followStates)

/-- SYNCE_CLK_OUT carries the recovered clock of lane SYNCE_LANE at SYNCE_FREQ while that lane has signal lock, and is low while it has none. Pin 33 of
the model's record. -/
def State.driveSynce (s : State) : State :=
  let lane := s.get 0x2123 1
  let x := if s.pps.locked.testBit lane then 1 + s.get 0x2123 2 else 0
  if s.pps.synce = x ∧ (x = 0 ∨ s.pps.synceLane = lane) then s
  else ({ s with pps := { s.pps with synce := x, synceLane := lane } }).emit (.data 6 33 (bytesOf 1 x))

/-- SYNCE_SQUELCH: a fronthaul lane gains or loses signal lock. -/
def execSynceSquelch (lane : Fin 16) (lock : Bool) (s : State) : Answer :=
  let m := s.pps.locked
  .next { s with pps := { s.pps with locked := if m.testBit lane.val == lock then m else m ^^^ 2 ^ lane.val } }.driveSynce

/-- ESMC_RX: an ESMC data unit received on a fronthaul port is passed to the host. -/
def execEsmcRx (port : Fin 16) (pdu : List Byte) (s : State) : Answer :=
  .next (if s.get (0x2200 + port.val) 4 = 1 then s.emit (.data 12 port pdu) else s)

/-! ### Timed pins (R45 to R49) -/

def pinIx (p : Nat) : Nat := 0x2100 + p
def State.pin (s : State) (p : Nat) : Pin := Tbl.get {} s.pins p
def State.setPin (s : State) (p : Nat) (x : Pin) : State := { s with pins := Tbl.set {} s.pins p x }

/-- Unit number of a Tc count, and the Tc count of a unit's boundary: Tc, symbol, slot, subframe, frame. -/
def unitOf (mu : Nat) (ecp : Bool) (u t : Nat) : Nat :=
  if u = 0 then t else if u = 1 then (symbolOf mu ecp t).1 else if u = 2 then (symbolOf mu ecp t).1 / symsPerSlot ecp
  else if u = 3 then t / 1966080 else t / 19660800
def unitTc (mu : Nat) (ecp : Bool) (u k : Nat) : Nat :=
  if u = 0 then k else if u = 1 then symbolTc mu ecp k else if u = 2 then symbolTc mu ecp (k * symsPerSlot ecp)
  else if u = 3 then k * 1966080 else k * 19660800

/-- Whether bursts, given as edges, hold a gate active at an instant: inside one, or in a gap shorter than 8 Tc (R46). -/
def gateActive (l : List (Int × Int)) (t : Int) : Bool :=
  l.any fun b => (decide (b.1 ≤ t) && decide (t < b.2))
    || (decide (b.2 ≤ t) && l.any fun c => decide (t < c.1) && decide (c.1 - b.2 < 8))

/-- The edges that LEAD and LAG give the bursts of a GATE pin's carrier, on that carrier's time base (R45, R46). -/
def State.gateBursts (s : State) (i : Nat) : List (Int × Int) :=
  (s.bursts.filter fun b => b.carrier == s.get i 0x0B && b.dl == (s.get i 0x0C == 0)).map fun b => (b.start - s.get i 9, b.stop + s.get i 0x0A)

/-- The edges of the symbols from number lo to before hi that GATE_MAP selects, on the pin's time base. -/
def State.staticGates (s : State) (i mu : Nat) (ecp : Bool) (lo hi : Nat) : List (Int × Int) :=
  (((List.range (hi - lo)).map fun j => lo + j).filter fun k => (s.get i 0x0D).testBit (k % symsPerSlot ecp)).map fun k =>
    ((symbolTc mu ecp k : Int) - s.get i 9, (symbolTc mu ecp (k + 1) : Int) + s.get i 0x0A)

/-- The first instant from t on, and before `upTo`, at which the gate of some bursts deasserts. -/
def gateEnds (l : List (Int × Int)) (t upTo : Int) : Option Int :=
  firstBy (fun (a b : Int) => decide (a < b)) ((l.map fun b => b.2).filter fun e => decide (t ≤ e ∧ e < upTo) && !gateActive l e)

/-- The level of a pin's program now: what its mode, time base and times say (Table 2.5). -/
def State.pinLevel (s : State) (p : Nat) : Bool :=
  let i := pinIx p
  let x := s.pin p
  let n := s.get i 2 % 8
  let mu := s.tbMu n
  let e := s.tbEcp n
  let t := (s.tb n).tc
  let w := s.get i 5
  let period := max 1 (s.get i 6)
  let u := s.get i 7
  let mode := s.get i 1
  if mode = 1 then decide (x.served ≤ t)
  else if mode = 2 then decide (x.start ≤ t ∧ t < x.start + w)
  else if mode = 3 then
    let k0 := unitOf mu e u x.start
    let o := x.start - unitTc mu e u k0
    let k := unitOf mu e u (t - o)
    let r := (k - k0) / period
    let at_ := unitTc mu e u (k0 + r * period) + o
    decide (x.start ≤ t) && decide (at_ ≤ t) && decide (t < at_ + w) && (s.get i 8 == 0 || decide (r ≤ s.get i 8))
  else if mode = 4 then
    let k := unitOf mu e u (t + s.get i 9)
    let b := unitTc mu e u (k / period * period)
    decide (x.served < b) && decide (b ≤ t + s.get i 9) && decide (t + s.get i 9 < b + w)
  else if mode = 5 then
    if s.get i 0x0C = 2 then
      let lo := (symbolOf mu e (t - s.get i 0x0A - 8)).1
      let hi := (symbolOf mu e (t + s.get i 9 + 8)).1
      gateActive (s.staticGates i mu e lo (hi + 1)) t
    else gateActive (s.gateBursts i) (s.tb (s.carTb (s.get i 0x0B))).tc
  else false

/-- The level at the ball: high impedance until MODE first leaves OFF; the inactive level while forced; high impedance while MODE is OFF or CAPTURE;
the inactive level, for GATE and LEVEL, while a cut is taken or held (R48, R403); else the program's. -/
def State.pinBall (s : State) (p : Nat) : Ball :=
  let i := pinIx p
  let x := s.pin p
  let m := s.get i 1
  let on : Bool := x.active && !x.forced && !(s.cut && (m == 1 || m == 5))
  if x.used = false ∧ (m = 0 ∨ m = 6) then .highZ
  else if x.forced = false ∧ (m = 6 ∨ (m = 0 ∧ x.active = false)) then .highZ
  else if on == (s.get i 3 == 0) then .high else .low

/-- The ball takes its level; a change leaves the chip as a pin event. -/
def State.drivePin (s : State) (p : Nat) : State :=
  let x := s.pin p
  let b := s.pinBall p
  if b = x.ball then s
  else (s.setPin p { x with ball := b }).emit (.data 6 p (bytesOf 1 (match b with
    | .highZ => 0
    | .low => 1
    | .high => 2)))

/-- The scheduled deassertion of a replaced program, where it is due. -/
def State.pinOld (s : State) (p : Nat) : State :=
  let x := s.pin p
  match x.until_ with
  | some u => if u.2 ≤ ((s.tb u.1).tc : Int) then (s.setPin p { x with active := false, until_ := none }).bump (pinIx p) 0x0F else s
  | none => s

/-- TIMED_PIN_EDGE: the program of a pin reaches an edge: EDGE_COUNT, and the ball follows unless it is forced. An edge before the
deassertion of a replaced program is dropped and counted (R47); bursts whose gates have passed are forgotten. -/
def execTimedPinEdge (pin : Fin 32) (s : State) : Answer :=
  let p := pin.val
  let s0 := s.pinOld p
  let x := s0.pin p
  let lv := s0.pinLevel p
  let s1 := if lv = x.want ∨ s0.get (pinIx p) 1 = 6 then s0
    else if x.until_.isSome then (s0.setPin p { x with want := lv }).bump (pinIx p) 0x10
    else if lv = x.active then s0.setPin p { x with want := lv }
    else (s0.setPin p { x with want := lv, active := lv }).bump (pinIx p) 0x0F
  .next ({ s1 with bursts := s1.bursts.filter fun b => decide (((s1.tb b.tb).tc : Int) ≤ b.stop + 1966080) }.drivePin p)

/-- The edge at which the assertion that a pin's program has in progress is due to end: its time base and count. An assertion without one, of a LEVEL
or of a gate that never opens, ends at once. -/
def State.pinFalls (s : State) (p : Nat) : Option (Nat × Int) :=
  let i := pinIx p
  let x := s.pin p
  let m := s.get i 1
  let n := s.get i 2 % 8
  let t := (s.tb n).tc
  let w := s.get i 5
  if x.active = false then none
  else match x.until_ with
    | some u => some u
    | none =>
      if m = 2 then some (n, (x.start + w : Nat))
      else if m = 3 ∨ m = 4 then
        let k := (List.range (w + 1)).find? fun d =>
          ({ s with tbs := Tbl.upd {} s.tbs n fun b => { b with tc := b.tc + d } }).pinLevel p == false
        some (n, (t + k.getD w : Nat))
      else if m = 5 ∧ s.get i 0x0C = 2 then
        let mu := s.tbMu n
        let e := s.tbEcp n
        let span := 2 * 1966080 + s.get i 9 + s.get i 0x0A
        let lo := (symbolOf mu e (t - s.get i 0x0A - 8)).1
        let hi := (symbolOf mu e (t + span)).1
        some (n, (gateEnds (s.staticGates i mu e lo hi) t (t + 1966080)).getD t)
      else if m = 5 then
        let c := s.carTb (s.get i 0x0B)
        let now : Int := (s.tb c).tc
        some (c, (gateEnds (s.gateBursts i) now (now + airPeriod)).getD now)
      else some (n, t)

/-- A Serve time puts a new program on a pin (R47): what is asserted completes, and the new program's edges apply from now on. `old`
is the state before the Serve time's writes. -/
def State.pinServed (s old : State) (p : Nat) : State :=
  let i := pinIx p
  let n := s.get i 2 % 8
  let t := (s.tb n).tc
  let x := s.pin p
  let st := ((t : Int) + airDiff t (s.tcOf n (s.get i 4))).toNat
  let x1 := { x with served := t, start := st, used := x.used || s.get i 1 != 0, want := false, until_ := old.pinFalls p }
  ((s.setPin p x1).pinOld p).drivePin p

/-- CAPTURE_EDGE: a rising edge on a pin in CAPTURE mode is counted and its air position stored; edges closer than 8 Tc count as one
(R49). -/
def execCaptureEdge (pin : Fin 32) (s : State) : Answer :=
  let p := pin.val
  let x := s.pin p
  let close : Bool := match x.lastCapture with
    | some t => decide (s.clock < t + 8)
    | none => false
  .next (if s.get (pinIx p) 1 ≠ 6 then s
    else
      let s1 := s.setPin p { x with lastCapture := some s.clock }
      if close then s1
      else (s1.bump (pinIx p) 0x11).put (pinIx p) 0x12 (s.airNow (s.get (pinIx p) 2 % 8)))

/-- FORCE: FORCE_INACTIVE and RELEASE of a timed pin (R48). -/
def State.forcePin (s : State) (p : Nat) (on : Bool) : State := (s.setPin p { s.pin p with forced := on }).drivePin p

/-- FORCE_INACTIVE: the pin is driven to its inactive level and held. -/
def execForceInactive (pin : Fin 32) (s : State) : Answer := .next (s.forcePin pin true)

/-- RELEASE: a forced pin returns to its program. -/
def execRelease (pin : Fin 32) (s : State) : Answer := .next (s.forcePin pin false)

/-- PPS_OUT_EDGE: PPS_OUT rises at a TAI second of PPS_OUT_TB and falls PPS_OUT_WIDTH Tc later. Pin 32 of the model's record. -/
def execPpsOutEdge (s : State) : Answer :=
  let n := s.get 0x2121 1 % 8
  let t : Int := ((s.tb n).tc : Int) - asI64 (s.get (tbIx n) 4)
  let sec := t / 1966080000
  let in_ := t % 1966080000
  let w : Int := s.get 0x2121 2
  .next (if s.pps.out then
      (if s.pps.second ≠ some sec ∨ w ≤ in_ then ({ s with pps := { s.pps with out := false } }).emit (.data 6 32 [1#8]) else s)
    else if (s.tb n).enabled ∧ s.pps.second ≠ some sec ∧ in_ < w then
      ({ s with pps := { s.pps with out := true, second := some sec } }).emit (.data 6 32 [2#8])
    else s)

/-! ### The passing of time -/

/-- One Tc of a time base: it advances by `adv`, and by one more or one fewer while it slews at SLEW_RATE (R42). -/
def TimeBase.tick (t : TimeBase) (slewRate : Nat) (adv : Int) : TimeBase :=
  let t1 : TimeBase := { t with tc := ((t.tc : Int) + adv).toNat }
  if t.slew = 0 then t1
  else
    let a := t.slewAcc + slewRate
    if a < 1000000000 then { t1 with slewAcc := a }
    else if 0 < t.slew then { t1 with tc := t1.tc + 1, slew := t.slew - 1, slewAcc := a - 1000000000 }
    else { t1 with tc := t1.tc - 1, slew := t.slew + 1, slewAcc := a - 1000000000 }

/-- One Tc of a time base that keeps its own rate: one, corrected by RATE_ADJ, 2^-48 units (R44). -/
def State.tickOwn (s : State) (n : Nat) : State :=
  let t := s.tb n
  if t.enabled = false ∨ s.tbFollows n then s
  else
    let f : Int := t.rateAcc + asI64 (s.get (tbIx n) 0x15)
    s.setTb n (({ t with rateAcc := (f % 281474976710656).toNat }).tick (s.get (tbIx n) 0x0C) (1 + f / 281474976710656))

/-- One Tc of a time base that follows another, `old` being the state before: it advances as that one does (R36). -/
def State.tickFollower (old : State) (s : State) (n : Nat) : State :=
  if old.tbFollows n then
    let f := s.get (tbIx n) 6 % 8
    s.setTb n ((s.tb n).tick (s.get (tbIx n) 0x0C) (((s.tb f).tc : Int) - (old.tb f).tc))
  else s

/-- One Tc passes (log entry 1): every enabled time base counts, one that follows another as that one does, a time base that has become unreferenced while
STEP_NEEDED steps, and the model's own clock and core-cycle count advance; the watchdog counts the air time of the
audit time base while no cut is taken or held (R192, R402). -/
def State.tick (s : State) : State :=
  let s1 := (List.range 8).foldl (fun s n => State.tickOwn s n) s
  let s2 := (List.range 8).foldl (State.tickFollower s) s1
  let s3 := ((List.range 8).foldl (fun s n => State.tbSettle s n) s2).followStates
  let a := s.get 0x3191 1 % 8
  let air := if s.cut then 0 else (airDiff (s.tb a).tc (s2.tb a).tc).toNat
  { s3 with clock := s.clock + 1, auditAir := s.auditAir + air, cycles := s.cycles + 100 * s.get 0x5100 2 }

end Sys2Proof.Machine
end

