-- ==== Sys2Proof/Machine/Objects.lean ====
section
/-! DEFINITION. Which objects exist, who reaches them, what values they take, and values as changed by Rallies (R323, R344 to R348, R352,
R488, Tables 15.1 to 15.3). -/

namespace Sys2Proof.Machine

open Sys2Proof

/-! ### Existence (R345, R352) -/

/-- The rows of an index. -/
def indexRows (index : Nat) : List ObjRow :=
  (objRows index).filter fun r => decide (r.index ≤ index) && decide ((index - r.index) % r.stride = 0)
    && decide ((index - r.index) / r.stride < r.count)

/-- The highest subindex of an index: the value of its subindex 0x00. -/
def highestSub (index : Nat) : Nat := ((indexRows index).map fun r => r.sub + (r.subs - 1) * r.subStride).foldl max 0

/-- The row of an object; subindex 0x00 of an existing index is a U8 that is read only (R345). -/
def objAt (index sub : Nat) : Option ObjRow :=
  if sub = 0 then (if indexRows index = [] then none else some ⟨index, 1, 1, 0, 1, 1, .u8, .ro, .none, 0, 0, 0⟩)
  else objRow index sub

/-- Whether an index exists; in ROM recovery only 0x10xx and 0x70xx do (R352). -/
def State.indexExists (s : State) (index : Nat) : Bool :=
  indexRows index != [] && (s.get 0x1001 6 == 0 || index / 256 == 0x10 || index / 256 == 0x70)

/-! ### Types and lengths (Tables 14.3, 15.14) -/

/-- Bytes of a value of a type; none for STR and BLOB. -/
def OType.size : OType → Option Nat
  | .u8 => some 1
  | .bool => some 1
  | .enum8 => some 1
  | .u16 => some 2
  | .u32 => some 4
  | .i32 => some 4
  | .u64 => some 8
  | .i64 => some 8
  | .airpos => some 8
  | .time80 => some 10
  | .str => none
  | .blob => none

/-- TYPE code of a directory record (Table 15.2). -/
def OType.code : OType → Nat
  | .bool => 1
  | .u8 => 2
  | .u16 => 3
  | .u32 => 4
  | .u64 => 5
  | .i32 => 6
  | .i64 => 7
  | .enum8 => 8
  | .airpos => 9
  | .time80 => 10
  | .str => 11
  | .blob => 12

/-- ACCESS and EFFECT codes of a directory record. -/
def OAccess.code : OAccess → Nat
  | .ro => 0
  | .rw => 1
  | .rwc => 2
  | .wo => 3
def OEffect.code : OEffect → Nat
  | .none => 0
  | .immediate => 1
  | .serve => 2
  | .boot => 3

/-- Maximum length of a STR or BLOB object (R488). -/
def ObjRow.maxBytes (r : ObjRow) : Nat :=
  if r.maxLen ≠ 0 then r.maxLen
  else if r.index = 0x1000 then (if r.sub = 5 then 16 else 32)
  else if r.index = 0x1002 then 524288
  else if r.index = 0x1003 then 4096
  else if r.index = 0x7000 then 16777216
  else 0

/-! ### Scopes and owners (R346, Tables 15.1 and 15.3) -/

/-- The scopes of Table 15.1. -/
inductive Scope where
  | device | function | court | courtDevice | carrier | core | record
  deriving DecidableEq, Repr

def Scope.code : Scope → Nat
  | .device => 0
  | .function => 1
  | .court => 2
  | .courtDevice => 3
  | .carrier => 4
  | .core => 5
  | .record => 6

/-- The scope of an object (Table 15.3). -/
def scopeOf (index sub : Nat) : Scope :=
  match index / 256 with
  | 0x11 => if index = 0x1120 then .device else .function
  | 0x12 => .court
  | 0x23 => .carrier
  | 0x24 => if index = 0x2400 then .device else .function
  | 0x25 => if 0x2520 ≤ index then .courtDevice else .device
  | 0x30 => if index < 0x3010 ∧ (sub = 1 ∨ sub = 2 ∨ sub = 6 ∨ sub = 7) then .courtDevice else .court
  | 0x31 => if index = 0x3180 then .record else .device
  | 0x32 => if 0x3220 ≤ index then .court else .device
  | 0x33 => if index = 0x3300 then .record else .device
  | 0x40 => if 0x4060 ≤ index then .court else .carrier
  | 0x41 => .carrier
  | 0x42 => if index < 0x4240 then .device else if index < 0x4280 then .carrier
      else if index < 0x4290 then (if sub = 1 then .courtDevice else .court) else .device
  | 0x43 => if index < 0x4340 then .carrier else .device
  | 0x80 => .core
  | _ => .device

/-- System objects (R350): the RWC objects of the system ranges. -/
def systemObject (index sub : Nat) (a : OAccess) : Bool :=
  a == .rwc && ((decide (0x2000 ≤ index) && decide (index < 0x2080)) || (decide (0x2300 ≤ index) && decide (index < 0x2320))
    || (index == 0x2600 && (sub == 5 || sub == 6)) || (decide (0x3000 ≤ index) && decide (index < 0x3400))
    || (decide (0x4000 ≤ index) && decide (index < 0x4400)))

/-- Values of the dictionary: those in force, or as changed by Rallies. -/
structure View where
  num : Nat → Nat → Nat
  blob : Nat → Nat → List Byte

/-- The last of some staged writes to an object. -/
def stagedAt (l : List Staged) (k : Nat) : Option Staged := l.reverse.find? fun w => w.key == k

/-- The values in force as changed by staged writes, the later ones last. -/
def State.view (s : State) (l : List Staged) : View where
  num := fun i b => match stagedAt l (okey i b) with
    | some w => w.value
    | none => s.get i b
  blob := fun i b => match stagedAt l (okey i b) with
    | some w => w.bytes
    | none => s.blobAt i b

/-- The Court a POOL or TPOOL record names; none if empty. -/
def recordCourt (index : Nat) (r : List Byte) : Option Nat :=
  if r = [] then none else some (fieldOf r (if index = 0x3180 then 14 else 4) 1)

/-- The Court that holds a carrier (sub 2) or a core (sub 1) in some values. -/
def View.holder (v : View) (sub bit : Nat) : Option Nat := (List.range 16).find? fun k => (v.num (0x3000 + k) sub).testBit bit

/-- The Court that owns an object in some values; none for objects of no Court. -/
def View.owner (v : View) (index sub : Nat) : Option Nat :=
  match scopeOf index sub with
  | .carrier => v.holder 2 (index % 32)
  | .core => v.holder 1 (index - 0x8000)
  | .record => if sub = 0 then none else recordCourt index (v.blob index sub)
  | .court => if index / 256 = 0x12 then none else some (index % 16)
  | .courtDevice => some (index % 16)
  | .device => none
  | .function => none

/-! ### Values that objects take (R6, R488, and the description of each object) -/

def inRange (v lo hi : Nat) : Bool := decide (lo ≤ v) && decide (v ≤ hi)

/-- Selectors of a core counter and of a global counter (Table 20.1). -/
def coreSelectors : List Nat := [0, 1, 2, 3, 4, 5, 0x10, 0x11, 0x12, 0x13, 0x20, 0x21, 0x30, 0x31, 0x40, 0x41, 0x42, 0x50]
def globalSelector (v : Nat) : Bool := v == 0 || inRange v 0x1000 0x1007 || inRange v 0x1010 0x1017 || inRange v 0x1020 0x1027 || inRange v 0x1030 0x1033

def inRangeI (v lo hi : Int) : Bool := decide (lo ≤ v) && decide (v ≤ hi)

/-- Whether a scalar object takes a value; `v` is unsigned. -/
def scalarOk (r : ObjRow) (v : Nat) : Bool :=
  let one := v == 1
  (r.ty != .bool || decide (v ≤ 1)) && (r.ty != .airpos || airPlausible v) &&
  match r.index with
  | 0x1003 => one
  | 0x1100 => r.sub != 5 || decide (v < 2 ^ 15)
  | 0x1120 => r.sub != 3 || inRange v 5 3600
  | 0x1200 => r.sub != 1 || inRange v 100 600000
  | 0x2000 =>
    match r.sub with
    | 2 => [0, 1, 2, 3, 5, 6].contains v
    | 3 => decide (v ≤ 1)
    | 5 => decide (v ≤ 4)
    | 6 => decide (v ≤ 7)
    | 7 => decide (v ≤ 4)
    | 8 => decide (v ≤ 2)
    | 9 => inRange v 1 1000
    | 0x0C => inRange v 1 1000
    | 0x0D => decide (v ≤ 1000000)
    | 0x0E => one
    | _ => true
  | 0x2001 =>
    match r.sub with
    | 1 => decide (v ≤ 1)
    | 2 => inRange v 24 63
    | 3 => decide (((List.range 16).filter fun p => v.testBit p).length ≤ 4)
    | 7 => inRangeI (signed 32 v) (-7) 0
    | _ => true
  | 0x2100 =>
    match r.sub with
    | 1 => decide (v ≤ 6)
    | 2 => decide (v ≤ 7)
    | 3 => decide (v ≤ 1)
    | 7 => decide (v ≤ 4)
    | 9 => decide (v ≤ 983040)
    | 0x0A => decide (v ≤ 983040)
    | 0x0B => decide (v ≤ 31)
    | 0x0C => decide (v ≤ 2)
    | 0x0D => decide (v < 2 ^ 14)
    | 0x0E => inRange v 1 2
    | _ => true
  | 0x2121 => r.sub != 1 || decide (v ≤ 7)
  | 0x2122 => if r.sub = 1 then decide (v ≤ 1) else r.sub != 2 || v == 9600 || v == 115200
  | 0x2123 => if r.sub = 1 then decide (v ≤ 15) else decide (v ≤ 1)
  | 0x2124 => decide (v ≤ 1)
  | 0x2200 => if r.sub = 2 then decide (v < 2 ^ 48) else r.sub != 3 || !v.testBit 12
  | 0x2210 => if r.sub = 1 then decide (v ≤ 2) else decide (v ≤ 1)
  | 0x2300 =>
    match r.sub with
    | 1 => decide (v ≤ 3)
    | 2 => decide (v ≤ 7)
    | 3 => inRange v 1 275
    | 4 => inRange v 1 6144
    | 7 => [0, 8, 9, 12, 14, 16].contains v
    | 8 => [0, 8, 9, 12, 14, 16].contains v
    | _ => true
  | 0x2400 => r.sub != 3 || inRange v 1 5
  | 0x2500 => r.sub != 1 || inRange v 50 200
  | 0x2600 =>
    match r.sub with
    | 1 => decide (v ≤ 23) || v == 255
    | 3 => decide (v ≤ 3)
    | 4 => inRange v 1 24
    | 5 => decide (v < 2 ^ 24)
    | 6 => decide (v ≤ 7)
    | 0x0A => inRange v 30 1000
    | _ => true
  | 0x2610 =>
    match r.sub with
    | 2 => decide (v ≤ 23) || v == 255
    | 3 => decide (v ≤ 7) || v == 255
    | 0x0A => one
    | _ => true
  | 0x3000 =>
    match r.sub with
    | 3 => inRange v 1 100
    | 4 => decide (v ≤ 50)
    | 5 => inRange v 1 200
    | _ => true
  | 0x3190 => r.sub != 1 || inRange v 20 1000
  | 0x3191 => r.sub != 1 || decide (v ≤ 7)
  | 0x31A0 =>
    match r.sub with
    | 1 => decide (v ≤ 60000)
    | 2 => inRange v 1 1000
    | 3 => inRange v 1 3650
    | 4 => inRangeI (signed 32 v) 95000 115000
    | 5 => inRange v 10 100000
    | 6 => decide (v ≤ 8)
    | 7 => decide (v ≤ 63)
    | 8 => one
    | _ => true
  | 0x3200 => if r.sub = 3 then inRange v 25 90 else r.sub != 4 || decide (v ≤ 7)
  | 0x4000 =>
    match r.sub with
    | 4 => inRange v 1 273
    | 5 => [1, 2, 4].contains v
    | 6 => decide (v ≤ 3)
    | 8 => inRange v 300 1100 && v % 25 == 0
    | _ => true
  | 0x4060 =>
    match r.sub with
    | 3 => inRange v 100 100000
    | 4 => inRange v 1 255
    | 5 => inRange v 1 16
    | 8 => inRange v 1 128
    | 9 => one
    | _ => true
  | 0x4100 =>
    match r.sub with
    | 1 => inRange v 1 5
    | 2 => inRange v 1 273
    | 4 => decide (v ≤ 63)
    | _ => true
  | 0x4200 =>
    match r.sub with
    | 2 => inRange v 1 32
    | 3 => inRange v 1 32
    | 5 => inRange v 300 1000
    | _ => true
  | 0x4240 => decide (r.sub < 3) || decide (v ≤ 254)
  | 0x4280 => r.sub != 2 || inRange v 1 10000
  | 0x4300 =>
    match r.sub with
    | 3 => decide (v ≤ 15)
    | 4 => decide (v ≤ 15)
    | 5 => decide (v ≤ 3)
    | 6 => decide (v ≤ 256)
    | _ => true
  | 0x5000 =>
    match r.sub with
    | 1 => inRange v 100 300
    | 2 => decide (v ≤ 2)
    | 3 => inRange v 300 900 && v % 25 == 0
    | 4 => inRange v 900 1100 && v % 25 == 0
    | 5 => v == 0 || (inRange v 300 1100 && v % 25 == 0)
    | _ => true
  | 0x5010 => if r.sub = 3 then inRangeI (signed 32 v) 60000 105000 else r.sub != 4 || inRangeI (signed 32 v) 60000 105000
  | 0x5300 =>
    match r.sub with
    | 1 => decide (v ≤ 7)
    | 3 => one
    | 4 => one
    | 6 => decide (v ≤ 2)
    | 7 => inRange v 16 512
    | 8 => decide (v ≤ 2)
    | 9 => decide (v ≤ 15)
    | _ => true
  | 0x6000 =>
    match r.sub with
    | 1 => inRange v 1 5
    | 2 => decide (v ≤ 2)
    | 3 => v % 4096 == 0
    | 4 => v % 4096 == 0
    | 7 => v == 0 || inRange v 100 10000000
    | _ => true
  | 0x6011 => globalSelector v
  | 0x7000 => r.sub != 3 || decide (v ≤ 1)
  | 0x8000 => r.sub != 0x20 || coreSelectors.contains v
  | _ => true

/-- All bytes of a part of a value are zero. -/
def zeros (b : List Byte) (off n : Nat) : Bool := ((b.drop off).take n).all fun x => x == 0#8

/-- Entries of UNICAST_MASTERS: a family of 4 or 6, and zeros after an IPv4 address. -/
def unicastOk : Nat → List Byte → Bool
  | 0, _ => true
  | n + 1, b => b == [] || ((fieldOf b 0 1 == 6 || (fieldOf b 0 1 == 4 && zeros b 5 12)) && unicastOk n (b.drop 17))

/-- Whether a STR or BLOB object takes a value (R488, R6). -/
def blobOk (r : ObjRow) (b : List Byte) : Bool :=
  let n := b.length
  if r.index = 0x2001 then n % 17 == 0 && unicastOk 4 b
  else if r.index = 0x3180 then
    n == 0 || (n == 64 && zeros b 6 2 && fieldOf b 0 1 % 128 == 0 && zeros b 25 7 && decide (fieldOf b 17 1 ≤ 7))
  else if r.index = 0x3300 then n == 0 || (n == 12 && zeros b 5 3)
  else if r.index = 0x4000 then n == 20
  else if r.index = 0x4200 then n == 512 && (List.range 256).all fun e => fieldOf b (2 * e) 1 / 16 == 0
  else if r.index = 0x4300 then n % 2 == 0
  else if r.index = 0x3220 then n % 2 == 0
  else if r.index = 0x8000 then n == 2048
  else if r.index = 0x7001 then (if r.sub = 2 then n % 32 == 0 else n % 2 == 0)
  else if r.index = 0x7000 ∧ r.sub = 8 then n == 32
  else true

/-- The checks of a whole value in the order of Table 14.5: its size, its maximum, its range. The result is 0, or the answer's code. -/
def checkValue (r : ObjRow) (b : List Byte) : Nat :=
  match r.ty.size with
  | some n => if b.length ≠ n then 0x13 else if scalarOk r (natOf b) then 0 else 0x14
  | none => if r.maxBytes < b.length then 0x32 else if blobOk r b then 0 else 0x14

/-- The staged write of a value. -/
def stagedOf (r : ObjRow) (index sub : Nat) (b : List Byte) : Staged :=
  ⟨okey index sub, if r.ty.size.isSome then natOf b else 0, if r.ty.size.isSome then [] else b, !r.ty.size.isSome⟩

/-- A written value in force. -/
def State.putStaged (s : State) (w : Staged) : State :=
  if w.isBlob then s.putBlob (w.key / 256) (w.key % 256) w.bytes else s.put (w.key / 256) (w.key % 256) w.value

end Sys2Proof.Machine
end

