-- ==== Sys2Proof/Machine/Readback.lean ====
section
/-! DEFINITION. What a READ of an object gives: the values in force, and the objects that report the machine's state (R324, R344 to R361, and
the object tables of every chapter). -/

namespace Sys2Proof.Machine

open Sys2Proof

/-! ### Reach (R346, Table 15.1) -/

/-- Whose rights a channel has: those of function `func`; `mgmt` limits them to the Courts in MGMT_COURTS. -/
structure Rights where
  func : Nat
  mgmt : Bool
  deriving DecidableEq, Repr

/-- Staged values of an object in every open, committed or frozen Rally. -/
def State.stagedValues (s : State) (index sub : Nat) : List Staged :=
  (s.rallies.filter fun r => r.state == .opened || r.state == .committed || r.state == .frozen).flatMap fun r =>
    r.staged.filter fun w => w.key == okey index sub

/-- A RECORD object that virtual function f reaches: it names Court f in force or staged, or it is empty. -/
def State.recordReach (s : State) (f index sub : Nat) : Bool :=
  let names := fun (b : List Byte) => match recordCourt index b with
    | some k => k == f
    | none => true
  sub == 0 || names (s.blobAt index sub) || (s.stagedValues index sub).any fun w => names w.bytes

/-- Whether a channel reaches an object, for a request that names Court `court`. -/
def State.reaches (s : State) (r : Rights) (court index sub : Nat) (write : Bool) : Bool :=
  let f := r.func
  let own : Bool :=
    match scopeOf index sub with
    | .device => f == 0 || (index / 256 == 0x10 && !write)
    | .function => index / 256 != 0x24 || index - 0x2410 == f
    | .court => f == 0 || (if index / 256 = 0x12 then court == f else index % 16 == f)
    | .courtDevice => f == 0 || (!write && index % 16 == f)
    | .carrier => f == 0 || (s.view []).owner index sub == some f
    | .core => f == 0 || (s.view []).owner index sub == some f
    | .record => f == 0 || s.recordReach f index sub
  own && (!r.mgmt || (match (s.view []).owner index sub with
    | some k => (s.get 0x1120 2).testBit k
    | none => true))

/-! ### The directory (R351, Table 15.2) -/

/-- Every index of the dictionary, ascending. -/
def allIndexes : List Nat :=
  [0x10, 0x11, 0x12, 0x20, 0x21, 0x22, 0x23, 0x24, 0x25, 0x26, 0x30, 0x31, 0x32, 0x33, 0x40, 0x41, 0x42, 0x43, 0x50, 0x51, 0x52, 0x53,
    0x60, 0x70, 0x80].flatMap fun p => ((List.range 256).map fun i => p * 256 + i).filter fun i => indexRows i != []

/-- Every object of the dictionary in directory order. -/
def allObjects : List (Nat × Nat × ObjRow) :=
  allIndexes.flatMap fun i => (List.range 256).filterMap fun b => (objAt i b).map fun r => (i, b, r)

/-- The record of an object. -/
def dirRecord (index sub : Nat) (r : ObjRow) : List Byte :=
  let size := match r.ty.size with
    | some n => n
    | none => r.maxBytes
  let kb : Bool := decide (65535 < size)
  bytesOf 8 (index + sub * 2 ^ 16 + r.ty.code * 2 ^ 24 + r.access.code * 2 ^ 32 + r.effect.code * 2 ^ 36
    + (scopeOf index sub).code * 2 ^ 40 + bitAt (systemObject index sub r.access) 44 + bitAt kb 45
    + (if kb then (size + 1023) / 1024 else size) * 2 ^ 48)

/-- The objects a channel may reach, in directory order. -/
def State.directory (s : State) (r : Rights) : List (Nat × Nat × ObjRow) :=
  allObjects.filter fun e => s.indexExists e.1 && s.reaches r r.func e.1 e.2.1 false

/-! ### Boot configuration (R348, Table 15.4) -/

/-- An entry of the configuration area: INDEX, SUB, length, value, padded. -/
def bootEntry (k : Nat) (v : List Byte) : List Byte :=
  bytesOf 2 (k / 256) ++ bytesOf 1 (k % 256) ++ bytesOf 1 v.length ++ v ++ List.replicate ((4 - v.length % 4) % 4) 0#8

/-- The stored values, by key. -/
def State.bootStored (s : State) : List (Nat × List Byte) := s.firm.stored.filterMap fun e => e.2.map fun v => (e.1, v)
def State.bootArea (s : State) : List Byte := s.bootStored.flatMap fun e => bootEntry e.1 e.2

/-! ### Time bases -/

def TbState.code : TbState → Nat
  | .disabled => 0
  | .freerun => 1
  | .acquiring => 2
  | .freqLocked => 3
  | .locked => 4
  | .holdover => 5

/-! ### Rallies (Table 14.8) -/

def RallyState.code : RallyState → Nat
  | .opened => 0
  | .committed => 1
  | .frozen => 2
  | .served => 3
  | .aborted => 4
  | .rolledBack => 5
  | .lost => 6

/-- Whether a Rally is open, committed or frozen; or only the last two. -/
def Rally.live (r : Rally) : Bool := r.state == .opened || r.state == .committed || r.state == .frozen
def Rally.pending (r : Rally) : Bool := r.state == .committed || r.state == .frozen

/-- The status record of a Rally. -/
def Rally.record (r : Rally) : List Byte :=
  bytesOf 4 r.id ++ bytesOf 1 r.state.code ++ bytesOf 1 r.cause ++ bytesOf 1 r.tb ++ bytesOf 1 (bitAt (r.scope == 16) 0 + bitAt r.spans 1)
    ++ bytesOf 8 r.serve ++ bytesOf 2 r.staged.length ++ bytesOf 1 r.pages ++ bytesOf 1 (if r.scope = 16 then 0xFF else r.scope)
    ++ bytesOf 4 (if r.state = .served then r.epoch else 0) ++ bytesOf 8 r.loadEnd

/-- The Rallies of a scope, in the order they were begun. -/
def State.scopeRallies (s : State) (scope : Nat) : List Rally := s.rallies.filter fun r => r.scope == scope
/-- The open Rally of a scope. -/
def State.openRally (s : State) (scope : Nat) : Option Rally := s.rallies.find? fun r => r.scope == scope && r.state == .opened

/-! ### The device -/

/-- Whether the condition of attention source b is present for function f (Table 14.7). -/
def State.attnActive (s : State) (f b : Nat) : Bool :=
  match b with
  | 0 => s.dswFence f
  | 1 => s.dswSvc f != 2
  | 2 => s.dswTime f
  | 6 => s.dswLink f
  | 7 => f == 0 && (s.audit.found != [] || s.audit.due != [])
      || f != 0 && ((s.audit.found ++ s.audit.due.map fun e => e.1).any fun x => (x.quantity == 0 && (s.pool x.object).court == f)
        || (x.quantity == 3 && (Tbl.get {} s.tpools x.object).court == f))
  | 8 => (List.range 16).any fun k => (f == 0 || k == f) && s.get (0x4060 + k) 0x0A == 3
  | 9 => f == 0 && s.throt
  | 10 => f == 0 && s.pwrm
  | 11 => f == 0 && s.therm
  | 12 => f == 0 && (s.get 0x7000 4 == 3 || s.get 0x7000 4 == 4)
  | 13 => f == 0 && s.get 0x2600 0x0D == 1
  | _ => false

def State.attnActiveBits (s : State) (f : Nat) : Nat := ((List.range 15).map fun b => bitAt (s.attnActive f b) b).sum

/-- Cores of a Court that it may use (R270): of its Court, tested and not fenced. -/
def State.usableMask (s : State) (k : Nat) : Nat :=
  ((List.range 64).map fun n => bitAt (s.coreInCourt k n && !s.isFenced 2 n && !(s.core n).fenced && s.get (0x8000 + n) 9 == 1) n).sum

/-- Bench pages that the models pinned by a Court take (R280, R282). -/
def State.pinnedPages (s : State) (k : Nat) : Nat := ((s.pinnedBy k).map fun m => (s.model m).pages).sum

/-- MB of xSPI RAM found, withheld regions taken off, and the part that nothing uses (R356, R386). -/
def State.unallocated (s : State) : Nat := s.get 0x2500 2 * 7 / 8 - (s.regionStart 16 + mb - 1) / mb

/-- STATE of a core (Table 15.13). -/
def State.coreState (s : State) (n : Nat) : Nat :=
  let c := s.core n
  if c.fenced || s.isFenced 2 n then 2
  else if c.inTest then 3
  else if s.get (0x8000 + n) 9 ≠ 1 then 4
  else if c.jobMode then 1 else 0

/-- CONTEXTS of a core: resident slots as a mask, swapped-out contexts as a number up to 15. -/
def State.coreContexts (s : State) (n : Nat) : Nat :=
  ((s.core n).residents.map fun k => 2 ^ k).sum + min 15 (s.swapped.filter fun w => w.core == n).length * 16

/-- STATE of coding engine or transform engine: 0 idle, 1 busy, 2 scrubbing, 3 fenced; an engine under test reads busy. -/
def State.unitState (s : State) (grain e st : Nat) : Nat := if s.isFenced grain e then 3 else if st = 4 then 1 else st

/-- Hops to a chip on the current trees. -/
def State.hops (s : State) (c : Nat) : Nat :=
  match (s.tree true s.chip).find? fun e => e.1 == c with
  | some e => e.2.2
  | none => 0

/-- Core cycles since Kickoff (R307). -/
def State.sysCycle (s : State) : Nat :=
  match s.mgl.kickoff with
  | some k => (s.mgl.kickBase + (s.cycles - k) / 196608) % 2 ^ 64
  | none => 0

/-- The coordinating chip: 0xFF in a system of one (R303), else the lowest-numbered member. -/
def State.coordinator (s : State) : Nat :=
  if s.get 0x2600 5 = 0 then 0xFF else ((List.range 24).find? fun c => (s.get 0x2600 5).testBit c).getD 0xFF

/-- Cycles of core n since reset: a stretched cycle counts once (R422, R457). -/
def State.coreCycleCount (s : State) (n : Nat) : Nat :=
  let k := n / 8
  let g := Tbl.get 0 s.power.gusts k
  let now := if g = 0 then 0 else 50 * s.get 0x5100 2 * (s.clock + 1 - g)
  (s.cycles - Tbl.get 0 s.power.lost k - now) / 196608

/-- Whole µs for which throttle reason r has been in force (R418). -/
def State.throttleTime (s : State) (r : Nat) : Nat :=
  let t := Tbl.get 0 s.power.since r
  (Tbl.get 0 s.power.acc r + (if t = 0 then 0 else s.clock + 1 - t)) * 100 / 196608

/-- Scalars that report the machine's state. `c` is the reading channel, `scope` the Rally scope the request names. -/
def State.derivedNum (s : State) (r : Rights) (c : Chan) (scope index sub : Nat) : Option Nat :=
  let f := r.func
  match index / 256 with
  | 0x10 => if index = 0x1002 ∧ sub = 2 then some (s.directory r).length
      else if index = 0x1003 ∧ sub = 2 then some (4096 - s.bootArea.length) else none
  | 0x11 =>
    if index = 0x1100 then (if sub = 1 then some (s.dsw f) else if sub = 4 then some (s.attnActiveBits f) else some (s.getB f index sub))
    else if index = 0x1110 ∧ sub = 1 then some c.rate
    else if index = 0x1110 ∧ sub = 2 then some c.tb
    else if index = 0x1120 then (if sub = 4 then some (s.chans.filter fun e => e.2.live && e.2.mgmt).length else none)
    else some (s.getB f index sub)
  | 0x12 =>
    if index ≠ 0x1200 then none
    else if sub = 2 then some ((s.openRally scope).elim 0 fun x => x.id)
    else if sub = 3 then some ((s.scopeRallies scope).filter fun x => x.pending).length
    else some (s.getB scope index sub)
  | 0x20 =>
    let n := (index - 0x2000) / 16
    if index % 16 ≠ 0 then none
    else if sub = 0x10 then some (if (s.tb n).enabled then (s.tbState n).code else 0)
    else if sub = 0x12 then some (s.airNow n)
    else none
  | 0x23 => if 0x2380 ≤ index ∧ sub = 5 then some (max (s.slotBytes (index - 0x2380) false) (s.slotBytes (index - 0x2380) true)) else none
  | 0x25 =>
    if index = 0x2500 ∧ sub = 3 then some s.unallocated
    else if 0x2520 ≤ index ∧ sub = 2 then
      some (if s.get index 1 = 0 then 0 else xspiAddr (s.get 0x2510 2) (s.regionStart (index - 0x2520)))
    else none
  | 0x26 =>
    if index = 0x2600 then
      (if sub = 2 then some s.chip else if sub = 7 then some s.coordinator else if sub = 0x0C then some s.sysCycle else none)
    else if 0x2640 ≤ index ∧ index < 0x2658 ∧ sub = 2 then some (s.hops (index - 0x2640))
    else none
  | 0x30 =>
    let k := index - 0x3000
    if index < 0x3010 ∧ sub = 8 then some (s.usableMask k)
    else if index < 0x3010 ∧ sub = 9 then some (s.pinnedPages k)
    else if index < 0x3010 ∧ sub = 0x0A then some (s.readyJobs k).length
    else none
  | 0x32 =>
    if index = 0x3200 then
      (if sub = 1 then some s.benchPagesTotal else if sub = 2 then some s.benchFree.length
       else if sub = 6 then some s.pageTime
       else if sub = 7 then some (match s.loads.getLast? with
         | some l => s.airOf s.loadTb (s.onBase s.loadTb l.due).tc
         | none => 0)
       else none)
    else if index = 0x3201 ∧ sub = 4 then some ((libTotal - s.libUsed) / 1024)
    else none
  | 0x42 =>
    if 0x4210 ≤ index ∧ index < 0x421E ∧ sub = 1 then some (s.unitState 7 (index - 0x4210) (s.engineC (index - 0x4210)).state)
    else if 0x4280 ≤ index ∧ index < 0x4290 ∧ sub = 3 then some (s.harqUsed (index - 0x4280))
    else if 0x4280 ≤ index ∧ index < 0x4290 ∧ sub = 4 then some (s.courtHarq (index - 0x4280)).length
    else if index = 0x42C0 ∧ sub = 2 then some s.softFree.length
    else none
  | 0x43 => if 0x4340 ≤ index ∧ sub = 1 then some (s.unitState 8 (index - 0x4340) (s.xfEngine (index - 0x4340)).state) else none
  | 0x50 => if index = 0x5001 ∧ sub ≤ 6 then some (s.throttleTime sub) else none
  | 0x60 =>
    let g := s.get 0x6011 sub
    if index = 0x6010 ∧ 0x1000 ≤ g ∧ g ≤ 0x1007 then some (Config.nocFlits (g - 0x1000) s.clock).toNat else none
  | 0x80 =>
    let n := index - 0x8000
    match sub with
    | 1 => some (s.coreState n)
    | 2 => some (s.coreCourt n)
    | 3 => some (s.core n).quarterFenced.toNat
    | 4 => some (s.coreContexts n)
    | 5 => some (s.core n).split
    | 0x0A => some (s.coreCycleCount n)
    | _ => none
  | _ => none

/-- An entry of the self-test record (Table 19.3). -/
def unitEntry (u : Nat) (x : TestUnit) : List Byte :=
  bytesOf 2 u ++ bytesOf 1 x.result ++ bytesOf 2 x.passed ++ bytesOf 1 x.failing ++ bytesOf 4 x.boot ++ bytesOf 4 x.tai ++ bytesOf 2 x.tj

/-- Codes of the 89 test units, ascending (Table 19.2). -/
def testUnits : List Nat := List.range 64 ++ (List.range 14).map (fun e => 0x100 + e) ++ (List.range 8).map (fun e => 0x200 + e) ++ [0x300, 0x301, 0x302]

def State.testUnit (s : State) (u : Nat) : TestUnit := Tbl.get {} s.firm.units u

/-- The working copy of the self-test record, without its signature. -/
def State.bistRecord (s : State) : List Byte :=
  bytesOf 2 0x5442 ++ bytesOf 2 1 ++ bytesOf 4 s.firm.rseq ++ bytesOf 4 (s.get 0x1001 4) ++ bytesOf 2 89 ++ bytesOf 2 0
    ++ testUnits.flatMap fun u => unitEntry u (s.testUnit u)

/-- A slot's 32 bytes of FW_SLOTS. -/
def FwSlot.row (x : FwSlot) : List Byte :=
  let h := x.header
  bytesOf 1 x.state ++ bytesOf 1 (fieldOf h 20 1) ++ bytesOf 2 0 ++ bytesOf 8 (fieldOf h 8 8) ++ bytesOf 4 x.seq
    ++ bytesOf 8 (fieldOf h 21 8) ++ bytesOf 4 (fieldOf h 16 4) ++ bytesOf 4 0

/-- One measurement (Table 19.7). -/
def measurement (kind id : Nat) (b : List Byte) : List Byte := bytesOf 1 kind ++ bytesOf 1 0 ++ bytesOf 2 id ++ sha256 b

/-- CONFIG_DIGEST's input: values of the system objects in directory order (R350). -/
def State.systemBytes (s : State) : List Byte :=
  (allObjects.filter fun e => systemObject e.1 e.2.1 e.2.2.access).flatMap fun e => match e.2.2.ty.size with
    | some n => bytesOf n (s.get e.1 e.2.1)
    | none => s.blobAt e.1 e.2.1
def State.configDigest (s : State) : List Byte := sha256 s.systemBytes

/-- The running slot's section digests, as its header holds them. -/
def State.runningSlot (s : State) : FwSlot := if s.get 0x1001 5 = 0 then s.firm.slot0 else s.firm.slot1

/-- The measurements: firmware, micro-program packages, resident models, CONFIG_DIGEST (R455). -/
def State.measurements (s : State) : List Byte :=
  let h := s.runningSlot.header
  bytesOf 1 1 ++ bytesOf 1 0 ++ bytesOf 2 0 ++ (h.drop 184).take 32 ++ bytesOf 1 2 ++ bytesOf 1 0 ++ bytesOf 2 0 ++ (h.drop 216).take 32
    ++ ((u16s 16 (s.blobAt 0x7001 3)).flatMap fun m => measurement 3 m (s.model m).data)
    ++ ((s.bench.filter fun e => e.2.live).flatMap fun e => measurement 4 e.1 (s.model e.1).data)
    ++ (bytesOf 1 5 ++ bytesOf 1 0 ++ bytesOf 2 0 ++ s.configDigest)

/-- An entry of BENCH_DIR. -/
def State.benchEntry (s : State) (m pages flags air : Nat) : List Byte :=
  bytesOf 2 m ++ bytesOf 1 pages ++ bytesOf 1 (bitAt (s.isPinned m) 0 + bitAt (s.isReferenced m) 1 + flags) ++ bytesOf 8 air ++ bytesOf 4 0

/-- Groups of 32 bytes of a log, the last first. -/
def newestFirst : Nat → List Byte → List Byte
  | 0, _ => []
  | n + 1, b => if b = [] then [] else newestFirst n (b.drop 32) ++ b.take 32

/-- FENCES: every fence; above the limit those of a grain other than job first, then job fences, oldest first (R488). -/
def State.fenceList (s : State) : List Byte :=
  let l := if s.fences.length ≤ 2048 then s.fences
    else ((s.fences.filter fun x => x.grain != 0) ++ s.fences.filter fun x => x.grain == 0).take 2048
  l.flatMap fun x => bytesOf 1 x.grain ++ bytesOf 1 x.cause ++ bytesOf 2 x.object ++ bytesOf 4 x.seq

/-- STR and BLOB objects that report the machine's state. -/
def State.derivedBlob (s : State) (r : Rights) (scope index sub : Nat) : Option (List Byte) :=
  match index with
  | 0x1002 => some ((s.directory r).flatMap fun e => dirRecord e.1 e.2.1 e.2.2)
  | 0x1003 => some s.bootArea
  | 0x1201 => some (((s.scopeRallies scope).reverse.take 32).flatMap Rally.record)
  | 0x2600 => some s.configDigest
  | 0x3201 => some ((s.lib.filter fun e => e.2.live).flatMap fun e =>
      bytesOf 2 e.1 ++ bytesOf 1 e.2.pages ++ bytesOf 1 (bitAt e.2.damaged 0 + bitAt e.2.signed 1 + bitAt e.2.adapted 2)
        ++ bytesOf 4 e.2.version ++ bytesOf 4 e.2.bytes ++ bytesOf 4 0)
  | 0x3202 => some (((s.bench.filter fun e => e.2.live).flatMap fun e =>
        s.benchEntry e.1 e.2.pages.length (bitAt (e.2.rally != 0) 3) (s.airOf s.loadTb (s.onBase s.loadTb e.2.usedAt).tc))
      ++ s.loads.flatMap fun l => s.benchEntry l.model l.pages.length (4 + bitAt (l.rally != 0) 3) (s.airOf s.loadTb (s.onBase s.loadTb l.due).tc))
  | 0x5200 => some (if sub = 1 then newestFirst 256 (s.blobAt 0x5200 1) else s.fenceList)
  | 0x31A0 => some (if sub = 0x0A then s.bistRecord
      else (List.range 11).flatMap fun i => bytesOf 4 ((Tbl.get 0 s.firm.steps (i + 1) - 1) * 100 / 196608))
  | 0x7000 => if sub = 1 then some (s.firm.slot0.row ++ s.firm.slot1.row) else if sub = 0x0A then some s.measurements else none
  | _ =>
    if 0x2410 ≤ index ∧ index < 0x2420 ∧ sub = 1 then
      let f := index - 0x2410
      some (bytesOf 8 (s.func f).statusAddr ++ (List.range 10).flatMap fun q =>
        bytesOf 8 (s.ring f q).base ++ bytesOf 4 (s.ring f q).size ++ bytesOf 4 (s.ring f q).ctrl)
    else none

/-- NOW_TAI of a time base as TIME80 (R35). -/
def State.nowTai (s : State) (n : Nat) : List Byte :=
  let t := s.taiNs n
  bytesOf 6 (t / 1000000000).toNat ++ bytesOf 4 (t % 1000000000).toNat

/-- The value in force of an object as OAP carries it (R323). -/
def State.valueBytes (s : State) (r : Rights) (c : Chan) (scope index sub : Nat) (row : ObjRow) : List Byte :=
  if sub = 0 then bytesOf 1 (highestSub index)
  else match row.ty.size with
    | some n => if row.ty = .time80 then s.nowTai ((index - 0x2000) / 16)
        else bytesOf n ((s.derivedNum r c scope index sub).getD (s.get index sub))
    | none => (s.derivedBlob r scope index sub).getD (s.blobAt index sub)

/-- A staged value as OAP carries it. -/
def Staged.asBytes (w : Staged) (row : ObjRow) : List Byte :=
  match row.ty.size with
  | some n => bytesOf n w.value
  | none => w.bytes

/-- The value a Rally stages for an object. -/
def Rally.stagedFor (r : Rally) (k : Nat) : Option Staged := stagedAt r.staged k

/-- Pending Rallies in the order of their Serve times, equal ones in commit order. -/
def insertRally (r : Rally) : List Rally → List Rally
  | [] => [r]
  | a :: t => if r.serveAt < a.serveAt ∨ (r.serveAt = a.serveAt ∧ r.commitNo < a.commitNo) then r :: a :: t else a :: insertRally r t
def State.pendingInOrder (s : State) : List Rally := (s.rallies.filter Rally.pending).foldl (fun l r => insertRally r l) []

/-- The pending value of an RWC object for a request that names a scope (R324). -/
def State.pendingValue (s : State) (scope k : Nat) : Option Staged :=
  let scopes := if scope = 16 then [16] else [scope, 16]
  match scopes.findSome? fun sc => (s.openRally sc).bind fun r => r.stagedFor k with
  | some w => some w
  | none => ((s.pendingInOrder.filter fun r => scopes.contains r.scope).filterMap fun r => r.stagedFor k).getLast?

/-- What a READ gives, with PENDING or without. -/
def State.readBytes (s : State) (r : Rights) (c : Chan) (scope index sub : Nat) (row : ObjRow) (pend : Bool) : List Byte :=
  let now := s.valueBytes r c scope index sub row
  if pend = false then now
  else if row.effect = .boot then (Tbl.get none s.firm.stored (okey index sub)).getD now
  else if row.access = .rwc then ((s.pendingValue scope (okey index sub)).map fun w => w.asBytes row).getD now
  else now

end Sys2Proof.Machine
end

