-- ==== Sys2Proof/Machine/Rules.lean ====
section
/-! DEFINITION. The cross-object rules of a commit (R338 step 5) and of a Serve time (R32). A rule is judged on a state in which every write of
the Rally, and of each committed Rally that is served no later, is in force; it answers the keys of the objects that take part in it where it
fails. -/

namespace Sys2Proof.Machine

open Sys2Proof

/-- The values in force as changed by staged writes, in order. -/
def State.applied (s : State) (l : List Staged) : State := l.foldl State.putStaged s

/-- Whether an enabled carrier, or a timed pin in a mode other than OFF or CAPTURE, refers to a time base; the keys that make it so. -/
def State.refKeys (v : State) (n : Nat) : List Nat :=
  ((List.range 32).flatMap fun c => if v.car c 1 ≠ 0 ∧ v.car c 2 = n then [okey (0x2300 + c) 1, okey (0x2300 + c) 2] else [])
    ++ (List.range 32).flatMap fun p =>
      if v.get (pinIx p) 1 ≠ 0 ∧ v.get (pinIx p) 1 ≠ 6 ∧ v.get (pinIx p) 2 = n then [okey (pinIx p) 1, okey (pinIx p) 2] else []

/-! ### Time (R26, R27, R43, R45, R47, Table 2.8) -/

/-- Extended cyclic prefix at 60 kHz only (R26); the domain of a PTP profile, and master ports in G.8275.1 only (Table 2.8). -/
def State.ruleTb (v : State) (n : Nat) : List Nat :=
  let i := tbIx n
  let q := 0x2001 + n * 16
  (if v.get i 3 = 1 ∧ v.get i 2 ≠ 2 then [okey i 2, okey i 3] else [])
    ++ (if (v.get q 1 = 0 ∧ 43 < v.get q 2) ∨ (v.get q 1 = 1 ∧ v.get q 2 < 44) then [okey q 1, okey q 2] else [])
    ++ (if v.get q 1 = 1 ∧ v.get q 4 ≠ 0 then [okey q 1, okey q 4] else [])

/-- STEP of a time base: nothing may refer to it at S; and while a step is pending or committed no reference may be added, as a committed Rally that names
the time base would (R43). `base` is the state before the Rally's own writes, `s` the present one, `serve` the Serve time, `tb` the time base that names it. -/
def State.ruleStep (v base s : State) (own : List Nat) (tb : Nat) (serve : Int) (n : Nat) : List Nat :=
  let k := okey (tbIx n) 0x0F
  let refs := v.refKeys n
  let others : Bool := (s.rallies.any fun r => r.pending && r.tb == n && decide (serve < r.serveAt))
    || (v.multiChip && v.coordinates && v.get (tbIx n) 1 == 1)
  (if own.contains k ∧ v.get (tbIx n) 0x0F ≠ 0 ∧ (refs ≠ [] ∨ others) then k :: refs else [])
    ++ (if (s.tb n).step ≠ 0 ∨ (s.rallies.any fun r => r.pending && (r.stagedFor k).elim false fun w => w.value != 0) then
          (refs.filter fun x => !(base.refKeys n).contains x) ++ (if tb = n ∧ own.contains k = false then own else []) else [])

/-- The shortest span in Tc of `per` units of a pin's program that begins with unit k0: the lengths repeat after the units of a half-subframe (R26, R45). -/
def periodMin (mu : Nat) (ecp : Bool) (u per k0 : Nat) : Nat :=
  if u = 0 then per else if u = 3 then per * 1966080 else if u = 4 then per * 19660800
  else
    let span := fun (r : Nat) => unitTc mu ecp u (k0 + (r + 1) * per) - unitTc mu ecp u (k0 + r * per)
    (List.range (7 * 2 ^ mu)).foldl (fun m r => min m (span r)) (span 0)

/-- A timed pin's program (R27, R45, R47). A pin whose program the Rally does not change is not judged against the Serve time. -/
def State.rulePin (v : State) (own : List Nat) (serve : Int) (p : Nat) : List Nat :=
  let i := pinIx p
  let n := v.get i 2 % 8
  let mu := v.tbMu n
  let e := v.tbEcp n
  let num := [okey i 2, okey (tbIx n) 2, okey (tbIx n) 3]
  let mode := v.get i 1
  let w := v.get i 5
  let t0 := (((v.tb n).tc : Int) + airDiff (v.tb n).tc (v.tcOf n (v.get i 4))).toNat
  let per := periodMin mu e (v.get i 7) (v.get i 6) (if mode = 3 then unitOf mu e (v.get i 7) t0 else 0)
  let changed := (List.range 13).any fun b => own.contains (okey i (b + 1))
  (if own.contains (okey i 4) ∧ airCanonical mu e (v.get i 4) = false then [okey i 4] else [])
    ++ (if (mode = 2 ∨ mode = 3 ∨ mode = 4) ∧ w < 8 then [okey i 1, okey i 5] else [])
    ++ (if (mode = 3 ∨ mode = 4) ∧ per < w + 8 then num ++ [okey i 1, okey i 5, okey i 6, okey i 7] else [])
    ++ (if changed ∧ (mode = 2 ∨ mode = 3) ∧ airDiff (v.ofMono n serve) (v.tcOf n (v.get i 4)) < 0 then num ++ [okey i 1, okey i 4] else [])

/-! ### Fronthaul and the symbol buffer (R18, R183, R184, R354, R365, R373, R406, R441) -/

def State.fhPorts (v : State) : Nat := if v.get 0x2210 1 = 0 then 16 else if v.get 0x2210 1 = 1 then 8 else 4

/-- Keys of the numerology of a carrier. -/
def State.numKeys (v : State) (c : Nat) : List Nat :=
  [okey (0x2300 + c) 1, okey (0x2300 + c) 2, okey (tbIx (v.carTb c)) 2, okey (tbIx (v.carTb c)) 3]
def carKeys (c : Nat) (l : List Nat) : List Nat := l.map fun b => okey (0x2300 + c) b
def bufKeys (c : Nat) (l : List Nat) : List Nat := l.map fun b => okey (0x2380 + c) b

/-- Ports beyond those that exist (R354). -/
def State.rulePorts (v : State) : List Nat :=
  (List.range 16).flatMap fun p => if v.fhPorts ≤ p ∧ v.get (0x2200 + p) 1 = 1 then [okey (0x2200 + p) 1] else []

/-- A carrier's windows and ports, of every carrier; the port count of the widest spacings, of an enabled one (R18, R354, Table 15.6). -/
def State.ruleCarrier (v : State) (c : Nat) : List Nat :=
  (if v.car c 10 ≤ v.car c 9 then carKeys c [9, 10] else [])
    ++ (if v.car c 11 ≤ v.car c 12 then carKeys c [11, 12] else [])
    ++ (if v.car c 11 < v.longSym (v.carTb c) then v.numKeys c ++ carKeys c [11] else [])
    ++ (if v.car c 5 / 2 ^ v.fhPorts ≠ 0 ∨ (v.car c 1 ≠ 0 ∧ v.car c 5 = 0) then carKeys c [1, 5] else [])
    ++ (if v.car c 1 ≠ 0 ∧ 5 ≤ v.tbMu (v.carTb c) ∧ 16 < v.car c 4 then v.numKeys c ++ carKeys c [4] else [])

/-- Directions of enabled carriers, each with its region: base, bytes, and the keys that take part. -/
def State.regions (v : State) : List (Nat × Bool × Nat × Nat × List Nat) :=
  (List.range 32).flatMap fun c => [false, true].filterMap fun dl =>
    if (if dl then v.carDl c else v.carUl c) then
      some (c, dl, v.get (0x2380 + c) (if dl then 2 else 1), v.carDepth c dl * v.slotBytes c dl,
        (if dl then bufKeys c [2, 4] ++ carKeys c [1, 3, 4, 8] else bufKeys c [1, 3] ++ carKeys c [1, 3, 4, 7])
          ++ [okey (0x4300 + c) 1, okey (0x4300 + c) 2])
    else none

/-- Regions: depth, alignment, the 24 MB, withheld parts, overlap (R183, R184, R441). -/
def State.ruleRegions (v : State) : List Nat :=
  let l := v.regions
  l.flatMap fun (x : Nat × Bool × Nat × Nat × List Nat) =>
    let c := x.1
    let dl := x.2.1
    let b := x.2.2.1
    let n := x.2.2.2.1
    let win := if dl then v.car c 11 - v.car c 12 else v.car c 10 - v.car c 9
    let ls := v.longSym (v.carTb c)
    let clash := l.filter fun y => (y.1 != c || y.2.1 != dl) && overlap b n y.2.2.1 y.2.2.2.1
    (if v.carDepth c dl < max 2 (1 + (win + ls - 1) / ls) then
        v.numKeys c ++ bufKeys c [if dl then 4 else 3] ++ carKeys c (if dl then [11, 12] else [9, 10]) else [])
      ++ (if b % 128 ≠ 0 ∨ 0x1800000 < b + n ∨ (v.firm.symWithheld.any fun g => overlap b n (g * 65536) 65536) ∨ clash ≠ [] then
          x.2.2.2.2 ++ clash.flatMap fun y => y.2.2.2.2 else [])

/-- eAxC ranges of carriers that share a port (R365). -/
def State.ruleEaxc (v : State) : List Nat :=
  let on := (List.range 32).filter fun c => v.car c 1 != 0
  on.flatMap fun c => on.flatMap fun d =>
    if c < d ∧ v.car c 5 &&& v.car d 5 ≠ 0 ∧ overlap (v.car c 6) (v.localPorts c) (v.car d 6) (v.localPorts d) then
      carKeys c [1, 4, 5, 6] ++ carKeys d [1, 4, 5, 6] else []

/-- Common denominator of every symbol length and slot. -/
def loadDen : Nat := 140288 * 40960 * 168

/-- Units of a symbol of a carrier: PRBs, or blocks in time-domain mode. -/
def State.loadUnits (v : State) (c : Nat) : Nat := if v.tdOn c then v.sampleBlocks c false else v.car c 3

/-- Bytes that one eAxC of a carrier carries per shortest symbol. -/
def State.eaxcBytes (v : State) (c : Nat) (dl : Bool) (tagged : Bool) : Nat :=
  v.loadUnits c * prbBytes (v.carWidth c dl) + (v.loadUnits c + 254) / 255 * (if tagged then 58 else 54)

/-- Bits per Tc, times `loadDen`, that a carrier puts on port p, in or out (R373). -/
def State.portShare (v : State) (p : Nat) (out : Bool) (c : Nat) : Nat :=
  if (v.car c 5).testBit p ∧ v.car c 1 ≠ 0 then
    let e := v.tbEcp (v.carTb c)
    let lmin := symBase (v.tbMu (v.carTb c)) e
    let ports := v.carPorts c
    let cnt := ((List.range (v.localPorts c)).filter fun a => ports[a % max 1 ports.length]? == some p).length
    let tagged : Bool := v.get (0x2200 + p) 3 != 0
    let u := if out then (if v.carDl c then v.eaxcBytes c true tagged else 0) else (if v.carUl c then v.eaxcBytes c false tagged else 0)
    let cp := if out then (if tagged then 66 else 62) * ((if v.carDl c then 1 else 0) + if v.carUl c then 1 else 0) else 0
    cnt * 8 * (u * (loadDen / lmin) + cp * (loadDen / (lmin * symsPerSlot e)))
  else 0
def State.portLoad (v : State) (p : Nat) (out : Bool) : Nat := ((List.range 32).map fun c => v.portShare p out c).sum

/-- Whether a load exceeds a rate in Gb/s. -/
def exceeds (load gbps : Nat) : Bool := decide (gbps * 1000000000 * loadDen < load * 1966080000)

/-- Ethernet rate of a port, in Mb/s. -/
def State.portRate (v : State) : Nat := 1600000 / v.fhPorts / (1 + v.get 0x2210 2)

def State.loadKeys (v : State) (p : Nat) : List Nat :=
  okey (0x2200 + p) 3 :: (List.range 32).flatMap fun c =>
    if (v.car c 5).testBit p ∧ v.car c 1 ≠ 0 then v.numKeys c ++ carKeys c [3, 4, 5, 7, 8] ++ [okey (0x4300 + c) 1, okey (0x4300 + c) 2] else []

/-- Load of every port (R373). -/
def State.ruleLoad (v : State) : List Nat :=
  (List.range 16).flatMap fun p =>
    if v.portRate * 1000000 * loadDen < v.portLoad p false * 1966080000 ∨ v.portRate * 1000000 * loadDen < v.portLoad p true * 1966080000 then
      v.loadKeys p else []

/-- The uplink load of all ports. -/
def State.uplinkLoad (v : State) : Nat := ((List.range 16).map fun p => v.portLoad p false).sum

/-- The IQ record (R406). -/
def State.ruleIq (v : State) : List Nat :=
  let all := (List.range 16).flatMap fun p => v.loadKeys p
  if v.get 0x5300 8 = 1 ∧ ((List.range 32).any (fun c => (v.car c 5).testBit (v.get 0x5300 9))
      ∨ v.portRate * 1000000 * loadDen < v.uplinkLoad * 1966080000) then
    [okey 0x5300 8, okey 0x5300 9] ++ ((List.range 32).map fun c => okey (0x2300 + c) 5) ++ all
  else if v.get 0x5300 8 = 2 ∧ (v.get 0x5300 0x0A % 2 ^ 30 ≠ 0 ∨ exceeds v.uplinkLoad 100) then
    [okey 0x5300 8, okey 0x5300 0x0A] ++ all
  else []

/-! ### Time-domain carriers (R257, R259, R260, R488) -/

/-- NFFT, ramp length and ramp table of a carrier. -/
def State.ruleTd (v : State) (c : Nat) : List Nat :=
  let i := 0x4300 + c
  let n := v.get i 2
  (if v.tdOn c ∧ (smooth n = false ∨ 4096 < n ∨ n < 12 * v.car c 3) then [okey i 1, okey i 2, okey (0x2300 + c) 3] else [])
    ++ (if v.tdOn c ∧ v.cpSamples c false < v.get i 6 then v.numKeys c ++ [okey i 1, okey i 2, okey i 6] else [])
    ++ (if (v.blobAt i 7).length ≠ 2 * v.get i 6 then [okey i 6, okey i 7] else [])

/-- Engine time of the downlink transforms: 80 % of the eight engines, at 1.2 million 4,096-point transforms per second each (R259). -/
def State.ruleTransforms (v : State) : List Nat :=
  let on := (List.range 32).filter fun c => v.tdOn c && v.carDl c
  let d := 140288 * 40960
  let t := (on.map fun c => v.localPorts c * max 512 (v.get (0x4300 + c) 2) * 4 * (d / symBase (v.tbMu (v.carTb c)) (v.tbEcp (v.carTb c)))).sum
  if 64 * d < t then on.flatMap fun c => v.numKeys c ++ carKeys c [4] ++ [okey (0x4300 + c) 1, okey (0x4300 + c) 2] else []

/-! ### Pools (R188, R191, R288) -/

/-- A POOL record, where one is written. -/
def State.poolRec (v : State) (p : Nat) : Option (List Byte) :=
  let b := v.blobAt 0x3180 (p + 1)
  if b = [] then none else some b
/-- Its queue numbers, the free queue first. -/
def recQueues (b : List Byte) : List Nat := fieldOf b 16 1 :: (List.range (min 7 (fieldOf b 17 1))).map fun i => fieldOf b (18 + i) 1
/-- A pool that more than one stream uses: it has stage queues of several, or a RANK (R191). -/
def recShared (b : List Byte) : Bool := decide (1 < fieldOf b 17 1) || fieldOf b 15 1 != 0

/-- A record against R188 and RANK 0 of a shared pool. -/
def State.poolRecOk (v : State) (b : List Byte) : Bool :=
  let base := fieldOf b 0 6
  let size := fieldOf b 8 4
  let count := fieldOf b 12 2
  let k := fieldOf b 14 1
  let n := base / Config.coreMemBytes
  let off := base % Config.coreMemBytes
  decide (1 ≤ count ∧ count ≤ 1024 ∧ 0 < size) && size % 128 == 0 && decide (k < 16) && decide (n < 64) && v.coreInCourt k n
    && decide (0x40000 ≤ off) && decide (off + count * size ≤ Config.coreMemBytes) && decide (recQueues b).Nodup
    && !(recShared b && fieldOf b 15 1 == 0)

/-- Edges of the HOLD_MAPs of a Court's pools: from a pool whose handles may be held to the pool that is waited on. -/
def State.holdEdges (v : State) (k : Nat) : List (Nat × Nat) :=
  let mine := (List.range 255).filter fun p => (v.poolRec p).elim false fun b => fieldOf b 14 1 == k
  mine.flatMap fun p => mine.filterMap fun q =>
    if (fieldOf ((v.poolRec p).getD []) 32 32).testBit q then some (q, p) else none

/-- Whether edges form a cycle: what remains after repeatedly taking away the edges into nodes with no edge of their own. -/
def cyclic : Nat → List (Nat × Nat) → Bool
  | 0, e => e != []
  | n + 1, e => cyclic n (e.filter fun x => e.any fun y => y.1 == x.2)

/-- Buffer pools: records, queues across pools, holds (R188, R191). -/
def State.rulePools (v : State) : List Nat :=
  let recs := (List.range 255).filterMap fun p => (v.poolRec p).map fun b => (p, b)
  let key := fun (p : Nat) => okey 0x3180 (p + 1)
  let all := recs.map fun e => key e.1
  let queues := recs.flatMap fun e => (recQueues e.2).map fun q => (queueKey (fieldOf e.2 14 1) q, e.1)
  (recs.flatMap fun e => if v.poolRecOk e.2 then [] else [key e.1])
    ++ (queues.flatMap fun x => if (queues.filter fun y => y.1 == x.1).length ≤ 1 then [] else [key x.2])
    ++ (if 1024 < queues.length ∨ 262144 < (recs.map fun e => fieldOf e.2 12 2 * (recQueues e.2).length).sum then all else [])
    ++ (List.range 16).flatMap fun k =>
      let es := v.holdEdges k
      (if cyclic es.length es then es.map fun e => key e.2 else [])
        ++ es.flatMap fun e =>
          let a := (v.poolRec e.1).getD []
          let b := (v.poolRec e.2).getD []
          if recShared a ∧ recShared b ∧ fieldOf b 15 1 ≤ fieldOf a 15 1 then [key e.1, key e.2] else []

/-- Tally pools: count, range, Court, overlap (R288). -/
def State.ruleTallies (v : State) : List Nat :=
  let recs := (List.range 255).filterMap fun p =>
    let b := v.blobAt 0x3300 (p + 1)
    if b = [] then none else some (okey 0x3300 (p + 1), fieldOf b 0 2, fieldOf b 2 2, fieldOf b 4 1)
  recs.flatMap fun (x : Nat × Nat × Nat × Nat) =>
    (if x.2.2.1 = 0 ∨ 0xFFF8 < x.2.1 + x.2.2.1 ∨ 15 < x.2.2.2 then [x.1] else [])
      ++ recs.flatMap fun y => if x.1 ≠ y.1 ∧ overlap x.2.1 x.2.2.1 y.2.1 y.2.2.1 then [x.1, y.1] else []

/-! ### Courts, Bench, memories (R243, R266, R282, R356) -/

/-- A core or a carrier in two Courts (R266). -/
def State.ruleCourts (v : State) : List Nat :=
  [1, 2].flatMap fun b => (List.range 16).flatMap fun k => (List.range 16).flatMap fun j =>
    if k ≠ j ∧ v.get (0x3000 + k) b &&& v.get (0x3000 + j) b ≠ 0 then [okey (0x3000 + k) b] else []

/-- Pinned pages within PIN_QUOTA; quotas and swap pages within PAGES (R282). -/
def State.rulePins (v : State) : List Nat :=
  ((List.range 16).flatMap fun k =>
    if v.get (0x3000 + k) 7 < v.pinnedPages k then
      [okey (0x3000 + k) 2, okey (0x3000 + k) 7, okey (0x3220 + k) 1, okey (0x4060 + k) 2]
        ++ (v.courtCarriers k).flatMap fun c => [okey (0x4000 + c) 1, okey (0x4000 + c) 2, okey (0x4000 + c) 3]
    else [])
    ++ (if v.benchPagesTotal < ((List.range 16).map fun k => v.get (0x3000 + k) 6 + v.get (0x3000 + k) 7).sum then
          (List.range 16).flatMap fun k => [okey (0x3000 + k) 6, okey (0x3000 + k) 7] else [])

/-- HARQ_QUOTA of all Courts within the soft buffer (R243). -/
def State.ruleHarq (v : State) : List Nat :=
  if v.softTotal < ((List.range 16).map fun k => v.get (0x4280 + k) 1).sum then (List.range 16).map fun k => okey (0x4280 + k) 1 else []

/-- HyperRAM over-committed (R356, R386). -/
def State.ruleXspi (v : State) : List Nat :=
  if v.get 0x2500 2 * 7 / 8 * mb < v.regionStart 16 ∧ (v.get 0x2500 2 ≠ 0 ∨ (List.range 16).any fun k => v.get (0x2520 + k) 1 != 0) then
    okey 0x5300 7 :: (List.range 16).flatMap fun k => [okey (0x2520 + k) 1, okey (0x4060 + k) 8]
  else []

/-! ### Coding, power, packages, Replay (R170, R408, R414, R453, Table 10.5) -/

/-- A micro-program against R170: format, steps of Table 7.7 in order, reserved bytes, table, ID. -/
def microOk (b : List Byte) : Bool :=
  let steps := fieldOf b 5 1
  let codes := (List.range steps).map fun i => fieldOf b (32 + 16 * i) 1
  fieldOf b 0 2 == 0x4D50 && fieldOf b 2 2 == 1 && decide (16 ≤ fieldOf b 4 1) && decide (1 ≤ steps ∧ steps ≤ 5)
    && decide (fieldOf b 12 2 ≤ 1024) && zeros b 7 1 && zeros b 14 2 && zeros b 18 14
    && decide (b.length = 32 + 16 * steps + 4 * fieldOf b 12 2) && decide (List.Pairwise (· < ·) codes) && (codes.all fun x => decide (1 ≤ x ∧ x ≤ 5))

/-- The micro-program packages that SF_PACKAGES names. A model of stage 0xF0 in the library is such a package.
Together they fit the bank's region of 20 KB (R170). -/
def State.microIds (v : State) : List Nat := u16s 16 (v.blobAt 0x7001 3)
def State.ruleMicro (v : State) : List Nat :=
  let l := v.microIds
  let ids := l.map fun m => fieldOf (v.model m).data 4 1
  let size := (l.map fun m => (v.model m).data.length).sum
  if (l.all fun m => (v.model m).live && (v.model m).stage == 0xF0 && microOk (v.model m).data) && decide ids.Nodup && decide (size ≤ 20480) then []
  else [okey 0x7001 3]

/-- MIN_ITER up to MAX_ITER; fixed frequency with a host limit below it (R414). -/
def State.ruleMisc (v : State) : List Nat :=
  (if v.get 0x4200 2 < v.get 0x4200 3 then [okey 0x4200 2, okey 0x4200 3] else [])
    ++ (if v.get 0x5000 2 = 2 ∧ 300 ≤ v.get 0x5000 5 ∧ v.get 0x5000 5 + 25 ≤ v.get 0x5000 3 then
          [okey 0x5000 2, okey 0x5000 3, okey 0x5000 5] else [])

/-- Firmware versions that a snapshot records. -/
def State.versions (s : State) : List Nat := [s.get 0x1001 1, s.get 0x1001 2, s.get 0x1001 3]

/-- REPLAY_MODE 2 (R408). -/
def State.ruleReplay (v : State) (own : List Nat) : List Nat :=
  let ok : Bool := match v.replay.snap with
    | some x => x.versions == v.versions && (x.lib.all fun e => (v.model e.1).live && (v.model e.1).version == e.2)
        && (List.range 32).all fun c => v.car c 1 == 0
    | none => false
  if own.contains (okey 0x5300 6) ∧ v.get 0x5300 6 = 2 ∧ ok = false then okey 0x5300 6 :: (List.range 32).map fun c => okey (0x2300 + c) 1 else []

/-! ### All rules -/

/-- Objects of a Court's Rally that the Court no longer owns at the Serve time (R347). -/
def State.ruleOwners (v base : State) (scope : Nat) (own : List Nat) : List Nat :=
  if scope = 16 then []
  else own.filter fun k =>
    let i := k / 256
    let b := k % 256
    match scopeOf i b with
    | .device => false
    | .courtDevice => false
    | .record => (match (base.view []).owner i b with
      | some o => o != scope
      | none => false)
    | _ => (v.view []).owner i b != some scope

/-- The keys that take part in a failing rule. -/
def State.failing (v base s : State) (scope : Nat) (own : List Nat) (tb : Nat) (serve : Int) : List Nat :=
  v.ruleOwners base scope own
    ++ (List.range 8).flatMap (fun n => v.ruleTb n ++ v.ruleStep base s own tb serve n)
    ++ (List.range 32).flatMap (fun p => v.rulePin own serve p)
    ++ v.rulePorts ++ (List.range 32).flatMap (fun c => v.ruleCarrier c ++ v.ruleTd c)
    ++ v.ruleRegions ++ v.ruleEaxc ++ v.ruleLoad ++ v.ruleIq ++ v.ruleTransforms ++ v.rulePools ++ v.ruleTallies ++ v.ruleCourts
    ++ v.rulePins ++ v.ruleHarq ++ v.ruleXspi ++ v.ruleMicro ++ v.ruleMisc ++ v.ruleReplay own

/-! ### The Serve time (R32, R33) -/

/-- Time bases that a written object belongs to: its carrier's, its pin's, before and after; a time base itself. -/
def tbsOf (v base : State) (k : Nat) : List Nat :=
  let i := k / 256
  let ofCar := fun (c : Nat) => [v.carTb c, base.carTb c]
  if 0x2000 ≤ i ∧ i < 0x2080 then [(i - 0x2000) / 16]
  else if 0x2100 ≤ i ∧ i < 0x2120 then [v.get i 2 % 8, base.get i 2 % 8]
  else if scopeOf i (k % 256) = .carrier then ofCar (i % 32)
  else []

/-- The count of a time base at a Serve time: one that is disabled stands still until a pending Rally that is served earlier enables it. -/
def State.countAt (s : State) (serve : Int) (n : Nat) : Nat :=
  let x := ((s.rallies.filter fun r => r.pending && decide (r.serveAt < serve)).filter fun r => (r.stagedFor (okey (tbIx n) 1)).isSome)
  let ev := fun (a b : Rally) => decide (a.serveAt < b.serveAt) || (a.serveAt == b.serveAt && decide (a.commitNo < b.commitNo))
  let rec go (k : Nat) (l : List Rally) (on : Bool) (at_ : Int) (c : Int) : Int :=
    match k, firstBy ev l with
    | k + 1, some r =>
      let c1 := if on then c + (r.serveAt - at_) else c
      go k (l.erase r) ((r.stagedFor (okey (tbIx n) 1)).elim on fun w => w.value == 1) r.serveAt c1
    | _, _ => if on then c + (serve - at_) else c
  (go x.length x (s.tb n).enabled s.clock (s.tb n).tc % (airPeriod : Int)).toNat

/-- Whether the Serve time is a boundary of a time base under the numerology before it and the one from it (R32). -/
def boundaryAt (v before s : State) (serve : Int) (n : Nat) : Bool :=
  let t := s.countAt serve n
  let old := isBoundary (before.tbMu n) (before.tbEcp n) t
  let new := isBoundary (v.tbMu n) (v.tbEcp n) t
  if before.get (tbIx n) 1 = 1 then old && new else new

/-- Staged writes of the pending Rallies that `p` selects, in the order in which they are served. -/
def State.stagedBy (s : State) (p : Rally → Bool) : List Staged := (s.pendingInOrder.filter p).flatMap fun r => r.staged

/-- The instant of a Serve time, on the model's own clock, read on the numerology in force before it (R32). -/
def State.serveInstant (s : State) (tb air : Nat) : Int :=
  let m0 := s.mono tb (s.tcOf tb air % airPeriod)
  let b := s.applied (s.stagedBy fun r => decide (r.serveAt < m0))
  s.mono tb (b.tcOf tb air % airPeriod)

/-- The lowest of some keys; 0 for none. -/
def lowestKey (l : List Nat) : Nat := (firstBy (fun a b => decide (a < b)) l).getD 0

end Sys2Proof.Machine
end

