-- ==== Sys2Proof/Machine/Replay.lean ====
section
/-! DEFINITION. Pools as their records declare them, Whistle, and the start snapshot of Replay (R188, R288, R358, R402 to R408). -/

namespace Sys2Proof.Machine

open Sys2Proof

/-! ### Pools of records (R188, R288) -/

/-- The pool of a POOL record. -/
def recPool (b : List Byte) : Pool :=
  { live := b != [], base := fieldOf b 0 6, bufSize := fieldOf b 8 4, count := fieldOf b 12 2, court := fieldOf b 14 1,
    rank := fieldOf b 15 1, freeQueue := fieldOf b 16 1, stages := (recQueues b).drop 1, holdMap := BitVec.ofNat 256 (fieldOf b 32 32) }

/-- The Tally pool of a TPOOL record. -/
def recTPool (b : List Byte) : TPool :=
  { live := b != [], first := fieldOf b 0 2, count := fieldOf b 2 2, court := fieldOf b 4 1, init := BitVec.ofNat 32 (fieldOf b 8 4) }

/-- A pool and its queues are gone, with what is known of its handles. -/
def State.dropPool (s : State) (p : Nat) : State :=
  let x := s.pool p
  let keys := (x.freeQueue :: x.stages).map fun q => queueKey x.court q
  { s with pools := Tbl.set {} s.pools p {},
           queues := if x.live then s.queues.filter (fun e => !keys.contains e.1) else s.queues,
           heldBy := s.heldBy.filter fun e => e.1 / 1024 != p, handleFrom := s.handleFrom.filter fun e => e.1 / 1024 != p }

/-- A pool of a record: every handle in its free queue in ascending order, its stage queues empty (R188). -/
def State.makePool (s : State) (p : Nat) (b : List Byte) : State :=
  if b = [] then s
  else
    let x := recPool b
    let s1 := { s with pools := Tbl.set {} s.pools p x }
    let s2 := s1.setHqueue (queueKey x.court x.freeQueue) ⟨true, p, List.range x.count, List.replicate x.count 0⟩
    x.stages.foldl (fun (s : State) q => s.setHqueue (queueKey x.court q) ⟨true, p, [], []⟩) s2

/-- A Tally pool of a record: every Tally of it takes INIT, its flags and holder cleared (R288). -/
def State.makeTPool (s : State) (p : Nat) (b : List Byte) : State :=
  let x := recTPool b
  let s1 := { s with tpools := Tbl.set {} s.tpools p x }
  if x.live then
    let rest := s1.tallies.filter fun e => decide (e.1 < x.first) || decide (x.first + x.count ≤ e.1)
    (List.range x.count).foldl (fun (s : State) i =>
      if x.init = 0#32 then s else s.setTally (x.first + i) { count := x.init }) { s1 with tallies := rest }
  else s1

/-! ### The start snapshot (R405, R408) -/

/-- Whether a key is an RW or RWC value, whatever bank it is of. -/
def isSetting (k : Nat) : Bool :=
  match objRow (k % 2 ^ 24 / 256) (k % 256) with
  | some r => r.access == .rw || r.access == .rwc
  | none => false

/-- The state that a snapshot names, as it stands. -/
def State.takeSnapshot (s : State) : Snapshot where
  obj := s.obj.filter fun e => isSetting e.1
  blob := s.blob.filter fun e => isSetting e.1
  versions := s.versions
  lib := (s.lib.filter fun e => e.2.live).map fun e => (e.1, e.2.version)
  tallies := s.tallies
  queues := s.queues
  heldBy := s.heldBy
  harq := s.harq
  soft := s.mem.filter fun c => decide (0xC000000 ≤ c.1 ∧ c.1 < 0xD000000)
  tagCtrs := s.cores.map fun e => (e.1, e.2.tagCounter)
  tbs := s.tbs

/-- The bytes of a snapshot: every RW and RWC value in directory order, then the firmware versions, the library, the Tallies, the handle
queues, the HARQ table with the blocks in use, and the tag counters. The layout is the model's (log entry 24). -/
def State.snapshotBytes (s : State) : List Byte :=
  ((allObjects.filter fun e => e.2.2.access == .rw || e.2.2.access == .rwc).flatMap fun e =>
      let v := match e.2.2.ty.size with
        | some n => bytesOf n (s.get e.1 e.2.1)
        | none => s.blobAt e.1 e.2.1
      bytesOf 2 e.1 ++ bytesOf 2 e.2.1 ++ bytesOf 4 v.length ++ v)
    ++ s.versions.flatMap (fun v => bytesOf 4 v)
    ++ ((s.lib.filter fun e => e.2.live).flatMap fun e => bytesOf 2 e.1 ++ bytesOf 4 e.2.version)
    ++ (s.tallies.flatMap fun e => bytesOf 2 e.1 ++ bytesOf 4 e.2.count.toNat ++ bytesOf 4 e.2.holder ++ bytesOf 1 (bitAt e.2.abandoned 0))
    ++ (s.queues.flatMap fun e => bytesOf 2 e.1 ++ bytesOf 2 e.2.items.length ++ e.2.items.flatMap fun h => bytesOf 2 h)
    ++ (s.harq.flatMap fun p => bytesOf 1 p.carrier ++ bytesOf 2 p.rnti ++ bytesOf 1 p.proc ++ bytesOf 1 p.cw ++ bytesOf 1 p.ndi
      ++ bytesOf 1 p.passes ++ p.blocksOwned.flatMap fun b => bytesOf 2 b)
    ++ (s.cores.flatMap fun e => e.2.tagCounter.flatMap fun t => bytesOf 1 e.1 ++ bytesOf 1 t.1 ++ bytesOf 1 t.2)

/-- Bytes in parts of 32,768. -/
def parts : Nat → List Byte → List (List Byte)
  | 0, _ => []
  | n + 1, b => if b = [] then [] else b.take 32768 :: parts n (b.drop 32768)

/-- S0 of a record: adaptation samples are discarded, and the start snapshot is written to the head of the ring (R405). -/
def State.startRecord (s : State) : State :=
  let s1 := (List.range 16).foldl (fun (s : State) k => if s.get (0x4060 + k) 0x0A = 3 then s else s.adaptRestart k) s
  let b := s1.snapshotBytes
  let s2 := { (s1.put 0x5300 0x0B 1).put 0x5300 0x0C 0 with
    replay := { start := s1.cycles, s0 := s1.clock, snap := some s1.takeSnapshot } }
  (parts (b.length + 1) b).foldl (fun (s : State) p => s.replayLog 1 p) s2

/-- S1 of an injection: the snapshot replaces the state it names, and each time base takes its position at S0 (R408). -/
def State.startInject (s : State) : State :=
  match s.replay.snap with
  | none => s
  | some x =>
    let obj := x.obj.foldl (fun t e => Tbl.set (bankDefault e.1) t e.1 e.2) (s.obj.filter fun e => !isSetting e.1)
    let blob := x.blob.foldl (fun t e => Tbl.set (blobDefault e.1) t e.1 e.2) (s.blob.filter fun e => !isSetting e.1)
    let soft := x.soft.foldl (fun m c => memPut m c.1 c.2) (s.mem.filter fun c => !(decide (0xC000000 ≤ c.1 ∧ c.1 < 0xD000000)))
    let s1 := { s with obj := obj, blob := blob, mem := soft, harq := x.harq, tbs := x.tbs,
                       cores := (x.tagCtrs.foldl (fun (s : State) e => s.updCore e.1 fun c => { c with tagCounter := e.2 }) s).cores }
    let s2 := (List.range 255).foldl (fun (s : State) p => { s with
      pools := Tbl.set {} s.pools p (recPool (s.blobAt 0x3180 (p + 1))),
      tpools := Tbl.set {} s.tpools p (recTPool (s.blobAt 0x3300 (p + 1))) }) s1
    { (s2.put 0x5300 0x0B 2).put 0x5300 0x0C 0 with
      tallies := x.tallies, queues := x.queues, heldBy := x.heldBy,
      replay := { s.replay with next := 0, start := s.cycles, s0 := s.clock } }

/-- REPLAY_MODE takes a value at a Serve time. -/
def State.serveReplay (s : State) (mode : Nat) : State :=
  if mode = 1 then s.startRecord
  else if mode = 2 then s.startInject
  else if s.get 0x5300 0x0B = 1 ∨ s.get 0x5300 0x0B = 2 then s.put 0x5300 0x0B 0
  else s

/-! ### Whistle (R358, R402 to R404) -/

def State.whistleTb (s : State) : Nat := s.get 0x5300 1 % 8

/-- To every other member (VC0). -/
def State.toMembers (s : State) (kind : Nat) (b : List Byte) : State :=
  (List.range 24).foldl (fun (s : State) c => if s.isMember c ∧ c ≠ s.chip then s.sendMgl c 0 kind b else s) s

/-- Whether an edge can be armed here (R358). -/
def State.whistleFits (s : State) (n air : Nat) : Bool :=
  airCanonical (s.tbMu n) (s.tbEcp n) air && apOff air == 0 && s.get 0x5300 5 == 0 && decide (98304 ≤ airDiff (s.tb n).tc (s.tcOf n air))

/-- The edge is armed here; `asked` are the members whose answer is awaited. -/
def State.whistleSet (s : State) (n air asked : Nat) : State :=
  { s.put 0x5300 5 1 with whistle := { s.whistle with tb := n, edge := some (s.tcOf n air), asked := asked } }

/-- The members but this chip. -/
def State.otherMembers (s : State) : Nat := ((List.range 24).filter fun c => s.isMember c && c != s.chip).foldl (fun m c => m + 2 ^ c) 0

/-- A write of WHISTLE in force; none where R358 refuses it. The other members are asked to arm the same edge (R402). -/
def State.armWhistle (s : State) (air : Nat) : Option State :=
  let n := s.whistleTb
  if s.whistleFits n air = false then none
  else some ((s.whistleSet n air s.otherMembers).toMembers 9 (bytesOf 1 0x0B ++ bytesOf 8 air ++ bytesOf 1 n))

/-- An armed Whistle that has not been reached is disarmed here. -/
def State.disarmWhistle (s : State) : State := if s.get 0x5300 5 = 1 then { s.put 0x5300 5 0 with whistle := {} } else s

/-- WHISTLE_CANCEL = 1: an armed Whistle that has not been reached is disarmed, on every member. -/
def State.cancelWhistle (s : State) : Option State :=
  if s.get 0x5300 5 = 1 then some (s.disarmWhistle.toMembers 9 (bytesOf 1 0x0F)) else none

/-- WHISTLE_RESUME = 1: the resume boundary is the first of the Whistle's time base at least 98,304 Tc later (R404). -/
def State.resumeWhistle (s : State) : Option State :=
  let n := s.whistle.tb
  let t := (s.tb n).tc + 98304
  let b := if isBoundary (s.tbMu n) (s.tbEcp n) t then t else nextBoundary (s.tbMu n) (s.tbEcp n) t
  if s.get 0x5300 5 ≠ 3 ∨ s.whistle.resume.isSome then none
  else some ({ s with whistle := { s.whistle with resume := some (b % airPeriod) } }.toMembers 9 (bytesOf 1 0x0C ++ bytesOf 8 (s.airOf n (b % airPeriod)) ++ bytesOf 1 n))

/-- WHISTLE: an accepted write arms a stop; another is no change (RANGE). -/
def execWhistle (edge : BitVec 64) (s : State) : Answer := .next ((s.armWhistle edge.toNat).getD s)

/-- WHISTLE_CANCEL. -/
def execWhistleCancel (s : State) : Answer := .next (s.cancelWhistle.getD s)

/-- WHISTLE_RESUME. -/
def execWhistleResume (s : State) : Answer := .next (s.resumeWhistle.getD s)

/-- WHISTLE_EDGE: at W every core stops issue, nothing is released, dispatched or sent, and LATE is set once (R402, R403). -/
def execWhistleEdge (s : State) : Answer :=
  match s.whistle.edge with
  | some t =>
    .next (if s.get 0x5300 5 = 1 ∧ s.reached s.whistle.tb t then
        let s1 := (s.replayLog 0x0B (bytesOf 8 (s.airOf s.whistle.tb (t % airPeriod)))).put 0x5300 5 2
        let s1 := s1.abandonSlices
        let s2 := { s1 with coresStopped := true, whistle := { s1.whistle with since := s1.clock } }
        let s3 := (List.range 16).foldl (fun (s : State) f => s.latch f 3) s2
        ((List.range 32).foldl State.drivePin s3).settle
      else s)
  | none => .next s

/-- Whether every drain of a cut is complete: results landed, lines acknowledged, coding and transform units done (Table 17.7). -/
def State.drained (s : State) : Bool :=
  (s.cores.all fun e => e.2.inflight == [] && e.2.ctxs.all fun x => x.2.engines.all fun g => g.2.outstanding == [])
    && (s.coding.all fun e => e.2.state != 1) && s.transforms.all fun e => e.2.state != 1

/-- CUT_HELD: every drain is complete and the cut is held (R402). -/
def execCutHeld (s : State) : Answer := .next (if s.get 0x5300 5 = 2 ∧ s.drained then s.put 0x5300 5 3 else s)

/-- REPLAY_RING_FULL: a ring that cannot take an entry, a full host IQ ring, or a fenced channel stops recording (R407). -/
def execReplayRingFull (s : State) : Answer :=
  let full : Bool := decide (s.get 0x5300 7 * mb < s.get 0x5300 0x0C + 16) || (s.get 0x5300 8 == 2 && decide (2 ^ 30 ≤ s.replay.iqPos))
    || s.fences.any fun x => x.grain == 9
  .next (if s.get 0x5300 0x0B = 1 ∧ full then s.put 0x5300 0x0B 3 else s)

end Sys2Proof.Machine
end

