-- ==== Sys2Proof/Machine/Serve.lean ====
section
/-! DEFINITION. Rallies: commit, freeze point, Serve time, abort and rollback (R32 to R34, R284, R335 to R343), and what a Serve time puts in
force (R23, R43, R47, R168, R188, R222, R233, R266, R288, R305, R307, R390, R405, R450). -/

namespace Sys2Proof.Machine

open Sys2Proof

/-! ### The Rally table -/

def State.updRally (s : State) (id : Nat) (f : Rally → Rally) : State :=
  { s with rallies := s.rallies.map fun r => if r.id = id then f r else r }

/-- A Rally that the chip holds, by its ID. -/
def State.rallyOf (s : State) (id : Nat) : Option Rally := s.rallies.find? fun r => r.id == id

/-- The Court whose attention a scope's outcome takes. -/
def scopeCourt (scope : Nat) : Nat := if scope = 16 then 0xFF else scope

/-- HISTORY keeps 32 records of a scope; the oldest ended ones leave. -/
def State.trimHistory (s : State) (scope : Nat) : State :=
  if (s.scopeRallies scope).length ≤ 32 then s
  else { s with rallies := s.rallies.eraseP fun r => r.scope == scope && !r.live }

/-- The keys of an activation and of the special-function set. -/
def fwActivateKey : Nat := okey 0x7000 3
def sfPackagesKey : Nat := okey 0x7001 3
def ldpcTableKey : Nat := okey 0x4200 1
def membersKey : Nat := okey 0x2600 5

def Rally.writes (r : Rally) (k : Nat) : Bool := (r.stagedFor k).isSome

/-- A committed activation that is not served: the slot stays verified (R450). -/
def State.dropActivation (s : State) (r : Rally) : State :=
  if r.pending ∧ r.writes fwActivateKey ∧ s.get 0x7000 4 = 3 then s.put 0x7000 4 2 else s

/-- A Rally ends unserved: aborted (cause 1 by the host's RALLY_ABORT) or rolled back (R337, R339, R340). -/
def State.endRally (s : State) (r : Rally) (st : RallyState) (cause : Nat) : State :=
  let s0 := if r.state = .frozen ∧ (r.writes sfPackagesKey ∨ r.writes fwActivateKey) then s.mapCores fun c => { c with sfHeld := none } else s
  let s1 := (s0.dropActivation r).updRally r.id fun x => { x with state := st, cause := cause }
  let s2 := (s1.releaseRallyLoads r.id).bumpB r.scope 0x1200 (if st = .rolledBack then 7 else 6)
  let s3 := if cause = 1 then s2.settle else s2.attend 5 (scopeCourt r.scope)
  s3.trimHistory r.scope

/-! ### Messages of multi-chip Rallies (R314, R315). Their layout is the model's own (log entry 25). -/

def msgPrepare (s : State) (r : Rally) (members : Nat) : List Byte :=
  bytesOf 1 1 ++ bytesOf 4 r.id ++ bytesOf 1 r.scope ++ bytesOf 1 r.tb ++ bytesOf 8 r.serve ++ bytesOf 4 members ++ s.configDigest
    ++ r.staged.flatMap fun w => bytesOf 4 w.key ++ bytesOf 4 w.bytes.length ++ (if w.isBlob then w.bytes else bytesOf 8 w.value)
def msgVote (id : Nat) (yes : Bool) : List Byte := bytesOf 1 2 ++ bytesOf 4 id ++ bytesOf 1 (bitAt yes 0)
def msgDecision (id : Nat) (commit : Bool) : List Byte := bytesOf 1 3 ++ bytesOf 4 id ++ bytesOf 1 (bitAt commit 0)
def msgRetract (id : Nat) : List Byte := bytesOf 1 4 ++ bytesOf 4 id
def msgQuery (id : Nat) : List Byte := bytesOf 1 5 ++ bytesOf 4 id
def msgAck (id : Nat) : List Byte := bytesOf 1 6 ++ bytesOf 4 id
def msgReply (id : Nat) (commit : Bool) : List Byte := bytesOf 1 7 ++ bytesOf 4 id ++ bytesOf 1 (bitAt commit 0)
def msgApplied (id : Nat) (applied : Bool) : List Byte := bytesOf 1 8 ++ bytesOf 4 id ++ bytesOf 1 (bitAt applied 0)

/-- A message of a packet kind to every chip of a set but this one (VC0). -/
def State.toChips (s : State) (mask kind : Nat) (b : List Byte) : State :=
  (List.range 24).foldl (fun (s : State) c => if mask.testBit c ∧ c ≠ s.chip then s.sendMgl c 0 kind b else s) s

/-! ### Commit (R335, R338) -/

/-- The number a Rally that begins is given: the low 8 bits of the boot count, and the Rallies begun, from 1 (R335). -/
def State.nextRallyId (s : State) : Nat × Nat :=
  let n := s.begun % (2 ^ 24 - 1) + 1
  (s.get 0x1001 4 % 256 * 2 ^ 24 + n, n)

/-- MEMBERS as the Rally leaves it. -/
def State.membersAfter (s : State) (r : Rally) : Nat := ((r.stagedFor membersKey).map fun w => w.value).getD (s.get 0x2600 5)
def State.changesMembers (s : State) (r : Rally) : Bool := s.membersAfter r != s.get 0x2600 5

/-- Participants of a Rally that spans chips: those written, and for a membership Rally every chip that is a member after it. -/
def State.participants (s : State) (r : Rally) : Nat :=
  let own := if r.staged = [] then 0 else 2 ^ (s.chip % 24)
  (r.parts ||| own) ||| (if s.changesMembers r then s.membersAfter r else 0)

/-- Whether a Rally spans chips (R342). -/
def State.spans (s : State) (r : Rally) : Bool := s.changesMembers r || r.parts != 0

def lowestChip (mask : Nat) : Nat := ((List.range 24).find? fun c => mask.testBit c).getD 0

/-- The minimum lead in Tc (R33, R450). -/
def State.minLead (s : State) (r : Rally) : Nat :=
  max (if s.spans r then 1966080 else 983040) (if r.writes fwActivateKey then 19660800 else 0)

/-- The keys of a Rally that a rule on time base n concerns. -/
def keysOn (v base : State) (own : List Nat) (n : Nat) : List Nat := own.filter fun k => (tbsOf v base k).contains n

/-- Whether a load is scheduled to end after the latest load point of a Serve time, 98,304 Tc of LOAD_TB before it (R284). -/
def State.loadMisses (s : State) (tb tc : Nat) (l : Load) : Bool :=
  decide ((s.onBase s.loadTb (s.instantAt tb tc)).count - 98304 < (s.onBase s.loadTb l.due).count)

/-- The checks of R338 in order, against `tb` and the Serve time; the answer's code and the first failing object. `lead` is whether R33
applies: not where the checks are repeated at the freeze point (R340). -/
def State.commitCheck (s : State) (r : Rally) (tb air : Nat) (lead : Bool) : Option (Nat × Nat) :=
  let own := r.staged.map fun w => w.key
  let t := s.serveInstant tb air
  let earlier := fun (x : Rally) => x.id != r.id && decide (x.serveAt < t)
  let upTo := fun (x : Rally) => x.id != r.id && decide (x.serveAt ≤ t)
  let before := s.applied (s.stagedBy earlier)
  let base := s.applied (s.stagedBy upTo)
  let v := base.applied r.staged
  let bad := (List.range 8).filter fun n => keysOn v base own n != [] && !(boundaryAt v before s t n)
  let named : Bool := airCanonical (before.tbMu tb) (before.tbEcp tb) air && apOff air == 0
  let ahead := t - s.clock
  if (s.tb tb).enabled = false then some (0x14, 0)
  else if named = false then some (0x14, 0)
  else if bad ≠ [] then some (0x14, lowestKey (bad.flatMap fun n => keysOn v base own n))
  else if (600 * 1966080000 : Int) < ahead then some (0x14, 0)
  else if lead ∧ ahead < (s.minLead r : Int) then some (0x22, 0)
  else
    let key := s.taiKey tb (s.ofMono tb t)
    let clash := s.rallies.any fun x => x.pending && x.id != r.id && x.staged.any (fun w => own.contains w.key)
      && !(keyBefore (s.taiKey x.tb (s.ofMono x.tb x.serveAt)) key)
    if clash then some (0x20, 0)
    else if r.loadRefused ∨ (s.loads.any fun l => l.rally == r.id && s.loadMisses tb (s.tcOf tb air % airPeriod) l) then some (0x22, 0)
    else
      let f := (v.failing base s r.scope own tb t).filter fun k => own.contains k
      if f = [] then none else some (0x14, lowestKey f)

/-- A commit that has passed its checks. A Rally that spans chips begins its prepare phase: PREPARE goes to every participant, and this
chip votes yes where it takes part (R314). -/
def State.commitRally (s : State) (r : Rally) (tb air : Nat) : State :=
  let t := s.serveInstant tb air
  let sp := s.spans r
  let ps := if sp then s.participants r else 0
  let deps := (s.rallies.filter fun x => x.pending && x.id != r.id && decide (x.serveAt ≤ t)).map fun x => x.id
  let x : Rally := { r with state := .committed, tb := tb, serve := air, serveAt := t, commitNo := s.commits + 1, deps := deps, spans := sp,
                            parts := ps, coord := if sp then lowestChip ps else s.chip, yes := if ps.testBit s.chip then 2 ^ s.chip else 0,
                            vote := if ps.testBit s.chip then some true else none }
  let s1 := { s.updRally r.id fun _ => x with commits := s.commits + 1 }
  let s2 := if r.writes fwActivateKey then s1.put 0x7000 4 3 else s1
  let s3 := if sp then s2.toChips ps 2 (msgPrepare s2 x (s.membersAfter r)) else s2
  s3.settle

/-- RALLY_COMMIT of an open Rally: refused with a code and an object, or committed. -/
def State.tryCommit (s : State) (r : Rally) (tb air : Nat) : State × Option (Nat × Nat) :=
  if 7 ≤ (s.rallies.filter fun x => x.pending && x.scope == r.scope).length then (s, some (0x14, 0))
  else match s.commitCheck r tb air true with
    | some e => (s, some e)
    | none => (s.commitRally r tb air, none)

/-! ### Abort (R337, R339) -/

/-- An open Rally ends with its staging: its participants are told. -/
def State.abortOpen (s : State) (r : Rally) (cause : Nat) : State :=
  (s.endRally r .aborted cause).toChips r.parts 5 (msgDecision r.id false)

/-- RALLY_IDLE_TIMEOUT: the open Rally of a scope that nothing has named for its RALLY_IDLE is aborted (R337). -/
def execRallyIdleTimeout (scope : Fin 17) (s : State) : Answer :=
  match s.openRally scope with
  | some r => .next (if spansUs (s.getB scope 0x1200 1 * 1000) r.lastUse s.clock then s.abortOpen r 2 else s)
  | none => .next s

/-! ### The freeze point (R168, R233, R284, R339, R340) -/

/-- Whether a core can load a new special-function set: one of its banks is named by no resident context (R167). -/
def Core.bankFree (c : Core) : Bool := c.freeBanks != []

/-- Whether a Rally changes the special-function set (R168, R451, R453). -/
def Rally.writesSf (r : Rally) : Bool := r.writes sfPackagesKey || r.writes fwActivateKey

/-- The cores that hold a special-function set for a Court. -/
def State.courtCores (s : State) : List Nat := (List.range 64).filter fun n => decide (s.coreCourt n < 16)

/-- A free bank of every such core is taken for the new set: the one that does not hold the newest set, where it is free. -/
def Core.holdBank (c : Core) : Core :=
  let newest := (c.setFor (2 ^ 32)).bind fun x => x.bank
  match c.freeBanks.find? (fun b => some b != newest), c.freeBanks.head? with
  | some b, _ => { c.emptyBank b with sfHeld := some b }
  | none, some b => { c.emptyBank b with sfHeld := some b }
  | none, none => c
def State.holdBanks (s : State) : State := s.courtCores.foldl (fun (s : State) n => s.updCore n Core.holdBank) s

/-- Whether a UL_DECODE that is queued or running uses the older LDPC table set (R233). -/
def State.oldTableBusy (s : State) : Bool :=
  s.jobs.any fun e => e.2.live && e.2.kind == 5 && e.2.queued && e.2.state != .completed && e.2.state != .fenced
    && decide (e.2.epoch < Tbl.get 0 s.ldpcEpoch e.2.court)

/-- Why a committed Rally cannot be served: 0 if it can. -/
def State.freezeCause (s : State) (r : Rally) : Nat :=
  if r.loadRefused ∨ s.loadsEnded r.id = false then 4
  else if r.writesSf ∧ (s.courtCores.any fun n => !(s.core n).bankFree) then 5
  else if r.writes ldpcTableKey ∧ s.oldTableBusy then 5
  else if (r.deps.any fun d => (s.rallyOf d).elim false fun x => x.state == .rolledBack)
      ∧ (s.commitCheck r r.tb r.serve false).isSome then 9
  else 0

/-- The coordinator's decision reaches this chip: the Rally is frozen, or rolled back with its vote (R315, R339). -/
def State.takeDecision (s : State) (r : Rally) (commit : Bool) : State :=
  if r.pending = false ∨ r.decision.isSome then s
  else
    let s1 := s.updRally r.id fun x => { x with decision := some commit }
    if commit then (if r.writesSf then s1.holdBanks else s1).updRally r.id fun x => { x with state := .frozen } else s1.endRally { r with decision := some false } .rolledBack 7

/-- A Rally at its latest load point. One that spans chips and cannot keep its vote retracts it (R314). -/
def State.freezeOne (s : State) (r : Rally) : State :=
  let c := s.freezeCause r
  if r.spans then
    (if c ≠ 0 ∧ r.decision = none ∧ r.vote = some true then
      (s.updRally r.id fun x => { x with vote := some false }).toChips (2 ^ r.coord) 4 (msgRetract r.id) else s)
  else if c = 0 then (if r.writesSf then s.holdBanks else s).updRally r.id fun x => { x with state := .frozen }
  else s.endRally r .rolledBack c

/-- The latest load point of a committed Rally, 98,304 Tc before its Serve time on its time base, has been reached (R340). -/
def State.atFreeze (s : State) (r : Rally) : Bool := s.reached r.tb ((s.tcOf r.tb r.serve + airPeriod - 98304) % airPeriod)

/-- Every committed Rally whose latest load point has been reached freezes or is rolled back. -/
def State.freezeDue (s : State) : State :=
  (s.pendingInOrder.filter fun r => r.state == .committed && s.atFreeze r).foldl
    (fun (s : State) r => (s.rallyOf r.id).elim s fun x => if x.state = .committed then s.freezeOne x else s) s

/-- FREEZE_POINT. -/
def execFreezePoint (s : State) : Answer := .next s.freezeDue

/-! ### What a Serve time puts in force -/

/-- The number of the first symbol of a time base, from its present position on, whose boundary has not passed or is now. -/
def State.symbolFrom (s : State) (n : Nat) : Nat :=
  let k := symbolOf (s.tbMu n) (s.tbEcp n) (s.tb n).tc
  if k.2 = 0 then k.1 else k.1 + 1

/-- Time bases enabled or disabled; a follower whose FRAME_OFFSET changes; the symbol count under a new numerology; steps that will be applied (R30, R34,
R42, R43). A time base that is enabled counts on from where it stands. -/
def State.serveTb (old : State) (own : List Nat) (s : State) (n : Nat) : State :=
  let on := s.get (tbIx n) 1 == 1
  let s1 :=
    if on ∧ (s.tb n).enabled = false then
      ((s.setTb n { s.tb n with enabled := true, good := 0, bad := 0, slew := 0, step := 0, nextSym := s.symbolFrom n }).setTally
        (0xFFF8 + n) {}).tbEnter n .freerun 0
    else if on = false ∧ (s.tb n).enabled then
      (s.setTb n { s.tb n with enabled := false, prim := none, fb := none, slew := 0, step := 0, onFallback := false, inUse := false,
                               masters := [], lastSync := none }).tbEnter n .disabled 0
    else if s.tbMu n ≠ old.tbMu n ∨ s.tbEcp n ≠ old.tbEcp n then
      s.setTb n { s.tb n with nextSym := s.symbolFrom n - (old.symbolFrom n - (s.tb n).nextSym) }
    else s
  let d := asI64 (s.get (tbIx n) 4) - asI64 (old.get (tbIx n) 4)
  let s1 := if d ≠ 0 ∧ old.tbFollows n ∧ s1.tbFollows n then
      s1.setTb n (if s1.tbReferenced n then { s1.tb n with slew := (s1.tb n).slew + d } else { s1.tb n with tc := (((s1.tb n).tc : Int) + d).toNat })
    else s1
  let st := signed 64 (s1.get (tbIx n) 0x0F)
  if own.contains (okey (tbIx n) 0x0F) ∧ st ≠ 0 then s1.setTb n { s1.tb n with step := (s1.tb n).step + st } else s1

/-- New and changed pools (R188, R288). -/
def State.servePools (s old : State) (own : List Nat) : State :=
  let ps := (List.range 255).filter fun p => own.contains (okey 0x3180 (p + 1)) && s.blobAt 0x3180 (p + 1) != old.blobAt 0x3180 (p + 1)
  let ts := (List.range 255).filter fun p => own.contains (okey 0x3300 (p + 1)) && s.blobAt 0x3300 (p + 1) != old.blobAt 0x3300 (p + 1)
  let s1 := ps.foldl State.dropPool s
  let s2 := ps.foldl (fun (s : State) p => s.makePool p (s.blobAt 0x3180 (p + 1))) s1
  ts.foldl (fun (s : State) p => s.makeTPool p (s.blobAt 0x3300 (p + 1))) s2

/-- Adaptation of a Court: ADAPT_ENABLE and ADAPT_MODEL, and a candidate that the served writes reference (R222). -/
def State.serveAdapt (s old : State) (own : List Nat) (k : Nat) : State :=
  let i := 0x4060 + k
  let cand := s.get i 0x0B
  let named : Bool := cand != 0 && own.any fun key => key / 256 != i && (match modelsOf key (s.get (key / 256) (key % 256)) (s.blobAt (key / 256) (key % 256)) with
    | some l => l.contains cand
    | none => false)
  if s.get i 1 ≠ old.get i 1 ∨ s.get i 2 ≠ old.get i 2 then s.adaptRestart k
  else if named then (s.put i 0x0B 0).adaptRestart k
  else s

/-- A core that changes its Court: its selectors and counters are 0 (R457); its newest special-function set counts for every epoch of the new one. -/
def State.serveCore (s : State) (n : Nat) : State :=
  { s.updCore n fun c => { c with sfSets := ((c.setFor (2 ^ 32)).toList.map fun x => { x with since := 0 }) } with obj := s.obj.filter fun e => !(e.1 / 256 == 0x8000 + n && decide (0x10 ≤ e.1 % 256) && decide (e.1 % 256 < 0x30)) }

/-- The special-function set of every core of a Court, in the bank taken for it: jobs of the new epoch use it, jobs released earlier complete on the
old set (R168, R453). The built-in tables come with the core runtime that an activation names (R451). -/
def State.serveSf (s : State) (image : Nat) : State :=
  (List.range 64).foldl (fun (s : State) n =>
    let k := s.coreCourt n
    if 16 ≤ k then s
    else s.updCore n fun c =>
      let progs := s.microIds.foldl (fun t m => Tbl.set [] t (fieldOf (s.model m).data 4 1) (s.model m).data) []
      let old := c.sfSets.map fun x => { x with image := some (x.image.getD (s.get 0x1001 2)) }
      match c.sfHeld with
      | some b => { c with sfSets := old, sfHeld := none }.loadBank b { since := s.epochOf k, image := some image, progs := progs }
      | none => { c with sfSets := (old.filter fun x => x.since != s.epochOf k) ++ [{ since := s.epochOf k, image := some image, progs := progs }] }) s

/-- Membership (R305, R307, R317, R318): MEMBER_EPOCH; the Kickoff of a chip that becomes a member, with SYSCYCLE 0 where no member was
running, else at the value of the running members, which no operand gives (a free value); slices of readmitted chips. -/
def State.serveMembers (s old : State) : State :=
  let o := old.get 0x2600 5
  let m := s.get 0x2600 5
  if m = o then s
  else
    let s1 := s.bump 0x2600 8
    let joins : Bool := m.testBit s.chip && !o.testBit s.chip
    let first : Bool := o == 0 && lowestChip m == s.chip
    let s2 := if joins then
        (if first then { s1 with mgl := { s1.mgl with kickoff := some s1.cycles, kickBase := 0 } }
         else { s1.bumpFree with mgl := { s1.mgl with kickoff := some s1.cycles, kickBase := s1.free.toNat % 2 ^ 64 } })
      else s1
    let s3 := if m.testBit s.chip then s2.put 0x2600 0x0D 0 else if o.testBit s.chip then { s2 with harq := [] } else s2
    (List.range 24).foldl (fun (s : State) c =>
      let t := (if m.testBit c then s.put (0x2640 + c) 1 2 else s.put (0x2640 + c) 1 0)
      let u := if m.testBit c ∧ ¬ o.testBit c then
          { t with mgl := { t.mgl with heard := Tbl.set 0 t.mgl.heard c (t.clock + 1) } } else t
      if m.testBit c then u.liftFence 10 c 0 else u.cplaneLost c) s3.serveTrees

/-- An activation is served: the new control firmware runs, and cores will switch their runtime (R450, R451). -/
def State.serveActivation (s : State) (slot : Nat) : State :=
  let h := (if slot = 0 then s.firm.slot0 else s.firm.slot1).header
  let s1 := { s with firm := { s.firm with activated := some (slot, s.clock), switched := 0 } }
  (s1.put 0x1001 1 (fieldOf h 8 4)).put 0x1001 5 slot

/-- Everything that follows from the values that a Serve time has put in force. `own` are the keys written, `courts` the Courts served. -/
def State.serveEffects (s old : State) (own : List Nat) (courts : List Nat) : State :=
  let s1 := (List.range 8).foldl (State.serveTb old own) s
  let s2 := (List.range 8).foldl State.followSync s1
  let s3 := ((List.range 8).foldl State.tbSettle s2).followStates
  let s4 := ((List.range 32).filter fun p => own.any fun k => k / 256 == pinIx p && decide (k % 256 ≤ 0x0D)).foldl
    (fun (s : State) p => s.pinServed old p) s3
  let s5 := s4.servePools old own
  let s6 := (List.range 16).foldl (fun (s : State) k => s.serveAdapt old own k) s5
  let s7 := ((List.range 64).filter fun n => s.coreCourt n != old.coreCourt n).foldl State.serveCore s6
  let runtime := if own.contains fwActivateKey then
      fieldOf (if s7.get 0x7000 3 = 0 then s7.firm.slot0 else s7.firm.slot1).header 12 4 else s7.get 0x1001 2
  let s8 := if own.contains sfPackagesKey ∨ own.contains fwActivateKey then s7.serveSf runtime else s7
  let s9 := if own.contains ldpcTableKey then { s8 with ldpcEpoch := (List.range 16).map fun k => (k, s8.epochOf k) } else s8
  let s10 := s9.serveMembers old
  let s11 := if own.contains fwActivateKey then s10.serveActivation (s10.get 0x7000 3) else s10
  let s12 := courts.foldl (fun (s : State) k => s.liftFence 4 k 0) s11
  let s13 := ((List.range 16).filter fun p => own.contains (okey (0x2200 + p) 1)).foldl (fun (s : State) p =>
    let s := if s.get (0x2200 + p) 1 = 0 ∨ s.isFenced 5 p then s.put (0x2200 + p) 4 0 else s
    (s.liftFence 5 p 0).settle) s12
  if own.contains (okey 0x5300 6) then s13.serveReplay (s13.get 0x5300 6) else s13

/-- Time bases disabled by a Serve time: Rallies that name them are rolled back (R34). -/
def State.orphanRallies (s : State) : State :=
  (s.rallies.filter fun r => r.pending && (s.tb r.tb).enabled == false).foldl (fun (s : State) r => s.endRally r .rolledBack 6) s

/-- RWC values of the Courts' epochs that end, kept for the jobs that carry them (R23). -/
def State.keepPast (s : State) (courts : List Nat) : State :=
  let carried := fun (k e : Nat) => s.jobs.any fun j => j.2.live && j.2.court == k && j.2.epoch == e && j.2.state != .waiting && j.2.state != .completed
  let old := s.past.filter fun p => carried p.court p.epoch
  let new := (courts.filter fun k => carried k (s.epochOf k)).map fun k =>
    { court := k, epoch := s.epochOf k, obj := s.obj.filter fun e => isSetting e.1, blob := s.blob.filter fun e => isSetting e.1 }
  { s with past := old ++ new }

/-- Rallies of one Serve time take effect together, in commit order; each Court's epoch and the device-wide one advance once (R341). -/
def State.serveGroup (s : State) (l : List Rally) : State :=
  let w := l.flatMap fun r => r.staged
  let own := w.map fun x => x.key
  let device : Bool := l.any fun r => r.scope == 16
  let courts := (List.range 16).filter fun k => device || l.any fun r => r.scope == k
  let s1 := (s.keepPast courts).applied w
  let s2 := courts.foldl (fun (s : State) k => s.bumpB k 0x1200 4) s1
  let s3 := if device then s2.bumpB 16 0x1200 4 else s2
  let s4 := s3.serveEffects s own courts
  let s5 := l.foldl (fun (s : State) r =>
    let t := ((s.updRally r.id fun x => { x with state := .served, epoch := s.getB r.scope 0x1200 4 }).serveRallyLoads r.id).bumpB r.scope 0x1200 5
    let u := if r.spans then t.toChips (2 ^ r.coord) 5 (msgApplied r.id true) else t
    u.trimHistory r.scope) s4
  s5.orphanRallies.settle

/-- Jobs that may be released, in the order of their releases and then of their JOB_IDs: those due before instant `upTo` of the model's clock, or all. -/
def State.releaseInOrder (upTo : Option Int) : Nat → State → State
  | 0, s => s
  | n + 1, s =>
    let pos := fun (j : Nat) => s.mono (s.job j).tb (s.releasePos j)
    let due := fun (j : Nat) => s.releasable j && upTo.all fun m => decide (pos j < m)
    match firstBy (fun i j => decide (pos i < pos j ∨ (pos i = pos j ∧ i < j))) ((s.jobs.filter fun e => due e.1).map fun e => e.1) with
    | some j => (s.releaseJob j).releaseInOrder upTo n
    | none => s

/-- Frozen Rallies whose time base has reached their Serve time, earliest first, in at most n groups; those of one Serve time together (R34, R341). -/
def State.serveAll : Nat → State → State
  | 0, s => s
  | n + 1, s =>
    match s.pendingInOrder.find? fun r => r.state == .frozen && s.reached r.tb (s.tcOf r.tb r.serve % airPeriod) with
    | some r =>
      -- what is due before the Serve time is released on the epoch before it (R23)
      let s := s.releaseInOrder (some (s.mono r.tb (s.tcOf r.tb r.serve % airPeriod))) s.jobs.length
      (s.serveGroup (s.pendingInOrder.filter fun x => x.state == .frozen && x.serveAt == r.serveAt && s.reached x.tb (s.tcOf x.tb x.serve % airPeriod))).serveAll n
    | none => s

/-- Every Serve time that has been reached. -/
def State.serveDue (s : State) : State := s.freezeDue.serveAll s.rallies.length

/-- SERVE_TIME: while a cut is held or taken it waits for the resume (R358). -/
def execServeTime (s : State) : Answer := .next (if s.cut then s else s.serveDue)

/-! ### The resume from a cut (R404) -/

/-- Instants of slices and holds are moved by the length of the cut; the watchdog has not counted it. -/
def shiftCore (d : Nat) (c : Core) : Core := { c with sliceStart := if c.jobMode then c.sliceStart + d else c.sliceStart }
def shiftTally (d : Nat) (y : Tally) : Tally :=
  { y with since := if y.holder = 0 then y.since else y.since + d, waiters := y.waiters.map fun w => { w with since := w.since + d } }

/-- Orders announced during the cut take the samples of the resume. -/
def Ring.resample (tb : Nat) (edge : Nat) (now : List Nat) (r : Ring) : Ring :=
  { r with samples := r.samples.map fun x => if 0 < airDiff edge ((x.2[tb]?).getD 0) then (x.1, now) else x }

/-- RESUME_BOUNDARY: at the resume boundary cores and timers go on, late pins are driven again, deferred jobs are released and Rallies
served. -/
def execResumeBoundary (s : State) : Answer :=
  match s.whistle.resume with
  | some t =>
    .next (if s.get 0x5300 5 ≠ 3 ∨ s.reached s.whistle.tb t = false then s
      else
        let d := s.clock - s.whistle.since
        let edge := s.whistle.edge.getD 0
        let now := (List.range 8).map fun n => (s.tb n).tc
        let s1 := (s.put 0x5300 5 0).replayLog 0x0B (bytesOf 8 (s.airOf s.whistle.tb t))
        let s2 := { s1.mapCores (shiftCore d) with
                    coresStopped := s.power.tripped, whistle := {}, tallies := Tbl.mapV {} s1.tallies (shiftTally d),
                    funcs := Tbl.mapV {} s1.funcs fun f => { f with rings := Tbl.mapV {} f.rings (Ring.resample s.whistle.tb edge now) } }
        let s3 := (List.range 32).foldl State.drivePin s2
        ((List.range 8).foldl State.pumpAll (s3.serveDue.releaseInOrder none s3.jobs.length)).settle)
  | none => .next s

end Sys2Proof.Machine
end

