-- ==== Sys2Proof/Machine/Megorlink.lean ====
section
/-! DEFINITION. Megorlink: received flits, retry and retrains, members, votes, reductions (R295 to R318), and the audit of the books
with its remedies (R196, R197, R242, R286, R297). -/

namespace Sys2Proof.Machine

open Sys2Proof

/-! ### Training and port fences (R300, R301) -/

/-- Instants of TB0 within the last `tc` Tc. -/
def recent (now tc : Nat) (l : List Nat) : List Nat := l.filter fun t => decide (0 ≤ airDiff t now ∧ airDiff t now ≤ (tc : Int))

/-- Flits that wait for their acknowledgement are dealt to the trunk's other ports. -/
def State.redeal (s : State) (p : Nat) : State :=
  let x := s.mport p
  let l := x.replay.map fun e => e.2
  match (List.range 8).find? fun q => q != p && s.mportState q == 2 && s.peerOf q == x.peer with
  | some q => ((s.setMport p { x with replay := [] }).setMport q { s.mport q with waiting := (s.mport q).waiting ++ l }).pumpAll q
  | none => s.setMport p { x with replay := [], waiting := l ++ x.waiting }

/-- A port retrains; the third retrain within 1 s of TB0 fences it. -/
def State.retrain (s : State) (p : Nat) : State :=
  let now := (s.tb 0).tc
  let l := recent now 1966080000 (s.mport p).trains ++ [now]
  let s1 := ((s.put (mpIx p) 4 1).bump (mpIx p) 8).redeal p
  let s2 := s1.setMport p { s1.mport p with trains := l, retries := [], since := some s.clock }
  (if 3 ≤ l.length then (s2.put (mpIx p) 4 3).fenceObject 6 p 0x47 l.length 0xFF else s2).settle

/-- LANE_LOCK_LOSS. -/
def execLaneLockLoss (port : Fin 8) (s : State) : Answer :=
  .next (if s.mportState port = 2 ∨ s.mportState port = 4 then s.retrain port else s)

/-- A retry of a port: RETRIES, PROT, and beyond RETRY_LIMIT within 1 ms of TB0 a retrain (R299, R300). It is counted where the flit was
found bad (DEDUCED; Table 17.6). -/
def State.retry (s : State) (p : Nat) : State :=
  let now := (s.tb 0).tc
  let l := recent now 1966080 (s.mport p).retries ++ [now]
  let s1 := ((s.bump (mpIx p) 7).setMport p { s.mport p with retries := l }).violation 0xFF
  if s.get 0x2600 0x0B < l.length then s1.retrain p else s1

/-- RETRAIN_DONE: the peer is checked; the port is UP, or in MISMATCH. Both directions begin again at sequence number 0 with every credit
(DEDUCED). -/
def execRetrainDone (port : Fin 8) (peerChip peerPort : BitVec 8) (s : State) : Answer :=
  let p := port.val
  let wc := s.get (mpIx p) 2
  let wp := s.get (mpIx p) 3
  let bad : Bool := (wc != 0xFF && wc != peerChip.toNat) || (wp != 0xFF && wp != peerPort.toNat) || (s.chip != 0xFF && s.chip == peerChip.toNat)
  .next (if s.mportState p ≠ 1 ∨ s.get (mpIx p) 1 ≠ 1 then s
    else
      let x := s.mport p
      let s1 := s.setMport p { x with nextTx := 0, expect := 0, nakSent := false, replay := [], credits := [32, 96, 64, 64],
                                      toReturn := [0, 0, 0, 0], peer := peerChip.toNat, since := none }
      ((s1.put (mpIx p) 4 (if bad then 4 else 2)).pumpAll p).settle)

/-- PORT_RETRAIN = 1: the port's fence is released and it trains; its earlier retrains count no more. -/
def State.portRetrain (s : State) (p : Nat) : State :=
  if s.get (mpIx p) 1 ≠ 1 then s
  else ((s.liftFence 6 p 0).setMport p { s.mport p with trains := [] }).retrain p

def execPortRetrain (port : Fin 8) (s : State) : Answer := .next (s.portRetrain port)

/-! ### Received flits (R295, R297, R299) -/

def flNat (f : List Byte) (lo w : Nat) : Nat := bits (fieldOf f 0 8) lo w
def flTrailer (f : List Byte) (lo w : Nat) : Nat := bits (fieldOf f 264 8) lo w

/-- The CRC of a flit passes. -/
def flitOk (f : List Byte) : Bool := f.length == 272 && (crc32 (f.take 264)).toNat == flTrailer f 32 32

/-- A reserved bit or TYPE, or the unknown KIND of a DATA flit. -/
def flitUnknown (f : List Byte) : Bool :=
  flNat f 0 16 != 0 || flTrailer f 0 19 != 0 || decide (3 < flNat f 60 4) || (flNat f 60 4 == 1 && !knownKind (flNat f 16 8))

/-- Credits return and flits are acknowledged. -/
def State.flitNews (s : State) (p : Nat) (f : List Byte) : State :=
  let x := s.mport p
  let v := flNat f 56 2
  let total := ([32, 96, 64, 64][v]?).getD 0
  let x1 := { x with credits := x.credits.set v (min total ((x.credits[v]?).getD 0 + flNat f 48 8)) }
  let x2 := if flTrailer f 19 1 = 1 then
      (match x1.replay.findIdx? fun e => e.1 == flTrailer f 20 12 with
        | some i => { x1 with replay := x1.replay.drop (i + 1) }
        | none => x1)
    else x1
  s.setMport p x2

/-- The sender resends its replay buffer from a sequence number on; flits before it have been accepted. Resent flits take no credit. -/
def State.resend (s : State) (p seq : Nat) : State :=
  let x := s.mport p
  match x.replay.findIdx? fun e => e.1 == seq with
  | some i =>
    let l := x.replay.drop i
    l.foldl (fun (s : State) e => (s.emit (.data 7 (256 + p) (s.dataFlit p e.1 e.2))).countGlobal (0x1010 + p) 1) (s.setMport p { x with replay := l })
  | none => s

/-- NAK_RX. -/
def execNakRx (port : Fin 8) (seq : BitVec 12) (s : State) : Answer :=
  .next (if s.mportState port = 2 then s.resend port seq.toNat else s)

/-- One NAK names the expected sequence number; flits are discarded until it arrives. -/
def State.nak (s : State) (p : Nat) : State :=
  let x := s.mport p
  if x.nakSent then s else ((s.setMport p { x with nakSent := true }).sendControl p 2 x.expect 0).retry p

/-- TIME_FLIT: half the round trip less the peer's turnaround, plus ASYMMETRY, is the port's link delay (R306). -/
def execTimeFlit (port : Fin 8) (roundTrip turnaround : BitVec 32) (s : State) : Answer :=
  let d : Int := ((roundTrip.toNat : Int) - turnaround.toNat) / 2 + asI32 (s.get (mpIx port) 6)
  .next (if s.mportState port = 2 then s.put (mpIx port) 5 (d % 2 ^ 32).toNat else s)

/-! ### Members (R317) -/

def State.sysTb (s : State) : Nat := s.get 0x2600 6 % 8
def State.memberState (s : State) (c : Nat) : Nat := s.get (0x2640 + c) 1

/-- The lowest-numbered member that is not LOST. -/
def State.actingCoordinator (s : State) : Option Nat :=
  (List.range 24).find? fun c => (s.get 0x2600 5).testBit c && s.memberState c != 3

/-- A VC0 packet reaches the control complex: it is recorded (R405), and ignored while a record is injected (R408). -/
def State.vc0 (s : State) (packet : List Byte) (f : State → State) : State := if s.injecting then s else f (s.replayLog 6 packet)

/-- A heartbeat of chip c. -/
def State.heartbeatIn (c : Nat) (s : State) : State :=
  if (s.get 0x2600 5).testBit c then
    { s.put (0x2640 + c) 3 (s.airNow s.sysTb) with mgl := { s.mgl with heard := Tbl.set 0 s.mgl.heard c (s.clock + 1) } }
  else s

/-- MEMBER_HEARTBEAT: every 10 µs this chip sends its own; one that arrives is noted with its air position on SYS_TB. -/
def execMemberHeartbeat (from_ : Option (Fin 24)) (s : State) : Answer :=
  match from_ with
  | none =>
    .next (if (s.get 0x2600 5).testBit s.chip ∧ s.get 0x2600 0x0D = 0 ∧ spansUs 10 s.mgl.lastBeat s.clock then
        { s.toMembers 0 (bytesOf 1 0x10) with mgl := { (s.toMembers 0 (bytesOf 1 0x10)).mgl with lastBeat := s.clock } }
      else s)
  | some c =>
    .next (s.vc0 (bytesOf 1 0x10 ++ bytesOf 1 c) (State.heartbeatIn c))

/-- The first symbol boundary of SYS_TB at or after a count that is a boundary of every time base of the enabled carriers (R32, R317). -/
def State.commonBoundary (s : State) (t : Nat) : Nat → Nat
  | 0 => t
  | n + 1 =>
    let b := s.sysTb
    let tbs := ((List.range 32).filter fun c => s.car c 1 != 0).map fun c => s.carTb c
    let m := s.mono b (t % airPeriod)
    if tbs.all fun k => isBoundary (s.tbMu k) (s.tbEcp k) (s.ofMono k m) then t
    else s.commonBoundary (nextBoundary (s.tbMu b) (s.tbEcp b) t) n

/-- The membership Rally that removes the chips that are LOST (R22, R317): committed with its Serve time at least 1 ms ahead. -/
def State.removeLost (s : State) : State :=
  let b := s.sysTb
  let t0 := (s.tb b).tc + 1966080
  let t1 := if isBoundary (s.tbMu b) (s.tbEcp b) t0 then t0 else nextBoundary (s.tbMu b) (s.tbEcp b) t0
  let t := s.commonBoundary t1 20000
  let m := (List.range 24).foldl (fun m c => if s.memberState c = 3 then m ^^^ (m &&& 2 ^ c) else m) (s.get 0x2600 5)
  let n := s.nextRallyId
  let r : Rally := { id := n.1, scope := 16, staged := [⟨membersKey, m, [], false⟩], chan := 0xFFFF, lastUse := s.clock }
  { s with begun := n.2, rallies := s.rallies ++ [r] }.commitRally r b (s.airOf b (t % airPeriod))

/-- LOST_TIMEOUT: a member unheard by the coordinator for LOST_TIMEOUT is LOST, and the coordinator unheard by another. The chip that coordinates fences its slice and commits the Rally without it;
where the coordinator is lost, the lowest-numbered member takes over. -/
def execLostTimeout (chip : Fin 24) (s : State) : Answer :=
  let c := chip.val
  let h := Tbl.get 0 s.mgl.heard c
  let silent : Bool := h != 0 && spansUs (s.get 0x2600 0x0A) ((h : Int) - 1) s.clock
  let watches : Bool := s.actingCoordinator == some s.chip || s.actingCoordinator == some c
  .next (if (s.get 0x2600 5).testBit c = false ∨ c = s.chip ∨ s.memberState c = 3 ∨ silent = false ∨ watches = false then s
    else
      let s1 := s.put (0x2640 + c) 1 3
      if s1.actingCoordinator = some s1.chip ∧ (s.get 0x2600 5).testBit s.chip then
        ((s1.fenceObject 10 c 0x49 (s.get 0x2600 0x0A) 0xFF).sendMgl c 0 7 (bytesOf 1 c)).removeLost
      else s1)

/-! ### Votes (R314 to R316) -/

/-- A Rally that spans chips, by the ID its messages carry. A Rally of another chip is held under that ID above 2^32. -/
def State.voteRally (s : State) (id : Nat) : Option Rally := s.rallies.find? fun r => r.spans && r.id % 2 ^ 32 == id

/-- A write of a PREPARE is one of an object that this chip takes in a Rally. -/
def writeOk (w : RallyWrite) : Bool :=
  match objRow w.index.toNat w.sub.toNat with
  | some r => r.access == .rwc && checkValue r w.value == 0
  | none => false

/-- The writes of a PREPARE as staged writes. -/
def stagedWrites (l : List RallyWrite) : List Staged :=
  l.filterMap fun w => (objRow w.index.toNat w.sub.toNat).map fun r => stagedOf r w.index.toNat w.sub.toNat w.value

/-- Loads of the models that some writes name and the Bench does not hold (R284). -/
def State.loadFor (s : State) (id : Nat) (l : List Staged) : State :=
  let ms := (l.flatMap fun w => (modelsOf w.key w.value w.bytes).getD []).filter realModel |>.eraseDups
  ms.foldl (fun (s : State) m =>
    if s.loading m ∨ (s.resident m).live then s
    else
      let q := s.requestLoad m id false
      if q.2 then q.1 else q.1.updRally id fun x => { x with loadRefused := true }) s

/-- What a PREPARE carries. -/
structure PrepareMsg where
  coord : Nat
  rally : Nat
  court : Nat
  tb : Nat
  serve : Nat
  parts : Nat
  writes : List RallyWrite
  digest : List Byte
  aligned : Bool
  deriving DecidableEq, Repr

def PrepareMsg.packet (m : PrepareMsg) : List Byte :=
  bytesOf 1 1 ++ bytesOf 4 m.rally ++ bytesOf 1 m.coord ++ bytesOf 1 m.court ++ bytesOf 1 m.tb ++ bytesOf 8 m.serve ++ bytesOf 4 m.parts
    ++ bytesOf 1 (bitAt m.aligned 0) ++ bytesOf 1 m.digest.length ++ m.digest
    ++ m.writes.flatMap fun w => bytesOf 2 w.index.toNat ++ bytesOf 1 w.sub.toNat ++ bytesOf 4 w.value.length ++ w.value

/-- A PREPARE reaches a participant, which holds the Rally and votes (R314). SYS_TB of the coordinator need only be enabled, another member's
be aligned to it (R307). -/
def State.prepareIn (m : PrepareMsg) (s : State) : State :=
  let id := m.rally + 2 ^ 32
  let open_ : Option Rally := s.rallies.find? fun r => r.id == id && r.state == .opened
  if m.parts.testBit s.chip = false ∨ (open_.isNone ∧ (s.voteRally m.rally).isSome) then s
  else
    let s : State := { s with rallies := s.rallies.filter fun r => !(r.id == id) }
    let w := stagedWrites m.writes
    let r : Rally := { id := id, scope := if m.court < 16 then m.court else 16, state := .committed, tb := m.tb, serve := m.serve, spans := true,
                       staged := w, parts := m.parts, coord := m.coord, lastUse := s.clock, serveAt := s.serveInstant m.tb m.serve,
                       commitNo := s.commits + 1, chan := 0xFFFF }
    let s1 := ({ s with rallies := s.rallies ++ [r], commits := s.commits + 1 }).loadFor id w
    let r1 := (s1.rallyOf id).getD r
    let member : Bool := w.any fun x => x.key == membersKey
    let own : Bool := m.coord == s.chip
    let up : Bool := if own then (s.tb s.sysTb).enabled else m.aligned
    let yes : Bool := m.writes.all writeOk && (s1.commitCheck { r1 with state := .opened } m.tb m.serve true).isNone
      && (!member || (m.digest == s.configDigest && up))
    let s2 := s1.updRally id fun x => { x with vote := some yes, yes := if yes && own then 2 ^ s.chip else 0, noes := if !yes && own then 2 ^ s.chip else 0 }
    (s2.toChips (2 ^ m.coord) 3 (msgVote m.rally yes)).settle

/-- PREPARE. -/
def execPrepare (coord : Fin 24) (rally : BitVec 32) (court : BitVec 8) (tb : Fin 8) (serve : BitVec 64) (parts : BitVec 24)
    (writes : List RallyWrite) (digest : List Byte) (aligned : Bool) (s : State) : Answer :=
  let m : PrepareMsg := ⟨coord, rally.toNat, court.toNat, tb, serve.toNat, parts.toNat, writes, digest, aligned⟩
  .next (s.vc0 m.packet (State.prepareIn m))

/-- The coordinator's decision: COMMIT when every participant has voted yes, none has retracted and none is LOST (R315). It is sent to
every participant, and to chips that the Rally removes. -/
def State.decideRally (s : State) (r : Rally) : State :=
  let lost : Bool := (List.range 24).any fun c => r.parts.testBit c && s.memberState c == 3
  let commit : Bool := r.yes &&& r.parts == r.parts && r.noes == 0 && !lost
  let s1 := if commit then s else s.bump 0x2600 0x0E
  let gone := s.get 0x2600 5 ^^^ (s.get 0x2600 5 &&& s.membersAfter r)
  let s2 := (s1.updRally r.id fun x => { x with sentAt := s.clock, acks := if r.parts.testBit s.chip then 2 ^ s.chip else 0 }).toChips
    (r.parts ||| gone) 5 (msgDecision (r.id % 2 ^ 32) commit)
  (s2.takeDecision ((s2.rallyOf r.id).getD r) commit).settle

/-- Whether this chip coordinates a Rally that is not decided. -/
def State.undecided (s : State) (r : Rally) : Bool := r.coord == s.chip && r.decision.isNone && r.pending

/-- A vote of chip c; with the last one the coordinator decides. -/
def State.voteIn (c id : Nat) (yes : Bool) (s : State) : State :=
  match s.voteRally id with
  | some r =>
    if s.undecided r = false ∨ r.parts.testBit c = false ∨ (r.yes ||| r.noes).testBit c then s
    else
      let r1 := if yes then { r with yes := r.yes ||| 2 ^ c } else { r with noes := r.noes ||| 2 ^ c }
      let s1 := s.updRally r.id fun _ => r1
      if (r1.yes ||| r1.noes) &&& r.parts = r.parts then s1.decideRally r1 else s1
  | none => s

/-- VOTE_RX. -/
def execVoteRx (chip : Fin 24) (rally : BitVec 32) (yes : Bool) (s : State) : Answer :=
  .next (s.vc0 (msgVote rally.toNat yes ++ bytesOf 1 chip) (State.voteIn chip rally.toNat yes))

/-- A retraction of chip c counts until the decision. -/
def State.retractIn (c id : Nat) (s : State) : State :=
  match s.voteRally id with
  | some r => if s.undecided r ∧ r.parts.testBit c then s.updRally r.id fun x => { x with noes := x.noes ||| 2 ^ c } else s
  | none => s

/-- RETRACT: this chip can no longer meet its yes vote and says so; or a retraction arrives (R314). -/
def execRetract (rally : BitVec 32) (from_ : Option (Fin 24)) (s : State) : Answer :=
  match from_ with
  | some c => .next (s.vc0 (msgRetract rally.toNat ++ bytesOf 1 c) (State.retractIn c rally.toNat))
  | none =>
    match s.voteRally rally.toNat with
    | some r =>
      .next (if r.vote = some true ∧ r.decision.isNone ∧ r.pending ∧ s.freezeCause r ≠ 0 then
          (s.updRally r.id fun x => { x with vote := some false, noes := if r.coord = s.chip then x.noes ||| 2 ^ s.chip else x.noes }).toChips
            (2 ^ r.coord) 4 (msgRetract rally.toNat)
        else s)
    | none => .next s

/-- Whether the instant `us` microseconds before a Rally's Serve time has been reached. -/
def State.beforeServe (s : State) (r : Rally) (us : Nat) : Bool :=
  decide (airDiff (s.tb r.tb).tc (s.tcOf r.tb r.serve % airPeriod) ≤ (usToTc us : Int))

/-- VOTE_DEADLINE: at S − 500 µs the coordinator decides. -/
def execVoteDeadline (rally : BitVec 32) (s : State) : Answer :=
  match s.voteRally rally.toNat with
  | some r => .next (if s.undecided r ∧ s.beforeServe r 500 then s.decideRally r else s)
  | none => .next s

/-- A participant takes and acknowledges the decision; one that comes after it has aborted changes nothing. Writes relayed to this chip, of a Rally
that ended before its PREPARE, are discarded with it (R342). -/
def State.decisionIn (id : Nat) (commit : Bool) (s : State) : State :=
  match s.voteRally id with
  | some r =>
    let s1 := if r.state = .opened ∧ commit = false then s.endRally r .aborted 7 else s.takeDecision r commit
    (s1.toChips (2 ^ r.coord) 5 (msgAck id)).settle
  | none => s

/-- DECISION_RX. -/
def execDecisionRx (rally : BitVec 32) (commit : Bool) (s : State) : Answer :=
  .next (s.vc0 (msgDecision rally.toNat commit) (State.decisionIn rally.toNat commit))

/-- DECISION_REPEAT: acknowledgements arrive; every 20 µs the decision goes again to those that have not acknowledged it. -/
def execDecisionRepeat (rally : BitVec 32) (acks : BitVec 24) (s : State) : Answer :=
  match s.voteRally rally.toNat with
  | some r =>
    match r.decision with
    | some d =>
      .next (if r.coord ≠ s.chip then s
        else
          let a := r.acks ||| acks.toNat
          let left := r.parts ^^^ (r.parts &&& a)
          let s1 := s.updRally r.id fun x => { x with acks := a }
          if left ≠ 0 ∧ spansUs 20 r.sentAt s.clock then
            (s1.updRally r.id fun x => { x with sentAt := s.clock }).toChips left 5 (msgDecision rally.toNat d)
          else s1)
    | none => .next s
  | none => .next s

/-- A query of chip c is answered with what this chip holds. -/
def State.queryIn (c id : Nat) (s : State) : State :=
  s.toChips (2 ^ c) 6 (msgReply id (match s.voteRally id with
    | some r => r.decision == some true
    | none => false))

/-- DECISION_QUERY: a participant that holds no decision at S − 50 µs asks every participant; or a query arrives. -/
def execDecisionQuery (rally : BitVec 32) (from_ : Option (Fin 24)) (s : State) : Answer :=
  match from_ with
  | some c => .next (s.vc0 (msgQuery rally.toNat ++ bytesOf 1 c) (State.queryIn c rally.toNat))
  | none =>
    match s.voteRally rally.toNat with
    | some r => .next (if r.decision.isNone ∧ r.pending ∧ s.beforeServe r 50 then s.toChips r.parts 6 (msgQuery rally.toNat) else s)
    | none => .next s

/-- This chip has reached no other participant: it leaves the membership (R315). -/
def State.isolate (s : State) : State :=
  ((s.put 0x2600 0x0D 1).put (0x2640 + s.chip % 24) 1 4).attend 13 0xFF

/-- QUERY_CUTOFF: at S − 20 µs a participant without a decision commits if a reply was COMMIT, else aborts; one that no participant has
answered is isolated. -/
def execQueryCutoff (rally : BitVec 32) (replies : List (Fin 24 × Bool)) (s : State) : Answer :=
  match s.voteRally rally.toNat with
  | some r =>
    .next (if r.decision.isSome ∨ r.pending = false ∨ s.beforeServe r 20 = false then s
      else if replies.any fun x => r.parts.testBit x.1 && x.2 then s.takeDecision r true
      else
        let s1 := (s.endRally { r with decision := some false } .aborted 7).toChips (2 ^ r.coord) 5 (msgApplied rally.toNat false)
        (if replies = [] then s1.isolate else s1).settle)
  | none => .next s

/-! ### Reductions (R21, R308, R310) -/

/-- Exact sums, element by element. -/
def addSums : List (Int × Int) → List (Int × Int) → List (Int × Int)
  | [], l => l
  | l, [] => l
  | a :: r, b :: t => (a.1 + b.1, a.2 + b.2) :: addSums r t

/-- The bytes of a unit: its key and mask, then INT48 pairs. -/
def RedHeld.packet (u : RedHeld) : List Byte :=
  bytesOf 1 u.carrier ++ bytesOf 4 u.sym ++ bytesOf 1 u.chunk ++ bytesOf 1 u.kind ++ bytesOf 1 u.home ++ bytesOf 3 u.mask
    ++ u.sums.flatMap fun p => bytesOf 6 (p.1 % 2 ^ 48).toNat ++ bytesOf 6 (p.2 % 2 ^ 48).toNat

def RedHeld.is (u : RedHeld) (c n k j h : Nat) : Bool := u.carrier == c && u.sym == n && u.chunk == k && u.kind == j && u.home == h

/-- The job of this chip that a unit belongs to. -/
def State.unitJob (s : State) (c n k j : Nat) : Option Nat :=
  (s.jobs.find? fun e => e.2.live && e.2.kind == j && e.2.carrier == c && e.2.chunk == k && s.jobSymbol e.2 % 2 ^ 32 == n).map fun e => e.1

/-- An empty unit, with the membership of its job's epoch and its place in the home's tree over those members (R305, R308); before its job is
released, of the epoch in force. -/
def State.newUnit (s : State) (c n k j h : Nat) : RedHeld :=
  let s : State := ((s.unitJob c n k j).map fun i => if (s.job i).state = .waiting then s else s.forJob i).getD s
  let t := s.treeOf (s.get 0x2600 5) h
  { carrier := c, sym := n, chunk := k, kind := j, home := h, members := s.get 0x2600 5, kids := (t.filter fun e => e.parent == s.chip && e.chip != s.chip).map fun e => e.chip,
    up := ((t.find? fun e => e.chip == s.chip).map fun e => e.parent).getD 0xFF }

/-- REDUCTION_UNIT_RX: a child's unit, or this chip's own (`src` is this chip), is added exactly. A member that has its own and every
child's forwards the sum toward the home; the home accepts a unit whose mask is the membership. A chip of a system of one keeps its own sums.
A member whose slice is fenced here contributes exact zeros (R22). -/
def execReductionUnitRx (src : Fin 24) (unit : RedUnit) (s : State) : Answer :=
  let u := unit
  let c := u.carrier.val
  let n := u.sym.toNat
  let k := u.chunk.toNat
  let j := u.kind.toNat
  let h := u.home.val
  let x := (s.mgl.units.find? fun e => e.is c n k j h).getD (s.newUnit c n k j h)
  let rest := s.mgl.units.filter fun e => !e.is c n k j h
  if s.get 0x2600 5 = 0 ∨ s.get 0x2600 0x0D = 1 ∨ x.done ∨ x.via.contains src ∨ (src.val ≠ s.chip ∧ x.kids.contains src.val = false) then .next s
  else
    let zero : Bool := src.val == s.chip && s.isFenced 10 s.chip
    let y := { x with mask := x.mask ||| u.mask.toNat, sums := if zero then addSums x.sums (u.sums.map fun _ => (0, 0)) else addSums x.sums u.sums,
                      via := x.via ++ [src.val] }
    let all : Bool := y.via.contains s.chip && y.kids.all fun q => y.via.contains q
    .next (if h = s.chip then { s with mgl := { s.mgl with units := rest ++ [{ y with done := y.mask == y.members }] } }
      else if all then { s with mgl := { s.mgl with units := rest } }.sendVia y.up h 1 (if j = 3 then 12 else 11) y.packet
      else { s with mgl := { s.mgl with units := rest ++ [y] } })

/-- REDUCTION_ABANDON: at the deadline of the job that consumes it, a unit that is not at its home is given up; each missing member's
REDUCE_MISSED counts, and at the home the job's elements are as a fenced job's, with cause MEMBER_LOST. -/
def execReductionAbandon (carrier : Fin 32) (sym : BitVec 32) (chunk kind : BitVec 8) (home : Fin 24) (s : State) : Answer :=
  let c := carrier.val
  let n := sym.toNat
  let k := chunk.toNat
  let j := kind.toNat
  let h := home.val
  let held := s.mgl.units.find? fun e => e.is c n k j h
  let x := held.getD (s.newUnit c n k j h)
  let job := if h = s.chip then s.unitJob c n k j else none
  let early : Bool := job.any fun i => match (s.job i).deadline with
    | some d => !(s.reached (s.job i).tb (s.tcOf (s.job i).tb d))
    | none => true
  .next (if x.done ∨ (held.isNone ∧ job.isNone) ∨ early then s
    else
      let miss := (List.range 24).filter fun q => x.members.testBit q && !x.mask.testBit q
      let s1 := miss.foldl (fun (s : State) q => s.bump (0x2640 + q) 4) { s with mgl := { s.mgl with units := s.mgl.units.filter fun e => !e.is c n k j h } }
      match job with
      | some i => s1.setJob i { s1.job i with lost := true, done := true, cause := 0x49 }
      | none => s1)

/-! ### Remote access (R311) -/

/-- REMOTE_ACCESS_TIMEOUT: the oldest outstanding line of an engine goes to another chip and has not been answered within 20 µs: the
engine faults with reason 0x0C, and its credit returns. -/
def execRemoteAccessTimeout (core : Fin 64) (slot engine : Fin 4) (s : State) : Answer :=
  let g := s.engine core slot engine
  match g.outstanding with
  | p :: r =>
    .next (if p < 128 then s
      else ({ s.setEngine core slot engine { g with outstanding := r } with credits := Tbl.upd 0 s.credits p fun c => c - 1 }).faultCtx core slot
        evSTREAM (0x00030000 + engine.val * 256 + 0x0C))
  | [] => .next s

/-! ### The audit (R196, R197, R242, R286, R297) -/

/-- Lines outstanding to a destination port. -/
def State.linesOut (s : State) (p : Nat) : Nat :=
  (s.cores.flatMap fun e => e.2.ctxs.flatMap fun x => x.2.engines.flatMap fun g => g.2.outstanding.filter fun q => q == p).length

/-- What the books of one kind and object are off by. -/
def State.poolDiff (s : State) (p : Nat) : Int :=
  let q := ((s.queues.filter fun e => e.2.live && e.2.pool == p).map fun e => e.2.items.length).sum
  let h := (s.heldBy.filter fun e => e.1 / 1024 == p && e.2 != 0).length
  ((q + h : Nat) : Int) - (s.pool p).count
def State.creditDiff (s : State) (p : Nat) : Int := (s.linesOut p : Int) - Tbl.get 0 s.credits p
def State.tallyDiff (s : State) (p : Nat) : Int :=
  let x := Tbl.get {} s.tpools p
  ((s.tallies.filter fun e => decide (x.first ≤ e.1 ∧ e.1 < x.first + x.count)).map fun e => e.2.issued - e.2.applied).sum
/-- Bench pages that a Rally reserves between its prepare and its Serve time: the audit leaves them out (R196). -/
def State.reservedPages (s : State) : List Nat :=
  ((s.bench.filter fun e => e.2.live && e.2.rally != 0).flatMap fun e => e.2.pages) ++ (s.loads.filter fun l => l.rally != 0).flatMap fun l => l.pages
def State.benchDiff (s : State) : Int :=
  let out := s.reservedPages
  let n := fun (l : List Nat) => (l.filter fun p => !out.contains p).length
  ((n s.benchFree + (s.bench.map fun e => n e.2.pages).sum + (s.loads.map fun l => n l.pages).sum + n (s.swapped.map fun w => w.page) : Nat) : Int)
    - n ((List.range 384).filter fun p => Tbl.get 0 s.benchPages p != 0x30000)
def State.harqDiff (s : State) : Int := ((s.softFree.length + s.softOwned.length : Nat) : Int) - s.softTotal

/-- Every book that is out of balance, with its difference. Both ends of a link take part in its own: `links` gives port, virtual channel and
difference. -/
def State.imbalances (s : State) (links : List (Fin 8 × Fin 4 × Int)) : List (Imbalance × Int) :=
  (((List.range 255).filter fun p => (s.pool p).live).map fun p => (Imbalance.mk 0 p, s.poolDiff p))
    ++ (List.range 152).map (fun p => (Imbalance.mk 1 p, s.creditDiff p))
    ++ (links.filter fun x => s.mportState x.1 == 2).map (fun x => (Imbalance.mk 2 (x.1.val * 4 + x.2.1.val), x.2.2))
    ++ (((List.range 255).filter fun p => (Tbl.get {} s.tpools p).live).map fun p => (Imbalance.mk 3 p, s.tallyDiff p))
    ++ [(Imbalance.mk 4 0, s.benchDiff), (Imbalance.mk 5 0, s.harqDiff)]
  |>.filter fun e => e.2 != 0

/-- The Court of a book. -/
def State.bookCourt (s : State) (i : Imbalance) : Nat :=
  if i.quantity = 0 then (s.pool i.object).court else if i.quantity = 3 then (Tbl.get {} s.tpools i.object).court else 0xFF

/-- The start of the symbol in which a time base stands. -/
def State.symbolStart (s : State) (n : Nat) : Nat :=
  symbolTc (s.tbMu n) (s.tbEcp n) (symbolOf (s.tbMu n) (s.tbEcp n) (s.tb n).tc).1

/-- An imbalance found again: BOOKS, LAST_IMBALANCE, and a remedy at the first boundary of AUDIT_TB at least 500 µs on. -/
def State.books (s : State) (n edge : Nat) (e : Imbalance × Int) : State :=
  let t := edge + 983040
  let b := if isBoundary (s.tbMu n) (s.tbEcp n) t then t else nextBoundary (s.tbMu n) (s.tbEcp n) t
  let rec_ := bytesOf 8 (s.airOf n edge) ++ bytesOf 1 e.1.quantity ++ bytesOf 2 e.1.object ++ bytesOf 1 0 ++ bytesOf 4 (e.2 % 2 ^ 32).toNat
  { s.putBlob 0x3191 5 rec_ with audit := { s.audit with due := s.audit.due ++ [(e.1, n, b % airPeriod)] } }.attend 7 (s.bookCourt e.1)

/-- AUDIT_EDGE: the audit at the boundary that begins the present symbol of AUDIT_TB, at least 8 µs after the last one. -/
def execAuditEdge (linkDiffs : List (Fin 8 × Fin 4 × Int)) (s : State) : Answer :=
  let n := s.get 0x3191 1 % 8
  let edge := s.symbolStart n
  let soon : Bool := s.audit.last.any fun l => decide ((airDiff l.2 (s.tb l.1).tc - airDiff edge (s.tb n).tc) * 100 < 8 * 196608)
  .next (if s.cut ∨ (s.tb n).enabled = false ∨ soon then s
    else
      let l := s.imbalances linkDiffs
      let again := l.filter fun e => s.audit.found.contains e.1 && !(s.audit.due.any fun d => d.1 == e.1)
      let s1 := s.bump 0x3191 2
      let s2 := if l = [] then s1 else s1.bump 0x3191 3
      let s3 := { s2 with audit := { s2.audit with last := some (n, edge), found := l.map fun e => e.1 } }
      again.foldl (fun (s : State) e => s.books n edge e) s3)

/-- Jobs that the remedy of a book fences. -/
def State.bookHolders (s : State) (i : Imbalance) : List Nat :=
  let ctxJobs := fun (p : Ctx → Bool) => s.cores.flatMap fun e => (e.2.ctxs.filter fun x => x.2.state != .free && p x.2).map fun x => x.2.job
  if i.quantity = 0 then s.poolHolders i.object
  else if i.quantity = 1 then ctxJobs fun x => x.engines.any fun g => g.2.outstanding.contains i.object
  else if i.quantity = 3 then
    let y := Tbl.get {} s.tpools i.object
    let inPool := fun (t : Nat) => decide (y.first ≤ t ∧ t < y.first + y.count)
    (ctxJobs fun x => (x.waitOn.any fun w => inPool w.1) || x.engines.any fun g => match g.2.wait with
        | .tally t _ => g.2.state == .wait && inPool t
        | _ => false)
      ++ (s.tallies.filter fun e => inPool e.1).flatMap (fun e => e.2.waiters.map fun w => w.job)
      ++ ((List.range 64).filter fun n => (s.core n).held && (s.core n).jobMode && (s.heldWait n).any fun w => inPool w.1).map
        (fun n => (s.core n).curCtx.job)
      ++ (s.swapped.filter fun w => w.ctx.waitOn.any fun q => inPool q.1).map fun w => w.ctx.job
  else if i.quantity = 5 then (s.jobs.filter fun e => e.2.live && e.2.kind == 5 && e.2.state != .completed && e.2.state != .fenced
      && s.coding.any fun g => g.2.job == e.1 && g.2.state == 1).map fun e => e.1
  else []

/-- Loads restart one after the other; a Rally whose load now misses its latest load point is rolled back. -/
def State.restartLoads (s : State) : State :=
  let ls := s.loads
  let s1 := ls.foldl (fun (s : State) l => { s with loads := s.loads ++ [{ l with done := 0, mirrored := false, due := s.loadDue l.pages.length }] }) { s with loads := [] }
  (s1.rallies.filter fun r => r.pending && s1.loads.any fun l => l.rally == r.id && s1.loadMisses r.tb (s1.tcOf r.tb r.serve % airPeriod) l).foldl
    (fun (s : State) r => s.endRally r .rolledBack 8) s1

/-- The page map as the directory of resident models, loads and swapped-out contexts names it; contexts whose page was not accounted for
are fenced. -/
def State.rebuildBench (s : State) : State :=
  let bad := (s.swapped.filter fun w => Tbl.get 0 s.benchPages w.page != 0x20000).map fun w => w.ctx.job
  let keep := (List.range 384).foldl (fun t p => if Tbl.get 0 s.benchPages p = 0x30000 then Tbl.set 0 t p 0x30000 else t) ([] : Tbl Nat)
  let s1 := s.bench.foldl (fun (s : State) e => s.ownPages e.2.pages (0x10000 + e.1)) { s with benchPages := keep }
  let s2 := s1.loads.foldl (fun (s : State) l => s.ownPages l.pages (0x10000 + l.model)) s1
  let s3 := s2.ownPages (s.swapped.map fun w => w.page) 0x20000
  (bad.foldl (fun (s : State) j => s.fenceJobAnywhere j 0x41 4) s3).restartLoads

/-- The books of one kind and object are made anew. -/
def State.reinit (s : State) (i : Imbalance) : State :=
  let p := i.object
  if i.quantity = 0 then (s.dropPool p).makePool p (s.blobAt 0x3180 (p + 1))
  else if i.quantity = 1 then
    { s.mapCores fun c => { c with ctxs := Tbl.mapV {} c.ctxs fun x =>
        { x with engines := Tbl.mapV {} x.engines fun g => { g with outstanding := g.outstanding.filter fun q => q != p } } } with
      credits := Tbl.set 0 s.credits p 0 }
  else if i.quantity = 2 then s.retrain (p / 4 % 8)
  else if i.quantity = 3 then s.makeTPool p (s.blobAt 0x3300 (p + 1))
  else if i.quantity = 4 then s.rebuildBench
  else { s with harq := s.harq.map Harq.flush }

/-- The remedy of one book (R197). -/
def State.applyRemedy (s : State) (i : Imbalance) : State :=
  let s1 := (s.bookHolders i).eraseDups.foldl (fun (s : State) j => s.fenceJobAnywhere j 0x41 i.quantity) s
  ((s1.reinit i).bump 0x3191 4).settle

/-- REMEDY: at its boundary every remedy that is due is applied. -/
def execRemedy (s : State) : Answer :=
  let now := s.audit.due.filter fun d => s.reached d.2.1 d.2.2
  .next (if s.cut then s
    else now.foldl (fun (s : State) d => s.applyRemedy d.1)
      { s with audit := { s.audit with due := s.audit.due.filter (fun d => !s.reached d.2.1 d.2.2),
                                       found := s.audit.found.filter fun i => !now.any fun d => d.1 == i } })

end Sys2Proof.Machine
end

