-- ==== Sys2Proof/Machine/Power.lean ====
section
/-! DEFINITION. Power, the core frequency and voltage, throttling, Gusts and temperature (R409 to R425). -/

namespace Sys2Proof.Machine

open Sys2Proof

def State.mhz (s : State) : Nat := s.get 0x5100 2
def State.capMw (s : State) : Nat := s.get 0x5000 1 * 1000
def State.clockMode (s : State) : Nat := s.get 0x5000 2

/-- F_nom and F_max (R414). -/
def State.fNom (s : State) : Nat := if s.clockMode = 2 then s.get 0x5000 3 else 900
def State.fMax (s : State) : Nat :=
  let m := if s.clockMode = 0 then 900 else if s.clockMode = 1 then s.get 0x5000 4 else s.get 0x5000 3
  let h := s.get 0x5000 5
  if h = 0 then m else min m h

/-- The Tc count of the power time base: TB0, else the lowest-numbered enabled time base, else Tc from OSC_IN (R413). -/
def State.powerTc (s : State) : Nat :=
  match (List.range 8).find? fun n => (s.tb n).enabled with
  | some n => (s.tb n).tc
  | none => s.clock

/-! ### Throttle reasons (R418 to R420) -/

/-- The reasons in force, as THROTTLE_NOW shows them (Table 18.3). -/
def State.reasons (s : State) : Nat :=
  let low : Bool := decide (s.mhz < s.fNom)
  let p : Bool := decide (s.power.permitPower < s.fNom)
  bitAt (low && p && s.get 0x5000 9 == 0) 0 + bitAt (low && decide (s.power.permitCurrent < s.fNom)) 1
    + bitAt (low && decide (s.power.permitThermal < s.fNom)) 2 + bitAt (s.power.gusts != []) 3
    + bitAt (low && s.get 0x5000 5 != 0 && decide (s.get 0x5000 5 < s.fNom)) 4 + bitAt (low && p && s.get 0x5000 9 == 1) 5

/-- A reason enters or leaves: its count, its duration. -/
def State.reasonStep (new : Nat) (s : State) (r : Nat) : State :=
  let t := Tbl.get 0 s.power.since r
  if new.testBit (r - 1) ∧ t = 0 then
    { s.bump 0x5002 r with power := { s.power with since := Tbl.set 0 s.power.since r (s.clock + 1) } }
  else if new.testBit (r - 1) = false ∧ t ≠ 0 then
    { s with power := { s.power with since := Tbl.set 0 s.power.since r 0, acc := Tbl.upd 0 s.power.acc r fun a => a + (s.clock + 1 - t) } }
  else s

/-- The reasons are formed again. -/
def State.throttle (s : State) : State :=
  let new := s.reasons
  (([1, 2, 3, 4, 5, 6].foldl (State.reasonStep new) s).put 0x5000 0x0B new).settle

/-- Fixed-frequency mode is held from the edge at which F equals FIXED_MHZ (R420). -/
def State.holdFixed (s : State) : State :=
  { s with power := { s.power with held := s.clockMode == 2 && (s.power.held || s.mhz == s.get 0x5000 3) } }

/-! ### Telemetry (R409 to R412) -/

/-- P_used: 1.15 P_est while telemetry is lost, else the larger of P_meas and the mean of P_est over its 100 µs (R410, R412). -/
def State.putUsed (s : State) : State :=
  s.put 0x5000 8 (if s.get 0x5000 9 = 1 then s.get 0x5000 7 * 115 / 100 else max (s.get 0x5000 6) s.power.estMean)

/-- The comparison of P_meas and P_est (R411). -/
def State.comparePower (s : State) : State :=
  if s.get 0x5000 9 = 1 then { s with power := { s.power with overSince := none, withinSince := none } }
  else
    let m := s.get 0x5000 6
    let e := s.power.estMean
    let d := if m ≤ e then e - m else m - e
    if s.capMw < 5 * d then
      let t := s.power.overSince.getD s.clock
      let s1 := { s with power := { s.power with overSince := some t, withinSince := none } }
      if s.pwrm = false ∧ 1966080000 < (s.clock - t) * 100 then ({ s1 with pwrm := true }.bump 0x5000 0x0D).settle else s1
    else
      let t := s.power.withinSince.getD s.clock
      let s1 := { s with power := { s.power with overSince := none, withinSince := some t } }
      if s.pwrm ∧ 1966080000 ≤ (s.clock - t) * 100 then { s1 with pwrm := false }.settle else s1

/-- Readings of a round: what a rail has answered replaces what is known of it. -/
def readings (old : List Nat) (now : List (Option Nat)) : List Nat :=
  (List.range 6).map fun i => ((now[i]?).join).getD ((old[i]?).getD 0)

/-- PMBUS_ROUND: a round over the six rails of Table 18.1 completes. A rail that did not answer validly keeps its last reading; P_meas is that
of the last round in which every rail answered. Ten such rounds in a row bring telemetry back. -/
def execPmbusRound (mw : List (Option (BitVec 32))) (ocWarning : Bool) (s : State) : Answer :=
  let r := mw.map fun o => o.map BitVec.toNat
  let all : Bool := (List.range 6).all fun i => ((r[i]?).join).isSome
  let p := s.power
  let good := if all then p.goodRounds + 1 else 0
  let x := { p with pout := readings p.pout r, validAt := readings p.validAt (r.map fun o => o.map fun _ => s.clock), goodRounds := good,
                    estMean := if p.estCount = 0 then p.estMean else p.estSum / p.estCount, estSum := 0, estCount := 0,
                    ocWarning := ocWarning, ocClearAt := if p.ocWarning ∧ ocWarning = false then s.clock else p.ocClearAt }
  let s1 := { s with power := x }
  let s2 := if all then s1.put 0x5000 6 x.pout.sum else s1
  let s3 := if 10 ≤ good then s2.put 0x5000 9 0 else s2
  .next s3.putUsed.comparePower.throttle

/-- ESTIMATE_TICK: P_est is formed; while telemetry is lost P_used follows it (R412). -/
def execEstimateTick (mw : BitVec 32) (s : State) : Answer :=
  let s1 := { s with power := { s.power with estSum := s.power.estSum + mw.toNat, estCount := s.power.estCount + 1 } }.put 0x5000 7 mw.toNat
  .next (if s.get 0x5000 9 = 1 then s1.putUsed else s1)

/-- TELEMETRY_LOST: a rail has given no valid reading for 1 ms. -/
def execTelemetryLost (s : State) : Answer :=
  .next (if s.power.validAt.any fun t => spansUs 1000 t s.clock then
      ({ s with power := { s.power with goodRounds := 0 } }.put 0x5000 9 1).putUsed.comparePower.throttle
    else s)

/-! ### Changes of F (R413 to R417) -/

/-- TJ_NOW and THERM_LIMIT in m°C. -/
def State.tj (s : State) : Int := asI32 (s.get 0x5010 1)
def State.thermLimit (s : State) : Int := asI32 (s.get 0x5010 4)

/-- What the power limiter permits (Table 18.2). -/
def State.permitPower (s : State) : Nat :=
  let f := s.mhz
  let used := s.get 0x5000 8
  let cap := s.capMw
  if cap < used then f - 25 * min 8 (max 1 ((used - cap) * 100 / max 1 cap))
  else if used * 100 ≤ 97 * cap ∧ s.tj ≤ s.thermLimit - 5000 then f + 25
  else f

/-- What the current limiter permits. From the clearing of the bit to 1 ms later F does not rise (DEDUCED). -/
def State.permitCurrent (s : State) : Nat :=
  if s.power.ocWarning then s.mhz - 100
  else if s.power.ocClearAt ≠ 0 ∧ spansUs 1000 s.power.ocClearAt s.clock = false then s.mhz
  else 1100

/-- What the thermal limiter permits; between its two temperatures, after it has acted, F does not rise (DEDUCED). -/
def State.permitThermal (s : State) : Nat :=
  if s.thermLimit < s.tj then s.mhz - 50 else if s.power.thermal then s.mhz else 1100

/-- A change of F to a target begins: a raise writes the voltage, and both relock the spare PLLs, unless a Gust is on. The voltage of a
frequency is fused at manufacture; its number is not in the message (log entry 26). -/
def State.startMove (s : State) (target : Nat) : State :=
  let f := s.mhz
  if s.power.move.isSome ∨ target = f ∨ (f < target ∧ s.power.avsOk = false) then s
  else
    let m : FreqMove := { target := target, voltage := decide (target < f), voltageSince := s.clock,
                          relockFrom := if s.power.gusts = [] then some s.clock else none }
    let s1 := { s with power := { s.power with move := some m } }
    if f < target then s1.emit (.data 9 0 (bytesOf 2 target)) else s1

/-- The target of a decision: the smallest of F_max and what the limiters permit, at least 300 MHz. -/
def State.decisionTarget (s : State) : Nat :=
  max 300 (min s.fMax (min s.power.permitPower (min s.power.permitCurrent s.power.permitThermal)))

/-- Whether the power time base is at an edge of a period; a count that moves by 2 Tc may step over the multiple itself (R44). -/
def State.atEdge (s : State) (period : Nat) : Bool := decide (s.powerTc % period < 2)

/-- DECISION_EDGE: at a multiple of 196,608 Tc of the power time base the limiters decide. -/
def execDecisionEdge (s : State) : Answer :=
  let e := s.powerTc / 196608
  .next (if s.power.lastEdge = some e ∨ s.power.tripped ∨ s.mhz = 0 ∨ s.atEdge 196608 = false then s
    else
      let s0 := s.countGlobal 0x1030 1
      let hot : Bool := if s.thermLimit < s.tj then true else if s.tj ≤ s.thermLimit - 2000 then false else s.power.thermal
      let s1 := { s0 with power := { s0.power with lastEdge := some e, thermal := hot } }
      let s2 := { s1 with power := { s1.power with permitPower := s1.permitPower, permitCurrent := s1.permitCurrent, permitThermal := s1.permitThermal,
                                                   ocStepAt := if s1.power.ocWarning then s1.clock else s1.power.ocStepAt } }
      (s2.holdFixed.startMove s2.decisionTarget).throttle)

/-- PM_ALERT: the alert of the regulator: the current limiter will act at the first power-step edge at least 5 µs later. -/
def execPmAlert (s : State) : Answer :=
  .next (if s.power.alert.isSome then s else { s with power := { s.power with alert := some s.clock, ocWarning := true } })

/-- CURRENT_LIMIT_REPEAT: the current limiter acts: on an alert at the edge it waits for, and every 25 µs while the warning stands. -/
def execCurrentLimitRepeat (s : State) : Answer :=
  let edge := s.powerTc % 8192
  let alert : Bool := s.power.alert.any fun t => spansUs 5 t ((s.clock : Int) - edge)
  .next (if s.power.ocWarning ∧ s.atEdge 8192 ∧ (alert ∨ spansUs 25 s.power.ocStepAt s.clock) ∧ s.power.move.isNone ∧ s.mhz ≠ 0 then
      let s1 := { s with power := { s.power with alert := none, ocStepAt := s.clock, permitCurrent := s.mhz - 100 } }
      (s1.startMove (max 300 (min s.mhz (s.mhz - 100)))).throttle
    else s)

/-- AVSBUS_SETTLED: the regulator reports its voltage settled, or 50 µs have passed without it: a raise is abandoned, and none is tried until
AVSBus answers. At power-up the first acknowledgement starts the core clocks at the mode's nominal frequency (R416). -/
def execAvsbusSettled (mv : Option (BitVec 16)) (s : State) : Answer :=
  match mv with
  | some v =>
    let s1 := { s.put 0x5000 0x0A v.toNat with power := { s.power with avsOk := true, move := s.power.move.map fun m => { m with voltage := true } } }
    .next (if s.mhz = 0 then (s1.put 0x5100 2 s.fNom).holdFixed.throttle else s1)
  | none =>
    .next (if s.power.move.any fun m => !m.voltage && spansUs 50 m.voltageSince s.clock then
        { s with power := { s.power with avsOk := false, move := none } }
      else s)

/-- PLL_RELOCK_DONE: every spare PLL has locked to the new frequency. -/
def execPllRelockDone (s : State) : Answer :=
  .next { s with power := { s.power with move := s.power.move.map fun m => if m.relockFrom.isSome then { m with relocked := true } else m } }

/-- The clock of coding engines under a core frequency (R414). -/
def codingMhz (f : Nat) : Nat := if f < 900 then 1000 * f / 900 / 25 * 25 else 1000

/-- F takes the target. In fixed-frequency mode, once held, an entry below FIXED_MHZ is a breach. A lower voltage is written after the
switch. -/
def State.switchTo (s : State) (f : Nat) : State :=
  let old := s.mhz
  let fixed := s.get 0x5000 3
  let s1 := { s.put 0x5100 2 f with power := { s.power with move := none, coding := codingMhz f } }
  let s2 := if f < old then s1.emit (.data 9 0 (bytesOf 2 f)) else s1
  let s3 := if s.power.held ∧ s.clockMode = 2 ∧ fixed ≤ old ∧ f < fixed then ({ s2 with fixedBreach := true }.bump 0x5000 0x0C).attend 9 0xFF else s2
  s3.holdFixed.throttle

/-- FREQUENCY_SWITCH: the power-step edge at which a change of F would switch. During a Gust, or less than 5 µs after it clears, the change is
deferred, which counts once. -/
def execFrequencySwitch (s : State) : Answer :=
  match s.power.move with
  | none => .next s
  | some m =>
    let edge : Int := (s.clock : Int) - s.powerTc % 8192
    let near : Bool := s.power.gusts != [] || s.power.gustClear.any fun t => !(spansUs 5 t edge)
    .next (if s.atEdge 8192 = false then s
      else if near then
        (if m.deferred then s else { s.bump 0x5100 4 with power := { s.power with move := some { m with deferred := true } } })
      else if m.voltage ∧ m.relocked then s.switchTo m.target
      else s)

/-! ### Gusts (R421 to R423) -/

/-- Watched domains: 0 to 7 core clusters, 8 to 15 network-on-chip, 16 coding engines, 17 shared memories, 18 control complex, 19 security
engine (R421); the numbers are the model's. Clock domains stretched, and their frequency. -/
def gustDomains (d : Nat) : Nat := if d < 8 then 16 else if d < 16 then 1 else if d = 16 then 8 else if d = 17 then 4 else if d = 18 then 4 else 1
def State.gustMhz (s : State) (d : Nat) : Nat :=
  if d < 8 then s.mhz else if d < 16 then 1200 else if d = 16 then s.power.coding else if d = 17 then 1000 else if d = 18 then 1200 else 500

/-- GUST_FIRE: a detector fires: its clocks are stretched, and a relock in progress is discarded. -/
def execGustFire (domain : BitVec 8) (s : State) : Answer :=
  let d := domain.toNat
  .next (if 20 ≤ d ∨ Tbl.get 0 s.power.gusts d ≠ 0 then s
    else
      let p := s.power
      let x := { p with gusts := Tbl.set 0 p.gusts d (s.clock + 1), gustFrom := some (p.gustFrom.getD s.clock),
                        move := p.move.map fun m => if m.relocked then m else { m with relockFrom := none } }
      ({ s with power := x }.bump 0x5100 3).throttle)

/-- GUST_CLEAR: a detector has read good for 64 cycles. -/
def execGustClear (domain : BitVec 8) (s : State) : Answer :=
  let d := domain.toNat
  let t := Tbl.get 0 s.power.gusts d
  .next (if t = 0 then s
    else
      let len := s.clock + 1 - t
      let p := s.power
      let rest := Tbl.set 0 p.gusts d 0
      let x := { p with gusts := rest, gustClear := some s.clock, gustFrom := if rest = [] then none else p.gustFrom,
                        longGust := p.longGust && rest != [],
                        lost := if d < 8 then Tbl.upd 0 p.lost d fun a => a + 50 * s.mhz * len else p.lost }
      ({ s with power := x }.countGlobal 0x1031 (gustDomains d * (len * s.gustMhz d * 50 / 196608))).throttle)

/-- LONG_GUST: a single GUST period has lasted 10 µs. -/
def execLongGust (s : State) : Answer :=
  .next (if s.power.gustFrom.any fun t => spansUs 10 t s.clock then { s with power := { s.power with longGust := true } }.settle else s)

/-- RELOCK_RESTART: 5 µs after the clear a discarded relock begins again. -/
def execRelockRestart (s : State) : Answer :=
  match s.power.move, s.power.gustClear with
  | some m, some t =>
    .next (if m.relockFrom.isNone ∧ s.power.gusts = [] ∧ spansUs 5 t s.clock then
        { s.bump 0x5100 5 with power := { s.power with move := some { m with relockFrom := some s.clock } } }
      else s)
  | _, _ => .next s

/-! ### Temperature (R424, R425) -/

/-- SENSOR_SAMPLE: the 32 junction sensors, in m°C. -/
def execSensorSample (temps : List (BitVec 32)) (s : State) : Answer :=
  let l := (temps.take 32).map fun b => b.toInt
  match l with
  | [] => .next s
  | a :: r =>
    let m := r.foldl (fun x y => if x < y then y else x) a
    let u := (m % 2 ^ 32).toNat
    let first : Bool := s.blobAt 0x5010 5 == []
    let s1 := (s.put 0x5010 1 u).putBlob 0x5010 5 ((temps.take 32).flatMap fun b => bytesOf 4 b.toNat)
    let s2 := if first ∨ asI32 (s.get 0x5010 2) < m then s1.put 0x5010 2 u else s1
    let warn := asI32 (s.get 0x5010 3)
    let th : Bool := if warn ≤ m then true else if m ≤ warn - 2000 then false else s.therm
    .next { s2 with therm := th }.settle

/-- Outputs that were driven go to their reset states (R432). -/
def State.releasePins (s : State) : State :=
  let s1 := (s.pins.filter fun e => e.2.ball != .highZ).foldl (fun (s : State) e => s.emit (.data 6 e.1 [0#8])) s
  let s2 := if s.pps.out then s1.emit (.data 6 32 [0#8]) else s1
  if s.pps.synce ≠ 0 then s2.emit (.data 6 33 [0#8]) else s2

/-- THERMAL_TRIP: THERMTRIP_N (pin 34 of the model's record) is asserted, every VDD_CORE clock stops, outputs take their reset states. -/
def execThermalTrip (s : State) : Answer :=
  .next (if s.power.tripped then s
    else
      let s0 := s.releasePins
      let s1 := { s0 with power := { s.power with tripped := true }, coresStopped := true,
                          pins := s.pins.map fun (e : Nat × Pin) => (e.1, { e.2 with ball := .highZ, active := false }),
                          pps := { s.pps with out := false, synce := 0 } }
      s1.emit (.data 6 34 [1#8]))

end Sys2Proof.Machine
end

