-- ==== Sys2Proof/Machine/Resets.lean ====
section
/-! DEFINITION. Fences of channels, Courts and fronthaul ports, the lifts that in-service tests give, link training, and the resets
(R303, R362, R384, R386, R390, R430 to R434, R446, R480). -/

namespace Sys2Proof.Machine

open Sys2Proof

/-! ### xSPI RAM channels (R386) -/

/-- XSPI_CHANNEL_FENCE: `words` uncorrectable words of a channel, or a device that has not answered within 1 µs (`silent`). Three words within
1 s of TB0, or a silent device, fence the channel until a reset. -/
def execXspiChannelFence (channel : Fin 8) (words : BitVec 8) (silent : Bool) (s : State) : Answer :=
  let h := channel.val
  let now := (s.tb 0).tc
  let old := (Tbl.get [] s.xspiErrors h).filter fun t => decide (airDiff t now < 1966080000)
  let l := List.replicate words.toNat now ++ old
  let s1 := { s.bumpBy (0x2510 + h) 4 words.toNat with xspiErrors := Tbl.set [] s.xspiErrors h l }
  .next (if s.isFenced 9 h ∨ s.get (0x2510 + h) 2 = 0 ∨ (l.length < 3 ∧ silent = false) then s1
    else ((s1.put (0x2510 + h) 1 2).fenceObject 9 h 0x48 l.length 0xFF).settle)

/-! ### The lifts of fences by in-service tests (R446, Table 17.1) -/

/-- In-service slices of a test unit, as a mask: bit s - 1 for slice s (Table 19.2). -/
def inServiceMask (unit : Nat) : Nat := if unit < 64 then 0x1FF else if unit < 0x200 then 3 else if unit < 0x300 then 1 else 0

/-- The slices that must have passed since the fence: those of the fenced quarters, or every slice of the unit. -/
def liftMask (grain object unit : Nat) : Nat := if grain = 1 then object / 256 % 16 * 16 else inServiceMask unit

/-- FENCE_LIFT: a fence that in-service tests lift is lifted once every in-service slice of the unit or quarter has passed in one sequence begun
after the fence. The fences of the other grains are lifted by their own events, within those events' commands. -/
def execFenceLift (grain : Fin 11) (object : BitVec 16) (s : State) : Answer :=
  let g := grain.val
  let o := object.toNat
  match fenceUnit g o with
  | some u =>
    let need := liftMask g o u
    .next (if s.isFenced g o ∧ (Tbl.get {} s.firm.units u).sequence &&& need = need then
        let s1 := s.liftFence g o 0
        let q := BitVec.ofNat 4 (o / 256)
        let s2 := if g = 1 then s1.updCore u fun c =>
              { c with quarterFenced := c.quarterFenced &&& ~~~q,
                       quarterFaults := (List.range 4).foldl (fun t i => if q.getLsbD i then Tbl.erase t i else t) c.quarterFaults }
          else if g = 2 then s1.updCore u fun c => { c with fenced := false }
          else if g = 7 then s1.setEngineC o {}
          else if g = 8 then s1.setXf o {} else s1
        s2.settle
      else s)
  | none => .next s

/-! ### A Court's fence (R390) -/

/-- CONTROL_COMPLEX_ECC: an uncorrectable error in the control complex's state for a Court fences the Court, with every job of it; its reports go
on, and report what was lost. -/
def execControlComplexEcc (court : Fin 16) (area : BitVec 32) (s : State) : Answer :=
  let k := court.val
  .next (if s.isFenced 4 k then s
    else
      let s1 := s.fenceObject 4 k 0x4A area.toNat k
      let seq := s1.get 0x5200 2
      let l := (s1.jobs.filter fun e => e.2.live && e.2.court == k && e.2.kind != 6 && e.2.kind != 0x14 && e.2.state != .completed
        && e.2.state != .fenced).map fun e => e.1
      (l.foldl (fun (s : State) j => s.fenceJobAnywhere j 0x30 seq) s1).settle)

/-! ### Fronthaul ports (R362, Table 17.1) -/

/-- FH_PORT_TRAINING: an enabled port that is down trains, and is UP, or fails; the third failure within 1 s of TB0 fences it. -/
def execFhPortTraining (port : Fin 16) (ok : Bool) (s : State) : Answer :=
  let p := port.val
  let i := 0x2200 + p
  let now := (s.tb 0).tc
  .next (if s.get i 1 = 0 ∨ s.isFenced 5 p ∨ s.get i 4 = 1 then s
    else if ok then (s.put i 4 1).settle
    else
      let l := now :: (Tbl.get [] s.fhFails p).filter fun t => decide (airDiff t now < 1966080000)
      let s1 := { s with fhFails := Tbl.set [] s.fhFails p l }
      if l.length < 3 then s1
      else ((s1.put i 4 2).fenceObject 5 p 0x46 (s.get i 4) 0xFF).settle)

/-- FH_LINK_LOSS: a port loses its link: it is DOWN, and LINK is set (R329). -/
def execFhLinkLoss (port : Fin 16) (s : State) : Answer :=
  .next (if s.get (0x2200 + port.val) 4 = 1 then (s.put (0x2200 + port.val) 4 0).settle else s)

/-! ### PCIe and function-level resets (R384, R431, R434) -/

/-- What a function-level reset does to function f: rings, status block, MSI-X, OAP channel, open Rally, held records. Replies that wait for a
relay or a BOOT write are discarded when they come. -/
def State.resetFunc (s : State) (f : Nat) : State :=
  let s1 : State := { s.setFunc f {} with chans := Tbl.erase s.chans f, queued := s.queued.filter fun e => e.1 != f,
                                          waits := s.waits.map fun w => if w.chan = f then { w with dead := true } else w }
  ((s1.rallies.filter fun r => r.state == .opened && r.chan == f).foldl (fun (s : State) r => s.abortOpen r 3) s1).settle

/-- FUNCTION_LEVEL_RESET. -/
def execFunctionLevelReset (func : Fin 16) (s : State) : Answer := .next ((s.resetFunc func).bump (0x2410 + func.val) 5)

/-- Every function is reset, and the link is down with no virtual function enabled. -/
def State.resetPcie (s : State) : State :=
  ((((List.range 16).foldl State.resetFunc s).put 0x2400 1 0).put 0x2400 2 0).put 0x2400 4 0

/-- PCIE_FUNDAMENTAL_RESET: PERST_N, the link down, or a hot reset. -/
def execPcieFundamentalReset (s : State) : Answer := .next s.resetPcie

/-! ### Domain resets (R430, R433, Table 18.8) -/

/-- A core as its domains' reset leaves it: no context, no pass, registers zero. Its memory, fences, loaded programs and trace position stay. -/
def Core.domainReset (c : Core) (n : Nat) : Core :=
  { Core.reset n with
    fenced := c.fenced, inTest := c.inTest, quarterFenced := c.quarterFenced, quarterFaults := c.quarterFaults,
    microprograms := c.microprograms, sfSets := c.sfSets, sfHeld := c.sfHeld, tagCounter := c.tagCounter,
    traceSeq := c.traceSeq, traceHead := c.traceHead, traceCount := c.traceCount, traceMerged := c.traceMerged,
    traceLast := c.traceLast, traceDropPending := c.traceDropPending, cycleNo := c.cycleNo, idleSince := c.idleSince,
    runtimeImage := c.runtimeImage }

/-- DOMAIN_RESET: one domain is reset in service, by an event of Table 18.8. A core's domains are reset for a test slice; the PCIe domains with the
link. The domains of a fronthaul port, of a Megorlink port's receivers and of an xSPI RAM channel hold only words in their crossings, which are
discarded; what this costs is the event's own rule (R300, R386, Table 16.4). -/
def execDomainReset (domain : ResetDomain) (s : State) : Answer :=
  match domain with
  | .core n => .next (if (s.core n).inTest then s.updCore n fun c => c.domainReset n else s)
  | .pcie => .next s.resetPcie
  | .fronthaul _ => .next s
  | .megorlink _ => .next s
  | .xspi _ => .next s

/-! ### Power-on and chip resets (R431, R432, R434, R480) -/

/-- A firmware slot after a reset: committed where its SLOT_SEQ is not zero; a slot being written, or verified, is one that has been written. -/
def FwSlot.kept (x : FwSlot) : FwSlot := { x with state := if x.seq ≠ 0 then 3 else if x.header = [] then 0 else 1 }

/-- What boot flash and fuses keep: slots, boot header, configuration area, self-test record and marker; and the straps. -/
def Firm.kept (f : Firm) : Firm :=
  { slot0 := f.slot0.kept, slot1 := f.slot1.kept, hseq := f.hseq, bootCount := f.bootCount, stored := f.stored, cfgSeq := f.cfgSeq, ctrlFuses := f.ctrlFuses,
    rtFuses := f.rtFuses, rseq := f.rseq, marked := f.marked, straps := f.straps }

/-- Whether an address lies in the fault-log archive: the first 1 MB of the striped space, which is 128 KB of each channel (R386). -/
def inArchive (a : Nat) : Bool := decide (0x100000000 ≤ a) && decide (a < 0x140000000) && decide ((a - 0x100000000) % 0x8000000 < 131072)

/-- The number a chip takes from its straps (R302). -/
def strapChip (x : Nat) : Nat := if x ≤ 23 then x else 0xFF

/-- RESET_CAUSE after a reset by `cause`. Where another has acted since the last start began, the brownout is named, if any, else PORESET_N (R431;
log entry 175). -/
def State.resetCause (s : State) (cause : Nat) : Nat :=
  let old := s.get 0x1001 7
  if s.firm.steps ≠ [] ∨ 2 ≤ cause then cause else if 2 ≤ old then old else min cause old

/-- The state after a reset of the whole chip by `cause`. A chip reset (`chip`) keeps the THERMTRIP_N latch and the fault-log
archive; a power-on reset keeps neither. The commands that wait, the record of what has left the chip and the count of free values are the
model's own and stay. -/
def State.restart (s : State) (cause : Nat) (chip : Bool) : State :=
  let s := s.releasePins
  let s := if s.power.tripped ∧ chip = false then s.emit (.data 6 34 [0#8]) else s
  let f := s.firm.kept
  let r := { State.reset with pending := s.pending, out := s.out, freeCtr := s.freeCtr, firm := f, chip := strapChip f.straps }
  let r := r.put 0x1001 7 (s.resetCause cause)
  if chip then
    { r with mem := s.mem.filter fun e => inArchive e.1, firm := { f with archived := s.firm.archived },
             power := { r.power with tripped := s.power.tripped }, coresStopped := s.power.tripped }
  else r

/-- PORESET: power-on reset by PORESET_N. -/
def execPoreset (s : State) : Answer := .next (s.restart 0 false)
/-- CHIP_RESET: RESET_N. -/
def execChipReset (s : State) : Answer := .next (s.restart 1 true)
/-- BROWNOUT: VDD_CORE or VDD_SOC has left its range: a power-on reset that RESET_CAUSE tells. -/
def execBrownout (vddCore : Bool) (s : State) : Answer := .next (s.restart (if vddCore then 2 else 3) false)

end Sys2Proof.Machine
end

