-- ==== Sys2Proof/Machine/Library.lean ====
section
/-! DEFINITION. Packages of the model library (R280, R284, R453; Table 12.8). -/

namespace Sys2Proof.Machine

open Sys2Proof

/-- The model that a verified package makes. A micro-program package serves stage code 0xF0, which no object names as a model. -/
def packageModel (p : Package) : LibModel :=
  { live := true, pages := (p.data.length + 65535) / 65536, signed := p.signed, version := p.version.toNat, bytes := p.data.length,
    stage := if p.micro then 0xF0 else p.stage.toNat, points := p.points, inClass := p.inClass.toNat, outClass := p.outClass.toNat,
    adaptable := p.adaptable, chained := p.chained, data := p.data }

/-- Whether a model ID is in use by a package that is not damaged (R283, R453). -/
def State.idInUse (s : State) (m : Nat) : Bool := (s.model m).live && !(s.model m).damaged

/-- The result code of a LIB_PUT: BUSY before step 9 of start-up (R438); RANGE where the package is not well formed, its signature fails, it is unsigned
and must not be, its ID is in use, or the library has no room. -/
def State.libPutCode (s : State) (p : Package) : Nat :=
  let x := packageModel p
  if Tbl.get 0 s.firm.steps 9 = 0 then 0x40
  else if p.wellFormed = false ∨ realModel p.id.toNat = false ∨ s.idInUse p.id.toNat ∨ x.pages = 0 ∨ 64 < x.pages
      ∨ 2048 ≤ (s.lib.filter fun e => e.2.live).length ∨ libTotal < s.libUsed + x.pages * 65536
      ∨ (p.signed ∧ p.signatureOk = false) ∨ (p.signed = false ∧ (p.micro ∨ s.get 0x7000 6 = 1))
      ∨ (p.micro ∧ microOk p.data = false) then 0x14
  else 0

/-- A package enters the library. -/
def State.libEnter (s : State) (p : Package) : State := { s with lib := Tbl.set {} s.lib p.id.toNat (packageModel p) }

/-- The result code of a LIB_DELETE, and the state after it: RANGE while the model is referenced or pinned, or where there is none. A model on the
Bench leaves it. -/
def State.libDelete (s : State) (m : Nat) : State × Nat :=
  if (s.model m).live = false ∨ s.isReferenced m ∨ s.isPinned m then (s, 0x14)
  else
    let s1 := (s.loads.filter fun l => l.model == m).foldl (fun (s : State) l => s.cancelLoad l) s
    let s2 := if (s1.resident m).live then s1.dropModel m else s1
    ({ s2 with lib := Tbl.set {} s2.lib m {} }, 0)

/-- LIB_DELETE: a model that nothing references or pins leaves the library. -/
def execLibDelete (model : BitVec 16) (s : State) : Answer := .next (s.libDelete model.toNat).1

end Sys2Proof.Machine
end

