-- ==== Sys2Proof/Machine/Firmware.lean ====
section
/-! DEFINITION. Start-up, self-test, shut-down, firmware slots, activation and attestation (R435 to R456). -/

namespace Sys2Proof.Machine

open Sys2Proof

/-! ### The steps of start-up (R435) -/

/-- A step of Table 19.1 is reached. -/
def State.reach (s : State) (n : Nat) : State := { s with firm := { s.firm with steps := Tbl.set 0 s.firm.steps n (s.clock + 1) } }
def State.stepDone (s : State) (n : Nat) : Bool := Tbl.get 0 s.firm.steps n != 0
def State.recovery (s : State) : Bool := s.get 0x1001 6 == 1
/-- Whether BARs, rings and the management port answer: from step 6 on, or in ROM recovery (R435, R439). -/
def State.serving (s : State) : Bool := (s.stepDone 6 || s.recovery) && !s.power.tripped

/-! ### Slots (R436, R437, R447, R449; Tables 19.4 and 19.5) -/

def State.fwSlot (s : State) (k : Nat) : FwSlot := if k = 0 then s.firm.slot0 else s.firm.slot1
def State.setFwSlot (s : State) (k : Nat) (x : FwSlot) : State :=
  { s with firm := if k = 0 then { s.firm with slot0 := x } else { s.firm with slot1 := x } }

/-- U32 values of a list of bytes. -/
def u32s : Nat → List Byte → List Nat
  | 0, _ => []
  | n + 1, b => fieldOf b 0 4 :: u32s n (b.drop 4)

/-- A section of a slot header lies in the slot behind the header and within its limit (R447). -/
def sectionOk (h : List Byte) (i limit : Nat) : Bool :=
  let off := fieldOf h (160 + 8 * i) 4
  let len := fieldOf h (164 + 8 * i) 4
  decide (8192 ≤ off) && decide (off + len ≤ 16 * mb) && decide (len ≤ limit)

/-- FW_REASON of what the header itself shows: 6 format, 3 rollback, 4 untested pair, 5 stepping; 0 where it shows no fault. `running` is the core
runtime that CTRL_COMPAT must name too (R437, R449). -/
def State.headerFault (s : State) (h : List Byte) (running : Option Nat) : Nat :=
  let ctrl := fieldOf h 8 4
  let rt := fieldOf h 12 4
  let compat := u32s 16 ((h.drop 32).take 64)
  if fieldOf h 0 4 ≠ 0x53464C4D ∨ fieldOf h 4 2 ≠ 1 ∨ h.length < 8192 ∨ zeros h 6 2 = false ∨ zeros h 29 3 = false ∨ zeros h 281 7 = false
      ∨ zeros h 8176 16 = false ∨ sectionOk h 0 (4 * mb) = false ∨ sectionOk h 1 mb = false ∨ sectionOk h 2 (10 * mb) = false
      ∨ 64 < fieldOf h 16 2 ∨ 64 < fieldOf h 18 2 ∨ fieldOf h 20 1 = 0 ∨ 8 < fieldOf h 20 1 ∨ 3 < fieldOf h 280 1 then 6
  else if fieldOf h 16 2 < s.firm.ctrlFuses ∨ fieldOf h 18 2 < s.firm.rtFuses then 3
  else if compat.contains rt = false ∨ (u32s 16 ((h.drop 96).take 64)).contains ctrl = false
      ∨ (running.any fun r => !compat.contains r) then 4
  else if (((h.drop 21).take (fieldOf h 20 1)).any fun b => b.toNat == s.get 0x1000 3) = false then 5
  else 0

/-- The first check a slot fails: what cryptography finds (`fault`), else what its header shows. -/
def State.slotFault (s : State) (k fault : Nat) (running : Option Nat) : Nat :=
  if fault ≠ 0 then fault else s.headerFault (s.fwSlot k).header running

/-- A boot-header copy (Table 19.5). -/
def Firm.bootHeader (f : Firm) : List Byte :=
  let digest := fun (x : FwSlot) => if x.seq = 0 then List.replicate 32 0#8 else sha256 x.header
  let b := bytesOf 4 0x42484452 ++ bytesOf 4 f.hseq ++ bytesOf 4 f.bootCount ++ bytesOf 4 0 ++ bytesOf 4 f.slot0.seq ++ bytesOf 4 f.slot1.seq
    ++ digest f.slot0 ++ digest f.slot1 ++ bytesOf 4 0
  b ++ bytesOf 4 (crc32 b).toNat

/-- The boot header is written to the older copy, with HSEQ one higher. -/
def State.writeBootHeader (s : State) : State :=
  let f := { s.firm with hseq := s.firm.hseq + 1 }
  { s with firm := f }.emit (.data 11 (f.hseq % 2 * 0x8000) f.bootHeader)

/-- The rollback fuses are raised to an image's counts where these are higher; ROLLBACK reports them (R437, R448). -/
def State.raiseFuses (s : State) (h : List Byte) : State :=
  let c := max s.firm.ctrlFuses (fieldOf h 16 2)
  let r := max s.firm.rtFuses (fieldOf h 18 2)
  { s with firm := { s.firm with ctrlFuses := c, rtFuses := r } }.put 0x7000 5 (c + r * 65536)

/-- Committed slots, the higher SLOT_SEQ first (R436). -/
def State.bootOrder (s : State) : List Nat :=
  (if s.firm.slot0.seq < s.firm.slot1.seq then [1, 0] else [0, 1]).filter fun k => (s.fwSlot k).seq != 0

/-- ROM_BOOT: the ROM takes the committed slot with the higher SLOT_SEQ that passes, or enters recovery (steps 1 to 4 of Table 19.1). `fault0` and
`fault1` are what the verification of keys, signatures and digests of each slot finds, as codes of FW_REASON. -/
def execRomBoot (fault0 fault1 : BitVec 3) (s : State) : Answer :=
  if s.stepDone 1 then .next s
  else
    let fault := fun k => s.slotFault k (if k = 0 then fault0.toNat else fault1.toNat) none
    let s1 := { s with firm := { s.firm with bootCount := (s.firm.bootCount + 1) % 2 ^ 32 } }
    let s2 := (s1.writeBootHeader.put 0x1001 4 s1.firm.bootCount)
    let s3 := [1, 2, 3, 4].foldl State.reach s2
    let pref := (s.bootOrder.head?.map fault).getD 0
    match s.bootOrder.find? fun k => fault k == 0 with
    | some k =>
      let h := (s.fwSlot k).header
      let s4 := (((s3.put 0x1001 1 (fieldOf h 8 4)).put 0x1001 2 (fieldOf h 12 4)).put 0x1001 5 k).raiseFuses h
      .next (if pref = 0 then s4 else (s4.put 0x7001 1 pref).attend 12 0xFF)
    | none => .next ((s3.put 0x1001 6 1).put 0x7001 1 pref)

/-! ### Self-test (R440 to R446; Tables 19.2 and 19.3) -/

def State.setTestUnit (s : State) (u : Nat) (x : TestUnit) : State := { s with firm := { s.firm with units := Tbl.set {} s.firm.units u x } }
/-- Slices of a unit. -/
def unitSlices (u : Nat) : Nat := if u < 64 then 9 else if u < 0x200 then 2 else if u < 0x300 then 1 else 8

/-- Whether the unit is fenced as a whole. -/
def State.unitFenced (s : State) (u : Nat) : Bool :=
  if u < 64 then s.isFenced 2 u else if u < 0x200 then s.isFenced 7 (u - 0x100) else if u < 0x300 then s.isFenced 8 (u - 0x200) else false

/-- Seconds since the start of GPS time, of the first LOCKED time base; 0 where none is. -/
def State.testTai (s : State) : Nat :=
  match (List.range 8).find? fun n => (s.tb n).enabled && s.tbState n == .locked with
  | some n => ((s.taiQuarter n / 4000000000) - 315964819).toNat % 2 ^ 32
  | none => 0

/-- TJ_NOW in °C as an I16. -/
def State.testTj (s : State) : Nat := wrapTo 16 (s.tj / 1000)

/-- Regions of a failed slice of a shared memory, of the `n` of the slice: which fail is a free value, and one at least does. -/
def State.failedRegions (s : State) (slice n : Nat) : List Nat :=
  let x := s.free.toNat
  ((List.range n).filter fun i => x.testBit i || i == x / 2 ^ 64 % n).map fun i => (slice - 1) * n + i

/-- A failed slice of a shared memory withholds the failing 64 KB regions (R441). -/
def State.withhold (s : State) (m slice : Nat) : State :=
  let l := s.failedRegions slice (if m = 2 then 32 else 48)
  let s := s.bumpFree
  if m = 0 then { s with firm := { s.firm with symWithheld := (s.firm.symWithheld ++ l).eraseDups } }
  else if m = 1 then s.ownPages (l.filter fun p => Tbl.get 0 s.benchPages p == 0) 0x30000
  else
    let new := l.filter fun b => !s.firm.harqWithheld.contains b
    { s.put 0x42C0 1 (s.get 0x42C0 1 - 16 * new.length) with firm := { s.firm with harqWithheld := s.firm.harqWithheld ++ new } }

/-- A unit with a failed slice is fenced at its grain, a column-group slice's quarter at that grain; a shared memory loses regions (R440, R441). -/
def State.failUnit (s : State) (u slice : Nat) : State :=
  let info := 0x10000 + slice
  if u < 64 then
    if 5 ≤ slice ∧ slice ≤ 8 then
      let q := slice - 5
      let s1 := (s.updCore u fun c => { c with quarterFenced := c.quarterFenced ||| BitVec.ofNat 4 (2 ^ q) }).fenceObject
        1 (u + 2 ^ (8 + q)) 0x44 info (s.coreCourt u)
      if (s1.core u).quarterFenced = 15#4 then s1.fenceCore u 0x44 info else s1.settle
    else (s.put (0x8000 + u) 9 2).fenceCore u 0x44 info
  else if u < 0x200 then
    ((s.setEngineC (u - 0x100) { s.engineC (u - 0x100) with state := 3 }).fenceObject 7 (u - 0x100) 0x44 info 0xFF).settle
  else if u < 0x300 then
    ((s.setXf (u - 0x200) { s.xfEngine (u - 0x200) with state := 3 }).fenceObject 8 (u - 0x200) 0x44 info 0xFF).settle
  else s.withhold (u - 0x300) slice

/-- A slice of a unit has ended: the entry of the working copy, and SLICES_RUN and SLICES_FAILED. -/
def State.sliceEnded (s : State) (u slice : Nat) (pass : Bool) : State :=
  let x := s.testUnit u
  let bit := 2 ^ (slice - 1)
  let tj := if signed 16 x.tj < signed 16 s.testTj ∨ x.ended = 0 then s.testTj else x.tj
  let y := { x with boot := s.firm.bootCount, tai := s.testTai, tj := tj, ended := x.ended ||| bit, slice := none }
  let y := if pass then { y with passed := y.passed ||| bit, sequence := y.sequence ||| bit } else { y with result := 3, failing := slice }
  let s1 := (s.setTestUnit u y).bump 0x31A0 0x0B
  if pass then s1 else (s1.bump 0x31A0 0x0C).failUnit u slice

/-- Units that still need the start-up test, ascending (R441). -/
def State.untested (s : State) : List Nat :=
  testUnits.filter fun u => !(s.testUnit u).current && (s.testUnit u).ended != 2 ^ unitSlices u - 1 && !s.unitFenced u

/-- STARTUP_TEST_SLICE: a slice of one of the eight lowest-numbered stale units ends. With the last one the unit is tested: RESULT 2 unless a slice
failed, and a core joins the usable cores (R441). -/
def execStartupTestSlice (unit : BitVec 16) (slice : Fin 10) (pass : Bool) (s : State) : Answer :=
  let u := unit.toNat
  let n := slice.val
  let x := s.testUnit u
  .next (if s.stepDone 7 = false ∨ (s.untested.take 8).contains u = false ∨ n = 0 ∨ unitSlices u < n ∨ x.ended.testBit (n - 1) then s
    else
      let s1 := s.sliceEnded u n pass
      let y := s1.testUnit u
      if y.ended ≠ 2 ^ unitSlices u - 1 ∨ s1.unitFenced u then s1
      else
        let s2 := s1.setTestUnit u { y with current := true, result := if y.result = 3 then 3 else 2 }
        if u < 64 then (s2.put (0x8000 + u) 9 1).settle else s2)

/-- An entry of the record is judged (R440): current, failed, or stale. -/
def State.judgeUnit (s : State) (x : TestUnit) (u : Nat) (stale : Bool) : State :=
  let fresh : Bool := (x.result == 1 || x.result == 2) && !stale && decide (s.firm.bootCount - x.boot ≤ s.get 0x31A0 2)
  let s1 := s.setTestUnit u { x with current := fresh, failing := if x.result = 3 then x.failing else 0 }
  if x.result = 3 then
    let s2 := s1.failUnit u x.failing
    if s2.unitFenced u then s2
    else
      let s3 := s2.setTestUnit u { s2.testUnit u with current := true }
      if u < 64 then s3.put (0x8000 + u) 9 1 else s3
  else if u < 64 then s1.put (0x8000 + u) 9 (if fresh then 1 else 3) else s1

/-- A unit's entry in a record's bytes. -/
def recordUnit (r : List Byte) (i : Nat) : TestUnit :=
  let o := 16 + 16 * i
  { result := fieldOf r (o + 2) 1, passed := fieldOf r (o + 3) 2, failing := fieldOf r (o + 5) 1, boot := fieldOf r (o + 6) 4,
    tai := fieldOf r (o + 10) 4, tj := fieldOf r (o + 14) 2 }

/-- The record is read, and each unit judged; without a record in force every unit is stale. The excursion marker makes every entry of the record it
names stale. -/
def State.judgeRecord (s : State) (r : List Byte) (verified : Bool) : State :=
  if verified ∧ fieldOf r 0 2 = 0x5442 ∧ fieldOf r 2 2 = 1 ∧ r.length = 1440 then
    let q := fieldOf r 4 4
    let mark : Bool := s.firm.marked && s.firm.rseq == q
    let s1 := { s with firm := { s.firm with rseq := q, marked := mark } }
    (testUnits.zipIdx).foldl (fun (s : State) (e : Nat × Nat) => s.judgeUnit (recordUnit r e.2) e.1 mark) s1
  else testUnits.foldl (fun (s : State) u => s.judgeUnit {} u true) s

/-- The stored BOOT values are put in force (R348). -/
def State.bootInForce (s : State) : State :=
  s.bootStored.foldl (fun (s : State) e =>
    match objAt (e.1 / 256) (e.1 % 256) with
    | some r => s.putStaged (stagedOf r (e.1 / 256) (e.1 % 256) e.2)
    | none => s) s

/-- The peer a port expects by the topology: chip and port (R304). -/
def topoPeer (topology size c p : Nat) : Option (Nat × Nat) :=
  if topology = 1 ∧ size ≠ 0 then some (if p < 4 then ((c + 1) % size, p + 4) else ((c + size - 1) % size, p - 4))
  else if topology = 2 then
    let x := c % 4
    let y := c / 4
    if p < 2 then some (y * 4 + (x + 1) % 4, p + 2)
    else if p < 4 then some (y * 4 + (x + 3) % 4, p - 2)
    else if p < 6 then some ((y + 1) % 6 * 4 + x, p + 2)
    else some ((y + 5) % 6 * 4 + x, p - 2)
  else none

/-- PEER_CHIP and PEER_PORT take their defaults where nothing is stored for them (R304). -/
def State.peerDefaults (s : State) : State :=
  if 23 < s.chip then s
  else (List.range 8).foldl (fun (s : State) p =>
    match topoPeer (s.get 0x2600 3) (s.get 0x2600 4) s.chip p with
    | some e =>
      let s1 := if (Tbl.get none s.firm.stored (okey (mpIx p) 2)).isSome then s else s.put (mpIx p) 2 e.1
      if (Tbl.get none s1.firm.stored (okey (mpIx p) 3)).isSome then s1 else s1.put (mpIx p) 3 e.2
    | none => s) s

/-- SERDES_PLLS_LOCKED: steps 5 to 7 of Table 19.1. Stored BOOT values take force and the chip its number; the xSPI RAM devices are found; the record
that the BIST area holds, `verified` by its signature, is judged; Megorlink ports begin to train. -/
def execSerdesPllsLocked (record : List Byte) (verified : Bool) (s : State) : Answer :=
  if s.stepDone 4 = false ∨ s.stepDone 5 ∨ s.recovery then .next s
  else
    let s1 := s.bootInForce
    let c := s1.get 0x2600 1
    let s2 := { s1 with chip := if c ≤ 23 then c else strapChip s1.firm.straps }.peerDefaults
    let d := Config.xspiDevices.val
    let s3 := (List.range 8).foldl (fun (s : State) h => (s.put (0x2510 + h) 2 d).put (0x2510 + h) 1 (if d = 0 then 0 else 1)) s2
    let s4 := (s3.put 0x2500 2 (512 * d)).judgeRecord record verified
    let s5 := (List.range 8).foldl (fun (s : State) p =>
      if s.get (mpIx p) 1 = 1 then (s.put (mpIx p) 4 1).setMport p { s.mport p with since := some s.clock } else s) s4
    .next ([5, 6, 7].foldl State.reach s5).settle

/-! ### Service (R438) -/

/-- Whether a unit holds a current entry, has passed its test, or is fenced. -/
def State.unitJudged (s : State) (u : Nat) : Bool := (s.testUnit u).current || s.unitFenced u || (s.testUnit u).ended == 2 ^ unitSlices u - 1
def State.testedCores (s : State) : Nat := ((List.range 64).filter fun n => s.get (0x8000 + n) 9 == 1 && !s.isFenced 2 n).length

/-- BREEZE_SERVICE: with 16 usable cores and every engine tested or fenced. -/
def execBreezeService (s : State) : Answer :=
  .next (if s.svc = 0 ∧ s.stepDone 7 ∧ 16 ≤ s.testedCores ∧ ((testUnits.filter fun u => decide (0x100 ≤ u) && decide (u < 0x300)).all s.unitJudged)
    then ({ s with svc := 1 }.reach 8).settle else s)

/-- CHECK_BYTES_INITIALISED: step 9: the reference models of the running slot enter the library, and their loads, unpinned, are requested. -/
def execCheckBytesInitialised (models : List Package) (s : State) : Answer :=
  .next (if s.stepDone 7 = false ∨ s.stepDone 9 then s
    else
      let s1 := models.foldl State.libEnter (s.reach 9)
      models.foldl (fun (s : State) p => if p.micro then s else (s.requestLoad p.id.toNat 0 false).1) s1)

/-- FULL_SERVICE: every unit is judged, and the reference models are loaded. -/
def execFullService (s : State) : Answer :=
  .next (if s.svc = 1 ∧ s.stepDone 9 ∧ testUnits.all s.unitJudged ∧ (s.loads.all fun l => l.rally != 0) then
      (({ s with svc := 2 }.reach 10).reach 11).settle
    else s)

/-! ### In-service tests (R444 to R446) -/

/-- Units under an in-service slice. -/
def State.underTest (s : State) : Nat := (s.firm.units.filter fun e => e.2.slice.isSome).length

/-- Coding engines of the kind of engine e. -/
def kindOf (e : Nat) : List Nat := enginesOf (if e < 8 then 0 else if e < 12 then 1 else 2)

/-- Whether `us` µs have passed since a count of the model's own clock. -/
def State.longSince (s : State) (us t : Nat) : Bool := spansUs us t s.clock

/-- Whether a unit may receive an in-service slice now (R444). A core must hold no resident context, since the slice resets it. -/
def State.mayTest (s : State) (u : Nat) : Bool :=
  let lull := s.get 0x31A0 5
  if u < 64 then
    let c := s.core u
    let k := s.coreCourt u
    let idle := fun n => s.coreInCourt k n && !s.isFenced 2 n && s.get (0x8000 + n) 9 == 1 && !(s.core n).inTest && (s.core n).residents == []
    c.residents == [] && !(s.swapped.any fun w => w.core == u)
      && (decide (16 ≤ k) || s.isFenced 2 u
        || (s.longSince lull c.idleSince && decide (s.get 0x31A0 7 ≤ ((List.range 64).filter fun n => n != u && idle n).length)))
  else if u < 0x200 then
    let e := u - 0x100
    (s.engineC e).state != 1 && s.codingQueue (if e < 8 then 0 else if e < 12 then 1 else 2) == []
      && (kindOf e).all (fun i => s.longSince lull (s.engineC i).since) && (kindOf e).any fun i => i != e && !s.isFenced 7 i
  else if u < 0x300 then
    let e := u - 0x200
    (s.xfEngine e).state != 1 && s.nextTransform.isNone
      && (List.range 8).all (fun i => s.longSince lull (s.xfEngine i).since) && (List.range 8).any fun i => i != e && !s.isFenced 8 i
  else false

/-- The class of a unit in the order of R444: 0 fenced, 1 stale, 2 neither. -/
def State.testClass (s : State) (u : Nat) : Nat :=
  let x := s.testUnit u
  let locked : Bool := (List.range 8).any fun n => (s.tb n).enabled && s.tbState n == .locked
  if s.unitFenced u ∨ (s.fences.any fun f => (f.grain == 1 || f.grain == 3) && f.object % 64 == u) then 0
  else if s.get 0x31A0 2 < s.firm.bootCount - x.boot ∨ x.result = 2 ∨ (locked ∧ 86400 * s.get 0x31A0 3 < s.testTai - x.tai) then 1
  else 2

/-- The unit that an in-service slice is for next. -/
def State.nextUnit (s : State) : Option Nat :=
  let l := testUnits.filter fun u => (s.testUnit u).slice.isNone && s.mayTest u
  match l.find? fun u => s.testClass u == 0 with
  | some u => some u
  | none => l.find? fun u => s.testClass u == 1

/-- Units that the shut-down has not tested, by age of their entries (R443). -/
def State.shutOrder (s : State) : List Nat :=
  let l := testUnits.filter fun u => (s.testUnit u).ended != 2 ^ unitSlices u - 1
  l.filter fun u => decide ((l.filter fun v => decide ((s.testUnit v).boot < (s.testUnit u).boot
    ∨ ((s.testUnit v).boot = (s.testUnit u).boot ∧ v < u))).length < 8)

/-- Whether a slice of a unit may begin: in service under R444, in a shut-down for the eight units it is at, at full length (R443). -/
def State.mayBegin (s : State) (u n : Nat) : Bool :=
  let x := s.testUnit u
  testUnits.contains u && decide (1 ≤ n) && decide (n ≤ unitSlices u) && x.slice.isNone
    && (if s.get 0x31A0 9 = 1 then s.shutOrder.contains u && !x.ended.testBit (n - 1)
      else s.get 0x31A0 9 == 0 && s.svc != 0 && !s.cut && (inServiceMask u).testBit (n - 1) && decide (s.underTest < s.get 0x31A0 6)
        && s.nextUnit == some u)

/-- A slice begins: the unit is out of use, and a core's domains are reset (R433). A sequence that was complete begins again. -/
def State.beginSlice (s : State) (u n : Nat) : State :=
  let x := s.testUnit u
  let s1 := s.setTestUnit u { x with slice := some n, sequence := if x.sequence &&& inServiceMask u = inServiceMask u then 0 else x.sequence }
  if u < 64 then s1.updCore u fun c => { c.domainReset u with inTest := true }
  else if u < 0x200 then s1.setEngineC (u - 0x100) { s1.engineC (u - 0x100) with state := 4 }
  else if u < 0x300 then s1.setXf (u - 0x200) { s1.xfEngine (u - 0x200) with state := 4 } else s1

/-- A unit is reinitialised after a slice. -/
def State.freeUnit (s : State) (u : Nat) : State :=
  if u < 64 then s.updCore u fun c => { c with inTest := false }
  else if u < 0x200 then s.setEngineC (u - 0x100) { s.engineC (u - 0x100) with state := if s.isFenced 7 (u - 0x100) then 3 else 0 }
  else if u < 0x300 then s.setXf (u - 0x200) { s.xfEngine (u - 0x200) with state := if s.isFenced 8 (u - 0x200) then 3 else 0 } else s

/-- The entry of a unit whose slices have all passed: RESULT 1. -/
def State.fullPass (s : State) (u : Nat) : State :=
  let x := s.testUnit u
  let all : Bool := if s.get 0x31A0 9 = 1 then x.ended == 2 ^ unitSlices u - 1 && x.result != 3 else x.sequence == inServiceMask u
  if all then s.setTestUnit u { x with result := 1, failing := 0, current := true } else s

/-- IN_SERVICE_SLICE: with `ended` none a slice begins on an idle unit; otherwise the slice that runs on it ends, passing or failing. -/
def execInServiceSlice (unit : BitVec 16) (slice : Fin 10) (ended : Option Bool) (s : State) : Answer :=
  let u := unit.toNat
  let n := slice.val
  match ended with
  | none => .next (if s.mayBegin u n then (s.beginSlice u n).settle else s)
  | some pass =>
    .next (if (s.testUnit u).slice ≠ some n then s
      else
        let s1 := (s.freeUnit u).sliceEnded u n pass
        (if pass then s1.fullPass u else s1).settle)

/-- Whether work needs a unit under test (R445). -/
def State.needed (s : State) (u : Nat) : Bool :=
  if u < 64 then
    (s.readyJobs (s.coreCourt u)).any fun j => decide (1 ≤ (s.job j).prio)
      && (s.updCore u fun c => { c with inTest := false }).usable u (s.job j)
  else if u < 0x200 then
    let k := if u < 0x108 then 0 else if u < 0x10C then 1 else 2
    s.codingQueue k != [] && (enginesOf k).all fun i => (s.engineC i).state != 0
  else s.nextTransform.isSome && (List.range 8).all fun i => (s.xfEngine i).state != 0

/-- SLICE_ABANDON: work needs the unit: the slice counts neither pass nor fail. -/
def execSliceAbandon (unit : BitVec 16) (s : State) : Answer :=
  let u := unit.toNat
  let x := s.testUnit u
  .next (if x.slice.isSome ∧ s.needed u then (((s.setTestUnit u { x with slice := none }).freeUnit u).bump 0x31A0 0x0D).settle else s)

/-- EXCURSION_MARKER: TJ_NOW has reached BIST_EXCURSION: the marker, which names the record's RSEQ, is written once (R440). -/
def execExcursionMarker (s : State) : Answer :=
  .next (if s.firm.marked ∨ s.tj < asI32 (s.get 0x31A0 4) then s
    else { s with firm := { s.firm with marked := true } }.emit (.data 11 0x20000 (bytesOf 4 s.firm.rseq ++ List.replicate 12 0#8)))

/-! ### Orderly shut-down (R443) -/

/-- SHUTDOWN is accepted while no carrier is enabled and no Rally is open or committed. -/
def State.shutdownOk (s : State) : Bool :=
  s.get 0x31A0 9 == 0 && (List.range 32).all (fun c => s.get (0x2300 + c) 1 == 0) && !(s.rallies.any Rally.live)

/-- A shut-down begins: every slice in progress is abandoned, and every unit is to be tested at full length. -/
def State.beginShutdown (s : State) : State :=
  let s1 := s.abandonSlices.put 0x31A0 9 1
  { s1 with firm := { s1.firm with shutStart := s1.clock, units := Tbl.mapV {} s1.firm.units fun x => { x with ended := 0 } } }

/-- SHUTDOWN: phase 0 begins it; phase 1 ends the testing, once the units are exhausted or BIST_BUDGET has elapsed; phase 2 ends the writing of the
record, with RSEQ one higher. -/
def execShutdown (phase : Fin 3) (s : State) : Answer :=
  match phase with
  | 0 => .next (if s.shutdownOk then s.beginShutdown else s)
  | 1 =>
    let over_ : Bool := testUnits.all (fun u => (s.testUnit u).ended == 2 ^ unitSlices u - 1) || s.longSince (1000 * s.get 0x31A0 1) s.firm.shutStart
    .next (if s.get 0x31A0 9 = 1 ∧ over_ then s.abandonSlices.put 0x31A0 9 2 else s)
  | 2 =>
    .next (if s.get 0x31A0 9 = 2 then
        let s1 := { s with firm := { s.firm with rseq := (s.firm.rseq + 1) % 2 ^ 32, marked := false } }
        (s1.put 0x31A0 9 3).emit (.data 11 0x20000 s1.bistRecord)
      else s)

/-! ### Writing a slot (R449) -/

/-- The slot that is not running. -/
def State.otherSlot (s : State) : Nat := 1 - s.get 0x1001 5

/-- FW_STATE 4 with its reason; the FW source latches. -/
def State.refuseSlot (s : State) (k reason : Nat) : State :=
  (((s.setFwSlot k { s.fwSlot k with state := 4 }).put 0x7000 4 4).put 0x7001 1 reason).attend 12 0xFF

/-- A segment of FW_WRITE is programmed and read back (`flashOk`): the code of its reply, and the state after it. -/
def State.fwSegment (s : State) (first last : Bool) (off : Nat) (data : List Byte) (flashOk : Bool) : State × Nat :=
  let k := s.otherSlot
  let x0 := s.fwSlot k
  if s.get 0x7000 4 = 3 ∨ s.firm.verifying ∨ (first = false ∧ (x0.state ≠ 1 ∨ off ≠ x0.written)) ∨ (first ∧ off ≠ 0)
      ∨ 16 * mb < off + data.length then (s, 0x14)
  else
    let s1 := if first then
        (((s.setFwSlot k { state := 1 }).writeBootHeader).put 0x7000 4 1).put 0x7001 1 0
      else s
    let x := s1.fwSlot k
    let y := { x with header := x.header ++ data.take (8192 - min 8192 off), written := off + data.length }
    let s2 := (s1.setFwSlot k y).emit (.data 11 (0x100000 + k * 0x1000000 + off) data)
    (if flashOk = false then s2.refuseSlot k 7
     else if last then { s2 with firm := { s2.firm with verifying := true } } else s2, 0)

/-- FW_WRITE: one segment for the slot that is not running. -/
def execFwWrite (first last : Bool) (offset : BitVec 32) (data : List Byte) (flashOk : Bool) (s : State) : Answer :=
  .next (s.fwSegment first last offset.toNat data flashOk).1

/-- FW_VERIFY_DONE: the slot written is checked: what cryptography finds (`fault`), and what its header shows, the running core runtime included. In
ROM recovery a slot that passes is committed (R439). -/
def execFwVerifyDone (fault : BitVec 3) (s : State) : Answer :=
  if s.firm.verifying = false then .next s
  else
    let k := s.otherSlot
    let s1 := { s with firm := { s.firm with verifying := false } }
    let r := s.slotFault k fault.toNat (if s.recovery then none else some (s.get 0x1001 2))
    if r ≠ 0 then .next (s1.refuseSlot k r)
    else if s.recovery then
      .next (((s1.setFwSlot k { s.fwSlot k with state := 3, seq := (s.fwSlot (1 - k)).seq + 1 }).writeBootHeader).put 0x7000 4 2)
    else .next ((s1.setFwSlot k { s.fwSlot k with state := 2 }).put 0x7000 4 2)

/-! ### Activation (R450 to R452) -/

/-- Whether a write of FW_ACTIVATE may be staged: it names the slot that is not running, and that is verified. -/
def State.activateOk (s : State) (slot : Nat) : Bool := slot == s.otherSlot && s.get 0x7000 4 == 2

/-- FW_ACTIVATE: the activation of a verified slot is staged in the open device-wide Rally. -/
def execFwActivate (slot : BitVec 8) (s : State) : Answer :=
  match s.openRally 16 with
  | some r =>
    .next (if s.activateOk slot.toNat then
        s.updRally r.id fun x => { x with lastUse := s.clock, staged := (x.staged.filter fun w => w.key != fwActivateKey)
                                                                          ++ [Staged.mk fwActivateKey slot.toNat [] false] }
      else s)
  | none => .next s

/-- RUNTIME_SWITCH: a core that holds no resident or swapped-out context switches to the activated runtime; until it has switched it takes jobs
released before S only, so every context it holds is of an earlier epoch. With the last core, RUNTIME_VERSION follows. -/
def execRuntimeSwitch (core : Fin 64) (s : State) : Answer :=
  match s.firm.activated with
  | some a =>
    let n := core.val
    .next (if s.firm.switched.getLsbD n ∨ (s.core n).residents ≠ [] ∨ (s.swapped.any fun w => w.core == n) then s
      else
        let v := fieldOf (s.fwSlot a.1).header 12 4
        let m := s.firm.switched ||| BitVec.ofNat 64 (2 ^ n)
        let s1 := { (s.updCore n fun c => { c with runtimeImage := v }) with firm := { s.firm with switched := m } }
        if m = BitVec.allOnes 64 then s1.put 0x1001 2 v else s1)
  | none => .next s

/-- FW_FINALIZE: once every core has switched: the boot-header copies with the activated slot's SLOT_SEQ one more than the other's, the fuses,
FW_STATE, and the FW source. -/
def execFwFinalize (s : State) : Answer :=
  match s.firm.activated with
  | some a =>
    .next (if s.firm.switched ≠ BitVec.allOnes 64 then s
      else
        let x := s.fwSlot a.1
        let s1 := s.setFwSlot a.1 { x with state := 3, seq := (s.fwSlot (1 - a.1)).seq + 1 }
        let s2 := s1.writeBootHeader.writeBootHeader.raiseFuses x.header
        ({ s2 with firm := { s2.firm with activated := none } }.put 0x7000 4 0).attend 12 0xFF)
  | none => .next s

/-- OLD_EPOCH_CONTEXT_TIMEOUT: 100 ms after S, the contexts of earlier epochs that a core still holds are fenced with INTERNAL, whose control-complex
code the spec does not list: a free value. -/
def execOldEpochContextTimeout (core : Fin 64) (s : State) : Answer :=
  match s.firm.activated with
  | some a =>
    let n := core.val
    .next (if s.firm.switched.getLsbD n ∨ s.longSince 100000 a.2 = false then s
      else
        let l := ((s.core n).residents.map fun k => ((s.core n).ctx k).job) ++ (s.swapped.filter fun w => w.core == n).map fun w => w.ctx.job
        l.foldl (fun (s : State) j => s.bumpFree.fenceJobAnywhere j 0x44 (s.free.toNat % 2 ^ 32)) s)
  | none => .next s

/-! ### Attestation (R455; Table 19.7) -/

/-- The bytes of a report before its signature. -/
def State.attestation (s : State) (nonce : List Byte) : List Byte :=
  let m := s.measurements
  let serial := (s.blobAt 0x1000 5).take 16
  bytesOf 2 1 ++ bytesOf 2 0 ++ bytesOf 4 (88 + m.length + 17088) ++ nonce ++ serial ++ List.replicate (16 - serial.length) 0#8
    ++ bytesOf 1 (s.get 0x1000 3) ++ bytesOf 3 0 ++ bytesOf 4 (s.get 0x1001 1) ++ bytesOf 4 (s.get 0x1001 2) ++ bytesOf 4 (s.get 0x7000 5)
    ++ bytesOf 4 (s.get 0x1001 4) ++ (if s.tbState 0 = .locked then s.nowTai 0 else List.replicate 10 0#8) ++ bytesOf 2 (m.length / 36) ++ m

/-- A nonce begins a report, unless one is in progress. -/
def State.attestBegin (s : State) (nonce : List Byte) : State × Nat :=
  if s.firm.attest.isSome then (s, 0x40)
  else if nonce.length ≠ 32 then (s, 0x14)
  else ({ s with firm := { s.firm with attest := some (nonce, s.attestation nonce) } }, 0)

/-- ATTEST_NONCE: a signed report begins, of the measurements at this instant. -/
def execAttestNonce (nonce : List Byte) (s : State) : Answer := .next (s.attestBegin nonce).1

/-- ATTEST_REPORT_READY: the report is signed, and ATTEST_REPORT holds it. -/
def execAttestReportReady (signature : List Byte) (s : State) : Answer :=
  match s.firm.attest with
  | some a =>
    .next (if signature.length ≠ 17088 then s
      else { s with firm := { s.firm with attest := none } }.putBlob 0x7000 9 (a.2 ++ signature))
  | none => .next s

end Sys2Proof.Machine
end

