-- ==== Sys2Proof/Machine/Debug.lean ====
section
/-! DEFINITION. Device-physical memory as BAR2 and the debug access port see it, the TAP, counters, and the trace drain (R287, R349, R375,
R457 to R468). -/

namespace Sys2Proof.Machine

open Sys2Proof

/-! ### Device-physical memory (R375, R385, R465; Table 16.6) -/

/-- What lies at a device-physical address. -/
inductive Region where
  | core | symbol | bench | harq | csr | tally | xspi | remote | host | unmapped
  deriving DecidableEq, Repr

def csrBase : Nat := 0x10000000
/-- CSR address of register set 1 (R465). -/
def dbgBase : Nat := 0x10F00000

/-- The region that n bytes at an address lie in. -/
def State.region (s : State) (a n : Nat) : Region :=
  if a + n ≤ 64 * Config.coreMemBytes then .core
  else if 0x8000000 ≤ a ∧ a + n ≤ 0x9800000 then .symbol
  else if 0xA000000 ≤ a ∧ a + n ≤ 0xB800000 then .bench
  else if softBase ≤ a ∧ a + n ≤ softBase + 0x1000000 then .harq
  else if csrBase ≤ a ∧ a + n ≤ csrBase + 0x1000000 then .csr
  else if inTally a n then .tally
  else if (xspiOffset (s.get 0x2510 2) a).isSome ∧ (xspiOffset (s.get 0x2510 2) (a + n - 1)).isSome then .xspi
  else if remoteBase ≤ a ∧ a + n ≤ remoteBase + 24 * 0x10000000000 then .remote
  else if hostReach a n then .host else .unmapped

/-- The registers of debug set 1 as bytes (Table 20.4). -/
def DbgSet.bytes (d : DbgSet) : List Byte := bytesOf 8 d.addr ++ bytesOf 8 d.data ++ bytesOf 4 (d.ctrl / 2 * 2) ++ bytesOf 4 d.status

/-- Bytes of CSR space: register set 1; the rest of its layout is not given, and reads as a free value. -/
def State.csrBytes (s : State) (a n : Nat) : List Byte :=
  let x := s.free.toNat
  (List.range n).map fun i =>
    if dbgBase ≤ a + i ∧ a + i < dbgBase + 24 then ((s.dbg.set1.bytes)[a + i - dbgBase]?).getD 0#8 else BitVec.ofNat 8 (x / 2 ^ (8 * i))

/-- Whether an address lies in the save area of the context that was running at a cut that is held (R467). -/
def State.inHeldArea (s : State) (a : Nat) : Bool :=
  let n := a / Config.coreMemBytes
  decide (n < 64) && s.get 0x5300 5 == 3 && (s.core n).jobMode && decide (saveArea n (s.core n).cur ≤ a)
    && decide (a < saveArea n (s.core n).cur + 0x8000)

/-- Bytes of the chip's own memory: in the save area of a context held at a cut, what a save of its held state would write there (R467). -/
def State.devBytes (s : State) (a n : Nat) : List Byte :=
  match s.region a n with
  | .csr => s.csrBytes a n
  | .tally => s.tallyBytes a n
  | _ => if s.inHeldArea a then memBytes (s.saveCtx (a / Config.coreMemBytes) 2).mem n a else memBytes s.mem n a

/-- An access is counted: core memory at order 8 of Table 3.6, and bytes of an xSPI RAM channel (Table 20.1). -/
def State.countAccess (s : State) (a n : Nat) : State :=
  match s.region a n with
  | .core => s.countCore (a / Config.coreMemBytes) 0x50 1
  | .xspi => s.countGlobal (0x1020 + (a - xspiBase) / 0x8000000 % 8) n
  | .csr => s.bumpFree
  | _ => s

/-- A write into the chip's memory: tags become 0 (R133), and lines of tile caches that hold the range are invalid (R108). -/
def State.devWrite (s : State) (a : Nat) (b : List Byte) : State :=
  s.writeBytes a b

/-! ### The debug access port (R465 to R467) -/

def State.dbgSet (s : State) (set1 : Bool) : DbgSet := if set1 then s.dbg.set1 else s.dbg.set0
def State.setDbg (s : State) (set1 : Bool) (d : DbgSet) : State :=
  { s with dbg := if set1 then { s.dbg with set1 := d } else { s.dbg with set0 := d } }

/-- DBG_STATUS with an error, and a tag. -/
def dbgStatus (err tag : Nat) : Nat := err * 256 + tag * 2

/-- A read that the port makes: the data and the error. `ext` is what a remote chip or host memory answers, nothing where it does not. -/
def State.dbgRead (s : State) (set1 : Bool) (addr : Nat) (tag : Bool) (ext : List Byte) (ecc : Bool) : State :=
  let a := addr % 2 ^ 48 / 8 * 8
  let d : DbgSet := { s.dbgSet set1 with addr := a, ctrl := if tag then 4 else 0 }
  let s1 := s.countAccess a 8
  let fail := fun e => s1.setDbg set1 { d with status := dbgStatus e 0 }
  let done := fun (b : List Byte) t => s1.setDbg set1 { d with data := fieldOf b 0 8, status := dbgStatus 0 (if tag then t else 0) }
  match s.region a 8 with
  | .unmapped => fail 1
  | .remote => if ext.length < 8 then fail 3 else done ext 0
  | .host => if ext.length < 8 then fail 2 else done ext 0
  | .xspi => if ecc ∨ s.isFenced 9 ((a - xspiBase) / 0x8000000 % 8) then fail 2 else done (memBytes s.mem 8 a) (Tbl.get 0#6 s.tags (a / 8)).toNat
  | _ => if ecc then fail 2 else done (s.devBytes a 8) (Tbl.get 0#6 s.tags (a / 8)).toNat

/-- A write that the port makes: the state after it, with its error. A write of a Tally record other than of ADD is ignored, and set 1's source is
the physical function (R287). -/
def State.dbgWrite (s : State) (set1 : Bool) (addr data : Nat) (timeout : Bool) : State :=
  let a := addr % 2 ^ 48 / 8 * 8
  let b := bytesOf 8 data
  let d : DbgSet := { s.dbgSet set1 with addr := a, data := data, ctrl := 2 }
  let s1 := s.countAccess a 8
  let fail := fun e => s1.setDbg set1 { d with status := dbgStatus e 0 }
  let done := fun (s : State) => s.setDbg set1 { d with status := 0 }
  match s.region a 8 with
  | .unmapped => fail 1
  | .remote => if timeout then fail 3 else done (s1.emit (.data 1 a b))
  | .host => done (s1.emit (.data 2 a b))
  | .csr => done s1
  | .tally => done (if set1 then s1.hostViolation 0 else s1)
  | .xspi => if s.isFenced 9 ((a - xspiBase) / 0x8000000 % 8) then fail 2 else done (s1.devWrite a b)
  | _ => if s.inHeldArea a then fail 4 else done (s1.devWrite a b)

/-- Whether register set 0 is reached: by the TAP with DEBUG_JTAG 1 (R466). -/
def State.dbgReached (s : State) (set1 : Bool) : Bool := (set1 || s.get 0x6000 6 == 1) && !s.power.tripped

/-- DBG_READ: an access that GO has started reads 8 bytes. -/
def execDbgRead (set1 : Bool) (addr : BitVec 64) (tag : Bool) (ext : List Byte) (ecc : Bool) (s : State) : Answer :=
  .next (if s.dbgReached set1 then s.dbgRead set1 addr.toNat tag ext ecc else s)

/-- DBG_WRITE: an access that GO has started writes 8 bytes. -/
def execDbgWrite (set1 : Bool) (addr data : BitVec 64) (timeout : Bool) (s : State) : Answer :=
  .next (if s.dbgReached set1 then s.dbgWrite set1 addr.toNat data.toNat timeout else s)

/-- A write of DBG_CTRL. GO starts an access of the chip's own memory at once; one that leaves the chip is BUSY until its DBG_READ or DBG_WRITE;
a GO while BUSY is ignored, with ERR 5. -/
def State.dbgCtrl (s : State) (set1 : Bool) (c : Nat) : State :=
  let d := s.dbgSet set1
  let out : Bool := s.region (d.addr % 2 ^ 48 / 8 * 8) 8 == .remote || s.region (d.addr % 2 ^ 48 / 8 * 8) 8 == .host
  if c % 2 = 0 then s.setDbg set1 { d with ctrl := c % 8 }
  else if d.status % 2 = 1 then s.setDbg set1 { d with status := 1 + dbgStatus 5 0 }
  else if out then s.setDbg set1 { d with ctrl := c / 2 % 4 * 2, status := 1 }
  else if c / 2 % 2 = 1 then s.dbgWrite set1 d.addr d.data false
  else s.dbgRead set1 d.addr (c / 4 % 2 == 1) [] false

/-! ### The TAP (R466). What it shifts out, and drives, is recorded as kind 10. -/

def State.tap (s : State) (i : JtagInstr) : State := { s with dbg := { s.dbg with instr := i } }
/-- Bits of the boundary register as bytes, least significant bit of the first byte first. -/
def boundaryBytes (l : List Bool) : List Byte :=
  bytesOf ((l.length + 7) / 8) ((l.zipIdx).foldl (fun a e => a + bitAt e.1 e.2) 0)

/-- BYPASS: the one-bit register, which captures 0. -/
def execBypass (s : State) : Answer := .next ((s.tap .bypass).emit (.data 10 0 [0#8]))
/-- SAMPLE/PRELOAD: the boundary register captures the pins' levels and takes what it will drive. -/
def execSamplePreload (pins : List Bool) (s : State) : Answer :=
  .next { s.tap .samplePreload with dbg := { (s.tap .samplePreload).dbg with boundary := pins } }
/-- EXTEST: the boundary register drives the pins. -/
def execExtest (s : State) : Answer := .next ((s.tap .extest).emit (.data 10 1 (boundaryBytes s.dbg.boundary)))
/-- IDCODE: 0x1726_474F. -/
def execIdcode (s : State) : Answer := .next ((s.tap .idcode).emit (.data 10 0 (bytesOf 4 0x1726474F)))
/-- CLAMP: the boundary register drives the pins, with the one-bit register selected. -/
def execClamp (s : State) : Answer := .next ((s.tap .clamp).emit (.data 10 1 (boundaryBytes s.dbg.boundary)))
/-- EXTEST_PULSE and EXTEST_TRAIN: AC test stimuli of IEEE 1149.6 on the fronthaul and Megorlink lanes. -/
def execExtestPulse (s : State) : Answer := .next ((s.tap .extestPulse).emit (.data 10 2 (boundaryBytes s.dbg.boundary)))
def execExtestTrain (s : State) : Answer := .next ((s.tap .extestTrain).emit (.data 10 3 (boundaryBytes s.dbg.boundary)))

/-- DBGACC: register set 0 as one 160-bit register: what it captures leaves, and `value` is loaded. With DEBUG_JTAG 0 a one-bit register that
reads 0. -/
def execDbgacc (value : BitVec 160) (s : State) : Answer :=
  if s.get 0x6000 6 = 0 then .next ((s.tap .dbgacc).emit (.data 10 0 [0#8]))
  else
    let d := s.dbg.set0
    let s1 := (s.tap .dbgacc).emit (.data 10 0 (bytesOf 8 d.data ++ bytesOf 6 d.addr ++ bytesOf 4 d.status ++ bytesOf 2 0))
    let v := value.toNat
    .next (if s.power.tripped then s1
      else (s1.setDbg false { d with data := bits v 0 64, addr := bits v 64 48 }).dbgCtrl false (bits v 112 32))

/-! ### Observation traffic (R464) -/

/-- The present window of 1,024 cycles of a network-on-chip domain, at 1,200 MHz of the model's clock. -/
def State.obsWindow (s : State) : Nat := s.clock * 625 / 1024 / 1024
/-- What a domain has carried in the present window. -/
def State.obsShare (s : State) (d : Nat) : ObsShare :=
  let x := Tbl.get {} s.dbg.obs d
  if x.window = s.obsWindow then x else { x with window := s.obsWindow, used := 0 }
/-- Flit slots of the present window that observation traffic may still use: TRACE_SHARE percent, with nothing carried forward. -/
def State.obsLeft (s : State) (d : Nat) : Nat := 1024 * s.get 0x6000 1 / 100 - (s.obsShare d).used
/-- Observation traffic of n flits of 64 bytes uses its slots. -/
def State.observe (s : State) (d n : Nat) : State :=
  let x := s.obsShare d
  { s with dbg := { s.dbg with obs := Tbl.set {} s.dbg.obs d { x with used := x.used + n } } }
/-- Whether a core has records to drain (R462). -/
def State.drains (s : State) (n : Nat) : Bool := s.get (0x8000 + n) 0x0B == 1 && (s.core n).traceCount != 0
/-- The core of cluster d whose turn it is: of those with records pending, the next after the one served last. -/
def State.drainTurn (s : State) (d : Nat) : Option Nat :=
  ((List.range 8).map fun i => 8 * d + ((s.obsShare d).last + 1 + i) % 8).find? s.drains
/-- A core of cluster d has been served a burst of n flits. -/
def State.servedBurst (s : State) (d core n : Nat) : State :=
  let x := (s.observe d n).obsShare d
  { s with dbg := { s.dbg with obs := Tbl.set {} s.dbg.obs d { x with last := core % 8 } } }

/-! ### The trace drain (R462) -/

/-- Record i of a core's ring, oldest first. -/
def State.traceRecord (s : State) (n i : Nat) : List Byte :=
  let c := s.core n
  memBytes s.mem 32 (n * Config.coreMemBytes + 0x30000 + (c.traceHead + 2048 - c.traceCount + i) % 2048 * 32)

/-- Bytes written into the host trace ring from a byte count on, behind the index page. -/
def State.hostTrace (s : State) (addr area pos : Nat) (b : List Byte) : State :=
  let p := pos % area
  let room := area - p
  if b.length ≤ room then s.hostWrite (addr + 0x1000 + p) b
  else (s.hostWrite (addr + 0x1000 + p) (b.take room)).hostWrite (addr + 0x1000) (b.drop room)

/-- TRACE_DRAIN_BURST: one burst of the core whose turn it is in its cluster, of up to 4 KB and of what the window's share leaves (R464; log entry
166): to the host ring, where the consumer count just read leaves room, with the producer count after the records; or to the trace spill, which
overwrites its oldest. -/
def execTraceDrainBurst (core : Fin 64) (consumer : BitVec 64) (s : State) : Answer :=
  let n := core.val
  let c := s.core n
  let dest := s.get 0x6000 2
  let d := n / 8
  if s.drainTurn d ≠ some n ∨ 2 ≤ dest ∨ s.power.tripped then .next s
  else
    let addr := s.get 0x6000 3
    let area := s.get 0x6000 4 - 0x1000
    let used := s.dbg.producer - consumer.toNat
    let most := min (min 128 c.traceCount) (2 * s.obsLeft d)
    let k := if dest = 1 then most
      else if hostReach addr (area + 0x1000) = false then 0 else min most ((area - used) / 32)
    if k = 0 then .next s
    else
      let b := (List.range k).flatMap fun i => s.traceRecord n i
      let s1 := ((s.servedBurst d n ((k + 1) / 2)).countCore n 0x50 ((k + 3) / 4)).updCore n fun c => { c with traceCount := c.traceCount - k }
      if dest = 1 then
        let p := s.get 0x6000 8
        .next ((b.zipIdx.foldl (fun (s : State) e => s.xspiWrite (mb + (p + e.2) % (32 * mb)) [e.1]) s1).put 0x6000 8 ((p + b.length) % (32 * mb)))
      else
        let s2 := s1.hostTrace addr area s.dbg.producer b
        let q := s.dbg.producer + b.length
        .next ({ s2 with dbg := { s2.dbg with producer := q } }.hostWrite addr (bytesOf 8 q))

/-! ### Counters (R349, R457, R463) -/

/-- COUNT_SNAPSHOT: at a symbol boundary of TB0 that ends a period, every core with TRACE_ENABLE writes a COUNT record for each of its counters that
counts; each uses a flit slot of the cluster's domain (R464; log entry 166). -/
def execCountSnapshot (s : State) : Answer :=
  let edge := s.mono 0 (s.symbolStart 0)
  if s.get 0x6000 7 = 0 ∨ spansUs (s.get 0x6000 7) s.dbg.snapshot edge = false ∨ s.power.tripped then .next s
  else
    let s0 := { s with dbg := { s.dbg with snapshot := edge.toNat } }
    .next (((List.range 64).filter fun n => s.get (0x8000 + n) 0x0B == 1).foldl (fun (s : State) n =>
      ((List.range 16).filter fun i => s0.get (0x8000 + n) (0x20 + i) != 0).foldl (fun (s : State) i =>
        (s.observe (n / 8) 1).trace n 7 (s.core n).cur (s.coreCourt n) 0
          (s0.get (0x8000 + n) (0x20 + i) + i * 2 ^ 16 + s0.get (0x8000 + n) (0x10 + i) * 2 ^ 64)) s) s0)

/-- A selector of a core's counter, or of a global one, is written: the counter restarts from 0. -/
def State.writeSel (s : State) (core : Option Nat) (i sel : Nat) : State :=
  match core with
  | some n => (s.put (0x8000 + n) (0x20 + i) sel).put (0x8000 + n) (0x10 + i) 0
  | none => (s.put 0x6011 (i + 1) sel).put 0x6010 (i + 1) 0

/-- COUNT_SEL_WRITE: a selector that Table 20.1 does not list for the counter is refused. -/
def execCountSelWrite (core : Option (Fin 64)) (counter : Fin 64) (sel : BitVec 16) (s : State) : Answer :=
  let v := sel.toNat
  let ok : Bool := match core with
    | some _ => decide (counter.val < 16) && coreSelectors.contains v
    | none => globalSelector v
  .next (if ok then s.writeSel (core.map fun n => n.val) counter v else s)

/-- Whether a write of an object clears it (R349). -/
def isStatistic (index sub : Nat) : Bool :=
  (decide (0x8000 ≤ index) && decide (index < 0x8040) && decide (0x40 ≤ sub) && decide (sub < 0x48)) || (index == 0x5010 && sub == 2)

/-- A statistic is cleared: ENG_MAX and ENG_CHMAX to 0, TJ_PEAK to TJ_NOW. -/
def State.clearStatistic (s : State) (index sub : Nat) : State :=
  if index = 0x5010 then s.put 0x5010 2 (s.get 0x5010 1)
  else if sub % 2 = 0 then s.put index sub 0 else s.putBlob index sub (blobDefault (okey index sub))

/-- STATISTICS_CLEAR: a write of a statistic, with any value. -/
def execStatisticsClear (index : BitVec 16) (sub : BitVec 8) (s : State) : Answer :=
  .next (if isStatistic index.toNat sub.toNat then s.clearStatistic index.toNat sub.toNat else s)

end Sys2Proof.Machine
end

