-- ==== Sys2Proof/Machine/Oap.lean ====
section
/-! DEFINITION. The Object Access Protocol: channels, frames, checks and results of every opcode, heartbeats, relays, and the writes that take effect at
once (R320 to R343, R347, R348, R380, R439, R453; Tables 14.1 to 14.5). -/

namespace Sys2Proof.Machine

open Sys2Proof

/-! ### Channels (R320, R321) -/

/-- A channel that has carried nothing: its function's rights, and the largest payload of Table 14.1. Keys 0 to 15 are PCIe functions, 16 to 23 sources of
the management port, 32 + 64 r + n the channel with key n of chip r. -/
def freshChan (k : Nat) : Chan :=
  let n := if k < 32 then k else (k - 32) % 64
  let mgmt : Bool := decide (16 ≤ n)
  { live := true, func := if mgmt then 0 else n, mgmt := mgmt, largest := (if mgmt then 1440 else 4096) - (if k < 32 then 0 else 20) }
def State.chan (s : State) (k : Nat) : Chan :=
  let c := Tbl.get {} s.chans k
  if c.live then c else freshChan k
def State.setChan (s : State) (k : Nat) (c : Chan) : State := { s with chans := Tbl.set {} s.chans k c }

def mgmtKeys : List Nat := [16, 17, 18, 19, 20, 21, 22, 23]
/-- Source address and port of a management channel as one number. -/
def sourceOf (addr : BitVec 32) (port : BitVec 16) : Nat := addr.toNat * 65536 + port.toNat
/-- The open channel of a source. -/
def State.mgmtChan (s : State) (a : Nat) : Option Nat :=
  mgmtKeys.find? fun k => (Tbl.get {} s.chans k).live && (Tbl.get {} s.chans k).addr == a

/-- Key of the channel that a request comes on, and the state in which it is open; none for a ninth source of the management port. -/
def State.openChan (s : State) (r : ChanRef) : Option (Nat × State) :=
  match r with
  | .pcie f => some (f.val, s)
  | .relay c n => some (32 + 64 * c.val + n.val, s)
  | .mgmt addr port =>
    match s.mgmtChan (sourceOf addr port) with
    | some k => some (k, s)
    | none => (mgmtKeys.find? fun k => !(Tbl.get {} s.chans k).live).map fun k => (k, s.setChan k { freshChan k with addr := sourceOf addr port })

/-- Key of an open channel. -/
def State.chanKey (s : State) (r : ChanRef) : Option Nat :=
  match r with
  | .pcie f => some f.val
  | .relay c n => some (32 + 64 * c.val + n.val)
  | .mgmt addr port => s.mgmtChan (sourceOf addr port)

/-- The function whose rights and counters a source has. -/
def chanFunc (r : ChanRef) : Nat :=
  match r with
  | .pcie f => f.val
  | _ => 0

/-! ### Frames (R322, Table 14.2) -/

/-- The ones'-complement sum of little-endian 16-bit words. -/
def onesSum : Nat → List Byte → Nat
  | 0, _ => 0
  | n + 1, b =>
    let x := fieldOf b 0 2 + onesSum n (b.drop 2)
    x % 65536 + x / 65536

/-- The header check over bytes 0 to 13. -/
def headerCheck (b : List Byte) : Nat := 0xFFFF - onesSum 7 b

/-- Fields of a request's header. -/
structure OapHead where
  opcode : Nat
  seq : Nat
  court : Nat
  sub : Nat
  index : Nat
  length : Nat
  flags : Nat
  deriving DecidableEq, Repr

def headOf (f : List Byte) : OapHead :=
  ⟨fieldOf f 1 1, fieldOf f 2 2, fieldOf f 4 1, fieldOf f 5 1, fieldOf f 6 2, fieldOf f 8 2, fieldOf f 10 1⟩

/-- DEVICE, and the Rally scope the request names: a Court, or 16 for the device-wide one. -/
def OapHead.device (h : OapHead) : Bool := h.court.testBit 7
def OapHead.scope (h : OapHead) : Nat := if h.device then 16 else h.court % 16

def opcodes : List Nat := [0, 1, 2, 3, 4, 0x10, 0x11, 0x12, 0x13, 0x20, 0x21]

/-- A frame that is answered BAD_FRAME. -/
def badFrame (f : List Byte) : Bool :=
  let h := headOf f
  decide (f.length < 16) || onesSum 8 f != 0xFFFF || fieldOf f 0 1 != 1 || !(opcodes.contains h.opcode)
    || h.court / 16 % 8 != 0 || h.flags / 16 != 0 || fieldOf f 11 3 != 0 || h.length + 16 != f.length

/-- A reply: the request's header with the result, the payload's length and the DSW. Of FLAGS it uses LAST. -/
def replyFrame (h : OapHead) (code : Nat) (payload : List Byte) (last : Bool) (dsw : Nat) : List Byte :=
  let b := [1#8] ++ bytesOf 1 h.opcode ++ bytesOf 2 h.seq ++ bytesOf 1 h.court ++ bytesOf 1 h.sub ++ bytesOf 2 h.index
    ++ bytesOf 2 payload.length ++ bytesOf 1 (bitAt last 0) ++ bytesOf 1 code ++ bytesOf 2 dsw
  b ++ bytesOf 2 (headerCheck b) ++ payload

/-- A cached reply with the present DSW (R326). -/
def restamp (f : List Byte) (dsw : Nat) : List Byte :=
  let b := f.take 12 ++ bytesOf 2 dsw
  b ++ bytesOf 2 (headerCheck b) ++ f.drop 16

/-! ### Delivery (Table 16.9, R313, R321, R380) -/

/-- Where a reply goes: the channel's key, and for a PCIe function the RQ index and REPLY_ADDR. -/
structure ReplyTo where
  chan : Nat
  reqIndex : Nat
  replyAddr : Nat
  deriving DecidableEq, Repr

/-- An entry of RP with a frame, or an error code and a header, where nothing is inline. -/
def rpEntry (reqIndex code : Nat) (frame : List Byte) : List Byte :=
  let p := frame.drop 16
  let inl : Bool := code == 0 && decide (p.length ≤ 32)
  bytesOf 4 reqIndex ++ bytesOf 1 code ++ bytesOf 1 (bitAt inl 0) ++ bytesOf 2 p.length ++ bytesOf 8 0 ++ frame.take 16
    ++ (if inl then p ++ List.replicate (32 - p.length) 0#8 else List.replicate 32 0#8)

/-- A reply leaves: a payload that is not inline before its RP entry; as a UDP payload; or to the chip that relayed the request. One for a reply ring
that has been disabled since is discarded. -/
def State.sendReply (s : State) (t : ReplyTo) (frame : List Byte) : State :=
  if t.chan < 16 ∧ (s.ring t.chan 1).enabled = false then s
  else if t.chan < 16 then
    let p := frame.drop 16
    (if 32 < p.length then s.hostWrite t.replyAddr p else s).replyEntry t.chan (rpEntry t.reqIndex 0 frame)
  else if t.chan < 32 then s.emit (.data 5 (s.chan t.chan).addr frame)
  else s.sendMgl ((t.chan - 32) / 64) 0 9 (bytesOf 1 0x0E ++ bytesOf 1 ((t.chan - 32) % 64) ++ frame)

/-- Whether requests of a source are served: by firmware, or in recovery on the physical function and the management port (R439); while RP has room
(R382); a relayed one only in live service (R408). -/
def State.serves_ (s : State) (r : ChanRef) : Bool :=
  s.serving && match r with
  | .pcie f => s.replyRoom f.val && (!s.recovery || f.val == 0)
  | .mgmt _ _ => true
  | .relay _ _ => !s.recovery && !s.injecting

/-! ### Rights (R265, R321, R346, R347) -/

def Chan.rights (c : Chan) : Rights := ⟨c.func, c.mgmt⟩

/-- A Court, or the device-wide scope, outside the channel's rights. -/
def State.scopeDenied (s : State) (c : Chan) (h : OapHead) : Bool :=
  (c.func != 0 && (h.device || h.court % 16 != c.func))
    || (c.mgmt && !h.device && !(s.get 0x1120 2).testBit (h.court % 16))

/-- The object a request names, or the code that denies it. -/
def State.target (s : State) (c : Chan) (h : OapHead) (write : Bool) : Except Nat ObjRow :=
  if s.indexExists h.index then
    match objAt h.index h.sub with
    | some x => if s.reaches c.rights (h.court % 16) h.index h.sub write = false ∨ (write = false ∧ x.access = .wo) then .error 0x12 else .ok x
    | none => .error 0x11
  else .error 0x10

/-- Courts that own an object in force, or by a committed Rally that is not served. -/
def State.ownersSoon (s : State) (index sub : Nat) : List Nat :=
  let l := s.pendingInOrder
  (List.range (l.length + 1)).filterMap fun i => (s.view ((l.take i).flatMap fun r => r.staged)).owner index sub

/-- Staging outside the owner. -/
def State.stagingDenied (s : State) (scope index sub : Nat) : Bool :=
  scope != 16 && (match scopeOf index sub with
    | .device => true
    | .courtDevice => true
    | .record => s.ownersSoon index sub != [] && !(s.ownersSoon index sub).contains scope
    | _ => !(s.ownersSoon index sub).contains scope)

/-! ### Writes into a Rally (R284, R335, R336, R342) -/

/-- Stage kind of the models an object names: of PINS any stage. -/
def modelStage (k : Nat) : Option Nat :=
  let i := k / 256
  if 0x4000 ≤ i ∧ i < 0x4020 then some (k % 256 + 1) else if 0x4060 ≤ i ∧ i < 0x4070 then some 4 else none

/-- A model that an object may name: none or Breeze where R284 allows it, else a sound model of the library of the object's stage kind. -/
def State.nameable (s : State) (k m : Nat) : Bool :=
  let x := s.model m
  let adapt : Bool := decide (0x4060 ≤ k / 256)
  if m = 0xFFFF then decide (0x4000 ≤ k / 256) && !adapt
  else if m = 0 then adapt
  else x.live && !x.damaged && (match modelStage k with
    | some n => x.stage == n
    | none => decide (2 ≤ x.stage ∧ x.stage ≤ 4)) && (!adapt || x.adaptable)

/-- A model write names only such models. -/
def State.modelWriteOk (s : State) (w : Staged) : Bool :=
  match modelsOf w.key w.value w.bytes with
  | some l => l.all (s.nameable w.key)
  | none => true

/-- Models that a write names, that the Bench does not hold and is not loading. -/
def State.toLoad (s : State) (w : Staged) : List Nat :=
  (((modelsOf w.key w.value w.bytes).getD []).filter fun m => realModel m && !s.loading m && !(s.resident m).live).eraseDups

/-- Bytes of STR and BLOB values that are staged. -/
def stagedBytes (l : List Staged) : Nat := (l.map fun w => w.bytes.length).sum

/-- The limits of a Rally with one more write. -/
def State.rallyFull (s : State) (r : Rally) (w : Staged) : Bool :=
  let rest := r.staged.filter fun x => x.key != w.key
  decide (4096 < rest.length + 1) || decide (1048576 < stagedBytes rest + w.bytes.length)
    || decide (32 < r.pages + ((s.toLoad w).map fun m => (s.model m).pages).sum)

/-- Loads of a staged write begin, for its Rally. -/
def State.stageLoads (s : State) (id : Nat) (ms : List Nat) : State :=
  ms.foldl (fun (s : State) m =>
    let q := s.requestLoad m id false
    q.1.updRally id fun x =>
      if q.2 then { x with pages := x.pages + (s.model m).pages, loadEnd := s.airOf s.loadTb (s.loadDue (s.model m).pages).tc }
      else { x with loadRefused := true }) s

/-- Whether a key is staged in another open Rally that covers the object. -/
def State.stagedElsewhere (s : State) (scope k : Nat) : Bool :=
  s.rallies.any fun r => r.state == .opened && r.scope != scope && (r.scope == 16 || scope == 16) && (r.stagedFor k).isSome

/-- A write is staged in a Rally: the answer's code, and the state. A write to a record of another Court, of a model that may not be named, of an
activation that may not begin, or beyond a limit is RANGE. -/
def State.stageIn (s : State) (r : Option Rally) (chan scope : Nat) (w : Staged) : State × Nat :=
  let strange : Bool := scope != 16 && scopeOf (w.key / 256) (w.key % 256) == .record && (recordCourt (w.key / 256) w.bytes).any fun k => k != scope
  if strange ∨ s.modelWriteOk w = false ∨ (w.key = fwActivateKey ∧ s.activateOk w.value = false) then (s, 0x14)
  else match r with
    | none => (s, 0x21)
    | some x =>
      if s.rallyFull x w then (s, 0x14)
      else if x.chan ≠ chan ∨ s.stagedElsewhere x.scope w.key then (s, 0x20)
      else
        let s1 := s.updRally x.id fun y => { y with lastUse := s.clock, staged := (y.staged.filter fun z => z.key != w.key) ++ [w] }
        (s1.stageLoads x.id (s.toLoad w), 1)

/-- A write that another chip relays with SYS set: staged here as part of the Rally that its relay names, which this chip then holds open (R342). -/
def State.stageRelayed (s : State) (rally chan scope : Nat) (w : Staged) : State × Nat :=
  let id := rally + 2 ^ 32
  match s.openRally scope with
  | some r => s.stageIn (some r) (if r.id = id then r.chan else chan) scope w
  | none =>
    if rally = 0 then (s, 0x21)
    else
      let r : Rally := { id := id, scope := scope, chan := chan, spans := true, parts := 2 ^ (s.chip % 24), coord := s.chip, lastUse := s.clock }
      let q := ({ s with rallies := s.rallies ++ [r] }).stageIn (some r) chan scope w
      if q.2 = 1 then ((q.1).settle, 1) else (s, q.2)

/-! ### Writes in force at once (R324, R36, R43, R48, R222, R300, R349, R358, R443, R455, R457) -/

/-- ENABLE of a Megorlink port: it trains, or is down and its flits are dealt again. -/
def State.enablePort (s : State) (p v : Nat) : State :=
  let s1 := s.put (mpIx p) 1 v
  if v = s.get (mpIx p) 1 ∨ s.isFenced 6 p then s1
  else if v = 1 then ((s1.put (mpIx p) 4 1).setMport p { s1.mport p with since := some s.clock }).settle
  else ((s1.put (mpIx p) 4 0).redeal p).settle

/-- An answer that is RANGE where nothing may be done. -/
def orRange (s : State) (x : Option State) : State × Nat :=
  match x with
  | some t => (t, 0)
  | none => (s, 0x14)

/-- A write of a time base's object. -/
def State.writeTb (s : State) (n b v : Nat) : State × Nat :=
  if 5 ≤ b ∧ b ≤ 7 then orRange s (s.writeSource n b v)
  else if (b = 0x0A ∧ s.get (tbIx n) 0x0B < v) ∨ (b = 0x0B ∧ v < s.get (tbIx n) 0x0A) then (s, 0x14)
  else if b = 0x0E then orRange s (s.realign n)
  else (s.put (tbIx n) b v, 0)

/-- The copy of the configuration area not in force is programmed with the stored values, a sequence number one higher and a CRC-32, and is then
in force (R389). -/
def State.programBoot (s : State) (l : Tbl (Option (List Byte))) : State :=
  let s1 : State := { s with firm := { s.firm with stored := l, cfgSeq := s.firm.cfgSeq + 1 } }
  let b := s1.bootArea ++ bytesOf 4 s1.firm.cfgSeq
  s1.emit (.data 11 (0x10000 + s1.firm.cfgSeq % 2 * 0x8000) (b ++ bytesOf 4 (crc32 b).toNat))

/-- The value of an RW or WO object takes effect; `scope` chooses the instance of Table 14.11. The result is OK or RANGE, or BUSY of a nonce. -/
def State.writeNow (s : State) (f scope : Nat) (row : ObjRow) (i b : Nat) (v : List Byte) : State × Nat :=
  let n := natOf v
  let plain : State := if row.ty.size.isSome then s.put i b n else s.putBlob i b v
  if isStatistic i b then (s.clearStatistic i b, 0)
  else if i = 0x1003 then (s.programBoot [], 0)
  else if i = 0x1100 then ((s.putB f i b n).settle, 0)
  else if i = 0x1200 then (s.putB scope i b n, 0)
  else if 0x2000 ≤ i ∧ i < 0x2080 ∧ i % 16 = 0 then s.writeTb ((i - 0x2000) / 16) b n
  else if 0x2100 ≤ i ∧ i < 0x2120 then (s.forcePin (i - 0x2100) (n == 1), 0)
  else if i = 0x2123 then (plain.driveSynce, 0)
  else if 0x2610 ≤ i ∧ i < 0x2618 ∧ b = 1 then (s.enablePort (i - 0x2610) n, 0)
  else if 0x2610 ≤ i ∧ i < 0x2618 ∧ b = 0x0A then (s.portRetrain (i - 0x2610), 0)
  else if i = 0x31A0 ∧ b = 8 then (if s.shutdownOk then (s.beginShutdown, 0) else (s, 0x14))
  else if i = 0x3201 ∧ b = 3 then s.libDelete n
  else if 0x4060 ≤ i ∧ i < 0x4070 ∧ b = 9 then (if s.get i 0x0A = 3 then s.discardCandidate (i - 0x4060) else s, 0)
  else if i = 0x5010 ∧ ((b = 3 ∧ asI32 (s.get i 4) < asI32 n) ∨ (b = 4 ∧ asI32 n < asI32 (s.get i 3))) then (s, 0x14)
  else if i = 0x5300 ∧ b = 2 then orRange s (s.armWhistle n)
  else if i = 0x5300 ∧ b = 3 then orRange s s.cancelWhistle
  else if i = 0x5300 ∧ b = 4 then orRange s s.resumeWhistle
  else if i = 0x6000 ∧ b = 7 then ({ plain with dbg := { s.dbg with snapshot := s.clock } }, 0)
  else if i = 0x6011 then (s.writeSel none (b - 1) n, 0)
  else if i = 0x7000 ∧ b = 8 then s.attestBegin v
  else if 0x8000 ≤ i ∧ 0x20 ≤ b ∧ b < 0x30 then (s.writeSel (some (i - 0x8000)) (b - 0x20) n, 0)
  else (plain, 0)

/-! ### What a request does -/

/-- The outcome of a request: a state, a result code, a reply payload, its LAST flag, and work that its reply waits for. -/
structure Done where
  state : State
  code : Nat := 0
  payload : List Byte := []
  last : Bool := false
  wait : Option WaitKind := none

/-- Bytes that the stored BOOT values would take with one more (R348). -/
def State.bootFits (s : State) (k : Nat) (v : List Byte) : Bool :=
  decide (((s.bootStored.filter fun e => e.1 != k).flatMap fun e => bootEntry e.1 e.2).length + (bootEntry k v).length ≤ 4096)

/-- A relay to chip c: the frame goes out as object access on VC0, naming the open Rally that a SYS write is part of (R313, R342). -/
def State.relayOut (s : State) (chan c : Nat) (frame : List Byte) : Done :=
  let h := headOf frame
  let sys : Bool := h.flags.testBit 3 && (h.opcode == 2 || h.opcode == 4)
  let rally := if sys then ((s.openRally h.scope).map fun r => r.id).getD 0 else 0
  if s.isMember c = false then { state := s, code := 0x14 }
  else { state := s.sendMgl c 0 9 (bytesOf 1 0x0D ++ bytesOf 1 (chan % 64) ++ bytesOf 4 rally ++ frame), wait := some (.relay c rally) }

/-- One WRITE of a whole value (R324, R336, R347, R348, R389, R453). -/
def State.writeValue (s : State) (key : Nat) (c : Chan) (h : OapHead) (rally : Nat) (v : List Byte) : Done :=
  match s.target c h true with
  | .error e => { state := s, code := e }
  | .ok row =>
    let i := h.index
    let b := h.sub
    let bad := checkValue row v
    if row.access = .rwc ∧ s.stagingDenied h.scope i b then { state := s, code := 0x12 }
    else if row.access = .ro then { state := s, code := 0x15 }
    else if bad ≠ 0 then { state := s, code := bad }
    else if row.access = .rwc then
      let w := stagedOf row i b v
      let q := if h.flags.testBit 3 ∧ 32 ≤ key then s.stageRelayed rally key h.scope w else s.stageIn (s.openRally h.scope) key h.scope w
      { state := q.1, code := q.2 }
    else if row.effect = .boot then
      (if s.bootFits (okey i b) v then { state := s, wait := some (.boot (okey i b) v) } else { state := s, code := 0x14 })
    else if 0x2660 ≤ i ∧ i < 0x2678 then s.relayOut key (i - 0x2660) v
    else if i = 0x3201 ∧ b = 2 then
      (if Tbl.get 0 s.firm.steps 9 = 0 then { state := s, code := 0x40 } else { state := s, wait := some .library })
    else if i = 0x7000 ∧ b = 2 then
      let q := s.fwSegment true true 0 v true
      { state := q.1, code := q.2 }
    else
      let q := s.writeNow c.func h.scope row i b v
      { state := q.1, code := q.2, wait := if i = 0x5300 ∧ b = 2 ∧ q.2 = 0 ∧ q.1.whistle.asked ≠ 0 then some .whistle else none }

/-- Bytes that a reply payload may have (R380). -/
def replyLimit (c : Chan) (key cap addr : Nat) : Nat := if key < 16 then min c.largest (max 32 (if addr = 0 then 0 else cap)) else c.largest

/-- A read of a core's counter object is observation traffic of its cluster's domain (R464). -/
def State.observeRead (s : State) (i b : Nat) : State :=
  if 0x8000 ≤ i ∧ i < 0x8040 ∧ 0x10 ≤ b ∧ b < 0x20 then s.observe ((i - 0x8000) / 8) 1 else s

/-- READ (R324). -/
def State.readObject (s : State) (c : Chan) (h : OapHead) : Done :=
  match s.target c h false with
  | .error e => { state := s, code := e }
  | .ok row =>
    if h.length ≠ 0 then { state := s, code := 0x13 }
    else if h.index = 0x7000 ∧ h.sub = 9 ∧ s.firm.attest.isSome then { state := s, code := 0x40 }
    else { state := s.observeRead h.index h.sub, payload := s.readBytes c.rights c h.scope h.index h.sub row (h.flags.testBit 2) }

/-- READ_BLOCK (R325, R380). -/
def State.readBlockObject (s : State) (c : Chan) (h : OapHead) (p : List Byte) (limit : Nat) : Done :=
  match s.target c h false with
  | .error e => { state := s, code := e }
  | .ok row =>
    let v := s.readBytes c.rights c h.scope h.index h.sub row (h.flags.testBit 2)
    let off := fieldOf p 0 4
    let n := min (fieldOf p 4 4) limit
    if row.ty.size.isSome ∨ p.length ≠ 8 then { state := s, code := 0x13 }
    else if v.length < off then { state := s, code := 0x14 }
    else if h.index = 0x7000 ∧ h.sub = 9 ∧ s.firm.attest.isSome then { state := s, code := 0x40 }
    else { state := s, payload := (v.drop off).take n, last := decide (v.length ≤ off + n) }

/-- A segment of FW_WRITE, which is programmed as it comes (R449). The flash takes it. -/
def State.fwBlock (s : State) (key : Nat) (c : Chan) (h : OapHead) (off : Nat) (data : List Byte) : Done :=
  let first := h.flags.testBit 1
  let last := h.flags.testBit 0
  let k := okey h.index h.sub
  if first = false ∧ (c.staging.map fun x => x.1) ≠ some k then { state := s, code := 0x14 }
  else
    let q := s.fwSegment first last off data true
    let st := if q.2 = 0 ∧ last = false then some (k, []) else none
    { state := q.1.setChan key { c with staging := st }, code := q.2 }

/-- WRITE_BLOCK (R325): a segment into the channel's staging; the last applies the value. A segment at a wrong offset discards the staging. -/
def State.writeBlockObject (s : State) (key : Nat) (c : Chan) (h : OapHead) (rally : Nat) (p : List Byte) : Done :=
  match s.target c h true with
  | .error e => { state := s, code := e }
  | .ok row =>
    let k := okey h.index h.sub
    let off := fieldOf p 0 4
    let data := p.drop 4
    if row.access = .rwc ∧ s.stagingDenied h.scope h.index h.sub then { state := s, code := 0x12 }
    else if row.access = .ro then { state := s, code := 0x15 }
    else if row.ty.size.isSome ∨ p.length < 4 then { state := s, code := 0x13 }
    else if h.index = 0x7000 ∧ h.sub = 2 then s.fwBlock key c h off data
    else
      let have_ : Option (List Byte) := if h.flags.testBit 1 then some []
        else match c.staging with
          | some x => if x.1 = k then some x.2 else none
          | none => none
      match have_ with
      | none => { state := s, code := 0x14 }
      | some b =>
        if off ≠ b.length then { state := s.setChan key { c with staging := none }, code := 0x14 }
        else if h.flags.testBit 0 = false then { state := s.setChan key { c with staging := some (k, b ++ data) } }
        else
          let d := (s.setChan key { c with staging := none }).writeValue key c h rally (b ++ data)
          if 0x10 ≤ d.code then { d with state := s } else d

/-- RALLY_BEGIN (R335). Not in ROM recovery (R439) nor in a shut-down, which accepts no Rally (R443). -/
def State.beginRally (s : State) (key : Nat) (h : OapHead) : Done :=
  if s.recovery then { state := s, code := 0x12 }
  else if h.length ≠ 0 then { state := s, code := 0x13 }
  else if (s.openRally h.scope).isSome then { state := s, code := 0x20 }
  else if s.get 0x31A0 9 ≠ 0 then { state := s, code := 0x40 }
  else
    let n := s.nextRallyId
    let r : Rally := { id := n.1, scope := h.scope, chan := key, coord := s.chip, lastUse := s.clock }
    { state := ({ s with begun := n.2, rallies := s.rallies ++ [r] }.trimHistory h.scope).settle, payload := bytesOf 4 n.1 }

/-- A Rally of the present boot that this chip holds in the scope a request names. -/
def State.rallyNamed (s : State) (h : OapHead) (id : Nat) : Option Rally :=
  if id / 2 ^ 24 ≠ s.get 0x1001 4 % 256 then none else (s.scopeRallies h.scope).find? fun r => r.id == id

/-- A Rally is named by a request. -/
def State.touch (s : State) (r : Rally) : State := s.updRally r.id fun x => { x with lastUse := s.clock }

/-- RALLY_COMMIT (R338). The sample it takes is recorded (R405). -/
def State.commitRequest (s : State) (key : Nat) (h : OapHead) (p : List Byte) : Done :=
  let tb := fieldOf p 4 1
  if p.length ≠ 16 then { state := s, code := 0x13 }
  else if fieldOf p 5 3 ≠ 0 ∨ 7 < tb then { state := s, code := 0x14, payload := List.replicate 4 0#8 }
  else match s.rallyNamed h (fieldOf p 0 4) with
    | none => { state := s, code := 0x21 }
    | some r =>
      if r.state = .aborted ∨ r.state = .rolledBack then { state := s, code := 0x23 }
      else if r.state ≠ .opened then { state := s, code := 0x21 }
      else if r.chan ≠ key then { state := s, code := 0x20 }
      else
        let s1 := s.touch r
        let s2 := if (s.tb tb).enabled then s1.replayLog 4 (bytesOf 1 tb ++ bytesOf 8 (s.airNow tb) ++ bytesOf 1 0 ++ bytesOf 4 r.id) else s1
        match s2.tryCommit { r with lastUse := s.clock } tb (fieldOf p 8 8) with
        | (t, some e) => { state := t, code := e.1, payload := if e.1 = 0x14 then bytesOf 2 (e.2 / 256) ++ bytesOf 1 (e.2 % 256) ++ [0#8] else [] }
        | (t, none) => { state := t }

/-- A committed Rally that spans chips is retracted by its host: the coordinator will decide ABORT (R339). -/
def State.retractRally (s : State) (r : Rally) : State :=
  let id := r.id % 2 ^ 32
  (s.updRally r.id fun x => { x with vote := x.vote.map fun _ => false, noes := if r.coord = s.chip then x.noes ||| 2 ^ s.chip else x.noes }).toChips
    (2 ^ r.coord) 4 (msgRetract id)

/-- RALLY_ABORT (R339): before the freeze point. -/
def State.abortRequest (s : State) (key : Nat) (h : OapHead) (p : List Byte) : Done :=
  if p.length ≠ 4 then { state := s, code := 0x13 }
  else match s.rallyNamed h (fieldOf p 0 4) with
    | none => { state := s, code := 0x21 }
    | some r =>
      match r.state with
      | .opened => if r.chan ≠ key then { state := s, code := 0x20 } else { state := s.abortOpen r 1 }
      | .committed =>
        if r.spans then { state := s.retractRally r }
        else if s.atFreeze r then { state := s, code := 0x22 }
        else { state := s.endRally r .aborted 1 }
      | .frozen => { state := s, code := 0x22 }
      | .served => { state := s, code := 0x21 }
      | .aborted => { state := s, code := 0x23 }
      | .rolledBack => { state := s, code := 0x23 }
      | .lost => { state := s, code := 0x21 }

/-- RALLY_STATUS (R335): of an ID, or of the scope's latest Rally; an ID of an earlier boot is LOST. -/
def State.statusRequest (s : State) (h : OapHead) (p : List Byte) : Done :=
  let id := fieldOf p 0 4
  if p.length ≠ 4 then { state := s, code := 0x13 }
  else if id ≠ 0 ∧ id / 2 ^ 24 ≠ s.get 0x1001 4 % 256 then
    { state := s, payload := ({ id := id, scope := h.scope, state := .lost, cause := 10 } : Rally).record }
  else
    match (if id = 0 then (s.scopeRallies h.scope).getLast? else s.rallyNamed h id) with
    | some r => { state := s.touch r, payload := r.record }
    | none => { state := s, code := 0x21 }

/-- ACK_ATTENTION (R333). Acknowledging THROT ends a fixed-frequency breach's claim on it (R419). -/
def State.ackRequest (s : State) (f : Nat) (p : List Byte) : Done :=
  let src := fieldOf p 0 4
  if p.length ≠ 8 then { state := s, code := 0x13 }
  else if src / 2 ^ 15 ≠ 0 then { state := s, code := 0x14 }
  else if fieldOf p 4 4 ≠ s.getB f 0x1100 2 then { state := s, code := 0x40 }
  else
    let l := s.getB f 0x1100 3
    let s1 := s.putB f 0x1100 3 (l ^^^ (l &&& src))
    { state := { s1 with fixedBreach := s.fixedBreach && !(f == 0 && src.testBit 9) }.settle }

/-- The latest heartbeat instant of a time base at a rate: its TAI second, and k (R334, R35). -/
def State.beatNow (s : State) (n rate : Nat) : Int × Nat :=
  let t : Int := ((s.tb n).tc : Int) - asI64 (s.get (tbIx n) 4)
  let w := (t % 1966080000).toNat
  let k := ((List.range rate).filter fun k => decide (k * (1000000000 / rate) * 196608 / 100000 ≤ w)).length - 1
  (t / 1966080000, k)

/-- The payload of a heartbeat reply. -/
def State.beatBytes (s : State) (f n : Nat) : List Byte :=
  bytesOf 8 (s.airNow n) ++ bytesOf 4 (s.getB f 0x1100 2) ++ bytesOf 4 (s.getB f 0x1100 3)

/-- HEARTBEAT. -/
def State.heartbeatRequest (s : State) (f : Nat) (h : OapHead) : Done :=
  if h.length ≠ 0 then { state := s, code := 0x13 }
  else if 7 < h.sub ∨ (s.tb h.sub).enabled = false then { state := s, code := 0x14 }
  else { state := s, payload := s.beatBytes f h.sub }

/-- SUBSCRIBE (R334). -/
def State.subscribeRequest (s : State) (key : Nat) (c : Chan) (h : OapHead) (p : List Byte) : Done :=
  let rate := fieldOf p 0 2
  if p.length ≠ 2 then { state := s, code := 0x13 }
  else if 7 < h.sub ∨ (s.tb h.sub).enabled = false ∨ 1000 < rate then { state := s, code := 0x14 }
  else { state := s.setChan key { c with rate := rate, tb := h.sub, subSeq := h.seq, beat := if rate = 0 then none else some (s.beatNow h.sub rate) } }

/-- What an accepted request does, once its Court has been found within the channel's rights. -/
def State.perform (s : State) (key : Nat) (c : Chan) (h : OapHead) (rally limit : Nat) (p : List Byte) : Done :=
  if h.opcode = 0 then s.heartbeatRequest c.func h
  else if h.opcode = 1 then s.readObject c h
  else if h.opcode = 2 then s.writeValue key c h rally p
  else if h.opcode = 3 then s.readBlockObject c h p limit
  else if h.opcode = 4 then s.writeBlockObject key c h rally p
  else if h.opcode = 0x10 then s.beginRally key h
  else if h.opcode = 0x11 then s.commitRequest key h p
  else if h.opcode = 0x12 then s.abortRequest key h p
  else if h.opcode = 0x13 then s.statusRequest h p
  else if h.opcode = 0x20 then s.ackRequest c.func p
  else s.subscribeRequest key c h p

/-- TOO_LONG (Table 14.5, R324, R325, R380): a payload beyond the channel's largest, a value beyond its object's maximum, a reply beyond what it may have. -/
def State.tooLong (s : State) (c : Chan) (h : OapHead) (limit : Nat) (p : List Byte) : Bool :=
  decide (c.largest < h.length) || (s.indexExists h.index && match objAt h.index h.sub with
    | some row =>
      row.ty.size.isNone && ((h.opcode == 1 && row.access != .wo
          && decide (limit < (s.readBytes c.rights c h.scope h.index h.sub row (h.flags.testBit 2)).length))
        || (h.opcode == 2 && decide (row.maxBytes < p.length))
        || (h.opcode == 4 && decide (row.maxBytes + 4 < fieldOf p 0 4 + p.length)))
    | none => false)

/-- Whether a request is served while a record is injected: readings, subscriptions, acknowledgements, the Whistle objects (R408). -/
def injectable (h : OapHead) : Bool :=
  h.opcode == 0 || h.opcode == 1 || h.opcode == 3 || h.opcode == 0x20 || h.opcode == 0x21
    || (h.opcode == 2 && h.index == 0x5300 && decide (h.sub ≤ 4))

/-- A request after the sequence check, with BUSY while a record is injected that it may not disturb. -/
def State.answer (s : State) (key : Nat) (c : Chan) (h : OapHead) (rally limit : Nat) (p : List Byte) (replayed : Bool) : Done :=
  if s.scopeDenied c h then { state := s, code := 0x12 }
  else
    let d := s.perform key c h rally limit p
    if d.code < 0x10 ∧ s.injecting ∧ replayed = false ∧ injectable h = false then { state := s, code := 0x40 } else d

/-- Counters and PROT of a result (R328). -/
def State.countResult (s : State) (f code : Nat) : State :=
  if 0x30 ≤ code ∧ code ≤ 0x32 then (s.bumpB f 0x1111 1).violation f
  else if code = 0x12 then (s.bumpB f 0x1111 2).violation f else s

/-! ### Sequence, caching and replies (R326 to R328) -/

/-- A request as Replay records it: channel, source, where its reply goes, its Rally, the frame (R405). -/
def requestBytes (key addr : Nat) (q : OapReq) : List Byte :=
  bytesOf 4 key ++ bytesOf 8 addr ++ bytesOf 4 q.cap.toNat ++ bytesOf 8 q.replyAddr.toNat ++ bytesOf 4 q.reqIndex.toNat ++ bytesOf 4 q.rally.toNat ++ q.frame

/-- A request whose reply waits. -/
def State.addWait (s : State) (key : Nat) (q : OapReq) (k : WaitKind) : State :=
  { s with waits := s.waits ++ [{ chan := key, header := q.frame.take 16, reqIndex := q.reqIndex.toNat, cap := q.cap.toNat,
                                  replyAddr := q.replyAddr.toNat, kind := k, since := s.clock }] }

/-- A request on a channel that is open: its checks in the order of Table 14.5, its effect, and its reply. -/
def State.request (s : State) (key : Nat) (q : OapReq) (replayed : Bool) : State :=
  let h := headOf q.frame
  let p := q.frame.drop 16
  let c : Chan := { s.chan key with lastUse := s.clock }
  let s := s.setChan key c
  let dest : ReplyTo := ⟨key, q.reqIndex.toNat, q.replyAddr.toNat⟩
  let limit := replyLimit c key q.cap.toNat q.replyAddr.toNat
  let ok : Bool := match c.seq with
    | some x => h.seq == (x + 1) % 65536
    | none => true
  if c.seq = some h.seq ∧ c.cache ≠ [] then s.sendReply dest (restamp c.cache (s.dsw c.func))
  else
    let s0 := if ok ∧ h.opcode ≠ 0 ∧ h.opcode ≠ 1 ∧ h.opcode ≠ 3 then
        (if 32 ≤ key then s.replayLog 6 (bytesOf 1 0x0D ++ requestBytes key c.addr q) else s.replayLog 2 (requestBytes key c.addr q)) else s
    let d : Done := if s.tooLong c h limit p then { state := s0, code := 0x32 }
      else if ok then s0.answer key c h q.rally.toNat limit p replayed else { state := s0, code := 0x31 }
    let s1 := d.state.countResult c.func d.code
    let s2 := if ok then s1.setChan key { s1.chan key with seq := some h.seq, cache := [] } else s1
    match d.wait with
    | some k => s2.addWait key q k
    | none =>
      let f := replyFrame h d.code d.payload d.last (s2.dsw c.func)
      let s3 := if ok then s2.setChan key { s2.chan key with cache := f } else s2
      s3.sendReply dest f

/-- Whether a channel has a request that is not complete: the next one is taken up after it (R320). -/
def State.chanBusy (s : State) (key : Nat) : Bool := s.waits.any fun w => w.chan == key && !w.dead

/-- A frame reaches the control complex (R328): a bad one, and one of a ninth management source, are answered outside the sequence. Requests on one
channel run one at a time: a later one waits in the channel's queue, and one that finds 64 there is answered BUSY (R320, Table 14.5). -/
def State.frameIn (s : State) (q : OapReq) (replayed : Bool) : State :=
  let h := headOf q.frame
  let f := chanFunc q.chan
  let out : ReplyTo := ⟨(s.chanKey q.chan).getD 16, q.reqIndex.toNat, q.replyAddr.toNat⟩
  let reply := fun (s : State) (code : Nat) =>
    let frame := replyFrame h code [] false (s.dsw f)
    match q.chan with
    | .mgmt a p => s.emit (.data 5 (sourceOf a p) frame)
    | _ => s.sendReply out frame
  if badFrame q.frame then reply (s.countResult f 0x30) 0x30
  else match s.openChan q.chan with
    | none => reply s 0x40
    | some (key, s1) =>
      if s1.chanBusy key = false then s1.request key q replayed
      else if (s1.queued.filter fun e => e.1 == key).length < 64 then { s1 with queued := s1.queued ++ [(key, q, replayed)] }
      else reply s1 0x40

/-- Requests that wait on a channel are taken up in their order, until one of them waits again. -/
def State.serveQueued (key : Nat) : Nat → State → State
  | 0, s => s
  | n + 1, s =>
    if s.chanBusy key then s
    else match s.queued.find? fun e => e.1 == key with
      | some e => State.serveQueued key n ({ s with queued := s.queued.erase e }.request key e.2.1 e.2.2)
      | none => s

/-- A row of an opcode: the request runs where its frame is sound and of that opcode. -/
def State.oapRow (s : State) (op : Nat) (q : OapReq) : State :=
  if s.serves_ q.chan ∧ badFrame q.frame = false ∧ (headOf q.frame).opcode = op then s.frameIn q false else s

/-! ### Commands -/

/-- HEARTBEAT. -/
def execHeartbeat (req : OapReq) (s : State) : Answer := .next (s.oapRow 0 req)
/-- READ. -/
def execRead (req : OapReq) (s : State) : Answer := .next (s.oapRow 1 req)
/-- WRITE. -/
def execWrite (req : OapReq) (s : State) : Answer := .next (s.oapRow 2 req)
/-- READ_BLOCK. -/
def execReadBlock (req : OapReq) (s : State) : Answer := .next (s.oapRow 3 req)
/-- WRITE_BLOCK. -/
def execWriteBlock (req : OapReq) (s : State) : Answer := .next (s.oapRow 4 req)
/-- RALLY_BEGIN. -/
def execRallyBegin (req : OapReq) (s : State) : Answer := .next (s.oapRow 0x10 req)
/-- RALLY_COMMIT. -/
def execRallyCommit (req : OapReq) (s : State) : Answer := .next (s.oapRow 0x11 req)
/-- RALLY_ABORT. -/
def execRallyAbort (req : OapReq) (s : State) : Answer := .next (s.oapRow 0x12 req)
/-- RALLY_STATUS. -/
def execRallyStatus (req : OapReq) (s : State) : Answer := .next (s.oapRow 0x13 req)
/-- ACK_ATTENTION. -/
def execAckAttention (req : OapReq) (s : State) : Answer := .next (s.oapRow 0x20 req)
/-- SUBSCRIBE. -/
def execSubscribe (req : OapReq) (s : State) : Answer := .next (s.oapRow 0x21 req)
/-- BAD_FRAME: answered without any other effect than its counters. -/
def execBadFrame (req : OapReq) (s : State) : Answer :=
  .next (if s.serves_ req.chan ∧ badFrame req.frame then s.frameIn req false else s)

/-- HEARTBEAT_DUE: the time base of a subscription has reached a further instant: a heartbeat reply is placed between the replies, or dropped where RP is
full (R334). -/
def execHeartbeatDue (chan : ChanRef) (s : State) : Answer :=
  match s.chanKey chan with
  | some key =>
    let c := s.chan key
    let at_ := s.beatNow c.tb c.rate
    .next (if s.serving = false ∨ c.rate = 0 ∨ (s.tb c.tb).enabled = false ∨ c.beat = some at_ then s
      else
        let s1 := s.setChan key { c with beat := some at_ }
        if key < 16 ∧ s.replyRoom key = false then ((s1.bumpB key 0x1110 3).latch key 14).settle
        else s1.sendReply ⟨key, 0xFFFFFFFF, 0⟩ (replyFrame ⟨0, c.subSeq, 0, c.tb, 0, 0, 0⟩ 0 (s1.beatBytes c.func c.tb) false (s1.dsw c.func)))
  | none => .next s

/-- A channel of the management port closes: its staging, its subscription and its open Rally are discarded. -/
def State.closeChan (s : State) (key : Nat) : State :=
  let s1 : State := { s with chans := Tbl.erase s.chans key, queued := s.queued.filter fun e => e.1 != key, waits := s.waits.map fun w => if w.chan = key then { w with dead := true } else w }
  ((s1.rallies.filter fun r => r.state == .opened && r.chan == key).foldl (fun (s : State) r => s.abortOpen r 3) s1).settle

/-- MGMT_IDLE_TIMEOUT (R321). -/
def execMgmtIdleTimeout (chan : ChanRef) (s : State) : Answer :=
  match s.chanKey chan with
  | some key => .next (if 16 ≤ key ∧ key < 24 ∧ s.longSince (1000000 * s.get 0x1120 3) (s.chan key).lastUse then s.closeChan key else s)
  | none => .next s

/-! ### Replies that waited -/

/-- The reply of a request that waited leaves, unless its channel was reset or closed meanwhile; then the requests behind it are taken up. -/
def State.endWait (s : State) (w : OapWait) (code : Nat) (payload : List Byte) : State :=
  let s1 : State := { s with waits := s.waits.filter fun x => !(x == w) }
  if w.dead then s1
  else
    let c := s1.chan w.chan
    let limit := replyLimit c w.chan w.cap w.replyAddr
    let long : Bool := decide (limit < payload.length)
    let s2 := if long then s1.countResult c.func 0x32 else s1
    let f := replyFrame (headOf w.header) (if long then 0x32 else code) (if long then [] else payload) false (s2.dsw c.func)
    ((s2.setChan w.chan { s2.chan w.chan with cache := f }).sendReply ⟨w.chan, w.reqIndex, w.replyAddr⟩ f).serveQueued w.chan s2.queued.length

/-- BOOT_WRITE_DONE: the copy of the configuration area not in force has been programmed with the value, and verified (R348, R389). -/
def execBootWriteDone (chan : ChanRef) (s : State) : Answer :=
  match (s.chanKey chan).bind fun key => s.waits.find? fun w => w.chan == key && (match w.kind with
    | .boot _ _ => true
    | _ => false) with
  | some w =>
    .next (match w.kind with
      | .boot k v =>
        (s.programBoot (Tbl.set none s.firm.stored k (some v))).endWait w 0 []
      | _ => s)
  | none => .next s

/-- BOOT_CLEAR: writing 1 removes every stored value (R348). -/
def execBootClear (value : BitVec 8) (s : State) : Answer :=
  .next (if value = 1#8 then s.programBoot [] else s)

/-- LIB_PUT: a package has been verified and enters the library, or is refused; the LIB_PUT that waits for it is answered (R453). -/
def execLibPut (pkg : Package) (s : State) : Answer :=
  let code := s.libPutCode pkg
  let s1 := if code = 0 then s.libEnter pkg else s
  match s1.waits.find? fun w => w.kind == .library with
  | some w => .next (s1.endWait w code [])
  | none => .next s1

/-- A relay of a channel that waits for the other chip. -/
def State.relayWait (s : State) (chan : ChanRef) : Option OapWait :=
  (s.chanKey chan).bind fun key => s.waits.find? fun w => w.chan == key && (match w.kind with
    | .relay _ _ => true
    | _ => false)

/-- The chip of a relay becomes a participant of the Rally its SYS write was staged in (R342). -/
def State.joinRally (s : State) (k : WaitKind) (reply : List Byte) : State :=
  match k with
  | .relay c r => if r ≠ 0 ∧ fieldOf reply 11 1 = 1 then
      s.updRally r fun x => if x.state = .opened then { x with parts := x.parts ||| 2 ^ c, lastUse := s.clock } else x else s
  | _ => s

/-- RELAY: a frame written to RELAY goes to chip c; its reply, when it comes, is the payload of the outer reply (R313). -/
def execRelay (req : OapReq) (reply : Option (List Byte)) (s : State) : Answer :=
  match reply with
  | none =>
    let h := headOf req.frame
    .next (if 0x2660 ≤ h.index ∧ h.index < 0x2678 ∧ (h.opcode = 2 ∨ h.opcode = 4) then s.oapRow h.opcode req else s)
  | some b =>
    match s.relayWait req.chan with
    | some w => .next ((s.joinRally w.kind b).endWait w 0 b)
    | none => .next s

/-- RELAY_TIMEOUT: a relay unanswered within 10 ms is answered BUSY; so is a WHISTLE write that a member has not answered, and the edge is
disarmed (log entry 174). -/
def execRelayTimeout (chan : ChanRef) (s : State) : Answer :=
  match s.relayWait chan with
  | some w => .next (if s.longSince 10000 w.since then s.endWait w 0x40 [] else s)
  | none =>
    match (s.chanKey chan).bind fun key => s.waits.find? fun w => w.chan == key && w.kind == .whistle with
    | some w => .next (if s.longSince 10000 w.since then (s.cancelWhistle.getD s).endWait w 0x40 [] else s)
    | none => .next s

end Sys2Proof.Machine
end

