-- ==== Sys2Proof/Machine/Deliver.lean ====
section
/-! DEFINITION. Packets of Megorlink at their destination: what a delivered packet does here, the end-to-end order of a stream, and the received
flit that brings it (R294 to R299, R20, R22, R256, R402). -/

namespace Sys2Proof.Machine

open Sys2Proof

/-! ### Whistle among the members (R402, R404; log entry 174) -/

/-- An arm of the coordinating member: this chip arms the same edge where it meets R358 here, and answers whether it does. -/
def State.whistleArmIn (s : State) (src air n : Nat) : State :=
  let ok := s.whistleFits n air
  (if ok then s.whistleSet n air 0 else s).sendMgl src 0 9 (bytesOf 1 0x0E ++ bytesOf 1 (bitAt ok 0))

/-- A member's answer: with the last yes the WHISTLE write is answered OK; a no disarms every member and answers it RANGE. -/
def State.whistleAnswerIn (s : State) (src : Nat) (yes : Bool) : State :=
  if s.whistle.asked.testBit src = false then s
  else
    let left := if yes then s.whistle.asked ^^^ 2 ^ src else 0
    let s1 : State := { s with whistle := { s.whistle with asked := left } }
    let s2 := if yes then s1 else (s1.disarmWhistle.toMembers 9 (bytesOf 1 0x0F))
    if left ≠ 0 then s2
    else match s2.waits.find? fun w => w.kind == .whistle with
      | some w => s2.endWait w (if yes then 0 else 0x14) []
      | none => s2

/-- A message of the Whistle of another member. -/
def State.whistleIn (s : State) (src : Nat) (b : List Byte) : State :=
  let air := fieldOf b 1 8
  let n := fieldOf b 9 1 % 8
  match fieldOf b 0 1 with
  | 0x0B => s.whistleArmIn src air n
  | 0x0C => if s.get 0x5300 5 = 3 ∧ s.whistle.resume.isNone then { s with whistle := { s.whistle with resume := some (s.tcOf s.whistle.tb air) } } else s
  | 0x0E => s.whistleAnswerIn src (fieldOf b 1 1 == 1)
  | 0x0F => s.disarmWhistle
  | _ => s

/-! ### Delivery (R295, R298) -/

/-- What a delivered packet does here: a forwarded slot order is accepted, layer values and word of a symbol not sent for want of them join their
order (R20, R256), a chip that hears of the fence of its slice holds it (R22; log entry 172), a member's C-plane count is added (R20), and the
members' Whistle messages act (R402); what any other packet carries has its own command. While a record is injected the packets of VC0 are
ignored (R408); after a thermal trip nothing is done. -/
def State.deliver (s : State) (src kind : Nat) (b : List Byte) : State :=
  let s1 := s.emit (.data 13 src (bytesOf 1 kind ++ b))
  if s1.power.tripped then s1
  else if kind = (Config.flitKind 17).toNat then (if s1.injecting then s1 else s1.forwardedOrder b)
  else if kind = (Config.flitKind 14).toNat then s1.valsIn src b
  else if kind = (Config.flitKind 18).toNat then s1.unfedIn b
  else if kind = (Config.flitKind 19).toNat then s1.cplaneIn src b
  else if kind = (Config.flitKind 9).toNat then (if s1.injecting then s1 else s1.whistleIn src b)
  else if kind = (Config.flitKind 7).toNat ∧ fieldOf b 0 1 = s1.chip ∧ s1.isFenced 10 s1.chip = false then
    s1.fenceObject 10 s1.chip 0x49 (s1.get 0x2600 0x0A) 0xFF
  else s1

/-- A packet at its destination: each stream is delivered in sequence order, duplicates are discarded. -/
def State.deliverAll (s : State) (k : Nat) : Nat → State
  | 0 => s
  | n + 1 =>
    let q := Tbl.get 0 s.mgl.e2eRx k
    match s.mgl.early.find? fun e => e.1 == k && e.2.1 == q with
    | some e =>
      let m := { s.mgl with e2eRx := Tbl.set 0 s.mgl.e2eRx k ((q + 1) % 2 ^ 32), early := s.mgl.early.filter fun x => !(x.1 == k && x.2.1 == q) }
      ({ s with mgl := m }.deliver (k / 4) e.2.2.1 e.2.2.2).deliverAll k n
    | none => s

def State.packetIn (s : State) (src dst vc kind : Nat) (packet : List Byte) : State :=
  let k := src * 4 + vc
  let q := fieldOf packet 0 4
  if dst = s.chip ∨ dst = 0x1F then
    let old : Bool := decide (2 ^ 31 ≤ (q + 2 ^ 32 - Tbl.get 0 s.mgl.e2eRx k) % 2 ^ 32) || s.mgl.early.any fun e => e.1 == k && e.2.1 == q
    if old then s
    else
      let s1 := { s with mgl := { s.mgl with early := s.mgl.early ++ [(k, q, kind, (packet.drop 8).take (fieldOf packet 4 4))] } }
      s1.deliverAll k s1.mgl.early.length
  else if kind = (Config.flitKind 11).toNat ∨ kind = (Config.flitKind 12).toNat then s.deliver src kind ((packet.drop 8).take (fieldOf packet 4 4))
  else match (if vc = 1 then hopDown (s.treeOf (s.get 0x2600 5) src) s.chip 24 dst else none) <|> s.nextHop dst with
    | some nb => s.deal nb vc kind src dst packet
    | none => s

/-- A DATA flit in sequence: its payload joins its packet, its credit goes back. -/
def State.acceptFlit (s : State) (p : Nat) (f : List Byte) : State :=
  let v := flNat f 58 2
  let k := p * 4 + v
  let x := s.mport p
  let s1 := s.setMport p { x with expect := (x.expect + 1) % 4096, nakSent := false, toReturn := x.toReturn.set v ((x.toReturn[v]?).getD 0 + 1) }
  if flitUnknown f then s1
  else
    let b := (if flNat f 35 1 = 1 then [] else Tbl.get [] s1.mgl.partials k) ++ (f.drop 8).take 256
    if flNat f 34 1 = 1 then
      { s1 with mgl := { s1.mgl with partials := Tbl.set [] s1.mgl.partials k [] } }.packetIn (flNat f 29 5) (flNat f 24 5) v (flNat f 16 8) b
    else { s1 with mgl := { s1.mgl with partials := Tbl.set [] s1.mgl.partials k b } }

/-- FLIT_RX: a flit reaches a port that is UP. -/
def execFlitRx (port : Fin 8) (flit : List Byte) (s : State) : Answer :=
  let p := port.val
  .next (if s.mportState p ≠ 2 then s
    else if flitOk flit = false then s.nak p
    else
      let s0 := s.flitNews p flit
      let s1 := if flitUnknown flit then (s0.bump (mpIx p) 9).violation 0xFF else s0
      let s2 :=
        if flNat flit 60 4 = 1 then
          (if flNat flit 36 12 = (s1.mport p).expect then (s1.acceptFlit p flit).sendControl p 0 0 (flNat flit 58 2) else s1.nak p)
        else if flNat flit 60 4 = 2 ∧ flitUnknown flit = false then s1.resend p (flNat flit 36 12)
        else s1
      s2.pumpAll p)

end Sys2Proof.Machine
end

