-- ==== Sys2Proof/Machine/Host.lean ====
section
/-! DEFINITION. What the host and the management network do to the chip's PCIe registers, rings and windows (R375 to R383, R387), and the presentation
of a recorded run (R408). -/

namespace Sys2Proof.Machine

open Sys2Proof

/-! ### Registers of BAR0 and the MSI-X table (R377, R378, R383; Table 16.7) -/

/-- The host's index of a ring: producer of RQ and SO, consumer of RP and RS. One that is negative against the device's, or beyond the ring, or of a ring
that is disabled, is ignored as a violation. A slot-order ring keeps the instant on every time base (R379). -/
def State.doorbell (s : State) (f q : Nat) (v : BitVec 32) : State :=
  let r := s.ring f q
  let mine : Bool := q == 0 || (decide (2 ≤ q) && decide (q ≤ 5))
  let d := if mine then v - r.dev else r.dev - v
  if r.enabled = false ∨ d.msb ∨ r.cap < d.toNat then s.hostViolation f
  else
    let smp := if 2 ≤ q ∧ q ≤ 5 then r.samples ++ [(v, (List.range 8).map fun n => (s.tb n).tc)] else r.samples
    s.setRing f q { r with host := v, samples := smp }

/-- ENABLE is set: both indices are 0. A ring without a base or a size stays disabled. -/
def State.enableRing (s : State) (f q : Nat) (irq : Bool) : State :=
  let r := s.ring f q
  if r.base = 0 ∨ r.sized = false then s.hostViolation f
  else if r.enabled then s.setRing f q { r with ctrl := 1 + bitAt irq 1 }
  else s.setRing f q { r with ctrl := 1 + bitAt irq 1, host := 0, dev := 0, samples := [], held := [] }

/-- ENABLE is cleared: the ring is disabled at once, and every held record is discarded (R382). -/
def State.disableRing (s : State) (f q : Nat) (irq : Bool) : State :=
  let r := s.ring f q
  r.held.foldl (fun (s : State) _ => s.hostViolation f) (s.setRing f q { r with ctrl := bitAt irq 1, held := [], samples := [] })

/-- DOORBELL. -/
def execDoorbell (func : Fin 16) (ring : Fin 10) (value : BitVec 32) (s : State) : Answer := .next (s.doorbell func ring value)
/-- RING_ENABLE. -/
def execRingEnable (func : Fin 16) (ring : Fin 10) (irq : Bool) (s : State) : Answer := .next (s.enableRing func ring irq)
/-- RING_DISABLE. -/
def execRingDisable (func : Fin 16) (ring : Fin 10) (irq : Bool) (s : State) : Answer := .next (s.disableRing func ring irq)

/-- A write of a BAR0 register. One that is read only, or no register, changes nothing. -/
def State.writeBar0 (s : State) (f off v : Nat) : State :=
  let x := s.func f
  let q := (off - 0x100) / 0x40
  let r := s.ring f q
  let w := v % 2 ^ 32
  let bad := s.hostViolation f
  if off = 0 then
    (if (List.range 10).any (fun q => (s.ring f q).enabled) ∨ (v ≠ 0 ∧ (v % 64 ≠ 0 ∨ hostReach v 64 = false)) then bad
     else s.setFunc f { x with statusAddr := v })
  else if off < 0x100 ∨ 10 ≤ q then s
  else if off % 0x40 = 0 then
    (if r.enabled ∨ v % 4096 ≠ 0 ∨ hostReach v 4096 = false then bad else s.setRing f q { r with base := v })
  else if off % 0x40 = 8 then
    (if r.enabled ∨ w < 4 ∨ 16 < w then bad else s.setRing f q { r with size := w, sized := true })
  else if off % 0x40 = 0x0C then
    (if 4 ≤ w then bad else if w % 2 = 1 then s.enableRing f q (w.testBit 1) else s.disableRing f q (w.testBit 1))
  else if off % 0x40 = 0x10 then s.doorbell f q (BitVec.ofNat 32 v)
  else s

/-- A write of the MSI-X table: address, data and mask of a vector. The pending-bit array is read only. -/
def State.writeMsix (s : State) (f off v : Nat) : State :=
  let x := s.func f
  let n := off / 16
  let mask := fun (c : Nat) => if c % 2 = 0 then x.unmasked ||| BitVec.ofNat 8 (2 ^ n) else x.unmasked &&& ~~~(BitVec.ofNat 8 (2 ^ n))
  if 8 ≤ n then s
  else if off % 16 = 0 then s.setFunc f { x with vecAddr := Tbl.set 0 x.vecAddr n v }
  else if off % 16 = 4 then s.setFunc f { x with vecAddr := Tbl.set 0 x.vecAddr n (Tbl.get 0 x.vecAddr n % 2 ^ 32 + v % 2 ^ 32 * 2 ^ 32) }
  else if off % 16 = 8 then
    s.setFunc f { x with vecData := Tbl.set 0 x.vecData n (v % 2 ^ 32), unmasked := mask (v / 2 ^ 32) }
  else if off % 16 = 12 then s.setFunc f { x with unmasked := mask v } else s

/-- REGISTER_WRITE: a register of BAR0, or of the MSI-X table in BAR4. -/
def execRegisterWrite (func : Fin 16) (bar4 : Bool) (offset : BitVec 16) (value : BitVec 64) (s : State) : Answer :=
  .next (if bar4 then s.writeMsix func offset.toNat value.toNat else s.writeBar0 func offset.toNat value.toNat)

/-- MSIX_MESSAGE: the message of a vector that is pending and not masked leaves, and is counted. -/
def execMsixMessage (func : Fin 16) (vector : Fin 8) (s : State) : Answer :=
  let x := s.func func
  .next (if x.pend.getLsbD vector ∧ x.unmasked.getLsbD vector then
      ((s.setFunc func { x with pend := x.pend &&& ~~~(BitVec.ofNat 8 (2 ^ vector.val)) }).bump (0x2410 + func.val) 4).emit
        (.data 3 (Tbl.get 0 x.vecAddr vector) (bytesOf 4 (Tbl.get 0 x.vecData vector)))
    else s)

/-- RS_SPACE_FREE: held records are written while the ring has space. -/
def execRsSpaceFree (func : Fin 16) (ring : Fin 4) (s : State) : Answer :=
  .next (s.drainHeld func (6 + ring.val) (s.ring func (6 + ring.val)).held.length)

/-! ### The request ring (R379 to R382; Table 16.8) -/

/-- Whether an RQ entry is malformed. -/
def rqMalformed (e : List Byte) : Bool :=
  let len := fieldOf e 8 2
  let reply := fieldOf e 16 8
  e.length != 32 || !(zeros e 10 2) || !(zeros e 24 8) || decide (len < 16) || decide (4112 < len)
    || fieldOf e 0 8 % 8 != 0 || !(hostReach (fieldOf e 0 8) len)
    || (reply != 0 && (reply % 64 != 0 || !(hostReach reply (max 1 (fieldOf e 12 4)))))

/-- A malformed or unreadable entry is answered without a frame. -/
def State.rqError (s : State) (f index code : Nat) : State :=
  let s1 := (s.bump (0x2410 + f) 3).hostViolation f
  s1.replyEntry f (rpEntry index code (replyFrame ⟨0, 0, 0, 0, 0, 0, 0⟩ 0x30 [] false (s1.dsw f)))

/-- RQ_ENTRY_READ: the next announced entry and its frame are read; the entry is consumed, and the frame is executed. -/
def execRqEntryRead (func : Fin 16) (entry frame : List Byte) (readable : Bool) (s : State) : Answer :=
  let f := func.val
  let r := s.ring f 0
  let len := fieldOf entry 8 2
  if r.enabled = false ∨ r.host = r.dev ∨ s.serves_ (.pcie func) = false ∨ s.get 0x31A0 9 ≠ 0 then .next s
  else
    let s1 := s.advanceDev f 0 1
    .next (if rqMalformed entry then s1.rqError f r.dev.toNat 1
      else if readable = false ∨ frame.length < len then s1.rqError f r.dev.toNat 2
      else s1.frameIn { chan := .pcie func, frame := frame.take len, cap := BitVec.ofNat 32 (fieldOf entry 12 4),
                        replyAddr := BitVec.ofNat 64 (fieldOf entry 16 8), reqIndex := r.dev } false)

/-! ### BAR2 (R287, R375; Table 16.6) -/

/-- Device-physical address of a BAR2 offset; none where it is not mapped. -/
def bar2Addr (off n : Nat) : Option Nat :=
  if off + n ≤ 0x9800000 ∨ (0xA000000 ≤ off ∧ off + n ≤ 0xB800000) ∨ (0xC000000 ≤ off ∧ off + n ≤ 0xD000000) then some off
  else if 0xE000000 ≤ off ∧ off + n ≤ 0xF000000 then some (csrBase + (off - 0xE000000))
  else if 0xF000000 ≤ off ∧ off + n ≤ 0xF100000 then some (tallyBase + (off - 0xF000000))
  else none

/-- Whether function f reaches n bytes: the Courts it controls where R267 decides, else the physical function. -/
def State.bar2Reach (s : State) (f a n : Nat) (write : Bool) : Bool :=
  let courts := (List.range 16).filter fun k => s.funcOfCourt k == f
  match s.region a n with
  | .bench => f == 0 && !write
  | .harq => f == 0 && !write
  | .csr => f == 0
  | .unmapped => false
  | .xspi => false
  | .remote => false
  | .host => false
  | _ => courts.any fun k => s.localReach k a n write

/-- A write into CSR space: the registers of debug set 1; the rest of its layout is not given. -/
def State.csrWrite (s : State) (a : Nat) (b : List Byte) : State :=
  let d := s.dbg.set1
  if a = dbgBase ∧ b.length = 8 then s.setDbg true { d with addr := natOf b % 2 ^ 48 }
  else if a = dbgBase + 8 ∧ b.length = 8 then s.setDbg true { d with data := natOf b }
  else if a = dbgBase + 16 ∧ 4 ≤ b.length then s.dbgCtrl true (fieldOf b 0 4) else s

/-- A write that reaches: memory, a Tally record, or a register. -/
def State.bar2Write (s : State) (f a : Nat) (b : List Byte) : State :=
  match s.region a b.length with
  | .tally => s.tallyWrite a b fun s => s.hostViolation f
  | .csr => s.csrWrite a b
  | _ => s.devWrite a b

/-- BAR2_ACCESS: a read (`data` none) completes with the bytes, poisoned at an uncorrectable word; a write takes effect. Out of reach a read gives zeros and
a write nothing, as a violation. -/
def execBar2Access (func : Fin 16) (offset : BitVec 28) (size : BitVec 8) (data : Option (List Byte)) (ecc : Bool) (s : State) : Answer :=
  let f := func.val
  match data with
  | none =>
    let n := size.toNat
    match bar2Addr offset.toNat n with
    | some a =>
      .next (if s.bar2Reach f a n false then
          (let s1 := (s.countAccess a n).emit (.data 8 (f + bitAt ecc 8) (if ecc then [] else s.devBytes a n))
           if ecc then s1.bump 0x2400 6 else s1)
        else (s.hostViolation f).emit (.data 8 f (List.replicate n 0#8)))
    | none => .next ((s.hostViolation f).emit (.data 8 f (List.replicate n 0#8)))
  | some b =>
    match bar2Addr offset.toNat b.length with
    | some a => .next (if s.bar2Reach f a b.length true then (s.countAccess a b.length).bar2Write f a b else s.hostViolation f)
    | none => .next (s.hostViolation f)

/-- TALLY_ADD_WRITE: a write at an offset of the Tally window within the function's reach. -/
def execTallyAddWrite (func : Fin 16) (offset : BitVec 20) (data : List Byte) (s : State) : Answer :=
  let f := func.val
  let a := tallyBase + offset.toNat
  .next (if s.bar2Reach f a data.length true then s.bar2Write f a data else s.hostViolation f)

/-! ### The management port (R387). The frame formats are those of Ethernet, ARP, IPv4, ICMP and DHCP (log entry 17). -/

/-- ARP request for the port's address: its reply. -/
def State.arpReply (s : State) (b : List Byte) : Option (List Byte) :=
  let a := b.drop 14
  match s.mgmtIp with
  | some ip =>
    if natOfBe (a.take 8) = 0x0001080006040001 ∧ natOfBe ((a.drop 24).take 4) = ip then
      some ((a.drop 8).take 6 ++ bytesBe 6 Config.mgmtMac.toNat ++ bytesBe 2 0x0806 ++ bytesBe 8 0x0001080006040002
        ++ bytesBe 6 Config.mgmtMac.toNat ++ bytesBe 4 ip ++ (a.drop 8).take 10)
    else none
  | none => none

/-- The internet checksum of a message whose checksum field is zero. -/
def inetSum : Nat → List Byte → Nat
  | 0, _ => 0
  | n + 1, b =>
    if b = [] then 0
    else
      let x := natOfBe ((b.take 2) ++ List.replicate (2 - min 2 b.length) 0#8) + inetSum n (b.drop 2)
      x % 65536 + x / 65536
def inetCheck (b : List Byte) : List Byte := bytesBe 2 (0xFFFF - inetSum b.length b)

/-- ICMP echo request to the port's address: its reply. -/
def State.echoReply (s : State) (b : List Byte) : Option (List Byte) :=
  let p := b.drop 14
  let hl := fieldOf p 0 1 % 16 * 4
  let m := (p.take (natOfBe ((p.drop 2).take 2))).drop hl
  match s.mgmtIp with
  | some ip =>
    if fieldOf p 0 1 / 16 = 4 ∧ fieldOf p 9 1 = 1 ∧ natOfBe ((p.drop 16).take 4) = ip ∧ fieldOf m 0 1 = 8 then
      let icmp := fun (c : List Byte) => [0#8, 0#8] ++ c ++ m.drop 4
      let ih := fun (c : List Byte) => [0x45#8] ++ (p.drop 1).take 1 ++ bytesBe 2 (20 + m.length) ++ (p.drop 4).take 4 ++ [64#8, 1#8] ++ c
        ++ (p.drop 16).take 4 ++ (p.drop 12).take 4
      some ((b.drop 6).take 6 ++ bytesBe 6 Config.mgmtMac.toNat ++ bytesBe 2 0x0800 ++ ih (inetCheck (ih [0#8, 0#8]))
        ++ icmp (inetCheck (icmp [0#8, 0#8])))
    else none
  | none => none

/-- DHCP options: the message type. -/
def dhcpType : Nat → List Byte → Nat
  | 0, _ => 0
  | n + 1, b =>
    let t := fieldOf b 0 1
    if b = [] ∨ t = 255 then 0 else if t = 0 then dhcpType n (b.drop 1)
    else if t = 53 then fieldOf b 2 1 else dhcpType n (b.drop (2 + fieldOf b 1 1))

/-- The address that a DHCP acknowledgement to this port gives. -/
def dhcpAddress (b : List Byte) : Option Nat :=
  let p := b.drop 14
  let u := p.drop (fieldOf p 0 1 % 16 * 4)
  let d := u.drop 8
  if fieldOf p 0 1 / 16 = 4 ∧ fieldOf p 9 1 = 17 ∧ natOfBe ((u.drop 2).take 2) = 68 ∧ fieldOf d 0 1 = 2
      ∧ natOfBe ((d.drop 28).take 6) = Config.mgmtMac.toNat ∧ dhcpType d.length (d.drop 240) = 5 then some (natOfBe ((d.drop 16).take 4)) else none

/-- MANAGEMENT_FRAME: a frame that is not OAP: ARP and ICMP echo are answered, DHCP gives the port its address, and every other is discarded. -/
def execManagementFrame (frame : List Byte) (s : State) : Answer :=
  let t := natOfBe ((frame.drop 12).take 2)
  .next (if s.serving = false ∨ 1518 < frame.length then s
    else if t = 0x0806 then (match s.arpReply frame with
      | some r => s.emit (.data 5 0 r)
      | none => s)
    else if t = 0x0800 then (match dhcpAddress frame with
      | some a => { s with mgmtIp := some a }
      | none => match s.echoReply frame with
        | some r => s.emit (.data 5 0 r)
        | none => s)
    else s)

/-! ### Presentation of a record (R408) -/

/-- Writes of a recorded PREPARE. -/
def recordedWrites : Nat → List Byte → List RallyWrite
  | 0, _ => []
  | n + 1, b =>
    if b = [] then []
    else ⟨BitVec.ofNat 16 (fieldOf b 0 2), BitVec.ofNat 8 (fieldOf b 2 1), (b.drop 7).take (fieldOf b 3 4)⟩ :: recordedWrites n (b.drop (7 + fieldOf b 3 4))

/-- A recorded request takes effect; its reply is not sent again. -/
def State.injectRequest (s : State) (b : List Byte) : State :=
  let key := fieldOf b 0 4
  let f := b.drop 32
  let h := headOf f
  let c := s.chan key
  let d := s.answer key c h (fieldOf b 28 4) (replyLimit c key (fieldOf b 12 4) (fieldOf b 16 8)) (f.drop 16) true
  let s1 := d.state.countResult c.func d.code
  match d.wait with
  | some (.boot k v) => s1.programBoot (Tbl.set none s1.firm.stored k (some v))
  | _ => s1

/-- A recorded VC0 packet takes effect. -/
def State.injectPacket (s : State) (b : List Byte) : State :=
  let id := fieldOf b 1 4
  match fieldOf b 0 1 with
  | 1 =>
    let dl := fieldOf b 21 1
    s.prepareIn ⟨fieldOf b 5 1, id, fieldOf b 6 1, fieldOf b 7 1, fieldOf b 8 8, fieldOf b 16 4, recordedWrites b.length (b.drop (22 + dl)),
      (b.drop 22).take dl, fieldOf b 20 1 == 1⟩
  | 2 => s.voteIn (fieldOf b 6 1) id (fieldOf b 5 1 == 1)
  | 3 => s.decisionIn id (fieldOf b 5 1 == 1)
  | 4 => s.retractIn (fieldOf b 5 1) id
  | 5 => s.queryIn (fieldOf b 5 1) id
  | 0x0D => s.injectRequest (b.drop 1)
  | 0x10 => s.heartbeatIn (fieldOf b 1 1)
  | _ => s

/-- A recorded arrival: presence as recorded, and samples that are zero with IQ_RECORD 0; else those of the recorded stream, which lies outside the chip
(free values). -/
def State.injectArrival (s : State) (b : List Byte) : State :=
  let c := fieldOf b 0 1 % 32
  let n := fieldOf b 1 4
  let port := fieldOf b 5 2 - s.car c 6
  let P := prbBytes (s.carWidth c false)
  let map := natOf (b.drop 7)
  ((List.range (8 * (b.length - 7))).filter fun u => map.testBit u).foldl (fun (s : State) u =>
    if s.get 0x5300 8 = 0 then s.placeUnit 0 c n port u (List.replicate P 0#8)
    else (s.placeUnit 0 c n port u (bytesOf P s.free.toNat)).bumpFree) (s.openSlot c n)

/-- Recorded HARQ values of a code block. -/
def State.injectHarq (s : State) (b : List Byte) : State :=
  match s.findHarq (fieldOf b 0 1) (fieldOf b 1 2) (fieldOf b 3 1) (fieldOf b 4 1) with
  | some p =>
    let r := fieldOf b 5 1
    let bl := ((p.owned[r]?).getD ([], none)).1
    let m := fieldOf b 6 4
    let v := fun i => signed 16 (fieldOf b (10 + 2 * i) 2)
    let s1 := (List.range ((b.length - 10 + 3) / 4)).foldl (fun s i => softPut s bl i (v (2 * i)) (v (2 * i + 1))) s
    s1.putHarq { p with high := (p.high.zipIdx).map fun x => if x.2 = r then (if m = 0 then none else some (m - 1)) else x.1 }
  | none => s

/-- A recorded fence is applied to its object, or to the same job. -/
def State.injectFence (s : State) (b : List Byte) : State :=
  let cause := fieldOf b 10 1
  let info := fieldOf b 20 4
  if fieldOf b 9 1 = 0 then s.fenceJobAnywhere (fieldOf b 16 4) cause info
  else s.fenceObject (fieldOf b 9 1) (fieldOf b 12 2) cause info (fieldOf b 14 1)

/-- One entry takes effect. -/
def State.injectEntry (s : State) (e : ReplayEntry) : State :=
  let b := e.payload
  match e.kind with
  | 2 => s.injectRequest b
  | 3 =>
    let c := orCarrier (b.drop 10)
    s.acceptOrder (fieldOf b 0 1 % 16) (fieldOf b 1 1 % 4) (b.drop 10) (List.replicate 8 (s.tcOf (s.carTb c) (fieldOf b 2 8)))
  | 4 =>
    -- the samples of jobs are taken where they are judged (R31)
    if fieldOf b 9 1 = 0 then s.setTb (fieldOf b 0 1 % 8) { s.tb (fieldOf b 0 1 % 8) with tc := s.tcOf (fieldOf b 0 1 % 8) (fieldOf b 1 8) } else s
  | 5 => s.injectArrival b
  | 6 => s.injectPacket b
  | 7 => s.injectFence b
  | 8 =>
    let p := fieldOf b 0 1
    let h := fieldOf b 1 2
    (s.writeBytes ((s.pool p).base + h * (s.pool p).bufSize) (b.drop 5)).putHandle (fieldOf b 3 2) h 0
  | 9 => s.injectHarq b
  | 0x0A => s.tallyAdd (fieldOf b 0 2) (BitVec.ofNat 32 (fieldOf b 2 4))
  | 0x0B =>
    if s.get 0x5300 5 = 0 then
      { s.put 0x5300 5 1 with whistle := { s.whistle with tb := s.whistleTb, edge := some (s.tcOf s.whistleTb (fieldOf b 0 8)) } }
    else { s with whistle := { s.whistle with resume := some (s.tcOf s.whistle.tb (fieldOf b 0 8)) } }
  | _ => s

/-- Whether an entry is due: a Whistle once the one before it is over, a resume at its cut; any other, while no cut is held, at its STAMP in fixed-frequency mode, else at the air position it carries; one that carries none follows the entry before it. -/
def State.entryDue (s : State) (e : ReplayEntry) : Bool :=
  let b := e.payload
  let at_ := fun (tb air : Nat) => s.reached (tb % 8) (s.tcOf (tb % 8) air)
  if e.kind = 0x0B then s.get 0x5300 5 == 0 || (s.get 0x5300 5 == 3 && s.whistle.resume.isNone)
  else if s.cut then false
  else if s.get 0x5000 2 = 2 then decide (s.replay.start + e.stamp * 196608 ≤ s.cycles)
  else match e.kind with
    | 3 => at_ (s.carTb (orCarrier (b.drop 10))) (fieldOf b 2 8)
    | 5 => s.passed (s.carTb (fieldOf b 0 1 % 32)) (s.ulOpen (fieldOf b 0 1 % 32) (fieldOf b 1 4))
    | 7 => at_ (fieldOf b 8 1) (fieldOf b 0 8)
    | _ => true

/-- After the last entry a Whistle is armed at the next symbol edge of WHISTLE_TB. -/
def State.endInject (s : State) : State :=
  let n := s.whistleTb
  if s.replay.entries.length ≤ s.replay.next ∧ s.cut = false ∧ s.get 0x5300 5 = 0 then
    { s.put 0x5300 5 1 with whistle := { s.whistle with tb := n, edge := some (nextBoundary (s.tbMu n) (s.tbEcp n) (s.tb n).tc % airPeriod) } }
  else s

/-- REPLAY_ENTRY_INJECT: the next entry of the record is presented when it is due. -/
def execReplayEntryInject (s : State) : Answer :=
  if s.injecting = false then .next s
  else match s.replay.entries[s.replay.next]? with
    | some e =>
      .next (if s.entryDue e then
          let s1 := (s.injectEntry e).put 0x5300 0x0C (s.get 0x5300 0x0C + (entryBytes 0 e).length)
          { s1 with replay := { s1.replay with next := s.replay.next + 1 } }.endInject
        else s)
    | none => .next s.endInject

end Sys2Proof.Machine
end

