-- ==== Sys2Proof/Machine/Dispatch.lean ====
section
/-! DEFINITION. The dispatch: one arm per command, each a direct call of that command's meaning. -/

namespace Sys2Proof.Machine

open Sys2Proof

def exec (i : Instr) (s : State) : Host.Outcome State Fault Refusal :=
  match i with
  | .nop is => Sys2Proof.Machine.execNop is s
  | .mark is => Sys2Proof.Machine.execMark is s
  | .add is => Sys2Proof.Machine.execAdd is s
  | .sub is => Sys2Proof.Machine.execSub is s
  | .addi is => Sys2Proof.Machine.execAddi is s
  | .and is => Sys2Proof.Machine.execAnd is s
  | .or is => Sys2Proof.Machine.execOr is s
  | .xor is => Sys2Proof.Machine.execXor is s
  | .li is => Sys2Proof.Machine.execLi is s
  | .shl is => Sys2Proof.Machine.execShl is s
  | .shr is => Sys2Proof.Machine.execShr is s
  | .sra is => Sys2Proof.Machine.execSra is s
  | .mul is => Sys2Proof.Machine.execMul is s
  | .mulh is => Sys2Proof.Machine.execMulh is s
  | .min is => Sys2Proof.Machine.execMin is s
  | .max is => Sys2Proof.Machine.execMax is s
  | .cmp is => Sys2Proof.Machine.execCmp is s
  | .cmpi is => Sys2Proof.Machine.execCmpi is s
  | .sel is => Sys2Proof.Machine.execSel is s
  | .br is => Sys2Proof.Machine.execBr is s
  | .bri is => Sys2Proof.Machine.execBri is s
  | .call is => Sys2Proof.Machine.execCall is s
  | .csrr is => Sys2Proof.Machine.execCsrr is s
  | .csrw is => Sys2Proof.Machine.execCsrw is s
  | .csrc is => Sys2Proof.Machine.execCsrc is s
  | .endJob is => Sys2Proof.Machine.execEndJob is s
  | .resume is => Sys2Proof.Machine.execResume is s
  | .ldb is => Sys2Proof.Machine.execLdb is s
  | .ldbu is => Sys2Proof.Machine.execLdbu is s
  | .ldh is => Sys2Proof.Machine.execLdh is s
  | .ldhu is => Sys2Proof.Machine.execLdhu is s
  | .ldw is => Sys2Proof.Machine.execLdw is s
  | .lda is => Sys2Proof.Machine.execLda is s
  | .ldp is => Sys2Proof.Machine.execLdp is s
  | .ldv is => Sys2Proof.Machine.execLdv is s
  | .stb is => Sys2Proof.Machine.execStb is s
  | .sth is => Sys2Proof.Machine.execSth is s
  | .stw is => Sys2Proof.Machine.execStw is s
  | .sta is => Sys2Proof.Machine.execSta is s
  | .stp is => Sys2Proof.Machine.execStp is s
  | .stv is => Sys2Proof.Machine.execStv is s
  | .aadd is => Sys2Proof.Machine.execAadd is s
  | .aaddi is => Sys2Proof.Machine.execAaddi is s
  | .amov is => Sys2Proof.Machine.execAmov is s
  | .afromg is => Sys2Proof.Machine.execAfromg is s
  | .atog is => Sys2Proof.Machine.execAtog is s
  | .sstart is => Sys2Proof.Machine.execSstart is s
  | .spause is => Sys2Proof.Machine.execSpause is s
  | .sstat is => Sys2Proof.Machine.execSstat is s
  | .twait is => Sys2Proof.Machine.execTwait is s
  | .tadd is => Sys2Proof.Machine.execTadd is s
  | .tacq is => Sys2Proof.Machine.execTacq is s
  | .trel is => Sys2Proof.Machine.execTrel is s
  | .tread is => Sys2Proof.Machine.execTread is s
  | .hdeq is => Sys2Proof.Machine.execHdeq is s
  | .henq is => Sys2Proof.Machine.execHenq is s
  | .vadd is => Sys2Proof.Machine.execVadd is s
  | .vsub is => Sys2Proof.Machine.execVsub is s
  | .vmul is => Sys2Proof.Machine.execVmul is s
  | .vfma is => Sys2Proof.Machine.execVfma is s
  | .vmin is => Sys2Proof.Machine.execVmin is s
  | .vmax is => Sys2Proof.Machine.execVmax is s
  | .vabs is => Sys2Proof.Machine.execVabs is s
  | .vand is => Sys2Proof.Machine.execVand is s
  | .vor is => Sys2Proof.Machine.execVor is s
  | .vxor is => Sys2Proof.Machine.execVxor is s
  | .vshl is => Sys2Proof.Machine.execVshl is s
  | .vmulrs is => Sys2Proof.Machine.execVmulrs is s
  | .vdmacs is => Sys2Proof.Machine.execVdmacs is s
  | .vdnarrow is => Sys2Proof.Machine.execVdnarrow is s
  | .vcmp is => Sys2Proof.Machine.execVcmp is s
  | .vsel is => Sys2Proof.Machine.execVsel is s
  | .vbcast is => Sys2Proof.Machine.execVbcast is s
  | .vcvt is => Sys2Proof.Machine.execVcvt is s
  | .vperm is => Sys2Proof.Machine.execVperm is s
  | .vshuf is => Sys2Proof.Machine.execVshuf is s
  | .vpack is => Sys2Proof.Machine.execVpack is s
  | .vunpack is => Sys2Proof.Machine.execVunpack is s
  | .vcompress is => Sys2Proof.Machine.execVcompress is s
  | .vexpand is => Sys2Proof.Machine.execVexpand is s
  | .vred is => Sys2Proof.Machine.execVred is s
  | .vtset is => Sys2Proof.Machine.execVtset is s
  | .vmrd is => Sys2Proof.Machine.execVmrd is s
  | .mtile is => Sys2Proof.Machine.execMtile is s
  | .mwld is => Sys2Proof.Machine.execMwld is s
  | .mwpass is => Sys2Proof.Machine.execMwpass is s
  | .mpass is => Sys2Proof.Machine.execMpass is s
  | .mrq is => Sys2Proof.Machine.execMrq is s
  | .msplit is => Sys2Proof.Machine.execMsplit is s
  | .moutl is => Sys2Proof.Machine.execMoutl is s
  | .mbwd is => Sys2Proof.Machine.execMbwd is s
  | .fexp is => Sys2Proof.Machine.execFexp is s
  | .flog is => Sys2Proof.Machine.execFlog is s
  | .frcp is => Sys2Proof.Machine.execFrcp is s
  | .frsqrt is => Sys2Proof.Machine.execFrsqrt is s
  | .fsigm is => Sys2Proof.Machine.execFsigm is s
  | .ftanh is => Sys2Proof.Machine.execFtanh is s
  | .fsoftp is => Sys2Proof.Machine.execFsoftp is s
  | .fsincos is => Sys2Proof.Machine.execFsincos is s
  | .fatan2 is => Sys2Proof.Machine.execFatan2 is s
  | .fsmooth is => Sys2Proof.Machine.execFsmooth is s
  | .fmp is => Sys2Proof.Machine.execFmp is s
  | .loop is => Sys2Proof.Machine.execLoop is s
  | .mvfl is => Sys2Proof.Machine.execMvfl is s
  | .mvtl is => Sys2Proof.Machine.execMvtl is s
  | .vsetvl is => Sys2Proof.Machine.execVsetvl is s
  | .sfbank is => Sys2Proof.Machine.execSfbank is s
  | .resultLanding core => Sys2Proof.Machine.execResultLanding core s
  | .holdRelease core => Sys2Proof.Machine.execHoldRelease core s
  | .stopRequest core tile => Sys2Proof.Machine.execStopRequest core tile s
  | .tileStopTimeout core => Sys2Proof.Machine.execTileStopTimeout core s
  | .stopTile core => Sys2Proof.Machine.execStopTile core s
  | .stopBundle core => Sys2Proof.Machine.execStopBundle core s
  | .blocked core => Sys2Proof.Machine.execBlocked core s
  | .jobEnd core => Sys2Proof.Machine.execJobEnd core s
  | .coreFence core cause info => Sys2Proof.Machine.execCoreFence core cause info s
  | .passBegin core group => Sys2Proof.Machine.execPassBegin core group s
  | .bandSwap core group => Sys2Proof.Machine.execBandSwap core group s
  | .tileFillDone core group tile parity => Sys2Proof.Machine.execTileFillDone core group tile parity s
  | .outputRowReady core group => Sys2Proof.Machine.execOutputRowReady core group s
  | .tileBoundary core group => Sys2Proof.Machine.execTileBoundary core group s
  | .storeDrain core group eccFault => Sys2Proof.Machine.execStoreDrain core group eccFault s
  | .splitTakesEffect core => Sys2Proof.Machine.execSplitTakesEffect core s
  | .groupFault core group quarters => Sys2Proof.Machine.execGroupFault core group quarters s
  | .groupScrubEnd core group => Sys2Proof.Machine.execGroupScrubEnd core group s
  | .streamNop x => Sys2Proof.Machine.execStreamNop x s
  | .bind x ext => Sys2Proof.Machine.execBind x ext s
  | .sym x => Sys2Proof.Machine.execSym x s
  | .move x read ext => Sys2Proof.Machine.execMove x read ext s
  | .streamLoop x => Sys2Proof.Machine.execStreamLoop x s
  | .waitt x => Sys2Proof.Machine.execWaitt x s
  | .streamTadd x => Sys2Proof.Machine.execStreamTadd x s
  | .hget x => Sys2Proof.Machine.execHget x s
  | .hput x => Sys2Proof.Machine.execHput x s
  | .tagset x => Sys2Proof.Machine.execTagset x s
  | .amode x => Sys2Proof.Machine.execAmode x s
  | .stats x => Sys2Proof.Machine.execStats x s
  | .streamEnd x => Sys2Proof.Machine.execStreamEnd x s
  | .lineAck core slot engine ext => Sys2Proof.Machine.execLineAck core slot engine ext s
  | .handleGrant core slot engine => Sys2Proof.Machine.execHandleGrant core slot engine s
  | .watchdogExpiry wait => Sys2Proof.Machine.execWatchdogExpiry wait s
  | .auditEdge linkDiffs => Sys2Proof.Machine.execAuditEdge linkDiffs s
  | .remedy => Sys2Proof.Machine.execRemedy s
  | .chainTileArrival core crcOk => Sys2Proof.Machine.execChainTileArrival core crcOk s
  | .soEntryRead func ring entry body readable => Sys2Proof.Machine.execSoEntryRead func ring entry body readable s
  | .jobRelease job req => Sys2Proof.Machine.execJobRelease job req s
  | .jobCompletion job users => Sys2Proof.Machine.execJobCompletion job users s
  | .contextSlotFree core => Sys2Proof.Machine.execContextSlotFree core s
  | .sliceEnd core => Sys2Proof.Machine.execSliceEnd core s
  | .swapOut core => Sys2Proof.Machine.execSwapOut core s
  | .swapIn core => Sys2Proof.Machine.execSwapIn core s
  | .tacqGrant tally => Sys2Proof.Machine.execTacqGrant tally s
  | .holdBoundExpiry tally => Sys2Proof.Machine.execHoldBoundExpiry tally s
  | .rxWindowOpen carrier sym => Sys2Proof.Machine.execRxWindowOpen carrier sym s
  | .rxWindowClose carrier sym => Sys2Proof.Machine.execRxWindowClose carrier sym s
  | .uplaneRx port frame => Sys2Proof.Machine.execUplaneRx port frame s
  | .reportCutoff job => Sys2Proof.Machine.execReportCutoff job s
  | .dlReportWrite job => Sys2Proof.Machine.execDlReportWrite job s
  | .txWindowOpen carrier sym blocked => Sys2Proof.Machine.execTxWindowOpen carrier sym blocked s
  | .txWindowClose carrier sym => Sys2Proof.Machine.execTxWindowClose carrier sym s
  | .cplaneTx => Sys2Proof.Machine.execCplaneTx s
  | .ecpriDelayRequest port frame => Sys2Proof.Machine.execEcpriDelayRequest port frame s
  | .codingDispatch kind => Sys2Proof.Machine.execCodingDispatch kind s
  | .ldpcDecodeDone engine => Sys2Proof.Machine.execLdpcDecodeDone engine s
  | .ldpcEncodeDone engine => Sys2Proof.Machine.execLdpcEncodeDone engine s
  | .polarDecodeDone engine llrs => Sys2Proof.Machine.execPolarDecodeDone engine llrs s
  | .polarEncodeDone engine => Sys2Proof.Machine.execPolarEncodeDone engine s
  | .engineFault engine softRead combining block => Sys2Proof.Machine.execEngineFault engine softRead combining block s
  | .engineScrubEnd engine => Sys2Proof.Machine.execEngineScrubEnd engine s
  | .harqTimeout => Sys2Proof.Machine.execHarqTimeout s
  | .adaptEpochEnd court baseLoss candLoss train => Sys2Proof.Machine.execAdaptEpochEnd court baseLoss candLoss train s
  | .adaptDiscard court value => Sys2Proof.Machine.execAdaptDiscard court value s
  | .symbolBoundary tb => Sys2Proof.Machine.execSymbolBoundary tb s
  | .ptpMessageRx port frame => Sys2Proof.Machine.execPtpMessageRx port frame s
  | .servoUpdate tb offset freqPpb rate => Sys2Proof.Machine.execServoUpdate tb offset freqPpb rate s
  | .sourceLoss tb fallback => Sys2Proof.Machine.execSourceLoss tb fallback s
  | .sourceQualified tb fallback offsets => Sys2Proof.Machine.execSourceQualified tb fallback offsets s
  | .phaseSrcWrite tb sub value => Sys2Proof.Machine.execPhaseSrcWrite tb sub value s
  | .realign tb => Sys2Proof.Machine.execRealign tb s
  | .stepApply tb => Sys2Proof.Machine.execStepApply tb s
  | .ppsInEdge => Sys2Proof.Machine.execPpsInEdge s
  | .todMessage utc valid => Sys2Proof.Machine.execTodMessage utc valid s
  | .refInLoss quiet ppb => Sys2Proof.Machine.execRefInLoss quiet ppb s
  | .synceSquelch lane lock => Sys2Proof.Machine.execSynceSquelch lane lock s
  | .esmcRx port pdu => Sys2Proof.Machine.execEsmcRx port pdu s
  | .timedPinEdge pin => Sys2Proof.Machine.execTimedPinEdge pin s
  | .ppsOutEdge => Sys2Proof.Machine.execPpsOutEdge s
  | .captureEdge pin => Sys2Proof.Machine.execCaptureEdge pin s
  | .forceInactive pin => Sys2Proof.Machine.execForceInactive pin s
  | .release pin => Sys2Proof.Machine.execRelease pin s
  | .heartbeat req => Sys2Proof.Machine.execHeartbeat req s
  | .read req => Sys2Proof.Machine.execRead req s
  | .write req => Sys2Proof.Machine.execWrite req s
  | .readBlock req => Sys2Proof.Machine.execReadBlock req s
  | .writeBlock req => Sys2Proof.Machine.execWriteBlock req s
  | .rallyBegin req => Sys2Proof.Machine.execRallyBegin req s
  | .rallyCommit req => Sys2Proof.Machine.execRallyCommit req s
  | .rallyAbort req => Sys2Proof.Machine.execRallyAbort req s
  | .rallyStatus req => Sys2Proof.Machine.execRallyStatus req s
  | .ackAttention req => Sys2Proof.Machine.execAckAttention req s
  | .subscribe req => Sys2Proof.Machine.execSubscribe req s
  | .heartbeatDue chan => Sys2Proof.Machine.execHeartbeatDue chan s
  | .rallyIdleTimeout scope => Sys2Proof.Machine.execRallyIdleTimeout scope s
  | .mgmtIdleTimeout chan => Sys2Proof.Machine.execMgmtIdleTimeout chan s
  | .freezePoint => Sys2Proof.Machine.execFreezePoint s
  | .serveTime => Sys2Proof.Machine.execServeTime s
  | .flitRx port flit => Sys2Proof.Machine.execFlitRx port flit s
  | .nakRx port seq => Sys2Proof.Machine.execNakRx port seq s
  | .laneLockLoss port => Sys2Proof.Machine.execLaneLockLoss port s
  | .retrainDone port peerChip peerPort => Sys2Proof.Machine.execRetrainDone port peerChip peerPort s
  | .portRetrain port => Sys2Proof.Machine.execPortRetrain port s
  | .timeFlit port roundTrip turnaround => Sys2Proof.Machine.execTimeFlit port roundTrip turnaround s
  | .memberHeartbeat from_ => Sys2Proof.Machine.execMemberHeartbeat from_ s
  | .lostTimeout chip => Sys2Proof.Machine.execLostTimeout chip s
  | .prepare coord rally court tb serve parts writes digest aligned => Sys2Proof.Machine.execPrepare coord rally court tb serve parts writes digest aligned s
  | .voteRx chip rally yes => Sys2Proof.Machine.execVoteRx chip rally yes s
  | .retract rally from_ => Sys2Proof.Machine.execRetract rally from_ s
  | .voteDeadline rally => Sys2Proof.Machine.execVoteDeadline rally s
  | .decisionRx rally commit => Sys2Proof.Machine.execDecisionRx rally commit s
  | .decisionRepeat rally acks => Sys2Proof.Machine.execDecisionRepeat rally acks s
  | .decisionQuery rally from_ => Sys2Proof.Machine.execDecisionQuery rally from_ s
  | .queryCutoff rally replies => Sys2Proof.Machine.execQueryCutoff rally replies s
  | .reductionUnitRx src unit => Sys2Proof.Machine.execReductionUnitRx src unit s
  | .reductionAbandon carrier sym chunk kind home => Sys2Proof.Machine.execReductionAbandon carrier sym chunk kind home s
  | .remoteAccessTimeout core slot engine => Sys2Proof.Machine.execRemoteAccessTimeout core slot engine s
  | .relay req reply => Sys2Proof.Machine.execRelay req reply s
  | .relayTimeout chan => Sys2Proof.Machine.execRelayTimeout chan s
  | .doorbell func ring value => Sys2Proof.Machine.execDoorbell func ring value s
  | .ringEnable func ring irq => Sys2Proof.Machine.execRingEnable func ring irq s
  | .ringDisable func ring irq => Sys2Proof.Machine.execRingDisable func ring irq s
  | .registerWrite func bar4 offset value => Sys2Proof.Machine.execRegisterWrite func bar4 offset value s
  | .rqEntryRead func entry frame readable => Sys2Proof.Machine.execRqEntryRead func entry frame readable s
  | .msixMessage func vector => Sys2Proof.Machine.execMsixMessage func vector s
  | .rsSpaceFree func ring => Sys2Proof.Machine.execRsSpaceFree func ring s
  | .bar2Access func offset size data ecc => Sys2Proof.Machine.execBar2Access func offset size data ecc s
  | .tallyAddWrite func offset data => Sys2Proof.Machine.execTallyAddWrite func offset data s
  | .benchLoadRequest model rally => Sys2Proof.Machine.execBenchLoadRequest model rally s
  | .benchPageLoaded crcOk => Sys2Proof.Machine.execBenchPageLoaded crcOk s
  | .benchLoadEnd => Sys2Proof.Machine.execBenchLoadEnd s
  | .libPut pkg => Sys2Proof.Machine.execLibPut pkg s
  | .libDelete model => Sys2Proof.Machine.execLibDelete model s
  | .xspiChannelFence channel words silent => Sys2Proof.Machine.execXspiChannelFence channel words silent s
  | .fenceDisposal => Sys2Proof.Machine.execFenceDisposal s
  | .fenceLift grain object => Sys2Proof.Machine.execFenceLift grain object s
  | .whistle edge => Sys2Proof.Machine.execWhistle edge s
  | .whistleCancel => Sys2Proof.Machine.execWhistleCancel s
  | .whistleResume => Sys2Proof.Machine.execWhistleResume s
  | .whistleEdge => Sys2Proof.Machine.execWhistleEdge s
  | .cutHeld => Sys2Proof.Machine.execCutHeld s
  | .resumeBoundary => Sys2Proof.Machine.execResumeBoundary s
  | .replayEntryInject => Sys2Proof.Machine.execReplayEntryInject s
  | .replayRingFull => Sys2Proof.Machine.execReplayRingFull s
  | .pmbusRound mw ocWarning => Sys2Proof.Machine.execPmbusRound mw ocWarning s
  | .estimateTick mw => Sys2Proof.Machine.execEstimateTick mw s
  | .telemetryLost => Sys2Proof.Machine.execTelemetryLost s
  | .decisionEdge => Sys2Proof.Machine.execDecisionEdge s
  | .pmAlert => Sys2Proof.Machine.execPmAlert s
  | .avsbusSettled mv => Sys2Proof.Machine.execAvsbusSettled mv s
  | .pllRelockDone => Sys2Proof.Machine.execPllRelockDone s
  | .frequencySwitch => Sys2Proof.Machine.execFrequencySwitch s
  | .gustFire domain => Sys2Proof.Machine.execGustFire domain s
  | .gustClear domain => Sys2Proof.Machine.execGustClear domain s
  | .sensorSample temps => Sys2Proof.Machine.execSensorSample temps s
  | .thermalTrip => Sys2Proof.Machine.execThermalTrip s
  | .poreset => Sys2Proof.Machine.execPoreset s
  | .chipReset => Sys2Proof.Machine.execChipReset s
  | .brownout vddCore => Sys2Proof.Machine.execBrownout vddCore s
  | .pcieFundamentalReset => Sys2Proof.Machine.execPcieFundamentalReset s
  | .functionLevelReset func => Sys2Proof.Machine.execFunctionLevelReset func s
  | .domainReset domain => Sys2Proof.Machine.execDomainReset domain s
  | .fhPortTraining port ok => Sys2Proof.Machine.execFhPortTraining port ok s
  | .bootWriteDone chan => Sys2Proof.Machine.execBootWriteDone chan s
  | .bootClear value => Sys2Proof.Machine.execBootClear value s
  | .romBoot fault0 fault1 => Sys2Proof.Machine.execRomBoot fault0 fault1 s
  | .breezeService => Sys2Proof.Machine.execBreezeService s
  | .fullService => Sys2Proof.Machine.execFullService s
  | .startupTestSlice unit slice pass => Sys2Proof.Machine.execStartupTestSlice unit slice pass s
  | .inServiceSlice unit slice ended => Sys2Proof.Machine.execInServiceSlice unit slice ended s
  | .sliceAbandon unit => Sys2Proof.Machine.execSliceAbandon unit s
  | .excursionMarker => Sys2Proof.Machine.execExcursionMarker s
  | .shutdown phase => Sys2Proof.Machine.execShutdown phase s
  | .fwWrite first last offset data flashOk => Sys2Proof.Machine.execFwWrite first last offset data flashOk s
  | .fwActivate slot => Sys2Proof.Machine.execFwActivate slot s
  | .runtimeSwitch core => Sys2Proof.Machine.execRuntimeSwitch core s
  | .fwFinalize => Sys2Proof.Machine.execFwFinalize s
  | .attestNonce nonce => Sys2Proof.Machine.execAttestNonce nonce s
  | .dbgRead set1 addr tag ext ecc => Sys2Proof.Machine.execDbgRead set1 addr tag ext ecc s
  | .dbgWrite set1 addr data timeout => Sys2Proof.Machine.execDbgWrite set1 addr data timeout s
  | .bypass => Sys2Proof.Machine.execBypass s
  | .samplePreload pins => Sys2Proof.Machine.execSamplePreload pins s
  | .extest => Sys2Proof.Machine.execExtest s
  | .idcode => Sys2Proof.Machine.execIdcode s
  | .clamp => Sys2Proof.Machine.execClamp s
  | .extestPulse => Sys2Proof.Machine.execExtestPulse s
  | .extestTrain => Sys2Proof.Machine.execExtestTrain s
  | .dbgacc value => Sys2Proof.Machine.execDbgacc value s
  | .traceDrainBurst core consumer => Sys2Proof.Machine.execTraceDrainBurst core consumer s
  | .countSnapshot => Sys2Proof.Machine.execCountSnapshot s
  | .countSelWrite core counter sel => Sys2Proof.Machine.execCountSelWrite core counter sel s
  | .statisticsClear index sub => Sys2Proof.Machine.execStatisticsClear index sub s
  | .transformDone engine => Sys2Proof.Machine.execTransformDone engine s
  | .transformEngineFault engine => Sys2Proof.Machine.execTransformEngineFault engine s
  | .controlComplexEcc court area => Sys2Proof.Machine.execControlComplexEcc court area s
  | .tbReadDone carrier slot user data weights ok => Sys2Proof.Machine.execTbReadDone carrier slot user data weights ok s
  | .managementFrame frame => Sys2Proof.Machine.execManagementFrame frame s
  | .badFrame req => Sys2Proof.Machine.execBadFrame req s
  | .ptpMessageTx tb port kind => Sys2Proof.Machine.execPtpMessageTx tb port kind s
  | .refInReturn ppb => Sys2Proof.Machine.execRefInReturn ppb s
  | .fhLinkLoss port => Sys2Proof.Machine.execFhLinkLoss port s
  | .currentLimitRepeat => Sys2Proof.Machine.execCurrentLimitRepeat s
  | .longGust => Sys2Proof.Machine.execLongGust s
  | .relockRestart => Sys2Proof.Machine.execRelockRestart s
  | .serdesPllsLocked record verified => Sys2Proof.Machine.execSerdesPllsLocked record verified s
  | .checkBytesInitialised models => Sys2Proof.Machine.execCheckBytesInitialised models s
  | .oldEpochContextTimeout core => Sys2Proof.Machine.execOldEpochContextTimeout core s
  | .fwVerifyDone fault => Sys2Proof.Machine.execFwVerifyDone fault s
  | .attestReportReady signature => Sys2Proof.Machine.execAttestReportReady signature s

end Sys2Proof.Machine
end

