-- ==== Sys2Proof/Safety.lean ====
section
/-! DEFINITION. What claims mean by a sound state and by a safe run. -/

namespace Sys2Proof.Machine

open Sys2Proof

/-- A state whose memory is in its canonical form: addresses strictly rising, no byte that an unlisted address reads as. -/
def State.Sound (s : State) : Prop := Memory.wf s.mem = true

/-- A step that neither faults nor is refused. -/
def Steps (s : State) : Prop := ∃ t, step s = .next t

/-- k steps in a row, none of which faults or is refused. -/
def Runs : Nat → State → Prop
  | 0, _ => True
  | k + 1, s => ∃ t, step s = .next t ∧ Runs k t

/-- The syllable is a whole bundle of its core that issues at once: the core takes syllables, a header that has been presented names its slot
alone, nothing is staged, in flight or held, the fetch lies in its window, no loop level ends at it, and the job's first bundle has issued. -/
structure State.Alone (s : State) (op : CoreOp) (is : Issue) : Prop where
  takes : s.takesSyl is.core.val = true
  last : is.last = true
  slot : opInSlot op is.slot.val = true
  bundle : (s.core is.core.val).bundle = []
  run : (s.core is.core.val).run = {} ∨ (s.core is.core.val).run = { present := some (2 ^ is.slot.val) }
  bubble : (s.core is.core.val).bubble = 0
  inflight : (s.core is.core.val).inflight = []
  fetch : (s.core is.core.val).fetchOk is.core.val 16 = true
  started : (s.core is.core.val).jobMode = true → (s.core is.core.val).curCtx.started = true
  noLoop : ∀ k < 4, (s.core is.core.val).readLc k = 0#32 ∨ (s.core is.core.val).readLe k ≠ (s.core is.core.val).pc

/-- As `Alone`, with a legal syllable whose predicate lets it act (bit 0; the slots that work lane by lane apply it themselves). -/
structure State.Acts (s : State) (op : CoreOp) (is : Issue) : Prop extends s.Alone op is where
  legal : sylLegal op is.slot.val is.body = true
  on : byLane op is.slot.val = true ∨ scalarOn (s.core is.core.val) is.body = true

end Sys2Proof.Machine
end

