-- ==== Sys2Proof/WellFormed.lean ====
section
/-! DEFINITION. Commands that are well formed: a syllable stands in a slot whose table lists its opcode, and operands have the size their format
fixes: entries, flits, frames, digests, signatures. A command that is not is no event of the interfaces it names; its meaning is total all the same. -/

namespace Sys2Proof

open Sys2Proof.Machine

/-- A syllable in a slot of its opcode; operands of the sizes that the spec fixes for them. -/
def Instr.wf (i : Instr) : Bool :=
  match i with
  | .nop is => if is.slot = 7 then sylBits is.body 8 1 == 0 && (is.last == (sylBits is.body 0 7 == 0)) else (slotOps is.slot.val).all fun o => opcodeOf o != sylOpc is.body
  | .mark is => is.slot == 7 && sylBits is.body 8 1 == 1 && (is.last == (sylBits is.body 0 7 == 0))
  | .add is => sylIs .add is.slot.val is.body
  | .sub is => sylIs .sub is.slot.val is.body
  | .addi is => sylIs .addi is.slot.val is.body
  | .and is => sylIs .and is.slot.val is.body
  | .or is => sylIs .or is.slot.val is.body
  | .xor is => sylIs .xor is.slot.val is.body
  | .li is => sylIs .li is.slot.val is.body
  | .shl is => sylIs .shl is.slot.val is.body
  | .shr is => sylIs .shr is.slot.val is.body
  | .sra is => sylIs .sra is.slot.val is.body
  | .mul is => sylIs .mul is.slot.val is.body
  | .mulh is => sylIs .mulh is.slot.val is.body
  | .min is => sylIs .min is.slot.val is.body
  | .max is => sylIs .max is.slot.val is.body
  | .cmp is => sylIs .cmp is.slot.val is.body
  | .cmpi is => sylIs .cmpi is.slot.val is.body
  | .sel is => sylIs .sel is.slot.val is.body
  | .br is => sylIs .br is.slot.val is.body
  | .bri is => sylIs .bri is.slot.val is.body
  | .call is => sylIs .call is.slot.val is.body
  | .csrr is => sylIs .csrr is.slot.val is.body
  | .csrw is => sylIs .csrw is.slot.val is.body
  | .csrc is => sylIs .csrc is.slot.val is.body
  | .endJob is => sylIs .endJob is.slot.val is.body
  | .resume is => sylIs .resume is.slot.val is.body
  | .ldb is => sylIs .ldb is.slot.val is.body
  | .ldbu is => sylIs .ldbu is.slot.val is.body
  | .ldh is => sylIs .ldh is.slot.val is.body
  | .ldhu is => sylIs .ldhu is.slot.val is.body
  | .ldw is => sylIs .ldw is.slot.val is.body
  | .lda is => sylIs .lda is.slot.val is.body
  | .ldp is => sylIs .ldp is.slot.val is.body
  | .ldv is => sylIs .ldv is.slot.val is.body
  | .stb is => sylIs .stb is.slot.val is.body
  | .sth is => sylIs .sth is.slot.val is.body
  | .stw is => sylIs .stw is.slot.val is.body
  | .sta is => sylIs .sta is.slot.val is.body
  | .stp is => sylIs .stp is.slot.val is.body
  | .stv is => sylIs .stv is.slot.val is.body
  | .aadd is => sylIs .aadd is.slot.val is.body
  | .aaddi is => sylIs .aaddi is.slot.val is.body
  | .amov is => sylIs .amov is.slot.val is.body
  | .afromg is => sylIs .afromg is.slot.val is.body
  | .atog is => sylIs .atog is.slot.val is.body
  | .sstart is => sylIs .sstart is.slot.val is.body
  | .spause is => sylIs .spause is.slot.val is.body
  | .sstat is => sylIs .sstat is.slot.val is.body
  | .twait is => sylIs .twait is.slot.val is.body
  | .tadd is => sylIs .tadd is.slot.val is.body
  | .tacq is => sylIs .tacq is.slot.val is.body
  | .trel is => sylIs .trel is.slot.val is.body
  | .tread is => sylIs .tread is.slot.val is.body
  | .hdeq is => sylIs .hdeq is.slot.val is.body
  | .henq is => sylIs .henq is.slot.val is.body
  | .vadd is => sylIs .vadd is.slot.val is.body
  | .vsub is => sylIs .vsub is.slot.val is.body
  | .vmul is => sylIs .vmul is.slot.val is.body
  | .vfma is => sylIs .vfma is.slot.val is.body
  | .vmin is => sylIs .vmin is.slot.val is.body
  | .vmax is => sylIs .vmax is.slot.val is.body
  | .vabs is => sylIs .vabs is.slot.val is.body
  | .vand is => sylIs .vand is.slot.val is.body
  | .vor is => sylIs .vor is.slot.val is.body
  | .vxor is => sylIs .vxor is.slot.val is.body
  | .vshl is => sylIs .vshl is.slot.val is.body
  | .vmulrs is => sylIs .vmulrs is.slot.val is.body
  | .vdmacs is => sylIs .vdmacs is.slot.val is.body
  | .vdnarrow is => sylIs .vdnarrow is.slot.val is.body
  | .vcmp is => sylIs .vcmp is.slot.val is.body
  | .vsel is => sylIs .vsel is.slot.val is.body
  | .vbcast is => sylIs .vbcast is.slot.val is.body
  | .vcvt is => sylIs .vcvt is.slot.val is.body
  | .vperm is => sylIs .vperm is.slot.val is.body
  | .vshuf is => sylIs .vshuf is.slot.val is.body
  | .vpack is => sylIs .vpack is.slot.val is.body
  | .vunpack is => sylIs .vunpack is.slot.val is.body
  | .vcompress is => sylIs .vcompress is.slot.val is.body
  | .vexpand is => sylIs .vexpand is.slot.val is.body
  | .vred is => sylIs .vred is.slot.val is.body
  | .vtset is => sylIs .vtset is.slot.val is.body
  | .vmrd is => sylIs .vmrd is.slot.val is.body
  | .mtile is => sylIs .mtile is.slot.val is.body
  | .mwld is => sylIs .mwld is.slot.val is.body
  | .mwpass is => sylIs .mwpass is.slot.val is.body
  | .mpass is => sylIs .mpass is.slot.val is.body
  | .mrq is => sylIs .mrq is.slot.val is.body
  | .msplit is => sylIs .msplit is.slot.val is.body
  | .moutl is => sylIs .moutl is.slot.val is.body
  | .mbwd is => sylIs .mbwd is.slot.val is.body
  | .fexp is => sylIs .fexp is.slot.val is.body
  | .flog is => sylIs .flog is.slot.val is.body
  | .frcp is => sylIs .frcp is.slot.val is.body
  | .frsqrt is => sylIs .frsqrt is.slot.val is.body
  | .fsigm is => sylIs .fsigm is.slot.val is.body
  | .ftanh is => sylIs .ftanh is.slot.val is.body
  | .fsoftp is => sylIs .fsoftp is.slot.val is.body
  | .fsincos is => sylIs .fsincos is.slot.val is.body
  | .fatan2 is => sylIs .fatan2 is.slot.val is.body
  | .fsmooth is => sylIs .fsmooth is.slot.val is.body
  | .fmp is => sylIs .fmp is.slot.val is.body
  | .loop is => sylIs .loop is.slot.val is.body
  | .mvfl is => sylIs .mvfl is.slot.val is.body
  | .mvtl is => sylIs .mvtl is.slot.val is.body
  | .vsetvl is => sylIs .vsetvl is.slot.val is.body
  | .sfbank is => sylIs .sfbank is.slot.val is.body
  | .resultLanding _ => true
  | .holdRelease _ => true
  | .stopRequest _ _ => true
  | .tileStopTimeout _ => true
  | .stopTile _ => true
  | .stopBundle _ => true
  | .blocked _ => true
  | .jobEnd _ => true
  | .coreFence _ _ _ => true
  | .passBegin _ _ => true
  | .bandSwap _ _ => true
  | .tileFillDone _ _ _ _ => true
  | .outputRowReady _ _ => true
  | .tileBoundary _ _ => true
  | .storeDrain _ _ _ => true
  | .splitTakesEffect _ => true
  | .groupFault _ _ _ => true
  | .groupScrubEnd _ _ => true
  | .streamNop x => streamOpc x == 0 || decide (0x0C ≤ streamOpc x ∧ streamOpc x < 0x3F)
  | .bind x _ => streamOpc x == 1
  | .sym x => streamOpc x == 2
  | .move x _ _ => streamOpc x == 3
  | .streamLoop x => streamOpc x == 4
  | .waitt x => streamOpc x == 5
  | .streamTadd x => streamOpc x == 6
  | .hget x => streamOpc x == 7
  | .hput x => streamOpc x == 8
  | .tagset x => streamOpc x == 9
  | .amode x => streamOpc x == 0xA
  | .stats x => streamOpc x == 0xB
  | .streamEnd x => streamOpc x == 0x3F
  | .lineAck _ _ _ _ => true
  | .handleGrant _ _ _ => true
  | .watchdogExpiry _ => true
  | .auditEdge _ => true
  | .remedy => true
  | .chainTileArrival _ _ => true
  | .soEntryRead _ _ entry body _ => entry.length == 16 && decide (64 ≤ body.length ∨ body = [])
  | .jobRelease _ _ => true
  | .jobCompletion _ _ => true
  | .contextSlotFree _ => true
  | .sliceEnd _ => true
  | .swapOut _ => true
  | .swapIn _ => true
  | .tacqGrant _ => true
  | .holdBoundExpiry _ => true
  | .rxWindowOpen _ _ => true
  | .rxWindowClose _ _ => true
  | .uplaneRx _ frame => decide (14 ≤ frame.length)
  | .reportCutoff _ => true
  | .dlReportWrite _ => true
  | .txWindowOpen _ _ _ => true
  | .txWindowClose _ _ => true
  | .cplaneTx => true
  | .ecpriDelayRequest _ frame => decide (14 ≤ frame.length)
  | .codingDispatch _ => true
  | .ldpcDecodeDone _ => true
  | .ldpcEncodeDone _ => true
  | .polarDecodeDone _ _ => true
  | .polarEncodeDone _ => true
  | .engineFault _ _ _ _ => true
  | .engineScrubEnd _ => true
  | .harqTimeout => true
  | .adaptEpochEnd _ _ _ x => x.sums.all fun l => l.all fun v => decide (-(2 ^ 47 : Int) ≤ v ∧ v < 2 ^ 47)
  | .adaptDiscard _ _ => true
  | .symbolBoundary _ => true
  | .ptpMessageRx _ frame => decide (14 ≤ frame.length)
  | .servoUpdate _ _ _ _ => true
  | .sourceLoss _ _ => true
  | .sourceQualified _ _ offsets => offsets.length == 8
  | .phaseSrcWrite _ _ _ => true
  | .realign _ => true
  | .stepApply _ => true
  | .ppsInEdge => true
  | .todMessage _ _ => true
  | .refInLoss _ _ => true
  | .synceSquelch _ _ => true
  | .esmcRx _ _ => true
  | .timedPinEdge _ => true
  | .ppsOutEdge => true
  | .captureEdge _ => true
  | .forceInactive _ => true
  | .release _ => true
  | .heartbeat req => decide (16 ≤ req.frame.length)
  | .read req => decide (16 ≤ req.frame.length)
  | .write req => decide (16 ≤ req.frame.length)
  | .readBlock req => decide (16 ≤ req.frame.length)
  | .writeBlock req => decide (16 ≤ req.frame.length)
  | .rallyBegin req => decide (16 ≤ req.frame.length)
  | .rallyCommit req => decide (16 ≤ req.frame.length)
  | .rallyAbort req => decide (16 ≤ req.frame.length)
  | .rallyStatus req => decide (16 ≤ req.frame.length)
  | .ackAttention req => decide (16 ≤ req.frame.length)
  | .subscribe req => decide (16 ≤ req.frame.length)
  | .heartbeatDue _ => true
  | .rallyIdleTimeout _ => true
  | .mgmtIdleTimeout _ => true
  | .freezePoint => true
  | .serveTime => true
  | .flitRx _ flit => flit.length == 272
  | .nakRx _ _ => true
  | .laneLockLoss _ => true
  | .retrainDone _ _ _ => true
  | .portRetrain _ => true
  | .timeFlit _ _ _ => true
  | .memberHeartbeat _ => true
  | .lostTimeout _ => true
  | .prepare _ _ _ _ _ _ _ digest _ => digest.length == 32
  | .voteRx _ _ _ => true
  | .retract _ _ => true
  | .voteDeadline _ => true
  | .decisionRx _ _ => true
  | .decisionRepeat _ _ => true
  | .decisionQuery _ _ => true
  | .queryCutoff _ _ => true
  | .reductionUnitRx _ unit => unit.sums.length % 21 == 0
  | .reductionAbandon _ _ _ _ _ => true
  | .remoteAccessTimeout _ _ _ => true
  | .relay _ _ => true
  | .relayTimeout _ => true
  | .doorbell _ _ _ => true
  | .ringEnable _ _ _ => true
  | .ringDisable _ _ _ => true
  | .registerWrite _ _ _ _ => true
  | .rqEntryRead _ entry _ _ => entry.length == 32
  | .msixMessage _ _ => true
  | .rsSpaceFree _ _ => true
  | .bar2Access _ _ size data _ => data.isNone || data == data.filter fun b => b.length == size.toNat
  | .tallyAddWrite _ _ data => decide (1 ≤ data.length)
  | .benchLoadRequest _ _ => true
  | .benchPageLoaded _ => true
  | .benchLoadEnd => true
  | .libPut pkg => pkg.data != []
  | .libDelete _ => true
  | .xspiChannelFence _ _ _ => true
  | .fenceDisposal => true
  | .fenceLift _ _ => true
  | .whistle _ => true
  | .whistleCancel => true
  | .whistleResume => true
  | .whistleEdge => true
  | .cutHeld => true
  | .resumeBoundary => true
  | .replayEntryInject => true
  | .replayRingFull => true
  | .pmbusRound mw _ => mw.length == 6
  | .estimateTick _ => true
  | .telemetryLost => true
  | .decisionEdge => true
  | .pmAlert => true
  | .avsbusSettled _ => true
  | .pllRelockDone => true
  | .frequencySwitch => true
  | .gustFire _ => true
  | .gustClear _ => true
  | .sensorSample _ => true
  | .thermalTrip => true
  | .poreset => true
  | .chipReset => true
  | .brownout _ => true
  | .pcieFundamentalReset => true
  | .functionLevelReset _ => true
  | .domainReset _ => true
  | .fhPortTraining _ _ => true
  | .bootWriteDone _ => true
  | .bootClear _ => true
  | .romBoot _ _ => true
  | .breezeService => true
  | .fullService => true
  | .startupTestSlice _ _ _ => true
  | .inServiceSlice _ _ _ => true
  | .sliceAbandon _ => true
  | .excursionMarker => true
  | .shutdown _ => true
  | .fwWrite _ _ _ _ _ => true
  | .fwActivate _ => true
  | .runtimeSwitch _ => true
  | .fwFinalize => true
  | .attestNonce nonce => nonce.length == 32
  | .dbgRead _ _ _ ext _ => ext == [] || ext.length == 8
  | .dbgWrite _ _ _ _ => true
  | .bypass => true
  | .samplePreload _ => true
  | .extest => true
  | .idcode => true
  | .clamp => true
  | .extestPulse => true
  | .extestTrain => true
  | .dbgacc _ => true
  | .traceDrainBurst _ _ => true
  | .countSnapshot => true
  | .countSelWrite _ _ _ => true
  | .statisticsClear _ _ => true
  | .transformDone _ => true
  | .transformEngineFault _ => true
  | .controlComplexEcc _ _ => true
  | .tbReadDone _ _ _ _ _ _ => true
  | .managementFrame frame => decide (14 ≤ frame.length)
  | .badFrame _ => true
  | .ptpMessageTx _ _ _ => true
  | .refInReturn _ => true
  | .fhLinkLoss _ => true
  | .currentLimitRepeat => true
  | .longGust => true
  | .relockRestart => true
  | .serdesPllsLocked _ _ => true
  | .checkBytesInitialised _ => true
  | .oldEpochContextTimeout _ => true
  | .fwVerifyDone _ => true
  | .attestReportReady signature => signature.length == 17088

end Sys2Proof
end

