-- ==== Sys2Proof/Certificates/Slice0/Obligations.lean ====
section
/-! DEFINITION. The statements about the model, and the words they are said in. -/

namespace Sys2Proof.Claims

open Sys2Proof Sys2Proof.Machine

/-- The operand of the operation of a syllable. -/
def arg (is : Issue) : SylArg := ⟨is.core.val, is.slot.val, is.body, is.ecc⟩

/-- What a bundle leaves unchanged on core n but for the registers of `wr`, given by the encodings of Table 4.4, 0x80 and 0x81 the two flag
groups, 0x102 STICKY, 0x100 the CSRs of the contexts but CYCLE, 0x103 the matrix array and what the next pass takes; and every other core. -/
def frame (n : Nat) (wr : List Nat) (s t : State) : Prop :=
  (∀ i < 32, i ∉ wr → (t.core n).readG i = (s.core n).readG i)
  ∧ (∀ i < 16, 0x20 + i ∉ wr → (t.core n).readA i = (s.core n).readA i)
  ∧ (∀ i < 8, 0x30 + i ∉ wr → (t.core n).readP i = (s.core n).readP i)
  ∧ (∀ i < 32, 0x40 + i ∉ wr → (t.core n).readV i = (s.core n).readV i)
  ∧ (∀ i < 4, 0x60 + i ∉ wr → (t.core n).readLc i = (s.core n).readLc i)
  ∧ (∀ i < 4, 0x64 + i ∉ wr → (t.core n).readLs i = (s.core n).readLs i)
  ∧ (∀ i < 4, 0x68 + i ∉ wr → (t.core n).readLe i = (s.core n).readLe i)
  ∧ (0x6C ∉ wr → (t.core n).vl = (s.core n).vl)
  ∧ (0x80 ∉ wr → (t.core n).flags.toNat % 16 = (s.core n).flags.toNat % 16)
  ∧ (0x81 ∉ wr → (t.core n).flags.toNat / 16 = (s.core n).flags.toNat / 16)
  ∧ (0x102 ∉ wr → (t.core n).sticky = (s.core n).sticky)
  ∧ (0x100 ∉ wr → ∀ k, { (t.core n).ctx k with cycle := 0, next := {} } = { (s.core n).ctx k with cycle := 0, next := {} })
  ∧ (0x103 ∉ wr → (t.core n).groups = (s.core n).groups ∧ ∀ k, ((t.core n).ctx k).next = ((s.core n).ctx k).next)
  ∧ (∀ m, m ≠ n → t.core m = s.core m)

/-- Every byte of memory reads as before. -/
def memKept (s t : State) : Prop := ∀ a, memByte t.mem a = memByte s.mem a

/-- Nothing outside the cores and the dictionary (whose event counters count) changes: no byte of memory, no Tally, job, queue, time base ... -/
def onlyCore (s t : State) : Prop := ∃ o k, t = { s with obj := o, cores := k }

/-- The next bundle is the one behind the present one: a header and one syllable. -/
def falls (n : Nat) (s t : State) : Prop := (t.core n).pc = (s.core n).pc + 16 ∧ (t.core n).bundle = []

/-- The flags of a result: N bit 31, Z zero, C and V as given (R85). -/
def nzcv (r : Word32) (c v : Bool) : Nat :=
  (if r.getLsbD 31 then 8 else 0) + (if r = 0#32 then 4 else 0) + (if c then 2 else 0) + (if v then 1 else 0)

/-- Flags of group `slot` of a FLAGS value. -/
def group (f : Byte) (slot : Nat) : Nat := f.toNat / 16 ^ slot % 16

/-- An S0 or S1 instruction with result `r` of gA and gB, and flags where `fl` gives them: gD takes the result (g0 reads zero), the slot's
flag group takes the flags, the bundle behind follows, and nothing else of the core or the chip changes. -/
def scalar (mk : Issue → Instr) (op : CoreOp) (r : Issue → Word32 → Word32 → Word32) (fl : Issue → Word32 → Word32 → Option Nat) : Prop :=
  ∀ (is : Issue) (s : State), s.Acts op is →
    let n := is.core.val
    let d := sylD is.body
    let a := (s.core n).readG (sylA is.body)
    let b := (s.core n).readG (sylB is.body)
    ∃ t, exec (mk is) s = .next t
      ∧ (t.core n).readG d = (if d = 0 then 0#32 else r is a b)
      ∧ (∀ f ∈ fl is a b, group (t.core n).flags is.slot.val = f)
      ∧ falls n s t ∧ onlyCore s t
      ∧ frame n (if (fl is a b).isSome then [d, 0x80 + is.slot.val] else [d]) s t

/-- An instruction whose one result, of latency 1, is a value for the g or a register D; a job's write of a12 to a15 unbinds the walker of the
register (R158, R160). Nothing else of the core or the chip changes. -/
def plain (mk : Issue → Instr) (op : CoreOp) (ok : State → SylArg → Prop) (v : State → SylArg → Nat) : Prop :=
  ∀ (is : Issue) (s : State), s.Acts op is → ok s (arg is) →
    let n := is.core.val
    let d := sylD is.body
    ∃ t, exec (mk is) s = .next t
      ∧ (d < 0x20 → (t.core n).readG d = if d = 0 then 0#32 else BitVec.ofNat 32 (v s (arg is)))
      ∧ (0x20 ≤ d → (t.core n).readA (d - 0x20) = BitVec.ofNat 48 (v s (arg is)))
      ∧ (0x2C ≤ d → (s.core n).jobMode = true → ((t.core n).walker (d - 0x2C)).bound = false)
      ∧ falls n s t ∧ onlyCore s t ∧ frame n (if 0x2C ≤ d then [d, 0x100] else [d]) s t

/-- A load of `size` bytes that meets no uncorrectable error: the result goes into flight with latency 4, extended by `ext`; with PI the base register moves on. -/
def loads (mk : Issue → Instr) (op : CoreOp) (size : Nat) (ext : Nat → Nat) : Prop :=
  ∀ (is : Issue) (s : State), s.Acts op is →
    let n := is.core.val
    let x := arg is
    let a := (effAddr s x).toNat
    let b := sylA is.body
    s.inWindow n a size = true → a % size = 0 → is.ecc ≠ .uncorrectable →
      ∃ t r, exec (mk is) s = .next t
        ∧ (t.core n).inflight = [r] ∧ r.dest = sylD is.body ∧ r.remain = 3 ∧ r.value = BitVec.ofNat 1024 (ext (memNat s.mem size a))
        ∧ r.mask = BitVec.allOnes 128 ∧ r.sticky = 0#8
        ∧ (sylPI is.body = true → (t.core n).readA (b - 0x20) = (s.core n).readA (b - 0x20) + sylOfsM is.body)
        ∧ falls n s t ∧ onlyCore s t
        ∧ frame n (if sylPI is.body then (if 0x2C ≤ b then [b, 0x100] else [b]) else []) s t

/-- A store of the `size` low bytes of `v`: those bytes stand at the effective address, every other byte reads as before, and the block tags of
the words touched are cleared. -/
def stores (mk : Issue → Instr) (op : CoreOp) (size : Nat) (v : Core → Nat → Nat) : Prop :=
  ∀ (is : Issue) (s : State), s.Acts op is →
    let n := is.core.val
    let x := arg is
    let a := (effAddr s x).toNat
    let b := sylA is.body
    s.inWindow n a size = true → a % size = 0 →
      ∃ t, exec (mk is) s = .next t
        ∧ (∀ i < size, memByte t.mem (a + i) = BitVec.ofNat 8 (v (s.core n) (sylD is.body) / 256 ^ i))
        ∧ (∀ i, i < a ∨ a + size ≤ i → memByte t.mem i = memByte s.mem i)
        ∧ (∀ i < size, Tbl.get 0#6 t.tags ((a + i) / 8) = 0#6)
        ∧ (sylPI is.body = true → (t.core n).readA (b - 0x20) = (s.core n).readA (b - 0x20) + sylOfsM is.body)
        ∧ falls n s t ∧ (∃ o k m g, t = { s with obj := o, cores := k, mem := m, tags := g })
        ∧ frame n (if sylPI is.body then (if 0x2C ≤ b then [b, 0x100] else [b]) else []) s t

/-- A V instruction whose result of latency 3 has n elements of w bytes, element i being `f` of the state; the lanes behind are zero, the lane
mask is the syllable's. Nothing else of the core or the chip changes. -/
def vector (mk : Issue → Instr) (op : CoreOp) (ok : SylArg → Prop) (w n : State → SylArg → Nat) (f : State → SylArg → Nat → Nat) : Prop :=
  ∀ (is : Issue) (s : State), s.Acts op is → ok (arg is) →
    let x := arg is
    ∃ t r, exec (mk is) s = .next t
      ∧ (t.core x.n).inflight = [r] ∧ r.dest = sylD is.body ∧ r.remain = 2
      ∧ (∀ i < n s x, elem r.value (w s x) i = f s x i % 2 ^ (8 * w s x))
      ∧ r.value.toNat < 2 ^ (8 * w s x * n s x)
      ∧ r.mask = elemMask (w s x) (n s x) (laneMask (s.core x.n) is.body)
      ∧ falls x.n s t ∧ onlyCore s t ∧ frame x.n [] s t

/-- Bytes of an element of the syllable's type, and elements below vl. -/
def etW (_ : State) (x : SylArg) : Nat := etSize (etOf x)
def etN (s : State) (x : SylArg) : Nat := elemsBelow s x (etSize (etOf x))
/-- Element i of the first and second source. -/
def elemA (s : State) (x : SylArg) (i : Nat) : Nat := elem (vsrcA s x) (etSize (etOf x)) i
def elemB (s : State) (x : SylArg) (i : Nat) : Nat := elem (vsrcB s x) (etSize (etOf x)) i

/-- An integer narrowed to a type: saturated with FN[0], else wrapped. -/
def narrowed (x : SylArg) (v : Int) : Nat := (narrowInt (etOf x) (sylFN x.body % 2 == 1) v).1

/-- An exact element-wise integer operation narrowed into the element type; a complex element by its parts (R126, R92). -/
def exactly (f : Int → Int → Int) (x : SylArg) (a b : Nat) : Nat :=
  if etIsComplex (etOf x) then
    narrowed x (f (partRe (etOf x) a) (partRe (etOf x) b)) + narrowed x (f (partIm (etOf x) a) (partIm (etOf x) b)) * 2 ^ etPartBits (etOf x)
  else narrowed x (f (etVal (etOf x) a) (etVal (etOf x) b))

/-- A floating-point operation of two encodings, rounded once. -/
def rounded (f : FVal → FVal → FVal) (x : SylArg) (a b : Nat) : Nat :=
  (fround (etFmt (etOf x)) (f (fdecode (etFmt (etOf x)) a) (fdecode (etFmt (etOf x)) b))).1

/-- Half-up rounding of an exact value shifted right by k (R93). -/
def halfUp (v : Int) (k : Nat) : Int := (v + (if k = 0 then 0 else 2 ^ (k - 1))) / 2 ^ k

/-- The smaller or greater of two encodings of a floating-point format: a NaN gives the default NaN; the sign of two zeros of opposite sign is
open (log entry 5). -/
def floatPick (wantMax : Bool) (x : SylArg) (a b : Nat) : Nat :=
  let f := etFmt (etOf x)
  let u := fdecode f a
  let v := fdecode f b
  if u = .nan ∨ v = .nan then f.nanCode
  else if feq u v then (if a = b then a else withSign f (Config.zeroTieNegative (etOf x)) 0)
  else if flt u v = wantMax then b else a

/-- A special function of latency 6 whose table bank reads without an uncorrectable error: 32 elements, element i being `f` of argument i of vA;
bytes 64 to 127 are zero for BF16. -/
def special (mk : Issue → Instr) (op : CoreOp) (f : Nat → Nat → Nat → Nat) : Prop :=
  ∀ (is : Issue) (s : State), s.Acts op is → is.ecc ≠ .uncorrectable →
    let x := arg is
    let w := etSize (etOf x)
    ∃ t r, exec (mk is) s = .next t
      ∧ (t.core x.n).inflight = [r] ∧ r.dest = sylD is.body ∧ r.remain = 5
      ∧ (∀ i < 32, elem r.value w i = f (etOf x) (sfSetOf s x) (elem (vsrcA s x) w i) % 2 ^ (8 * w))
      ∧ r.value.toNat < 2 ^ (8 * w * 32)
      ∧ falls x.n s t ∧ onlyCore s t ∧ frame x.n [] s t

/-- An M instruction that only sets what the next pass takes. -/
def nextPass (mk : Issue → Instr) (op : CoreOp) (ok : State → SylArg → Prop) (f : State → SylArg → NextPass → NextPass) : Prop :=
  ∀ (is : Issue) (s : State), s.Acts op is → ok s (arg is) →
    ∃ t, exec (mk is) s = .next t
      ∧ (t.core is.core.val).curCtx.next = f s (arg is) (s.core is.core.val).curCtx.next
      ∧ (t.core is.core.val).groups = (s.core is.core.val).groups
      ∧ falls is.core.val s t ∧ onlyCore s t ∧ frame is.core.val [0x103] s t

end Sys2Proof.Claims

open Sys2Proof Sys2Proof.Machine Sys2Proof.Claims

/-- What a save of the running context with a cause leaves: the event registers, the context's state, and the registers in the save area. -/
def Sys2Proof.Claims.savedAs (n cause : Nat) (s t : State) : Prop :=
  let c := s.core n
  let k := c.cur
  let a := saveArea n k
  ((t.core n).ctx k).state = (if cause = 3 then .blocked else .stopped) ∧ ((t.core n).ctx k).evtCause = BitVec.ofNat 32 cause
    ∧ ((t.core n).ctx k).evtPc = c.pc ∧ memNat t.mem 6 (a + 8) = c.pc.toNat ∧ memNat t.mem 1 (a + 6) = cause ∧ memNat t.mem 1 (a + 4) = c.inflight.length
    ∧ (∀ i < 32, memNat t.mem 4 (a + 0x100 + 4 * i) = (c.readG i).toNat) ∧ (∀ i < 16, memNat t.mem 6 (a + 0x180 + 8 * i) = (c.readA i).toNat)
    ∧ (∀ i < 8, memNat t.mem 16 (a + 0x200 + 16 * i) = (c.readP i).toNat) ∧ (∀ i < 32, memNat t.mem 128 (a + 0x800 + 128 * i) = (c.readV i).toNat)
    ∧ (t.core n).stop = none ∧ (∀ m, m ≠ n → t.core m = s.core m)

/-- The engine a stream instruction is presented to. -/
def Sys2Proof.Claims.engineOf (x : StreamIssue) (s : State) : Engine := (s.core x.core.val).curCtx.engine x.engine.val

/-- The engine runs: its context runs, its program runs and is not paused. -/
def Sys2Proof.Claims.engineRuns (x : StreamIssue) (s : State) : Prop :=
  s.coresStopped = false ∧ (s.core x.core.val).jobMode = true ∧ (engineOf x s).state = .run ∧ (engineOf x s).paused = false

/-- The instruction stands in the data window of the engine's context. -/
def Sys2Proof.Claims.inProgram (x : StreamIssue) (s : State) : Bool :=
  inCtxWindow (s.core x.core) x.core (s.core x.core).cur ((engineOf x s).prog + 8 * (engineOf x s).pc) 8

/-- The engine takes the instruction: it runs, the instruction stands in its program and reads without an uncorrectable error, and no loop level of
its program ends there. -/
def Sys2Proof.Claims.engages (x : StreamIssue) (s : State) : Prop :=
  let g := engineOf x s
  engineRuns x s ∧ g.pc < 32 ∧ inProgram x s = true ∧ x.ecc ≠ .uncorrectable
    ∧ ∀ k < 4, Tbl.get 0#32 g.loopCount k = 0#32 ∨ Tbl.get 0 g.loopEnd k ≠ g.pc

/-- The engine behind one instruction, with nothing to wait for. -/
def Sys2Proof.Claims.past (g : Engine) : Engine := { g with pc := g.pc + 1, wait := .none }

/-- The other engines of the context, the live registers of the core and the other cores stand. -/
def Sys2Proof.Claims.onlyEngine (x : StreamIssue) (s t : State) : Prop :=
  (∀ e, e ≠ x.engine.val → (t.core x.core.val).curCtx.engine e = (s.core x.core.val).curCtx.engine e)
    ∧ (t.core x.core.val).pc = (s.core x.core.val).pc ∧ frame x.core.val [0x100] s t

/-- An instruction that only changes its engine: NOP, BIND, SYM, LOOP, AMODE, WAITT, END. -/
def Sys2Proof.Claims.engineStep (opc : Nat) (mk : StreamIssue → Instr) (ok : StreamIssue → State → Prop) (f : StreamIssue → State → Engine → Engine) : Prop :=
  ∀ (x : StreamIssue) (s : State), engages x s → streamOpc x = opc → ok x s →
    ∃ t, exec (mk x) s = .next t ∧ engineOf x t = f x s (engineOf x s) ∧ onlyEngine x s t ∧ onlyCore s t

/-- An instruction that raises STREAM with a reason of Table 8.3, its engine as the source (R177). -/
def Sys2Proof.Claims.engineRaises (mk : StreamIssue → Instr) (reason : Nat) (bad : StreamIssue → State → Prop) : Prop :=
  ∀ (x : StreamIssue) (s : State), engages x s → bad x s →
    ∃ t, exec (mk x) s = .next t ∧ (t.core x.core.val).curCtx.evtCause = 0x22#32
      ∧ (t.core x.core.val).curCtx.evtInfo = BitVec.ofNat 32 (0x30000 + x.engine.val * 256 + reason) ∧ (t.core x.core.val).jobMode = false

/-- The stream instructions, MOVE and BIND with what their reads outside the chip return. -/
def Sys2Proof.Claims.streamInstrs (read : EccFind) (ext : List Byte) : List (StreamIssue → Instr) :=
  [.streamNop, fun x => .bind x ext, .sym, fun x => .move x read ext, .streamLoop, .waitt, .streamTadd, .hget, .hput, .tagset, .amode, .stats, .streamEnd]

/-- A job that can be fenced: a live descriptor neither fenced nor completed. -/
def Sys2Proof.Claims.fenceable (s : State) (j : Nat) : Prop := (s.job j).live = true ∧ (s.job j).state ≠ .fenced ∧ (s.job j).state ≠ .completed

/-- The job is fenced with a cause, and waits for its disposal. -/
def Sys2Proof.Claims.nowFenced (t : State) (j cause : Nat) : Prop := (t.job j).state = .fenced ∧ (t.job j).cause = cause ∧ j ∈ t.fenceQueue

/-- The job is the one of context k of core n, where its descriptor says it is. -/
def Sys2Proof.Claims.sitsAt (s : State) (j n k : Nat) : Prop :=
  (s.job j).core = n ∧ (s.job j).slot = k ∧ n < 64 ∧ ((s.core n).ctx k).job = j ∧ (s.job j).state ≠ .swapped

/-- A control-complex message is taken as it comes: no record is being written or injected. -/
def Sys2Proof.Claims.live (s : State) : Prop := s.injecting = false ∧ s.get 0x5300 0x0B ≠ 1

/-- An Ethernet frame with one eCPRI message of type 0 that holds one U-plane section of `num` units from unit `u` (R363, Table 16.4). -/
def Sys2Proof.Claims.uFrame (mac : Nat) (src : BitVec 48) (eaxc seq : BitVec 16) (fid : BitVec 8) (sf : BitVec 4) (slot : BitVec 6) (sym : BitVec 4)
    (sect : BitVec 12) (u : BitVec 10) (num : BitVec 8) (data : List Byte) : List Byte :=
  bytesBe 6 mac ++ bytesBe 6 src.toNat ++ bytesBe 2 0xAEFE ++ bytesBe 4 (0x10000000 + 12 + data.length) ++ bytesBe 2 eaxc.toNat ++ bytesBe 2 seq.toNat
    ++ bytesBe 4 (2 ^ 28 + fid.toNat * 2 ^ 16 + sf.toNat * 2 ^ 12 + slot.toNat * 2 ^ 6 + sym.toNat)
    ++ bytesBe 4 (sect.toNat * 2 ^ 20 + u.toNat * 2 ^ 8 + num.toNat) ++ data

/-- A frame with one eCPRI message of type 5: a one-way delay measurement (R364). -/
def Sys2Proof.Claims.delayFrame (mac : Nat) (src : BitVec 48) (id action : Byte) (rest : List Byte) : List Byte :=
  bytesBe 6 mac ++ bytesBe 6 src.toNat ++ bytesBe 2 0xAEFE ++ bytesBe 4 (0x10050000 + 2 + rest.length) ++ id :: action :: rest

/-- A port that receives: UP, with no record being injected. -/
def Sys2Proof.Claims.receives (s : State) (p : Nat) : Prop := s.get (0x2200 + p) 4 = 1 ∧ s.injecting = false

/-- The state in which an accepted request is performed: its channel has been used now. -/
def Sys2Proof.Claims.used (key : Nat) (s : State) : State := s.setChan key { s.chan key with lastUse := s.clock }

/-- A sound request frame of an opcode on the open channel `key`: in live service and served there, next in its sequence, within the channel's rights, not too long,
with no request before it unanswered. -/
def Sys2Proof.Claims.accepted (op key : Nat) (q : OapReq) (s : State) : Prop :=
  let h := headOf q.frame
  let s1 := used key s
  s.serves_ q.chan = true ∧ badFrame q.frame = false ∧ h.opcode = op ∧ s.openChan q.chan = some (key, s) ∧ s.chanBusy key = false
    ∧ s.injecting = false ∧ s.get 0x5300 0x0B ≠ 1 ∧ (∀ x, (s.chan key).seq = some x → h.seq = (x + 1) % 65536)
    ∧ s1.tooLong (s1.chan key) h (replyLimit (s1.chan key) key q.cap.toNat q.replyAddr.toNat) (q.frame.drop 16) = false
    ∧ s1.scopeDenied (s1.chan key) h = false

/-- The request has been answered: its channel holds the reply with that result and payload, and its sequence number. -/
def Sys2Proof.Claims.answered (key : Nat) (q : OapReq) (code : Nat) (payload : List Byte) (t : State) : Prop :=
  (t.chan key).seq = some (headOf q.frame).seq ∧ ∃ last dsw, (t.chan key).cache = replyFrame (headOf q.frame) code payload last dsw

/-- Nothing but replies, channels and the counters of the dictionary: cores, memory, jobs, orders, Tallies, time bases and Rallies stand. -/
def Sys2Proof.Claims.quiet (s t : State) : Prop :=
  t.cores = s.cores ∧ t.mem = s.mem ∧ t.jobs = s.jobs ∧ t.orders = s.orders ∧ t.tallies = s.tallies ∧ t.tbs = s.tbs ∧ t.rallies = s.rallies

/-- The block of a codeword that a coding job works for. -/
def Sys2Proof.Claims.blockOf (s : State) (j : Nat) : Option CodeBlock :=
  ((s.order (s.job j).order).word (s.job j).user (s.job j).cw).map fun w => w.block (s.job j).blk

/-- Engine e works for job j, a live coding job of a kind, neither fenced nor completed, whose order holds its block; and no record is made. -/
def Sys2Proof.Claims.worksFor (s : State) (e j kind : Nat) : Prop :=
  (s.engineC e).state = 1 ∧ (s.engineC e).job = j ∧ fenceable s j ∧ (s.job j).kind = kind ∧ (s.job j).court < 16 ∧ s.get 0x5300 0x0B ≠ 1
    ∧ ∃ w, (s.order (s.job j).order).word (s.job j).user (s.job j).cw = some w ∧ (s.job j).blk < w.blocks.length

/-- Engine e is idle and job j complete. -/
def Sys2Proof.Claims.endedOn (t : State) (e j : Nat) : Prop := (t.engineC e).state = 0 ∧ (t.engineC e).job = 0 ∧ (t.job j).state = .completed

/-- Only time base n, those that follow it and the dictionary change. -/
def Sys2Proof.Claims.onlyTb (n : Nat) (s t : State) : Prop := (∃ o b, t = { s with obj := o, tbs := b }) ∧ ∀ m, m ≠ n → s.tbFollows m = false → t.tb m = s.tb m

/-- A host partner violation of function f: HOST_VIOLATIONS counts, PROT is latched, and nothing but the dictionary changes. -/
def Sys2Proof.Claims.violated (f : Nat) (s t : State) : Prop :=
  t.get (0x2410 + f) 2 = (s.get (0x2410 + f) 2 + 1) % 2 ^ 32 ∧ (t.getB 0 0x1100 3).testBit 4 = true ∧ ∃ o, t = { s with obj := o }


/-- R85, Table 4.5: ADD, SUB, ADDI, MUL and MULH write gD; the flags are those of the rule. R85, Table 4.5: AND, OR, XOR clear C and V; the shifts by
gB[5:0] give C as the last bit shifted out, and SRA fills with the sign. That a shift clears V is the model's choice (log entry 182). Table 4.5: LI,
MIN, MAX and SEL leave the flags; CMP and CMPI write only the flags of a difference. -/
def Obligations.ScalarInstructions : Prop :=
  (
  scalar .add .add (fun _ a b => a + b)
    (fun _ a b => some (nzcv (a + b) (decide (2 ^ 32 ≤ a.toNat + b.toNat)) (decide ((a + b).toInt ≠ a.toInt + b.toInt))))
  ∧ scalar .sub .sub (fun _ a b => a - b)
    (fun _ a b => some (nzcv (a - b) (decide (b.toNat ≤ a.toNat)) (decide ((a - b).toInt ≠ a.toInt - b.toInt))))
  ∧ scalar .addi .addi (fun is a _ => a + sylImm is.body)
    (fun is a _ => some (nzcv (a + sylImm is.body) (decide (2 ^ 32 ≤ a.toNat + (sylImm is.body).toNat))
      (decide ((a + sylImm is.body).toInt ≠ a.toInt + (sylImm is.body).toInt))))
  ∧ scalar .mul .mul (fun _ a b => BitVec.ofNat 32 (a.toNat * b.toNat)) (fun _ a b => some (nzcv (BitVec.ofNat 32 (a.toNat * b.toNat)) false false))
  ∧ scalar .mulh .mulh
    (fun is a b => if sylFN is.body % 2 = 1 then BitVec.ofNat 32 (a.toNat * b.toNat / 2 ^ 32)
      else BitVec.ofInt 32 (a.toInt * b.toInt / 2 ^ 32))
    (fun is a b => some (nzcv (if sylFN is.body % 2 = 1 then BitVec.ofNat 32 (a.toNat * b.toNat / 2 ^ 32)
      else BitVec.ofInt 32 (a.toInt * b.toInt / 2 ^ 32)) false false)))
  ∧ (
  scalar .and .and (fun _ a b => a &&& b) (fun _ a b => some (nzcv (a &&& b) false false))
  ∧ scalar .or .or (fun _ a b => a ||| b) (fun _ a b => some (nzcv (a ||| b) false false))
  ∧ scalar .xor .xor (fun _ a b => a ^^^ b) (fun _ a b => some (nzcv (a ^^^ b) false false))
  ∧ scalar .shl .shl (fun _ a b => BitVec.ofNat 32 (a.toNat * 2 ^ (b.toNat % 64)))
    (fun _ a b => some (nzcv (BitVec.ofNat 32 (a.toNat * 2 ^ (b.toNat % 64)))
      ((a.toNat * 2 ^ (b.toNat % 64)).testBit 32) false))
  ∧ scalar .shr .shr (fun _ a b => BitVec.ofNat 32 (a.toNat / 2 ^ (b.toNat % 64)))
    (fun _ a b => some (nzcv (BitVec.ofNat 32 (a.toNat / 2 ^ (b.toNat % 64)))
      (decide (b.toNat % 64 ≠ 0) && a.toNat.testBit (b.toNat % 64 - 1)) false))
  ∧ scalar .sra .sra (fun _ a b => BitVec.ofInt 32 (a.toInt / 2 ^ (b.toNat % 64)))
    (fun _ a b => some (nzcv (BitVec.ofInt 32 (a.toInt / 2 ^ (b.toNat % 64)))
      (decide (b.toNat % 64 ≠ 0) && decide (a.toInt / 2 ^ (b.toNat % 64 - 1) % 2 = 1)) false)))
  ∧ (
  scalar .li .li (fun is _ _ => sylImm is.body) (fun _ _ _ => none)
  ∧ scalar .min .min
    (fun is a b => if sylFN is.body % 2 = 1 then BitVec.ofNat 32 (Nat.min a.toNat b.toNat)
      else BitVec.ofInt 32 (min a.toInt b.toInt)) (fun _ _ _ => none)
  ∧ scalar .max .max
    (fun is a b => if sylFN is.body % 2 = 1 then BitVec.ofNat 32 (Nat.max a.toNat b.toNat)
      else BitVec.ofInt 32 (max a.toInt b.toInt)) (fun _ _ _ => none)
  ∧ scalar .cmp .cmp (fun _ _ _ => 0#32)
    (fun _ a b => some (nzcv (a - b) (decide (b.toNat ≤ a.toNat)) (decide ((a - b).toInt ≠ a.toInt - b.toInt))))
  ∧ scalar .cmpi .cmpi (fun _ _ _ => 0#32)
    (fun is a _ => some (nzcv (a - sylImm is.body) (decide ((sylImm is.body).toNat ≤ a.toNat))
      (decide ((a - sylImm is.body).toInt ≠ a.toInt - (sylImm is.body).toInt))))
  ∧ (∀ (is : Issue) (s : State), s.Acts .sel is →
      ∃ t, exec (.sel is) s = .next t
        ∧ (t.core is.core.val).readG (sylD is.body) = (if sylD is.body = 0 then 0#32
            else if condHolds (s.core is.core.val).flags (sylFN is.body / 16 % 2) (sylFN is.body % 16) then
              (s.core is.core.val).readG (sylA is.body) else (s.core is.core.val).readG (sylB is.body))
        ∧ falls is.core.val s t ∧ onlyCore s t ∧ frame is.core.val [sylD is.body] s t))

/-- R86, R84, R63, Table 4.6: BR and BRI are followed when their condition holds on their flag group, and cost the two cycles of R63; CALL writes the
address of the next bundle to its link register. An address that is no multiple of 8 stands as it is, the model's choice (log entry 183). -/
def Obligations.BranchesAndCalls : Prop :=
  (∀ (is : Issue) (s : State), s.Acts .br is → ∃ t, exec (.br is) s = .next t
    ∧ (if condHolds (s.core is.core.val).flags (sylFG is.body) (sylCond is.body)
        then (t.core is.core.val).pc = (s.core is.core.val).pc + sylOfsJ is.body ∧ (t.core is.core.val).bubble = 2
        else (t.core is.core.val).pc = (s.core is.core.val).pc + 16 ∧ (t.core is.core.val).bubble = 0)
    ∧ onlyCore s t ∧ frame is.core.val [] s t)
  ∧ (∀ (is : Issue) (s : State), s.Acts .bri is → ∃ t, exec (.bri is) s = .next t
    ∧ (if condHolds (s.core is.core.val).flags (sylFG is.body) (sylCond is.body)
        then (t.core is.core.val).pc = (s.core is.core.val).readA (sylA is.body - 0x20) ∧ (t.core is.core.val).bubble = 2
        else (t.core is.core.val).pc = (s.core is.core.val).pc + 16 ∧ (t.core is.core.val).bubble = 0)
    ∧ onlyCore s t ∧ frame is.core.val [] s t)
  ∧ (∀ (is : Issue) (s : State), s.Acts .call is → ∃ t, exec (.call is) s = .next t
    ∧ (t.core is.core.val).pc = (s.core is.core.val).pc + sylOfsJ is.body ∧ (t.core is.core.val).bubble = 2
    ∧ (t.core is.core.val).readA (sylA is.body - 0x20) = (s.core is.core.val).pc + 16
    ∧ onlyCore s t ∧ frame is.core.val (if 0x2C ≤ sylA is.body then [sylA is.body, 0x100] else [sylA is.body]) s t)

/-- Tables 3.3, 3.8 and 4.5, R85: CSRR reads the low or the high word of a CSR, CSRW writes FLAGS, CSRC clears bits of STICKY; a job's read of a CSR whose
job access is none raises PRIV: EVT_CAUSE is 0x14, EVT_PC names the bundle, the core is in runtime mode and the job is fenced. -/
def Obligations.ControlAndStatusRegisters : Prop :=
  plain .csrr .csrr
    (fun s x => csrAccess (csrNo x) ≠ .absent ∧ ((s.core x.n).jobMode = true → csrAccess (csrNo x) ≠ .none)
      ∧ csrOpaque (s.core x.n) (csrNo x) = false)
    (fun s x => if sylFnI x.body % 2 = 1 then s.csr x.n (csrNo x) / 2 ^ 32 else s.csr x.n (csrNo x) % 2 ^ 32)
  ∧ (∀ (is : Issue) (s : State), s.Acts .csrr is → csrAccess (csrNo (arg is)) = .none → (s.core is.core.val).jobMode = true →
    ∃ t, exec (.csrr is) s = .next t
      ∧ (t.core is.core.val).jobMode = false
      ∧ (t.core is.core.val).curCtx.evtCause = 0x14#32
      ∧ (t.core is.core.val).curCtx.evtPc = (s.core is.core.val).pc)
  ∧ (∀ (is : Issue) (s : State), s.Acts .csrw is → csrNo (arg is) = 1 →
    ∃ t, exec (.csrw is) s = .next t
      ∧ (t.core is.core.val).flags = ((s.core is.core.val).readG (sylA is.body)).truncate 8
      ∧ falls is.core.val s t ∧ onlyCore s t ∧ frame is.core.val [0x80, 0x81] s t)
  ∧ (∀ (is : Issue) (s : State), s.Acts .csrc is → csrNo (arg is) = 2 →
    ∃ t, exec (.csrc is) s = .next t
      ∧ (t.core is.core.val).sticky = (s.core is.core.val).sticky &&& ~~~(((s.core is.core.val).readG (sylA is.body)).truncate 8)
      ∧ falls is.core.val s t ∧ onlyCore s t ∧ frame is.core.val [0x102] s t)

/-- R51, R80, R87: a NOP syllable only takes its cycle; a header names the slots of its bundle, and with an empty presence mask it is a bundle of 8 bytes;
one with a wrong tag or a reserved bit set raises ILLEGAL; MARK adds one to the context's count of marked bundles; END in job mode leaves the context
ending, and no bundle follows it. R72, R78: RESUME of a save area whose LOOP_SAVED is set takes the context slot of that area and goes on at NEXT_PC
in job mode with the registers, loop registers and the records in flight of the save area, each with its REMAIN; in job mode it raises ILLEGAL. -/
def Obligations.BundleControlAndResume : Prop :=
  (
  (∀ (is : Issue) (s : State), s.Acts .nop is → ∃ t, exec (.nop is) s = .next t
    ∧ falls is.core.val s t ∧ onlyCore s t ∧ frame is.core.val [] s t)
  ∧ (∀ (is : Issue) (s : State), is.slot = 7 → is.ecc ≠ .uncorrectable → s.takesSyl is.core.val = true → (s.core is.core.val).bundle = [] → (s.core is.core.val).run = {} →
    let w := is.body.toNat
    let legal : Prop := w / 2 ^ 16 = 0x5A ∧ w / 2 ^ 7 % 2 = 0 ∧ w / 2 ^ 9 % 2 ^ 7 = 0
    (legal → w % 128 ≠ 0 → ∃ t, exec (.nop is) s = .next t ∧ (t.core is.core.val).run = { mark := decide (w / 256 % 2 = 1), present := some (w % 128) }
      ∧ (t.core is.core.val).pc = (s.core is.core.val).pc ∧ onlyCore s t ∧ frame is.core.val [] s t)
    ∧ (¬ legal → ∃ t, exec (.nop is) s = .next t ∧ (t.core is.core.val).jobMode = false ∧ (t.core is.core.val).curCtx.evtCause = 0x10#32 ∧ (t.core is.core.val).curCtx.evtPc = (s.core is.core.val).pc))
  ∧ (∀ (is : Issue) (s : State), is.slot = 7 → is.last = true → is.body = 0x5A0000#64 → is.ecc ≠ .uncorrectable →
    s.takesSyl is.core.val = true → (s.core is.core.val).bundle = [] → (s.core is.core.val).run = {} → (s.core is.core.val).bubble = 0 →
    (s.core is.core.val).inflight = [] → (s.core is.core.val).fetchOk is.core.val 8 = true →
    ((s.core is.core.val).jobMode = true → (s.core is.core.val).curCtx.started = true) →
    (∀ k < 4, (s.core is.core.val).readLc k = 0#32 ∨ (s.core is.core.val).readLe k ≠ (s.core is.core.val).pc) →
    ∃ t, exec (.nop is) s = .next t ∧ (t.core is.core.val).pc = (s.core is.core.val).pc + 8 ∧ onlyCore s t ∧ frame is.core.val [] s t)
  ∧ (∀ (is : Issue) (s : State), is.slot = 7 → is.last = true → is.body = 0x5A0100#64 → is.ecc ≠ .uncorrectable →
    s.takesSyl is.core.val = true → (s.core is.core.val).bundle = [] → (s.core is.core.val).run = {} → (s.core is.core.val).bubble = 0 →
    (s.core is.core.val).inflight = [] → (s.core is.core.val).fetchOk is.core.val 8 = true →
    ((s.core is.core.val).jobMode = true → (s.core is.core.val).curCtx.started = true) →
    (∀ k < 4, (s.core is.core.val).readLc k = 0#32 ∨ (s.core is.core.val).readLe k ≠ (s.core is.core.val).pc) →
    ∃ t, exec (.mark is) s = .next t
      ∧ (t.core is.core.val).curCtx.markCount = (s.core is.core.val).curCtx.markCount + 1
      ∧ (t.core is.core.val).pc = (s.core is.core.val).pc + 8
      ∧ frame is.core.val [0x100] s t)
  ∧ (∀ (is : Issue) (s : State), s.Acts .endJob is → (s.core is.core.val).jobMode = true → ∃ t, exec (.endJob is) s = .next t
    ∧ (t.core is.core.val).curCtx.state = .ending
    ∧ (∀ (js : Issue) (op : CoreOp), js.core = is.core → t.stage op js = t)
    ∧ onlyCore s t ∧ frame is.core.val [0x100] s t))
  ∧ (
  (∀ (is : Issue) (s : State), s.Acts .resume is → (s.core is.core.val).jobMode = false → is.ecc ≠ .uncorrectable →
    let n := is.core.val
    let a := ((s.core n).readA (sylA is.body - 0x20)).toNat
    let k := (a - n * Config.coreMemBytes - 0x10000) / 0x8000 % 4
    (memNat s.mem 2 (a + 2)).testBit 2 = true →
    ∃ t, exec (.resume is) s = .next t
      ∧ (t.core n).jobMode = true ∧ (t.core n).cur = k
      ∧ (t.core n).pc = BitVec.ofNat 48 (memNat s.mem 6 (a + 8))
      ∧ ((t.core n).ctx k).state = .running
      ∧ ((t.core n).ctx k).cycle = BitVec.ofNat 64 (memNat s.mem 8 (a + 0x10))
      ∧ (∀ i < 32, (t.core n).readG i = if i = 0 then 0#32 else BitVec.ofNat 32 (memNat s.mem 4 (a + 0x100 + 4 * i)))
      ∧ (∀ i < 16, (t.core n).readA i = BitVec.ofNat 48 (memNat s.mem 8 (a + 0x180 + 8 * i)))
      ∧ (∀ i < 8, (t.core n).readP i = BitVec.ofNat 128 (memNat s.mem 16 (a + 0x200 + 16 * i)))
      ∧ (∀ i < 32, (t.core n).readV i = BitVec.ofNat 1024 (memNat s.mem 128 (a + 0x800 + 128 * i)))
      ∧ (∀ i < 4, (t.core n).readLc i = BitVec.ofNat 32 (memNat s.mem 4 (a + 0x280 + 4 * i)))
      ∧ (∀ i < 4, (t.core n).readLs i = BitVec.ofNat 48 (memNat s.mem 8 (a + 0x290 + 8 * i)))
      ∧ (∀ i < 4, (t.core n).readLe i = BitVec.ofNat 48 (memNat s.mem 8 (a + 0x2B0 + 8 * i)))
      ∧ (∀ i < memNat s.mem 1 (a + 4) % 18, ((t.core n).inflight[i]?).map Land.remain = some (bits (memNat s.mem 8 (a + 0x300 + 32 * i)) 8 4)))
  ∧ (∀ (is : Issue) (s : State), s.Acts .resume is → (s.core is.core.val).jobMode = true → ∃ t, exec (.resume is) s = .next t
      ∧ (t.core is.core.val).jobMode = false ∧ (t.core is.core.val).curCtx.evtCause = 0x10#32
      ∧ (t.core is.core.val).curCtx.evtPc = (s.core is.core.val).pc))

/-- R88, R57, Table 4.7: loads read little-endian bytes at the effective address, extended as the table says, with latency 4. R83, R88, R159: a vector
load through no walker brings 128 bytes under its lane mask; through a dense walker only the walker's length of them, through a walker of length 0
none of them but zero; with every lane off it makes no access. -/
def Obligations.LoadsReadMemory : Prop :=
  (
  loads .ldb .ldb 1 (fun v => ((BitVec.ofNat 8 v).signExtend 32).toNat)
  ∧ loads .ldbu .ldbu 1 id
  ∧ loads .ldh .ldh 2 (fun v => ((BitVec.ofNat 16 v).signExtend 32).toNat)
  ∧ loads .ldhu .ldhu 2 id
  ∧ loads .ldw .ldw 4 id
  ∧ loads .lda .lda 8 (fun v => v % 2 ^ 48)
  ∧ loads .ldp .ldp 16 id)
  ∧ (
  ∀ (is : Issue) (s : State), s.Acts .ldv is →
    let n := is.core.val
    let x := arg is
    let a := (effAddr s x).toNat
    let m := laneMask (s.core n) is.body
    (m = 0#128 → ∃ t, exec (.ldv is) s = .next t ∧ (t.core n).inflight = [] ∧ (t.core n).jobMode = (s.core n).jobMode ∧ falls n s t ∧ onlyCore s t)
    ∧ (∀ w, m ≠ 0#128 → boundWalker s x = some w → w.len = 0 → ∃ t r, exec (.ldv is) s = .next t ∧ (t.core n).inflight = [r] ∧ r.dest = sylD is.body ∧ r.remain = 3 ∧ r.mask = m
          ∧ r.value = 0#1024 ∧ falls n s t ∧ onlyCore s t)
    ∧ (m ≠ 0#128 → s.inWindow n a 128 = true → a % 128 = 0 → is.ecc ≠ .uncorrectable →
        (boundWalker s x = none ∨ ∃ w, boundWalker s x = some w ∧ w.len ≠ 0 ∧ tdField w.desc 256 32 ≠ 0) →
        ∃ t r, exec (.ldv is) s = .next t ∧ (t.core n).inflight = [r] ∧ r.dest = sylD is.body ∧ r.remain = 3 ∧ r.mask = m
          ∧ r.value.toNat = memNat s.mem 128 a % 2 ^ (8 * ((boundWalker s x).elim 128 fun w => min 128 w.len))
          ∧ falls n s t ∧ onlyCore s t))

/-- R88, R57, Table 4.7: stores write the low bytes of their data register, and no other byte. R56: a scalar access must be naturally aligned, a vector
access that goes through no walker 128-byte aligned; a misaligned one raises ALIGN, one outside the data window ADDR; the event names the bundle, and
no register of the core changes; so does a job's load that meets an uncorrectable error, with ECC and the next bundle. -/
def Obligations.StoresAndAlignment : Prop :=
  (
  stores .stb .stb 1 (fun c d => (c.readG d).toNat)
  ∧ stores .sth .sth 2 (fun c d => (c.readG d).toNat)
  ∧ stores .stw .stw 4 (fun c d => (c.readG d).toNat)
  ∧ stores .sta .sta 8 (fun c d => (c.readA (d - 0x20)).toNat)
  ∧ stores .stp .stp 16 (fun c d => (c.readP (d - 0x30)).toNat)
  ∧ (∀ (is : Issue) (s : State), s.Acts .stv is → boundWalker s (arg is) = none →
      let n := is.core.val
      let a := (effAddr s (arg is)).toNat
      let m := laneMask (s.core n) is.body
      s.inWindow n a 128 = true → a % 128 = 0 →
        ∃ t, exec (.stv is) s = .next t
          ∧ (∀ i < 128, memByte t.mem (a + i) = if m.getLsbD i then BitVec.ofNat 8 (elem ((s.core n).readV (sylD is.body - 0x40)) 1 i)
              else memByte s.mem (a + i))
          ∧ (∀ i, i < a ∨ a + 128 ≤ i → memByte t.mem i = memByte s.mem i)
          ∧ falls n s t ∧ (∃ o k m g, t = { s with obj := o, cores := k, mem := m, tags := g })))
  ∧ (
  ∀ (op : CoreOp) (mk : Issue → Instr) (size : Nat) (is : Issue) (s : State),
    (op, mk, size) ∈ [(CoreOp.ldb, Instr.ldb, 1), (.ldbu, .ldbu, 1), (.ldh, .ldh, 2), (.ldhu, .ldhu, 2), (.ldw, .ldw, 4), (.lda, .lda, 8), (.ldp, .ldp, 16), (.ldv, .ldv, 128),
      (.stb, .stb, 1), (.sth, .sth, 2), (.stw, .stw, 4), (.sta, .sta, 8), (.stp, .stp, 16), (.stv, .stv, 128)] →
    s.Acts op is → (size = 128 → boundWalker s (arg is) = none ∧ laneMask (s.core is.core.val) is.body ≠ 0#128) →
    let n := is.core.val
    let a := (effAddr s (arg is)).toNat
    let ends : Nat → Addr48 → Prop := fun cause pc => ∃ t, exec (mk is) s = .next t ∧ (t.core n).curCtx.evtCause = BitVec.ofNat 32 cause ∧ (t.core n).curCtx.evtPc = pc
      ∧ (t.core n).jobMode = false ∧ (t.core n).inflight = [] ∧ (∀ i, (t.core n).readG i = (s.core n).readG i ∧ (t.core n).readA i = (s.core n).readA i ∧ (t.core n).readV i = (s.core n).readV i)
    (s.inWindow n a size = false → ends 0x12 (s.core n).pc) ∧ (s.inWindow n a size = true → a % size ≠ 0 → ends 0x13 (s.core n).pc)
    ∧ (s.inWindow n a size = true → a % size = 0 → is.ecc = .uncorrectable → op ∈ [.ldb, .ldbu, .ldh, .ldhu, .ldw, .lda, .ldp, .ldv] → (s.core n).jobMode = true →
      0x10000 ≤ a % Config.coreMemBytes → ends 0x20 ((s.core n).pc + 16))
    ∧ (s.inWindow n a size = true → a % size = 0 → is.ecc ≠ .uncorrectable ∨ op ∈ [.stb, .sth, .stw, .sta, .stp, .stv] → ∃ t, exec (mk is) s = .next t ∧ (t.core n).jobMode = (s.core n).jobMode ∧ falls n s t))

/-- R89, Table 4.8: the address-register arithmetic, SSTAT and TREAD. -/
def Obligations.AddressSlotResults : Prop :=
  plain .aadd .aadd (fun _ _ => True) (fun s x => (srcAddr s x + (srcB s x).signExtend 48).toNat)
  ∧ plain .aaddi .aaddi (fun _ _ => True) (fun s x => (srcAddr s x + (sylImm x.body).signExtend 48).toNat)
  ∧ plain .amov .amov (fun _ _ => True) (fun s x => (srcAddr s x).toNat)
  ∧ plain .afromg .afromg (fun _ _ => True) (fun s x => (srcB s x).toNat % 2 ^ 16 * 2 ^ 32 + (srcA s x).toNat)
  ∧ plain .atog .atog (fun _ _ => True)
    (fun s x => if sylFN x.body % 2 = 1 then (srcAddr s x).toNat / 2 ^ 32 else (srcAddr s x).toNat % 2 ^ 32)
  ∧ plain .sstat .sstat (fun _ _ => True) (fun s x => sstatWord ((s.core x.n).curCtx.engine (sylFN x.body % 4)))
  ∧ plain .tread .tread (fun s x => isSymbolTally (tallyNo s x) = true ∨ s.tallyOwned x.n (tallyNo s x) = true)
    (fun s x => (s.tally (tallyNo s x)).count.toNat)

/-- R89: an operation on a Tally of no pool of the context's Court raises ADDR with the Tally number in EVT_INFO; the symbol-count Tallies accept TWAIT
and TREAD, and any other operation on them raises PRIV. The Tally operand is gA[15:0]. R90, R289, R290: TWAIT goes on when the signed difference has
left the negative and holds its bundle otherwise; TADD adds; TACQ of a free Tally takes the hold, tells an abandoned one and raises EXCL; TREL ends
the hold and lowers it. R91, R188 to R190: HDEQ takes the first handle of a queue, or gives 0x8000_0000 from an empty one; HENQ puts a handle that the
job holds behind every handle of the queue. -/
def Obligations.TallyAndQueueInstructions : Prop :=
  (
  ∀ (op : CoreOp) (mk : Issue → Instr) (is : Issue) (s : State),
    (op, mk) ∈ [(CoreOp.twait, Instr.twait), (.tread, .tread), (.tadd, .tadd), (.tacq, .tacq), (.trel, .trel)] → s.Acts op is → (s.core is.core.val).jobMode = true →
    let n := is.core.val
    let k := ((s.core n).readG (sylA is.body)).toNat % 65536
    (k < 0xFFF8 → s.tallyOwned n k = false → ∃ t, exec (mk is) s = .next t ∧ (t.core n).jobMode = false ∧ (t.core n).curCtx.evtCause = 0x12#32 ∧ (t.core n).curCtx.evtInfo = BitVec.ofNat 32 k
      ∧ (t.core n).curCtx.evtPc = (s.core n).pc ∧ ∀ i, t.tally i = s.tally i)
    ∧ (0xFFF8 ≤ k → op = .twait ∨ op = .tread → ∃ t, exec (mk is) s = .next t ∧ (t.core n).jobMode = true ∧ (t.core n).curCtx.fenced = (s.core n).curCtx.fenced)
    ∧ (0xFFF8 ≤ k → op ≠ .twait → op ≠ .tread → ∃ t, exec (mk is) s = .next t ∧ (t.core n).jobMode = false ∧ (t.core n).curCtx.evtCause = 0x14#32 ∧ (t.core n).curCtx.evtPc = (s.core n).pc ∧ ∀ i, t.tally i = s.tally i))
  ∧ (
  (∀ (is : Issue) (s : State), s.Acts .twait is →
    (isSymbolTally (tallyNo s (arg is)) = true ∨ s.tallyOwned is.core.val (tallyNo s (arg is)) = true) →
    ∃ t, exec (.twait is) s = .next t
      ∧ (if 0 ≤ ((s.tally (tallyNo s (arg is))).count - srcB s (arg is)).toInt
          then falls is.core.val s t ∧ onlyCore s t ∧ frame is.core.val [] s t
          else (t.core is.core.val).held = true ∧ (t.core is.core.val).pc = (s.core is.core.val).pc
            ∧ (t.core is.core.val).bundle = [⟨.twait, is.slot.val, is.body, is.ecc⟩] ∧ frame is.core.val [0x100] s t))
  ∧ (∀ (is : Issue) (s : State), s.Acts .tadd is →
    let n := is.core.val
    let k := tallyNo s (arg is)
    isSymbolTally k = false → s.tallyOwned n k = true →
    ∃ t, exec (.tadd is) s = .next t
      ∧ (t.tally k).count = (s.tally k).count + srcB s (arg is) ∧ (∀ j, j ≠ k → t.tally j = s.tally j)
      ∧ falls n s t ∧ frame n [] s t)
  ∧ (∀ (is : Issue) (s : State), s.Acts .tacq is →
    let n := is.core.val
    let k := tallyNo s (arg is)
    let c := s.core n
    isSymbolTally k = false → s.tallyOwned n k = true → (s.tally k).holder = 0 → (s.tally k).waiters = [] → c.curCtx.job ≠ 0 →
    ∃ t, exec (.tacq is) s = .next t
      ∧ (t.tally k).holder = c.curCtx.job ∧ (t.tally k).abandoned = false
      ∧ (t.core n).readG (sylD is.body) = (if sylD is.body = 0 then 0#32 else if (s.tally k).abandoned then 1#32 else 0#32)
      ∧ (t.core n).curCtx.excl = c.curCtx.excl + 1
      ∧ falls n s t ∧ frame n [sylD is.body, 0x100] s t)
  ∧ (∀ (is : Issue) (s : State), s.Acts .trel is →
    let n := is.core.val
    let k := tallyNo s (arg is)
    let c := s.core n
    isSymbolTally k = false → s.tallyOwned n k = true → (s.tally k).holder = c.curCtx.job → c.curCtx.job ≠ 0 →
    ∃ t, exec (.trel is) s = .next t
      ∧ (t.tally k).holder = 0 ∧ (t.core n).curCtx.excl = c.curCtx.excl - 1
      ∧ falls n s t ∧ frame n [0x100] s t))
  ∧ (
  (∀ (is : Issue) (s : State), s.Acts .hdeq is →
    let n := is.core.val
    let q := queueKey (s.core n).curCtx.court (srcA s (arg is)).toNat
    (s.hqueue q).live = true →
    ∃ t, exec (.hdeq is) s = .next t
      ∧ (t.core n).readG (sylD is.body) = (if sylD is.body = 0 then 0#32 else BitVec.ofNat 32 ((s.hqueue q).items.headD 0x80000000))
      ∧ (t.hqueue q).items = (s.hqueue q).items.tail
      ∧ (∀ j, j ≠ q → t.hqueue j = s.hqueue j)
      ∧ (∀ h, (s.hqueue q).items.head? = some h → Tbl.get 0 t.heldBy (handleKey (s.hqueue q).pool h) = (s.core n).curCtx.job)
      ∧ falls n s t ∧ frame n [sylD is.body, 0x100] s t)
  ∧ (∀ (is : Issue) (s : State), s.Acts .henq is →
    let n := is.core.val
    let q := queueKey (s.core n).curCtx.court (srcA s (arg is)).toNat
    let h := (srcB s (arg is)).toNat % 2 ^ 16
    let p := (s.hqueue q).pool
    (s.hqueue q).live = true → h < (s.pool p).count → (s.core n).curCtx.job ≠ 0 → Tbl.get 0 s.heldBy (handleKey p h) = (s.core n).curCtx.job →
    ∃ t, exec (.henq is) s = .next t
      ∧ (t.hqueue q).items = (s.hqueue q).items ++ [h] ∧ Tbl.get 0 t.heldBy (handleKey p h) = 0
      ∧ falls n s t ∧ frame n [0x100] s t))

/-- R173, R174: SSTART starts an idle, ended or paused engine on a program in the data window with its argument; SPAUSE pauses a running one. -/
def Obligations.StreamEngineControl : Prop :=
  (∀ (is : Issue) (s : State), s.Acts .sstart is →
    let n := is.core.val
    let c := s.core n
    let e := sylFN is.body % 4
    let a := (srcAddr s (arg is)).toNat
    (c.curCtx.engine e).paused = true ∨ ((c.curCtx.engine e).state ≠ .run ∧ (c.curCtx.engine e).state ≠ .wait) → a % 8 = 0 → s.inWindow n a 8 = true →
    ∃ t, exec (.sstart is) s = .next t
      ∧ ((t.core n).curCtx.engine e).state = .run ∧ ((t.core n).curCtx.engine e).prog = a
      ∧ ((t.core n).curCtx.engine e).pc = 0 ∧ ((t.core n).curCtx.engine e).arg = srcB s (arg is)
      ∧ (∀ j, j ≠ e → (t.core n).curCtx.engine j = c.curCtx.engine j)
      ∧ falls n s t ∧ onlyCore s t ∧ frame n [0x100] s t)
  ∧ (∀ (is : Issue) (s : State), s.Acts .spause is →
    let n := is.core.val
    let c := s.core n
    let e := sylFN is.body % 4
    ∃ t, exec (.spause is) s = .next t
      ∧ ((t.core n).curCtx.engine e).paused = ((c.curCtx.engine e).state == .run || (c.curCtx.engine e).state == .wait)
      ∧ ((t.core n).curCtx.engine e).pc = (c.curCtx.engine e).pc
      ∧ (∀ j, j ≠ e → (t.core n).curCtx.engine j = c.curCtx.engine j)
      ∧ falls n s t ∧ onlyCore s t ∧ frame n [0x100] s t)

/-- R92, Table 4.10: the element-wise arithmetic over the elements below vl: integers, and complex elements by parts, wrap or saturate; floating-point
results are rounded once. The sign of the smaller of two zeros of opposite sign is the model's open value (log entry 5). R93, Table 4.10: bitwise
operations, VSHL and VMULRS: left shifts wrap or saturate, right shifts and products round half up. -/
def Obligations.VectorArithmetic : Prop :=
  (
  vector .vadd .vadd (fun _ => True) etW etN (fun s x i =>
      if etIsFloat (etOf x) then rounded fadd x (elemA s x i) (elemB s x i) else exactly (· + ·) x (elemA s x i) (elemB s x i))
  ∧ vector .vsub .vsub (fun _ => True) etW etN (fun s x i =>
      if etIsFloat (etOf x) then rounded (fun a b => fadd a b.neg) x (elemA s x i) (elemB s x i)
      else exactly (· - ·) x (elemA s x i) (elemB s x i))
  ∧ vector .vmul .vmul (fun _ => True) etW etN (fun s x i =>
      let a := elemA s x i
      let b := elemB s x i
      let t := etOf x
      if etIsComplex t then
        narrowed x (partRe t a * partRe t b - partIm t a * partIm t b) + narrowed x (partRe t a * partIm t b + partIm t a * partRe t b) * 2 ^ etPartBits t
      else if etIsFloat t then rounded fmul x a b else narrowed x (etVal t a * etVal t b))
  ∧ vector .vfma .vfma (fun _ => True) etW etN (fun s x i =>
      rounded (fun a b => fadd (fmul a b) (fdecode (etFmt (etOf x)) (elem (vsrcC s x) (etSize (etOf x)) i))) x (elemA s x i) (elemB s x i))
  ∧ vector .vmin .vmin (fun _ => True) etW etN (fun s x i =>
      if etIsFloat (etOf x) then floatPick false x (elemA s x i) (elemB s x i)
      else if etVal (etOf x) (elemB s x i) ≤ etVal (etOf x) (elemA s x i) then elemB s x i else elemA s x i)
  ∧ vector .vmax .vmax (fun _ => True) etW etN (fun s x i =>
      if etIsFloat (etOf x) then floatPick true x (elemA s x i) (elemB s x i)
      else if etVal (etOf x) (elemA s x i) < etVal (etOf x) (elemB s x i) then elemB s x i else elemA s x i)
  ∧ vector .vabs .vabs (fun _ => True) etW etN (fun s x i =>
      if etIsFloat (etOf x) then
        (if fdecode (etFmt (etOf x)) (elemA s x i) = .nan then (etFmt (etOf x)).nanCode else elemA s x i % 2 ^ (etFmt (etOf x)).bits)
      else narrowed x |etVal (etOf x) (elemA s x i)|))
  ∧ (
  vector .vand .vand (fun _ => True) etW etN (fun s x i => elemA s x i &&& elemB s x i)
  ∧ vector .vor .vor (fun _ => True) etW etN (fun s x i => elemA s x i ||| elemB s x i)
  ∧ vector .vxor .vxor (fun _ => True) etW etN (fun s x i => elemA s x i ^^^ elemB s x i)
  ∧ vector .vshl .vshl (fun _ => True) etW etN (fun s x i =>
      narrowed x (if sylFN x.body / 2 % 2 = 1 then halfUp (etVal (etOf x) (elemA s x i)) (sylSH x.body)
        else etVal (etOf x) (elemA s x i) * 2 ^ sylSH x.body))
  ∧ vector .vmulrs .vmulrs (fun x => etOf x = 2) etW etN (fun s x i =>
      (narrowInt 2 true (halfUp (etVal 2 (elemA s x i) * etVal 2 (elemB s x i)) (sylSH x.body))).1)
  ∧ vector .vmulrs .vmulrs (fun x => etOf x = 5) etW etN (fun s x i =>
      let a := elemA s x i
      let b := elemB s x i
      (narrowInt 5 true (halfUp (partRe 5 a * partRe 5 b - partIm 5 a * partIm 5 b) (sylSH x.body))).1
        + (narrowInt 5 true (halfUp (partRe 5 a * partIm 5 b + partIm 5 a * partRe 5 b) (sylSH x.body))).1 * 2 ^ 16))

/-- R152: VPERM gives destination element i the element of vA that byte i of vB names; one at or beyond vl gives zero and sets PRANGE, and is no event.
R152, R153, R155, Table 4.10: the instructions that move lanes. A lane index at or beyond the elements below vl gives zero. R130, R150, R154:
conversions of element types: VCVT for the elements below vl in both registers, VPACK and VUNPACK; VPACK and VUNPACK of any other pair of types raise
ILLEGAL. -/
def Obligations.VectorMovesAndConversions : Prop :=
  (
  ∀ (is : Issue) (s : State), s.Acts .vperm is →
    let x := arg is
    let w := etW s x
    let n := etN s x
    let j := fun i => elem (vsrcB s x) 1 i
    ∃ t r, exec (.vperm is) s = .next t ∧ (t.core x.n).inflight = [r] ∧ r.dest = sylD is.body ∧ r.remain = 2 ∧ (t.core x.n).jobMode = (s.core x.n).jobMode
      ∧ (∀ i < n, elem r.value w i = if j i < n then elemA s x (j i) else 0)
      ∧ r.sticky = (if (List.range n).any (fun i => (laneMask (s.core x.n) is.body).getLsbD (w * i) && decide (n ≤ j i)) then stPRANGE else 0#8))
  ∧ (
  (∀ (is : Issue) (s : State), s.Acts .vsel is →
    let x := arg is
    ∃ t r, exec (.vsel is) s = .next t ∧ (t.core x.n).inflight = [r] ∧ r.dest = sylD is.body ∧ r.remain = 2
      ∧ (∀ l < 128, elem r.value 1 l = if etN s x * etW s x ≤ l then 0
          else if (psrcC s x).getLsbD l then elem (vsrcA s x) 1 l else elem (vsrcB s x) 1 l)
      ∧ r.mask = elemMask (etW s x) (etN s x) (laneMask (s.core x.n) is.body)
      ∧ falls x.n s t ∧ onlyCore s t ∧ frame x.n [] s t)
  ∧ vector .vbcast .vbcast (fun _ => True) etW etN (fun s x _ => (srcA s x).toNat)
  ∧ vector .vperm .vperm (fun _ => True) etW etN (fun s x i =>
      if elem (vsrcB s x) 1 i < etN s x then elemA s x (elem (vsrcB s x) 1 i) else 0)
  ∧ vector .vshuf .vshuf (fun _ => True) etW etN (fun s x i =>
      let n := etN s x
      let a := fun j => if j < n then elemA s x j else 0
      let c := fun j => if j < n then elemA s x j else if j < 2 * n then elemB s x (j - n) else 0
      match sylFN x.body with
      | 0 => if i % 2 = 0 then a (i / 2) else c (n + (i - 1) / 2)
      | 1 => if i % 2 = 0 then a ((n + 1) / 2 + i / 2) else c (n + ((n + 1) / 2 + (i - 1) / 2))
      | 2 => c (2 * i)
      | 3 => c (2 * i + 1)
      | 4 => c (i + sylSH x.body)
      | _ => a (n - 1 - i))
  ∧ vector .vexpand .vexpand (fun _ => True) etW etN (fun s x i =>
      if (psrcC s x).getLsbD (etW s x * i) then
        elemA s x ((List.range (etN s x)).filter fun j => (psrcC s x).getLsbD (etW s x * j) && decide (j < i)).length else 0)
  ∧ vector .vcompress .vcompress (fun x => sylFN x.body % 2 = 0) etW etN (fun s x i =>
      (((List.range (etN s x)).filter fun j => (psrcC s x).getLsbD (etW s x * j))[i]?).elim 0 fun j => elemA s x j))
  ∧ (
  vector .vcvt .vcvt (fun _ => True) (fun _ x => etSize (sylFN x.body % 16)) (fun s x => min (etN s x) (elemsBelow s x (etSize (sylFN x.body % 16))))
    (fun s x i => (convElem (etOf x) (sylFN x.body % 16) (elemA s x i)).1)
  ∧ vector .vpack .vpack (fun x => packAllowed (etOf x) (sylFN x.body % 16) = true) (fun _ x => etSize (sylFN x.body % 16)) (fun s x => 2 * etN s x)
    (fun s x i => (convElem (etOf x) (sylFN x.body % 16) (if i < etN s x then elemA s x i else elemB s x (i - etN s x))).1)
  ∧ vector .vunpack .vunpack (fun x => packAllowed (sylFN x.body / 16) (etOf x) = true) (fun _ x => etSize (sylFN x.body / 16))
    (fun s x => etN s x / 2) (fun s x i => (convElem (etOf x) (sylFN x.body / 16) (elemA s x (sylFN x.body % 2 * (etN s x / 2) + i))).1)
  ∧ (∀ (is : Issue) (s : State), s.Acts .vpack is → packAllowed (sylET is.body) (sylFN is.body % 16) = false → (s.core is.core.val).jobMode = true →
      ∃ t, exec (.vpack is) s = .next t ∧ (t.core is.core.val).curCtx.evtCause = 0x10#32)
  ∧ (∀ (is : Issue) (s : State), s.Acts .vunpack is → packAllowed (sylFN is.body / 16) (sylET is.body) = false → (s.core is.core.val).jobMode = true →
      ∃ t, exec (.vunpack is) s = .next t ∧ (t.core is.core.val).curCtx.evtCause = 0x10#32))

/-- R93, R150, R155: VCMP writes every lane of its elements' predicate bits, VDMACS both registers of its pair with sums saturated to INT48, VDNARROW half
a register, VCOMPRESS with FN[0] also vl. R161 to R163, Table 7.3: VRED enters the enabled elements below vl into its accumulator, exactly, or merges
a raw record, and delivers what OUT says under the predicate; with CLR an integer SUM is the exact sum of the elements. An accumulator of another kind
or width, and a record of no kind, raise ILLEGAL with EVT_INFO 0x21. The byte lanes that a predicated delivery writes are the model's reading (log
entry 164). -/
def Obligations.VectorPairsAndReductions : Prop :=
  (
  (∀ (is : Issue) (s : State), s.Acts .vcmp is →
    let x := arg is
    ∃ t r, exec (.vcmp is) s = .next t ∧ (t.core x.n).inflight = [r] ∧ r.dest = sylD is.body ∧ r.remain = 2
      ∧ (∀ l < 128, r.value.getLsbD l = (decide (l / etW s x < etN s x)
          && (cmpElem (etOf x) (sylFN is.body % 8) (elemA s x (l / etW s x)) (elemB s x (l / etW s x))).1))
      ∧ (etIsFloat (sylET is.body) = false → ∀ l < 128, l / etW s x < etN s x →
          let a := etVal (etOf x) (elemA s x (l / etW s x))
          let b := etVal (etOf x) (elemB s x (l / etW s x))
          r.value.getLsbD l = (match sylFN is.body % 8 with
              | 0 => decide (a = b)
              | 1 => decide (a ≠ b)
              | 2 => decide (a < b)
              | 3 => decide (a ≤ b)
              | 4 => decide (b < a)
              | _ => decide (b ≤ a)))
      ∧ falls x.n s t ∧ onlyCore s t ∧ frame x.n [] s t)
  ∧ (∀ (is : Issue) (s : State), s.Acts .vdmacs is →
    let x := arg is
    let acc := fun (r l : Nat) => signed 48 (elem ((s.core x.n).readV (sylD is.body - 0x40 + r)) 8 l)
    ∃ t u v, exec (.vdmacs is) s = .next t ∧ (t.core x.n).inflight = [u, v]
      ∧ u.dest = sylD is.body ∧ v.dest = sylD is.body + 1 ∧ u.remain = 2 ∧ v.remain = 2
      ∧ (∀ l < elemsBelow s x 8, (BitVec.ofNat 64 (elem u.value 8 l)).toInt =
          max (-(2 ^ 47)) (min (2 ^ 47 - 1) (acc 0 l + halfUp (dmacProduct s x l) (sylSH is.body))))
      ∧ (∀ l < elemsBelow s x 8, (BitVec.ofNat 64 (elem v.value 8 l)).toInt =
          max (-(2 ^ 47)) (min (2 ^ 47 - 1) (acc 1 l + halfUp (dmacProduct s x (16 + l)) (sylSH is.body))))
      ∧ falls x.n s t ∧ onlyCore s t ∧ frame x.n [] s t)
  ∧ (∀ (is : Issue) (s : State), s.Acts .vdnarrow is →
    let x := arg is
    let h := sylFN is.body % 2
    ∃ t r, exec (.vdnarrow is) s = .next t ∧ (t.core x.n).inflight = [r] ∧ r.dest = sylD is.body ∧ r.remain = 2
      ∧ (∀ l < 32, 32 * h + l < elemsBelow s x 2 → elem r.value 2 (32 * h + l) = (narrowInt 2 true
          (halfUp (signed 48 (elem ((s.core x.n).readV (sylA is.body - 0x40 + l / 16)) 8 (l % 16))) (sylSH is.body))).1 % 2 ^ 16)
      ∧ (∀ l < 128, l / 64 ≠ h → r.mask.getLsbD l = false)
      ∧ falls x.n s t ∧ onlyCore s t ∧ frame x.n [] s t)
  ∧ (∀ (is : Issue) (s : State), s.Acts .vcompress is → sylFN is.body % 2 = 1 →
    let x := arg is
    let l := (List.range (etN s x)).filter fun j => (psrcC s x).getLsbD (etW s x * j)
    ∃ t u v, exec (.vcompress is) s = .next t ∧ (t.core x.n).inflight = [u, v] ∧ u.dest = sylD is.body ∧ v.dest = 0x6C ∧ u.remain = 2 ∧ v.remain = 2
      ∧ (∀ i < etN s x, elem u.value (etW s x) i = (l[i]?).elim 0 fun j => elemA s x j)
      ∧ v.value.toNat = l.length * etW s x
      ∧ falls x.n s t ∧ onlyCore s t ∧ frame x.n [] s t))
  ∧ (
  (∀ (is : Issue) (s : State), s.Acts .vred is →
    let x := arg is
    let fn := sylFN is.body
    let wide := etIsFloat (etOf x)
    let bf16 := sylSH is.body % 2 == 1
    let rec_ := xaccOfRecord ((vsrcA s x).toNat % 2 ^ 192)
    let a0 : XAcc := if fn / 16 % 2 = 1 then { kind := if fn % 4 = 3 then rec_.kind else fn % 4, wide := wide } else (s.core x.n).acc (fn / 4 % 4)
    let a1 := if fn % 4 = 3 then xaccMerge a0 rec_ else (xaccEnterAll s x a0).1
    (bf16 = true → wide = true) → (fn / 32 = 0 → sylD is.body = 0x40) → a0.wide = wide → (fn % 4 ≠ 3 → a0.kind = fn % 4) →
    (fn % 4 = 3 → rec_.kind ≤ 2 ∧ rec_.kind = a0.kind ∧ rec_.wide = a0.wide) →
    ∃ t r, exec (.vred is) s = .next t ∧ (t.core x.n).acc (fn / 4 % 4) = a1
      ∧ (∀ k, k ≠ fn / 4 % 4 → (t.core x.n).acc k = (s.core x.n).acc k)
      ∧ (t.core x.n).inflight = [r] ∧ r.remain = 2
      ∧ (fn / 32 ≠ 0 → r.dest = sylD is.body ∧ r.mask = laneMask (s.core x.n) is.body)
      ∧ (fn / 32 = 3 → r.value = BitVec.ofNat 1024 (xaccRecord a1))
      ∧ (fn / 32 = 1 ∨ fn / 32 = 2 → r.value = BitVec.ofNat 1024 (xaccDeliver a1 (fn / 32 == 2) bf16).1)
      ∧ falls x.n s t ∧ onlyCore s t ∧ frame x.n [0x100] s t)
  ∧ (∀ (is : Issue) (s : State), s.Acts .vred is → sylFN is.body = 0x70 → etIsFloat (sylET is.body) = false → sylSH is.body = 0 →
    sylPen is.body = false →
    let x := arg is
    let sum := ((List.range (etN s x)).map fun i => etVal (etOf x) (elemA s x i)).foldl (· + ·) 0
    ∃ t r, exec (.vred is) s = .next t ∧ (t.core x.n).inflight = [r]
      ∧ (BitVec.ofNat 64 (elem r.value 8 0)).toInt = sum
      ∧ (t.core x.n).acc 0 = { kind := 0, wide := false, value := sum, count := BitVec.ofNat 32 (etN s x), nan := false })
  ∧ (∀ (is : Issue) (s : State), s.Acts .vred is → sylFN is.body = 0x61 → sylSH is.body = 0 → (s.core is.core.val).jobMode = true →
    ((s.core is.core.val).acc 0).kind ≠ 1 →
    ∃ t, exec (.vred is) s = .next t ∧ (t.core is.core.val).curCtx.evtCause = 0x10#32 ∧ (t.core is.core.val).curCtx.evtInfo = 0x21#32)
  ∧ (∀ (is : Issue) (s : State), s.Acts .vred is → sylFN is.body = 0x73 → sylSH is.body = 0 → (s.core is.core.val).jobMode = true →
    2 < (xaccOfRecord ((vsrcA s (arg is)).toNat % 2 ^ 192)).kind →
    ∃ t, exec (.vred is) s = .next t ∧ (t.core is.core.val).curCtx.evtCause = 0x10#32 ∧ (t.core is.core.val).curCtx.evtInfo = 0x21#32))

/-- R94, R157: VTSET binds a valid, aligned descriptor to its slot and sends BASE, and with SETVL the length of vector 0, to a(12 + k) and vl with latency
3, and with every lane off does nothing (log entry 164); VMRD brings ready rows of a group it owns and takes them from the queue, and raises MATRIX 1
on a group with no row to come. -/
def Obligations.DescriptorsAndOutputRows : Prop :=
  (∀ (is : Issue) (s : State), s.Acts .vtset is →
    let x := arg is
    let k := sylFN is.body % 4
    let a := (srcAddr s x).toNat
    let d := BitVec.ofNat 512 (memNat s.mem 64 a)
    (laneMask (s.core x.n) is.body = 0#128 → ∃ t, exec (.vtset is) s = .next t ∧ (t.core x.n).inflight = [] ∧ falls x.n s t ∧ onlyCore s t ∧ frame x.n [] s t)
    ∧ (laneMask (s.core x.n) is.body ≠ 0#128 → s.inWindow x.n a 64 = true → a % 64 = 0 → tdValid d = true → tdAligned d = true →
    (∀ j < 4, j ≠ k → tdSetvl d = true → ((s.core x.n).walker j).bound = true → tdSetvl ((s.core x.n).walker j).desc = false) →
    ∃ t u l, exec (.vtset is) s = .next t
      ∧ ((t.core x.n).walker k).bound = true ∧ ((t.core x.n).walker k).desc = d ∧ ((t.core x.n).walker k).exhausted = false
      ∧ (t.core x.n).inflight = u :: l ∧ u.dest = 0x2C + k ∧ u.remain = 2 ∧ u.value.toNat = tdBase d
      ∧ (tdSetvl d = false → l = [])
      ∧ (tdSetvl d = true → ∃ v, l = [v] ∧ v.dest = 0x6C ∧ v.remain = 2 ∧ v.value.toNat = min 128 (tdCount0 d * etSize (tdType d)))
      ∧ falls x.n s t ∧ onlyCore s t ∧ frame x.n [0x100] s t))
  ∧ (∀ (is : Issue) (s : State), s.Acts .vmrd is → sylFN is.body % 4 = 1 →
    let x := arg is
    let q := vmrdGroup x
    (s.core x.n).ownsGroup q = true → (s.core x.n).vl = 128#8 →
    (∀ r ∈ (((s.core x.n).group q).ready (s.core x.n).split).head?, ∃ t l, exec (.vmrd is) s = .next t
      ∧ (t.core x.n).inflight = [l] ∧ l.dest = sylD is.body ∧ l.remain = 2 ∧ l.value.toNat = (rowBytes r.1 r.2).1 % 2 ^ 1024
      ∧ (t.core x.n).group q = ((s.core x.n).group q).take (s.core x.n).split 1
      ∧ falls x.n s t ∧ onlyCore s t ∧ frame x.n [0x103] s t)
    ∧ (((s.core x.n).group q).ready (s.core x.n).split = [] → ((s.core x.n).group q).moreToCome = false → (s.core x.n).jobMode = true →
      ∃ t, exec (.vmrd is) s = .next t ∧ (t.core x.n).curCtx.evtCause = 0x21#32 ∧ (t.core x.n).curCtx.evtInfo = 1#32))
  ∧ (∀ (is : Issue) (s : State), s.Acts .vmrd is → sylFN is.body % 4 = 2 →
    let x := arg is
    let q := vmrdGroup x
    (s.core x.n).ownsGroup q = true → (s.core x.n).vl = 128#8 →
    ∀ a b l, ((s.core x.n).group q).ready (s.core x.n).split = a :: b :: l → dOutFmt a.1.desc ≠ 2 → dOutFmt b.1.desc ≠ 2 →
      ∃ t r, exec (.vmrd is) s = .next t
        ∧ (t.core x.n).inflight = [r] ∧ r.dest = sylD is.body ∧ r.remain = 2
        ∧ r.value.toNat = ((rowBytes a.1 a.2).1 % 2 ^ 512 + (rowBytes b.1 b.2).1 * 2 ^ 512) % 2 ^ 1024
        ∧ (t.core x.n).group q = ((s.core x.n).group q).take (s.core x.n).split 2
        ∧ falls x.n s t ∧ onlyCore s t ∧ frame x.n [0x103] s t)

/-- R95, R101, R106, R109, R110, R142, Table 4.11: MTILE, MWLD, MWPASS, MRQ and MOUTL set what the next pass takes, and touch no pass in progress or
queued; MSPLIT asks for its groups. -/
def Obligations.MatrixSettings : Prop :=
  nextPass .mtile .mtile
    (fun s x => s.inWindow x.n (srcAddr s x).toNat 64 = true ∧ (srcAddr s x).toNat % 64 = 0
      ∧ tileValid (BitVec.ofNat 512 (memNat s.mem 64 (srcAddr s x).toNat)) (s.core x.n).split = true)
    (fun s x p => { p with tile := some (BitVec.ofNat 512 (memNat s.mem 64 (srcAddr s x).toNat)) })
  ∧ nextPass .mwld .mwld
    (fun s x => s.inWindow x.n (srcAddr s x).toNat (nextTileBytes (s.core x.n)) = true ∧ (srcAddr s x).toNat % 128 = 0)
    (fun s x p => { p with id := (s.core x.n).passNo, weights := some (srcAddr s x).toNat, chain := false, arrived := 0 })
  ∧ nextPass .mwpass .mwpass
    (fun s x => (s.core x.n).curCtx.chain.getLsbD 15 = true ∧ (s.core x.n).curCtx.chain.getLsbD 16 = decide (sylFN x.body % 2 = 1))
    (fun s x p => { p with id := (s.core x.n).passNo, chain := true, chainLast := decide (sylFN x.body % 2 = 1), weights := none, arrived := 0 })
  ∧ nextPass .mrq .mrq (fun _ _ => True)
    (fun s x p => { p with rq := { mult := srcA s x, shift := (srcB s x).extractLsb' 0 6, zeroOut := (srcB s x).extractLsb' 8 8,
                                   zeroAct := (srcB s x).extractLsb' 16 8 } })
  ∧ nextPass .moutl .moutl (fun s x => s.inWindow x.n (srcAddr s x).toNat 2 = true)
    (fun s x p => { p with outlierAddr := some (srcAddr s x).toNat })
  ∧ (∀ (is : Issue) (s : State), s.Acts .msplit is → (∀ q < (s.core is.core.val).split, (s.core is.core.val).ownsGroup q = true) →
    ∃ t, exec (.msplit is) s = .next t ∧ (t.core is.core.val).splitPending = some (2 ^ (sylFN is.body % 4))
      ∧ (t.core is.core.val).split = (s.core is.core.val).split
      ∧ falls is.core.val s t ∧ onlyCore s t ∧ frame is.core.val [] s t)

/-- R95, R102, R125: MPASS, and MBWD where a backward pass is permitted, issue a pass over gB rows at aA: in progress on an idle group, queued behind a
pass in progress, and ILLEGAL 2 where a pass is queued already. -/
def Obligations.MatrixPasses : Prop :=
  ∀ (is : Issue) (s : State) (d : BitVec 512) (back : Bool), s.Acts (if back then .mbwd else .mpass) is →
    let n := is.core.val
    let c := s.core n
    let q := dGroup d
    let rows := (srcB s (arg is)).toNat
    c.curCtx.next.tile = some d → c.curCtx.next.outlierAddr = none → c.splitPending = none → q < c.split → c.ownsGroup q = true → c.groupFenced q = false →
    (back = true → s.get (0x4060 + c.curCtx.court) 1 ≠ 0 ∧ backwardFits d rows c.split = true) →
    (c.group q).scrub = false → 0 < rows → rows ≤ 65535 → (back = false → dOutMode d = 1 → storeFits d rows c.split = true) → dDetach d = false →
    ((c.group q).queued = none →
      ∃ t p, exec (if back then .mbwd is else .mpass is) s = .next t
        ∧ (if (c.group q).current.isNone then ((t.core n).group q).current = some p ∧ ((t.core n).group q).queued = none
            else ((t.core n).group q).current = (c.group q).current ∧ ((t.core n).group q).queued = some p)
        ∧ p.desc = d ∧ p.act = (srcAddr s (arg is)).toNat ∧ p.rows = rows ∧ p.rq = c.curCtx.next.rq ∧ p.tile0 = c.curCtx.next.weights ∧ p.backward = back ∧ p.produced = 0
        ∧ p.job = c.curCtx.job ∧ p.total = passRows p c.split
        ∧ (∀ j, j ≠ q → (t.core n).group j = c.group j)
        ∧ falls n s t ∧ onlyCore s t ∧ frame n [0x103] s t)
    ∧ ((c.group q).queued.isSome = true → c.jobMode = true →
      ∃ t, exec (if back then .mbwd is else .mpass is) s = .next t ∧ (t.core n).curCtx.evtCause = 0x10#32 ∧ (t.core n).curCtx.evtInfo = 2#32)

/-- R96, R166, R171: the built-in functions and micro-programs evaluate every element of their argument with the set of the bank in SF_BANK, with latency
6; NaN gives the default NaN; FSINCOS writes two registers; FMP without a loaded micro-program raises ILLEGAL. R166, R128, Tables 4.12 and 7.5:
special functions outside their tabulated ranges: a NaN argument gives the default NaN with FPINV; FEXP of −∞ is 0, FRCP of 0 is the overflow value of
its sign with SFDOM and FPOVF, FLOG and FRSQRT of −∞ the default NaN with SFDOM and FPINV. -/
def Obligations.SpecialFunctions : Prop :=
  (
  special .fexp .fexp (fun t b a => (sfExp t b a).1) ∧ special .flog .flog (fun t b a => (sfLog t b a).1)
  ∧ special .frcp .frcp (fun t b a => (sfRcp t b a).1) ∧ special .frsqrt .frsqrt (fun t b a => (sfRsqrt t b a).1)
  ∧ special .fsigm .fsigm (fun t b a => (sfTotal 5 t b a).1) ∧ special .ftanh .ftanh (fun t b a => (sfTotal 6 t b a).1)
  ∧ special .fsoftp .fsoftp (fun t b a => (sfTotal 7 t b a).1) ∧ special .fsmooth .fsmooth (fun t b a => (sfTotal 10 t b a).1)
  ∧ (∀ (is : Issue) (s : State), s.Acts .fatan2 is →
    let x := arg is
    let w := etSize (etOf x)
    is.ecc ≠ .uncorrectable →
    ∃ t r, exec (.fatan2 is) s = .next t ∧ (t.core x.n).inflight = [r] ∧ r.dest = sylD is.body ∧ r.remain = 5
      ∧ (∀ i < 32, elem r.value w i = (sfAtan2 (etOf x) (sfSetOf s x) (elem (vsrcA s x) w i) (elem (vsrcB s x) w i)).1 % 2 ^ (8 * w))
      ∧ falls x.n s t ∧ onlyCore s t ∧ frame x.n [] s t)
  ∧ (∀ (is : Issue) (s : State), s.Acts .fsincos is →
    let x := arg is
    let w := etSize (etOf x)
    is.ecc ≠ .uncorrectable →
    ∃ t u v, exec (.fsincos is) s = .next t ∧ (t.core x.n).inflight = [u, v] ∧ u.dest = sylD is.body ∧ v.dest = sylD is.body + 1
      ∧ u.remain = 5 ∧ v.remain = 5
      ∧ (∀ i < 32, elem u.value w i = (sfSinCos 0 (etOf x) (sfSetOf s x) (elem (vsrcA s x) w i)).1 % 2 ^ (8 * w)
          ∧ elem v.value w i = (sfSinCos 1 (etOf x) (sfSetOf s x) (elem (vsrcA s x) w i)).1 % 2 ^ (8 * w))
      ∧ falls x.n s t ∧ onlyCore s t ∧ frame x.n [] s t)
  ∧ (∀ (is : Issue) (s : State), s.Acts .fmp is →
    let x := arg is
    let w := etSize (etOf x)
    let mp := Tbl.get [] (s.core x.n).microprograms (sfBankOf s x * 256 + sylFN is.body)
    (mp ≠ [] → is.ecc ≠ .uncorrectable → ∃ t r, exec (.fmp is) s = .next t ∧ (t.core x.n).inflight = [r] ∧ r.dest = sylD is.body ∧ r.remain = 5
      ∧ (∀ i < 32, elem r.value w i = (mpEval mp (etOf x) (elem (vsrcA s x) w i)).1 % 2 ^ (8 * w))
      ∧ falls x.n s t ∧ onlyCore s t ∧ frame x.n [] s t)
    ∧ (mp = [] → (s.core x.n).jobMode = true → ∃ t, exec (.fmp is) s = .next t ∧ (t.core x.n).curCtx.evtCause = 0x10#32)))
  ∧ (
  ∀ (t b a : Nat), (t = 6 ∨ t = 7) →
    (fdecode (etFmt t) a = .nan →
      sfExp t b a = ((etFmt t).nanCode, stFPINV) ∧ sfLog t b a = ((etFmt t).nanCode, stFPINV) ∧ sfRcp t b a = ((etFmt t).nanCode, stFPINV)
      ∧ sfRsqrt t b a = ((etFmt t).nanCode, stFPINV) ∧ (∀ f, sfTotal f t b a = ((etFmt t).nanCode, stFPINV))
      ∧ (∀ p, sfSinCos p t b a = ((etFmt t).nanCode, stFPINV)) ∧ (∀ y, sfAtan2 t b a y = ((etFmt t).nanCode, stFPINV)))
    ∧ (fdecode (etFmt t) a = .inf true →
      sfExp t b a = (0, stSFDOM) ∧ sfLog t b a = ((etFmt t).nanCode, stSFDOM ||| stFPINV) ∧ sfRsqrt t b a = ((etFmt t).nanCode, stSFDOM ||| stFPINV))
    ∧ (∀ s e, fdecode (etFmt t) a = .fin s 0 e →
      sfRcp t b a = (withSign (etFmt t) s (overflowCode (etFmt t)), stSFDOM ||| stFPOVF)))

/-- R64, R97 to R99, R168: LOOP sets its level up where R64 allows it and skips the body for a count of 0, and raises LOOP elsewhere; MVFL and MVTL move
loop registers; VSETVL sets vl and gD to the lesser of its operand and 128; SFBANK in runtime mode switches the bank. -/
def Obligations.LoopAndLengthControl : Prop :=
  (∀ (is : Issue) (s : State), s.Acts .loop is →
    let n := is.core.val
    let c := s.core n
    let k := sylLvl is.body
    let m := if sylCI is.body then sylCount is.body else (srcA s (arg is)).toNat
    let le := c.pc + BitVec.ofNat 48 (sylEnd is.body)
    (c.loopAllowed k (c.pc + 16) le = true → ∃ t, exec (.loop is) s = .next t
      ∧ (t.core n).readLc k = BitVec.ofNat 32 m ∧ (t.core n).readLs k = c.pc + 16 ∧ (t.core n).readLe k = le
      ∧ (t.core n).pc = (if m = 0 then le + BitVec.ofNat 48 (s.bundleLenAt le.toNat) else c.pc + 16)
      ∧ onlyCore s t ∧ frame n [0x60 + k, 0x64 + k, 0x68 + k] s t)
    ∧ (c.loopAllowed k (c.pc + 16) le = false → c.jobMode = true →
      ∃ t, exec (.loop is) s = .next t ∧ (t.core n).curCtx.evtCause = 0x15#32 ∧ (t.core n).curCtx.evtPc = c.pc))
  ∧ plain .mvfl .mvfl (fun _ _ => True) (fun s x =>
      if sylA x.body < 0x64 then ((s.core x.n).readLc (sylA x.body - 0x60)).toNat
      else if sylA x.body < 0x68 then ((s.core x.n).readLs (sylA x.body - 0x64)).toNat else ((s.core x.n).readLe (sylA x.body - 0x68)).toNat)
  ∧ (∀ (is : Issue) (s : State), s.Acts .mvtl is →
    let n := is.core.val
    let c := s.core n
    let d := sylD is.body
    (d < 0x64 → srcA s (arg is) = 0#32 ∨ c.loopAllowed (d - 0x60) (c.readLs (d - 0x60)) (c.readLe (d - 0x60)) = true) →
    ∃ t, exec (.mvtl is) s = .next t
      ∧ (d < 0x64 → (t.core n).readLc (d - 0x60) = srcA s (arg is))
      ∧ (0x64 ≤ d → d < 0x68 → (t.core n).readLs (d - 0x64) = srcAddr s (arg is))
      ∧ (0x68 ≤ d → (t.core n).readLe (d - 0x68) = srcAddr s (arg is))
      ∧ falls n s t ∧ onlyCore s t ∧ frame n [d] s t)
  ∧ (∀ (is : Issue) (s : State), s.Acts .vsetvl is →
    let n := is.core.val
    let v := min 128 (if sylA is.body = 0 then (sylImm is.body).toNat else (srcA s (arg is)).toNat)
    ∃ t, exec (.vsetvl is) s = .next t
      ∧ (t.core n).vl = BitVec.ofNat 8 v ∧ (t.core n).readG (sylD is.body) = (if sylD is.body = 0 then 0#32 else BitVec.ofNat 32 v)
      ∧ falls n s t ∧ onlyCore s t ∧ frame n [sylD is.body, 0x6C] s t)
  ∧ (∀ (is : Issue) (s : State), s.Acts .sfbank is →
    let n := is.core.val
    ((s.core n).jobMode = false → ∃ t, exec (.sfbank is) s = .next t
      ∧ (t.core n).curCtx.sfBank = BitVec.ofNat 32 (1 - (s.core n).curCtx.sfBank.toNat % 2)
      ∧ falls n s t ∧ onlyCore s t ∧ frame n [0x100] s t)
    ∧ ((s.core n).jobMode = true → ∃ t, exec (.sfbank is) s = .next t ∧ (t.core n).curCtx.evtCause = 0x10#32))

/-- R52, R60, R61: RESULT_LANDING: in a cycle without issue every result in flight counts down, the results due land in their registers under their masks,
and two results due in one register raise CLASH. R62, R66, R90: HOLD_RELEASE issues a held TWAIT once its Tally has reached its target and otherwise
holds it for a further cycle without any other effect; STOP_REQUEST stands at the core, a BUNDLE request prevailing; TILE_STOP_TIMEOUT makes a TILE
request of 1,100 cycles a BUNDLE request. -/
def Obligations.LandingHoldsAndStops : Prop :=
  (
  ∀ (core : Fin 64) (s : State), s.coresStopped = false →
    let n := core.val
    let c := s.core n
    let due := c.inflight.filter (fun r => decide (r.remain ≤ 1))
    (anyClash due = false → ∃ t, exec (.resultLanding core) s = .next t
      ∧ (t.core n).inflight = (c.inflight.filter (fun r => decide (1 < r.remain))).map (fun r => { r with remain := r.remain - 1 })
      ∧ (due = [] → frame n [] s t)
      ∧ (∀ r, due = [r] → r.dest < 0x20 → (t.core n).readG r.dest = (if r.dest = 0 then 0#32 else r.value.truncate 32) ∧ frame n [r.dest, 0x102] s t)
      ∧ (∀ r, due = [r] → 0x40 ≤ r.dest → r.dest < 0x60 → frame n [r.dest, 0x102] s t
          ∧ ∀ i < 1024, ((t.core n).readV (r.dest - 0x40)).getLsbD i
              = if r.mask.getLsbD (i / 8) then r.value.getLsbD i else (c.readV (r.dest - 0x40)).getLsbD i)
      ∧ (∀ r, due = [r] → r.dest < 0x60 → (t.core n).sticky = c.sticky ||| r.sticky)
      ∧ onlyCore s t)
    ∧ (anyClash due = true → c.jobMode = true → ∃ t, exec (.resultLanding core) s = .next t
      ∧ (t.core n).curCtx.evtCause = 0x11#32 ∧ (t.core n).curCtx.evtPc = c.lastPc ∧ (t.core n).jobMode = false))
  ∧ (
  (∀ (core : Fin 64) (s : State) (b : BitVec 64) (e : EccFind), s.coresStopped = false →
    let n := core.val
    let c := s.core n
    let x : SylArg := ⟨n, 3, b, e⟩
    c.held = true → c.bundle = [⟨.twait, 3, b, e⟩] → c.run = {} → c.bubble = 0 → c.inflight = [] → c.fetchOk n 16 = true →
    (c.jobMode = true → c.curCtx.started = true) → (∀ k < 4, c.readLc k = 0#32 ∨ c.readLe k ≠ c.pc) → sylLegal .twait 3 b = true → scalarOn c b = true →
    (isSymbolTally (tallyNo s x) || s.tallyOwned n (tallyNo s x)) = true →
    ∃ t, exec (.holdRelease core) s = .next t ∧ onlyCore s t ∧ frame n [] s t
      ∧ (tallyReached (s.tally (tallyNo s x)).count (srcB s x) = true → (t.core n).held = false ∧ falls n s t)
      ∧ (tallyReached (s.tally (tallyNo s x)).count (srcB s x) = false →
          (t.core n).held = true ∧ (t.core n).heldCycles = c.heldCycles + 1 ∧ (t.core n).bundle = c.bundle ∧ (t.core n).pc = c.pc))
  ∧ (∀ (core : Fin 64) (tile : Bool) (s : State), ∃ t, exec (.stopRequest core tile) s = .next t
      ∧ ((s.core core).stop = none → (t.core core).stop = some { tile := tile })
      ∧ (∀ r, (s.core core).stop = some r → (t.core core).stop = some { r with tile := r.tile && tile })
      ∧ onlyCore s t ∧ frame core [] s t ∧ (t.core core).pc = (s.core core).pc)
  ∧ (∀ (core : Fin 64) (s : State) (r : StopReq), s.coresStopped = false → (s.core core).stop = some r →
      ∃ t, exec (.tileStopTimeout core) s = .next t ∧ onlyCore s t ∧ frame core [] s t
      ∧ (t.core core).stop = some { r with tile := r.tile && decide (r.cycles < 1100) }))

/-- R66 to R68, R71, R90: a TILE stop is taken at a tile boundary, a BUNDLE stop at a bundle boundary, both while EXCL is 0, and a Tally wait held for 64
cycles raises BLOCKED; each saves the context to its save area with its cause and resume address. The cycles of a branch bubble pass before a stop
(DEDUCED; log entry 205), and a stop request that waits is dropped by the save (the model's choice; log entry 181). -/
def Obligations.StopsSaveTheContext : Prop :=
  ∀ (core : Fin 64) (s : State), s.coresStopped = false →
    let n := core.val
    let c := s.core n
    let u := s.drainBubble n
    c.jobMode = true → c.cur < 4 → c.inflight.length ≤ 17 → (u.core n).jobMode = true → (u.core n).cur < 4 →
    (∀ r, c.stop = some r → r.tile = true → c.curCtx.state = .running → c.curCtx.excl = 0#32 → (∀ q < 4, groupAtBoundary c (c.group q) = true) →
      ∃ t, exec (.stopTile core) s = .next t ∧ savedAs n 1 u t ∧ (memNat t.mem 2 (saveArea n (u.core n).cur + 2)).testBit 0 = false)
    ∧ (∀ r, c.stop = some r → r.tile = false → c.curCtx.state = .running → c.curCtx.excl = 0#32 →
      ∃ t, exec (.stopBundle core) s = .next t ∧ savedAs n 2 u t)
    ∧ (∀ w, s.heldWait n = some w → c.held = true → 64 ≤ c.heldCycles →
      ∃ t, exec (.blocked core) s = .next t ∧ savedAs n 3 s t ∧ ((t.core n).ctx c.cur).waitOn = some w)

/-- R75, R87, R290, R391: JOB_END completes the job, frees its context slot, which then tells cause 0x04 and the address of the END bundle, and leaves its
Tallies abandoned; CORE_FENCE fences the core at core grain and every resident job with cause FENCE. -/
def Obligations.JobEndAndCoreFence : Prop :=
  (∀ (core : Fin 64) (s : State), s.coresStopped = false →
    let n := core.val
    let c := s.core n
    let j := c.curCtx.job
    c.jobMode = true → c.cur < 4 → c.curCtx.state = .ending → c.inflight = [] → passesOpen c c.cur = false → j ≠ 0 →
    (s.job j).live = true → (s.job j).state ≠ .fenced → (s.job j).state ≠ .completed →
    ∃ t, exec (.jobEnd core) s = .next t ∧ (t.job j).state = .completed ∧ { (t.core n).ctx c.cur with evtInfo := 0#32 } = { evtCause := 4#32, evtPc := c.pc }
      ∧ (∀ i, (s.tally i).holder = j → (t.tally i).holder = 0 ∧ (t.tally i).abandoned = true ∧ (t.tally i).count = (s.tally i).count)
      ∧ (Tbl.wf {} s.tallies = true → ∀ i, (s.tally i).holder ≠ j → t.tally i = s.tally i))
  ∧ (∀ (core : Fin 64) (cause : BitVec 8) (info : BitVec 32) (s : State), s.isFenced 2 core = false →
    ∃ t, exec (.coreFence core cause info) s = .next t ∧ (t.core core).fenced = true ∧ (t.core core).jobMode = false
      ∧ (∃ x ∈ t.fences, x.grain = 2 ∧ x.object = core.val ∧ x.cause = cause.toNat)
      ∧ (∀ k < 4, ((s.core core).ctx k).state ≠ .free →
          let j := ((s.core core).ctx k).job
          (s.job j).live = true → (s.job j).state ≠ .fenced → (s.job j).state ≠ .completed → (t.job j).state = .fenced ∧ (t.job j).cause = 0x30))
  ∧ (∀ (core : Fin 64) (cause : BitVec 8) (info : BitVec 32) (s : State), s.isFenced 2 core = true → exec (.coreFence core cause info) s = .next s)

/-- R95, R104, R106, R107, R114, R117: what the events of a pass do to a column group: the queued pass begins once the pass in progress has put its last
fold through the array and is no STORE pass, a fill puts the next tile's bytes into the shadow bank, the eighth band swap makes it the active bank, a
tile boundary is noted, and a split asked for takes effect; registers and memory stand. R194, R195: a tile whose port is not armed is held upstream; a
tile before an armed port is copied to W_ADDR + t × B, counts as arrived, has left the member upstream and is kept for the next one; a CRC error is
counted and the tile stays. -/
def Obligations.PassProgress : Prop :=
  (
  (∀ (core : Fin 64) (q : Fin 4) (s : State) (p : Pass), s.coresStopped = false →
    let c := s.core core
    let g := c.group q
    g.queued = some p → g.scrub = false →
    ((∀ o, g.current = some o → dOutMode o.desc ≠ 1 ∧ foldCount o c.split ≤ o.fold) →
      ∃ t, exec (.passBegin core q) s = .next t ∧ ((t.core core).group q).current = some p ∧ ((t.core core).group q).queued = none
        ∧ ((t.core core).group q).draining = g.draining ++ g.current.toList ∧ (∀ r, r ≠ q.val → (t.core core).group r = c.group r)
        ∧ onlyCore s t ∧ frame core [0x103] s t)
    ∧ (∀ o, g.current = some o → dOutMode o.desc = 1 ∨ o.fold + 1 < foldCount o c.split → exec (.passBegin core q) s = .next s))
  ∧ (∀ (core : Fin 64) (q : Fin 4) (tile : BitVec 16) (parity : BitVec 2) (s : State) (f : Fill), s.coresStopped = false →
    let c := s.core core
    let g := c.group q
    c.nextFill q = some f → f.tile = tile.toNat → f.here = true → g.bandsSwapped = 0 → (∀ b, g.shadow = some b → b.pass ≠ f.pass ∨ b.tile ≠ f.tile) →
    ∃ t, exec (.tileFillDone core q tile parity) s = .next t
      ∧ ((t.core core).group q).shadow = some ⟨f.pass, f.tile, f.slot, memBytes s.mem f.len f.addr⟩ ∧ ((t.core core).group q).active = g.active
      ∧ ((t.core core).tileCache).length ≤ 8 ∧ onlyCore s t ∧ frame core [0x103] s t)
  ∧ (∀ (core : Fin 64) (q : Fin 4) (tile : BitVec 16) (parity : BitVec 2) (s : State) (p : Pass), s.coresStopped = false →
    let c := s.core core
    let g := c.group q
    g.current = some p → g.scrub = false → p.fold < foldCount p c.split → g.foldActive p c.split = false → tile.toNat ≠ foldTile p c.split →
    exec (.tileFillDone core q tile parity) s = .next s)
  ∧ (∀ (core : Fin 64) (q : Fin 4) (s : State) (b : Bank) (f : Fill), s.coresStopped = false →
    let c := s.core core
    let g := c.group q
    g.shadow = some b → c.nextFill q = some f → b.pass = f.pass → b.tile = f.tile →
    ((∀ p, g.current = some p → g.bandsSwapped ≠ 0 ∨ g.foldActive p c.split = false) →
      ∃ t, exec (.bandSwap core q) s = .next t ∧ onlyCore s t ∧ frame core [0x103] s t ∧ ((t.core core).group q).current = g.current
      ∧ (if g.bandsSwapped = 7 then ((t.core core).group q).active = some b ∧ ((t.core core).group q).shadow = none
            ∧ ((t.core core).group q).bandsSwapped = 0
         else ((t.core core).group q).active = g.active ∧ ((t.core core).group q).shadow = some b
            ∧ ((t.core core).group q).bandsSwapped = g.bandsSwapped + 1))
    ∧ (∀ p p', g.current = some p → g.bandsSwapped = 0 → g.foldActive p c.split = true → Core.enterFold s core c g p = .pass p' →
      ∃ t, exec (.bandSwap core q) s = .next t ∧ onlyCore s t ∧ frame core [0x103] s t ∧ ((t.core core).group q).current = some p'
      ∧ ((t.core core).group q).active = g.active ∧ ((t.core core).group q).bandsSwapped = 1)
    ∧ (∀ p, g.current = some p → g.bandsSwapped = 0 → g.foldActive p c.split = true → Core.enterFold s core c g p = .waits → exec (.bandSwap core q) s = .next s))
  ∧ (∀ (core : Fin 64) (q : Fin 4) (s : State) (p : Pass), s.coresStopped = false → ((s.core core).group q).current = some p → dOutMode p.desc = 0 → 0 < p.produced →
    p.queue = [] → p.formed = [] → p.part = [] → ((s.core core).group q).draining = [] → (arowPlace p (s.core core).split p.produced).2.2.2 = 0 →
    ∃ t, exec (.tileBoundary core q) s = .next t ∧ ((t.core core).group q).atBoundary = true ∧ ((t.core core).group q).current = some p
      ∧ onlyCore s t ∧ frame core [0x103] s t)
  ∧ (∀ (core : Fin 64) (s : State) (g : Nat), s.coresStopped = false → (s.core core).splitPending = some g →
    (∀ q < 4, ((s.core core).group q).current = none ∧ ((s.core core).group q).queued = none ∧ ((s.core core).group q).draining = []
      ∧ ∀ k < 4, (Tbl.get {} ((s.core core).ctx k).mcont q).current = none ∧ (Tbl.get {} ((s.core core).ctx k).mcont q).queued = none) →
    ∃ t, exec (.splitTakesEffect core) s = .next t ∧ (t.core core).split = g ∧ (t.core core).splitPending = none ∧ onlyCore s t ∧ frame core [] s t))
  ∧ (
  ∀ (core : Fin 64) (ok : Bool) (s : State) (k : Nat) (v : BitVec 32) (tile : Nat × List Byte),
    let n := core.val
    let c := s.core n
    c.port = some (some k, v) → c.passesThrough (some k, v) = false → c.chainBuf.length < 2 → s.comingTile v = some tile →
    (c.armed k = none → ∃ t, exec (.chainTileArrival core ok) s = .next t
      ∧ (t.core n).chainSince = some (c.chainSince.getD s.auditAir) ∧ (t.core n).chainBuf = c.chainBuf ∧ onlyCore s t ∧ frame n [] s t)
    ∧ (∀ q p, c.armed k = some (.current q p) → ok = true →
      let b := (folds p.desc c.split).b
      let w := dWaddr p.desc + p.arrived * b
      ∃ t, exec (.chainTileArrival core ok) s = .next t
        ∧ (∀ i < b, i < tile.2.length → memByte t.mem (w + i) = tile.2.getD i 0#8)
        ∧ (∀ a, a < w ∨ w + b ≤ a → memByte t.mem a = memByte s.mem a)
        ∧ ((t.core n).group q).current = some { p with arrived := p.arrived + 1 }
        ∧ (t.core n).chainBuf = (if v.getLsbD 16 then c.chainBuf else c.chainBuf ++ [tile])
        ∧ (t.core n).chainBad = 0 ∧ (chainPos v = 0 → frame n [0x103] s t)
        ∧ (∀ u, chainPos v ≠ 0 → s.chainMember (chainNo v) (chainPos v - 1) = some u → (t.core u).chainBuf = (s.core u).chainBuf.drop 1))
    ∧ (∀ a, c.armed k = some a → ok = false → c.chainBad < 2 →
      ∃ t, exec (.chainTileArrival core ok) s = .next t ∧ (t.core n).chainRetries = c.chainRetries + 1
        ∧ (t.core n).chainBad = c.chainBad + 1 ∧ (t.core n).chainBuf = c.chainBuf ∧ onlyCore s t ∧ frame n [] s t))

/-- R102, R105, R107, R113, R115: OUTPUT_ROW_READY moves the rows that have left the array, or that the next activation rows make on the active bank, into
the output queue of the earliest unfinished pass; it waits for the tile of the last depth fold and for free entries; the last row of a QUEUE pass
counts in MDONE; what entering a row meets, a read outside the data window or a tag mismatch, faults the pass's job. R114, R115, R122, R123:
STORE_DRAIN writes the staged outputs of a finished STORE pass and counts it in MDONE, and with an uncorrectable entry abandons the pass; GROUP_FAULT
discards the group's passes and banks and fences the issuing job with MATRIX; GROUP_SCRUB_END lets the group take passes again. -/
def Obligations.OutputRowsAndGroupFaults : Prop :=
  (
  ∀ (core : Fin 64) (q : Fin 4) (s : State) (p : Pass), s.coresStopped = false →
    let n := core.val
    let c := s.core n
    let g := c.group q
    let k := packLen p c.split p.produced
    g.current = some p → g.draining = [] → p.produced < p.total →
    (∀ p1, (k ≤ p.formed.length ∧ p1 = p) ∨ (p.formed.length < k ∧ Core.enterLast s n c g p (k - p.formed.length) = .pass p1) →
      let p' : Pass := { p1 with produced := p1.produced + k, queue := p1.queue ++ p1.formed.take k, formed := p1.formed.drop k }
      ∃ t, exec (.outputRowReady core q) s = .next t
        ∧ ((p'.produced ≠ p'.total ∨ dOutMode p.desc ≠ 0) → ((t.core n).group q).current = some p' ∧ ((t.core n).ctx p.slot).mdone = (c.ctx p.slot).mdone)
        ∧ (p'.produced = p'.total → dOutMode p.desc = 0 → ((t.core n).group q).current = none
            ∧ ((t.core n).group q).draining = (if p'.queue = [] then [] else [p']) ∧ ((t.core n).ctx p.slot).mdone = countDone (c.ctx p.slot).mdone q)
        ∧ onlyCore s t ∧ frame n [0x100, 0x102, 0x103] s t)
    ∧ (p.formed.length < k → Core.enterLast s n c g p (k - p.formed.length) = .waits → exec (.outputRowReady core q) s = .next s)
    ∧ (∀ e i, p.formed.length < k → Core.enterLast s n c g p (k - p.formed.length) = .fault e i → c.jobMode = true → c.cur = p.slot →
      ∃ t, exec (.outputRowReady core q) s = .next t ∧ (t.core n).curCtx.evtCause = BitVec.ofNat 32 e ∧ (t.core n).curCtx.evtInfo = BitVec.ofNat 32 i
        ∧ ((t.core n).group q).current = none))
  ∧ (
  (∀ (core : Fin 64) (q : Fin 4) (s : State) (p : Pass), s.coresStopped = false →
    let n := core.val
    let c := s.core n
    let z := outSize (dOutFmt p.desc) (modeRow (dMode p.desc)).complex
    (c.group q).current = some p → dOutMode p.desc = 1 → p.produced = p.total →
    (storeList p c.split).all (fun e => inCtxWindow c n p.slot e.1 z) = true →
    ∃ t, exec (.storeDrain core q false) s = .next t ∧ ((t.core n).group q).current = none
      ∧ ((t.core n).ctx p.slot).mdone = countDone (c.ctx p.slot).mdone q
      ∧ (∀ e l, storeList p c.split = l ++ [e] → ∀ i < z, memByte t.mem (e.1 + i) = BitVec.ofNat 8 (e.2.1 / 256 ^ i))
      ∧ (∀ a, (∀ e ∈ storeList p c.split, a < e.1 ∨ e.1 + z ≤ a) → memByte t.mem a = memByte s.mem a)
      ∧ frame n [0x100, 0x102, 0x103] s t)
  ∧ (∀ (core : Fin 64) (q : Fin 4) (m : BitVec 4) (s : State) (p : Pass),
    let n := core.val
    let j := ((s.core n).ctx p.slot).job
    ((s.core n).group q).current = some p → (s.job j).live = true → (s.job j).state ≠ .fenced → (s.job j).state ≠ .completed →
    (∃ t, exec (.groupFault core q m) s = .next t ∧ (t.job j).state = .fenced ∧ (t.job j).cause = 0x21
      ∧ (t.job j).fenceInfo = 0x10000 + (m.toNat &&& groupMask (s.core n).split q)
      ∧ ((t.core n).group q).current = none ∧ ((t.core n).group q).queued = none ∧ ((t.core n).group q).draining = []
      ∧ ((t.core n).group q).active = none ∧ ((t.core n).group q).shadow = none ∧ ((t.core n).group q).scrub = true ∧ (t.core n).tileCache = []
      ∧ (∀ r, r ≠ q.val → (t.core n).group r = (s.core n).group r))
    ∧ (s.coresStopped = false → dOutMode p.desc = 1 → p.produced = p.total →
      ∃ t, exec (.storeDrain core q true) s = .next t ∧ (t.job j).state = .fenced ∧ (t.job j).cause = 0x21 ∧ ((t.core n).group q).current = none
      ∧ ((t.core n).group q).scrub = true))
  ∧ (∀ (core : Fin 64) (q : Fin 4) (s : State),
    let g := (s.core core).group q
    g.scrub = true → g.current = none →
    ∃ t, exec (.groupScrubEnd core q) s = .next t ∧ ((t.core core).group q).scrub = false ∧ ((t.core core).group q).current = g.queued
      ∧ ((t.core core).group q).queued = none ∧ onlyCore s t ∧ frame core [0x103] s t))

/-- R178 to R180, R186: what NOP, BIND, SYM, LOOP, AMODE, WAITT and END of a stream program do to their engine, which nothing else shares. -/
def Obligations.StreamBindingsAndControl : Prop :=
  engineStep 0 .streamNop (fun x _ => x.word = 0#64) (fun _ _ g => past g)
  ∧ (∀ ext, engineStep 1 (fun x => .bind x ext)
    (fun x s => stBits x 48 5 = 0 ∧ stBits x 55 2 ≤ 1 ∧ stBits x 0 48 % 64 = 0 ∧ s.engineReach x.core (s.core x.core).cur (stBits x 0 48) 64 false = true
      ∧ streamDescOk (BitVec.ofNat 512 (readUnit s ext (stBits x 0 48) 64).1) = true
      ∧ (stBits x 55 2 = 1 → (Tbl.get none (engineOf x s).handles (stBits x 53 2)).isSome = true))
    (fun x s g =>
      let d := BitVec.ofNat 512 (readUnit s ext (stBits x 0 48) 64).1
      let h := (Tbl.get none g.handles (stBits x 53 2)).getD (0, 0)
      let o := if stBits x 55 2 = 1 then (s.pool h.1).base + h.2 * (s.pool h.1).bufSize else 0
      let side : Side := .tensor d ((tdBase d + o) % 2 ^ 48) ((tdField d 416 48 + o) % 2 ^ 48)
      past (if stBits x 57 1 = 0 then { g with src := side, srcPos := 0, srcMode := [] }
        else { g with dst := side, dstPos := 0, dstMode := [], part := [], blk := [], lastLine := none, lastScale := none })))
  ∧ engineStep 2 .sym
    (fun x s => stBits x 16 2 = 0 ∧ s.carrierCourt (stBits x 53 5) = (s.core x.core).curCtx.court
      ∧ (if stBits x 52 1 = 1 then s.carDl (stBits x 53 5) else s.carUl (stBits x 53 5)) = true
      ∧ stBits x 44 8 + stBits x 36 8 + 1 ≤ s.localPorts (stBits x 53 5) ∧ stBits x 27 9 + stBits x 18 9 + 1 ≤ s.car (stBits x 53 5) 3)
    (fun x _ g =>
      let side : Side := .symbol x.word (g.arg + (BitVec.ofNat 16 (stBits x 0 16)).signExtend 32)
      past (if stBits x 52 1 = 1 then { g with dst := side, dstPos := 0, dstMode := [], part := [], blk := [], opened := false, lastLine := none, lastScale := none }
        else { g with src := side, srcPos := 0, srcMode := [], clamped := [] }))
  ∧ engineStep 4 .streamLoop
    (fun x s => stBits x 32 18 = 0 ∧ (∀ k < 4, Tbl.get 0#32 (engineOf x s).loopCount k = 0#32) ∧ (engineOf x s).pc ≤ stBits x 51 5)
    (fun x _ g =>
      let n : BitVec 32 := if stBits x 50 1 = 1 then g.arg else BitVec.ofNat 32 (stBits x 0 32)
      let k := stBits x 56 2
      if n = 0#32 then { g with pc := stBits x 51 5 + 1 }
      else { g with loopCount := Tbl.set 0#32 g.loopCount k n, loopStart := Tbl.set 0 g.loopStart k (g.pc + 1),
                    loopEnd := Tbl.set 0 g.loopEnd k (stBits x 51 5), pc := g.pc + 1 })
  ∧ engineStep 0xA .amode
    (fun x s => stBits x 32 20 = 0 ∧ stBits x 57 1 = 0 ∧ ∃ d b c, (engineOf x s).src = .tensor d b c ∧ stBits x 52 3 < tdNdim d
      ∧ ((stBits x 55 2 = 1 ∧ 1 ≤ stBits x 0 32 ∧ stBits x 0 32 ≤ tdCnt d (stBits x 52 3))
        ∨ (stBits x 55 2 = 2 ∧ 2 ^ Nat.log2 (tdCnt d (stBits x 52 3)) = tdCnt d (stBits x 52 3)) ∨ stBits x 55 2 = 0))
    (fun x _ g =>
      let m : IdxMode := if stBits x 55 2 = 1 then ⟨1, stBits x 0 32⟩ else if stBits x 55 2 = 2 then ⟨2, 0⟩ else {}
      past { g with srcMode := Tbl.set {} g.srcMode (stBits x 52 3) m })
  ∧ engineStep 5 .waitt
    (fun x s => stBits x 48 9 = 0 ∧ s.engineTally x.core (stBits x 32 16) = true)
    (fun x s g =>
      let target : BitVec 32 := BitVec.ofNat 32 (stBits x 0 32) + (if stBits x 57 1 = 1 then g.arg else 0#32)
      if tallyReached (s.tally (stBits x 32 16)).count target then past g
      else { g with state := .wait, wait := .tally (stBits x 32 16) target, waitStart := s.auditAir })
  ∧ engineStep 0x3F .streamEnd
    (fun x s => stBits x 0 58 = 0 ∧ ∀ k < 4, Tbl.get none (engineOf x s).handles k = none)
    (fun _ _ g => { g with state := .ended, wait := .none })

/-- R181, R182, R189 to R191, Table 8.3: TADD adds to a Tally of the Court, HGET takes the oldest handle of a queue or waits, HPUT enqueues its handle and
clears it, TAGSET sets the tag counter, STATS the statistics mode. R177, Table 8.3: the faults of stream instructions, each with its reason. -/
def Obligations.StreamTalliesHandlesAndFaults : Prop :=
  (
  (∀ (x : StreamIssue) (s : State), engages x s → streamOpc x = 6 → stBits x 48 10 = 0 → s.tallyOwned x.core (stBits x 32 16) = true → isSymbolTally (stBits x 32 16) = false →
    ∃ t, exec (.streamTadd x) s = .next t ∧ engineOf x t = past (engineOf x s) ∧ onlyEngine x s t
      ∧ (t.tally (stBits x 32 16)).count = (s.tally (stBits x 32 16)).count + BitVec.ofNat 32 (stBits x 0 32)
      ∧ (∀ i, i ≠ stBits x 32 16 → t.tally i = s.tally i))
  ∧ (∀ (x : StreamIssue) (s : State), engages x s → streamOpc x = 7 → stBits x 0 48 = 0 →
    let c := s.core x.core
    let k := stBits x 56 2
    let q := queueKey c.curCtx.court (stBits x 48 8)
    (s.hqueue q).live = true → Tbl.get none (engineOf x s).handles k = none → s.holdPermitted c.curCtx.job (s.hqueue q).pool = true →
    ∃ t, exec (.hget x) s = .next t ∧ onlyEngine x s t
      ∧ ((s.hqueue q).items = [] → engineOf x t = { engineOf x s with state := .wait, wait := .handle k q, waitStart := s.auditAir })
      ∧ (∀ h r, (s.hqueue q).items = h :: r → engineOf x t = past { engineOf x s with handles := Tbl.set none (engineOf x s).handles k (some ((s.hqueue q).pool, h)) }
          ∧ (t.hqueue q).items = r ∧ Tbl.get 0 t.heldBy (handleKey (s.hqueue q).pool h) = c.curCtx.job))
  ∧ (∀ (x : StreamIssue) (s : State) (p h : Nat), engages x s → streamOpc x = 8 → stBits x 0 48 = 0 →
    let c := s.core x.core
    let k := stBits x 56 2
    let q := queueKey c.curCtx.court (stBits x 48 8)
    (s.hqueue q).live = true → Tbl.get none (engineOf x s).handles k = some (p, h) → (s.hqueue q).pool = p →
    Tbl.get 0 s.heldBy (handleKey p h) = c.curCtx.job →
    ∃ t, exec (.hput x) s = .next t ∧ onlyEngine x s t
      ∧ engineOf x t = past { engineOf x s with handles := Tbl.set none (engineOf x s).handles k none }
      ∧ (t.hqueue q).items = (s.hqueue q).items ++ [h] ∧ Tbl.get 0 t.heldBy (handleKey p h) = 0)
  ∧ (∀ (x : StreamIssue) (s : State), engages x s → streamOpc x = 9 → stBits x 7 51 = 0 → (stBits x 6 1 = 1 ∨ stBits x 0 6 ≠ 0) →
    ∃ t, exec (.tagset x) s = .next t ∧ engineOf x t = past (engineOf x s) ∧ onlyEngine x s t
      ∧ (t.core x.core).tagCtr (s.physEngine x.core x.engine)
          = (if stBits x 6 1 = 1 then (s.core x.core).tagCtr (s.physEngine x.core x.engine) else stBits x 0 6))
  ∧ (∀ (x : StreamIssue) (s : State), engages x s → streamOpc x = 0xB → stBits x 0 47 = 0 → stBits x 48 8 = 0 → stBits x 56 2 ≤ 2 →
    ∃ t, exec (.stats x) s = .next t ∧ engineOf x t = past { engineOf x s with statMode := stBits x 56 2 } ∧ onlyEngine x s t
      ∧ (stBits x 47 1 = 1 → t.get (0x8000 + x.core.val) (0x40 + 2 * x.engine.val) = 0
        ∧ t.blobAt (0x8000 + x.core.val) (0x41 + 2 * x.engine.val) = List.replicate 2048 0#8)))
  ∧ (
  (∀ read ext, ∀ mk ∈ streamInstrs read ext, ∀ (x : StreamIssue) (s : State), engineRuns x s →
    let g := engineOf x s
    let r := if 32 ≤ g.pc then 2 else if inProgram x s = false then 3 else 0x0C
    (32 ≤ g.pc ∨ inProgram x s = false ∨ x.ecc = .uncorrectable) →
      ∃ t, exec (mk x) s = .next t ∧ (t.core x.core.val).curCtx.evtCause = 0x22#32
        ∧ (t.core x.core.val).curCtx.evtInfo = BitVec.ofNat 32 (0x30000 + x.engine.val * 256 + r) ∧ (t.core x.core.val).jobMode = false)
  ∧ engineRaises .streamNop 1 (fun x _ => x.word ≠ 0#64)
  ∧ (∀ ext, engineRaises (fun x => .bind x ext) 3 (fun x _ => streamOpc x = 1 ∧ stBits x 48 5 = 0 ∧ stBits x 55 2 ≤ 1 ∧ stBits x 0 48 % 64 ≠ 0))
  ∧ engineRaises .sym 3 (fun x s => streamOpc x = 2 ∧ stBits x 16 2 = 0 ∧ s.carrierCourt (stBits x 53 5) ≠ (s.core x.core).curCtx.court)
  ∧ (∀ read ext, engineRaises (fun x => .move x read ext) 4 (fun x s => streamOpc x = 3 ∧ stBits x 32 26 = 0 ∧ convOk (sideType (engineOf x s).src) (sideType (engineOf x s).dst) = false))
  ∧ (∀ ext, engineRaises (fun x => .move x .uncorrectable ext) 0x0C
      (fun x s => streamOpc x = 3 ∧ stBits x 32 26 = 0 ∧ convOk (sideType (engineOf x s).src) (sideType (engineOf x s).dst) = true))
  ∧ engineRaises .streamLoop 1 (fun x s => stBits x 51 5 < (engineOf x s).pc)
  ∧ engineRaises .waitt 6 (fun x s => streamOpc x = 5 ∧ stBits x 48 9 = 0 ∧ s.engineTally x.core (stBits x 32 16) = false)
  ∧ engineRaises .streamTadd 6 (fun x s => streamOpc x = 6 ∧ stBits x 48 10 = 0 ∧ isSymbolTally (stBits x 32 16) = true)
  ∧ engineRaises .hget 6 (fun x s => streamOpc x = 7 ∧ stBits x 0 48 = 0 ∧ (s.hqueue (queueKey (s.core x.core).curCtx.court (stBits x 48 8))).live = false)
  ∧ engineRaises .hput 5 (fun x s => streamOpc x = 8 ∧ stBits x 0 48 = 0 ∧ Tbl.get none (engineOf x s).handles (stBits x 56 2) = none)
  ∧ engineRaises .amode 1 (fun x s => stBits x 57 1 = 0 ∧ (engineOf x s).src = .none)
  ∧ engineRaises .streamEnd 0x0B (fun x s => streamOpc x = 0x3F ∧ stBits x 0 58 = 0 ∧ ∃ k < 4, (Tbl.get none (engineOf x s).handles k).isSome = true))

/-- R178, Table 8.5: a MOVE of one element between tensors of one type in the core's own memory copies its bytes; of one CI8 element to CI16 it widens
both parts; both positions advance, and no other byte of memory changes. -/
def Obligations.MoveCopiesAndWidens : Prop :=
  ∀ (x : StreamIssue) (s : State) (read : EccFind) (ext : List Byte) (d d2 : BitVec 512) (b b2 c c2 : Nat), engages x s → streamOpc x = 3 → read ≠ .uncorrectable → stBits x 32 26 = 0 → stBits x 0 32 = 1 →
    let n := x.core.val
    let g := engineOf x s
    let a := unitAddr d b g.srcMode g.srcPos
    let a2 := unitAddr d2 b2 g.dstMode g.dstPos
    let z := etSize (tdType d)
    let z2 := etSize (tdType d2)
    g.src = .tensor d b c → g.dst = .tensor d2 b2 c2 → g.srcPos < tdTotal d → g.dstPos < tdTotal d2 → g.statMode = 0 → tdType d ≤ 9 →
    (tdType d2 = tdType d ∨ (tdType d = 4 ∧ tdType d2 = 5)) →
    inOwnMemory n a z = true → inCtxWindow (s.core n) n (s.core n).cur a z = true → inOwnMemory n a2 z2 = true →
    inCtxWindow (s.core n) n (s.core n).cur a2 z2 = true →
    ∃ t, exec (.move x read ext) s = .next t
      ∧ (engineOf x t).srcPos = g.srcPos + 1 ∧ (engineOf x t).dstPos = g.dstPos + 1 ∧ (engineOf x t).pc = g.pc + 1 ∧ (engineOf x t).state = .run
      ∧ (a2 % 128 + z2 ≤ 128 → (engineOf x t).lines = g.lines + 1)
      ∧ (tdType d2 = tdType d → memNat t.mem z2 a2 = memNat s.mem z a)
      ∧ (tdType d = 4 → tdType d2 = 5 → partRe 5 (memNat t.mem z2 a2) = partRe 4 (memNat s.mem z a) ∧ partIm 5 (memNat t.mem z2 a2) = partIm 4 (memNat s.mem z a))
      ∧ (∀ i, i < a2 ∨ a2 + z2 ≤ i → memByte t.mem i = memByte s.mem i) ∧ onlyEngine x s t

/-- R176, R190, R192, R290: LINE_ACK returns the credit of the oldest outstanding line; HANDLE_GRANT gives the oldest handle of the queue to the HGET that
waits for it while its context runs; a Tally wait of an engine that reaches WATCHDOG fences its job with WATCHDOG; a hold that reaches EXCL_BOUND
fences its holder with HOLD and leaves its Tallies abandoned. -/
def Obligations.CreditsGrantsAndWatchdogs : Prop :=
  (∀ (core : Fin 64) (slot e : Fin 4) (ext : List Byte) (s : State) (p : Nat) (r : List Nat),
    let g := s.engine core slot e
    g.outstanding = p :: r → g.state ≠ .wait →
    ∃ t, exec (.lineAck core slot e ext) s = .next t ∧ t.engine core slot e = { g with outstanding := r }
      ∧ Tbl.get 0 t.credits p = Tbl.get 0 s.credits p - 1 ∧ (∀ q, q ≠ p → Tbl.get 0 t.credits q = Tbl.get 0 s.credits q)
      ∧ (∃ k c, t = { s with cores := k, credits := c }) ∧ frame core [0x100] s t)
  ∧ (∀ (core : Fin 64) (slot e : Fin 4) (s : State) (hk q h : Nat) (r : List Nat),
    let g := s.engine core slot e
    let p := (s.hqueue q).pool
    g.state = .wait → g.wait = .handle hk q → g.paused = false → s.coresStopped = false → (s.core core).jobMode = true → (s.core core).cur = slot.val →
    (s.hqueue q).items = h :: r →
    ∃ t, exec (.handleGrant core slot e) s = .next t ∧ Tbl.get none (t.engine core slot e).handles hk = some (p, h)
      ∧ (t.engine core slot e).state = .run ∧ (t.hqueue q).items = r ∧ Tbl.get 0 t.heldBy (handleKey p h) = ((s.core core).ctx slot).job
      ∧ frame core [0x100] s t)
  ∧ (∀ (core : Fin 64) (slot e : Fin 4) (s : State) (t0 : Nat) (target : BitVec 32),
    let g := s.engine core slot e
    let j := ((s.core core).ctx slot).job
    s.cut = false → g.state = .wait → g.wait = .tally t0 target → s.waitExpired g.waitStart = true → tallyReached (s.tally t0).count target = false → j ≠ 0 → fenceable s j → sitsAt s j core slot →
    ∃ t, exec (.watchdogExpiry (.engine core slot e)) s = .next t ∧ nowFenced t j 0x23 ∧ (t.job j).fenceInfo % 2 ^ 32 = j % 2 ^ 32)
  ∧ (∀ (i : BitVec 16) (s : State) (n k : Nat),
    let j := (s.tally i.toNat).holder
    j ≠ 0 → s.cut = false → (usToTc ((s.forOf (s.job j)).get (0x3000 + (s.job j).court) 5) : Int) ≤ airDiff (s.tally i.toNat).since (s.tb (s.job j).tb).tc →
    fenceable s j → sitsAt s j n k →
    ∃ t, exec (.holdBoundExpiry i) s = .next t ∧ nowFenced t j 0x40 ∧ (t.tally i.toNat).holder = 0 ∧ (t.tally i.toNat).abandoned = true
      ∧ (t.tally i.toNat).count = (s.tally i.toNat).count)

/-- R31, R201, R271 to R274, R279: JOB_RELEASE counts a customer job as SUBMITTED in its epoch and places or queues it; JOB_COMPLETION samples its
deadline and counts a late job once; CONTEXT_SLOT_FREE starts the chosen ready context at its entry; SLICE_END asks for a TILE stop. R276 to R278,
R289: SWAP_OUT copies the records of the earliest waiter to a free Bench page and frees its slot; SWAP_IN brings a runnable context back into a free
slot with its records; TACQ_GRANT lets the held TACQ of the earliest waiter issue, which then holds the Tally. -/
def Obligations.JobsOnCores : Prop :=
  (
  (∀ (id : BitVec 32) (s : State),
    let j := id.toNat
    let y := s.job j
    y.live = true → y.state = .waiting → y.kind = 0x20 → y.order = 0 → y.deps = [] → y.court < 16 → s.cut = false →
    s.reached y.tb (s.tcOf y.tb y.release) = true →
    ∃ t, exec (.jobRelease id none) s = .next t ∧ ((t.job j).state = .ready ∨ (t.job j).state = .resident ∨ (t.job j).state = .running)
      ∧ (t.job j).epoch = s.epochOf y.court ∧ t.get (0x3020 + y.court) 1 = (s.get (0x3020 + y.court) 1 + 1) % 2 ^ 32)
  ∧ (∀ (id : BitVec 32) (l : List UserReport) (s : State),
    let j := id.toNat
    let y := s.job j
    let late := match y.deadline with
      | some p => decide (airDiff (s.sample y.tb .completion j) (s.tcOf y.tb p) < 0)
      | none => false
    y.live = true → y.state = .running → y.kind = 0x20 → y.done = false → y.court < 16 →
    ∃ t, exec (.jobCompletion id l) s = .next t ∧ (t.job j).done = true ∧ (t.job j).doneAt = s.sample y.tb .completion j % airPeriod ∧ (t.job j).state = .running ∧ (t.job j).lateCounted = (late || y.lateCounted)
      ∧ t.get (0x3020 + y.court) 5 = (if late ∧ y.lateCounted = false then (s.get (0x3020 + y.court) 5 + 1) % 2 ^ 32 else s.get (0x3020 + y.court) 5)
      ∧ t.cores = s.cores)
  ∧ (∀ (core : Fin 64) (s : State) (k : Nat),
    let n := core.val
    s.readyJobs (s.coreCourt n) = [] → s.coresStopped = false → (s.core n).jobMode = false → (s.core n).fenced = false → s.nextCtx n = some k →
    ((s.core n).ctx k).state = .ready →
    ∃ t, exec (.contextSlotFree core) s = .next t ∧ (t.core n).jobMode = true ∧ (t.core n).cur = k ∧ (t.core n).curCtx.state = .running
      ∧ (t.core n).pc = BitVec.ofNat 48 ((s.core n).ctx k).entry ∧ (∀ i < 4, (t.core n).readLc i = 0#32) ∧ (t.core n).flags = 0#8 ∧ (t.core n).sticky = 0#8
      ∧ (t.core n).inflight = [] ∧ (∀ m, m ≠ n → t.core m = s.core m) ∧ (s.get 0x5300 0x0B ≠ 1 → memKept s t))
  ∧ (∀ (core : Fin 64) (s : State) (k : Nat),
    let c := s.core core
    let y := s.job c.curCtx.job
    c.jobMode = true → k < 4 → k ≠ c.cur → s.runnable core k = true → (s.job (c.ctx k).job).prio = y.prio → spansUs (s.get (0x3000 + y.court) 3) c.sliceStart s.clock = true →
    c.stop = none → ∃ t, exec (.sliceEnd core) s = .next t ∧ (t.core core).stop = some { tile := true } ∧ onlyCore s t ∧ frame core [] s t))
  ∧ (
  (∀ (core : Fin 64) (s : State) (k p : Nat),
    let n := core.val
    let x := (s.core n).ctx k
    s.swapVictim n = some k → s.benchFree.head? = some p → (∀ i < 4, ((s.core n).ctx i).state = .blocked) → s.wakers n ≠ [] → s.swapUsed x.court < s.get (0x3000 + x.court) 6 →
    ∃ t, exec (.swapOut core) s = .next t ∧ (t.core n).ctx k = {} ∧ t.swapped = s.swapped ++ [⟨n, p, x⟩] ∧ (t.job x.job).state = .swapped
      ∧ memBytes t.mem 0x8000 (0xA000000 + p * 65536) = memBytes s.mem 0x8000 (saveArea n k) ∧ Tbl.get 0 t.benchPages p = 0x20000
      ∧ (∀ i, i ≠ k → (t.core n).ctx i = (s.core n).ctx i))
  ∧ (∀ (core : Fin 64) (s : State) (k j : Nat) (w : Swapped) (b : Nat × Core),
    let n := core.val
    firstBy s.jobBefore ((s.returning n).map fun w => w.ctx.job) = some j → (s.core n).freeSlot = some k →
    (s.returning n).find? (fun w => w.ctx.job == j) = some w → w.ctx.state = .blocked → (s.core n).takeBank w.ctx.epoch = some b →
    (∀ i ∈ s.readyJobs (s.coreCourt n), s.usable n (s.job i) = true → s.jobBefore i j = false) → s.get 0x5300 0x0B ≠ 1 →
    ∃ t, exec (.swapIn core) s = .next t ∧ (t.core n).ctx k = { w.ctx with sfBank := BitVec.ofNat 32 b.1 } ∧ w ∉ t.swapped
      ∧ memBytes t.mem 0x8000 (saveArea n k) = memBytes s.mem 0x8000 (0xA000000 + w.page * 65536)
      ∧ (∀ a, a < saveArea n k ∨ saveArea n k + 0x8000 ≤ a → memByte t.mem a = memByte s.mem a))
  ∧ (∀ (i : BitVec 16) (s : State) (b : BitVec 64) (e : EccFind) (w : Waiter) (r : List Waiter),
    let n := w.core
    let c := s.core n
    let y := s.tally i.toNat
    y.waiters = w :: r → y.holder = 0 → s.coresStopped = false → w.slot = c.cur → c.jobMode = true → c.curCtx.started = true → c.curCtx.job ≠ 0 → c.held = true →
    c.bundle = [⟨.tacq, 3, b, e⟩] → c.run = {} → c.bubble = 0 → c.inflight = [] → c.fetchOk n 16 = true → (∀ k < 4, c.readLc k = 0#32 ∨ c.readLe k ≠ c.pc) →
    sylLegal .tacq 3 b = true → scalarOn c b = true → tallyNo s ⟨n, 3, b, e⟩ = i.toNat → s.tallyOwned n i.toNat = true → isSymbolTally i.toNat = false →
    ∃ t, exec (.tacqGrant i) s = .next t ∧ (t.tally i.toNat).holder = c.curCtx.job ∧ (t.tally i.toNat).abandoned = false
      ∧ (t.core n).readG (sylD b) = (if sylD b = 0 then 0#32 else if y.abandoned then 1#32 else 0#32)
      ∧ (t.core n).curCtx.excl = c.curCtx.excl + 1#32 ∧ (t.core n).held = false ∧ falls n s t ∧ frame n [sylD b, 0x100] s t))

/-- R13, R200, R218, R246, R262, R263, R379, R381: SO_ENTRY_READ takes the next announced entry: an order that meets every condition is accepted and held,
a malformed entry is counted; TB_READ_DONE enters an entry's data or marks it NOT_SENT with READ_FAIL; REPORT_CUTOFF and DL_REPORT_WRITE finish their
order when its record is due. R290, R393, R395: FENCE_DISPOSAL takes the oldest fenced job: its fence leaves FENCES, its descriptor is done, its
Tallies are abandoned and it counts in FENCED of its Court. -/
def Obligations.OrdersReportsAndDisposals : Prop :=
  (
  (∀ (f : Fin 16) (r : Fin 4) (entry body : List Byte) (s : State),
    let q := s.ring f (2 + r.val)
    let b := body.take (fieldOf entry 10 2)
    let smp := samplesFor q.samples q.dev
    let c := orCarrier b
    q.enabled = true → q.host ≠ q.dev → s.cut = false → s.injecting = false → s.get 0x31A0 9 = 0 → s.get 0x1001 6 ≠ 1 → entryReason entry body true = none →
    s.get 0x5300 0x0B ≠ 1 → s.carrierOk f c (orKind b == 2) = true → s.slotOk c (orSlot b) = true → 0 ≤ airDiff ((smp[s.carTb c]?).getD 0) (s.leadLimit b) →
    s.orderContentsOk b = true → s.isFenced 4 (s.carrierCourt c) = false →
    ∃ t, exec (.soEntryRead f r entry body true) s = .next t ∧ (t.ring f (2 + r.val)).dev = q.dev + 1#32 ∧ t.nextOrder = s.nextOrder + 1
      ∧ (let o := t.order s.nextOrder; o.live = true ∧ o.body = b ∧ o.func = f.val ∧ o.ring = r.val
          ∧ (orKind b = 1 ∨ orKind b = 2 ∨ orKind b = 3 → o.kind = orKind b))
      ∧ (∀ i, i ≠ s.nextOrder → t.order i = s.order i) ∧ t.cores = s.cores ∧ memKept s t)
  ∧   (∀ (f : Fin 16) (r : Fin 4) (entry body : List Byte) (readable : Bool) (s : State) (reason : Nat),
    let q := s.ring f (2 + r.val)
    q.enabled = true → q.host ≠ q.dev → s.cut = false → s.injecting = false → s.get 0x31A0 9 = 0 → s.get 0x1001 6 ≠ 1 → entryReason entry body readable = some reason →
    ∃ t, exec (.soEntryRead f r entry body readable) s = .next t ∧ (t.ring f (2 + r.val)).dev = q.dev + 1#32 ∧ (t.ring f (2 + r.val)).host = q.host
      ∧ t.get (0x2410 + f.val) 3 = (s.get (0x2410 + f.val) 3 + 1) % 2 ^ 32 ∧ t.jobs = s.jobs ∧ t.orders = s.orders ∧ memKept s t)
  ∧ (∀ (c : Fin 32) (slot : BitVec 64) (u : BitVec 6) (data weights : List Byte) (ok : Bool) (s : State) (e : Nat × Order),
    s.orders.find? (fun e => e.2.live && e.2.kind == 2 && e.2.carrier == c.val && orSlot e.2.body == slot.toNat) = some e →
    e.2.ready.contains u.toNat = false → e.2.readFail.contains u.toNat = false → u.toNat < orCount e.2.body →
    e.2.capacity.contains u.toNat = false →
    (ok = true → s.readOk e.2 u.toNat data = true →
      ∃ t, exec (.tbReadDone c slot u data weights ok) s = .next t ∧ u.toNat ∈ (t.order e.1).ready ∧ Tbl.get [] (t.order e.1).data u.toNat = data
        ∧ Tbl.get [] (t.order e.1).weights u.toNat = s.readWeights c (e.2.user u.toNat) weights
        ∧ t.cores = s.cores ∧ memKept s t ∧ (isSignal (e.2.user u.toNat) = false → ∃ o j, t = { s with orders := o, jobs := j }))
    ∧ (ok = false → ∃ t, exec (.tbReadDone c slot u data weights ok) s = .next t ∧ u.toNat ∈ (t.order e.1).readFail
        ∧ (∀ w ∈ (t.order e.1).words, w.user = u.toNat → w.status = 1 ∧ w.cause = 7 ∧ w.ended = true) ∧ memKept s t))
  ∧ (∀ (id : BitVec 32) (s : State),
    let j := id.toNat
    let y := s.job j
    y.live = true → y.kind = 6 → y.state = .running → (s.order y.order).live = true → s.reached y.tb (s.cutoff (s.order y.order).body) = true →
    (∀ w ∈ (s.order y.order).words, w.ended = true) →
    ∃ t, exec (.reportCutoff id) s = .next t ∧ (t.order y.order).live = false ∧ ((t.job j).live = true → (t.job j).state = .completed) ∧ t.cores = s.cores)
  ∧ (∀ (id : BitVec 32) (s : State),
    let j := id.toNat
    let y := s.job j
    y.live = true → y.kind = 0x14 → y.state = .running → (s.order y.order).live = true →
    ∃ t, exec (.dlReportWrite id) s = .next t ∧ (t.order y.order).live = false ∧ ((t.job j).live = true → (t.job j).state = .completed) ∧ t.cores = s.cores))
  ∧ (
  (∀ (s : State), s.fenceQueue = [] → exec .fenceDisposal s = .next s)
  ∧ (∀ (s : State) (j : Nat) (r : List Nat),
    let y := s.job j
    s.fenceQueue = j :: r → j ≠ 0 → y.kind = 0x20 → y.core = 0xFF → y.court < 16 → (s.order y.order).live = false →
    (∀ e ∈ s.heldBy, e.2 ≠ j ∧ Tbl.get 0 s.handleFrom e.1 ≠ j) → (∀ e ∈ s.queues, j ∉ e.2.from_) →
    ∃ t, exec .fenceDisposal s = .next t ∧ (∀ x ∈ t.fences, x.grain = 0 → x.job ≠ j) ∧ (t.job j).live = (s.job j).lost ∧ (t.job j).done = true
      ∧ t.fenceQueue = r ∧ t.get (0x3020 + y.court) 4 = (s.get (0x3020 + y.court) 4 + 1) % 2 ^ 32
      ∧ (∀ i, (s.tally i).holder = j → (t.tally i).holder = 0 ∧ (t.tally i).abandoned = true)))

/-- R299 to R301, R306: a port that is UP takes DATA flits in order, answers a bad or early one with one NAK, and resends from a NAK; a port that loses
its lanes trains again, the third time within 1 s fenced; training ends UP or in MISMATCH; PORT_RETRAIN lifts the fence; TIME flits give LINK_DELAY. -/
def Obligations.LinkLayer : Prop :=
  (∀ (p : Fin 8) (f : List Byte) (s : State), s.mportState p = 2 →
    let x := s.mport p
    (flitOk f = true → flitUnknown f = false → flNat f 60 4 = 1 → flNat f 34 1 = 0 → flNat f 36 12 = x.expect →
      ∃ t, exec (.flitRx p f) s = .next t ∧ (t.mport p).expect = (x.expect + 1) % 4096 ∧ (t.mport p).nakSent = false ∧ t.cores = s.cores ∧ t.mem = s.mem ∧ t.tallies = s.tallies)
    ∧ (flitOk f = false → x.nakSent = false → (recent (s.tb 0).tc 1966080 x.retries).length < s.get 0x2600 0x0B →
      ∃ t, exec (.flitRx p f) s = .next t ∧ (t.mport p).nakSent = true ∧ (t.mport p).expect = x.expect ∧ t.mportState p = 2
      ∧ t.get (mpIx p) 7 = (s.get (mpIx p) 7 + 1) % 2 ^ 32 ∧ t.cores = s.cores)
    ∧ (flitOk f = false → x.nakSent = true → exec (.flitRx p f) s = .next s))
  ∧ (∀ (p : Fin 8) (seq : BitVec 12) (s : State) (i : Nat), s.mportState p = 2 → (s.mport p).replay.findIdx? (fun e => e.1 == seq.toNat) = some i →
    ∃ t, exec (.nakRx p seq) s = .next t ∧ (t.mport p).replay = (s.mport p).replay.drop i ∧ t.out.length = s.out.length + ((s.mport p).replay.drop i).length
      ∧ (t.mport p).credits = (s.mport p).credits ∧ t.cores = s.cores)
  ∧ (∀ (p : Fin 8) (s : State), (s.mportState p = 2 ∨ s.mportState p = 4) →
    let l := recent (s.tb 0).tc 1966080000 (s.mport p).trains
    (l.length < 2 → ∃ t, exec (.laneLockLoss p) s = .next t ∧ t.mportState p = 1 ∧ t.get (mpIx p) 8 = (s.get (mpIx p) 8 + 1) % 2 ^ 32 ∧ (t.mport p).replay = [] ∧ t.cores = s.cores)
    ∧ (2 ≤ l.length → s.isFenced 6 p = false → ∃ t, exec (.laneLockLoss p) s = .next t ∧ t.mportState p = 3 ∧ ∃ x ∈ t.fences, x.grain = 6 ∧ x.object = p.val ∧ x.cause = 0x47))
  ∧ (∀ (p : Fin 8) (c q : BitVec 8) (s : State), s.mportState p = 1 → s.get (mpIx p) 1 = 1 →
    let bad := (s.get (mpIx p) 2 ≠ 0xFF ∧ s.get (mpIx p) 2 ≠ c.toNat) ∨ (s.get (mpIx p) 3 ≠ 0xFF ∧ s.get (mpIx p) 3 ≠ q.toNat) ∨ (s.chip ≠ 0xFF ∧ s.chip = c.toNat)
    ∃ t, exec (.retrainDone p c q) s = .next t ∧ (bad → t.mportState p = 4) ∧ (¬ bad → t.mportState p = 2) ∧ (t.mport p).peer = c.toNat ∧ (t.mport p).expect = 0 ∧ t.cores = s.cores)
  ∧ (∀ (p : Fin 8) (s : State), s.get (mpIx p) 1 = 1 →
    ∃ t, exec (.portRetrain p) s = .next t ∧ t.mportState p = 1 ∧ t.isFenced 6 p = false ∧ t.cores = s.cores)
  ∧ (∀ (p : Fin 8) (rt ta : BitVec 32) (s : State), s.mportState p = 2 →
    let d : Int := ((rt.toNat : Int) - ta.toNat) / 2 + asI32 (s.get (mpIx p) 6)
    ∃ t, exec (.timeFlit p rt ta) s = .next t ∧ t.get (mpIx p) 5 = (d % 2 ^ 32).toNat ∧ (∃ o, t = { s with obj := o }))

/-- R314, R315, R317: heartbeats keep a member heard, and one that the coordinator has not heard for LOST_TIMEOUT, or the coordinator itself unheard, is
LOST, its slice fenced where this chip coordinates; PREPARE is held and voted on, no where a write is not valid; votes and retractions are noted, and
at S − 500 µs a missing vote decides ABORT. -/
def Obligations.MembersAndVotes : Prop :=
  (∀ (c : Fin 24) (s : State), live s → (s.get 0x2600 5).testBit c = true →
    ∃ t, exec (.memberHeartbeat (some c)) s = .next t ∧ Tbl.get 0 t.mgl.heard c = s.clock + 1 ∧ t.get (0x2640 + c.val) 3 = s.airNow s.sysTb
      ∧ (∀ i, i ≠ c.val → Tbl.get 0 t.mgl.heard i = Tbl.get 0 s.mgl.heard i) ∧ t.cores = s.cores ∧ t.mem = s.mem)
  ∧ (∀ (c : Fin 24) (s : State), (s.get 0x2600 5).testBit c = true → c.val ≠ s.chip → s.memberState c ≠ 3 →
    (s.actingCoordinator = some s.chip ∨ s.actingCoordinator = some c.val) → Tbl.get 0 s.mgl.heard c ≠ 0 →
    spansUs (s.get 0x2600 0x0A) (((Tbl.get 0 s.mgl.heard c : Nat) : Int) - 1) s.clock = true →
    (((s.put (0x2640 + c.val) 1 3).actingCoordinator ≠ some s.chip ∨ (s.get 0x2600 5).testBit s.chip = false) →
      exec (.lostTimeout c) s = .next (s.put (0x2640 + c.val) 1 3))
    ∧ ((s.put (0x2640 + c.val) 1 3).actingCoordinator = some s.chip → (s.get 0x2600 5).testBit s.chip = true →
      ∃ t, exec (.lostTimeout c) s = .next t ∧ t.isFenced 10 c = true ∧ t.memberState c = 3))
  ∧ (∀ (coord : Fin 24) (rally : BitVec 32) (court : BitVec 8) (tb : Fin 8) (serve : BitVec 64) (parts : BitVec 24) (writes : List RallyWrite) (digest : List Byte)
      (aligned : Bool) (s : State), live s → parts.toNat.testBit s.chip = true → s.voteRally rally.toNat = none →
    ∃ t r, exec (.prepare coord rally court tb serve parts writes digest aligned) s = .next t ∧ r ∈ t.rallies ∧ r.id = rally.toNat + 2 ^ 32 ∧ r.state = .committed ∧ r.coord = coord.val
      ∧ r.serve = serve.toNat ∧ r.tb = tb.val ∧ r.parts = parts.toNat ∧ r.staged = stagedWrites writes ∧ r.vote.isSome = true
      ∧ (writes.all writeOk = false → r.vote = some false) ∧ t.cores = s.cores)
  ∧ (∀ (c : Fin 24) (rally : BitVec 32) (yes : Bool) (s : State) (r : Rally), live s → s.voteRally rally.toNat = some r → s.undecided r = true → r.parts.testBit c = true →
    (r.yes ||| r.noes).testBit c = false → (r.yes ||| r.noes ||| 2 ^ c.val) &&& r.parts ≠ r.parts →
    ∃ t, exec (.voteRx c rally yes) s = .next t ∧ (∃ l, t = { s with rallies := l })
      ∧ ∀ x ∈ t.rallies, x.id = r.id → x.yes = (if yes then r.yes ||| 2 ^ c.val else r.yes) ∧ x.noes = (if yes then r.noes else r.noes ||| 2 ^ c.val) ∧ x.decision = none)
  ∧ (∀ (c : Fin 24) (rally : BitVec 32) (s : State) (r : Rally), live s → s.voteRally rally.toNat = some r → s.undecided r = true → r.parts.testBit c = true →
    ∃ t, exec (.retract rally (some c)) s = .next t ∧ (∃ l, t = { s with rallies := l }) ∧ ∀ x ∈ t.rallies, x.id = r.id → x.noes.testBit c = true)
  ∧ (∀ (rally : BitVec 32) (s : State) (r : Rally), s.voteRally rally.toNat = some r → s.undecided r = true → s.beforeServe r 500 = true → r.yes &&& r.parts ≠ r.parts →
    s.rallyOf r.id = some r →
    ∃ t, exec (.voteDeadline rally) s = .next t ∧ t.get 0x2600 0x0E = (s.get 0x2600 0x0E + 1) % 2 ^ 32
      ∧ (∀ x ∈ t.rallies, x.id = r.id → x.state = .rolledBack ∧ x.cause = 7 ∧ x.decision = some false) ∧ t.cores = s.cores)

/-- R315: a participant takes the coordinator's decision; an acknowledgement is noted; a query is answered with what the chip holds; at S − 20 µs a
participant without a decision commits when a reply was COMMIT and else aborts, leaving the membership if nobody answered. -/
def Obligations.Decisions : Prop :=
  (∀ (rally : BitVec 32) (s : State) (r : Rally), live s → s.voteRally rally.toNat = some r → r.pending = true → r.decision = none → s.rallies = [r] →
    (∃ t, exec (.decisionRx rally true) s = .next t ∧ (∀ x ∈ t.rallies, x.state = .frozen ∧ x.decision = some true ∧ x.staged = r.staged) ∧ t.rallies.length = 1 ∧ t.cores = s.cores)
    ∧ (∃ t, exec (.decisionRx rally false) s = .next t ∧ (∀ x ∈ t.rallies, x.state = .rolledBack ∧ x.cause = 7) ∧ t.rallies.length = 1 ∧ t.cores = s.cores))
  ∧ (∀ (rally : BitVec 32) (acks : BitVec 24) (s : State) (r : Rally) (d : Bool), s.voteRally rally.toNat = some r → r.decision = some d → r.coord = s.chip →
    ∃ t, exec (.decisionRepeat rally acks) s = .next t ∧ (∀ x ∈ t.rallies, x.id = r.id → x.acks = r.acks ||| acks.toNat) ∧ t.cores = s.cores)
  ∧ (∀ (rally : BitVec 32) (c : Fin 24) (s : State), live s →
    exec (.decisionQuery rally (some c)) s = .next (s.toChips (2 ^ c.val) 6 (msgReply rally.toNat ((s.voteRally rally.toNat).any fun r => r.decision == some true))))
  ∧ (∀ (rally : BitVec 32) (l : List (Fin 24 × Bool)) (s : State) (r : Rally), s.voteRally rally.toNat = some r → r.pending = true → r.decision = none → s.beforeServe r 20 = true → s.rallies = [r] →
    ((∃ x ∈ l, r.parts.testBit x.1 = true ∧ x.2 = true) →
      ∃ t, exec (.queryCutoff rally l) s = .next t ∧ ∀ x ∈ t.rallies, x.state = .frozen ∧ x.decision = some true)
    ∧ (l = [] → ∃ t, exec (.queryCutoff rally l) s = .next t ∧ (∀ x ∈ t.rallies, x.state = .aborted ∧ x.cause = 7) ∧ t.get 0x2600 0x0D = 1))

/-- R21, R308, R310, R311: a chip at home adds a unit's sums exactly, element by element, and its mask; a unit given up counts its missing members and
loses the job that waits for it with MEMBER_LOST; a remote access unanswered faults its engine with reason 0x0C. R196, R197: AUDIT_EDGE counts an
audit, and an imbalance in IMBALANCES; one found twice enters LAST_IMBALANCE and gets a remedy; REMEDY re-initialises the credits of a destination
port and counts itself. -/
def Obligations.ReductionsRemoteAccessAndAudits : Prop :=
  (
  (∀ (src : Fin 24) (u : RedUnit) (s : State) (e : RedHeld), s.get 0x2600 5 ≠ 0 → s.get 0x2600 0x0D ≠ 1 → s.mgl.units = [e] →
    e.is u.carrier u.sym.toNat u.chunk.toNat u.kind.toNat u.home = true → e.done = false → src.val ∉ e.via → (src.val = s.chip ∨ src.val ∈ e.kids) → s.isFenced 10 s.chip = false →
    u.home.val = s.chip →
    ∃ t x, exec (.reductionUnitRx src u) s = .next t ∧ t.mgl.units = [x] ∧ x.mask = e.mask ||| u.mask.toNat ∧ x.via = e.via ++ [src.val] ∧ (x.done = true ↔ x.mask = e.members)
      ∧ x.sums = addSums e.sums u.sums ∧ (∃ m, t = { s with mgl := m }))
  ∧ (∀ (carrier : Fin 32) (sym : BitVec 32) (chunk kind : BitVec 8) (home : Fin 24) (s : State) (e : RedHeld) (j : Nat) (d : Nat), s.mgl.units = [e] →
    e.is carrier sym.toNat chunk.toNat kind.toNat home = true → e.done = false → home.val = s.chip → s.unitJob carrier sym.toNat chunk.toNat kind.toNat = some j →
    (s.job j).deadline = some d → s.reached (s.job j).tb (s.tcOf (s.job j).tb d) = true →
    ∃ t, exec (.reductionAbandon carrier sym chunk kind home) s = .next t ∧ (t.job j).lost = true ∧ (t.job j).done = true ∧ (t.job j).cause = 0x49 ∧ t.mgl.units = []
      ∧ (∀ q < 24, t.get (0x2640 + q) 4 = if e.members.testBit q ∧ e.mask.testBit q = false then (s.get (0x2640 + q) 4 + 1) % 2 ^ 32 else s.get (0x2640 + q) 4) ∧ t.cores = s.cores)
  ∧ (∀ (core : Fin 64) (slot e : Fin 4) (s : State) (p : Nat) (r : List Nat),
    let j := ((s.core core).ctx slot).job
    (s.engine core slot e).outstanding = p :: r → 128 ≤ p → fenceable s j →
    ∃ t, exec (.remoteAccessTimeout core slot e) s = .next t ∧ nowFenced t j 0x22 ∧ (t.job j).fenceInfo = 0x3000C + e.val * 256 ∧ Tbl.get 0 t.credits p = Tbl.get 0 s.credits p - 1))
  ∧ (
  (∀ (l : List (Fin 8 × Fin 4 × Int)) (s : State),
    let n := s.get 0x3191 1 % 8
    s.cut = false → (s.tb n).enabled = true → s.audit.last = none →
    ∃ t, exec (.auditEdge l) s = .next t ∧ t.audit.last = some (n, s.symbolStart n) ∧ t.get 0x3191 2 = (s.get 0x3191 2 + 1) % 2 ^ 32
      ∧ t.get 0x3191 3 = (if s.imbalances l = [] then s.get 0x3191 3 else (s.get 0x3191 3 + 1) % 2 ^ 32)
      ∧ (∀ i d, (i, d) ∈ s.imbalances l → i ∈ t.audit.found)
      ∧ (∀ i d, s.imbalances l = [(i, d)] → i ∈ s.audit.found → s.audit.due = [] → ∃ b, t.audit.due = [(i, n, b)]) ∧ t.cores = s.cores)
  ∧ (∀ (s : State) (p n b : Nat), s.cut = false → s.audit.due = [(⟨1, p⟩, n, b)] → s.reached n b = true → s.bookHolders ⟨1, p⟩ = [] →
    ∃ t, exec .remedy s = .next t ∧ Tbl.get 0 t.credits p = 0 ∧ t.get 0x3191 4 = (s.get 0x3191 4 + 1) % 2 ^ 32 ∧ t.audit.due = [] ∧ t.mem = s.mem))

/-- R185, R369, R370: the opening of a reception window writes the slot's header and clears its presence map; its close releases the symbol's jobs; a
U-plane message before the window, behind it, of no carrier or for a unit that is present counts and changes no memory; one in the window is stored
and its presence bit set; a delay request is answered. -/
def Obligations.FronthaulReception : Prop :=
  (∀ (c : Fin 32) (sym : BitVec 32) (s : State), s.carUl c = true → (s.tb (s.carTb c)).enabled = true → s.passed (s.carTb c) (s.ulOpen c sym.toNat) = true →
    s.passed (s.carTb c) (s.ulClose c sym.toNat) = false →
    ∃ t, exec (.rxWindowOpen c sym) s = .next t ∧ t.slotSymbol c false sym.toNat = sym.toNat
      ∧ (s.slotSymbol c false sym.toNat ≠ sym.toNat → ∀ a < s.localPorts c, ∀ u < s.car c 3, t.present c false sym.toNat a u = false) ∧ (∃ m g, t = { s with mem := m, tags := g }))
  ∧ (∀ (c : Fin 32) (sym : BitVec 32) (s : State) (j : Nat), s.cut = false → s.carUl c = true → s.passed (s.carTb c) (s.ulClose c sym.toNat) = true →
    ((s.jobs.filter fun e => e.2.live && e.2.state == .waiting && decide (1 ≤ e.2.kind ∧ e.2.kind ≤ 4) && e.2.carrier == c.val
      && e.2.release == s.airOf (s.carTb c) (s.ulClose c sym.toNat)).map fun e => e.1) = [j] →
    (s.releasable j = false → exec (.rxWindowClose c sym) s = .next s)
    ∧ (s.releasable j = true → (s.job j).kind = 1 → (s.job j).court < 16 →
      ∃ t, exec (.rxWindowClose c sym) s = .next t ∧ ((t.job j).state = .ready ∨ (t.job j).state = .resident ∨ (t.job j).state = .running)
        ∧ t.get (0x3020 + (s.job j).court) 1 = (s.get (0x3020 + (s.job j).court) 1 + 1) % 2 ^ 32))
  ∧ (∀ (p : Fin 16) (src : BitVec 48) (eaxc seq : BitVec 16) (fid : BitVec 8) (sf : BitVec 4) (slot : BitVec 6) (sym : BitVec 4) (sect : BitVec 12) (u : BitVec 10)
      (data : List Byte) (s : State), receives s p → data.length ≤ 9000 →
    let f := uFrame (s.get (0x2200 + p) 2 % 2 ^ 48) src eaxc seq fid sf slot sym sect u 1#8 data
    (s.carrierOfEaxc p eaxc.toNat = none →
      ∃ t, exec (.uplaneRx p f) s = .next t ∧ t.get (0x2200 + p) 9 = (s.get (0x2200 + p) 9 + 1) % 2 ^ 32 ∧ (∃ o, t = { s with obj := o }))
    ∧ (∀ c, s.carrierOfEaxc p eaxc.toNat = some c →
      let tb := s.carTb c
      let fr := s.frameOf tb fid.toNat
      let air := fr / 1024 * 2 ^ 48 + fr % 1024 * 2 ^ 38 + sf.toNat * 2 ^ 34 + slot.toNat * 2 ^ 28 + sym.toNat * 2 ^ 24
      let n := s.symNumber tb (airposToTc (s.tbMu tb) (s.tbEcp tb) air)
      let a := eaxc.toNat - s.car c 6
      let w := s.prbAddr c false n a u.toNat
      (airCanonical (s.tbMu tb) (s.tbEcp tb) air = false →
        ∃ t, exec (.uplaneRx p f) s = .next t ∧ t.get (0x2200 + p) 9 = (s.get (0x2200 + p) 9 + 1) % 2 ^ 32 ∧ (∃ o, t = { s with obj := o }))
      ∧ (airCanonical (s.tbMu tb) (s.tbEcp tb) air = true → data.length = prbBytes (s.carWidth c false) →
        (s.passed tb (s.ulOpen c n) = false →
          ∃ t, exec (.uplaneRx p f) s = .next t ∧ t.get (0x2200 + p) 7 = (s.get (0x2200 + p) 7 + 1) % 2 ^ 32 ∧ (∃ o, t = { s with obj := o }))
        ∧ (s.passed tb (s.ulOpen c n) = true → s.passed tb (s.ulClose c n) = true →
          ∃ t, exec (.uplaneRx p f) s = .next t ∧ t.get (0x2200 + p) 8 = (s.get (0x2200 + p) 8 + 1) % 2 ^ 32 ∧ (∃ o, t = { s with obj := o }))
        ∧ (s.passed tb (s.ulOpen c n) = true → s.passed tb (s.ulClose c n) = false → s.tdOn c = false → u.toNat < s.car c 3 → s.get 0x5300 0x0B ≠ 1 →
          s.slotSymbol c false n = n → memNat s.mem 8 (s.slotAddr c false n + 8) = s.airOf tb (s.symStartTc tb n) →
          (s.present c false n a u.toNat = true →
            ∃ t, exec (.uplaneRx p f) s = .next t ∧ t.get (0x2200 + p) 9 = (s.get (0x2200 + p) 9 + 1) % 2 ^ 32 ∧ (∃ o, t = { s with obj := o }))
          ∧ (s.present c false n a u.toNat = false →
            ∃ t, exec (.uplaneRx p f) s = .next t ∧ memBytes t.mem data.length w = data ∧ t.present c false n a u.toNat = true
              ∧ (∀ i, (i < w ∨ w + data.length ≤ i) → i ≠ s.presenceByte c false n a u.toNat → memByte t.mem i = memByte s.mem i)
              ∧ (∃ m g, t = { s with mem := m, tags := g }))))))
  ∧ (∀ (p : Fin 16) (src : BitVec 48) (id action : Byte) (rest : List Byte) (s : State), receives s p → rest.length ≤ 9000 →
    let f := delayFrame (s.get (0x2200 + p) 2 % 2 ^ 48) src id action rest
    let r := fun (act : Byte) => Out.data 4 p (bytesBe 4 0x10050014 ++ [id, act] ++ s.taiBytes (s.delayTb p))
    ((action = 0#8 ∨ action = 3#8) → exec (.ecpriDelayRequest p f) s = .next { s with out := s.out ++ [r 2#8, r 5#8] })
    ∧ (action ≠ 0#8 → action ≠ 3#8 → ∃ t, exec (.ecpriDelayRequest p f) s = .next t ∧ t.get (0x2200 + p) 9 = (s.get (0x2200 + p) 9 + 1) % 2 ^ 32 ∧ (∃ o, t = { s with obj := o })))

/-- R18, R19, R256, R366, R371: a symbol whose jobs are incomplete as its transmit window opens is not sent and counts as late, and so one for which a
home chip's layer values have not come; a complete one leaves, unit by unit in the format of its carrier; a message that could not leave by the
window's close counts in TX_MISSED; a C-plane run's next message leaves at its earliest departure. -/
def Obligations.FronthaulTransmission : Prop :=
  (∀ (c : Fin 32) (sym : BitVec 32) (s : State) (id k : Nat),
    let n := sym.toNat
    let o := s.order id
    s.carDl c = true → s.passed (s.carTb c) (s.dlOpen c n) = true → s.passed (s.carTb c) (s.dlClose c n) = false → s.dlOrderOf c n = some (id, k) → o.tried.getLsbD k = false →
    (s.cut = false → s.symbolDone id k = false → o.carrier = c.val →
      ∃ t, exec (.txWindowOpen c sym 0#16) s = .next t ∧ (t.order id).symbols.getLsbD k = true ∧ (t.order id).tried.getLsbD k = true
        ∧ t.get (0x4120 + c) 4 = (s.get (0x4120 + c) 4 + 1) % 2 ^ 32 ∧ t.out = s.out ∧ t.mem = s.mem)
    ∧ (s.cut = false → s.symbolDone id k = true → s.missingHomes id k ≠ [] → o.carrier = c.val →
      ∃ t, exec (.txWindowOpen c sym 0#16) s = .next t ∧ (t.order id).symbols.getLsbD k = true
        ∧ t.get (0x4120 + c) 4 = (s.get (0x4120 + c) 4 + 1) % 2 ^ 32 ∧ t.mem = s.mem)
    ∧ (∀ u < 1024, s.cut = false → s.symbolDone id k = true → s.missingHomes id k = [] → s.removedMember = false → s.slotSymbol c true n = n → s.localPorts c = 1 → s.txUnits c n 0 = [u] → s.get (0x2200 + s.portOf c 0) 4 = 1 →
      let air := s.airOf (s.carTb c) (s.symStartTc (s.carTb c) n)
      let e := s.car c 6 % 65536
      let P := prbBytes (s.carWidth c true)
      let a := if s.tdOn c then s.blockAddr c true n 0 u else s.prbAddr c true n 0 u
      ∃ t, exec (.txWindowOpen c sym 0#16) s = .next t
        ∧ t.out = s.out ++ [.data 4 (s.portOf c 0) ([0x10#8, 0#8] ++ bytesBe 2 (12 + P) ++ bytesBe 2 e ++ [BitVec.ofNat 8 (Tbl.get 0 s.ecpriSeq (e * 4 + 2)), 0x80#8]
          ++ bytesBe 4 (2 ^ 31 + 2 ^ 28 + apSfn air % 256 * 2 ^ 16 + apSf air * 2 ^ 12 + apSlot air * 2 ^ 6 + apSym air)
          ++ bytesBe 4 (runStart (orSymbols o.body) k * 2 ^ 20 + u * 2 ^ 8 + 1) ++ memBytes s.mem P a)]
        ∧ Tbl.get 0 t.ecpriSeq (e * 4 + 2) = (Tbl.get 0 s.ecpriSeq (e * 4 + 2) + 1) % 256 ∧ t.mem = s.mem ∧ t.obj = s.obj))
  ∧ (∀ (c : Fin 32) (sym : BitVec 32) (s : State) (h : TxHeld),
    s.carDl c = true → s.passed (s.carTb c) (s.dlClose c sym.toNat) = true → s.txHeld = [h] → h.carrier = c.val → h.sym = sym.toNat → h.port < 16 →
    (∀ m < 64, ∀ e < 4, ∀ l x, ((s.core m).curCtx.engine e).wait ≠ .slot l x) →
    ∃ t, exec (.txWindowClose c sym) s = .next t ∧ t.txHeld = [] ∧ t.get (0x2200 + h.port) 0x0B = (s.get (0x2200 + h.port) 0x0B + h.msgs.length) % 2 ^ 32
      ∧ (t.getB 0 0x1100 3).testBit 3 = true ∧ t.mem = s.mem ∧ t.out = s.out ∧ t.cores = s.cores)
  ∧ (∀ (s : State) (r : CRun), s.cplane = [r] → r.earliest ≤ (s.tb (s.carTb r.carrier)).tc → s.cut = false → r.next + 1 < s.localPorts r.carrier → r.stype ≠ 3 →
    let e := (s.car r.carrier 6 + r.next) % 65536
    let k := e * 4 + (if r.dl then 2 else 0) + 1
    ∃ t, exec .cplaneTx s = .next t ∧ t.cplane = [{ r with next := r.next + 1 }]
      ∧ t.out = s.out ++ [.data 4 (s.portOf r.carrier r.next) ([0x10#8, 2#8] ++ bytesBe 2 (4 + r.body.length) ++ bytesBe 2 e ++ [BitVec.ofNat 8 (Tbl.get 0 s.ecpriSeq k), 0x80#8] ++ r.body)]
      ∧ t.mem = s.mem ∧ t.obj = s.obj)

/-- R324, R325, R327, R328, R380: READ and READ_BLOCK answer the value read; WRITE stages the value of an object of a Rally, and is refused on a read-only
object or for a bad value; WRITE_BLOCK keeps its first segment in the channel's staging; a bad frame only counts and is answered outside the sequence. -/
def Obligations.ObjectReadsAndWrites : Prop :=
  (∀ (q : OapReq) (key : Nat) (s : State) (row : ObjRow), accepted 1 key q s →
    let h := headOf q.frame
    let s1 := used key s
    s1.target (s1.chan key) h false = .ok row → h.length = 0 → (h.index ≠ 0x7000 ∨ h.sub ≠ 9) →
    ∃ t, exec (.read q) s = .next t ∧ answered key q 0 (s1.readBytes (s1.chan key).rights (s1.chan key) h.scope h.index h.sub row (h.flags.testBit 2)) t
      ∧ quiet s t ∧ (key < 32 → t.obj = s.obj))
  ∧ (∀ (q : OapReq) (key : Nat) (s : State) (row : ObjRow), accepted 3 key q s →
    let h := headOf q.frame
    let s1 := used key s
    let p := q.frame.drop 16
    let v := s1.readBytes (s1.chan key).rights (s1.chan key) h.scope h.index h.sub row (h.flags.testBit 2)
    s1.target (s1.chan key) h false = .ok row → row.ty.size = none → p.length = 8 → fieldOf p 0 4 ≤ v.length → (h.index ≠ 0x7000 ∨ h.sub ≠ 9) →
    ∃ t, exec (.readBlock q) s = .next t ∧ quiet s t
      ∧ answered key q 0 ((v.drop (fieldOf p 0 4)).take (min (fieldOf p 4 4) (replyLimit (s1.chan key) key q.cap.toNat q.replyAddr.toNat))) t)
  ∧ (∀ (q : OapReq) (key : Nat) (s : State) (row : ObjRow), accepted 2 key q s →
    let h := headOf q.frame
    let s1 := used key s
    let v := q.frame.drop 16
    s1.target (s1.chan key) h true = .ok row →
    (row.access = .ro → ∃ t, exec (.write q) s = .next t ∧ answered key q 0x15 [] t ∧ quiet s t)
    ∧ (row.access = .rw → checkValue row v ≠ 0 → checkValue row v < 0x30 → ∃ t, exec (.write q) s = .next t ∧ answered key q (checkValue row v) [] t ∧ quiet s t)
    ∧ (∀ r, row.access = .rwc → h.scope = 16 → h.flags.testBit 3 = false → checkValue row v = 0 →
        let w := stagedOf row h.index h.sub v
        s1.openRally 16 = some r → r.chan = key → w.key ≠ fwActivateKey → s1.modelWriteOk w = true → s1.toLoad w = [] → s1.rallyFull r w = false →
        s1.stagedElsewhere r.scope w.key = false → r ∈ s.rallies →
        ∃ t, exec (.write q) s = .next t ∧ answered key q 1 [] t ∧ (key < 32 → t.obj = s.obj) ∧ t.blob = s.blob ∧ t.cores = s.cores ∧ t.mem = s.mem
          ∧ ∃ x ∈ t.rallies, x.id = r.id ∧ x.staged = (r.staged.filter fun z => z.key != w.key) ++ [w]))
  ∧ (∀ (q : OapReq) (key : Nat) (s : State) (row : ObjRow), accepted 4 key q s →
    let h := headOf q.frame
    let s1 := used key s
    let p := q.frame.drop 16
    s1.target (s1.chan key) h true = .ok row → row.access = .rw → row.ty.size = none → 4 ≤ p.length → fieldOf p 0 4 = 0 → h.flags.testBit 1 = true → h.flags.testBit 0 = false →
    (h.index ≠ 0x7000 ∨ h.sub ≠ 2) →
    ∃ t, exec (.writeBlock q) s = .next t ∧ answered key q 0 [] t ∧ (t.chan key).staging = some (okey h.index h.sub, p.drop 4) ∧ quiet s t)
  ∧ (∀ (q : OapReq) (f : Fin 16) (s : State), q.chan = .pcie f → s.serves_ q.chan = true → badFrame q.frame = true →
    ∃ t, exec (.badFrame q) s = .next t ∧ t.getB f.val 0x1111 1 = (s.getB f.val 0x1111 1 + 1) % 2 ^ 32 ∧ t.chans = s.chans ∧ quiet s t)

/-- R333 to R335, R338, R339: RALLY_BEGIN opens the scope's Rally and gives its ID; RALLY_COMMIT commits an open Rally that passes the checks of R338 and
answers the first that fails; RALLY_ABORT discards an open Rally; RALLY_STATUS answers its record; HEARTBEAT, ACK_ATTENTION and SUBSCRIBE. -/
def Obligations.RallyRequests : Prop :=
  (∀ (q : OapReq) (key : Nat) (s : State), accepted 0x10 key q s →
    let h := headOf q.frame
    s.recovery = false → h.length = 0 → s.get 0x31A0 9 = 0 →
    (s.openRally h.scope = none → ∃ t r, exec (.rallyBegin q) s = .next t ∧ r ∈ t.rallies ∧ r.state = .opened ∧ r.scope = h.scope ∧ r.chan = key ∧ r.staged = []
      ∧ answered key q 0 (bytesOf 4 r.id) t ∧ t.begun = s.begun % (2 ^ 24 - 1) + 1 ∧ t.cores = s.cores)
    ∧ (s.openRally h.scope ≠ none → ∃ t, exec (.rallyBegin q) s = .next t ∧ answered key q 0x20 [] t ∧ quiet s t))
  ∧ (∀ (q : OapReq) (key : Nat) (s : State) (r : Rally), accepted 0x11 key q s →
    let h := headOf q.frame
    let p := q.frame.drop 16
    let s1 := (used key s).touch r
    let r1 := { r with lastUse := s.clock }
    p.length = 16 → fieldOf p 5 3 = 0 → fieldOf p 4 1 ≤ 7 → (used key s).rallyNamed h (fieldOf p 0 4) = some r → r.state = .opened → r.chan = key →
    (s1.rallies.filter fun x => x.pending && x.scope == r.scope).length < 7 →
    (∀ e, s1.commitCheck r1 (fieldOf p 4 1) (fieldOf p 8 8) true = some e → e.1 < 0x30 →
      ∃ t, exec (.rallyCommit q) s = .next t ∧ answered key q e.1 (if e.1 = 0x14 then bytesOf 2 (e.2 / 256) ++ bytesOf 1 (e.2 % 256) ++ [0#8] else []) t ∧ t.rallies = s1.rallies)
    ∧ (s1.commitCheck r1 (fieldOf p 4 1) (fieldOf p 8 8) true = none →
      ∃ t x, exec (.rallyCommit q) s = .next t ∧ answered key q 0 [] t ∧ x ∈ t.rallies ∧ x.id = r.id ∧ x.state = .committed ∧ x.tb = fieldOf p 4 1
        ∧ x.serve = fieldOf p 8 8 ∧ x.staged = r.staged))
  ∧ (∀ (q : OapReq) (key : Nat) (s : State) (r : Rally), accepted 0x12 key q s →
    let p := q.frame.drop 16
    p.length = 4 → (used key s).rallyNamed (headOf q.frame) (fieldOf p 0 4) = some r → r.state = .opened → r.chan = key → r.scope ≤ 16 →
    ∃ t, exec (.rallyAbort q) s = .next t ∧ answered key q 0 [] t ∧ (∀ x ∈ t.rallies, x.id = r.id → x.state = .aborted ∧ x.cause = 1)
      ∧ t.getB r.scope 0x1200 6 = (s.getB r.scope 0x1200 6 + 1) % 2 ^ 32)
  ∧ (∀ (q : OapReq) (key : Nat) (s : State) (r : Rally), accepted 0x13 key q s →
    let p := q.frame.drop 16
    p.length = 4 → fieldOf p 0 4 ≠ 0 → (used key s).rallyNamed (headOf q.frame) (fieldOf p 0 4) = some r →
    ∃ t, exec (.rallyStatus q) s = .next t ∧ answered key q 0 r.record t ∧ t.cores = s.cores ∧ (key < 32 → t.obj = s.obj))
  ∧ (∀ (q : OapReq) (key : Nat) (s : State), accepted 0 key q s →
    let h := headOf q.frame
    h.length = 0 → h.sub ≤ 7 → (s.tb h.sub).enabled = true →
    ∃ t, exec (.heartbeat q) s = .next t ∧ answered key q 0 (s.beatBytes (s.chan key).func h.sub) t ∧ quiet s t)
  ∧ (∀ (q : OapReq) (key : Nat) (s : State), accepted 0x20 key q s →
    let p := q.frame.drop 16
    let f := (s.chan key).func
    let l := s.getB f 0x1100 3
    p.length = 8 → fieldOf p 0 4 / 2 ^ 15 = 0 →
    (fieldOf p 4 4 ≠ s.getB f 0x1100 2 → ∃ t, exec (.ackAttention q) s = .next t ∧ answered key q 0x40 [] t ∧ (key < 32 → t.obj = s.obj))
    ∧ (fieldOf p 4 4 = s.getB f 0x1100 2 → f < 16 → s.fixedBreach = false → (∀ g < 16, s.getB g 0x1100 1 = s.dswUpper g) →
      ∃ t, exec (.ackAttention q) s = .next t ∧ answered key q 0 [] t ∧ t.getB f 0x1100 3 = l ^^^ (l &&& fieldOf p 0 4)))
  ∧ (∀ (q : OapReq) (key : Nat) (s : State), accepted 0x21 key q s →
    let h := headOf q.frame
    let p := q.frame.drop 16
    p.length = 2 → h.sub ≤ 7 → (s.tb h.sub).enabled = true → fieldOf p 0 2 ≤ 1000 →
    ∃ t, exec (.subscribe q) s = .next t ∧ answered key q 0 [] t ∧ (t.chan key).rate = fieldOf p 0 2 ∧ (t.chan key).tb = h.sub ∧ (t.chan key).subSeq = h.seq ∧ quiet s t)

/-- R23, R321, R334, R337, R339 to R341: a due heartbeat is sent once for its instant; an idle open Rally is aborted with cause 2; an idle management
channel closes; FREEZE_POINT freezes a committed Rally that can be served; SERVE_TIME puts the staged values of a frozen Rally in force and advances
the Court's epoch. -/
def Obligations.RallyTimers : Prop :=
  (∀ (f : Fin 16) (s : State),
    let c := s.chan f.val
    s.serving = true → c.rate ≠ 0 → (s.tb c.tb).enabled = true → c.beat ≠ some (s.beatNow c.tb c.rate) → s.replyRoom f.val = true →
    ∃ t, exec (.heartbeatDue (.pcie f)) s = .next t ∧ (t.chan f.val).beat = some (s.beatNow c.tb c.rate) ∧ (t.ring f.val 1).dev = (s.ring f.val 1).dev + 1#32 ∧ quiet s t)
  ∧ (∀ (scope : Fin 17) (s : State) (r : Rally), s.openRally scope = some r → spansUs (s.getB scope 0x1200 1 * 1000) r.lastUse s.clock = true → r.scope ≤ 16 →
    ∃ t, exec (.rallyIdleTimeout scope) s = .next t ∧ (∀ x ∈ t.rallies, x.id = r.id → x.state = .aborted ∧ x.cause = 2)
      ∧ t.getB r.scope 0x1200 6 = (s.getB r.scope 0x1200 6 + 1) % 2 ^ 32)
  ∧ (∀ (addr : BitVec 32) (port : BitVec 16) (s : State) (key : Nat), s.mgmtChan (sourceOf addr port) = some key →
    s.longSince (1000000 * s.get 0x1120 3) (s.chan key).lastUse = true →
    ∃ t, exec (.mgmtIdleTimeout (.mgmt addr port)) s = .next t ∧ (Tbl.get {} t.chans key).live = false ∧ t.cores = s.cores)
  ∧ (∀ (s : State) (r : Rally), s.pendingInOrder = [r] → s.rallyOf r.id = some r → r.state = .committed → r.spans = false →
    s.reached r.tb ((s.tcOf r.tb r.serve + airPeriod - 98304) % airPeriod) = true → s.freezeCause r = 0 →
    ∃ t, exec .freezePoint s = .next t ∧ (∀ x ∈ t.rallies, x.id = r.id → x.state = .frozen) ∧ (∃ l k, t = { s with rallies := l, cores := k })
      ∧ (r.writesSf = false → t.cores = s.cores))
  ∧ (∀ (s : State) (r : Rally) (w : Staged), s.cut = false → s.rallies = [r] → r.state = .frozen → r.scope < 16 → r.spans = false → r.staged = [w] → w.isBlob = false →
    0x4100 ≤ w.key / 256 → w.key / 256 < 0x4120 → s.reached r.tb (s.tcOf r.tb r.serve % airPeriod) = true →
    (∀ e ∈ s.jobs, s.releasable e.1 = false) →
    ∃ t, exec .serveTime s = .next t ∧ t.get (w.key / 256) (w.key % 256) = w.value ∧ t.getB r.scope 0x1200 4 = (s.getB r.scope 0x1200 4 + 1) % 2 ^ 32
      ∧ (∀ x ∈ t.rallies, x.id = r.id → x.state = .served))

/-- R313, R320, R348, R389: a request on a channel whose earlier request is not complete waits in its order; a frame written to RELAY waits for the chip's
reply, which becomes the payload of the outer reply, or BUSY after 10 ms; a WHISTLE write that a member leaves unanswered so long is answered BUSY and
the edge disarmed (log entry 174); a BOOT value is stored once its copy is programmed, and BOOT_CLEAR removes every stored value. -/
def Obligations.RelaysAndBootValues : Prop :=
  (∀ (q : OapReq) (key : Nat) (s : State), s.serves_ q.chan = true → badFrame q.frame = false → (headOf q.frame).opcode = 1 → s.openChan q.chan = some (key, s) → s.chanBusy key = true →
    (s.queued.filter fun e => e.1 == key).length < 64 → exec (.read q) s = .next { s with queued := s.queued ++ [(key, q, false)] })
  ∧ (∀ (q : OapReq) (key : Nat) (s : State) (row : ObjRow), accepted 2 key q s →
    let h := headOf q.frame
    let s1 := used key s
    s1.target (s1.chan key) h true = .ok row → 0x2660 ≤ h.index → h.index < 0x2678 → row.access = .wo → row.effect ≠ .boot → checkValue row (q.frame.drop 16) = 0 →
    s.isMember (h.index - 0x2660) = true →
    ∃ t, exec (.relay q none) s = .next t ∧ t.chanBusy key = true ∧ (t.chan key).seq = some h.seq ∧ (t.chan key).cache = [] ∧ t.cores = s.cores)
  ∧ (∀ (q : OapReq) (key c r : Nat) (b : List Byte) (s : State) (w : OapWait), s.chanKey q.chan = some key → s.relayWait q.chan = some w → w.chan = key → w.dead = false →
    (∀ e ∈ s.queued, e.1 ≠ key) → w.kind = .relay c r → b.length ≤ replyLimit (s.chan key) key w.cap w.replyAddr →
    ∃ t, exec (.relay q (some b)) s = .next t ∧ w ∉ t.waits ∧ (∃ dsw, (t.chan key).cache = replyFrame (headOf w.header) 0 b false dsw) ∧ t.cores = s.cores)
  ∧ (∀ (ch : ChanRef) (key : Nat) (s : State) (w : OapWait), s.chanKey ch = some key → s.relayWait ch = some w → w.chan = key → w.dead = false → (∀ e ∈ s.queued, e.1 ≠ key) → s.longSince 10000 w.since = true →
    ∃ t, exec (.relayTimeout ch) s = .next t ∧ w ∉ t.waits ∧ (∃ dsw, (t.chan key).cache = replyFrame (headOf w.header) 0x40 [] false dsw) ∧ t.cores = s.cores)
  ∧ (∀ (ch : ChanRef) (key : Nat) (s : State) (w : OapWait), s.chanKey ch = some key → s.relayWait ch = none → (s.waits.find? fun w => w.chan == key && w.kind == .whistle) = some w →
    w.dead = false → (∀ e ∈ s.queued, e.1 ≠ key) → s.longSince 10000 w.since = true → s.get 0x5300 5 = 1 →
    ∃ t, exec (.relayTimeout ch) s = .next t ∧ w ∉ t.waits ∧ (∃ dsw, (t.chan key).cache = replyFrame (headOf w.header) 0x40 [] false dsw) ∧ t.get 0x5300 5 = 0 ∧ t.whistle = {}
      ∧ t.cores = s.cores)
  ∧ (∀ (f : Fin 16) (s : State) (w : OapWait) (k : Nat) (v : List Byte), s.waits = [w] → s.queued = [] → w.chan = f.val → w.dead = false → w.kind = .boot k v →
    ∃ t, exec (.bootWriteDone (.pcie f)) s = .next t ∧ Tbl.get none t.firm.stored k = some v ∧ t.waits = [] ∧ (∀ i, i ≠ k → Tbl.get none t.firm.stored i = Tbl.get none s.firm.stored i)
      ∧ t.obj = s.obj ∧ t.cores = s.cores)
  ∧ (∀ (v : BitVec 8) (s : State), ∃ t, exec (.bootClear v) s = .next t ∧ t.firm.stored = (if v = 1#8 then [] else s.firm.stored) ∧ t.obj = s.obj ∧ t.cores = s.cores ∧ t.mem = s.mem)

/-- R226, R227, R234, R236, R239, R240, R244: the first unit of a queue goes to the lowest idle engine, a decode with the iterations that fit; the end of
a decode enters what layered min-sum decides, judged by its CRC, the end of an encode writes the encoded, rate-matched and scrambled bits to the
unit's handle; processes without a transmission for HARQ_TIMEOUT leave. -/
def Obligations.CodingUnits : Prop :=
  (∀ (kind : Fin 3) (s : State), (s.idleEngine kind = none ∨ s.codingQueue kind = []) → exec (.codingDispatch kind) s = .next s)
  ∧ (∀ (s : State) (e j : Nat) (w : Codeword), s.cut = false → s.idleEngine 0 = some e → s.codingQueue 0 = [j] → (s.job j).kind = 5 → 0 < s.iterCap j →
    (s.order (s.job j).order).word (s.job j).user (s.job j).cw = some w → w.begun = true → s.keptBits j = none →
    ∃ t, exec (.codingDispatch 0) s = .next t ∧ (t.engineC e).state = 1 ∧ (t.engineC e).job = j ∧ (t.engineC e).cap = s.iterCap j ∧ (t.engineC e).since = s.clock
      ∧ (t.job j).state = .running ∧ t.get 0x4200 7 = (if s.iterCap j < (s.forJob j).get 0x4200 2 then (s.get 0x4200 7 + 1) % 2 ^ 32 else s.get 0x4200 7) ∧ t.cores = s.cores)
  ∧ (∀ (s : State) (e j q h : Nat) (r : List Nat), s.cut = false → s.idleEngine 1 = some e → s.codingQueue 1 = [j] → (s.job j).kind = 0x11 →
    q = s.freeQueueKey ((s.forJob j).get (0x4240 + (s.job j).carrier) 4) → (s.hqueue q).items = h :: r →
    ∃ t, exec (.codingDispatch 1) s = .next t ∧ (t.engineC e).state = 1 ∧ (t.engineC e).job = j ∧ (t.job j).state = .running ∧ (t.hqueue q).items = r
      ∧ Tbl.get 0 t.heldBy (handleKey (s.hqueue q).pool h) = j ∧ t.cores = s.cores ∧ t.mem = s.mem)
  ∧ (∀ (e : Fin 8) (s : State) (w : Codeword),
    let g := s.engineC e
    let j := g.job
    let y := s.job j
    let o := s.order y.order
    let u := o.user y.user
    let v := s.forJob j
    let seg := entrySeg false u y.cw
    let ok := fun (l : List Bool) => if 1 < seg.c then crc24B l == 0 && l.length == seg.kp else tbCrcOk l (enTbsOf false u y.cw) seg.crc
    let d := ldpcDecode seg (v.blobAt 0x4200 1) (activeLayers seg (s.decodeHigh o w y.blk)) g.cap (v.get 0x4200 3) (v.get 0x4200 4 == 1) ok (s.softValue o w y.blk)
    worksFor s e j 5 → o.word y.user y.cw = some w →
    ∃ t b, exec (.ldpcDecodeDone e) s = .next t ∧ endedOn t e j ∧ t.get (0x4210 + e) 2 = (s.get (0x4210 + e) 2 + 1) % 2 ^ 32
      ∧ blockOf t j = some b ∧ b.result = (if ok d.1 then 1 else 2) ∧ b.iters = d.2 ∧ b.bits = packMsb d.1 ∧ b.handle = none ∧ t.mem = s.mem)
  ∧ (∀ (e : Fin 4) (s : State) (h : Nat × Nat),
    let j := (s.engineC (8 + e.val)).job
    let y := s.job j
    let o := s.order y.order
    let u := o.user y.user
    let seg := entrySeg true u y.cw
    let ncb := ncbOf seg ((s.forJob j).get (0x4240 + y.carrier) 2)
    let len := blockLen true u o.signals y.cw y.blk
    let k0 := k0Of seg (fieldOf u 4 1 / 4 ^ y.cw % 4) ncb
    let coded := ldpcEncode seg (codeBlockBits seg (dlBlockBits u (Tbl.get [] o.data y.user) y.cw) y.blk)
    let sel := fun i => (coded[selPosition (bufPositions seg ncb) k0 (deinterleave len (enQmOf true u y.cw) i)]?).getD false
    let c := gold (enRnti u * 2 ^ 15 + y.cw * 2 ^ 14 + enDataId u) (blockStart true u o.signals y.cw y.blk) len
    let a := (s.pool h.1).base + h.2 * (s.pool h.1).bufSize
    worksFor s (8 + e.val) j 0x11 → (∀ b, blockOf s j = some b → b.handle = some h) →
    ∃ t b, exec (.ldpcEncodeDone e) s = .next t ∧ endedOn t (8 + e.val) j ∧ blockOf t j = some b ∧ b.result = 1
      ∧ (∀ i < len, i < c.length → (memByte t.mem (a + i / 8)).getLsbD (i % 8) = (c.getD i false != sel i))
      ∧ (∀ i, i < a ∨ a + (len + 7) / 8 ≤ i → memByte t.mem i = memByte s.mem i))
  ∧ (∀ (e : Fin 2) (llrs : List Byte) (s : State),
    let j := (s.engineC (12 + e.val)).job
    let y := s.job j
    let a0 := uciLen ((s.order y.order).user y.user) (y.cw - 2)
    let a := if 1013 ≤ a0 then (a0 + 1) / 2 else a0
    let n := if a < 20 then 6 else 11
    let entries : List (List Bool) := polarDecodeUci (a + n) (llrs.map fun b => signed 8 b.toNat)
    let pass := fun (l : List Bool) => (if n = 6 then crc6 l else crc11 l) == 0
    worksFor s (12 + e.val) j 5 →
    ∃ t b, exec (.polarDecodeDone e llrs) s = .next t ∧ endedOn t (12 + e.val) j ∧ blockOf t j = some b ∧ b.result = (if entries.any pass then 1 else 2)
      ∧ (∀ x, entries.find? pass = some x → b.bits = packMsb (x.take a)))
  ∧ (∀ (e : Fin 2) (s : State) (h : Nat × Nat),
    let j := (s.engineC (12 + e.val)).job
    let y := s.job j
    let o := s.order y.order
    let u := o.user y.user
    let a := (s.pool h.1).base + h.2 * (s.pool h.1).bufSize
    let d := bitsOfBytes (Tbl.get [] o.data y.user)
    let len := if enChannel u = 0x20 then 108 * enQm u else 864
    let src := if enChannel u = 0x20 then polarEncodeDl (dciBits (d.take (enTbs u)) (enRnti u)) len else polarEncodeDl (pbchBits (d.take 32)) len
    let c := if enChannel u = 0x20 then gold ((enRnti u * 2 ^ 16 + enDataId u) % 2 ^ 31) 0 len else gold (enDataId u) (enQm u % 8 * 864) len
    worksFor s (12 + e.val) j 0x11 → (∀ b, blockOf s j = some b → b.handle = some h) →
    ∃ t b, exec (.polarEncodeDone e) s = .next t ∧ endedOn t (12 + e.val) j ∧ blockOf t j = some b ∧ b.result = 1
      ∧ (∀ i < len, i < c.length → (memByte t.mem (a + i / 8)).getLsbD (i % 8) = (c.getD i false != src.getD i false))
      ∧ (∀ i, i < a ∨ a + (len + 7) / 8 ≤ i → memByte t.mem i = memByte s.mem i))
  ∧ (∀ s : State, ∃ t, exec .harqTimeout s = .next t ∧ (∃ l, t = { s with harq := l })
    ∧ ∀ p, p ∈ t.harq ↔ p ∈ s.harq ∧ (s.harqBusy p = true ∨ airDiff p.lastTc (s.tb (s.carTb p.carrier)).tc < usToTc (1000 * s.get (0x4280 + s.carrierCourt p.carrier) 2)))

/-- R241, Table 17.1: an uncorrectable soft-buffer word fences the job that reads it and flushes its process; any other fault of a coding or transform
engine abandons its unit, which goes back to be done again, and scrubs the engine; the third fault within 1 s of TB0 fences it; a scrub ends idle. -/
def Obligations.EngineFaults : Prop :=
  (∀ (e : Fin 8) (comb : Bool) (blk : BitVec 12) (s : State),
    let j := (s.engineC e).job
    (s.engineC e).state = 1 → (s.job j).kind = 5 → fenceable s j →
    ∃ t, exec (.engineFault ⟨e.val, by omega⟩ true comb blk) s = .next t ∧ nowFenced t j 0x4B ∧ (t.job j).fenceInfo = blk.toNat ∧ (t.engineC e).state = 0
      ∧ t.get 0x42C0 3 = (s.get 0x42C0 3 + 1) % 2 ^ 32)
  ∧ (∀ (e : Fin 14) (comb : Bool) (blk : BitVec 12) (s : State),
    let g := s.engineC e
    let now := (s.tb 0).tc
    let recent := g.faults.filter fun t => decide (airDiff t now < 1966080000)
    g.state ≠ 3 → s.isFenced 7 e = false →
    (recent.length < 2 →
      ∃ t, exec (.engineFault e false comb blk) s = .next t ∧ t.engineC e = { state := 2, faults := now :: recent } ∧ (g.state = 1 → (t.job g.job).state = .ready ∧ (t.job g.job).queued = true ∧ (t.job g.job).front = true)
        ∧ (e.val < 8 → t.get (0x4210 + e) 3 = (s.get (0x4210 + e) 3 + 1) % 2 ^ 32) ∧ t.cores = s.cores ∧ t.mem = s.mem ∧ t.fences = s.fences)
    ∧ (2 ≤ recent.length →
      ∃ t, exec (.engineFault e false comb blk) s = .next t ∧ (t.engineC e).state = 3 ∧ (g.state = 1 → (t.job g.job).state = .ready ∧ (t.job g.job).queued = true ∧ (t.job g.job).front = true)
        ∧ ∃ x ∈ t.fences, x.grain = 7 ∧ x.object = e.val ∧ x.cause = 0x45))
  ∧ (∀ (e : Fin 8) (s : State),
    let g := s.xfEngine e
    let now := (s.tb 0).tc
    let recent := g.faults.filter fun t => decide (airDiff t now < 1966080000)
    g.state ≠ 3 → s.isFenced 8 e = false →
    (recent.length < 2 →
      ∃ t, exec (.transformEngineFault e) s = .next t ∧ t.xfEngine e = { state := 2, faults := now :: recent } ∧ (g.state = 1 → (t.job g.job).ports = some (g.port :: s.xfWaiting g.job))
        ∧ t.cores = s.cores ∧ t.mem = s.mem ∧ t.fences = s.fences ∧ t.obj = s.obj)
    ∧ (2 ≤ recent.length →
      ∃ t, exec (.transformEngineFault e) s = .next t ∧ (t.xfEngine e).state = 3 ∧ (g.state = 1 → (t.job g.job).ports = some (g.port :: s.xfWaiting g.job))
        ∧ ∃ x ∈ t.fences, x.grain = 8 ∧ x.object = e.val ∧ x.cause = 0x45))
  ∧ (∀ (e : Fin 22) (s : State),
    (e.val < 14 → (s.engineC e).state = 2 → ∃ t, exec (.engineScrubEnd e) s = .next t ∧ t.engineC e = { s.engineC e with state := 0 } ∧ (∃ c, t = { s with coding := c }))
    ∧ (14 ≤ e.val → (s.xfEngine (e.val - 14)).state = 2 →
      ∃ t, exec (.engineScrubEnd e) s = .next t ∧ t.xfEngine (e.val - 14) = { s.xfEngine (e.val - 14) with state := 0 } ∧ (∃ c, t = { s with transforms := c })))

/-- R202, R203, R221, R222, R258: an idle transform engine takes the next transform, uplink first; a transform's results are shifted, saturated and
counted, and the bins of the forward transform of an uplink symbol's samples stand in the PRBs of its symbol, present and uncompressed; an adaptation
epoch publishes the candidate its training gives where its loss is less by the margin and the library has room; ADAPT_DISCARD resumes collection. -/
def Obligations.TransformsAndAdaptation : Prop :=
  (∀ (e : Fin 8) (s : State) (j p : Nat), (s.xfEngine e).state = 0 → s.cut = false → s.nextTransform = some (j, p) →
    ∃ t, exec (.transformDone e) s = .next t ∧ (t.xfEngine e).state = 1 ∧ (t.xfEngine e).job = j ∧ (t.xfEngine e).port = p ∧ (t.job j).ports = some ((s.xfWaiting j).drop 1)
      ∧ t.cores = s.cores ∧ t.mem = s.mem ∧ t.obj = s.obj)
  ∧ (∀ (e : Fin 8) (s : State),
    let g := s.xfEngine e
    let y := s.job g.job
    let c := y.carrier
    let n := s.jobSymbol y
    let f := s.get (0x4300 + c) 2
    let z := s.forOf y
    let sh := z.get (0x4300 + c) 4
    let v := transformOf (z.get (0x4300 + c) 2) false (z.ulInput c n g.port)
    let q := fun (i : Nat) => (v[i]?).getD (0, 0)
    g.state = 1 → y.kind = 1 → (s.order y.order).live = true → s.tdOn c = true → c < 32 → g.port < s.localPorts c → 12 * s.car c 3 ≤ f →
    ∃ t, exec (.transformDone e) s = .next t ∧ (s.cut = true → (t.xfEngine e).state = 0) ∧ t.get (0x4340 + e) 2 = (s.get (0x4340 + e) 2 + 1) % 2 ^ 32
      ∧ t.get (0x4340 + e) 3 = (s.get (0x4340 + e) 3 + (v.filter fun x => (xfOut sh x.1).2 || (xfOut sh x.2).2).length) % 2 ^ 32
      ∧ (∀ u < s.car c 3, ∀ i < 12,
        let b := (12 * u + i + f - 6 * s.car c 3) % f
        natOfBe (memBytes t.mem 2 (s.prbAddr c false n g.port u + 4 * i)) = wrapTo 16 (xfOut sh (q b).1).1
          ∧ natOfBe (memBytes t.mem 2 (s.prbAddr c false n g.port u + 4 * i + 2)) = wrapTo 16 (xfOut sh (q b).2).1 ∧ t.present c false n g.port u = true)
      ∧ t.cores = s.cores)
  ∧ (∀ (k : Fin 16) (base cand : BitVec 32) (train : Training) (s : State),
    let i := 0x4060 + k.val
    let m := s.model (s.get i 2)
    s.get i 1 = 1 → s.get i 0x0A = 2 → s.get i 3 ≤ Tbl.get 0 s.adaptSlots k →
    (base.toNat < cand.toNat + s.get i 7 →
      ∃ t, exec (.adaptEpochEnd k base cand train) s = .next t ∧ t.get i 0x0C = base.toNat ∧ t.get i 0x0D = cand.toNat ∧ t.get i 0x10 = (s.get i 0x10 + 1) % 2 ^ 32 ∧ t.get i 0x0A = 1
        ∧ Tbl.get 0 t.adaptSlots k = 0 ∧ t.lib = s.lib)
    ∧ (cand.toNat + s.get i 7 ≤ base.toNat → ∀ id, s.candidateId = some id →
      (s.libUsed + m.pages * 65536 ≤ libTotal →
        ∃ t, exec (.adaptEpochEnd k base cand train) s = .next t ∧ t.get i 0x0B = id ∧ t.get i 0x0A = 3 ∧ t.get i 0x0F = (s.get i 0x0F + 1) % 2 ^ 32
          ∧ t.model id = { m with live := true, adapted := true, signed := false, damaged := false, data := trained m.data { train with sums := train.sums.take (s.get i 5) } (s.get i 6) })
      ∧ (libTotal < s.libUsed + m.pages * 65536 →
        ∃ t, exec (.adaptEpochEnd k base cand train) s = .next t ∧ t.get i 0x11 = (s.get i 0x11 + 1) % 2 ^ 32 ∧ t.get i 0x0A = 1 ∧ t.lib = s.lib)))
  ∧ (∀ (k : Fin 16) (v : BitVec 8) (s : State),
    let i := 0x4060 + k.val
    ((v ≠ 1#8 ∨ s.get i 0x0A ≠ 3) → exec (.adaptDiscard k v) s = .next s)
    ∧ (s.get i 0x0A = 3 → s.get i 1 = 1 → ∃ t, exec (.adaptDiscard k 1#8) s = .next t ∧ t.get i 0x0B = 0 ∧ t.get i 0x0A = 1 ∧ Tbl.get 0 t.adaptSlots k = 0))

/-- R30, R36, R37, R41 to R43, Table 2.4: symbol boundaries count in the symbol-count Tally; servo updates move a time base through ACQUIRING, FREQ_LOCKED
and LOCKED; a lost source leaves it on its fallback, in HOLDOVER or FREERUN; a source that qualifies by eight measurements is stepped to, slewed to,
or waits with STEP_NEEDED; a served STEP is applied at a boundary. That a time base keeps its state as it moves to a fallback, and that the boundary
at which it is enabled counts, are the model's readings (log entries 87 and 106). -/
def Obligations.TimeBaseStates : Prop :=
  (∀ (tb : Fin 8) (s : State),
    let x := s.tb tb
    let k := (symbolOf (s.tbMu tb) (s.tbEcp tb) x.tc).1
    (x.enabled = false ∨ k < x.nextSym → exec (.symbolBoundary tb) s = .next s)
    ∧ (x.enabled = true → x.nextSym ≤ k →
      ∃ t, exec (.symbolBoundary tb) s = .next t ∧ (t.tally (0xFFF8 + tb)).count = (s.tally (0xFFF8 + tb)).count + BitVec.ofNat 32 (k + 1 - x.nextSym)
        ∧ (t.tb tb).nextSym = k + 1 ∧ (∀ i, i ≠ 0xFFF8 + tb.val → t.tally i = s.tally i) ∧ (∃ l b, t = { s with tallies := l, tbs := b }) ∧ ∀ m, (t.tb m).tc = (s.tb m).tc))
  ∧ (∀ (tb : Fin 8) (off : BitVec 64) (ppb : BitVec 32) (rate : BitVec 64) (s : State),
    let n := tb.val
    let x := s.tb n
    s.tbSource n ≠ 3 → x.enabled = true → x.inUse = true → (x.state = .acquiring ∨ x.state = .freqLocked ∨ x.state = .locked) →
    ∃ t, exec (.servoUpdate tb off ppb rate) s = .next t ∧ t.get (tbIx n) 0x14 = satI32 off.toInt ∧ t.get (tbIx n) 0x15 = rate.toNat ∧ (t.tb n).slew = quarterToTc off.toInt
      ∧ (t.tb n).tc = x.tc ∧ onlyTb n s t
      ∧ (x.state = .acquiring → (t.tb n).state = if ppb.toInt.natAbs ≤ 50 ∧ 16 ≤ x.good + 1 then .freqLocked else .acquiring)
      ∧ (x.state = .freqLocked → (t.tb n).state = if s.tbSource n ≠ 0 ∧ off.toInt.natAbs ≤ 4 * s.get (tbIx n) 0x0A ∧ 16 ≤ x.good + 1 then .locked else .freqLocked)
      ∧ (x.state = .locked → (t.tb n).state = if 4 * s.get (tbIx n) 0x0B < off.toInt.natAbs ∧ 4 ≤ x.bad + 1 then .freqLocked else .locked)
      ∧ t.get (tbIx n) 0x16 = if (t.tb n).state = x.state then s.get (tbIx n) 0x16 else (s.get (tbIx n) 0x16 + 1) % 2 ^ 32)
  ∧ (∀ (tb : Fin 8) (s : State),
    let n := tb.val
    let x := s.tb n
    let limit := s.get (tbIx n) 0x0D * 4
    (s.sourceGone n false = false → exec (.sourceLoss tb false) s = .next s)
    ∧ (s.sourceGone n false = true → x.enabled = true → x.prim.isSome = true → x.onFallback = false → s.get (tbIx n) 5 ≠ 3 →
      ∃ t, exec (.sourceLoss tb false) s = .next t ∧ (t.tb n).prim = none ∧ onlyTb n s t
        ∧ (x.fb = none → x.state = .acquiring → (t.tb n).state = .freerun)
        ∧ (x.fb = none → (x.state = .freqLocked ∨ x.state = .locked ∨ x.state = .holdover) → (t.tb n).state = .holdover ∧ t.get (tbIx n) 0x11 = 1 ∧ (t.tb n).slew = 0)
        ∧ (∀ off, x.fb = some off → s.get (tbIx n) 7 ≠ 3 →
          (x.inUse = true → (s.tbReferenced n = false ∨ off.natAbs ≤ limit) → (t.tb n).state = x.state ∧ (t.tb n).onFallback = true ∧ (t.tb n).slew = quarterToTc off ∧ (t.tb n).tc = x.tc)
          ∧ (s.tbReferenced n = true → limit < off.natAbs → (t.tb n).state = .holdover ∧ t.get (tbIx n) 0x11 = 2 ∧ (t.tb n).inUse = false ∧ (t.tb n).tc = x.tc))))
  ∧ (∀ (tb : Fin 8) (l : List (BitVec 64)) (s : State),
    let n := tb.val
    let x := s.tb n
    let off := (l.getLastD 0#64).toInt
    let limit := s.get (tbIx n) 0x0D * 4
    let ready := offsetsAgree l = true ∧ s.sourceReady n (s.get (tbIx n) 5) = true
    (¬ ready → exec (.sourceQualified tb false l) s = .next s)
    ∧ (ready → x.enabled = true → x.inUse = false →
      ∃ t, exec (.sourceQualified tb false l) s = .next t ∧ (t.tb n).onFallback = false ∧ onlyTb n s t
        ∧ (s.tbReferenced n = false → (t.tb n).state = .acquiring ∧ (t.tb n).tc = ((x.tc : Int) + quarterToTc off).toNat ∧ (t.tb n).slew = 0 ∧ (t.tb n).inUse = true)
        ∧ (s.tbReferenced n = true → off.natAbs ≤ limit →
          (t.tb n).state = .acquiring ∧ (t.tb n).tc = x.tc ∧ (t.tb n).slew = quarterToTc off ∧ (t.tb n).prim = some off ∧ (t.tb n).inUse = true)
        ∧ (s.tbReferenced n = true → limit < off.natAbs →
          (t.tb n).state = .holdover ∧ (t.tb n).tc = x.tc ∧ t.get (tbIx n) 0x11 = 2 ∧ (t.tb n).prim = some off ∧ (t.tb n).inUse = false)))
  ∧ (∀ (tb : Fin 8) (sub : Fin 3) (v : BitVec 8) (s : State),
    let n := tb.val
    let x := s.tb n
    (s.followOk n (5 + sub) v.toNat = false → exec (.phaseSrcWrite tb sub v) s = .next s)
    ∧ (s.followOk n (5 + sub) v.toNat = true → ∃ t, exec (.phaseSrcWrite tb sub v) s = .next t ∧ t.get (tbIx n) (5 + sub) = v.toNat ∧ onlyTb n s t
      ∧ (sub = 0 → v.toNat ≠ s.get (tbIx n) 5 → v.toNat ≠ 3 → s.get (tbIx n) 7 ≠ 3 → x.enabled = true → x.onFallback = false → x.fb = none → (x.state = .freqLocked ∨ x.state = .locked) →
        (t.tb n).state = .holdover ∧ (t.tb n).prim = none ∧ t.get (tbIx n) 0x11 = 1)))
  ∧ (∀ (tb : Fin 8) (s : State),
    let n := tb.val
    let x := s.tb n
    (¬ (x.state = .holdover ∧ s.get (tbIx n) 0x11 = 2) → exec (.realign tb) s = .next s)
    ∧ (x.state = .holdover → s.get (tbIx n) 0x11 = 2 → x.inUse = false → s.tbSource n ≠ 3 →
      ∃ t, exec (.realign tb) s = .next t ∧ (t.tb n).state = .acquiring ∧ (t.tb n).slew = quarterToTc ((if x.onFallback then x.fb else x.prim).getD 0) ∧ (t.tb n).tc = x.tc
        ∧ t.get (tbIx n) 0x11 = 0 ∧ onlyTb n s t))
  ∧ (∀ (tb : Fin 8) (s : State),
    let n := tb.val
    let x := s.tb n
    let edge : Bool := isBoundary (s.tbMu n) (s.tbEcp n) (x.tc % airPeriod)
    let r : Int := match (if x.onFallback then x.fb else x.prim) with
      | some off => quarterToTc (off - tcToQuarter x.step)
      | none => 0
    let at_ := ((x.tc : Int) + x.step).toNat
    (x.enabled = false ∨ x.step = 0 ∨ s.tbJobs n = true ∨ edge = false → exec (.stepApply tb) s = .next s)
    ∧ (x.enabled = true → x.step ≠ 0 → s.tbJobs n = false → edge = true → s.tbSource n ≠ 3 →
      ∃ t, exec (.stepApply tb) s = .next t ∧ (t.tb n).step = 0 ∧ t.get (tbIx n) 0x0F = 0 ∧ (t.tb n).state = .acquiring ∧ onlyTb n s t
        ∧ (s.tbReferenced n = true → (t.tb n).tc = at_ ∧ (t.tb n).slew = r)
        ∧ (s.tbReferenced n = false → (t.tb n).tc = ((at_ : Int) + r).toNat ∧ (t.tb n).slew = 0)))

/-- R37 to R40: PTP messages of the selected master feed the servo and the path delay, an Announce gives a master and PARENT follows the selected one, and
a Delay_Req is answered; PTP messages leave with the next sequence number; PPS_IN, the time-of-day sentence in and out, REF_IN, the recovered clock,
ESMC and PPS_OUT. The layouts of messages and sentences are the standards' and the model's (log entries 17 and 185). -/
def Obligations.TimeSignals : Prop :=
  (∀ (port : Fin 16) (f : List Byte) (s : State),
    (ptpOf f = none → exec (.ptpMessageRx port f) s = .next s)
    ∧ (∀ udp addr m n, ptpOf f = some (udp, addr, m) →
      let p := port.val
      let type := natOfBe (m.take 1) % 16
      let i := 0x2001 + n * 16
      let x := s.tb n
      let now := s.taiQuarter n - signed 32 (s.get (0x2200 + p) 6)
      let corr : Int := signed 64 (natOfBe ((m.drop 8).take 8)) / 16384
      let stamp := ptpTime ((m.drop 34).take 10)
      let parent := (x.master.map fun z => z.source) = some ((m.drop 20).take 10)
      s.get (0x2200 + p) 4 = 1 → s.frameForPort p f = true → s.ptpPort p (natOfBe ((m.drop 4).take 1)) udp addr = some n →
      (natOfBe ((m.drop 1).take 1) % 16 ≠ 2 → ∃ t, exec (.ptpMessageRx port f) s = .next t ∧ t.get i 0x0B = (s.get i 0x0B + 1) % 2 ^ 32 ∧ (∃ o, t = { s with obj := o }))
      ∧ (64 ≤ m.length → natOfBe ((m.drop 1).take 1) % 16 = 2 →
        ((s.get i 3).testBit p = true → parent → type = 0 → exec (.ptpMessageRx port f) s
          = .next (s.setTb n { x with t2 := now, lastSync := some s.clock, t1 := if (natOfBe ((m.drop 6).take 1)).testBit 1 then x.t1 else stamp + corr }))
        ∧ ((s.get i 3).testBit p = true → parent → type = 8 → exec (.ptpMessageRx port f) s = .next (s.setTb n { x with t1 := stamp + corr }))
        ∧ ((s.get i 3).testBit p = true → parent → type = 9 → exec (.ptpMessageRx port f) s = .next (s.put i 0x0A (wrapTo 64 (((x.t2 - x.t1) + (stamp - corr - x.t3)) / 2))))
        ∧ ((s.get i 3).testBit p = true → ¬ parent → (type = 0 ∨ type = 8 ∨ type = 9) → exec (.ptpMessageRx port f) s = .next s)
        ∧ ((s.get i 3).testBit p = true → type = 0x0B →
          ∃ t, exec (.ptpMessageRx port f) s = .next t ∧ s.announced n p addr m ∈ (t.tb n).masters
            ∧ (∀ z, (t.tb n).master = some z → t.blobAt i 8 = z.source ∧ t.get i 9 = z.clockClass) ∧ (∃ o b l, t = { s with obj := o, blob := b, tbs := l }) ∧ ∀ k, (t.tb k).tc = (s.tb k).tc)
        ∧ ((s.get i 4).testBit p = true → type = 1 → ∃ b, exec (.ptpMessageRx port f) s = .next (s.emit (.data 4 p b)) ∧ b.length = 54 ∧ b.take 2 = [0x09#8, 0x02#8]))))
  ∧ (∀ (tb : Fin 8) (port : Fin 16) (kind : Fin 4) (s : State),
    let n := tb.val
    let p := port.val
    let x := s.tb n
    let udp : Bool := s.get (0x2001 + n * 16) 1 == 1
    let slave : Bool := (s.get (0x2001 + n * 16) 3).testBit p && (s.get (tbIx n) 5 == 1 || s.get (tbIx n) 7 == 1)
    x.enabled = true → s.get (0x2200 + p) 4 = 1 → s.cut = false →
    (if kind.val = 2 then (slave && (!udp || x.master.isSome)) = true else if kind.val = 3 then (slave && udp) = true else (s.get (0x2001 + n * 16) 4).testBit p = true ∧ udp = false) →
    ∃ (t : State) (l : List (List Byte)), exec (.ptpMessageTx tb port kind) s = .next t ∧ t.out = s.out ++ l.map (fun b => Out.data 4 p b)
      ∧ l.length = (if kind.val = 3 then (s.blobAt (0x2001 + n * 16) 6).length / 17 else 1)
      ∧ (kind.val < 3 → udp = false → ∀ b ∈ l, b.headD 0#8 = if kind.val = 0 then 0#8 else if kind.val = 1 then 0x0B#8 else 1#8)
      ∧ (t.tb n).ptpSeq = (x.ptpSeq + 1) % 65536 ∧ (t.tb n).t3 = (if kind.val = 2 then s.taiQuarter n + signed 32 (s.get (0x2200 + p) 5) else x.t3) ∧ (t.tb n).tc = x.tc ∧ t.obj = s.obj)
  ∧ (∀ s : State, (s.get 0x2120 1 ≠ 1 → exec .ppsInEdge s = .next s)
    ∧ (s.get 0x2120 1 = 1 → ∃ t, exec .ppsInEdge s = .next t ∧ t.pps = { s.pps with edge := some s.clock, label := none } ∧ (∃ b x, t = { s with tbs := b, pps := x })
      ∧ ∀ n < 8, t.tb n = if (s.tb n).enabled = true ∧ (s.get (tbIx n) 5 = 2 ∨ s.get (tbIx n) 7 = 2) then { s.tb n with stamp := s.taiQuarter n - signed 32 (s.get 0x2120 2) } else s.tb n))
  ∧ (∀ (utc : BitVec 48) (s : State),
    (s.get 0x2122 1 = 1 → ∀ v, ∃ b, exec (.todMessage utc v) s = .next (s.emit (.data 15 0 b)) ∧ b.take 6 = [0x24#8, 0x47#8, 0x50#8, 0x5A#8, 0x44#8, 0x41#8])
    ∧ (s.get 0x2122 1 ≠ 1 → ∀ e, s.pps.edge = some e → spansUs 10000 e s.clock = true → spansUs 900000 e s.clock = false →
      exec (.todMessage utc true) s = .next { s with pps := { s.pps with label := some ((utc.toNat : Int) + signed 32 (s.get 0x2122 3)).toNat } })
    ∧ (s.get 0x2122 1 ≠ 1 → ∃ t, exec (.todMessage utc false) s = .next t ∧ (∃ o, t = { s with obj := o })
      ∧ ∀ n < 8, t.get (0x2001 + n * 16) 0x0B = if s.get (tbIx n) 5 = 2 ∨ s.get (tbIx n) 7 = 2 then (s.get (0x2001 + n * 16) 0x0B + 1) % 2 ^ 32 else s.get (0x2001 + n * 16) 0x0B))
  ∧ (∀ (quiet ppb : BitVec 32) (s : State),
    let lost := spansUs 10 0 quiet.toNat = true ∨ 50000 < ppb.toInt.natAbs
    ((s.get 0x2124 2 ≠ 1 ∨ ¬ lost) → exec (.refInLoss quiet ppb) s = .next s)
    ∧ (s.get 0x2124 2 = 1 → lost → ∃ t, exec (.refInLoss quiet ppb) s = .next t ∧ t.get 0x2124 2 = 2
      ∧ ∀ n < 8, s.get (tbIx n) 8 = 1 → s.get (tbIx n) 5 = 0 → (s.tb n).enabled = true → (s.tb n).prim.isSome = true → (s.tb n).onFallback = false → (s.tb n).fb = none →
        (s.tb n).state = .freqLocked → (t.tb n).state = .holdover))
  ∧ (∀ (ppb : BitVec 32) (s : State),
    ((s.get 0x2124 2 = 1 ∨ 50000 < ppb.toInt.natAbs) → exec (.refInReturn ppb) s = .next s)
    ∧ (s.get 0x2124 2 ≠ 1 → ppb.toInt.natAbs ≤ 50000 → ∃ t, exec (.refInReturn ppb) s = .next t ∧ t.get 0x2124 2 = 1
      ∧ ∀ n < 8, s.get (tbIx n) 8 = 1 → s.get (tbIx n) 5 = 0 → (s.tb n).enabled = true → (s.tb n).inUse = false → (t.tb n).state = .acquiring ∧ (t.tb n).prim = some 0))
  ∧ (∀ (lane : Fin 16) (lock : Bool) (s : State),
    ∃ t, exec (.synceSquelch lane lock) s = .next t ∧ (∀ k, t.pps.locked.testBit k = if k = lane.val then lock else s.pps.locked.testBit k)
      ∧ t.pps.synce = (if t.pps.locked.testBit (s.get 0x2123 1) then 1 + s.get 0x2123 2 else 0)
      ∧ (t.pps.synce ≠ s.pps.synce → t.out = s.out ++ [.data 6 33 [BitVec.ofNat 8 t.pps.synce]]) ∧ t.obj = s.obj)
  ∧ (∀ (port : Fin 16) (pdu : List Byte) (s : State),
    exec (.esmcRx port pdu) s = .next (if s.get (0x2200 + port.val) 4 = 1 then { s with out := s.out ++ [.data 12 port pdu] } else s))
  ∧ (∀ s : State,
    let n := s.get 0x2121 1 % 8
    let t : Int := ((s.tb n).tc : Int) - asI64 (s.get (tbIx n) 4)
    let sec := t / 1966080000
    let rest := t % 1966080000
    let w : Int := s.get 0x2121 2
    (s.pps.out = false → (s.tb n).enabled = true → s.pps.second ≠ some sec → rest < w →
      exec .ppsOutEdge s = .next { s with pps := { s.pps with out := true, second := some sec }, out := s.out ++ [.data 6 32 [2#8]] })
    ∧ (s.pps.out = false → ((s.tb n).enabled = false ∨ s.pps.second = some sec ∨ w ≤ rest) → exec .ppsOutEdge s = .next s)
    ∧ (s.pps.out = true → (s.pps.second ≠ some sec ∨ w ≤ rest) → exec .ppsOutEdge s = .next { s with pps := { s.pps with out := false }, out := s.out ++ [.data 6 32 [1#8]] })
    ∧ (s.pps.out = true → s.pps.second = some sec → rest < w → exec .ppsOutEdge s = .next s))

/-- R45, R48, R49: an edge of a pin's program counts and moves the ball; FORCE_INACTIVE drives the inactive level, RELEASE returns to the program; a
captured edge counts and stores its air position, edges closer than 8 Tc count as one. An edge that does not count begins the 8 Tc again, the model's
reading (log entry 151). -/
def Obligations.TimedPins : Prop :=
  (∀ (pin : Fin 32) (s : State),
    let p := pin.val
    let x := s.pin p
    let w := (s.tb (s.get (pinIx p) 2 % 8)).tc
    s.get (pinIx p) 1 = 2 → x.until_ = none →
    ∀ on : Bool, (on = true ↔ x.start ≤ w ∧ w < x.start + s.get (pinIx p) 5) → x.want ≠ on → x.active ≠ on →
      ∃ t, exec (.timedPinEdge pin) s = .next t ∧ (t.pin p).active = on ∧ t.get (pinIx p) 0x0F = (s.get (pinIx p) 0x0F + 1) % 2 ^ 32
        ∧ (t.pin p).ball = (if (on && !x.forced) == (s.get (pinIx p) 3 == 0) then .high else .low) ∧ (∀ q, q ≠ p → t.pin q = s.pin q) ∧ t.cores = s.cores ∧ t.mem = s.mem)
  ∧ (∀ (pin : Fin 32) (s : State),
    let p := pin.val
    let x := s.pin p
    let m := s.get (pinIx p) 1
    ((x.used = true ∨ (m ≠ 0 ∧ m ≠ 6)) →
      let b : Ball := if s.get (pinIx p) 3 = 0 then .low else .high
      ∃ t, exec (.forceInactive pin) s = .next t ∧ t.pin p = { x with forced := true, ball := b } ∧ t.out.length = s.out.length + (if b = x.ball then 0 else 1)
        ∧ (∀ q, q ≠ p → t.pin q = s.pin q) ∧ (∃ l o, t = { s with pins := l, out := o }))
    ∧ ((m = 2 ∨ m = 3 ∨ m = 4) →
      let b : Ball := if x.active == (s.get (pinIx p) 3 == 0) then .high else .low
      ∃ t, exec (.release pin) s = .next t ∧ t.pin p = { x with forced := false, ball := b } ∧ t.out.length = s.out.length + (if b = x.ball then 0 else 1)
        ∧ (∀ q, q ≠ p → t.pin q = s.pin q) ∧ (∃ l o, t = { s with pins := l, out := o })))
  ∧ (∀ (pin : Fin 32) (s : State),
    let p := pin.val
    (s.get (pinIx p) 1 ≠ 6 → exec (.captureEdge pin) s = .next s)
    ∧ (s.get (pinIx p) 1 = 6 → (∀ e, (s.pin p).lastCapture = some e → e + 8 ≤ s.clock) →
      ∃ t, exec (.captureEdge pin) s = .next t ∧ t.get (pinIx p) 0x11 = (s.get (pinIx p) 0x11 + 1) % 2 ^ 32 ∧ t.get (pinIx p) 0x12 = s.airNow (s.get (pinIx p) 2 % 8)
        ∧ (t.pin p).lastCapture = some s.clock ∧ (∃ l o, t = { s with pins := l, obj := o }))
    ∧ (∀ e, s.get (pinIx p) 1 = 6 → (s.pin p).lastCapture = some e → s.clock < e + 8 → ∃ t, exec (.captureEdge pin) s = .next t ∧ t.obj = s.obj ∧ (t.pin p).lastCapture = some s.clock))

/-- R377 to R379, R381 to R383: a doorbell within the ring sets the host's index, and one of a slot-order ring is sampled; enabling zeroes the indices;
disabling discards held records as violations; a register out of its rule is a violation; a pending vector that is not masked leaves; a malformed
request entry is consumed and answered, a readable one hands its frame over; held records are written as space comes. R287, R375, R387: BAR2 reads and
writes the memory a function reaches; outside its reach a read gives zeros and a write nothing, as a violation; a 32-bit write of ADD adds to its
Tally; the management port answers ARP for its address, takes the address DHCP gives, and discards other frames. -/
def Obligations.HostInterface : Prop :=
  (
  (∀ (f : Fin 16) (q : Fin 10) (v : BitVec 32) (s : State),
    let r := s.ring f q
    let d := if q.val = 0 ∨ (2 ≤ q.val ∧ q.val ≤ 5) then v - r.dev else r.dev - v
    (r.enabled = true → d.msb = false → d.toNat ≤ r.cap →
      ∃ t, exec (.doorbell f q v) s = .next t ∧ (t.ring f q).host = v ∧ (∃ x, t = { s with funcs := x })
        ∧ (t.ring f q).samples = (if 2 ≤ q.val ∧ q.val ≤ 5 then r.samples ++ [(v, (List.range 8).map fun n => (s.tb n).tc)] else r.samples))
    ∧ ((r.enabled = false ∨ d.msb = true ∨ r.cap < d.toNat) → ∃ t, exec (.doorbell f q v) s = .next t ∧ violated f s t))
  ∧ (∀ (f : Fin 16) (q : Fin 10) (irq : Bool) (s : State),
    let r := s.ring f q
    ((r.base = 0 ∨ r.sized = false) → ∃ t, exec (.ringEnable f q irq) s = .next t ∧ violated f s t)
    ∧ (r.base ≠ 0 → r.sized = true → r.enabled = false →
      ∃ t, exec (.ringEnable f q irq) s = .next t ∧ t.ring f q = { r with ctrl := if irq then 3 else 1, host := 0, dev := 0, samples := [], held := [] } ∧ (∃ x, t = { s with funcs := x }))
    ∧ (∃ t, exec (.ringDisable f q irq) s = .next t ∧ t.ring f q = { r with ctrl := if irq then 2 else 0, held := [], samples := [] } ∧ (∃ x o, t = { s with funcs := x, obj := o })
      ∧ (r.held ≠ [] → t.get (0x2410 + f.val) 2 = (s.get (0x2410 + f.val) 2 + r.held.length) % 2 ^ 32)))
  ∧ (∀ (f : Fin 16) (q : Fin 10) (v : BitVec 64) (s : State), (s.ring f q).enabled = false →
    let base := exec (.registerWrite f false (BitVec.ofNat 16 (0x100 + q * 0x40)) v) s
    let size := exec (.registerWrite f false (BitVec.ofNat 16 (0x108 + q * 0x40)) v) s
    let w := v.toNat % 2 ^ 32
    (v.toNat % 4096 = 0 → hostReach v.toNat 4096 = true → ∃ t, base = .next t ∧ t.ring f q = { s.ring f q with base := v.toNat } ∧ (∃ x, t = { s with funcs := x }))
    ∧ (v.toNat % 4096 ≠ 0 → ∃ t, base = .next t ∧ violated f s t)
    ∧ (4 ≤ w → w ≤ 16 → ∃ t, size = .next t ∧ t.ring f q = { s.ring f q with size := w, sized := true } ∧ (∃ x, t = { s with funcs := x }))
    ∧ ((w < 4 ∨ 16 < w) → ∃ t, size = .next t ∧ violated f s t))
  ∧ (∀ (f : Fin 16) (v : Fin 8) (s : State),
    let x := s.func f
    ((x.pend.getLsbD v && x.unmasked.getLsbD v) = false → exec (.msixMessage f v) s = .next s)
    ∧ (x.pend.getLsbD v = true → x.unmasked.getLsbD v = true →
      ∃ t, exec (.msixMessage f v) s = .next t ∧ t.out = s.out ++ [.data 3 (Tbl.get 0 x.vecAddr v) (bytesOf 4 (Tbl.get 0 x.vecData v))] ∧ (t.func f).pend.getLsbD v = false
        ∧ (∀ i : Fin 8, i ≠ v → (t.func f).pend.getLsbD i = x.pend.getLsbD i) ∧ t.get (0x2410 + f.val) 4 = (s.get (0x2410 + f.val) 4 + 1) % 2 ^ 32 ∧ t.mem = s.mem))
  ∧ (∀ (f : Fin 16) (q : Fin 4) (s : State) (b : List Byte),
    let r := s.ring f (6 + q.val)
    r.held = [b] →
    (r.space < b.length / 64 → exec (.rsSpaceFree f q) s = .next s)
    ∧ (b.length / 64 ≤ r.space → ∃ t, exec (.rsSpaceFree f q) s = .next t ∧ (t.ring f (6 + q.val)).held = [] ∧ (t.ring f (6 + q.val)).dev = r.dev + BitVec.ofNat 32 (b.length / 64)
      ∧ (b.length ≤ (r.cap - r.dev.toNat % r.cap) * 64 → t.out[s.out.length]? = some (.data 2 (r.base + r.dev.toNat % r.cap * 64) (s.stampRecord f b)))))
  ∧ (∀ (f : Fin 16) (e fr : List Byte) (ok : Bool) (s : State),
    let r := s.ring f 0
    (r.enabled = false ∨ r.host = r.dev → exec (.rqEntryRead f e fr ok) s = .next s)
    ∧ (r.enabled = true → r.host ≠ r.dev → s.serves_ (.pcie f) = true → s.get 0x31A0 9 = 0 →
      (rqMalformed e = true → ∃ t, exec (.rqEntryRead f e fr ok) s = .next t ∧ (t.ring f 0).dev = r.dev + 1 ∧ (t.ring f 1).dev = (s.ring f 1).dev + 1
        ∧ t.get (0x2410 + f.val) 3 = (s.get (0x2410 + f.val) 3 + 1) % 2 ^ 32 ∧ t.cores = s.cores ∧ t.mem = s.mem)
      ∧ (rqMalformed e = false → ok = true → fieldOf e 8 2 ≤ fr.length →
        exec (.rqEntryRead f e fr ok) s = .next ((s.advanceDev f 0 1).frameIn { chan := .pcie f, frame := fr.take (fieldOf e 8 2), cap := BitVec.ofNat 32 (fieldOf e 12 4), replyAddr := BitVec.ofNat 64 (fieldOf e 16 8), reqIndex := r.dev } false)))))
  ∧ (
  (∀ (f : Fin 16) (off : BitVec 28) (n : BitVec 8) (s : State),
    let a := off.toNat
    0x8000000 ≤ a → a + n.toNat ≤ 0x9800000 → 0 < n.toNat →
    (s.bar2Reach f a n.toNat false = true → exec (.bar2Access f off n none false) s = .next { s with out := s.out ++ [.data 8 f (memBytes s.mem n.toNat a)] })
    ∧ (s.bar2Reach f a n.toNat false = true → ∃ t, exec (.bar2Access f off n none true) s = .next t ∧ t.get 0x2400 6 = (s.get 0x2400 6 + 1) % 2 ^ 32 ∧ t.out = s.out ++ [.data 8 (f.val + 256) []])
    ∧ (s.bar2Reach f a n.toNat false = false → ∃ t u, exec (.bar2Access f off n none false) s = .next t ∧ t = { u with out := s.out ++ [.data 8 f (List.replicate n.toNat 0#8)] } ∧ violated f s u))
  ∧ (∀ (f : Fin 16) (off : BitVec 28) (n : BitVec 8) (b : List Byte) (ecc : Bool) (s : State),
    let a := off.toNat
    0x8000000 ≤ a → a + b.length ≤ 0x9800000 → 0 < b.length →
    (s.bar2Reach f a b.length true = true → ∃ t, exec (.bar2Access f off n (some b) ecc) s = .next t ∧ memBytes t.mem b.length a = b
      ∧ (∀ i, i < a ∨ a + b.length ≤ i → memByte t.mem i = memByte s.mem i) ∧ (∀ i < b.length, Tbl.get 0#6 t.tags ((a + i) / 8) = 0#6) ∧ (∃ m g c, t = { s with mem := m, tags := g, cores := c }))
    ∧ (s.bar2Reach f a b.length true = false → ∃ t, exec (.bar2Access f off n (some b) ecc) s = .next t ∧ violated f s t))
  ∧ (∀ (f : Fin 16) (off : BitVec 20) (b : List Byte) (s : State),
    (s.bar2Reach f (0x18000000 + off.toNat) b.length true = false → ∃ t, exec (.tallyAddWrite f off b) s = .next t ∧ violated f s t)
    ∧ (s.bar2Reach f (0x18000000 + off.toNat) 4 true = true → b.length = 4 →
      (off.toNat % 16 ≠ 12 → ∃ t, exec (.tallyAddWrite f off b) s = .next t ∧ violated f s t)
      ∧ (off.toNat % 16 = 12 → ∃ t, exec (.tallyAddWrite f off b) s = .next t ∧ (t.tally (off.toNat / 16)).count = (s.tally (off.toNat / 16)).count + BitVec.ofNat 32 (natOf b)
        ∧ (t.tally (off.toNat / 16)).holder = (s.tally (off.toNat / 16)).holder ∧ (∀ k, k ≠ off.toNat / 16 → t.tally k = s.tally k) ∧ (∃ l, t = { s with tallies := l }))))
  ∧ (∀ (dst src smac tmac : BitVec 48) (sip : BitVec 32) (pad : List Byte) (s : State) (ip : BitVec 32), s.serving = true → s.mgmtIp = some ip.toNat → pad.length ≤ 1400 →
    exec (.managementFrame (bytesBe 6 dst.toNat ++ bytesBe 6 src.toNat ++ bytesBe 2 0x0806 ++ bytesBe 8 0x0001080006040001 ++ bytesBe 6 smac.toNat ++ bytesBe 4 sip.toNat
        ++ bytesBe 6 tmac.toNat ++ bytesBe 4 ip.toNat ++ pad)) s
      = .next { s with out := s.out ++ [.data 5 0 (bytesBe 6 smac.toNat ++ bytesBe 6 Config.mgmtMac.toNat ++ bytesBe 2 0x0806 ++ bytesBe 8 0x0001080006040002
          ++ bytesBe 6 Config.mgmtMac.toNat ++ bytesBe 4 ip.toNat ++ bytesBe 6 smac.toNat ++ bytesBe 4 sip.toNat)] })
  ∧ (∀ (b : List Byte) (s : State),
    let ty := natOfBe ((b.drop 12).take 2)
    (ty ≠ 0x0806 → ty ≠ 0x0800 → exec (.managementFrame b) s = .next s)
    ∧ (∀ a, s.serving = true → b.length ≤ 1518 → ty = 0x0800 → dhcpAddress b = some a → exec (.managementFrame b) s = .next { s with mgmtIp := some a })))

/-- R280, R281, R283 to R285, R453: a load takes the lowest free pages and a place behind the others, or is refused with its Rally; a page that fails its
CRC is read again from the mirror, and a second failure damages the model; a loaded model is resident; a verified package enters the library; a model
that nothing references or pins leaves it. -/
def Obligations.LibraryAndBench : Prop :=
  (∀ (m : BitVec 16) (r : BitVec 32) (s : State),
    let x := s.model m.toNat
    (s.loading m.toNat = true ∨ (s.resident m.toNat).live = true → exec (.benchLoadRequest m r) s = .next s)
    ∧ (s.loading m.toNat = false → (s.resident m.toNat).live = false → r ≠ 0#32 → (s.rallies.any fun y => y.id == r.toNat && y.state == .opened) = true →
      (s.xspiUp ≠ 0 → x.live = true → x.damaged = false → x.pages ≤ s.benchFree.length →
        ∃ t, exec (.benchLoadRequest m r) s = .next t ∧ t.loads = s.loads ++ [{ model := m.toNat, pages := s.benchFree.take x.pages, due := s.loadDue x.pages, rally := r.toNat }]
          ∧ (∀ p ∈ s.benchFree.take x.pages, Tbl.get 0 t.benchPages p = 0x10000 + m.toNat) ∧ (∃ l b, t = { s with loads := l, benchPages := b }))
      ∧ (s.xspiUp = 0 ∨ x.live = false ∨ x.damaged = true ∨ s.pagesSuffice x.pages = false →
        ∃ t, exec (.benchLoadRequest m r) s = .next t ∧ t.loads = s.loads ∧ t.get 0x3200 0x0B = (s.get 0x3200 0x0B + 1) % 2 ^ 32 ∧ (∀ y ∈ t.rallies, y.id = r.toNat → y.loadRefused = true)
          ∧ (∃ o l, t = { s with obj := o, rallies := l }))))
  ∧ (∀ (s : State) (l : Load) (tl : List Load), s.loads = l :: tl → l.done < l.pages.length →
    let b := ((s.model l.model).data.drop (l.done * 65536)).take 65536
    let a := 0xA000000 + l.pages.getD l.done 0 * 65536
    (∃ t, exec (.benchPageLoaded true) s = .next t ∧ t.loads = { l with done := l.done + 1, mirrored := false } :: tl ∧ memBytes t.mem b.length a = b
      ∧ (∀ i, i < a ∨ a + b.length ≤ i → memByte t.mem i = memByte s.mem i) ∧ t.lib = s.lib ∧ t.cores = s.cores)
    ∧ (l.mirrored = false → exec (.benchPageLoaded false) s = .next { s with loads := { l with mirrored := true } :: tl })
    ∧ (l.mirrored = true → ∃ t, exec (.benchPageLoaded false) s = .next t ∧ l ∉ t.loads ∧ (t.model l.model).damaged = true ∧ t.get 0x3200 0x0A = (s.get 0x3200 0x0A + 1) % 2 ^ 32
      ∧ (∀ p ∈ l.pages, Tbl.get 0 t.benchPages p = 0) ∧ (l.rally ≠ 0 → ∀ y ∈ t.rallies, y.id = l.rally → y.loadRefused = true) ∧ t.mem = s.mem))
  ∧ (∀ (s : State) (l : Load) (tl : List Load), s.loads = l :: tl →
    let now := s.instantNow l.due.tb
    let e := if l.due.count < now.count then now else l.due
    let named : Bool := s.rallies.any fun r => r.id == l.rally && (r.state == .opened || r.state == .committed || r.state == .frozen)
    (l.done < l.pages.length → exec .benchLoadEnd s = .next s)
    ∧ (l.pages.length ≤ l.done → ∃ t, exec .benchLoadEnd s = .next t ∧ t.loads = tl ∧ t.get 0x3200 8 = (s.get 0x3200 8 + 1) % 2 ^ 32
      ∧ t.resident l.model = { live := true, pages := l.pages, usedAt := e, rally := if named then l.rally else 0, usableFrom := if named then none else some (s.boundaryFrom e) }
      ∧ (∀ k, k ≠ l.model → t.resident k = s.resident k) ∧ (∃ o a b, t = { s with obj := o, loads := a, bench := b })))
  ∧ (∀ (p : Package) (s : State), (∀ w ∈ s.waits, w.kind ≠ .library) →
    let n := (p.data.length + 65535) / 65536
    (Tbl.get 0 s.firm.steps 9 ≠ 0 → p.wellFormed = true → p.id ≠ 0#16 → p.id ≠ 0xFFFF#16 → s.idInUse p.id.toNat = false → n ≠ 0 → n ≤ 64 → (s.lib.filter fun e => e.2.live).length < 2048 →
      s.libUsed + n * 65536 ≤ libTotal → p.signed = true → p.signatureOk = true → p.micro = false →
      ∃ t, exec (.libPut p) s = .next t ∧ (∃ l, t = { s with lib := l }) ∧ (∀ k, k ≠ p.id.toNat → t.model k = s.model k)
        ∧ (t.model p.id.toNat).live = true ∧ (t.model p.id.toNat).data = p.data ∧ (t.model p.id.toNat).version = p.version.toNat ∧ (t.model p.id.toNat).pages = n
        ∧ (t.model p.id.toNat).signed = true ∧ (t.model p.id.toNat).damaged = false)
    ∧ ((p.wellFormed = false ∨ s.idInUse p.id.toNat = true ∨ 64 < n ∨ libTotal < s.libUsed + n * 65536 ∨ (p.signed = true ∧ p.signatureOk = false)) → exec (.libPut p) s = .next s))
  ∧ (∀ (m : BitVec 16) (s : State),
    ((s.model m.toNat).live = false ∨ s.isReferenced m.toNat = true ∨ s.isPinned m.toNat = true → exec (.libDelete m) s = .next s)
    ∧ ((s.model m.toNat).live = true → s.isReferenced m.toNat = false → s.isPinned m.toNat = false →
      ∃ t, exec (.libDelete m) s = .next t ∧ t.model m.toNat = {} ∧ (t.resident m.toNat).live = false ∧ (∀ k, k ≠ m.toNat → t.model k = s.model k) ∧ t.mem = s.mem ∧ t.cores = s.cores ∧ t.obj = s.obj))

/-- R358, R402 to R404, R407, R408: a Whistle is armed at least 98,304 Tc ahead, cancelled before its edge; at the edge the cores stop and LATE is latched
on every function; the cut is held once all has drained; it resumes at a boundary; a recorded Tally addition is presented when it is due; a full ring
stops the record. -/
def Obligations.WhistleAndReplay : Prop :=
  (∀ (edge : BitVec 64) (s : State),
    let n := s.whistleTb
    let t0 := s.tcOf n edge.toNat
    let ok : Prop := airCanonical (s.tbMu n) (s.tbEcp n) edge.toNat = true ∧ apOff edge.toNat = 0 ∧ s.get 0x5300 5 = 0 ∧ 98304 ≤ airDiff (s.tb n).tc t0
    (ok → ∃ t, exec (.whistle edge) s = .next t ∧ t.get 0x5300 5 = 1 ∧ t.whistle.edge = some t0 ∧ t.whistle.tb = n ∧ t.whistle.asked = s.otherMembers ∧ t.cores = s.cores ∧ t.mem = s.mem ∧ t.jobs = s.jobs)
    ∧ (¬ ok → exec (.whistle edge) s = .next s))
  ∧ (∀ s : State, (s.get 0x5300 5 = 1 → ∃ t, exec .whistleCancel s = .next t ∧ t.get 0x5300 5 = 0 ∧ t.whistle = {} ∧ t.cores = s.cores ∧ t.mem = s.mem ∧ t.jobs = s.jobs)
    ∧ (s.get 0x5300 5 ≠ 1 → exec .whistleCancel s = .next s))
  ∧ (∀ s : State,
    let n := s.whistle.tb
    let t1 := (s.tb n).tc + 98304
    let b := if isBoundary (s.tbMu n) (s.tbEcp n) t1 then t1 else nextBoundary (s.tbMu n) (s.tbEcp n) t1
    (s.get 0x5300 5 = 3 → s.whistle.resume = none → ∃ t, exec .whistleResume s = .next t ∧ t.whistle = { s.whistle with resume := some (b % airPeriod) } ∧ t.cores = s.cores ∧ t.mem = s.mem)
    ∧ (s.get 0x5300 5 ≠ 3 → exec .whistleResume s = .next s))
  ∧ (∀ (s : State) (t0 : Nat), s.whistle.edge = some t0 →
    (s.get 0x5300 5 = 1 → s.reached s.whistle.tb t0 = true →
      ∃ t, exec .whistleEdge s = .next t ∧ t.get 0x5300 5 = 2 ∧ t.coresStopped = true ∧ (∀ f < 16, (t.getB f 0x1100 3).testBit 3 = true) ∧ t.jobs = s.jobs ∧ t.tbs = s.tbs)
    ∧ ((s.get 0x5300 5 ≠ 1 ∨ s.reached s.whistle.tb t0 = false) → exec .whistleEdge s = .next s))
  ∧ (∀ s : State, exec .cutHeld s = .next (if s.get 0x5300 5 = 2 ∧ s.drained = true then s.put 0x5300 5 3 else s))
  ∧ (∀ (s : State) (t0 : Nat), s.whistle.resume = some t0 →
    (s.get 0x5300 5 = 3 → s.reached s.whistle.tb t0 = true → (∀ r ∈ s.rallies, r.pending = false) → (∀ e ∈ s.jobs, e.2.state ≠ .waiting) →
      ∃ t, exec .resumeBoundary s = .next t ∧ t.get 0x5300 5 = 0 ∧ t.coresStopped = s.power.tripped ∧ t.whistle = {} ∧ t.jobs = s.jobs ∧ t.rallies = s.rallies)
    ∧ ((s.get 0x5300 5 ≠ 3 ∨ s.reached s.whistle.tb t0 = false) → exec .resumeBoundary s = .next s))
  ∧ (∀ (s : State) (stamp : Nat) (b : List Byte),
    let i := fieldOf b 0 2
    (s.injecting = false → exec .replayEntryInject s = .next s)
    ∧ (s.injecting = true → s.cut = false → s.replay.entries[s.replay.next]? = some ⟨0x0A, stamp, b⟩ → (s.get 0x5000 2 = 2 → s.replay.start + stamp * 196608 ≤ s.cycles) →
      ∃ t, exec .replayEntryInject s = .next t ∧ (t.tally i).count = (s.tally i).count + BitVec.ofNat 32 (fieldOf b 2 4) ∧ (∀ k, k ≠ i → t.tally k = s.tally k)
        ∧ t.replay = { s.replay with next := s.replay.next + 1 } ∧ t.cores = s.cores ∧ t.mem = s.mem))
  ∧ (∀ s : State, (s.get 0x5300 0x0B ≠ 1 → exec .replayRingFull s = .next s)
    ∧ (s.get 0x5300 0x0B = 1 → s.get 0x5300 7 * 1048576 < s.get 0x5300 0x0C + 16 → exec .replayRingFull s = .next (s.put 0x5300 0x0B 3)))

/-- R409 to R417, R420: a complete round gives P_meas and, ten in a row, telemetry; an edge of the power time base takes the smallest permitted frequency
as its target, the current limiter steps down by 100 MHz; a raise waits for its voltage, every change for its relock, and F switches outside Gusts,
counting a breach of the fixed frequency. R421 to R425: a droop detector that fires counts a Gust and drops a relock in progress, which restarts 5 µs
after the clear; a Gust of 10 µs is long; a sample gives the hottest sensor and THERM with its hysteresis; a thermal trip stops the cores and releases
every pin. -/
def Obligations.PowerFrequencyAndTemperature : Prop :=
  (
  (∀ (l : List (BitVec 32)) (oc : Bool) (s : State), l.length = 6 →
    let sum := (l.map BitVec.toNat).sum
    let e := if s.power.estCount = 0 then s.power.estMean else s.power.estSum / s.power.estCount
    ∃ t, exec (.pmbusRound (l.map some) oc) s = .next t ∧ t.get 0x5000 6 = sum ∧ t.power.goodRounds = s.power.goodRounds + 1 ∧ t.power.ocWarning = oc
      ∧ t.get 0x5000 9 = (if 10 ≤ s.power.goodRounds + 1 then 0 else s.get 0x5000 9) ∧ t.get 0x5000 8 = (if t.get 0x5000 9 = 1 then s.get 0x5000 7 * 115 / 100 else max sum e)
      ∧ t.cores = s.cores ∧ t.mem = s.mem)
  ∧ (∀ (l : List (Option (BitVec 32))) (oc : Bool) (s : State), (∃ i < 6, (l[i]?).join = none) →
    ∃ t, exec (.pmbusRound l oc) s = .next t ∧ t.get 0x5000 6 = s.get 0x5000 6 ∧ t.power.goodRounds = 0)
  ∧ (∀ (mw : BitVec 32) (s : State), ∃ t, exec (.estimateTick mw) s = .next t ∧ t.get 0x5000 7 = mw.toNat ∧ t.power.estSum = s.power.estSum + mw.toNat ∧ t.power.estCount = s.power.estCount + 1
    ∧ (s.get 0x5000 9 = 1 → t.get 0x5000 8 = mw.toNat * 115 / 100) ∧ (∃ o p, t = { s with obj := o, power := p }))
  ∧ (∀ s : State, ((s.power.validAt.any fun v => spansUs 1000 v s.clock) = false → exec .telemetryLost s = .next s)
    ∧ ((s.power.validAt.any fun v => spansUs 1000 v s.clock) = true →
      ∃ t, exec .telemetryLost s = .next t ∧ t.get 0x5000 9 = 1 ∧ t.power.goodRounds = 0 ∧ t.get 0x5000 8 = s.get 0x5000 7 * 115 / 100))
  ∧ (∀ s : State,
    let e := s.powerTc / 196608
    let f := s.mhz
    let used := s.get 0x5000 8
    let cap := s.get 0x5000 1 * 1000
    let hot : Bool := if s.thermLimit < s.tj then true else if s.tj ≤ s.thermLimit - 2000 then false else s.power.thermal
    let pp := if cap < used then f - 25 * min 8 (max 1 ((used - cap) * 100 / max 1 cap)) else if used * 100 ≤ 97 * cap ∧ s.tj ≤ s.thermLimit - 5000 then f + 25 else f
    let pth := if s.thermLimit < s.tj then f - 50 else if hot then f else 1100
    let target := max 300 (min s.fMax (min pp (min s.permitCurrent pth)))
    (s.power.lastEdge = some e ∨ s.power.tripped = true ∨ f = 0 ∨ s.atEdge 196608 = false → exec .decisionEdge s = .next s)
    ∧ (s.atEdge 196608 = true → s.power.lastEdge ≠ some e → s.power.tripped = false → f ≠ 0 →
      ∃ t, exec .decisionEdge s = .next t ∧ t.power.lastEdge = some e ∧ t.power.permitPower = pp ∧ t.power.permitThermal = pth ∧ t.mhz = f ∧ t.cores = s.cores ∧ t.mem = s.mem
        ∧ (s.power.move = none → target < f → ∃ m, t.power.move = some m ∧ m.target = target ∧ m.voltage = true ∧ t.out = s.out)
        ∧ (s.power.move = none → f < target → s.power.avsOk = true → ∃ m, t.power.move = some m ∧ m.target = target ∧ m.voltage = false ∧ t.out = s.out ++ [.data 9 0 (bytesOf 2 target)])
        ∧ (s.power.move = none → target = f → t.power.move = none ∧ t.out = s.out)))
  ∧ (∀ s : State, (s.power.alert.isSome = true → exec .pmAlert s = .next s)
    ∧ (s.power.alert = none → exec .pmAlert s = .next { s with power := { s.power with alert := some s.clock, ocWarning := true } }))
  ∧ (∀ s : State, (s.power.ocWarning = false ∨ s.atEdge 8192 = false → exec .currentLimitRepeat s = .next s)
    ∧ (s.power.ocWarning = true → s.atEdge 8192 = true → spansUs 25 s.power.ocStepAt s.clock = true → s.power.move = none → 300 < s.mhz →
      ∃ t m, exec .currentLimitRepeat s = .next t ∧ t.power.move = some m ∧ m.target = max 300 (s.mhz - 100) ∧ t.power.ocStepAt = s.clock ∧ t.power.permitCurrent = s.mhz - 100 ∧ t.mhz = s.mhz))
  ∧ (∀ (v : BitVec 16) (s : State),
    (∃ t, exec (.avsbusSettled (some v)) s = .next t ∧ t.get 0x5000 0x0A = v.toNat ∧ t.power.avsOk = true ∧ t.mhz = (if s.mhz = 0 then s.fNom else s.mhz)
      ∧ t.power.move = s.power.move.map fun m => { m with voltage := true })
    ∧ (∀ m, s.power.move = some m → m.voltage = false → spansUs 50 m.voltageSince s.clock = true →
      exec (.avsbusSettled none) s = .next { s with power := { s.power with avsOk := false, move := none } }))
  ∧ (∀ (s : State) (m : FreqMove), s.power.move = some m → m.relockFrom.isSome = true →
    exec .pllRelockDone s = .next { s with power := { s.power with move := some { m with relocked := true } } })
  ∧ (∀ (s : State) (m : FreqMove), s.power.move = some m →
    let fixed := s.get 0x5000 3
    (s.atEdge 8192 = false → exec .frequencySwitch s = .next s)
    ∧ (s.atEdge 8192 = true → s.power.gusts ≠ [] → m.deferred = false → ∃ t, exec .frequencySwitch s = .next t ∧ t.mhz = s.mhz ∧ t.power.move = some { m with deferred := true } ∧ t.get 0x5100 4 = (s.get 0x5100 4 + 1) % 2 ^ 32)
    ∧ (s.atEdge 8192 = true → s.power.gusts = [] → s.power.gustClear = none → m.voltage = true → m.relocked = true →
      ∃ t, exec .frequencySwitch s = .next t ∧ t.mhz = m.target ∧ t.power.move = none ∧ t.power.coding = codingMhz m.target
        ∧ t.out = (if m.target < s.mhz then s.out ++ [.data 9 0 (bytesOf 2 m.target)] else s.out)
        ∧ (s.power.held = true → s.get 0x5000 2 = 2 → fixed ≤ s.mhz → m.target < fixed → t.fixedBreach = true ∧ t.get 0x5000 0x0C = (s.get 0x5000 0x0C + 1) % 2 ^ 32))
    ∧ (s.power.gusts = [] → s.power.gustClear = none → (m.voltage = false ∨ m.relocked = false) → exec .frequencySwitch s = .next s)))
  ∧ (
  (∀ (d : BitVec 8) (s : State),
    ((20 ≤ d.toNat ∨ Tbl.get 0 s.power.gusts d.toNat ≠ 0) → exec (.gustFire d) s = .next s)
    ∧ (d.toNat < 20 → Tbl.get 0 s.power.gusts d.toNat = 0 →
      ∃ t, exec (.gustFire d) s = .next t ∧ Tbl.get 0 t.power.gusts d.toNat = s.clock + 1 ∧ t.get 0x5100 3 = (s.get 0x5100 3 + 1) % 2 ^ 32 ∧ (t.get 0x5000 0x0B).testBit 3 = true
        ∧ (∀ m, s.power.move = some m → t.power.move = some (if m.relocked then m else { m with relockFrom := none })) ∧ t.mhz = s.mhz ∧ t.cores = s.cores))
  ∧ (∀ (d : BitVec 8) (s : State),
    let t0 := Tbl.get 0 s.power.gusts d.toNat
    (t0 = 0 → exec (.gustClear d) s = .next s)
    ∧ (t0 ≠ 0 → ∃ t, exec (.gustClear d) s = .next t ∧ Tbl.get 0 t.power.gusts d.toNat = 0 ∧ t.power.gustClear = some s.clock ∧ t.cores = s.cores ∧ t.mem = s.mem
      ∧ (t.power.gusts = [] → t.power.gustFrom = none ∧ t.power.longGust = false)))
  ∧ (∀ s : State, ((s.power.gustFrom.any fun t => spansUs 10 t s.clock) = false → exec .longGust s = .next s)
    ∧ ((s.power.gustFrom.any fun t => spansUs 10 t s.clock) = true → ∃ t, exec .longGust s = .next t ∧ t.power = { s.power with longGust := true } ∧ (s.svc ≤ 3 → (t.getB 0 0x1100 1).testBit 13 = true)))
  ∧ (∀ (s : State) (m : FreqMove) (t0 : Nat), s.power.move = some m → s.power.gustClear = some t0 → m.relockFrom = none → s.power.gusts = [] →
    (spansUs 5 t0 s.clock = true → ∃ t, exec .relockRestart s = .next t ∧ t.power.move = some { m with relockFrom := some s.clock } ∧ t.get 0x5100 5 = (s.get 0x5100 5 + 1) % 2 ^ 32)
    ∧ (spansUs 5 t0 s.clock = false → exec .relockRestart s = .next s))
  ∧ (∀ (temps : List (BitVec 32)) (a : BitVec 32) (s : State), a ∈ temps.take 32 → (∀ b ∈ temps.take 32, b.toInt ≤ a.toInt) →
    let warn := asI32 (s.get 0x5010 3)
    ∃ t, exec (.sensorSample temps) s = .next t ∧ t.get 0x5010 1 = a.toNat ∧ (asI32 (s.get 0x5010 2) < a.toInt → t.get 0x5010 2 = a.toNat)
      ∧ t.blobAt 0x5010 5 = (temps.take 32).flatMap (fun b => bytesOf 4 b.toNat) ∧ t.therm = (if warn ≤ a.toInt then true else if a.toInt ≤ warn - 2000 then false else s.therm)
      ∧ (∃ o b th, t = { s with obj := o, blob := b, therm := th }))
  ∧ (∀ s : State, (s.power.tripped = true → exec .thermalTrip s = .next s)
    ∧ (s.power.tripped = false → ∃ t, exec .thermalTrip s = .next t ∧ t.power.tripped = true ∧ t.coresStopped = true ∧ (∀ p, (t.pin p).ball = .highZ) ∧ t.pps.out = false ∧ t.pps.synce = 0
      ∧ (∃ l, t.out = s.out ++ l ++ [.data 6 34 [1#8]] ∧ (∀ x ∈ l, ∃ p, x = .data 6 p [0#8]) ∧ (∀ e ∈ s.pins, e.2.ball ≠ .highZ → .data 6 e.1 [0#8] ∈ l))
      ∧ t.cores = s.cores ∧ t.mem = s.mem ∧ t.obj = s.obj)))

/-- R362, R386, R390, R446: a third bad training or uncorrectable word within 1 s, or a silent device, fences a fronthaul port or an xSPI RAM channel; a
Court's fence fences its jobs; a core's or a quarter's fence is lifted once its in-service slices have passed; a link that is lost is down. -/
def Obligations.FencesAndLifts : Prop :=
  (∀ (h : Fin 8) (words : BitVec 8) (silent : Bool) (s : State),
    let l := List.replicate words.toNat (s.tb 0).tc ++ (Tbl.get [] s.xspiErrors h.val).filter fun t => decide (airDiff t (s.tb 0).tc < 1966080000)
    let i := 0x2510 + h.val
    (s.isFenced 9 h = false → l.length < 3 → silent = false →
      ∃ t, exec (.xspiChannelFence h words silent) s = .next t ∧ t.get i 4 = (s.get i 4 + words.toNat) % 2 ^ 32 ∧ Tbl.get [] t.xspiErrors h.val = l ∧ (∃ o x, t = { s with obj := o, xspiErrors := x }))
    ∧ (s.isFenced 9 h = false → s.get i 2 ≠ 0 → 3 ≤ l.length ∨ silent = true →
      ∃ t q, exec (.xspiChannelFence h words silent) s = .next t ∧ t.get i 1 = 2 ∧ t.fences = s.fences ++ [⟨9, 0x48, h.val, q, 0xFF, 0⟩] ∧ (t.getB 0 0x1100 3).testBit 0 = true ∧ t.jobs = s.jobs)
    ∧ (s.isFenced 9 h = true → ∃ t, exec (.xspiChannelFence h words silent) s = .next t ∧ t.fences = s.fences ∧ t.mem = s.mem ∧ t.cores = s.cores))
  ∧ (∀ (o : BitVec 16) (s : State),
    let u := o.toNat % 64
    let q := (Tbl.get {} s.firm.units u).sequence
    (s.isFenced 2 o.toNat = true → q &&& 0x1FF = 0x1FF →
      ∃ t, exec (.fenceLift 2 o) s = .next t ∧ t.isFenced 2 o.toNat = false ∧ (t.core u).fenced = false ∧ (∀ x ∈ t.fences, x ∈ s.fences) ∧ t.jobs = s.jobs ∧ (∀ m, m ≠ u → t.core m = s.core m))
    ∧ (s.isFenced 1 o.toNat = true → q &&& (o.toNat / 256 % 16 * 16) = o.toNat / 256 % 16 * 16 →
      ∃ t, exec (.fenceLift 1 o) s = .next t ∧ t.isFenced 1 o.toNat = false ∧ (∀ i < 4, (t.core u).quarterFenced.getLsbD i = ((s.core u).quarterFenced.getLsbD i && !o.toNat.testBit (8 + i))) ∧ t.jobs = s.jobs)
    ∧ (q &&& 0x1FF ≠ 0x1FF → exec (.fenceLift 2 o) s = .next s)
    ∧ (∀ g : Fin 11, g.val ∉ [1, 2, 3, 7, 8] → exec (.fenceLift g o) s = .next s))
  ∧ (∀ (k : Fin 16) (area : BitVec 32) (s : State),
    (s.isFenced 4 k = true → exec (.controlComplexEcc k area) s = .next s)
    ∧ (s.isFenced 4 k = false → ∃ t, exec (.controlComplexEcc k area) s = .next t ∧ t.isFenced 4 k = true ∧ t.orders = s.orders
      ∧ (∀ j, fenceable s j → (s.job j).court = k → (s.job j).kind = 0x20 → (∀ i, (s.job i).live = true → (s.job i).court = k → i = j) → 64 ≤ (s.job j).core → nowFenced t j 0x30)))
  ∧ (∀ (p : Fin 16) (s : State),
    let i := 0x2200 + p.val
    let l := (s.tb 0).tc :: (Tbl.get [] s.fhFails p.val).filter fun t => decide (airDiff t (s.tb 0).tc < 1966080000)
    s.get i 1 ≠ 0 → s.isFenced 5 p = false → s.get i 4 ≠ 1 →
    (∃ t, exec (.fhPortTraining p true) s = .next t ∧ t.get i 4 = 1 ∧ (∃ o, t = { s with obj := o }))
    ∧ (l.length < 3 → exec (.fhPortTraining p false) s = .next { s with fhFails := Tbl.set [] s.fhFails p.val l })
    ∧ (3 ≤ l.length → ∃ t q, exec (.fhPortTraining p false) s = .next t ∧ t.get i 4 = 2 ∧ t.fences = s.fences ++ [⟨5, 0x46, p.val, q, 0xFF, 0⟩] ∧ t.jobs = s.jobs))
  ∧ (∀ (p : Fin 16) (s : State), (s.get (0x2200 + p.val) 4 = 1 → ∃ t, exec (.fhLinkLoss p) s = .next t ∧ t.get (0x2200 + p.val) 4 = 0 ∧ (∃ o, t = { s with obj := o }))
    ∧ (s.get (0x2200 + p.val) 4 ≠ 1 → exec (.fhLinkLoss p) s = .next s))

/-- R384, R431, R433, R434, R480: a function-level reset disables the rings, the status block and MSI-X of its function alone and aborts its open Rally; a
PCIe reset does so to every function; a core's domain reset for a test clears its contexts and registers; a power-on or chip reset returns every
object to its default but RESET_CAUSE (before a start has begun, the earlier cause that outranks it stays: the model's choice, log entry 175), keeps
the boot flash, and a chip reset the fault-log archive and the THERMTRIP_N latch. -/
def Obligations.Resets : Prop :=
  (∀ (f : Fin 16) (s : State), ∃ t, exec (.functionLevelReset f) s = .next t ∧ t.func f = {} ∧ (∀ g, g ≠ f.val → t.func g = s.func g)
    ∧ (∀ r ∈ t.rallies, r.state = .opened → r.chan ≠ f.val) ∧ t.get (0x2410 + f.val) 5 = (s.get (0x2410 + f.val) 5 + 1) % 2 ^ 32 ∧ t.cores = s.cores ∧ t.mem = s.mem ∧ t.jobs = s.jobs
    ∧ ((∀ r ∈ s.rallies, r.state = .opened → r.chan ≠ f.val) → t.rallies = s.rallies ∧ t.loads = s.loads ∧ t.out = s.out))
  ∧ (∀ s : State, ∃ t, exec .pcieFundamentalReset s = .next t ∧ (∀ f < 16, t.func f = {}) ∧ (∀ r ∈ t.rallies, r.state = .opened → 16 ≤ r.chan) ∧ t.get 0x2400 1 = 0 ∧ t.get 0x2400 2 = 0
    ∧ t.get 0x2400 4 = 0 ∧ t.cores = s.cores ∧ t.mem = s.mem ∧ t.jobs = s.jobs)
  ∧ (∀ (n : Fin 64) (s : State),
    ((s.core n).inTest = true → ∃ t, exec (.domainReset (.core n)) s = .next t ∧ (t.core n).pc = (Core.reset n).pc ∧ (∀ k, (t.core n).ctx k = {}) ∧ (∀ k, (t.core n).group k = {}) ∧ (∀ i < 32, (t.core n).readG i = 0#32) ∧ (t.core n).jobMode = false
      ∧ (t.core n).inflight = [] ∧ (t.core n).fenced = (s.core n).fenced ∧ (t.core n).quarterFenced = (s.core n).quarterFenced ∧ (∀ m, m ≠ n.val → t.core m = s.core m) ∧ (∃ k, t = { s with cores := k }))
    ∧ ((s.core n).inTest = false → exec (.domainReset (.core n)) s = .next s)
    ∧ (∀ p, exec (.domainReset (.fronthaul p)) s = .next s) ∧ (∀ p, exec (.domainReset (.megorlink p)) s = .next s) ∧ (∀ h, exec (.domainReset (.xspi h)) s = .next s)
    ∧ exec (.domainReset .pcie) s = exec .pcieFundamentalReset s)
  ∧ (∀ (c : Instr) (cause : Nat) (s : State), (c, cause) ∈ [(.poreset, 0), (.brownout true, 2), (.brownout false, 3)] →
    ∃ t, exec c s = .next t ∧ (s.firm.steps ≠ [] ∨ 2 ≤ cause → t.get 0x1001 7 = cause) ∧ (s.firm.steps = [] → cause = 0 → 2 ≤ s.get 0x1001 7 → t.get 0x1001 7 = s.get 0x1001 7) ∧ (∀ i u, i < 65536 → u < 256 → (i, u) ≠ (0x1001, 7) → t.get i u = State.reset.get i u) ∧ t.mem = [] ∧ t.cores = [] ∧ t.jobs = [] ∧ t.rallies = [] ∧ t.funcs = []
      ∧ t.fences = [] ∧ t.power.tripped = false ∧ t.coresStopped = false ∧ t.firm.slot0.header = s.firm.slot0.header ∧ t.firm.slot1.seq = s.firm.slot1.seq ∧ t.firm.stored = s.firm.stored
      ∧ t.firm.ctrlFuses = s.firm.ctrlFuses ∧ t.firm.bootCount = s.firm.bootCount ∧ t.pending = s.pending)
  ∧ (∀ s : State, ∃ t, exec .chipReset s = .next t ∧ (s.firm.steps ≠ [] → t.get 0x1001 7 = 1) ∧ (s.firm.steps = [] → s.get 0x1001 7 ≠ 1 → t.get 0x1001 7 = s.get 0x1001 7) ∧ (∀ i u, i < 65536 → u < 256 → (i, u) ≠ (0x1001, 7) → t.get i u = State.reset.get i u) ∧ t.mem = s.mem.filter (fun e => inArchive e.1)
      ∧ t.cores = [] ∧ t.jobs = [] ∧ t.rallies = [] ∧ t.fences = [] ∧ t.power.tripped = s.power.tripped ∧ t.coresStopped = s.power.tripped ∧ t.firm.archived = s.firm.archived
      ∧ t.firm.slot0.header = s.firm.slot0.header ∧ t.firm.stored = s.firm.stored ∧ t.firm.bootCount = s.firm.bootCount ∧ t.pending = s.pending)

/-- R435 to R438, R440: the ROM boots the committed slot with the higher sequence that passes, or enters recovery; with the PLLs locked the RAM devices
are found and every unit is judged by the record; Breeze service needs 16 tested cores and every engine judged, full service every unit; the reference
models enter the library. -/
def Obligations.StartUp : Prop :=
  (∀ (f0 f1 : BitVec 3) (s : State), s.stepDone 1 = false →
    let fault := fun k => s.slotFault k (if k = 0 then f0.toNat else f1.toNat) none
    let n := (s.firm.bootCount + 1) % 2 ^ 32
    (∀ k, s.bootOrder.find? (fun k => fault k == 0) = some k →
      let h := (s.fwSlot k).header
      ∃ t, exec (.romBoot f0 f1) s = .next t ∧ t.get 0x1001 1 = fieldOf h 8 4 ∧ t.get 0x1001 2 = fieldOf h 12 4 ∧ t.get 0x1001 5 = k ∧ t.get 0x1001 6 = s.get 0x1001 6 ∧ t.get 0x1001 4 = n ∧ t.firm.bootCount = n
        ∧ t.firm.ctrlFuses = max s.firm.ctrlFuses (fieldOf h 16 2) ∧ t.firm.rtFuses = max s.firm.rtFuses (fieldOf h 18 2) ∧ t.get 0x7000 5 = t.firm.ctrlFuses + t.firm.rtFuses * 65536 ∧ t.stepDone 4 = true
        ∧ (s.bootOrder.head? = some k → t.get 0x7001 1 = s.get 0x7001 1) ∧ (∀ p, s.bootOrder.head? = some p → p ≠ k → t.get 0x7001 1 = fault p ∧ (t.getB 0 0x1100 3).testBit 12 = true) ∧ t.cores = s.cores ∧ t.mem = s.mem)
    ∧ (s.bootOrder.find? (fun k => fault k == 0) = none → ∃ t, exec (.romBoot f0 f1) s = .next t ∧ t.get 0x1001 6 = 1 ∧ t.get 0x1001 4 = n ∧ t.stepDone 4 = true ∧ t.firm.ctrlFuses = s.firm.ctrlFuses))
  ∧ (∀ (record : List Byte) (ok : Bool) (s : State), s.stepDone 4 = true → s.stepDone 5 = false → s.recovery = false →
    let d := Config.xspiDevices.val
    let b := s.bootInForce
    let good : Bool := ok && fieldOf record 0 2 == 0x5442 && fieldOf record 2 2 == 1 && record.length == 1440
    let mark : Bool := s.firm.marked && s.firm.rseq == fieldOf record 4 4
    (good = true → ∀ i < 89, (recordUnit record i).result ≠ 3) →
    ∃ t, exec (.serdesPllsLocked record ok) s = .next t ∧ t.stepDone 5 = true ∧ t.stepDone 6 = true ∧ t.stepDone 7 = true ∧ t.chip = (if b.get 0x2600 1 ≤ 23 then b.get 0x2600 1 else strapChip s.firm.straps)
      ∧ t.get 0x2500 2 = 512 * d ∧ (∀ h < 8, t.get (0x2510 + h) 2 = d ∧ t.get (0x2510 + h) 1 = if d = 0 then 0 else 1)
      ∧ (∀ n < 64, let x := recordUnit record n
          t.get (0x8000 + n) 9 = if good && (x.result == 1 || x.result == 2) && !mark && decide (s.firm.bootCount - x.boot ≤ b.get 0x31A0 2) then 1 else 3)
      ∧ (∀ p < 8, b.get (mpIx p) 1 = 1 → t.get (mpIx p) 4 = 1) ∧ t.fences = s.fences ∧ t.mem = s.mem)
  ∧ (∀ s : State, (s.svc = 0 → s.stepDone 7 = true → 16 ≤ s.testedCores → (∀ u ∈ testUnits, 0x100 ≤ u → u < 0x300 → s.unitJudged u = true) →
      ∃ t, exec .breezeService s = .next t ∧ t.svc = 1 ∧ t.stepDone 8 = true ∧ t.dswSvc 0 = 1 ∧ t.cores = s.cores ∧ t.mem = s.mem ∧ t.fences = s.fences)
    ∧ (s.svc ≠ 0 ∨ s.testedCores < 16 → exec .breezeService s = .next s))
  ∧ (∀ (p : Package) (s : State), s.stepDone 7 = true → s.stepDone 9 = false →
    ∃ t, exec (.checkBytesInitialised [p]) s = .next t ∧ t.stepDone 9 = true ∧ t.model p.id.toNat = packageModel p ∧ (∀ k, k ≠ p.id.toNat → t.model k = s.model k)
      ∧ (p.micro = false → s.xspiUp ≠ 0 → (p.data.length + 65535) / 65536 ≤ s.benchFree.length → t.loads.map (fun l => l.model) = s.loads.map (fun l => l.model) ++ [p.id.toNat]) ∧ t.mem = s.mem)
  ∧ (∀ s : State, (s.svc = 1 → s.stepDone 9 = true → (∀ u ∈ testUnits, s.unitJudged u = true) → (∀ l ∈ s.loads, l.rally ≠ 0) →
      ∃ t, exec .fullService s = .next t ∧ t.svc = 2 ∧ t.stepDone 11 = true ∧ t.dswSvc 0 = (if s.fences.any (fun x => x.grain != 0) then 3 else 2) ∧ t.cores = s.cores ∧ t.mem = s.mem)
    ∧ (s.svc ≠ 1 → exec .fullService s = .next s))

/-- R440, R441, R443 to R446: a slice that ends joins the unit's entry, the last good one makes a core usable, a bad one fences its core; an in-service
slice resets its core's domains and is counted at its end or when work needs the unit; a shut-down tests, writes the record with RSEQ one higher, and
stops. -/
def Obligations.SelfTest : Prop :=
  (∀ (u : Fin 64) (n : Fin 10) (s : State),
    let x := s.testUnit u
    s.stepDone 7 = true → u.val ∈ s.untested.take 8 → n.val ≠ 0 → x.ended.testBit (n.val - 1) = false →
    let e := x.ended ||| 2 ^ (n.val - 1)
    (∃ t, exec (.startupTestSlice (BitVec.ofNat 16 u) n true) s = .next t ∧ (t.testUnit u).ended = e ∧ (t.testUnit u).passed = x.passed ||| 2 ^ (n.val - 1) ∧ t.get 0x31A0 0x0B = (s.get 0x31A0 0x0B + 1) % 2 ^ 32
      ∧ (e = 511 → x.result ≠ 3 → t.get (0x8000 + u.val) 9 = 1 ∧ (t.testUnit u).result = 2 ∧ (t.testUnit u).current = true) ∧ (e ≠ 511 → t.get (0x8000 + u.val) 9 = s.get (0x8000 + u.val) 9) ∧ t.fences = s.fences ∧ t.mem = s.mem)
    ∧ (n.val < 5 ∨ 8 < n.val → ∃ t, exec (.startupTestSlice (BitVec.ofNat 16 u) n false) s = .next t ∧ (t.testUnit u).result = 3 ∧ (t.testUnit u).failing = n.val ∧ t.get 0x31A0 0x0C = (s.get 0x31A0 0x0C + 1) % 2 ^ 32
      ∧ t.isFenced 2 u = true ∧ (t.core u).fenced = true))
  ∧ (∀ (u : Fin 64) (n : Fin 10) (s : State),
    let x := s.testUnit u
    let i := BitVec.ofNat 16 u
    (s.mayBegin u n = true → ∃ t, exec (.inServiceSlice i n none) s = .next t ∧ (t.testUnit u).slice = some n.val ∧ t.core u = { (s.core u).domainReset u with inTest := true } ∧ (∀ m, m ≠ u.val → t.core m = s.core m) ∧ t.mem = s.mem)
    ∧ (s.mayBegin u n = false → exec (.inServiceSlice i n none) s = .next s)
    ∧ (x.slice = some n.val → ∃ t, exec (.inServiceSlice i n (some true)) s = .next t ∧ (t.testUnit u).slice = none ∧ (t.testUnit u).passed = x.passed ||| 2 ^ (n.val - 1) ∧ (t.testUnit u).sequence = x.sequence ||| 2 ^ (n.val - 1)
      ∧ (t.core u).inTest = false ∧ t.get 0x31A0 0x0B = (s.get 0x31A0 0x0B + 1) % 2 ^ 32 ∧ (s.get 0x31A0 9 = 0 → x.sequence ||| 2 ^ (n.val - 1) = 511 → (t.testUnit u).result = 1) ∧ t.fences = s.fences)
    ∧ (x.slice = some n.val → n.val < 5 ∨ 8 < n.val → ∃ t, exec (.inServiceSlice i n (some false)) s = .next t ∧ (t.testUnit u).slice = none ∧ (t.testUnit u).result = 3 ∧ t.isFenced 2 u = true)
    ∧ (x.slice.isSome = true → s.needed u = true → ∃ t, exec (.sliceAbandon i) s = .next t ∧ (t.testUnit u) = { x with slice := none } ∧ (t.core u).inTest = false ∧ t.get 0x31A0 0x0D = (s.get 0x31A0 0x0D + 1) % 2 ^ 32
      ∧ t.get 0x31A0 0x0B = s.get 0x31A0 0x0B)
    ∧ (s.needed u = false → exec (.sliceAbandon i) s = .next s))
  ∧ (∀ s : State, (s.firm.marked = false → asI32 (s.get 0x31A0 4) ≤ s.tj → ∃ t, exec .excursionMarker s = .next t ∧ t.firm = { s.firm with marked := true }
      ∧ t.out = s.out ++ [.data 11 0x20000 (bytesOf 4 s.firm.rseq ++ List.replicate 12 0#8)] ∧ (∃ f o, t = { s with firm := f, out := o }))
    ∧ (s.firm.marked = true → exec .excursionMarker s = .next s))
  ∧ (∀ s : State, (s.shutdownOk = true → ∃ t, exec (.shutdown 0) s = .next t ∧ t.get 0x31A0 9 = 1 ∧ t.firm.shutStart = s.clock ∧ (∀ u, (t.testUnit u).ended = 0 ∧ (t.testUnit u).slice = none) ∧ t.jobs = s.jobs ∧ t.mem = s.mem)
    ∧ (s.shutdownOk = false → exec (.shutdown 0) s = .next s)
    ∧ (s.get 0x31A0 9 = 1 → s.longSince (1000 * s.get 0x31A0 1) s.firm.shutStart = true → ∃ t, exec (.shutdown 1) s = .next t ∧ t.get 0x31A0 9 = 2 ∧ (∀ u, (t.testUnit u).slice = none) ∧ t.mem = s.mem)
    ∧ (s.get 0x31A0 9 = 2 → ∃ t, exec (.shutdown 2) s = .next t ∧ t.get 0x31A0 9 = 3 ∧ t.firm.rseq = (s.firm.rseq + 1) % 2 ^ 32 ∧ t.firm.marked = false ∧ t.firm.units = s.firm.units ∧ t.cores = s.cores ∧ t.mem = s.mem))

/-- R449 to R452, R455: FW_WRITE programs the slot that is not running, which is then verified or refused with its reason; an activation is staged; a core
that is free of old contexts takes the new runtime, and the last one finalizes: sequence, fuses, FW_STATE; an old context is fenced 100 ms after S; a
nonce starts a report, which its signature ends. -/
def Obligations.FirmwareSlots : Prop :=
  (∀ (last ok : Bool) (data : List Byte) (s : State),
    let k := s.otherSlot
    s.get 0x7000 4 ≠ 3 → s.firm.verifying = false → data.length ≤ 16 * mb →
    ∃ t, exec (.fwWrite true last 0#32 data ok) s = .next t ∧ t.fwSlot (1 - k) = s.fwSlot (1 - k) ∧ (t.fwSlot k).seq = 0 ∧ (t.fwSlot k).header = data.take 8192 ∧ (t.fwSlot k).written = data.length
      ∧ t.firm.hseq = s.firm.hseq + 1 ∧ (t.fwSlot k).state = (if ok then 1 else 4) ∧ t.get 0x7000 4 = (if ok then 1 else 4) ∧ t.get 0x7001 1 = (if ok then 0 else 7) ∧ t.firm.verifying = (last && ok)
      ∧ t.cores = s.cores ∧ t.mem = s.mem)
  ∧ (∀ (first last ok : Bool) (off : BitVec 32) (data : List Byte) (s : State), s.get 0x7000 4 = 3 ∨ s.firm.verifying = true → exec (.fwWrite first last off data ok) s = .next s)
  ∧ (∀ (fault : BitVec 3) (s : State),
    let k := s.otherSlot
    let r := s.slotFault k fault.toNat (if s.recovery then none else some (s.get 0x1001 2))
    (s.firm.verifying = false → exec (.fwVerifyDone fault) s = .next s)
    ∧ (s.firm.verifying = true → ∃ t, exec (.fwVerifyDone fault) s = .next t ∧ t.firm.verifying = false ∧ t.fwSlot (1 - k) = s.fwSlot (1 - k) ∧ (t.fwSlot k).header = (s.fwSlot k).header
      ∧ (r ≠ 0 → (t.fwSlot k).state = 4 ∧ t.get 0x7000 4 = 4 ∧ t.get 0x7001 1 = r ∧ (t.getB 0 0x1100 3).testBit 12 = true)
      ∧ (r = 0 → t.get 0x7000 4 = 2 ∧ (s.recovery = false → (t.fwSlot k).state = 2 ∧ t.out = s.out) ∧ (s.recovery = true → (t.fwSlot k).state = 3 ∧ (t.fwSlot k).seq = (s.fwSlot (1 - k)).seq + 1))))
  ∧ (∀ (x : BitVec 8) (s : State) (r : Rally), s.openRally 16 = some r →
    (s.activateOk x.toNat = true → ∃ t, exec (.fwActivate x) s = .next t ∧ (∀ y ∈ t.rallies, y.id = r.id → y.stagedFor fwActivateKey = some ⟨fwActivateKey, x.toNat, [], false⟩) ∧ (∃ l, t = { s with rallies := l }))
    ∧ (s.activateOk x.toNat = false → exec (.fwActivate x) s = .next s))
  ∧ (∀ (n : Fin 64) (s : State) (k t0 : Nat), s.firm.activated = some (k, t0) →
    let held : Prop := (s.core n).residents ≠ [] ∨ (s.swapped.any fun w => w.core == n.val) = true
    (s.firm.switched.getLsbD n = true ∨ held → exec (.runtimeSwitch n) s = .next s)
    ∧ (s.firm.switched.getLsbD n = false → ¬ held → ∃ t, exec (.runtimeSwitch n) s = .next t ∧ (t.core n).runtimeImage = fieldOf (s.fwSlot k).header 12 4 ∧ t.firm.switched = s.firm.switched ||| (1#64 <<< n.val)
      ∧ (t.firm.switched = BitVec.allOnes 64 → t.get 0x1001 2 = fieldOf (s.fwSlot k).header 12 4) ∧ (∀ m, m ≠ n.val → t.core m = s.core m) ∧ t.mem = s.mem)
    ∧ (s.firm.switched.getLsbD n = true ∨ s.longSince 100000 t0 = false → exec (.oldEpochContextTimeout n) s = .next s)
    ∧ (∀ i, s.firm.switched.getLsbD n = false → s.longSince 100000 t0 = true → (s.core n).residents = [i] → (s.swapped.any fun w => w.core == n.val) = false →
      let j := ((s.core n).ctx i).job
      fenceable s j → sitsAt s j n i → ∃ t, exec (.oldEpochContextTimeout n) s = .next t ∧ nowFenced t j 0x44))
  ∧ (∀ (s : State) (k t0 : Nat), s.firm.activated = some (k, t0) → k < 2 →
    let h := (s.fwSlot k).header
    (s.firm.switched ≠ BitVec.allOnes 64 → exec .fwFinalize s = .next s)
    ∧ (s.firm.switched = BitVec.allOnes 64 → ∃ t, exec .fwFinalize s = .next t ∧ (t.fwSlot k).state = 3 ∧ (t.fwSlot k).seq = (s.fwSlot (1 - k)).seq + 1 ∧ t.fwSlot (1 - k) = s.fwSlot (1 - k) ∧ t.firm.hseq = s.firm.hseq + 2
      ∧ t.firm.ctrlFuses = max s.firm.ctrlFuses (fieldOf h 16 2) ∧ t.firm.rtFuses = max s.firm.rtFuses (fieldOf h 18 2) ∧ t.get 0x7000 5 = t.firm.ctrlFuses + t.firm.rtFuses * 65536 ∧ t.get 0x7000 4 = 0
      ∧ t.firm.activated = none ∧ (t.getB 0 0x1100 3).testBit 12 = true ∧ t.cores = s.cores ∧ t.mem = s.mem))
  ∧ (∀ (nonce : List Byte) (s : State),
    (s.firm.attest = none → nonce.length = 32 → exec (.attestNonce nonce) s = .next { s with firm := { s.firm with attest := some (nonce, s.attestation nonce) } })
    ∧ (s.firm.attest ≠ none ∨ nonce.length ≠ 32 → exec (.attestNonce nonce) s = .next s))
  ∧ (∀ (sig b nonce : List Byte) (s : State), s.firm.attest = some (nonce, b) →
    (sig.length = 17088 → ∃ t, exec (.attestReportReady sig) s = .next t ∧ t.blobAt 0x7000 9 = b ++ sig ∧ t.firm.attest = none ∧ (∃ x f, t = { s with blob := x, firm := f }))
    ∧ (sig.length ≠ 17088 → exec (.attestReportReady sig) s = .next s))

/-- R287, R465 to R467: a debug access that its register set may make reads or writes 8 aligned bytes; a write clears the word's tag; an unmapped address,
an uncorrectable word, a remote timeout and a held save area end with their ERR; a GO while BUSY ends with 5. -/
def Obligations.DebugAccess : Prop :=
  (∀ (one tag ecc : Bool) (addr : BitVec 64) (ext : List Byte) (s : State),
    let a := addr.toNat % 2 ^ 48 / 8 * 8
    let run := exec (.dbgRead one addr tag ext ecc) s
    (s.dbgReached one = false → run = .next s)
    ∧ (s.dbgReached one = true → ∃ t, run = .next t ∧ (t.dbgSet one).addr = a ∧ t.mem = s.mem ∧ t.cores = s.cores ∧ t.dbgSet (!one) = s.dbgSet (!one)
      ∧ (s.region a 8 = .core → ecc = false → s.inHeldArea a = false →
        (t.dbgSet one).data = memNat s.mem 8 a ∧ (t.dbgSet one).status = if tag then (Tbl.get 0#6 s.tags (a / 8)).toNat * 2 else 0)
      ∧ (s.region a 8 = .core → ecc = false → s.inHeldArea a = true → (t.dbgSet one).data = memNat (s.saveCtx (a / Config.coreMemBytes) 2).mem 8 a)
      ∧ (s.region a 8 = .core → ecc = true → (t.dbgSet one).status = 0x200)
      ∧ (s.region a 8 = .unmapped → (t.dbgSet one).status = 0x100)
      ∧ (s.region a 8 = .remote → ext.length < 8 → (t.dbgSet one).status = 0x300)
      ∧ (s.region a 8 = .remote → 8 ≤ ext.length → (t.dbgSet one).data = fieldOf ext 0 8 ∧ (t.dbgSet one).status = 0)))
  ∧ (∀ (one late : Bool) (addr data : BitVec 64) (s : State),
    let a := addr.toNat % 2 ^ 48 / 8 * 8
    let run := exec (.dbgWrite one addr data late) s
    (s.dbgReached one = false → run = .next s)
    ∧ (s.dbgReached one = true → ∃ t, run = .next t ∧ (t.dbgSet one).addr = a ∧ (∀ i, i < a ∨ a + 8 ≤ i → memByte t.mem i = memByte s.mem i)
      ∧ (s.region a 8 = .core → s.inHeldArea a = false → memNat t.mem 8 a = data.toNat ∧ Tbl.get 0#6 t.tags (a / 8) = 0#6 ∧ (t.dbgSet one).status = 0)
      ∧ (s.region a 8 = .core → s.inHeldArea a = true → memKept s t ∧ (t.dbgSet one).status = 0x400)
      ∧ (s.region a 8 = .unmapped → memKept s t ∧ (t.dbgSet one).status = 0x100)
      ∧ (s.region a 8 = .remote → late = true → t.out = s.out ∧ (t.dbgSet one).status = 0x300)
      ∧ (s.region a 8 = .remote → late = false → t.out = s.out ++ [.data 1 a (bytesOf 8 data.toNat)] ∧ (t.dbgSet one).status = 0)))
  ∧ (∀ (v : BitVec 160) (s : State),
    let d := s.dbg.set0
    let cap := bytesOf 8 d.data ++ bytesOf 6 d.addr ++ bytesOf 4 d.status ++ bytesOf 2 0
    (s.get 0x6000 6 = 0 → exec (.dbgacc v) s = .next { s with dbg := { s.dbg with instr := .dbgacc }, out := s.out ++ [.data 10 0 [0#8]] })
    ∧ (s.get 0x6000 6 ≠ 0 → s.power.tripped = false → ∃ t, exec (.dbgacc v) s = .next t ∧ t.dbg.set1 = s.dbg.set1 ∧ s.out ++ [.data 10 0 cap] <+: t.out
      ∧ (v.getLsbD 112 = false → t.dbg.set0.data = v.toNat % 2 ^ 64 ∧ t.dbg.set0.addr = v.toNat / 2 ^ 64 % 2 ^ 48 ∧ t.dbg.set0.status = d.status ∧ t.mem = s.mem)
      ∧ (v.getLsbD 112 = true → d.status % 2 = 1 → t.dbg.set0.status = 0x501 ∧ t.mem = s.mem)))

/-- R349, R457, R460, R462, R463, R466: the TAP's instructions select their registers and drive what they must; a drain burst of the core whose turn it is
takes records off its ring within the window's share, behind the producer count (its 1,024-cycle windows and flits of 64 bytes are the model's choice,
log entry 166); a snapshot writes a record for each counter that counts; a selector's write restarts its counter; a write of a statistic clears it. -/
def Obligations.TapTraceAndCounters : Prop :=
  (∀ (c : Instr) (i : JtagInstr) (l : State → List Out) (s : State),
    (c, i, l) ∈ [(Instr.bypass, JtagInstr.bypass, fun _ => [Out.data 10 0 [0#8]]), (.idcode, .idcode, fun _ => [.data 10 0 [0x4F#8, 0x47#8, 0x26#8, 0x17#8]]),
      (.extest, .extest, fun s => [.data 10 1 (boundaryBytes s.dbg.boundary)]), (.clamp, .clamp, fun s => [.data 10 1 (boundaryBytes s.dbg.boundary)]),
      (.extestPulse, .extestPulse, fun s => [.data 10 2 (boundaryBytes s.dbg.boundary)]), (.extestTrain, .extestTrain, fun s => [.data 10 3 (boundaryBytes s.dbg.boundary)])] →
    exec c s = .next { s with dbg := { s.dbg with instr := i }, out := s.out ++ l s })
  ∧ (∀ (pins : List Bool) (s : State), exec (.samplePreload pins) s = .next { s with dbg := { s.dbg with instr := .samplePreload, boundary := pins } })
  ∧ (∀ (n : Fin 64) (consumer : BitVec 64) (s : State),
    let c := s.core n
    let area := s.get 0x6000 4 - 0x1000
    let most := min (min 128 c.traceCount) (2 * s.obsLeft (n.val / 8))
    let k := min most ((area - (s.dbg.producer - consumer.toNat)) / 32)
    (s.drainTurn (n.val / 8) ≠ some n.val → exec (.traceDrainBurst n consumer) s = .next s)
    ∧ (s.drainTurn (n.val / 8) = some n.val → s.power.tripped = false →
    (s.get 0x6000 2 = 0 → hostReach (s.get 0x6000 3) (area + 0x1000) = true → k ≠ 0 →
      ∃ t, exec (.traceDrainBurst n consumer) s = .next t ∧ (t.core n).traceCount = c.traceCount - k ∧ t.dbg.producer = s.dbg.producer + 32 * k ∧ t.obsLeft (n.val / 8) = s.obsLeft (n.val / 8) - (k + 1) / 2
        ∧ t.out.getLast? = some (.data 2 (s.get 0x6000 3) (bytesOf 8 (s.dbg.producer + 32 * k))) ∧ (∀ m, m ≠ n.val → t.core m = s.core m) ∧ t.mem = s.mem)
    ∧ (s.get 0x6000 2 = 1 → most ≠ 0 → ∃ t, exec (.traceDrainBurst n consumer) s = .next t ∧ (t.core n).traceCount = c.traceCount - most
      ∧ t.get 0x6000 8 = (s.get 0x6000 8 + 32 * most) % (32 * mb) ∧ (∀ m, m ≠ n.val → t.core m = s.core m) ∧ t.out = s.out)
    ∧ (s.obsLeft (n.val / 8) = 0 → exec (.traceDrainBurst n consumer) s = .next s)))
  ∧ (∀ (n : Fin 64) (i : Nat) (s : State),
    let e := s.mono 0 (s.symbolStart 0)
    let c := s.core n
    s.get 0x6000 7 ≠ 0 → spansUs (s.get 0x6000 7) s.dbg.snapshot e = true → s.power.tripped = false → (∀ m < 64, s.get (0x8000 + m) 0x0B = 1 ↔ m = n.val) → i < 16 →
    (∀ j < 16, s.get (0x8000 + n.val) (0x20 + j) ≠ 0 ↔ j = i) → c.traceCount < 2048 → c.traceDropPending = 0 → s.airNow 0 < 2 ^ 64 →
    ∃ t, exec .countSnapshot s = .next t ∧ t.dbg.snapshot = e.toNat ∧ (t.core n).traceCount = c.traceCount + 1 ∧ (t.core n).traceSeq = c.traceSeq + 1
      ∧ memNat t.mem 16 (n.val * Config.coreMemBytes + 0x30000 + c.traceHead % 2048 * 32 + 16)
        = (s.get (0x8000 + n.val) (0x20 + i) + i * 2 ^ 16 + s.get (0x8000 + n.val) (0x10 + i) * 2 ^ 64) % 2 ^ 128)
  ∧ (∀ s : State, s.get 0x6000 7 = 0 → exec .countSnapshot s = .next s)
  ∧ (∀ (n i : Fin 64) (v : BitVec 16) (s : State),
    (i.val < 16 → v.toNat ∈ coreSelectors → ∃ t, exec (.countSelWrite (some n) i v) s = .next t ∧ t.get (0x8000 + n.val) (0x20 + i.val) = v.toNat ∧ t.get (0x8000 + n.val) (0x10 + i.val) = 0 ∧ ∃ o, t = { s with obj := o })
    ∧ (16 ≤ i.val ∨ v.toNat ∉ coreSelectors → exec (.countSelWrite (some n) i v) s = .next s)
    ∧ (globalSelector v.toNat = true → ∃ t, exec (.countSelWrite none i v) s = .next t ∧ t.get 0x6011 (i.val + 1) = v.toNat ∧ t.get 0x6010 (i.val + 1) = 0 ∧ ∃ o, t = { s with obj := o })
    ∧ (globalSelector v.toNat = false → exec (.countSelWrite none i v) s = .next s))
  ∧ (∀ (s : State), (∃ t, exec (.statisticsClear 0x5010 2) s = .next t ∧ t.get 0x5010 2 = s.get 0x5010 1 ∧ ∃ o, t = { s with obj := o })
    ∧ (∀ n e : Nat, n < 64 → e < 4 → ∃ t, exec (.statisticsClear (BitVec.ofNat 16 (0x8000 + n)) (BitVec.ofNat 8 (0x40 + 2 * e))) s = .next t ∧ t.get (0x8000 + n) (0x40 + 2 * e) = 0 ∧ ∃ o, t = { s with obj := o })
    ∧ (∀ (i : BitVec 16) (b : BitVec 8), isStatistic i.toNat b.toNat = false → exec (.statisticsClear i b) s = .next s))

/-- One step: with a command at the front of the queue, step is exec of that command on the state with the queue's rest. With none, one Tc passes (the
model's choice, log entry 1): the clock advances; where no time base is in HOLDOVER and none follows another, an enabled time base that does not slew
counts one, and nothing but the time bases and the counts changes. -/
def Obligations.StepRunsTheFrontCommand : Prop :=
  (∀ (c : Instr) (rest : List Instr) (s : State), step { s with pending := c :: rest } = exec c { s with pending := rest })
  ∧ (∀ s : State, s.pending = [] → ∃ t, step s = .next t ∧ t.clock = s.clock + 1 ∧ t.cycles = s.cycles + 100 * s.mhz ∧ t.pending = [] ∧ t.mem = s.mem ∧ t.cores = s.cores ∧ t.jobs = s.jobs
      ∧ ((∀ m < 8, s.tbSource m ≠ 3 ∧ (s.tb m).state ≠ .holdover) →
        (∀ n < 8, (s.tb n).enabled = true → (s.tb n).slew = 0 → (s.tb n).rateAcc < 2 ^ 48 → s.get (0x2000 + n * 0x10) 0x15 = 0 → (t.tb n).tc = (s.tb n).tc + 1)
        ∧ (∀ n < 8, (s.tb n).enabled = false → t.tb n = s.tb n) ∧ (∃ b c a y, t = { s with tbs := b, clock := c, auditAir := a, cycles := y })))

/-- The state after reset: memory lists nothing and is canonical, no command waits, no job or fence is present, every object reads its default of the
dictionary, TB0 alone is enabled and runs free; registers without a default read zero (the model's choice, log entry 27). -/
def Obligations.ResetState : Prop :=
  State.reset.Sound ∧ State.reset.mem = [] ∧ State.reset.pending = [] ∧ State.reset.jobs = [] ∧ State.reset.fences = [] ∧ State.reset.rallies = []
  ∧ (∀ i u, State.reset.get i u = objDefault (okey i u)) ∧ (∀ a, memByte State.reset.mem a = 0#8)
  ∧ State.reset.tbState 0 = .freerun ∧ (∀ n, n ≠ 0 → (State.reset.tb n).enabled = false) ∧ State.reset.get 0x2000 1 = 1 ∧ State.reset.get 0x2010 1 = 0
  ∧ (∀ n i, (State.reset.core n).readG i = 0#32 ∧ (State.reset.core n).readA i = 0#48 ∧ (State.reset.core n).readV i = 0#1024) ∧ (∀ n, (State.reset.core n).jobMode = false)
  ∧ (∀ n k, ((State.reset.core n).ctx k).state = .free) ∧ State.reset.svc = 0 ∧ State.reset.power.tripped = false

/-- Every step keeps the memory in its canonical form: addresses strictly rising, no byte listed that an unlisted address reads as. -/
def Obligations.StepKeepsMemoryCanonical : Prop :=
  ∀ s t : State, s.Sound → step s = .next t → t.Sound

/-- Every command completes from every state, and leaves alone the queue behind it; what has left the chip stays recorded, and free values are never taken
back. -/
def Obligations.EveryCommandCompletes : Prop :=
  ∀ (c : Instr) (s : State), ∃ t, exec c s = .next t ∧ t.pending = s.pending ∧ s.out <+: t.out ∧ s.freeCtr ≤ t.freeCtr

/-- R425, R431, R437, R448: no command lowers a rollback fuse count; and the THERMTRIP_N latch, once set, stays through every command but a power-on reset
and a brownout, with the cores' clocks stopped all the while. -/
def Obligations.FusesAndLatchesHold : Prop :=
  ∀ (c : Instr) (s t : State), exec c s = .next t →
    s.firm.ctrlFuses ≤ t.firm.ctrlFuses ∧ s.firm.rtFuses ≤ t.firm.rtFuses
    ∧ (s.power.tripped = true → s.coresStopped = true → c ≠ .poreset → (∀ v, c ≠ .brownout v) → t.power.tripped = true ∧ t.coresStopped = true)
end

