-- ==== Sys2Proof/Laws/Table.lean ====
section
/-! SUPPORT. What the operations on sparse tables and on memory do: a read after a write, and that the canonical form is kept. -/

namespace Sys2Proof.Machine

open Sys2Proof

variable {α : Type}

/-! ### Reads after writes -/

@[simp] theorem Tbl.get_nil (d : α) (i : Nat) : Tbl.get d [] i = d := rfl

@[simp] theorem Tbl.get_cons (d : α) (k : Nat) (v : α) (t : Tbl α) (i : Nat) :
    Tbl.get d ((k, v) :: t) i = if k = i then v else Tbl.get d t i := rfl

theorem Tbl.get_erase (d : α) (t : Tbl α) (k i : Nat) :
    Tbl.get d (Tbl.erase t k) i = if i = k then d else Tbl.get d t i := by
  induction t with
  | nil => simp [Tbl.erase]
  | cons e r ih =>
    obtain ⟨a, b⟩ := e
    simp only [Tbl.erase, List.filter_cons] at ih ⊢
    by_cases ha : a = k <;> by_cases hi : i = k <;> by_cases h : a = i <;> simp_all

theorem Tbl.get_insert (d : α) (t : Tbl α) (k : Nat) (v : α) (i : Nat) (hi : i ≠ k) :
    Tbl.get d (Tbl.insert k v t) i = Tbl.get d t i := by
  induction t with
  | nil => simp [Tbl.insert, Ne.symm hi]
  | cons e r ih =>
    obtain ⟨a, b⟩ := e
    simp only [Tbl.insert]
    split
    · simp [Ne.symm hi]
    · simp only [Tbl.get_cons]
      split
      · rfl
      · exact ih

theorem Tbl.get_insert_self (d : α) (t : Tbl α) (k : Nat) (v : α) (h : ∀ e ∈ t, e.1 ≠ k) :
    Tbl.get d (Tbl.insert k v t) k = v := by
  induction t with
  | nil => simp [Tbl.insert]
  | cons e r ih =>
    obtain ⟨a, b⟩ := e
    simp only [Tbl.insert]
    split
    · simp
    · have ha : a ≠ k := h (a, b) (by simp)
      simp only [Tbl.get_cons, ha, if_false]
      exact ih fun e he => h e (by simp [he])

theorem Tbl.erase_ne (t : Tbl α) (k : Nat) : ∀ e ∈ Tbl.erase t k, e.1 ≠ k := by
  intro e he
  simpa [Tbl.erase] using (List.mem_filter.1 he).2

/-- A read after a write gives the value written at its key, and what stood there at every other key. -/
@[simp] theorem Tbl.get_set [DecidableEq α] (d : α) (t : Tbl α) (k : Nat) (v : α) (i : Nat) :
    Tbl.get d (Tbl.set d t k v) i = if i = k then v else Tbl.get d t i := by
  unfold Tbl.set
  split
  · rename_i hv
    rw [Tbl.get_erase]
    split <;> simp_all
  · by_cases hi : i = k
    · subst hi
      simp [Tbl.get_insert_self d _ i v (Tbl.erase_ne t i)]
    · rw [Tbl.get_insert d _ k v i hi, Tbl.get_erase, if_neg hi, if_neg hi]

/-- A read of another key gives what stood there, whatever an unlisted key reads as. -/
theorem Tbl.get_set_other [DecidableEq α] (d e : α) (t : Tbl α) (k : Nat) (v : α) (i : Nat) (hi : i ≠ k) :
    Tbl.get d (Tbl.set e t k v) i = Tbl.get d t i := by
  unfold Tbl.set
  split
  · rw [Tbl.get_erase, if_neg hi]
  · rw [Tbl.get_insert d _ k v i hi, Tbl.get_erase, if_neg hi]

theorem Tbl.erase_insert (k : Nat) (v : α) (t : Tbl α) : Tbl.erase (Tbl.insert k v t) k = Tbl.erase t k := by
  induction t with
  | nil => simp [Tbl.insert, Tbl.erase]
  | cons e r ih =>
    obtain ⟨a, b⟩ := e
    simp only [Tbl.insert]
    split
    · simp [Tbl.erase]
    · simp only [Tbl.erase, List.filter_cons] at ih ⊢
      rw [ih]

/-- Of two writes of one key the second stands. -/
@[simp] theorem Tbl.set_set [DecidableEq α] (d : α) (t : Tbl α) (k : Nat) (v w : α) : Tbl.set d (Tbl.set d t k v) k w = Tbl.set d t k w := by
  have h : Tbl.erase (Tbl.set d t k v) k = Tbl.erase t k := by
    unfold Tbl.set
    split
    · simp [Tbl.erase]
    · rw [Tbl.erase_insert]
      simp [Tbl.erase]
  conv_lhs => rw [Tbl.set]
  conv_rhs => rw [Tbl.set]
  rw [h]

/-! ### The canonical form -/

/-- Keys above a bound, values not the default: what the tail of a canonical table is. -/
theorem Tbl.wf_cons [DecidableEq α] (d : α) (k : Nat) (v : α) (t : Tbl α) :
    Tbl.wf d ((k, v) :: t) = true ↔ v ≠ d ∧ (∀ e ∈ t, k < e.1) ∧ Tbl.wf d t = true := by
  induction t generalizing k v with
  | nil => simp [Tbl.wf]
  | cons e r ih =>
    obtain ⟨a, b⟩ := e
    have h := ih a b
    simp only [Tbl.wf, Bool.and_eq_true, decide_eq_true_eq, List.mem_cons, forall_eq_or_imp]
    constructor
    · rintro ⟨⟨hk, hv⟩, hw⟩
      exact ⟨hv, ⟨hk, fun e he => Nat.lt_trans hk ((h.1 hw).2.1 e he)⟩, hw⟩
    · rintro ⟨hv, ⟨hk, -⟩, hw⟩
      exact ⟨⟨hk, hv⟩, hw⟩

theorem Tbl.wf_filter [DecidableEq α] (d : α) (p : Nat × α → Bool) (t : Tbl α) (h : Tbl.wf d t = true) :
    Tbl.wf d (t.filter p) = true := by
  induction t with
  | nil => rfl
  | cons e r ih =>
    obtain ⟨a, b⟩ := e
    obtain ⟨hv, hk, hr⟩ := (Tbl.wf_cons d a b r).1 h
    rw [List.filter_cons]
    split
    · exact (Tbl.wf_cons d a b _).2 ⟨hv, fun e he => hk e (List.mem_of_mem_filter he), ih hr⟩
    · exact ih hr

theorem Tbl.mem_insert (k : Nat) (v : α) (t : Tbl α) (e : Nat × α) (h : e ∈ Tbl.insert k v t) : e = (k, v) ∨ e ∈ t := by
  induction t with
  | nil => simpa [Tbl.insert] using h
  | cons x r ih =>
    obtain ⟨a, b⟩ := x
    simp only [Tbl.insert] at h
    split at h
    · simpa using h
    · rcases List.mem_cons.1 h with h | h
      · exact .inr (by simp [h])
      · exact (ih h).imp id fun h => by simp [h]

theorem Tbl.wf_insert [DecidableEq α] (d : α) (k : Nat) (v : α) (t : Tbl α) (hv : v ≠ d) (hk : ∀ e ∈ t, e.1 ≠ k)
    (h : Tbl.wf d t = true) : Tbl.wf d (Tbl.insert k v t) = true := by
  induction t with
  | nil => simpa [Tbl.insert, Tbl.wf] using hv
  | cons e r ih =>
    obtain ⟨a, b⟩ := e
    obtain ⟨hb, ha, hr⟩ := (Tbl.wf_cons d a b r).1 h
    have hak : a ≠ k := hk (a, b) (by simp)
    simp only [Tbl.insert]
    split
    · rename_i hlt
      refine (Tbl.wf_cons d k v _).2 ⟨hv, fun e he => ?_, h⟩
      rcases List.mem_cons.1 he with rfl | he
      · exact hlt
      · exact Nat.lt_trans hlt (ha e he)
    · rename_i hge
      refine (Tbl.wf_cons d a b _).2 ⟨hb, fun e he => ?_, ih (fun e he => hk e (by simp [he])) hr⟩
      rcases Tbl.mem_insert k v r e he with rfl | he
      · simp only; omega
      · exact ha e he

/-- A write keeps the canonical form. -/
theorem Tbl.wf_set [DecidableEq α] (d : α) (t : Tbl α) (k : Nat) (v : α) (h : Tbl.wf d t = true) :
    Tbl.wf d (Tbl.set d t k v) = true := by
  unfold Tbl.set
  split
  · exact Tbl.wf_filter d _ t h
  · rename_i hv
    exact Tbl.wf_insert d k v _ hv (Tbl.erase_ne t k) (Tbl.wf_filter d _ t h)

/-! ### Memory -/

/-- A byte read after a byte was stored. -/
@[simp] theorem memByte_memPut (m : List Host.Cell) (a : Nat) (b : Byte) (i : Nat) :
    memByte (memPut m a b) i = if i = a then b else memByte m i := Tbl.get_set 0#8 m a b i

theorem memPut_wf (m : List Host.Cell) (a : Nat) (b : Byte) (h : Memory.wf m = true) : Memory.wf (memPut m a b) = true :=
  Tbl.wf_set 0#8 m a b h

theorem memPutNat_wf (n : Nat) : ∀ (m : List Host.Cell) (a x : Nat), Memory.wf m = true → Memory.wf (memPutNat m n a x) = true := by
  induction n with
  | zero => intro m a x h; exact h
  | succ n ih => intro m a x h; exact ih _ _ _ (memPut_wf _ _ _ h)

theorem memPutMask_wf (n : Nat) :
    ∀ (m : List Host.Cell) (a x k : Nat), Memory.wf m = true → Memory.wf (memPutMask m n a x k) = true := by
  induction n with
  | zero => intro m a x k h; exact h
  | succ n ih =>
    intro m a x k h
    refine ih _ _ _ _ ?_
    split
    · exact memPut_wf _ _ _ h
    · exact h

theorem memPutBytes_wf (l : List Byte) : ∀ (m : List Host.Cell) (a : Nat), Memory.wf m = true → Memory.wf (memPutBytes m a l) = true := by
  induction l with
  | nil => intro m a h; exact h
  | cons b r ih => intro m a h; exact ih _ _ (memPut_wf _ _ _ h)

/-- Outside the bytes stored, memory reads as before. -/
theorem memByte_memPutNat (n : Nat) :
    ∀ (m : List Host.Cell) (a x i : Nat), i < a ∨ a + n ≤ i → memByte (memPutNat m n a x) i = memByte m i := by
  induction n with
  | zero => intro m a x i _; rfl
  | succ n ih =>
    intro m a x i h
    rw [memPutNat, ih _ _ _ _ (by omega), memByte_memPut, if_neg (by omega)]

theorem memByte_memPutMask (n : Nat) :
    ∀ (m : List Host.Cell) (a x k i : Nat), i < a ∨ a + n ≤ i → memByte (memPutMask m n a x k) i = memByte m i := by
  induction n with
  | zero => intro m a x k i _; rfl
  | succ n ih =>
    intro m a x k i h
    rw [memPutMask, ih _ _ _ _ _ (by omega)]
    split
    · rw [memByte_memPut, if_neg (by omega)]
    · rfl

theorem memByte_memPutBytes (l : List Byte) :
    ∀ (m : List Host.Cell) (a i : Nat), i < a ∨ a + l.length ≤ i → memByte (memPutBytes m a l) i = memByte m i := by
  induction l with
  | nil => intro m a i _; rfl
  | cons b r ih =>
    intro m a i h
    simp only [List.length_cons] at h
    rw [memPutBytes, ih _ _ _ (by omega), memByte_memPut, if_neg (by omega)]

theorem memPutFold_wf (l : List Host.Cell) :
    ∀ m : List Host.Cell, Memory.wf m = true → Memory.wf (l.foldl (fun m c => memPut m c.1 c.2) m) = true := by
  induction l with
  | nil => intro m h; exact h
  | cons c r ih => intro m h; exact ih _ (memPut_wf _ _ _ h)

theorem store_wf (s : State) (n a x : Nat) (h : Memory.wf s.mem = true) : Memory.wf (s.store n a x).mem = true :=
  memPutNat_wf n s.mem a x h

theorem storeMask_wf (s : State) (n a x k : Nat) (h : Memory.wf s.mem = true) : Memory.wf (s.storeMask n a x k).mem = true :=
  memPutMask_wf n s.mem a x k h

theorem storeBytes_wf (s : State) (a : Nat) (b : List Byte) (h : Memory.wf s.mem = true) : Memory.wf (s.storeBytes a b).mem = true :=
  memPutBytes_wf b s.mem a h

/-- The n low bytes written read back. -/
theorem memNat_memPutNat (n : Nat) :
    ∀ (m : List Host.Cell) (a x : Nat), memNat (memPutNat m n a x) n a = x % 256 ^ n := by
  induction n with
  | zero => intro m a x; simp [memNat, Nat.mod_one]
  | succ n ih =>
    intro m a x
    rw [memNat, memPutNat, ih, memByte_memPutNat _ _ _ _ _ (by omega), memByte_memPut, if_pos rfl, Nat.pow_succ,
      Nat.mul_comm (256 ^ n) 256, Nat.mod_mul]
    simp

end Sys2Proof.Machine
end

