-- ==== Sys2Proof/Laws/State.lean ====
section
/-! SUPPORT. One lemma per field per update of State: what each named update writes, and that it leaves every other field as it is. -/

namespace Sys2Proof.Machine

open Sys2Proof

variable (s : State)

/-! ### setCore -/

@[simp] theorem setCore_pending (n : Nat) (c : Core) : (s.setCore n c).pending = s.pending := rfl
@[simp] theorem setCore_out (n : Nat) (c : Core) : (s.setCore n c).out = s.out := rfl
@[simp] theorem setCore_freeCtr (n : Nat) (c : Core) : (s.setCore n c).freeCtr = s.freeCtr := rfl
@[simp] theorem setCore_clock (n : Nat) (c : Core) : (s.setCore n c).clock = s.clock := rfl
@[simp] theorem setCore_auditAir (n : Nat) (c : Core) : (s.setCore n c).auditAir = s.auditAir := rfl
@[simp] theorem setCore_mem (n : Nat) (c : Core) : (s.setCore n c).mem = s.mem := rfl
@[simp] theorem setCore_tags (n : Nat) (c : Core) : (s.setCore n c).tags = s.tags := rfl
@[simp] theorem setCore_cores (n : Nat) (c : Core) : (s.setCore n c).cores = Tbl.set (Core.reset n) s.cores n c := rfl
@[simp] theorem setCore_tallies (n : Nat) (c : Core) : (s.setCore n c).tallies = s.tallies := rfl
@[simp] theorem setCore_tpools (n : Nat) (c : Core) : (s.setCore n c).tpools = s.tpools := rfl
@[simp] theorem setCore_pools (n : Nat) (c : Core) : (s.setCore n c).pools = s.pools := rfl
@[simp] theorem setCore_queues (n : Nat) (c : Core) : (s.setCore n c).queues = s.queues := rfl
@[simp] theorem setCore_heldBy (n : Nat) (c : Core) : (s.setCore n c).heldBy = s.heldBy := rfl
@[simp] theorem setCore_handleFrom (n : Nat) (c : Core) : (s.setCore n c).handleFrom = s.handleFrom := rfl
@[simp] theorem setCore_credits (n : Nat) (c : Core) : (s.setCore n c).credits = s.credits := rfl
@[simp] theorem setCore_jobs (n : Nat) (c : Core) : (s.setCore n c).jobs = s.jobs := rfl
@[simp] theorem setCore_nextJob (n : Nat) (c : Core) : (s.setCore n c).nextJob = s.nextJob := rfl
@[simp] theorem setCore_swapped (n : Nat) (c : Core) : (s.setCore n c).swapped = s.swapped := rfl
@[simp] theorem setCore_orders (n : Nat) (c : Core) : (s.setCore n c).orders = s.orders := rfl
@[simp] theorem setCore_nextOrder (n : Nat) (c : Core) : (s.setCore n c).nextOrder = s.nextOrder := rfl
@[simp] theorem setCore_coding (n : Nat) (c : Core) : (s.setCore n c).coding = s.coding := rfl
@[simp] theorem setCore_harq (n : Nat) (c : Core) : (s.setCore n c).harq = s.harq := rfl
@[simp] theorem setCore_transforms (n : Nat) (c : Core) : (s.setCore n c).transforms = s.transforms := rfl
@[simp] theorem setCore_lib (n : Nat) (c : Core) : (s.setCore n c).lib = s.lib := rfl
@[simp] theorem setCore_bench (n : Nat) (c : Core) : (s.setCore n c).bench = s.bench := rfl
@[simp] theorem setCore_loads (n : Nat) (c : Core) : (s.setCore n c).loads = s.loads := rfl
@[simp] theorem setCore_funcs (n : Nat) (c : Core) : (s.setCore n c).funcs = s.funcs := rfl
@[simp] theorem setCore_bursts (n : Nat) (c : Core) : (s.setCore n c).bursts = s.bursts := rfl
@[simp] theorem setCore_cplane (n : Nat) (c : Core) : (s.setCore n c).cplane = s.cplane := rfl
@[simp] theorem setCore_ecpriSeq (n : Nat) (c : Core) : (s.setCore n c).ecpriSeq = s.ecpriSeq := rfl
@[simp] theorem setCore_txHeld (n : Nat) (c : Core) : (s.setCore n c).txHeld = s.txHeld := rfl
@[simp] theorem setCore_adaptSlots (n : Nat) (c : Core) : (s.setCore n c).adaptSlots = s.adaptSlots := rfl
@[simp] theorem setCore_adaptUsed (n : Nat) (c : Core) : (s.setCore n c).adaptUsed = s.adaptUsed := rfl
@[simp] theorem setCore_audit (n : Nat) (c : Core) : (s.setCore n c).audit = s.audit := rfl
@[simp] theorem setCore_whistle (n : Nat) (c : Core) : (s.setCore n c).whistle = s.whistle := rfl
@[simp] theorem setCore_replay (n : Nat) (c : Core) : (s.setCore n c).replay = s.replay := rfl
@[simp] theorem setCore_cycles (n : Nat) (c : Core) : (s.setCore n c).cycles = s.cycles := rfl
@[simp] theorem setCore_benchPages (n : Nat) (c : Core) : (s.setCore n c).benchPages = s.benchPages := rfl
@[simp] theorem setCore_fenceQueue (n : Nat) (c : Core) : (s.setCore n c).fenceQueue = s.fenceQueue := rfl
@[simp] theorem setCore_obj (n : Nat) (c : Core) : (s.setCore n c).obj = s.obj := rfl
@[simp] theorem setCore_blob (n : Nat) (c : Core) : (s.setCore n c).blob = s.blob := rfl
@[simp] theorem setCore_tbs (n : Nat) (c : Core) : (s.setCore n c).tbs = s.tbs := rfl
@[simp] theorem setCore_pins (n : Nat) (c : Core) : (s.setCore n c).pins = s.pins := rfl
@[simp] theorem setCore_pps (n : Nat) (c : Core) : (s.setCore n c).pps = s.pps := rfl
@[simp] theorem setCore_fences (n : Nat) (c : Core) : (s.setCore n c).fences = s.fences := rfl
@[simp] theorem setCore_rallies (n : Nat) (c : Core) : (s.setCore n c).rallies = s.rallies := rfl
@[simp] theorem setCore_svc (n : Nat) (c : Core) : (s.setCore n c).svc = s.svc := rfl
@[simp] theorem setCore_coresStopped (n : Nat) (c : Core) : (s.setCore n c).coresStopped = s.coresStopped := rfl
@[simp] theorem setCore_pwrm (n : Nat) (c : Core) : (s.setCore n c).pwrm = s.pwrm := rfl
@[simp] theorem setCore_therm (n : Nat) (c : Core) : (s.setCore n c).therm = s.therm := rfl
@[simp] theorem setCore_fixedBreach (n : Nat) (c : Core) : (s.setCore n c).fixedBreach = s.fixedBreach := rfl
@[simp] theorem setCore_chip (n : Nat) (c : Core) : (s.setCore n c).chip = s.chip := rfl
@[simp] theorem setCore_chans (n : Nat) (c : Core) : (s.setCore n c).chans = s.chans := rfl
@[simp] theorem setCore_waits (n : Nat) (c : Core) : (s.setCore n c).waits = s.waits := rfl
@[simp] theorem setCore_queued (n : Nat) (c : Core) : (s.setCore n c).queued = s.queued := rfl
@[simp] theorem setCore_mgmtIp (n : Nat) (c : Core) : (s.setCore n c).mgmtIp = s.mgmtIp := rfl
@[simp] theorem setCore_begun (n : Nat) (c : Core) : (s.setCore n c).begun = s.begun := rfl
@[simp] theorem setCore_commits (n : Nat) (c : Core) : (s.setCore n c).commits = s.commits := rfl
@[simp] theorem setCore_mgl (n : Nat) (c : Core) : (s.setCore n c).mgl = s.mgl := rfl
@[simp] theorem setCore_firm (n : Nat) (c : Core) : (s.setCore n c).firm = s.firm := rfl
@[simp] theorem setCore_power (n : Nat) (c : Core) : (s.setCore n c).power = s.power := rfl
@[simp] theorem setCore_dbg (n : Nat) (c : Core) : (s.setCore n c).dbg = s.dbg := rfl
@[simp] theorem setCore_ldpcEpoch (n : Nat) (c : Core) : (s.setCore n c).ldpcEpoch = s.ldpcEpoch := rfl
@[simp] theorem setCore_xspiErrors (n : Nat) (c : Core) : (s.setCore n c).xspiErrors = s.xspiErrors := rfl
@[simp] theorem setCore_fhFails (n : Nat) (c : Core) : (s.setCore n c).fhFails = s.fhFails := rfl
@[simp] theorem setCore_past (n : Nat) (c : Core) : (s.setCore n c).past = s.past := rfl

/-! ### setTb -/

@[simp] theorem setTb_pending (n : Nat) (b : TimeBase) : (s.setTb n b).pending = s.pending := rfl
@[simp] theorem setTb_out (n : Nat) (b : TimeBase) : (s.setTb n b).out = s.out := rfl
@[simp] theorem setTb_freeCtr (n : Nat) (b : TimeBase) : (s.setTb n b).freeCtr = s.freeCtr := rfl
@[simp] theorem setTb_clock (n : Nat) (b : TimeBase) : (s.setTb n b).clock = s.clock := rfl
@[simp] theorem setTb_auditAir (n : Nat) (b : TimeBase) : (s.setTb n b).auditAir = s.auditAir := rfl
@[simp] theorem setTb_mem (n : Nat) (b : TimeBase) : (s.setTb n b).mem = s.mem := rfl
@[simp] theorem setTb_tags (n : Nat) (b : TimeBase) : (s.setTb n b).tags = s.tags := rfl
@[simp] theorem setTb_cores (n : Nat) (b : TimeBase) : (s.setTb n b).cores = s.cores := rfl
@[simp] theorem setTb_tallies (n : Nat) (b : TimeBase) : (s.setTb n b).tallies = s.tallies := rfl
@[simp] theorem setTb_tpools (n : Nat) (b : TimeBase) : (s.setTb n b).tpools = s.tpools := rfl
@[simp] theorem setTb_pools (n : Nat) (b : TimeBase) : (s.setTb n b).pools = s.pools := rfl
@[simp] theorem setTb_queues (n : Nat) (b : TimeBase) : (s.setTb n b).queues = s.queues := rfl
@[simp] theorem setTb_heldBy (n : Nat) (b : TimeBase) : (s.setTb n b).heldBy = s.heldBy := rfl
@[simp] theorem setTb_handleFrom (n : Nat) (b : TimeBase) : (s.setTb n b).handleFrom = s.handleFrom := rfl
@[simp] theorem setTb_credits (n : Nat) (b : TimeBase) : (s.setTb n b).credits = s.credits := rfl
@[simp] theorem setTb_jobs (n : Nat) (b : TimeBase) : (s.setTb n b).jobs = s.jobs := rfl
@[simp] theorem setTb_nextJob (n : Nat) (b : TimeBase) : (s.setTb n b).nextJob = s.nextJob := rfl
@[simp] theorem setTb_swapped (n : Nat) (b : TimeBase) : (s.setTb n b).swapped = s.swapped := rfl
@[simp] theorem setTb_orders (n : Nat) (b : TimeBase) : (s.setTb n b).orders = s.orders := rfl
@[simp] theorem setTb_nextOrder (n : Nat) (b : TimeBase) : (s.setTb n b).nextOrder = s.nextOrder := rfl
@[simp] theorem setTb_coding (n : Nat) (b : TimeBase) : (s.setTb n b).coding = s.coding := rfl
@[simp] theorem setTb_harq (n : Nat) (b : TimeBase) : (s.setTb n b).harq = s.harq := rfl
@[simp] theorem setTb_transforms (n : Nat) (b : TimeBase) : (s.setTb n b).transforms = s.transforms := rfl
@[simp] theorem setTb_lib (n : Nat) (b : TimeBase) : (s.setTb n b).lib = s.lib := rfl
@[simp] theorem setTb_bench (n : Nat) (b : TimeBase) : (s.setTb n b).bench = s.bench := rfl
@[simp] theorem setTb_loads (n : Nat) (b : TimeBase) : (s.setTb n b).loads = s.loads := rfl
@[simp] theorem setTb_funcs (n : Nat) (b : TimeBase) : (s.setTb n b).funcs = s.funcs := rfl
@[simp] theorem setTb_bursts (n : Nat) (b : TimeBase) : (s.setTb n b).bursts = s.bursts := rfl
@[simp] theorem setTb_cplane (n : Nat) (b : TimeBase) : (s.setTb n b).cplane = s.cplane := rfl
@[simp] theorem setTb_ecpriSeq (n : Nat) (b : TimeBase) : (s.setTb n b).ecpriSeq = s.ecpriSeq := rfl
@[simp] theorem setTb_txHeld (n : Nat) (b : TimeBase) : (s.setTb n b).txHeld = s.txHeld := rfl
@[simp] theorem setTb_adaptSlots (n : Nat) (b : TimeBase) : (s.setTb n b).adaptSlots = s.adaptSlots := rfl
@[simp] theorem setTb_adaptUsed (n : Nat) (b : TimeBase) : (s.setTb n b).adaptUsed = s.adaptUsed := rfl
@[simp] theorem setTb_audit (n : Nat) (b : TimeBase) : (s.setTb n b).audit = s.audit := rfl
@[simp] theorem setTb_whistle (n : Nat) (b : TimeBase) : (s.setTb n b).whistle = s.whistle := rfl
@[simp] theorem setTb_replay (n : Nat) (b : TimeBase) : (s.setTb n b).replay = s.replay := rfl
@[simp] theorem setTb_cycles (n : Nat) (b : TimeBase) : (s.setTb n b).cycles = s.cycles := rfl
@[simp] theorem setTb_benchPages (n : Nat) (b : TimeBase) : (s.setTb n b).benchPages = s.benchPages := rfl
@[simp] theorem setTb_fenceQueue (n : Nat) (b : TimeBase) : (s.setTb n b).fenceQueue = s.fenceQueue := rfl
@[simp] theorem setTb_obj (n : Nat) (b : TimeBase) : (s.setTb n b).obj = s.obj := rfl
@[simp] theorem setTb_blob (n : Nat) (b : TimeBase) : (s.setTb n b).blob = s.blob := rfl
@[simp] theorem setTb_tbs (n : Nat) (b : TimeBase) : (s.setTb n b).tbs = Tbl.set {} s.tbs n b := rfl
@[simp] theorem setTb_pins (n : Nat) (b : TimeBase) : (s.setTb n b).pins = s.pins := rfl
@[simp] theorem setTb_pps (n : Nat) (b : TimeBase) : (s.setTb n b).pps = s.pps := rfl
@[simp] theorem setTb_fences (n : Nat) (b : TimeBase) : (s.setTb n b).fences = s.fences := rfl
@[simp] theorem setTb_rallies (n : Nat) (b : TimeBase) : (s.setTb n b).rallies = s.rallies := rfl
@[simp] theorem setTb_svc (n : Nat) (b : TimeBase) : (s.setTb n b).svc = s.svc := rfl
@[simp] theorem setTb_coresStopped (n : Nat) (b : TimeBase) : (s.setTb n b).coresStopped = s.coresStopped := rfl
@[simp] theorem setTb_pwrm (n : Nat) (b : TimeBase) : (s.setTb n b).pwrm = s.pwrm := rfl
@[simp] theorem setTb_therm (n : Nat) (b : TimeBase) : (s.setTb n b).therm = s.therm := rfl
@[simp] theorem setTb_fixedBreach (n : Nat) (b : TimeBase) : (s.setTb n b).fixedBreach = s.fixedBreach := rfl
@[simp] theorem setTb_chip (n : Nat) (b : TimeBase) : (s.setTb n b).chip = s.chip := rfl
@[simp] theorem setTb_chans (n : Nat) (b : TimeBase) : (s.setTb n b).chans = s.chans := rfl
@[simp] theorem setTb_waits (n : Nat) (b : TimeBase) : (s.setTb n b).waits = s.waits := rfl
@[simp] theorem setTb_queued (n : Nat) (b : TimeBase) : (s.setTb n b).queued = s.queued := rfl
@[simp] theorem setTb_mgmtIp (n : Nat) (b : TimeBase) : (s.setTb n b).mgmtIp = s.mgmtIp := rfl
@[simp] theorem setTb_begun (n : Nat) (b : TimeBase) : (s.setTb n b).begun = s.begun := rfl
@[simp] theorem setTb_commits (n : Nat) (b : TimeBase) : (s.setTb n b).commits = s.commits := rfl
@[simp] theorem setTb_mgl (n : Nat) (b : TimeBase) : (s.setTb n b).mgl = s.mgl := rfl
@[simp] theorem setTb_firm (n : Nat) (b : TimeBase) : (s.setTb n b).firm = s.firm := rfl
@[simp] theorem setTb_power (n : Nat) (b : TimeBase) : (s.setTb n b).power = s.power := rfl
@[simp] theorem setTb_dbg (n : Nat) (b : TimeBase) : (s.setTb n b).dbg = s.dbg := rfl
@[simp] theorem setTb_ldpcEpoch (n : Nat) (b : TimeBase) : (s.setTb n b).ldpcEpoch = s.ldpcEpoch := rfl
@[simp] theorem setTb_xspiErrors (n : Nat) (b : TimeBase) : (s.setTb n b).xspiErrors = s.xspiErrors := rfl
@[simp] theorem setTb_fhFails (n : Nat) (b : TimeBase) : (s.setTb n b).fhFails = s.fhFails := rfl
@[simp] theorem setTb_past (n : Nat) (b : TimeBase) : (s.setTb n b).past = s.past := rfl

/-! ### setTally -/

@[simp] theorem setTally_pending (n : Nat) (y : Tally) : (s.setTally n y).pending = s.pending := rfl
@[simp] theorem setTally_out (n : Nat) (y : Tally) : (s.setTally n y).out = s.out := rfl
@[simp] theorem setTally_freeCtr (n : Nat) (y : Tally) : (s.setTally n y).freeCtr = s.freeCtr := rfl
@[simp] theorem setTally_clock (n : Nat) (y : Tally) : (s.setTally n y).clock = s.clock := rfl
@[simp] theorem setTally_auditAir (n : Nat) (y : Tally) : (s.setTally n y).auditAir = s.auditAir := rfl
@[simp] theorem setTally_mem (n : Nat) (y : Tally) : (s.setTally n y).mem = s.mem := rfl
@[simp] theorem setTally_tags (n : Nat) (y : Tally) : (s.setTally n y).tags = s.tags := rfl
@[simp] theorem setTally_cores (n : Nat) (y : Tally) : (s.setTally n y).cores = s.cores := rfl
@[simp] theorem setTally_tallies (n : Nat) (y : Tally) : (s.setTally n y).tallies = Tbl.set {} s.tallies n y := rfl
@[simp] theorem setTally_tpools (n : Nat) (y : Tally) : (s.setTally n y).tpools = s.tpools := rfl
@[simp] theorem setTally_pools (n : Nat) (y : Tally) : (s.setTally n y).pools = s.pools := rfl
@[simp] theorem setTally_queues (n : Nat) (y : Tally) : (s.setTally n y).queues = s.queues := rfl
@[simp] theorem setTally_heldBy (n : Nat) (y : Tally) : (s.setTally n y).heldBy = s.heldBy := rfl
@[simp] theorem setTally_handleFrom (n : Nat) (y : Tally) : (s.setTally n y).handleFrom = s.handleFrom := rfl
@[simp] theorem setTally_credits (n : Nat) (y : Tally) : (s.setTally n y).credits = s.credits := rfl
@[simp] theorem setTally_jobs (n : Nat) (y : Tally) : (s.setTally n y).jobs = s.jobs := rfl
@[simp] theorem setTally_nextJob (n : Nat) (y : Tally) : (s.setTally n y).nextJob = s.nextJob := rfl
@[simp] theorem setTally_swapped (n : Nat) (y : Tally) : (s.setTally n y).swapped = s.swapped := rfl
@[simp] theorem setTally_orders (n : Nat) (y : Tally) : (s.setTally n y).orders = s.orders := rfl
@[simp] theorem setTally_nextOrder (n : Nat) (y : Tally) : (s.setTally n y).nextOrder = s.nextOrder := rfl
@[simp] theorem setTally_coding (n : Nat) (y : Tally) : (s.setTally n y).coding = s.coding := rfl
@[simp] theorem setTally_harq (n : Nat) (y : Tally) : (s.setTally n y).harq = s.harq := rfl
@[simp] theorem setTally_transforms (n : Nat) (y : Tally) : (s.setTally n y).transforms = s.transforms := rfl
@[simp] theorem setTally_lib (n : Nat) (y : Tally) : (s.setTally n y).lib = s.lib := rfl
@[simp] theorem setTally_bench (n : Nat) (y : Tally) : (s.setTally n y).bench = s.bench := rfl
@[simp] theorem setTally_loads (n : Nat) (y : Tally) : (s.setTally n y).loads = s.loads := rfl
@[simp] theorem setTally_funcs (n : Nat) (y : Tally) : (s.setTally n y).funcs = s.funcs := rfl
@[simp] theorem setTally_bursts (n : Nat) (y : Tally) : (s.setTally n y).bursts = s.bursts := rfl
@[simp] theorem setTally_cplane (n : Nat) (y : Tally) : (s.setTally n y).cplane = s.cplane := rfl
@[simp] theorem setTally_ecpriSeq (n : Nat) (y : Tally) : (s.setTally n y).ecpriSeq = s.ecpriSeq := rfl
@[simp] theorem setTally_txHeld (n : Nat) (y : Tally) : (s.setTally n y).txHeld = s.txHeld := rfl
@[simp] theorem setTally_adaptSlots (n : Nat) (y : Tally) : (s.setTally n y).adaptSlots = s.adaptSlots := rfl
@[simp] theorem setTally_adaptUsed (n : Nat) (y : Tally) : (s.setTally n y).adaptUsed = s.adaptUsed := rfl
@[simp] theorem setTally_audit (n : Nat) (y : Tally) : (s.setTally n y).audit = s.audit := rfl
@[simp] theorem setTally_whistle (n : Nat) (y : Tally) : (s.setTally n y).whistle = s.whistle := rfl
@[simp] theorem setTally_replay (n : Nat) (y : Tally) : (s.setTally n y).replay = s.replay := rfl
@[simp] theorem setTally_cycles (n : Nat) (y : Tally) : (s.setTally n y).cycles = s.cycles := rfl
@[simp] theorem setTally_benchPages (n : Nat) (y : Tally) : (s.setTally n y).benchPages = s.benchPages := rfl
@[simp] theorem setTally_fenceQueue (n : Nat) (y : Tally) : (s.setTally n y).fenceQueue = s.fenceQueue := rfl
@[simp] theorem setTally_obj (n : Nat) (y : Tally) : (s.setTally n y).obj = s.obj := rfl
@[simp] theorem setTally_blob (n : Nat) (y : Tally) : (s.setTally n y).blob = s.blob := rfl
@[simp] theorem setTally_tbs (n : Nat) (y : Tally) : (s.setTally n y).tbs = s.tbs := rfl
@[simp] theorem setTally_pins (n : Nat) (y : Tally) : (s.setTally n y).pins = s.pins := rfl
@[simp] theorem setTally_pps (n : Nat) (y : Tally) : (s.setTally n y).pps = s.pps := rfl
@[simp] theorem setTally_fences (n : Nat) (y : Tally) : (s.setTally n y).fences = s.fences := rfl
@[simp] theorem setTally_rallies (n : Nat) (y : Tally) : (s.setTally n y).rallies = s.rallies := rfl
@[simp] theorem setTally_svc (n : Nat) (y : Tally) : (s.setTally n y).svc = s.svc := rfl
@[simp] theorem setTally_coresStopped (n : Nat) (y : Tally) : (s.setTally n y).coresStopped = s.coresStopped := rfl
@[simp] theorem setTally_pwrm (n : Nat) (y : Tally) : (s.setTally n y).pwrm = s.pwrm := rfl
@[simp] theorem setTally_therm (n : Nat) (y : Tally) : (s.setTally n y).therm = s.therm := rfl
@[simp] theorem setTally_fixedBreach (n : Nat) (y : Tally) : (s.setTally n y).fixedBreach = s.fixedBreach := rfl
@[simp] theorem setTally_chip (n : Nat) (y : Tally) : (s.setTally n y).chip = s.chip := rfl
@[simp] theorem setTally_chans (n : Nat) (y : Tally) : (s.setTally n y).chans = s.chans := rfl
@[simp] theorem setTally_waits (n : Nat) (y : Tally) : (s.setTally n y).waits = s.waits := rfl
@[simp] theorem setTally_queued (n : Nat) (y : Tally) : (s.setTally n y).queued = s.queued := rfl
@[simp] theorem setTally_mgmtIp (n : Nat) (y : Tally) : (s.setTally n y).mgmtIp = s.mgmtIp := rfl
@[simp] theorem setTally_begun (n : Nat) (y : Tally) : (s.setTally n y).begun = s.begun := rfl
@[simp] theorem setTally_commits (n : Nat) (y : Tally) : (s.setTally n y).commits = s.commits := rfl
@[simp] theorem setTally_mgl (n : Nat) (y : Tally) : (s.setTally n y).mgl = s.mgl := rfl
@[simp] theorem setTally_firm (n : Nat) (y : Tally) : (s.setTally n y).firm = s.firm := rfl
@[simp] theorem setTally_power (n : Nat) (y : Tally) : (s.setTally n y).power = s.power := rfl
@[simp] theorem setTally_dbg (n : Nat) (y : Tally) : (s.setTally n y).dbg = s.dbg := rfl
@[simp] theorem setTally_ldpcEpoch (n : Nat) (y : Tally) : (s.setTally n y).ldpcEpoch = s.ldpcEpoch := rfl
@[simp] theorem setTally_xspiErrors (n : Nat) (y : Tally) : (s.setTally n y).xspiErrors = s.xspiErrors := rfl
@[simp] theorem setTally_fhFails (n : Nat) (y : Tally) : (s.setTally n y).fhFails = s.fhFails := rfl
@[simp] theorem setTally_past (n : Nat) (y : Tally) : (s.setTally n y).past = s.past := rfl

/-! ### setJob -/

@[simp] theorem setJob_pending (n : Nat) (j : Job) : (s.setJob n j).pending = s.pending := rfl
@[simp] theorem setJob_out (n : Nat) (j : Job) : (s.setJob n j).out = s.out := rfl
@[simp] theorem setJob_freeCtr (n : Nat) (j : Job) : (s.setJob n j).freeCtr = s.freeCtr := rfl
@[simp] theorem setJob_clock (n : Nat) (j : Job) : (s.setJob n j).clock = s.clock := rfl
@[simp] theorem setJob_auditAir (n : Nat) (j : Job) : (s.setJob n j).auditAir = s.auditAir := rfl
@[simp] theorem setJob_mem (n : Nat) (j : Job) : (s.setJob n j).mem = s.mem := rfl
@[simp] theorem setJob_tags (n : Nat) (j : Job) : (s.setJob n j).tags = s.tags := rfl
@[simp] theorem setJob_cores (n : Nat) (j : Job) : (s.setJob n j).cores = s.cores := rfl
@[simp] theorem setJob_tallies (n : Nat) (j : Job) : (s.setJob n j).tallies = s.tallies := rfl
@[simp] theorem setJob_tpools (n : Nat) (j : Job) : (s.setJob n j).tpools = s.tpools := rfl
@[simp] theorem setJob_pools (n : Nat) (j : Job) : (s.setJob n j).pools = s.pools := rfl
@[simp] theorem setJob_queues (n : Nat) (j : Job) : (s.setJob n j).queues = s.queues := rfl
@[simp] theorem setJob_heldBy (n : Nat) (j : Job) : (s.setJob n j).heldBy = s.heldBy := rfl
@[simp] theorem setJob_handleFrom (n : Nat) (j : Job) : (s.setJob n j).handleFrom = s.handleFrom := rfl
@[simp] theorem setJob_credits (n : Nat) (j : Job) : (s.setJob n j).credits = s.credits := rfl
@[simp] theorem setJob_jobs (n : Nat) (j : Job) : (s.setJob n j).jobs = Tbl.set {} s.jobs n j := rfl
@[simp] theorem setJob_nextJob (n : Nat) (j : Job) : (s.setJob n j).nextJob = s.nextJob := rfl
@[simp] theorem setJob_swapped (n : Nat) (j : Job) : (s.setJob n j).swapped = s.swapped := rfl
@[simp] theorem setJob_orders (n : Nat) (j : Job) : (s.setJob n j).orders = s.orders := rfl
@[simp] theorem setJob_nextOrder (n : Nat) (j : Job) : (s.setJob n j).nextOrder = s.nextOrder := rfl
@[simp] theorem setJob_coding (n : Nat) (j : Job) : (s.setJob n j).coding = s.coding := rfl
@[simp] theorem setJob_harq (n : Nat) (j : Job) : (s.setJob n j).harq = s.harq := rfl
@[simp] theorem setJob_transforms (n : Nat) (j : Job) : (s.setJob n j).transforms = s.transforms := rfl
@[simp] theorem setJob_lib (n : Nat) (j : Job) : (s.setJob n j).lib = s.lib := rfl
@[simp] theorem setJob_bench (n : Nat) (j : Job) : (s.setJob n j).bench = s.bench := rfl
@[simp] theorem setJob_loads (n : Nat) (j : Job) : (s.setJob n j).loads = s.loads := rfl
@[simp] theorem setJob_funcs (n : Nat) (j : Job) : (s.setJob n j).funcs = s.funcs := rfl
@[simp] theorem setJob_bursts (n : Nat) (j : Job) : (s.setJob n j).bursts = s.bursts := rfl
@[simp] theorem setJob_cplane (n : Nat) (j : Job) : (s.setJob n j).cplane = s.cplane := rfl
@[simp] theorem setJob_ecpriSeq (n : Nat) (j : Job) : (s.setJob n j).ecpriSeq = s.ecpriSeq := rfl
@[simp] theorem setJob_txHeld (n : Nat) (j : Job) : (s.setJob n j).txHeld = s.txHeld := rfl
@[simp] theorem setJob_adaptSlots (n : Nat) (j : Job) : (s.setJob n j).adaptSlots = s.adaptSlots := rfl
@[simp] theorem setJob_adaptUsed (n : Nat) (j : Job) : (s.setJob n j).adaptUsed = s.adaptUsed := rfl
@[simp] theorem setJob_audit (n : Nat) (j : Job) : (s.setJob n j).audit = s.audit := rfl
@[simp] theorem setJob_whistle (n : Nat) (j : Job) : (s.setJob n j).whistle = s.whistle := rfl
@[simp] theorem setJob_replay (n : Nat) (j : Job) : (s.setJob n j).replay = s.replay := rfl
@[simp] theorem setJob_cycles (n : Nat) (j : Job) : (s.setJob n j).cycles = s.cycles := rfl
@[simp] theorem setJob_benchPages (n : Nat) (j : Job) : (s.setJob n j).benchPages = s.benchPages := rfl
@[simp] theorem setJob_fenceQueue (n : Nat) (j : Job) : (s.setJob n j).fenceQueue = s.fenceQueue := rfl
@[simp] theorem setJob_obj (n : Nat) (j : Job) : (s.setJob n j).obj = s.obj := rfl
@[simp] theorem setJob_blob (n : Nat) (j : Job) : (s.setJob n j).blob = s.blob := rfl
@[simp] theorem setJob_tbs (n : Nat) (j : Job) : (s.setJob n j).tbs = s.tbs := rfl
@[simp] theorem setJob_pins (n : Nat) (j : Job) : (s.setJob n j).pins = s.pins := rfl
@[simp] theorem setJob_pps (n : Nat) (j : Job) : (s.setJob n j).pps = s.pps := rfl
@[simp] theorem setJob_fences (n : Nat) (j : Job) : (s.setJob n j).fences = s.fences := rfl
@[simp] theorem setJob_rallies (n : Nat) (j : Job) : (s.setJob n j).rallies = s.rallies := rfl
@[simp] theorem setJob_svc (n : Nat) (j : Job) : (s.setJob n j).svc = s.svc := rfl
@[simp] theorem setJob_coresStopped (n : Nat) (j : Job) : (s.setJob n j).coresStopped = s.coresStopped := rfl
@[simp] theorem setJob_pwrm (n : Nat) (j : Job) : (s.setJob n j).pwrm = s.pwrm := rfl
@[simp] theorem setJob_therm (n : Nat) (j : Job) : (s.setJob n j).therm = s.therm := rfl
@[simp] theorem setJob_fixedBreach (n : Nat) (j : Job) : (s.setJob n j).fixedBreach = s.fixedBreach := rfl
@[simp] theorem setJob_chip (n : Nat) (j : Job) : (s.setJob n j).chip = s.chip := rfl
@[simp] theorem setJob_chans (n : Nat) (j : Job) : (s.setJob n j).chans = s.chans := rfl
@[simp] theorem setJob_waits (n : Nat) (j : Job) : (s.setJob n j).waits = s.waits := rfl
@[simp] theorem setJob_queued (n : Nat) (j : Job) : (s.setJob n j).queued = s.queued := rfl
@[simp] theorem setJob_mgmtIp (n : Nat) (j : Job) : (s.setJob n j).mgmtIp = s.mgmtIp := rfl
@[simp] theorem setJob_begun (n : Nat) (j : Job) : (s.setJob n j).begun = s.begun := rfl
@[simp] theorem setJob_commits (n : Nat) (j : Job) : (s.setJob n j).commits = s.commits := rfl
@[simp] theorem setJob_mgl (n : Nat) (j : Job) : (s.setJob n j).mgl = s.mgl := rfl
@[simp] theorem setJob_firm (n : Nat) (j : Job) : (s.setJob n j).firm = s.firm := rfl
@[simp] theorem setJob_power (n : Nat) (j : Job) : (s.setJob n j).power = s.power := rfl
@[simp] theorem setJob_dbg (n : Nat) (j : Job) : (s.setJob n j).dbg = s.dbg := rfl
@[simp] theorem setJob_ldpcEpoch (n : Nat) (j : Job) : (s.setJob n j).ldpcEpoch = s.ldpcEpoch := rfl
@[simp] theorem setJob_xspiErrors (n : Nat) (j : Job) : (s.setJob n j).xspiErrors = s.xspiErrors := rfl
@[simp] theorem setJob_fhFails (n : Nat) (j : Job) : (s.setJob n j).fhFails = s.fhFails := rfl
@[simp] theorem setJob_past (n : Nat) (j : Job) : (s.setJob n j).past = s.past := rfl

/-! ### setHqueue -/

@[simp] theorem setHqueue_pending (n : Nat) (q : HQueue) : (s.setHqueue n q).pending = s.pending := rfl
@[simp] theorem setHqueue_out (n : Nat) (q : HQueue) : (s.setHqueue n q).out = s.out := rfl
@[simp] theorem setHqueue_freeCtr (n : Nat) (q : HQueue) : (s.setHqueue n q).freeCtr = s.freeCtr := rfl
@[simp] theorem setHqueue_clock (n : Nat) (q : HQueue) : (s.setHqueue n q).clock = s.clock := rfl
@[simp] theorem setHqueue_auditAir (n : Nat) (q : HQueue) : (s.setHqueue n q).auditAir = s.auditAir := rfl
@[simp] theorem setHqueue_mem (n : Nat) (q : HQueue) : (s.setHqueue n q).mem = s.mem := rfl
@[simp] theorem setHqueue_tags (n : Nat) (q : HQueue) : (s.setHqueue n q).tags = s.tags := rfl
@[simp] theorem setHqueue_cores (n : Nat) (q : HQueue) : (s.setHqueue n q).cores = s.cores := rfl
@[simp] theorem setHqueue_tallies (n : Nat) (q : HQueue) : (s.setHqueue n q).tallies = s.tallies := rfl
@[simp] theorem setHqueue_tpools (n : Nat) (q : HQueue) : (s.setHqueue n q).tpools = s.tpools := rfl
@[simp] theorem setHqueue_pools (n : Nat) (q : HQueue) : (s.setHqueue n q).pools = s.pools := rfl
@[simp] theorem setHqueue_queues (n : Nat) (q : HQueue) : (s.setHqueue n q).queues = Tbl.set {} s.queues n q := rfl
@[simp] theorem setHqueue_heldBy (n : Nat) (q : HQueue) : (s.setHqueue n q).heldBy = s.heldBy := rfl
@[simp] theorem setHqueue_handleFrom (n : Nat) (q : HQueue) : (s.setHqueue n q).handleFrom = s.handleFrom := rfl
@[simp] theorem setHqueue_credits (n : Nat) (q : HQueue) : (s.setHqueue n q).credits = s.credits := rfl
@[simp] theorem setHqueue_jobs (n : Nat) (q : HQueue) : (s.setHqueue n q).jobs = s.jobs := rfl
@[simp] theorem setHqueue_nextJob (n : Nat) (q : HQueue) : (s.setHqueue n q).nextJob = s.nextJob := rfl
@[simp] theorem setHqueue_swapped (n : Nat) (q : HQueue) : (s.setHqueue n q).swapped = s.swapped := rfl
@[simp] theorem setHqueue_orders (n : Nat) (q : HQueue) : (s.setHqueue n q).orders = s.orders := rfl
@[simp] theorem setHqueue_nextOrder (n : Nat) (q : HQueue) : (s.setHqueue n q).nextOrder = s.nextOrder := rfl
@[simp] theorem setHqueue_coding (n : Nat) (q : HQueue) : (s.setHqueue n q).coding = s.coding := rfl
@[simp] theorem setHqueue_harq (n : Nat) (q : HQueue) : (s.setHqueue n q).harq = s.harq := rfl
@[simp] theorem setHqueue_transforms (n : Nat) (q : HQueue) : (s.setHqueue n q).transforms = s.transforms := rfl
@[simp] theorem setHqueue_lib (n : Nat) (q : HQueue) : (s.setHqueue n q).lib = s.lib := rfl
@[simp] theorem setHqueue_bench (n : Nat) (q : HQueue) : (s.setHqueue n q).bench = s.bench := rfl
@[simp] theorem setHqueue_loads (n : Nat) (q : HQueue) : (s.setHqueue n q).loads = s.loads := rfl
@[simp] theorem setHqueue_funcs (n : Nat) (q : HQueue) : (s.setHqueue n q).funcs = s.funcs := rfl
@[simp] theorem setHqueue_bursts (n : Nat) (q : HQueue) : (s.setHqueue n q).bursts = s.bursts := rfl
@[simp] theorem setHqueue_cplane (n : Nat) (q : HQueue) : (s.setHqueue n q).cplane = s.cplane := rfl
@[simp] theorem setHqueue_ecpriSeq (n : Nat) (q : HQueue) : (s.setHqueue n q).ecpriSeq = s.ecpriSeq := rfl
@[simp] theorem setHqueue_txHeld (n : Nat) (q : HQueue) : (s.setHqueue n q).txHeld = s.txHeld := rfl
@[simp] theorem setHqueue_adaptSlots (n : Nat) (q : HQueue) : (s.setHqueue n q).adaptSlots = s.adaptSlots := rfl
@[simp] theorem setHqueue_adaptUsed (n : Nat) (q : HQueue) : (s.setHqueue n q).adaptUsed = s.adaptUsed := rfl
@[simp] theorem setHqueue_audit (n : Nat) (q : HQueue) : (s.setHqueue n q).audit = s.audit := rfl
@[simp] theorem setHqueue_whistle (n : Nat) (q : HQueue) : (s.setHqueue n q).whistle = s.whistle := rfl
@[simp] theorem setHqueue_replay (n : Nat) (q : HQueue) : (s.setHqueue n q).replay = s.replay := rfl
@[simp] theorem setHqueue_cycles (n : Nat) (q : HQueue) : (s.setHqueue n q).cycles = s.cycles := rfl
@[simp] theorem setHqueue_benchPages (n : Nat) (q : HQueue) : (s.setHqueue n q).benchPages = s.benchPages := rfl
@[simp] theorem setHqueue_fenceQueue (n : Nat) (q : HQueue) : (s.setHqueue n q).fenceQueue = s.fenceQueue := rfl
@[simp] theorem setHqueue_obj (n : Nat) (q : HQueue) : (s.setHqueue n q).obj = s.obj := rfl
@[simp] theorem setHqueue_blob (n : Nat) (q : HQueue) : (s.setHqueue n q).blob = s.blob := rfl
@[simp] theorem setHqueue_tbs (n : Nat) (q : HQueue) : (s.setHqueue n q).tbs = s.tbs := rfl
@[simp] theorem setHqueue_pins (n : Nat) (q : HQueue) : (s.setHqueue n q).pins = s.pins := rfl
@[simp] theorem setHqueue_pps (n : Nat) (q : HQueue) : (s.setHqueue n q).pps = s.pps := rfl
@[simp] theorem setHqueue_fences (n : Nat) (q : HQueue) : (s.setHqueue n q).fences = s.fences := rfl
@[simp] theorem setHqueue_rallies (n : Nat) (q : HQueue) : (s.setHqueue n q).rallies = s.rallies := rfl
@[simp] theorem setHqueue_svc (n : Nat) (q : HQueue) : (s.setHqueue n q).svc = s.svc := rfl
@[simp] theorem setHqueue_coresStopped (n : Nat) (q : HQueue) : (s.setHqueue n q).coresStopped = s.coresStopped := rfl
@[simp] theorem setHqueue_pwrm (n : Nat) (q : HQueue) : (s.setHqueue n q).pwrm = s.pwrm := rfl
@[simp] theorem setHqueue_therm (n : Nat) (q : HQueue) : (s.setHqueue n q).therm = s.therm := rfl
@[simp] theorem setHqueue_fixedBreach (n : Nat) (q : HQueue) : (s.setHqueue n q).fixedBreach = s.fixedBreach := rfl
@[simp] theorem setHqueue_chip (n : Nat) (q : HQueue) : (s.setHqueue n q).chip = s.chip := rfl
@[simp] theorem setHqueue_chans (n : Nat) (q : HQueue) : (s.setHqueue n q).chans = s.chans := rfl
@[simp] theorem setHqueue_waits (n : Nat) (q : HQueue) : (s.setHqueue n q).waits = s.waits := rfl
@[simp] theorem setHqueue_queued (n : Nat) (q : HQueue) : (s.setHqueue n q).queued = s.queued := rfl
@[simp] theorem setHqueue_mgmtIp (n : Nat) (q : HQueue) : (s.setHqueue n q).mgmtIp = s.mgmtIp := rfl
@[simp] theorem setHqueue_begun (n : Nat) (q : HQueue) : (s.setHqueue n q).begun = s.begun := rfl
@[simp] theorem setHqueue_commits (n : Nat) (q : HQueue) : (s.setHqueue n q).commits = s.commits := rfl
@[simp] theorem setHqueue_mgl (n : Nat) (q : HQueue) : (s.setHqueue n q).mgl = s.mgl := rfl
@[simp] theorem setHqueue_firm (n : Nat) (q : HQueue) : (s.setHqueue n q).firm = s.firm := rfl
@[simp] theorem setHqueue_power (n : Nat) (q : HQueue) : (s.setHqueue n q).power = s.power := rfl
@[simp] theorem setHqueue_dbg (n : Nat) (q : HQueue) : (s.setHqueue n q).dbg = s.dbg := rfl
@[simp] theorem setHqueue_ldpcEpoch (n : Nat) (q : HQueue) : (s.setHqueue n q).ldpcEpoch = s.ldpcEpoch := rfl
@[simp] theorem setHqueue_xspiErrors (n : Nat) (q : HQueue) : (s.setHqueue n q).xspiErrors = s.xspiErrors := rfl
@[simp] theorem setHqueue_fhFails (n : Nat) (q : HQueue) : (s.setHqueue n q).fhFails = s.fhFails := rfl
@[simp] theorem setHqueue_past (n : Nat) (q : HQueue) : (s.setHqueue n q).past = s.past := rfl

/-! ### setOrder -/

@[simp] theorem setOrder_pending (n : Nat) (o : Order) : (s.setOrder n o).pending = s.pending := rfl
@[simp] theorem setOrder_out (n : Nat) (o : Order) : (s.setOrder n o).out = s.out := rfl
@[simp] theorem setOrder_freeCtr (n : Nat) (o : Order) : (s.setOrder n o).freeCtr = s.freeCtr := rfl
@[simp] theorem setOrder_clock (n : Nat) (o : Order) : (s.setOrder n o).clock = s.clock := rfl
@[simp] theorem setOrder_auditAir (n : Nat) (o : Order) : (s.setOrder n o).auditAir = s.auditAir := rfl
@[simp] theorem setOrder_mem (n : Nat) (o : Order) : (s.setOrder n o).mem = s.mem := rfl
@[simp] theorem setOrder_tags (n : Nat) (o : Order) : (s.setOrder n o).tags = s.tags := rfl
@[simp] theorem setOrder_cores (n : Nat) (o : Order) : (s.setOrder n o).cores = s.cores := rfl
@[simp] theorem setOrder_tallies (n : Nat) (o : Order) : (s.setOrder n o).tallies = s.tallies := rfl
@[simp] theorem setOrder_tpools (n : Nat) (o : Order) : (s.setOrder n o).tpools = s.tpools := rfl
@[simp] theorem setOrder_pools (n : Nat) (o : Order) : (s.setOrder n o).pools = s.pools := rfl
@[simp] theorem setOrder_queues (n : Nat) (o : Order) : (s.setOrder n o).queues = s.queues := rfl
@[simp] theorem setOrder_heldBy (n : Nat) (o : Order) : (s.setOrder n o).heldBy = s.heldBy := rfl
@[simp] theorem setOrder_handleFrom (n : Nat) (o : Order) : (s.setOrder n o).handleFrom = s.handleFrom := rfl
@[simp] theorem setOrder_credits (n : Nat) (o : Order) : (s.setOrder n o).credits = s.credits := rfl
@[simp] theorem setOrder_jobs (n : Nat) (o : Order) : (s.setOrder n o).jobs = s.jobs := rfl
@[simp] theorem setOrder_nextJob (n : Nat) (o : Order) : (s.setOrder n o).nextJob = s.nextJob := rfl
@[simp] theorem setOrder_swapped (n : Nat) (o : Order) : (s.setOrder n o).swapped = s.swapped := rfl
@[simp] theorem setOrder_orders (n : Nat) (o : Order) : (s.setOrder n o).orders = Tbl.set {} s.orders n o := rfl
@[simp] theorem setOrder_nextOrder (n : Nat) (o : Order) : (s.setOrder n o).nextOrder = s.nextOrder := rfl
@[simp] theorem setOrder_coding (n : Nat) (o : Order) : (s.setOrder n o).coding = s.coding := rfl
@[simp] theorem setOrder_harq (n : Nat) (o : Order) : (s.setOrder n o).harq = s.harq := rfl
@[simp] theorem setOrder_transforms (n : Nat) (o : Order) : (s.setOrder n o).transforms = s.transforms := rfl
@[simp] theorem setOrder_lib (n : Nat) (o : Order) : (s.setOrder n o).lib = s.lib := rfl
@[simp] theorem setOrder_bench (n : Nat) (o : Order) : (s.setOrder n o).bench = s.bench := rfl
@[simp] theorem setOrder_loads (n : Nat) (o : Order) : (s.setOrder n o).loads = s.loads := rfl
@[simp] theorem setOrder_funcs (n : Nat) (o : Order) : (s.setOrder n o).funcs = s.funcs := rfl
@[simp] theorem setOrder_bursts (n : Nat) (o : Order) : (s.setOrder n o).bursts = s.bursts := rfl
@[simp] theorem setOrder_cplane (n : Nat) (o : Order) : (s.setOrder n o).cplane = s.cplane := rfl
@[simp] theorem setOrder_ecpriSeq (n : Nat) (o : Order) : (s.setOrder n o).ecpriSeq = s.ecpriSeq := rfl
@[simp] theorem setOrder_txHeld (n : Nat) (o : Order) : (s.setOrder n o).txHeld = s.txHeld := rfl
@[simp] theorem setOrder_adaptSlots (n : Nat) (o : Order) : (s.setOrder n o).adaptSlots = s.adaptSlots := rfl
@[simp] theorem setOrder_adaptUsed (n : Nat) (o : Order) : (s.setOrder n o).adaptUsed = s.adaptUsed := rfl
@[simp] theorem setOrder_audit (n : Nat) (o : Order) : (s.setOrder n o).audit = s.audit := rfl
@[simp] theorem setOrder_whistle (n : Nat) (o : Order) : (s.setOrder n o).whistle = s.whistle := rfl
@[simp] theorem setOrder_replay (n : Nat) (o : Order) : (s.setOrder n o).replay = s.replay := rfl
@[simp] theorem setOrder_cycles (n : Nat) (o : Order) : (s.setOrder n o).cycles = s.cycles := rfl
@[simp] theorem setOrder_benchPages (n : Nat) (o : Order) : (s.setOrder n o).benchPages = s.benchPages := rfl
@[simp] theorem setOrder_fenceQueue (n : Nat) (o : Order) : (s.setOrder n o).fenceQueue = s.fenceQueue := rfl
@[simp] theorem setOrder_obj (n : Nat) (o : Order) : (s.setOrder n o).obj = s.obj := rfl
@[simp] theorem setOrder_blob (n : Nat) (o : Order) : (s.setOrder n o).blob = s.blob := rfl
@[simp] theorem setOrder_tbs (n : Nat) (o : Order) : (s.setOrder n o).tbs = s.tbs := rfl
@[simp] theorem setOrder_pins (n : Nat) (o : Order) : (s.setOrder n o).pins = s.pins := rfl
@[simp] theorem setOrder_pps (n : Nat) (o : Order) : (s.setOrder n o).pps = s.pps := rfl
@[simp] theorem setOrder_fences (n : Nat) (o : Order) : (s.setOrder n o).fences = s.fences := rfl
@[simp] theorem setOrder_rallies (n : Nat) (o : Order) : (s.setOrder n o).rallies = s.rallies := rfl
@[simp] theorem setOrder_svc (n : Nat) (o : Order) : (s.setOrder n o).svc = s.svc := rfl
@[simp] theorem setOrder_coresStopped (n : Nat) (o : Order) : (s.setOrder n o).coresStopped = s.coresStopped := rfl
@[simp] theorem setOrder_pwrm (n : Nat) (o : Order) : (s.setOrder n o).pwrm = s.pwrm := rfl
@[simp] theorem setOrder_therm (n : Nat) (o : Order) : (s.setOrder n o).therm = s.therm := rfl
@[simp] theorem setOrder_fixedBreach (n : Nat) (o : Order) : (s.setOrder n o).fixedBreach = s.fixedBreach := rfl
@[simp] theorem setOrder_chip (n : Nat) (o : Order) : (s.setOrder n o).chip = s.chip := rfl
@[simp] theorem setOrder_chans (n : Nat) (o : Order) : (s.setOrder n o).chans = s.chans := rfl
@[simp] theorem setOrder_waits (n : Nat) (o : Order) : (s.setOrder n o).waits = s.waits := rfl
@[simp] theorem setOrder_queued (n : Nat) (o : Order) : (s.setOrder n o).queued = s.queued := rfl
@[simp] theorem setOrder_mgmtIp (n : Nat) (o : Order) : (s.setOrder n o).mgmtIp = s.mgmtIp := rfl
@[simp] theorem setOrder_begun (n : Nat) (o : Order) : (s.setOrder n o).begun = s.begun := rfl
@[simp] theorem setOrder_commits (n : Nat) (o : Order) : (s.setOrder n o).commits = s.commits := rfl
@[simp] theorem setOrder_mgl (n : Nat) (o : Order) : (s.setOrder n o).mgl = s.mgl := rfl
@[simp] theorem setOrder_firm (n : Nat) (o : Order) : (s.setOrder n o).firm = s.firm := rfl
@[simp] theorem setOrder_power (n : Nat) (o : Order) : (s.setOrder n o).power = s.power := rfl
@[simp] theorem setOrder_dbg (n : Nat) (o : Order) : (s.setOrder n o).dbg = s.dbg := rfl
@[simp] theorem setOrder_ldpcEpoch (n : Nat) (o : Order) : (s.setOrder n o).ldpcEpoch = s.ldpcEpoch := rfl
@[simp] theorem setOrder_xspiErrors (n : Nat) (o : Order) : (s.setOrder n o).xspiErrors = s.xspiErrors := rfl
@[simp] theorem setOrder_fhFails (n : Nat) (o : Order) : (s.setOrder n o).fhFails = s.fhFails := rfl
@[simp] theorem setOrder_past (n : Nat) (o : Order) : (s.setOrder n o).past = s.past := rfl

/-! ### setPin -/

@[simp] theorem setPin_pending (n : Nat) (p : Pin) : (s.setPin n p).pending = s.pending := rfl
@[simp] theorem setPin_out (n : Nat) (p : Pin) : (s.setPin n p).out = s.out := rfl
@[simp] theorem setPin_freeCtr (n : Nat) (p : Pin) : (s.setPin n p).freeCtr = s.freeCtr := rfl
@[simp] theorem setPin_clock (n : Nat) (p : Pin) : (s.setPin n p).clock = s.clock := rfl
@[simp] theorem setPin_auditAir (n : Nat) (p : Pin) : (s.setPin n p).auditAir = s.auditAir := rfl
@[simp] theorem setPin_mem (n : Nat) (p : Pin) : (s.setPin n p).mem = s.mem := rfl
@[simp] theorem setPin_tags (n : Nat) (p : Pin) : (s.setPin n p).tags = s.tags := rfl
@[simp] theorem setPin_cores (n : Nat) (p : Pin) : (s.setPin n p).cores = s.cores := rfl
@[simp] theorem setPin_tallies (n : Nat) (p : Pin) : (s.setPin n p).tallies = s.tallies := rfl
@[simp] theorem setPin_tpools (n : Nat) (p : Pin) : (s.setPin n p).tpools = s.tpools := rfl
@[simp] theorem setPin_pools (n : Nat) (p : Pin) : (s.setPin n p).pools = s.pools := rfl
@[simp] theorem setPin_queues (n : Nat) (p : Pin) : (s.setPin n p).queues = s.queues := rfl
@[simp] theorem setPin_heldBy (n : Nat) (p : Pin) : (s.setPin n p).heldBy = s.heldBy := rfl
@[simp] theorem setPin_handleFrom (n : Nat) (p : Pin) : (s.setPin n p).handleFrom = s.handleFrom := rfl
@[simp] theorem setPin_credits (n : Nat) (p : Pin) : (s.setPin n p).credits = s.credits := rfl
@[simp] theorem setPin_jobs (n : Nat) (p : Pin) : (s.setPin n p).jobs = s.jobs := rfl
@[simp] theorem setPin_nextJob (n : Nat) (p : Pin) : (s.setPin n p).nextJob = s.nextJob := rfl
@[simp] theorem setPin_swapped (n : Nat) (p : Pin) : (s.setPin n p).swapped = s.swapped := rfl
@[simp] theorem setPin_orders (n : Nat) (p : Pin) : (s.setPin n p).orders = s.orders := rfl
@[simp] theorem setPin_nextOrder (n : Nat) (p : Pin) : (s.setPin n p).nextOrder = s.nextOrder := rfl
@[simp] theorem setPin_coding (n : Nat) (p : Pin) : (s.setPin n p).coding = s.coding := rfl
@[simp] theorem setPin_harq (n : Nat) (p : Pin) : (s.setPin n p).harq = s.harq := rfl
@[simp] theorem setPin_transforms (n : Nat) (p : Pin) : (s.setPin n p).transforms = s.transforms := rfl
@[simp] theorem setPin_lib (n : Nat) (p : Pin) : (s.setPin n p).lib = s.lib := rfl
@[simp] theorem setPin_bench (n : Nat) (p : Pin) : (s.setPin n p).bench = s.bench := rfl
@[simp] theorem setPin_loads (n : Nat) (p : Pin) : (s.setPin n p).loads = s.loads := rfl
@[simp] theorem setPin_funcs (n : Nat) (p : Pin) : (s.setPin n p).funcs = s.funcs := rfl
@[simp] theorem setPin_bursts (n : Nat) (p : Pin) : (s.setPin n p).bursts = s.bursts := rfl
@[simp] theorem setPin_cplane (n : Nat) (p : Pin) : (s.setPin n p).cplane = s.cplane := rfl
@[simp] theorem setPin_ecpriSeq (n : Nat) (p : Pin) : (s.setPin n p).ecpriSeq = s.ecpriSeq := rfl
@[simp] theorem setPin_txHeld (n : Nat) (p : Pin) : (s.setPin n p).txHeld = s.txHeld := rfl
@[simp] theorem setPin_adaptSlots (n : Nat) (p : Pin) : (s.setPin n p).adaptSlots = s.adaptSlots := rfl
@[simp] theorem setPin_adaptUsed (n : Nat) (p : Pin) : (s.setPin n p).adaptUsed = s.adaptUsed := rfl
@[simp] theorem setPin_audit (n : Nat) (p : Pin) : (s.setPin n p).audit = s.audit := rfl
@[simp] theorem setPin_whistle (n : Nat) (p : Pin) : (s.setPin n p).whistle = s.whistle := rfl
@[simp] theorem setPin_replay (n : Nat) (p : Pin) : (s.setPin n p).replay = s.replay := rfl
@[simp] theorem setPin_cycles (n : Nat) (p : Pin) : (s.setPin n p).cycles = s.cycles := rfl
@[simp] theorem setPin_benchPages (n : Nat) (p : Pin) : (s.setPin n p).benchPages = s.benchPages := rfl
@[simp] theorem setPin_fenceQueue (n : Nat) (p : Pin) : (s.setPin n p).fenceQueue = s.fenceQueue := rfl
@[simp] theorem setPin_obj (n : Nat) (p : Pin) : (s.setPin n p).obj = s.obj := rfl
@[simp] theorem setPin_blob (n : Nat) (p : Pin) : (s.setPin n p).blob = s.blob := rfl
@[simp] theorem setPin_tbs (n : Nat) (p : Pin) : (s.setPin n p).tbs = s.tbs := rfl
@[simp] theorem setPin_pins (n : Nat) (p : Pin) : (s.setPin n p).pins = Tbl.set {} s.pins n p := rfl
@[simp] theorem setPin_pps (n : Nat) (p : Pin) : (s.setPin n p).pps = s.pps := rfl
@[simp] theorem setPin_fences (n : Nat) (p : Pin) : (s.setPin n p).fences = s.fences := rfl
@[simp] theorem setPin_rallies (n : Nat) (p : Pin) : (s.setPin n p).rallies = s.rallies := rfl
@[simp] theorem setPin_svc (n : Nat) (p : Pin) : (s.setPin n p).svc = s.svc := rfl
@[simp] theorem setPin_coresStopped (n : Nat) (p : Pin) : (s.setPin n p).coresStopped = s.coresStopped := rfl
@[simp] theorem setPin_pwrm (n : Nat) (p : Pin) : (s.setPin n p).pwrm = s.pwrm := rfl
@[simp] theorem setPin_therm (n : Nat) (p : Pin) : (s.setPin n p).therm = s.therm := rfl
@[simp] theorem setPin_fixedBreach (n : Nat) (p : Pin) : (s.setPin n p).fixedBreach = s.fixedBreach := rfl
@[simp] theorem setPin_chip (n : Nat) (p : Pin) : (s.setPin n p).chip = s.chip := rfl
@[simp] theorem setPin_chans (n : Nat) (p : Pin) : (s.setPin n p).chans = s.chans := rfl
@[simp] theorem setPin_waits (n : Nat) (p : Pin) : (s.setPin n p).waits = s.waits := rfl
@[simp] theorem setPin_queued (n : Nat) (p : Pin) : (s.setPin n p).queued = s.queued := rfl
@[simp] theorem setPin_mgmtIp (n : Nat) (p : Pin) : (s.setPin n p).mgmtIp = s.mgmtIp := rfl
@[simp] theorem setPin_begun (n : Nat) (p : Pin) : (s.setPin n p).begun = s.begun := rfl
@[simp] theorem setPin_commits (n : Nat) (p : Pin) : (s.setPin n p).commits = s.commits := rfl
@[simp] theorem setPin_mgl (n : Nat) (p : Pin) : (s.setPin n p).mgl = s.mgl := rfl
@[simp] theorem setPin_firm (n : Nat) (p : Pin) : (s.setPin n p).firm = s.firm := rfl
@[simp] theorem setPin_power (n : Nat) (p : Pin) : (s.setPin n p).power = s.power := rfl
@[simp] theorem setPin_dbg (n : Nat) (p : Pin) : (s.setPin n p).dbg = s.dbg := rfl
@[simp] theorem setPin_ldpcEpoch (n : Nat) (p : Pin) : (s.setPin n p).ldpcEpoch = s.ldpcEpoch := rfl
@[simp] theorem setPin_xspiErrors (n : Nat) (p : Pin) : (s.setPin n p).xspiErrors = s.xspiErrors := rfl
@[simp] theorem setPin_fhFails (n : Nat) (p : Pin) : (s.setPin n p).fhFails = s.fhFails := rfl
@[simp] theorem setPin_past (n : Nat) (p : Pin) : (s.setPin n p).past = s.past := rfl

/-! ### setEngineC -/

@[simp] theorem setEngineC_pending (n : Nat) (e : CodingEngine) : (s.setEngineC n e).pending = s.pending := rfl
@[simp] theorem setEngineC_out (n : Nat) (e : CodingEngine) : (s.setEngineC n e).out = s.out := rfl
@[simp] theorem setEngineC_freeCtr (n : Nat) (e : CodingEngine) : (s.setEngineC n e).freeCtr = s.freeCtr := rfl
@[simp] theorem setEngineC_clock (n : Nat) (e : CodingEngine) : (s.setEngineC n e).clock = s.clock := rfl
@[simp] theorem setEngineC_auditAir (n : Nat) (e : CodingEngine) : (s.setEngineC n e).auditAir = s.auditAir := rfl
@[simp] theorem setEngineC_mem (n : Nat) (e : CodingEngine) : (s.setEngineC n e).mem = s.mem := rfl
@[simp] theorem setEngineC_tags (n : Nat) (e : CodingEngine) : (s.setEngineC n e).tags = s.tags := rfl
@[simp] theorem setEngineC_cores (n : Nat) (e : CodingEngine) : (s.setEngineC n e).cores = s.cores := rfl
@[simp] theorem setEngineC_tallies (n : Nat) (e : CodingEngine) : (s.setEngineC n e).tallies = s.tallies := rfl
@[simp] theorem setEngineC_tpools (n : Nat) (e : CodingEngine) : (s.setEngineC n e).tpools = s.tpools := rfl
@[simp] theorem setEngineC_pools (n : Nat) (e : CodingEngine) : (s.setEngineC n e).pools = s.pools := rfl
@[simp] theorem setEngineC_queues (n : Nat) (e : CodingEngine) : (s.setEngineC n e).queues = s.queues := rfl
@[simp] theorem setEngineC_heldBy (n : Nat) (e : CodingEngine) : (s.setEngineC n e).heldBy = s.heldBy := rfl
@[simp] theorem setEngineC_handleFrom (n : Nat) (e : CodingEngine) : (s.setEngineC n e).handleFrom = s.handleFrom := rfl
@[simp] theorem setEngineC_credits (n : Nat) (e : CodingEngine) : (s.setEngineC n e).credits = s.credits := rfl
@[simp] theorem setEngineC_jobs (n : Nat) (e : CodingEngine) : (s.setEngineC n e).jobs = s.jobs := rfl
@[simp] theorem setEngineC_nextJob (n : Nat) (e : CodingEngine) : (s.setEngineC n e).nextJob = s.nextJob := rfl
@[simp] theorem setEngineC_swapped (n : Nat) (e : CodingEngine) : (s.setEngineC n e).swapped = s.swapped := rfl
@[simp] theorem setEngineC_orders (n : Nat) (e : CodingEngine) : (s.setEngineC n e).orders = s.orders := rfl
@[simp] theorem setEngineC_nextOrder (n : Nat) (e : CodingEngine) : (s.setEngineC n e).nextOrder = s.nextOrder := rfl
@[simp] theorem setEngineC_coding (n : Nat) (e : CodingEngine) : (s.setEngineC n e).coding = Tbl.set {} s.coding n e := rfl
@[simp] theorem setEngineC_harq (n : Nat) (e : CodingEngine) : (s.setEngineC n e).harq = s.harq := rfl
@[simp] theorem setEngineC_transforms (n : Nat) (e : CodingEngine) : (s.setEngineC n e).transforms = s.transforms := rfl
@[simp] theorem setEngineC_lib (n : Nat) (e : CodingEngine) : (s.setEngineC n e).lib = s.lib := rfl
@[simp] theorem setEngineC_bench (n : Nat) (e : CodingEngine) : (s.setEngineC n e).bench = s.bench := rfl
@[simp] theorem setEngineC_loads (n : Nat) (e : CodingEngine) : (s.setEngineC n e).loads = s.loads := rfl
@[simp] theorem setEngineC_funcs (n : Nat) (e : CodingEngine) : (s.setEngineC n e).funcs = s.funcs := rfl
@[simp] theorem setEngineC_bursts (n : Nat) (e : CodingEngine) : (s.setEngineC n e).bursts = s.bursts := rfl
@[simp] theorem setEngineC_cplane (n : Nat) (e : CodingEngine) : (s.setEngineC n e).cplane = s.cplane := rfl
@[simp] theorem setEngineC_ecpriSeq (n : Nat) (e : CodingEngine) : (s.setEngineC n e).ecpriSeq = s.ecpriSeq := rfl
@[simp] theorem setEngineC_txHeld (n : Nat) (e : CodingEngine) : (s.setEngineC n e).txHeld = s.txHeld := rfl
@[simp] theorem setEngineC_adaptSlots (n : Nat) (e : CodingEngine) : (s.setEngineC n e).adaptSlots = s.adaptSlots := rfl
@[simp] theorem setEngineC_adaptUsed (n : Nat) (e : CodingEngine) : (s.setEngineC n e).adaptUsed = s.adaptUsed := rfl
@[simp] theorem setEngineC_audit (n : Nat) (e : CodingEngine) : (s.setEngineC n e).audit = s.audit := rfl
@[simp] theorem setEngineC_whistle (n : Nat) (e : CodingEngine) : (s.setEngineC n e).whistle = s.whistle := rfl
@[simp] theorem setEngineC_replay (n : Nat) (e : CodingEngine) : (s.setEngineC n e).replay = s.replay := rfl
@[simp] theorem setEngineC_cycles (n : Nat) (e : CodingEngine) : (s.setEngineC n e).cycles = s.cycles := rfl
@[simp] theorem setEngineC_benchPages (n : Nat) (e : CodingEngine) : (s.setEngineC n e).benchPages = s.benchPages := rfl
@[simp] theorem setEngineC_fenceQueue (n : Nat) (e : CodingEngine) : (s.setEngineC n e).fenceQueue = s.fenceQueue := rfl
@[simp] theorem setEngineC_obj (n : Nat) (e : CodingEngine) : (s.setEngineC n e).obj = s.obj := rfl
@[simp] theorem setEngineC_blob (n : Nat) (e : CodingEngine) : (s.setEngineC n e).blob = s.blob := rfl
@[simp] theorem setEngineC_tbs (n : Nat) (e : CodingEngine) : (s.setEngineC n e).tbs = s.tbs := rfl
@[simp] theorem setEngineC_pins (n : Nat) (e : CodingEngine) : (s.setEngineC n e).pins = s.pins := rfl
@[simp] theorem setEngineC_pps (n : Nat) (e : CodingEngine) : (s.setEngineC n e).pps = s.pps := rfl
@[simp] theorem setEngineC_fences (n : Nat) (e : CodingEngine) : (s.setEngineC n e).fences = s.fences := rfl
@[simp] theorem setEngineC_rallies (n : Nat) (e : CodingEngine) : (s.setEngineC n e).rallies = s.rallies := rfl
@[simp] theorem setEngineC_svc (n : Nat) (e : CodingEngine) : (s.setEngineC n e).svc = s.svc := rfl
@[simp] theorem setEngineC_coresStopped (n : Nat) (e : CodingEngine) : (s.setEngineC n e).coresStopped = s.coresStopped := rfl
@[simp] theorem setEngineC_pwrm (n : Nat) (e : CodingEngine) : (s.setEngineC n e).pwrm = s.pwrm := rfl
@[simp] theorem setEngineC_therm (n : Nat) (e : CodingEngine) : (s.setEngineC n e).therm = s.therm := rfl
@[simp] theorem setEngineC_fixedBreach (n : Nat) (e : CodingEngine) : (s.setEngineC n e).fixedBreach = s.fixedBreach := rfl
@[simp] theorem setEngineC_chip (n : Nat) (e : CodingEngine) : (s.setEngineC n e).chip = s.chip := rfl
@[simp] theorem setEngineC_chans (n : Nat) (e : CodingEngine) : (s.setEngineC n e).chans = s.chans := rfl
@[simp] theorem setEngineC_waits (n : Nat) (e : CodingEngine) : (s.setEngineC n e).waits = s.waits := rfl
@[simp] theorem setEngineC_queued (n : Nat) (e : CodingEngine) : (s.setEngineC n e).queued = s.queued := rfl
@[simp] theorem setEngineC_mgmtIp (n : Nat) (e : CodingEngine) : (s.setEngineC n e).mgmtIp = s.mgmtIp := rfl
@[simp] theorem setEngineC_begun (n : Nat) (e : CodingEngine) : (s.setEngineC n e).begun = s.begun := rfl
@[simp] theorem setEngineC_commits (n : Nat) (e : CodingEngine) : (s.setEngineC n e).commits = s.commits := rfl
@[simp] theorem setEngineC_mgl (n : Nat) (e : CodingEngine) : (s.setEngineC n e).mgl = s.mgl := rfl
@[simp] theorem setEngineC_firm (n : Nat) (e : CodingEngine) : (s.setEngineC n e).firm = s.firm := rfl
@[simp] theorem setEngineC_power (n : Nat) (e : CodingEngine) : (s.setEngineC n e).power = s.power := rfl
@[simp] theorem setEngineC_dbg (n : Nat) (e : CodingEngine) : (s.setEngineC n e).dbg = s.dbg := rfl
@[simp] theorem setEngineC_ldpcEpoch (n : Nat) (e : CodingEngine) : (s.setEngineC n e).ldpcEpoch = s.ldpcEpoch := rfl
@[simp] theorem setEngineC_xspiErrors (n : Nat) (e : CodingEngine) : (s.setEngineC n e).xspiErrors = s.xspiErrors := rfl
@[simp] theorem setEngineC_fhFails (n : Nat) (e : CodingEngine) : (s.setEngineC n e).fhFails = s.fhFails := rfl
@[simp] theorem setEngineC_past (n : Nat) (e : CodingEngine) : (s.setEngineC n e).past = s.past := rfl

/-! ### setXf -/

@[simp] theorem setXf_pending (n : Nat) (e : TransformEngine) : (s.setXf n e).pending = s.pending := rfl
@[simp] theorem setXf_out (n : Nat) (e : TransformEngine) : (s.setXf n e).out = s.out := rfl
@[simp] theorem setXf_freeCtr (n : Nat) (e : TransformEngine) : (s.setXf n e).freeCtr = s.freeCtr := rfl
@[simp] theorem setXf_clock (n : Nat) (e : TransformEngine) : (s.setXf n e).clock = s.clock := rfl
@[simp] theorem setXf_auditAir (n : Nat) (e : TransformEngine) : (s.setXf n e).auditAir = s.auditAir := rfl
@[simp] theorem setXf_mem (n : Nat) (e : TransformEngine) : (s.setXf n e).mem = s.mem := rfl
@[simp] theorem setXf_tags (n : Nat) (e : TransformEngine) : (s.setXf n e).tags = s.tags := rfl
@[simp] theorem setXf_cores (n : Nat) (e : TransformEngine) : (s.setXf n e).cores = s.cores := rfl
@[simp] theorem setXf_tallies (n : Nat) (e : TransformEngine) : (s.setXf n e).tallies = s.tallies := rfl
@[simp] theorem setXf_tpools (n : Nat) (e : TransformEngine) : (s.setXf n e).tpools = s.tpools := rfl
@[simp] theorem setXf_pools (n : Nat) (e : TransformEngine) : (s.setXf n e).pools = s.pools := rfl
@[simp] theorem setXf_queues (n : Nat) (e : TransformEngine) : (s.setXf n e).queues = s.queues := rfl
@[simp] theorem setXf_heldBy (n : Nat) (e : TransformEngine) : (s.setXf n e).heldBy = s.heldBy := rfl
@[simp] theorem setXf_handleFrom (n : Nat) (e : TransformEngine) : (s.setXf n e).handleFrom = s.handleFrom := rfl
@[simp] theorem setXf_credits (n : Nat) (e : TransformEngine) : (s.setXf n e).credits = s.credits := rfl
@[simp] theorem setXf_jobs (n : Nat) (e : TransformEngine) : (s.setXf n e).jobs = s.jobs := rfl
@[simp] theorem setXf_nextJob (n : Nat) (e : TransformEngine) : (s.setXf n e).nextJob = s.nextJob := rfl
@[simp] theorem setXf_swapped (n : Nat) (e : TransformEngine) : (s.setXf n e).swapped = s.swapped := rfl
@[simp] theorem setXf_orders (n : Nat) (e : TransformEngine) : (s.setXf n e).orders = s.orders := rfl
@[simp] theorem setXf_nextOrder (n : Nat) (e : TransformEngine) : (s.setXf n e).nextOrder = s.nextOrder := rfl
@[simp] theorem setXf_coding (n : Nat) (e : TransformEngine) : (s.setXf n e).coding = s.coding := rfl
@[simp] theorem setXf_harq (n : Nat) (e : TransformEngine) : (s.setXf n e).harq = s.harq := rfl
@[simp] theorem setXf_transforms (n : Nat) (e : TransformEngine) : (s.setXf n e).transforms = Tbl.set {} s.transforms n e := rfl
@[simp] theorem setXf_lib (n : Nat) (e : TransformEngine) : (s.setXf n e).lib = s.lib := rfl
@[simp] theorem setXf_bench (n : Nat) (e : TransformEngine) : (s.setXf n e).bench = s.bench := rfl
@[simp] theorem setXf_loads (n : Nat) (e : TransformEngine) : (s.setXf n e).loads = s.loads := rfl
@[simp] theorem setXf_funcs (n : Nat) (e : TransformEngine) : (s.setXf n e).funcs = s.funcs := rfl
@[simp] theorem setXf_bursts (n : Nat) (e : TransformEngine) : (s.setXf n e).bursts = s.bursts := rfl
@[simp] theorem setXf_cplane (n : Nat) (e : TransformEngine) : (s.setXf n e).cplane = s.cplane := rfl
@[simp] theorem setXf_ecpriSeq (n : Nat) (e : TransformEngine) : (s.setXf n e).ecpriSeq = s.ecpriSeq := rfl
@[simp] theorem setXf_txHeld (n : Nat) (e : TransformEngine) : (s.setXf n e).txHeld = s.txHeld := rfl
@[simp] theorem setXf_adaptSlots (n : Nat) (e : TransformEngine) : (s.setXf n e).adaptSlots = s.adaptSlots := rfl
@[simp] theorem setXf_adaptUsed (n : Nat) (e : TransformEngine) : (s.setXf n e).adaptUsed = s.adaptUsed := rfl
@[simp] theorem setXf_audit (n : Nat) (e : TransformEngine) : (s.setXf n e).audit = s.audit := rfl
@[simp] theorem setXf_whistle (n : Nat) (e : TransformEngine) : (s.setXf n e).whistle = s.whistle := rfl
@[simp] theorem setXf_replay (n : Nat) (e : TransformEngine) : (s.setXf n e).replay = s.replay := rfl
@[simp] theorem setXf_cycles (n : Nat) (e : TransformEngine) : (s.setXf n e).cycles = s.cycles := rfl
@[simp] theorem setXf_benchPages (n : Nat) (e : TransformEngine) : (s.setXf n e).benchPages = s.benchPages := rfl
@[simp] theorem setXf_fenceQueue (n : Nat) (e : TransformEngine) : (s.setXf n e).fenceQueue = s.fenceQueue := rfl
@[simp] theorem setXf_obj (n : Nat) (e : TransformEngine) : (s.setXf n e).obj = s.obj := rfl
@[simp] theorem setXf_blob (n : Nat) (e : TransformEngine) : (s.setXf n e).blob = s.blob := rfl
@[simp] theorem setXf_tbs (n : Nat) (e : TransformEngine) : (s.setXf n e).tbs = s.tbs := rfl
@[simp] theorem setXf_pins (n : Nat) (e : TransformEngine) : (s.setXf n e).pins = s.pins := rfl
@[simp] theorem setXf_pps (n : Nat) (e : TransformEngine) : (s.setXf n e).pps = s.pps := rfl
@[simp] theorem setXf_fences (n : Nat) (e : TransformEngine) : (s.setXf n e).fences = s.fences := rfl
@[simp] theorem setXf_rallies (n : Nat) (e : TransformEngine) : (s.setXf n e).rallies = s.rallies := rfl
@[simp] theorem setXf_svc (n : Nat) (e : TransformEngine) : (s.setXf n e).svc = s.svc := rfl
@[simp] theorem setXf_coresStopped (n : Nat) (e : TransformEngine) : (s.setXf n e).coresStopped = s.coresStopped := rfl
@[simp] theorem setXf_pwrm (n : Nat) (e : TransformEngine) : (s.setXf n e).pwrm = s.pwrm := rfl
@[simp] theorem setXf_therm (n : Nat) (e : TransformEngine) : (s.setXf n e).therm = s.therm := rfl
@[simp] theorem setXf_fixedBreach (n : Nat) (e : TransformEngine) : (s.setXf n e).fixedBreach = s.fixedBreach := rfl
@[simp] theorem setXf_chip (n : Nat) (e : TransformEngine) : (s.setXf n e).chip = s.chip := rfl
@[simp] theorem setXf_chans (n : Nat) (e : TransformEngine) : (s.setXf n e).chans = s.chans := rfl
@[simp] theorem setXf_waits (n : Nat) (e : TransformEngine) : (s.setXf n e).waits = s.waits := rfl
@[simp] theorem setXf_queued (n : Nat) (e : TransformEngine) : (s.setXf n e).queued = s.queued := rfl
@[simp] theorem setXf_mgmtIp (n : Nat) (e : TransformEngine) : (s.setXf n e).mgmtIp = s.mgmtIp := rfl
@[simp] theorem setXf_begun (n : Nat) (e : TransformEngine) : (s.setXf n e).begun = s.begun := rfl
@[simp] theorem setXf_commits (n : Nat) (e : TransformEngine) : (s.setXf n e).commits = s.commits := rfl
@[simp] theorem setXf_mgl (n : Nat) (e : TransformEngine) : (s.setXf n e).mgl = s.mgl := rfl
@[simp] theorem setXf_firm (n : Nat) (e : TransformEngine) : (s.setXf n e).firm = s.firm := rfl
@[simp] theorem setXf_power (n : Nat) (e : TransformEngine) : (s.setXf n e).power = s.power := rfl
@[simp] theorem setXf_dbg (n : Nat) (e : TransformEngine) : (s.setXf n e).dbg = s.dbg := rfl
@[simp] theorem setXf_ldpcEpoch (n : Nat) (e : TransformEngine) : (s.setXf n e).ldpcEpoch = s.ldpcEpoch := rfl
@[simp] theorem setXf_xspiErrors (n : Nat) (e : TransformEngine) : (s.setXf n e).xspiErrors = s.xspiErrors := rfl
@[simp] theorem setXf_fhFails (n : Nat) (e : TransformEngine) : (s.setXf n e).fhFails = s.fhFails := rfl
@[simp] theorem setXf_past (n : Nat) (e : TransformEngine) : (s.setXf n e).past = s.past := rfl

/-! ### setFunc -/

@[simp] theorem setFunc_pending (n : Nat) (f : Func) : (s.setFunc n f).pending = s.pending := rfl
@[simp] theorem setFunc_out (n : Nat) (f : Func) : (s.setFunc n f).out = s.out := rfl
@[simp] theorem setFunc_freeCtr (n : Nat) (f : Func) : (s.setFunc n f).freeCtr = s.freeCtr := rfl
@[simp] theorem setFunc_clock (n : Nat) (f : Func) : (s.setFunc n f).clock = s.clock := rfl
@[simp] theorem setFunc_auditAir (n : Nat) (f : Func) : (s.setFunc n f).auditAir = s.auditAir := rfl
@[simp] theorem setFunc_mem (n : Nat) (f : Func) : (s.setFunc n f).mem = s.mem := rfl
@[simp] theorem setFunc_tags (n : Nat) (f : Func) : (s.setFunc n f).tags = s.tags := rfl
@[simp] theorem setFunc_cores (n : Nat) (f : Func) : (s.setFunc n f).cores = s.cores := rfl
@[simp] theorem setFunc_tallies (n : Nat) (f : Func) : (s.setFunc n f).tallies = s.tallies := rfl
@[simp] theorem setFunc_tpools (n : Nat) (f : Func) : (s.setFunc n f).tpools = s.tpools := rfl
@[simp] theorem setFunc_pools (n : Nat) (f : Func) : (s.setFunc n f).pools = s.pools := rfl
@[simp] theorem setFunc_queues (n : Nat) (f : Func) : (s.setFunc n f).queues = s.queues := rfl
@[simp] theorem setFunc_heldBy (n : Nat) (f : Func) : (s.setFunc n f).heldBy = s.heldBy := rfl
@[simp] theorem setFunc_handleFrom (n : Nat) (f : Func) : (s.setFunc n f).handleFrom = s.handleFrom := rfl
@[simp] theorem setFunc_credits (n : Nat) (f : Func) : (s.setFunc n f).credits = s.credits := rfl
@[simp] theorem setFunc_jobs (n : Nat) (f : Func) : (s.setFunc n f).jobs = s.jobs := rfl
@[simp] theorem setFunc_nextJob (n : Nat) (f : Func) : (s.setFunc n f).nextJob = s.nextJob := rfl
@[simp] theorem setFunc_swapped (n : Nat) (f : Func) : (s.setFunc n f).swapped = s.swapped := rfl
@[simp] theorem setFunc_orders (n : Nat) (f : Func) : (s.setFunc n f).orders = s.orders := rfl
@[simp] theorem setFunc_nextOrder (n : Nat) (f : Func) : (s.setFunc n f).nextOrder = s.nextOrder := rfl
@[simp] theorem setFunc_coding (n : Nat) (f : Func) : (s.setFunc n f).coding = s.coding := rfl
@[simp] theorem setFunc_harq (n : Nat) (f : Func) : (s.setFunc n f).harq = s.harq := rfl
@[simp] theorem setFunc_transforms (n : Nat) (f : Func) : (s.setFunc n f).transforms = s.transforms := rfl
@[simp] theorem setFunc_lib (n : Nat) (f : Func) : (s.setFunc n f).lib = s.lib := rfl
@[simp] theorem setFunc_bench (n : Nat) (f : Func) : (s.setFunc n f).bench = s.bench := rfl
@[simp] theorem setFunc_loads (n : Nat) (f : Func) : (s.setFunc n f).loads = s.loads := rfl
@[simp] theorem setFunc_funcs (n : Nat) (f : Func) : (s.setFunc n f).funcs = Tbl.set {} s.funcs n f := rfl
@[simp] theorem setFunc_bursts (n : Nat) (f : Func) : (s.setFunc n f).bursts = s.bursts := rfl
@[simp] theorem setFunc_cplane (n : Nat) (f : Func) : (s.setFunc n f).cplane = s.cplane := rfl
@[simp] theorem setFunc_ecpriSeq (n : Nat) (f : Func) : (s.setFunc n f).ecpriSeq = s.ecpriSeq := rfl
@[simp] theorem setFunc_txHeld (n : Nat) (f : Func) : (s.setFunc n f).txHeld = s.txHeld := rfl
@[simp] theorem setFunc_adaptSlots (n : Nat) (f : Func) : (s.setFunc n f).adaptSlots = s.adaptSlots := rfl
@[simp] theorem setFunc_adaptUsed (n : Nat) (f : Func) : (s.setFunc n f).adaptUsed = s.adaptUsed := rfl
@[simp] theorem setFunc_audit (n : Nat) (f : Func) : (s.setFunc n f).audit = s.audit := rfl
@[simp] theorem setFunc_whistle (n : Nat) (f : Func) : (s.setFunc n f).whistle = s.whistle := rfl
@[simp] theorem setFunc_replay (n : Nat) (f : Func) : (s.setFunc n f).replay = s.replay := rfl
@[simp] theorem setFunc_cycles (n : Nat) (f : Func) : (s.setFunc n f).cycles = s.cycles := rfl
@[simp] theorem setFunc_benchPages (n : Nat) (f : Func) : (s.setFunc n f).benchPages = s.benchPages := rfl
@[simp] theorem setFunc_fenceQueue (n : Nat) (f : Func) : (s.setFunc n f).fenceQueue = s.fenceQueue := rfl
@[simp] theorem setFunc_obj (n : Nat) (f : Func) : (s.setFunc n f).obj = s.obj := rfl
@[simp] theorem setFunc_blob (n : Nat) (f : Func) : (s.setFunc n f).blob = s.blob := rfl
@[simp] theorem setFunc_tbs (n : Nat) (f : Func) : (s.setFunc n f).tbs = s.tbs := rfl
@[simp] theorem setFunc_pins (n : Nat) (f : Func) : (s.setFunc n f).pins = s.pins := rfl
@[simp] theorem setFunc_pps (n : Nat) (f : Func) : (s.setFunc n f).pps = s.pps := rfl
@[simp] theorem setFunc_fences (n : Nat) (f : Func) : (s.setFunc n f).fences = s.fences := rfl
@[simp] theorem setFunc_rallies (n : Nat) (f : Func) : (s.setFunc n f).rallies = s.rallies := rfl
@[simp] theorem setFunc_svc (n : Nat) (f : Func) : (s.setFunc n f).svc = s.svc := rfl
@[simp] theorem setFunc_coresStopped (n : Nat) (f : Func) : (s.setFunc n f).coresStopped = s.coresStopped := rfl
@[simp] theorem setFunc_pwrm (n : Nat) (f : Func) : (s.setFunc n f).pwrm = s.pwrm := rfl
@[simp] theorem setFunc_therm (n : Nat) (f : Func) : (s.setFunc n f).therm = s.therm := rfl
@[simp] theorem setFunc_fixedBreach (n : Nat) (f : Func) : (s.setFunc n f).fixedBreach = s.fixedBreach := rfl
@[simp] theorem setFunc_chip (n : Nat) (f : Func) : (s.setFunc n f).chip = s.chip := rfl
@[simp] theorem setFunc_chans (n : Nat) (f : Func) : (s.setFunc n f).chans = s.chans := rfl
@[simp] theorem setFunc_waits (n : Nat) (f : Func) : (s.setFunc n f).waits = s.waits := rfl
@[simp] theorem setFunc_queued (n : Nat) (f : Func) : (s.setFunc n f).queued = s.queued := rfl
@[simp] theorem setFunc_mgmtIp (n : Nat) (f : Func) : (s.setFunc n f).mgmtIp = s.mgmtIp := rfl
@[simp] theorem setFunc_begun (n : Nat) (f : Func) : (s.setFunc n f).begun = s.begun := rfl
@[simp] theorem setFunc_commits (n : Nat) (f : Func) : (s.setFunc n f).commits = s.commits := rfl
@[simp] theorem setFunc_mgl (n : Nat) (f : Func) : (s.setFunc n f).mgl = s.mgl := rfl
@[simp] theorem setFunc_firm (n : Nat) (f : Func) : (s.setFunc n f).firm = s.firm := rfl
@[simp] theorem setFunc_power (n : Nat) (f : Func) : (s.setFunc n f).power = s.power := rfl
@[simp] theorem setFunc_dbg (n : Nat) (f : Func) : (s.setFunc n f).dbg = s.dbg := rfl
@[simp] theorem setFunc_ldpcEpoch (n : Nat) (f : Func) : (s.setFunc n f).ldpcEpoch = s.ldpcEpoch := rfl
@[simp] theorem setFunc_xspiErrors (n : Nat) (f : Func) : (s.setFunc n f).xspiErrors = s.xspiErrors := rfl
@[simp] theorem setFunc_fhFails (n : Nat) (f : Func) : (s.setFunc n f).fhFails = s.fhFails := rfl
@[simp] theorem setFunc_past (n : Nat) (f : Func) : (s.setFunc n f).past = s.past := rfl

/-! ### setChan -/

@[simp] theorem setChan_pending (n : Nat) (h : Chan) : (s.setChan n h).pending = s.pending := rfl
@[simp] theorem setChan_out (n : Nat) (h : Chan) : (s.setChan n h).out = s.out := rfl
@[simp] theorem setChan_freeCtr (n : Nat) (h : Chan) : (s.setChan n h).freeCtr = s.freeCtr := rfl
@[simp] theorem setChan_clock (n : Nat) (h : Chan) : (s.setChan n h).clock = s.clock := rfl
@[simp] theorem setChan_auditAir (n : Nat) (h : Chan) : (s.setChan n h).auditAir = s.auditAir := rfl
@[simp] theorem setChan_mem (n : Nat) (h : Chan) : (s.setChan n h).mem = s.mem := rfl
@[simp] theorem setChan_tags (n : Nat) (h : Chan) : (s.setChan n h).tags = s.tags := rfl
@[simp] theorem setChan_cores (n : Nat) (h : Chan) : (s.setChan n h).cores = s.cores := rfl
@[simp] theorem setChan_tallies (n : Nat) (h : Chan) : (s.setChan n h).tallies = s.tallies := rfl
@[simp] theorem setChan_tpools (n : Nat) (h : Chan) : (s.setChan n h).tpools = s.tpools := rfl
@[simp] theorem setChan_pools (n : Nat) (h : Chan) : (s.setChan n h).pools = s.pools := rfl
@[simp] theorem setChan_queues (n : Nat) (h : Chan) : (s.setChan n h).queues = s.queues := rfl
@[simp] theorem setChan_heldBy (n : Nat) (h : Chan) : (s.setChan n h).heldBy = s.heldBy := rfl
@[simp] theorem setChan_handleFrom (n : Nat) (h : Chan) : (s.setChan n h).handleFrom = s.handleFrom := rfl
@[simp] theorem setChan_credits (n : Nat) (h : Chan) : (s.setChan n h).credits = s.credits := rfl
@[simp] theorem setChan_jobs (n : Nat) (h : Chan) : (s.setChan n h).jobs = s.jobs := rfl
@[simp] theorem setChan_nextJob (n : Nat) (h : Chan) : (s.setChan n h).nextJob = s.nextJob := rfl
@[simp] theorem setChan_swapped (n : Nat) (h : Chan) : (s.setChan n h).swapped = s.swapped := rfl
@[simp] theorem setChan_orders (n : Nat) (h : Chan) : (s.setChan n h).orders = s.orders := rfl
@[simp] theorem setChan_nextOrder (n : Nat) (h : Chan) : (s.setChan n h).nextOrder = s.nextOrder := rfl
@[simp] theorem setChan_coding (n : Nat) (h : Chan) : (s.setChan n h).coding = s.coding := rfl
@[simp] theorem setChan_harq (n : Nat) (h : Chan) : (s.setChan n h).harq = s.harq := rfl
@[simp] theorem setChan_transforms (n : Nat) (h : Chan) : (s.setChan n h).transforms = s.transforms := rfl
@[simp] theorem setChan_lib (n : Nat) (h : Chan) : (s.setChan n h).lib = s.lib := rfl
@[simp] theorem setChan_bench (n : Nat) (h : Chan) : (s.setChan n h).bench = s.bench := rfl
@[simp] theorem setChan_loads (n : Nat) (h : Chan) : (s.setChan n h).loads = s.loads := rfl
@[simp] theorem setChan_funcs (n : Nat) (h : Chan) : (s.setChan n h).funcs = s.funcs := rfl
@[simp] theorem setChan_bursts (n : Nat) (h : Chan) : (s.setChan n h).bursts = s.bursts := rfl
@[simp] theorem setChan_cplane (n : Nat) (h : Chan) : (s.setChan n h).cplane = s.cplane := rfl
@[simp] theorem setChan_ecpriSeq (n : Nat) (h : Chan) : (s.setChan n h).ecpriSeq = s.ecpriSeq := rfl
@[simp] theorem setChan_txHeld (n : Nat) (h : Chan) : (s.setChan n h).txHeld = s.txHeld := rfl
@[simp] theorem setChan_adaptSlots (n : Nat) (h : Chan) : (s.setChan n h).adaptSlots = s.adaptSlots := rfl
@[simp] theorem setChan_adaptUsed (n : Nat) (h : Chan) : (s.setChan n h).adaptUsed = s.adaptUsed := rfl
@[simp] theorem setChan_audit (n : Nat) (h : Chan) : (s.setChan n h).audit = s.audit := rfl
@[simp] theorem setChan_whistle (n : Nat) (h : Chan) : (s.setChan n h).whistle = s.whistle := rfl
@[simp] theorem setChan_replay (n : Nat) (h : Chan) : (s.setChan n h).replay = s.replay := rfl
@[simp] theorem setChan_cycles (n : Nat) (h : Chan) : (s.setChan n h).cycles = s.cycles := rfl
@[simp] theorem setChan_benchPages (n : Nat) (h : Chan) : (s.setChan n h).benchPages = s.benchPages := rfl
@[simp] theorem setChan_fenceQueue (n : Nat) (h : Chan) : (s.setChan n h).fenceQueue = s.fenceQueue := rfl
@[simp] theorem setChan_obj (n : Nat) (h : Chan) : (s.setChan n h).obj = s.obj := rfl
@[simp] theorem setChan_blob (n : Nat) (h : Chan) : (s.setChan n h).blob = s.blob := rfl
@[simp] theorem setChan_tbs (n : Nat) (h : Chan) : (s.setChan n h).tbs = s.tbs := rfl
@[simp] theorem setChan_pins (n : Nat) (h : Chan) : (s.setChan n h).pins = s.pins := rfl
@[simp] theorem setChan_pps (n : Nat) (h : Chan) : (s.setChan n h).pps = s.pps := rfl
@[simp] theorem setChan_fences (n : Nat) (h : Chan) : (s.setChan n h).fences = s.fences := rfl
@[simp] theorem setChan_rallies (n : Nat) (h : Chan) : (s.setChan n h).rallies = s.rallies := rfl
@[simp] theorem setChan_svc (n : Nat) (h : Chan) : (s.setChan n h).svc = s.svc := rfl
@[simp] theorem setChan_coresStopped (n : Nat) (h : Chan) : (s.setChan n h).coresStopped = s.coresStopped := rfl
@[simp] theorem setChan_pwrm (n : Nat) (h : Chan) : (s.setChan n h).pwrm = s.pwrm := rfl
@[simp] theorem setChan_therm (n : Nat) (h : Chan) : (s.setChan n h).therm = s.therm := rfl
@[simp] theorem setChan_fixedBreach (n : Nat) (h : Chan) : (s.setChan n h).fixedBreach = s.fixedBreach := rfl
@[simp] theorem setChan_chip (n : Nat) (h : Chan) : (s.setChan n h).chip = s.chip := rfl
@[simp] theorem setChan_chans (n : Nat) (h : Chan) : (s.setChan n h).chans = Tbl.set {} s.chans n h := rfl
@[simp] theorem setChan_waits (n : Nat) (h : Chan) : (s.setChan n h).waits = s.waits := rfl
@[simp] theorem setChan_queued (n : Nat) (h : Chan) : (s.setChan n h).queued = s.queued := rfl
@[simp] theorem setChan_mgmtIp (n : Nat) (h : Chan) : (s.setChan n h).mgmtIp = s.mgmtIp := rfl
@[simp] theorem setChan_begun (n : Nat) (h : Chan) : (s.setChan n h).begun = s.begun := rfl
@[simp] theorem setChan_commits (n : Nat) (h : Chan) : (s.setChan n h).commits = s.commits := rfl
@[simp] theorem setChan_mgl (n : Nat) (h : Chan) : (s.setChan n h).mgl = s.mgl := rfl
@[simp] theorem setChan_firm (n : Nat) (h : Chan) : (s.setChan n h).firm = s.firm := rfl
@[simp] theorem setChan_power (n : Nat) (h : Chan) : (s.setChan n h).power = s.power := rfl
@[simp] theorem setChan_dbg (n : Nat) (h : Chan) : (s.setChan n h).dbg = s.dbg := rfl
@[simp] theorem setChan_ldpcEpoch (n : Nat) (h : Chan) : (s.setChan n h).ldpcEpoch = s.ldpcEpoch := rfl
@[simp] theorem setChan_xspiErrors (n : Nat) (h : Chan) : (s.setChan n h).xspiErrors = s.xspiErrors := rfl
@[simp] theorem setChan_fhFails (n : Nat) (h : Chan) : (s.setChan n h).fhFails = s.fhFails := rfl
@[simp] theorem setChan_past (n : Nat) (h : Chan) : (s.setChan n h).past = s.past := rfl

/-! ### bumpFree -/

@[simp] theorem bumpFree_pending : (s.bumpFree).pending = s.pending := rfl
@[simp] theorem bumpFree_out : (s.bumpFree).out = s.out := rfl
@[simp] theorem bumpFree_freeCtr : (s.bumpFree).freeCtr = s.freeCtr + 1 := rfl
@[simp] theorem bumpFree_clock : (s.bumpFree).clock = s.clock := rfl
@[simp] theorem bumpFree_auditAir : (s.bumpFree).auditAir = s.auditAir := rfl
@[simp] theorem bumpFree_mem : (s.bumpFree).mem = s.mem := rfl
@[simp] theorem bumpFree_tags : (s.bumpFree).tags = s.tags := rfl
@[simp] theorem bumpFree_cores : (s.bumpFree).cores = s.cores := rfl
@[simp] theorem bumpFree_tallies : (s.bumpFree).tallies = s.tallies := rfl
@[simp] theorem bumpFree_tpools : (s.bumpFree).tpools = s.tpools := rfl
@[simp] theorem bumpFree_pools : (s.bumpFree).pools = s.pools := rfl
@[simp] theorem bumpFree_queues : (s.bumpFree).queues = s.queues := rfl
@[simp] theorem bumpFree_heldBy : (s.bumpFree).heldBy = s.heldBy := rfl
@[simp] theorem bumpFree_handleFrom : (s.bumpFree).handleFrom = s.handleFrom := rfl
@[simp] theorem bumpFree_credits : (s.bumpFree).credits = s.credits := rfl
@[simp] theorem bumpFree_jobs : (s.bumpFree).jobs = s.jobs := rfl
@[simp] theorem bumpFree_nextJob : (s.bumpFree).nextJob = s.nextJob := rfl
@[simp] theorem bumpFree_swapped : (s.bumpFree).swapped = s.swapped := rfl
@[simp] theorem bumpFree_orders : (s.bumpFree).orders = s.orders := rfl
@[simp] theorem bumpFree_nextOrder : (s.bumpFree).nextOrder = s.nextOrder := rfl
@[simp] theorem bumpFree_coding : (s.bumpFree).coding = s.coding := rfl
@[simp] theorem bumpFree_harq : (s.bumpFree).harq = s.harq := rfl
@[simp] theorem bumpFree_transforms : (s.bumpFree).transforms = s.transforms := rfl
@[simp] theorem bumpFree_lib : (s.bumpFree).lib = s.lib := rfl
@[simp] theorem bumpFree_bench : (s.bumpFree).bench = s.bench := rfl
@[simp] theorem bumpFree_loads : (s.bumpFree).loads = s.loads := rfl
@[simp] theorem bumpFree_funcs : (s.bumpFree).funcs = s.funcs := rfl
@[simp] theorem bumpFree_bursts : (s.bumpFree).bursts = s.bursts := rfl
@[simp] theorem bumpFree_cplane : (s.bumpFree).cplane = s.cplane := rfl
@[simp] theorem bumpFree_ecpriSeq : (s.bumpFree).ecpriSeq = s.ecpriSeq := rfl
@[simp] theorem bumpFree_txHeld : (s.bumpFree).txHeld = s.txHeld := rfl
@[simp] theorem bumpFree_adaptSlots : (s.bumpFree).adaptSlots = s.adaptSlots := rfl
@[simp] theorem bumpFree_adaptUsed : (s.bumpFree).adaptUsed = s.adaptUsed := rfl
@[simp] theorem bumpFree_audit : (s.bumpFree).audit = s.audit := rfl
@[simp] theorem bumpFree_whistle : (s.bumpFree).whistle = s.whistle := rfl
@[simp] theorem bumpFree_replay : (s.bumpFree).replay = s.replay := rfl
@[simp] theorem bumpFree_cycles : (s.bumpFree).cycles = s.cycles := rfl
@[simp] theorem bumpFree_benchPages : (s.bumpFree).benchPages = s.benchPages := rfl
@[simp] theorem bumpFree_fenceQueue : (s.bumpFree).fenceQueue = s.fenceQueue := rfl
@[simp] theorem bumpFree_obj : (s.bumpFree).obj = s.obj := rfl
@[simp] theorem bumpFree_blob : (s.bumpFree).blob = s.blob := rfl
@[simp] theorem bumpFree_tbs : (s.bumpFree).tbs = s.tbs := rfl
@[simp] theorem bumpFree_pins : (s.bumpFree).pins = s.pins := rfl
@[simp] theorem bumpFree_pps : (s.bumpFree).pps = s.pps := rfl
@[simp] theorem bumpFree_fences : (s.bumpFree).fences = s.fences := rfl
@[simp] theorem bumpFree_rallies : (s.bumpFree).rallies = s.rallies := rfl
@[simp] theorem bumpFree_svc : (s.bumpFree).svc = s.svc := rfl
@[simp] theorem bumpFree_coresStopped : (s.bumpFree).coresStopped = s.coresStopped := rfl
@[simp] theorem bumpFree_pwrm : (s.bumpFree).pwrm = s.pwrm := rfl
@[simp] theorem bumpFree_therm : (s.bumpFree).therm = s.therm := rfl
@[simp] theorem bumpFree_fixedBreach : (s.bumpFree).fixedBreach = s.fixedBreach := rfl
@[simp] theorem bumpFree_chip : (s.bumpFree).chip = s.chip := rfl
@[simp] theorem bumpFree_chans : (s.bumpFree).chans = s.chans := rfl
@[simp] theorem bumpFree_waits : (s.bumpFree).waits = s.waits := rfl
@[simp] theorem bumpFree_queued : (s.bumpFree).queued = s.queued := rfl
@[simp] theorem bumpFree_mgmtIp : (s.bumpFree).mgmtIp = s.mgmtIp := rfl
@[simp] theorem bumpFree_begun : (s.bumpFree).begun = s.begun := rfl
@[simp] theorem bumpFree_commits : (s.bumpFree).commits = s.commits := rfl
@[simp] theorem bumpFree_mgl : (s.bumpFree).mgl = s.mgl := rfl
@[simp] theorem bumpFree_firm : (s.bumpFree).firm = s.firm := rfl
@[simp] theorem bumpFree_power : (s.bumpFree).power = s.power := rfl
@[simp] theorem bumpFree_dbg : (s.bumpFree).dbg = s.dbg := rfl
@[simp] theorem bumpFree_ldpcEpoch : (s.bumpFree).ldpcEpoch = s.ldpcEpoch := rfl
@[simp] theorem bumpFree_xspiErrors : (s.bumpFree).xspiErrors = s.xspiErrors := rfl
@[simp] theorem bumpFree_fhFails : (s.bumpFree).fhFails = s.fhFails := rfl
@[simp] theorem bumpFree_past : (s.bumpFree).past = s.past := rfl

/-! ### emit -/

@[simp] theorem emit_pending (o : Out) : (s.emit o).pending = s.pending := rfl
@[simp] theorem emit_out (o : Out) : (s.emit o).out = s.out ++ [o] := rfl
@[simp] theorem emit_freeCtr (o : Out) : (s.emit o).freeCtr = s.freeCtr := rfl
@[simp] theorem emit_clock (o : Out) : (s.emit o).clock = s.clock := rfl
@[simp] theorem emit_auditAir (o : Out) : (s.emit o).auditAir = s.auditAir := rfl
@[simp] theorem emit_mem (o : Out) : (s.emit o).mem = s.mem := rfl
@[simp] theorem emit_tags (o : Out) : (s.emit o).tags = s.tags := rfl
@[simp] theorem emit_cores (o : Out) : (s.emit o).cores = s.cores := rfl
@[simp] theorem emit_tallies (o : Out) : (s.emit o).tallies = s.tallies := rfl
@[simp] theorem emit_tpools (o : Out) : (s.emit o).tpools = s.tpools := rfl
@[simp] theorem emit_pools (o : Out) : (s.emit o).pools = s.pools := rfl
@[simp] theorem emit_queues (o : Out) : (s.emit o).queues = s.queues := rfl
@[simp] theorem emit_heldBy (o : Out) : (s.emit o).heldBy = s.heldBy := rfl
@[simp] theorem emit_handleFrom (o : Out) : (s.emit o).handleFrom = s.handleFrom := rfl
@[simp] theorem emit_credits (o : Out) : (s.emit o).credits = s.credits := rfl
@[simp] theorem emit_jobs (o : Out) : (s.emit o).jobs = s.jobs := rfl
@[simp] theorem emit_nextJob (o : Out) : (s.emit o).nextJob = s.nextJob := rfl
@[simp] theorem emit_swapped (o : Out) : (s.emit o).swapped = s.swapped := rfl
@[simp] theorem emit_orders (o : Out) : (s.emit o).orders = s.orders := rfl
@[simp] theorem emit_nextOrder (o : Out) : (s.emit o).nextOrder = s.nextOrder := rfl
@[simp] theorem emit_coding (o : Out) : (s.emit o).coding = s.coding := rfl
@[simp] theorem emit_harq (o : Out) : (s.emit o).harq = s.harq := rfl
@[simp] theorem emit_transforms (o : Out) : (s.emit o).transforms = s.transforms := rfl
@[simp] theorem emit_lib (o : Out) : (s.emit o).lib = s.lib := rfl
@[simp] theorem emit_bench (o : Out) : (s.emit o).bench = s.bench := rfl
@[simp] theorem emit_loads (o : Out) : (s.emit o).loads = s.loads := rfl
@[simp] theorem emit_funcs (o : Out) : (s.emit o).funcs = s.funcs := rfl
@[simp] theorem emit_bursts (o : Out) : (s.emit o).bursts = s.bursts := rfl
@[simp] theorem emit_cplane (o : Out) : (s.emit o).cplane = s.cplane := rfl
@[simp] theorem emit_ecpriSeq (o : Out) : (s.emit o).ecpriSeq = s.ecpriSeq := rfl
@[simp] theorem emit_txHeld (o : Out) : (s.emit o).txHeld = s.txHeld := rfl
@[simp] theorem emit_adaptSlots (o : Out) : (s.emit o).adaptSlots = s.adaptSlots := rfl
@[simp] theorem emit_adaptUsed (o : Out) : (s.emit o).adaptUsed = s.adaptUsed := rfl
@[simp] theorem emit_audit (o : Out) : (s.emit o).audit = s.audit := rfl
@[simp] theorem emit_whistle (o : Out) : (s.emit o).whistle = s.whistle := rfl
@[simp] theorem emit_replay (o : Out) : (s.emit o).replay = s.replay := rfl
@[simp] theorem emit_cycles (o : Out) : (s.emit o).cycles = s.cycles := rfl
@[simp] theorem emit_benchPages (o : Out) : (s.emit o).benchPages = s.benchPages := rfl
@[simp] theorem emit_fenceQueue (o : Out) : (s.emit o).fenceQueue = s.fenceQueue := rfl
@[simp] theorem emit_obj (o : Out) : (s.emit o).obj = s.obj := rfl
@[simp] theorem emit_blob (o : Out) : (s.emit o).blob = s.blob := rfl
@[simp] theorem emit_tbs (o : Out) : (s.emit o).tbs = s.tbs := rfl
@[simp] theorem emit_pins (o : Out) : (s.emit o).pins = s.pins := rfl
@[simp] theorem emit_pps (o : Out) : (s.emit o).pps = s.pps := rfl
@[simp] theorem emit_fences (o : Out) : (s.emit o).fences = s.fences := rfl
@[simp] theorem emit_rallies (o : Out) : (s.emit o).rallies = s.rallies := rfl
@[simp] theorem emit_svc (o : Out) : (s.emit o).svc = s.svc := rfl
@[simp] theorem emit_coresStopped (o : Out) : (s.emit o).coresStopped = s.coresStopped := rfl
@[simp] theorem emit_pwrm (o : Out) : (s.emit o).pwrm = s.pwrm := rfl
@[simp] theorem emit_therm (o : Out) : (s.emit o).therm = s.therm := rfl
@[simp] theorem emit_fixedBreach (o : Out) : (s.emit o).fixedBreach = s.fixedBreach := rfl
@[simp] theorem emit_chip (o : Out) : (s.emit o).chip = s.chip := rfl
@[simp] theorem emit_chans (o : Out) : (s.emit o).chans = s.chans := rfl
@[simp] theorem emit_waits (o : Out) : (s.emit o).waits = s.waits := rfl
@[simp] theorem emit_queued (o : Out) : (s.emit o).queued = s.queued := rfl
@[simp] theorem emit_mgmtIp (o : Out) : (s.emit o).mgmtIp = s.mgmtIp := rfl
@[simp] theorem emit_begun (o : Out) : (s.emit o).begun = s.begun := rfl
@[simp] theorem emit_commits (o : Out) : (s.emit o).commits = s.commits := rfl
@[simp] theorem emit_mgl (o : Out) : (s.emit o).mgl = s.mgl := rfl
@[simp] theorem emit_firm (o : Out) : (s.emit o).firm = s.firm := rfl
@[simp] theorem emit_power (o : Out) : (s.emit o).power = s.power := rfl
@[simp] theorem emit_dbg (o : Out) : (s.emit o).dbg = s.dbg := rfl
@[simp] theorem emit_ldpcEpoch (o : Out) : (s.emit o).ldpcEpoch = s.ldpcEpoch := rfl
@[simp] theorem emit_xspiErrors (o : Out) : (s.emit o).xspiErrors = s.xspiErrors := rfl
@[simp] theorem emit_fhFails (o : Out) : (s.emit o).fhFails = s.fhFails := rfl
@[simp] theorem emit_past (o : Out) : (s.emit o).past = s.past := rfl

/-! ### put -/

@[simp] theorem put_pending (i u v : Nat) : (s.put i u v).pending = s.pending := rfl
@[simp] theorem put_out (i u v : Nat) : (s.put i u v).out = s.out := rfl
@[simp] theorem put_freeCtr (i u v : Nat) : (s.put i u v).freeCtr = s.freeCtr := rfl
@[simp] theorem put_clock (i u v : Nat) : (s.put i u v).clock = s.clock := rfl
@[simp] theorem put_auditAir (i u v : Nat) : (s.put i u v).auditAir = s.auditAir := rfl
@[simp] theorem put_mem (i u v : Nat) : (s.put i u v).mem = s.mem := rfl
@[simp] theorem put_tags (i u v : Nat) : (s.put i u v).tags = s.tags := rfl
@[simp] theorem put_cores (i u v : Nat) : (s.put i u v).cores = s.cores := rfl
@[simp] theorem put_tallies (i u v : Nat) : (s.put i u v).tallies = s.tallies := rfl
@[simp] theorem put_tpools (i u v : Nat) : (s.put i u v).tpools = s.tpools := rfl
@[simp] theorem put_pools (i u v : Nat) : (s.put i u v).pools = s.pools := rfl
@[simp] theorem put_queues (i u v : Nat) : (s.put i u v).queues = s.queues := rfl
@[simp] theorem put_heldBy (i u v : Nat) : (s.put i u v).heldBy = s.heldBy := rfl
@[simp] theorem put_handleFrom (i u v : Nat) : (s.put i u v).handleFrom = s.handleFrom := rfl
@[simp] theorem put_credits (i u v : Nat) : (s.put i u v).credits = s.credits := rfl
@[simp] theorem put_jobs (i u v : Nat) : (s.put i u v).jobs = s.jobs := rfl
@[simp] theorem put_nextJob (i u v : Nat) : (s.put i u v).nextJob = s.nextJob := rfl
@[simp] theorem put_swapped (i u v : Nat) : (s.put i u v).swapped = s.swapped := rfl
@[simp] theorem put_orders (i u v : Nat) : (s.put i u v).orders = s.orders := rfl
@[simp] theorem put_nextOrder (i u v : Nat) : (s.put i u v).nextOrder = s.nextOrder := rfl
@[simp] theorem put_coding (i u v : Nat) : (s.put i u v).coding = s.coding := rfl
@[simp] theorem put_harq (i u v : Nat) : (s.put i u v).harq = s.harq := rfl
@[simp] theorem put_transforms (i u v : Nat) : (s.put i u v).transforms = s.transforms := rfl
@[simp] theorem put_lib (i u v : Nat) : (s.put i u v).lib = s.lib := rfl
@[simp] theorem put_bench (i u v : Nat) : (s.put i u v).bench = s.bench := rfl
@[simp] theorem put_loads (i u v : Nat) : (s.put i u v).loads = s.loads := rfl
@[simp] theorem put_funcs (i u v : Nat) : (s.put i u v).funcs = s.funcs := rfl
@[simp] theorem put_bursts (i u v : Nat) : (s.put i u v).bursts = s.bursts := rfl
@[simp] theorem put_cplane (i u v : Nat) : (s.put i u v).cplane = s.cplane := rfl
@[simp] theorem put_ecpriSeq (i u v : Nat) : (s.put i u v).ecpriSeq = s.ecpriSeq := rfl
@[simp] theorem put_txHeld (i u v : Nat) : (s.put i u v).txHeld = s.txHeld := rfl
@[simp] theorem put_adaptSlots (i u v : Nat) : (s.put i u v).adaptSlots = s.adaptSlots := rfl
@[simp] theorem put_adaptUsed (i u v : Nat) : (s.put i u v).adaptUsed = s.adaptUsed := rfl
@[simp] theorem put_audit (i u v : Nat) : (s.put i u v).audit = s.audit := rfl
@[simp] theorem put_whistle (i u v : Nat) : (s.put i u v).whistle = s.whistle := rfl
@[simp] theorem put_replay (i u v : Nat) : (s.put i u v).replay = s.replay := rfl
@[simp] theorem put_cycles (i u v : Nat) : (s.put i u v).cycles = s.cycles := rfl
@[simp] theorem put_benchPages (i u v : Nat) : (s.put i u v).benchPages = s.benchPages := rfl
@[simp] theorem put_fenceQueue (i u v : Nat) : (s.put i u v).fenceQueue = s.fenceQueue := rfl
@[simp] theorem put_obj (i u v : Nat) : (s.put i u v).obj = Tbl.set (objDefault (okey i u)) s.obj (okey i u) v := rfl
@[simp] theorem put_blob (i u v : Nat) : (s.put i u v).blob = s.blob := rfl
@[simp] theorem put_tbs (i u v : Nat) : (s.put i u v).tbs = s.tbs := rfl
@[simp] theorem put_pins (i u v : Nat) : (s.put i u v).pins = s.pins := rfl
@[simp] theorem put_pps (i u v : Nat) : (s.put i u v).pps = s.pps := rfl
@[simp] theorem put_fences (i u v : Nat) : (s.put i u v).fences = s.fences := rfl
@[simp] theorem put_rallies (i u v : Nat) : (s.put i u v).rallies = s.rallies := rfl
@[simp] theorem put_svc (i u v : Nat) : (s.put i u v).svc = s.svc := rfl
@[simp] theorem put_coresStopped (i u v : Nat) : (s.put i u v).coresStopped = s.coresStopped := rfl
@[simp] theorem put_pwrm (i u v : Nat) : (s.put i u v).pwrm = s.pwrm := rfl
@[simp] theorem put_therm (i u v : Nat) : (s.put i u v).therm = s.therm := rfl
@[simp] theorem put_fixedBreach (i u v : Nat) : (s.put i u v).fixedBreach = s.fixedBreach := rfl
@[simp] theorem put_chip (i u v : Nat) : (s.put i u v).chip = s.chip := rfl
@[simp] theorem put_chans (i u v : Nat) : (s.put i u v).chans = s.chans := rfl
@[simp] theorem put_waits (i u v : Nat) : (s.put i u v).waits = s.waits := rfl
@[simp] theorem put_queued (i u v : Nat) : (s.put i u v).queued = s.queued := rfl
@[simp] theorem put_mgmtIp (i u v : Nat) : (s.put i u v).mgmtIp = s.mgmtIp := rfl
@[simp] theorem put_begun (i u v : Nat) : (s.put i u v).begun = s.begun := rfl
@[simp] theorem put_commits (i u v : Nat) : (s.put i u v).commits = s.commits := rfl
@[simp] theorem put_mgl (i u v : Nat) : (s.put i u v).mgl = s.mgl := rfl
@[simp] theorem put_firm (i u v : Nat) : (s.put i u v).firm = s.firm := rfl
@[simp] theorem put_power (i u v : Nat) : (s.put i u v).power = s.power := rfl
@[simp] theorem put_dbg (i u v : Nat) : (s.put i u v).dbg = s.dbg := rfl
@[simp] theorem put_ldpcEpoch (i u v : Nat) : (s.put i u v).ldpcEpoch = s.ldpcEpoch := rfl
@[simp] theorem put_xspiErrors (i u v : Nat) : (s.put i u v).xspiErrors = s.xspiErrors := rfl
@[simp] theorem put_fhFails (i u v : Nat) : (s.put i u v).fhFails = s.fhFails := rfl
@[simp] theorem put_past (i u v : Nat) : (s.put i u v).past = s.past := rfl

/-! ### putB -/

@[simp] theorem putB_pending (b i u v : Nat) : (s.putB b i u v).pending = s.pending := rfl
@[simp] theorem putB_out (b i u v : Nat) : (s.putB b i u v).out = s.out := rfl
@[simp] theorem putB_freeCtr (b i u v : Nat) : (s.putB b i u v).freeCtr = s.freeCtr := rfl
@[simp] theorem putB_clock (b i u v : Nat) : (s.putB b i u v).clock = s.clock := rfl
@[simp] theorem putB_auditAir (b i u v : Nat) : (s.putB b i u v).auditAir = s.auditAir := rfl
@[simp] theorem putB_mem (b i u v : Nat) : (s.putB b i u v).mem = s.mem := rfl
@[simp] theorem putB_tags (b i u v : Nat) : (s.putB b i u v).tags = s.tags := rfl
@[simp] theorem putB_cores (b i u v : Nat) : (s.putB b i u v).cores = s.cores := rfl
@[simp] theorem putB_tallies (b i u v : Nat) : (s.putB b i u v).tallies = s.tallies := rfl
@[simp] theorem putB_tpools (b i u v : Nat) : (s.putB b i u v).tpools = s.tpools := rfl
@[simp] theorem putB_pools (b i u v : Nat) : (s.putB b i u v).pools = s.pools := rfl
@[simp] theorem putB_queues (b i u v : Nat) : (s.putB b i u v).queues = s.queues := rfl
@[simp] theorem putB_heldBy (b i u v : Nat) : (s.putB b i u v).heldBy = s.heldBy := rfl
@[simp] theorem putB_handleFrom (b i u v : Nat) : (s.putB b i u v).handleFrom = s.handleFrom := rfl
@[simp] theorem putB_credits (b i u v : Nat) : (s.putB b i u v).credits = s.credits := rfl
@[simp] theorem putB_jobs (b i u v : Nat) : (s.putB b i u v).jobs = s.jobs := rfl
@[simp] theorem putB_nextJob (b i u v : Nat) : (s.putB b i u v).nextJob = s.nextJob := rfl
@[simp] theorem putB_swapped (b i u v : Nat) : (s.putB b i u v).swapped = s.swapped := rfl
@[simp] theorem putB_orders (b i u v : Nat) : (s.putB b i u v).orders = s.orders := rfl
@[simp] theorem putB_nextOrder (b i u v : Nat) : (s.putB b i u v).nextOrder = s.nextOrder := rfl
@[simp] theorem putB_coding (b i u v : Nat) : (s.putB b i u v).coding = s.coding := rfl
@[simp] theorem putB_harq (b i u v : Nat) : (s.putB b i u v).harq = s.harq := rfl
@[simp] theorem putB_transforms (b i u v : Nat) : (s.putB b i u v).transforms = s.transforms := rfl
@[simp] theorem putB_lib (b i u v : Nat) : (s.putB b i u v).lib = s.lib := rfl
@[simp] theorem putB_bench (b i u v : Nat) : (s.putB b i u v).bench = s.bench := rfl
@[simp] theorem putB_loads (b i u v : Nat) : (s.putB b i u v).loads = s.loads := rfl
@[simp] theorem putB_funcs (b i u v : Nat) : (s.putB b i u v).funcs = s.funcs := rfl
@[simp] theorem putB_bursts (b i u v : Nat) : (s.putB b i u v).bursts = s.bursts := rfl
@[simp] theorem putB_cplane (b i u v : Nat) : (s.putB b i u v).cplane = s.cplane := rfl
@[simp] theorem putB_ecpriSeq (b i u v : Nat) : (s.putB b i u v).ecpriSeq = s.ecpriSeq := rfl
@[simp] theorem putB_txHeld (b i u v : Nat) : (s.putB b i u v).txHeld = s.txHeld := rfl
@[simp] theorem putB_adaptSlots (b i u v : Nat) : (s.putB b i u v).adaptSlots = s.adaptSlots := rfl
@[simp] theorem putB_adaptUsed (b i u v : Nat) : (s.putB b i u v).adaptUsed = s.adaptUsed := rfl
@[simp] theorem putB_audit (b i u v : Nat) : (s.putB b i u v).audit = s.audit := rfl
@[simp] theorem putB_whistle (b i u v : Nat) : (s.putB b i u v).whistle = s.whistle := rfl
@[simp] theorem putB_replay (b i u v : Nat) : (s.putB b i u v).replay = s.replay := rfl
@[simp] theorem putB_cycles (b i u v : Nat) : (s.putB b i u v).cycles = s.cycles := rfl
@[simp] theorem putB_benchPages (b i u v : Nat) : (s.putB b i u v).benchPages = s.benchPages := rfl
@[simp] theorem putB_fenceQueue (b i u v : Nat) : (s.putB b i u v).fenceQueue = s.fenceQueue := rfl
@[simp] theorem putB_obj (b i u v : Nat) : (s.putB b i u v).obj = Tbl.set (bankDefault (okey i u)) s.obj (okey i u + b * 2 ^ 24) v := rfl
@[simp] theorem putB_blob (b i u v : Nat) : (s.putB b i u v).blob = s.blob := rfl
@[simp] theorem putB_tbs (b i u v : Nat) : (s.putB b i u v).tbs = s.tbs := rfl
@[simp] theorem putB_pins (b i u v : Nat) : (s.putB b i u v).pins = s.pins := rfl
@[simp] theorem putB_pps (b i u v : Nat) : (s.putB b i u v).pps = s.pps := rfl
@[simp] theorem putB_fences (b i u v : Nat) : (s.putB b i u v).fences = s.fences := rfl
@[simp] theorem putB_rallies (b i u v : Nat) : (s.putB b i u v).rallies = s.rallies := rfl
@[simp] theorem putB_svc (b i u v : Nat) : (s.putB b i u v).svc = s.svc := rfl
@[simp] theorem putB_coresStopped (b i u v : Nat) : (s.putB b i u v).coresStopped = s.coresStopped := rfl
@[simp] theorem putB_pwrm (b i u v : Nat) : (s.putB b i u v).pwrm = s.pwrm := rfl
@[simp] theorem putB_therm (b i u v : Nat) : (s.putB b i u v).therm = s.therm := rfl
@[simp] theorem putB_fixedBreach (b i u v : Nat) : (s.putB b i u v).fixedBreach = s.fixedBreach := rfl
@[simp] theorem putB_chip (b i u v : Nat) : (s.putB b i u v).chip = s.chip := rfl
@[simp] theorem putB_chans (b i u v : Nat) : (s.putB b i u v).chans = s.chans := rfl
@[simp] theorem putB_waits (b i u v : Nat) : (s.putB b i u v).waits = s.waits := rfl
@[simp] theorem putB_queued (b i u v : Nat) : (s.putB b i u v).queued = s.queued := rfl
@[simp] theorem putB_mgmtIp (b i u v : Nat) : (s.putB b i u v).mgmtIp = s.mgmtIp := rfl
@[simp] theorem putB_begun (b i u v : Nat) : (s.putB b i u v).begun = s.begun := rfl
@[simp] theorem putB_commits (b i u v : Nat) : (s.putB b i u v).commits = s.commits := rfl
@[simp] theorem putB_mgl (b i u v : Nat) : (s.putB b i u v).mgl = s.mgl := rfl
@[simp] theorem putB_firm (b i u v : Nat) : (s.putB b i u v).firm = s.firm := rfl
@[simp] theorem putB_power (b i u v : Nat) : (s.putB b i u v).power = s.power := rfl
@[simp] theorem putB_dbg (b i u v : Nat) : (s.putB b i u v).dbg = s.dbg := rfl
@[simp] theorem putB_ldpcEpoch (b i u v : Nat) : (s.putB b i u v).ldpcEpoch = s.ldpcEpoch := rfl
@[simp] theorem putB_xspiErrors (b i u v : Nat) : (s.putB b i u v).xspiErrors = s.xspiErrors := rfl
@[simp] theorem putB_fhFails (b i u v : Nat) : (s.putB b i u v).fhFails = s.fhFails := rfl
@[simp] theorem putB_past (b i u v : Nat) : (s.putB b i u v).past = s.past := rfl

/-! ### putBlob -/

@[simp] theorem putBlob_pending (i u : Nat) (l : List Byte) : (s.putBlob i u l).pending = s.pending := rfl
@[simp] theorem putBlob_out (i u : Nat) (l : List Byte) : (s.putBlob i u l).out = s.out := rfl
@[simp] theorem putBlob_freeCtr (i u : Nat) (l : List Byte) : (s.putBlob i u l).freeCtr = s.freeCtr := rfl
@[simp] theorem putBlob_clock (i u : Nat) (l : List Byte) : (s.putBlob i u l).clock = s.clock := rfl
@[simp] theorem putBlob_auditAir (i u : Nat) (l : List Byte) : (s.putBlob i u l).auditAir = s.auditAir := rfl
@[simp] theorem putBlob_mem (i u : Nat) (l : List Byte) : (s.putBlob i u l).mem = s.mem := rfl
@[simp] theorem putBlob_tags (i u : Nat) (l : List Byte) : (s.putBlob i u l).tags = s.tags := rfl
@[simp] theorem putBlob_cores (i u : Nat) (l : List Byte) : (s.putBlob i u l).cores = s.cores := rfl
@[simp] theorem putBlob_tallies (i u : Nat) (l : List Byte) : (s.putBlob i u l).tallies = s.tallies := rfl
@[simp] theorem putBlob_tpools (i u : Nat) (l : List Byte) : (s.putBlob i u l).tpools = s.tpools := rfl
@[simp] theorem putBlob_pools (i u : Nat) (l : List Byte) : (s.putBlob i u l).pools = s.pools := rfl
@[simp] theorem putBlob_queues (i u : Nat) (l : List Byte) : (s.putBlob i u l).queues = s.queues := rfl
@[simp] theorem putBlob_heldBy (i u : Nat) (l : List Byte) : (s.putBlob i u l).heldBy = s.heldBy := rfl
@[simp] theorem putBlob_handleFrom (i u : Nat) (l : List Byte) : (s.putBlob i u l).handleFrom = s.handleFrom := rfl
@[simp] theorem putBlob_credits (i u : Nat) (l : List Byte) : (s.putBlob i u l).credits = s.credits := rfl
@[simp] theorem putBlob_jobs (i u : Nat) (l : List Byte) : (s.putBlob i u l).jobs = s.jobs := rfl
@[simp] theorem putBlob_nextJob (i u : Nat) (l : List Byte) : (s.putBlob i u l).nextJob = s.nextJob := rfl
@[simp] theorem putBlob_swapped (i u : Nat) (l : List Byte) : (s.putBlob i u l).swapped = s.swapped := rfl
@[simp] theorem putBlob_orders (i u : Nat) (l : List Byte) : (s.putBlob i u l).orders = s.orders := rfl
@[simp] theorem putBlob_nextOrder (i u : Nat) (l : List Byte) : (s.putBlob i u l).nextOrder = s.nextOrder := rfl
@[simp] theorem putBlob_coding (i u : Nat) (l : List Byte) : (s.putBlob i u l).coding = s.coding := rfl
@[simp] theorem putBlob_harq (i u : Nat) (l : List Byte) : (s.putBlob i u l).harq = s.harq := rfl
@[simp] theorem putBlob_transforms (i u : Nat) (l : List Byte) : (s.putBlob i u l).transforms = s.transforms := rfl
@[simp] theorem putBlob_lib (i u : Nat) (l : List Byte) : (s.putBlob i u l).lib = s.lib := rfl
@[simp] theorem putBlob_bench (i u : Nat) (l : List Byte) : (s.putBlob i u l).bench = s.bench := rfl
@[simp] theorem putBlob_loads (i u : Nat) (l : List Byte) : (s.putBlob i u l).loads = s.loads := rfl
@[simp] theorem putBlob_funcs (i u : Nat) (l : List Byte) : (s.putBlob i u l).funcs = s.funcs := rfl
@[simp] theorem putBlob_bursts (i u : Nat) (l : List Byte) : (s.putBlob i u l).bursts = s.bursts := rfl
@[simp] theorem putBlob_cplane (i u : Nat) (l : List Byte) : (s.putBlob i u l).cplane = s.cplane := rfl
@[simp] theorem putBlob_ecpriSeq (i u : Nat) (l : List Byte) : (s.putBlob i u l).ecpriSeq = s.ecpriSeq := rfl
@[simp] theorem putBlob_txHeld (i u : Nat) (l : List Byte) : (s.putBlob i u l).txHeld = s.txHeld := rfl
@[simp] theorem putBlob_adaptSlots (i u : Nat) (l : List Byte) : (s.putBlob i u l).adaptSlots = s.adaptSlots := rfl
@[simp] theorem putBlob_adaptUsed (i u : Nat) (l : List Byte) : (s.putBlob i u l).adaptUsed = s.adaptUsed := rfl
@[simp] theorem putBlob_audit (i u : Nat) (l : List Byte) : (s.putBlob i u l).audit = s.audit := rfl
@[simp] theorem putBlob_whistle (i u : Nat) (l : List Byte) : (s.putBlob i u l).whistle = s.whistle := rfl
@[simp] theorem putBlob_replay (i u : Nat) (l : List Byte) : (s.putBlob i u l).replay = s.replay := rfl
@[simp] theorem putBlob_cycles (i u : Nat) (l : List Byte) : (s.putBlob i u l).cycles = s.cycles := rfl
@[simp] theorem putBlob_benchPages (i u : Nat) (l : List Byte) : (s.putBlob i u l).benchPages = s.benchPages := rfl
@[simp] theorem putBlob_fenceQueue (i u : Nat) (l : List Byte) : (s.putBlob i u l).fenceQueue = s.fenceQueue := rfl
@[simp] theorem putBlob_obj (i u : Nat) (l : List Byte) : (s.putBlob i u l).obj = s.obj := rfl
@[simp] theorem putBlob_blob (i u : Nat) (l : List Byte) : (s.putBlob i u l).blob = Tbl.set (blobDefault (okey i u)) s.blob (okey i u) l := rfl
@[simp] theorem putBlob_tbs (i u : Nat) (l : List Byte) : (s.putBlob i u l).tbs = s.tbs := rfl
@[simp] theorem putBlob_pins (i u : Nat) (l : List Byte) : (s.putBlob i u l).pins = s.pins := rfl
@[simp] theorem putBlob_pps (i u : Nat) (l : List Byte) : (s.putBlob i u l).pps = s.pps := rfl
@[simp] theorem putBlob_fences (i u : Nat) (l : List Byte) : (s.putBlob i u l).fences = s.fences := rfl
@[simp] theorem putBlob_rallies (i u : Nat) (l : List Byte) : (s.putBlob i u l).rallies = s.rallies := rfl
@[simp] theorem putBlob_svc (i u : Nat) (l : List Byte) : (s.putBlob i u l).svc = s.svc := rfl
@[simp] theorem putBlob_coresStopped (i u : Nat) (l : List Byte) : (s.putBlob i u l).coresStopped = s.coresStopped := rfl
@[simp] theorem putBlob_pwrm (i u : Nat) (l : List Byte) : (s.putBlob i u l).pwrm = s.pwrm := rfl
@[simp] theorem putBlob_therm (i u : Nat) (l : List Byte) : (s.putBlob i u l).therm = s.therm := rfl
@[simp] theorem putBlob_fixedBreach (i u : Nat) (l : List Byte) : (s.putBlob i u l).fixedBreach = s.fixedBreach := rfl
@[simp] theorem putBlob_chip (i u : Nat) (l : List Byte) : (s.putBlob i u l).chip = s.chip := rfl
@[simp] theorem putBlob_chans (i u : Nat) (l : List Byte) : (s.putBlob i u l).chans = s.chans := rfl
@[simp] theorem putBlob_waits (i u : Nat) (l : List Byte) : (s.putBlob i u l).waits = s.waits := rfl
@[simp] theorem putBlob_queued (i u : Nat) (l : List Byte) : (s.putBlob i u l).queued = s.queued := rfl
@[simp] theorem putBlob_mgmtIp (i u : Nat) (l : List Byte) : (s.putBlob i u l).mgmtIp = s.mgmtIp := rfl
@[simp] theorem putBlob_begun (i u : Nat) (l : List Byte) : (s.putBlob i u l).begun = s.begun := rfl
@[simp] theorem putBlob_commits (i u : Nat) (l : List Byte) : (s.putBlob i u l).commits = s.commits := rfl
@[simp] theorem putBlob_mgl (i u : Nat) (l : List Byte) : (s.putBlob i u l).mgl = s.mgl := rfl
@[simp] theorem putBlob_firm (i u : Nat) (l : List Byte) : (s.putBlob i u l).firm = s.firm := rfl
@[simp] theorem putBlob_power (i u : Nat) (l : List Byte) : (s.putBlob i u l).power = s.power := rfl
@[simp] theorem putBlob_dbg (i u : Nat) (l : List Byte) : (s.putBlob i u l).dbg = s.dbg := rfl
@[simp] theorem putBlob_ldpcEpoch (i u : Nat) (l : List Byte) : (s.putBlob i u l).ldpcEpoch = s.ldpcEpoch := rfl
@[simp] theorem putBlob_xspiErrors (i u : Nat) (l : List Byte) : (s.putBlob i u l).xspiErrors = s.xspiErrors := rfl
@[simp] theorem putBlob_fhFails (i u : Nat) (l : List Byte) : (s.putBlob i u l).fhFails = s.fhFails := rfl
@[simp] theorem putBlob_past (i u : Nat) (l : List Byte) : (s.putBlob i u l).past = s.past := rfl

/-! ### store -/

@[simp] theorem store_pending (n a x : Nat) : (s.store n a x).pending = s.pending := rfl
@[simp] theorem store_out (n a x : Nat) : (s.store n a x).out = s.out := rfl
@[simp] theorem store_freeCtr (n a x : Nat) : (s.store n a x).freeCtr = s.freeCtr := rfl
@[simp] theorem store_clock (n a x : Nat) : (s.store n a x).clock = s.clock := rfl
@[simp] theorem store_auditAir (n a x : Nat) : (s.store n a x).auditAir = s.auditAir := rfl
@[simp] theorem store_mem (n a x : Nat) : (s.store n a x).mem = memPutNat s.mem n a x := rfl
@[simp] theorem store_cores (n a x : Nat) : (s.store n a x).cores = s.cores := rfl
@[simp] theorem store_tallies (n a x : Nat) : (s.store n a x).tallies = s.tallies := rfl
@[simp] theorem store_tpools (n a x : Nat) : (s.store n a x).tpools = s.tpools := rfl
@[simp] theorem store_pools (n a x : Nat) : (s.store n a x).pools = s.pools := rfl
@[simp] theorem store_queues (n a x : Nat) : (s.store n a x).queues = s.queues := rfl
@[simp] theorem store_heldBy (n a x : Nat) : (s.store n a x).heldBy = s.heldBy := rfl
@[simp] theorem store_handleFrom (n a x : Nat) : (s.store n a x).handleFrom = s.handleFrom := rfl
@[simp] theorem store_credits (n a x : Nat) : (s.store n a x).credits = s.credits := rfl
@[simp] theorem store_jobs (n a x : Nat) : (s.store n a x).jobs = s.jobs := rfl
@[simp] theorem store_nextJob (n a x : Nat) : (s.store n a x).nextJob = s.nextJob := rfl
@[simp] theorem store_swapped (n a x : Nat) : (s.store n a x).swapped = s.swapped := rfl
@[simp] theorem store_orders (n a x : Nat) : (s.store n a x).orders = s.orders := rfl
@[simp] theorem store_nextOrder (n a x : Nat) : (s.store n a x).nextOrder = s.nextOrder := rfl
@[simp] theorem store_coding (n a x : Nat) : (s.store n a x).coding = s.coding := rfl
@[simp] theorem store_harq (n a x : Nat) : (s.store n a x).harq = s.harq := rfl
@[simp] theorem store_transforms (n a x : Nat) : (s.store n a x).transforms = s.transforms := rfl
@[simp] theorem store_lib (n a x : Nat) : (s.store n a x).lib = s.lib := rfl
@[simp] theorem store_bench (n a x : Nat) : (s.store n a x).bench = s.bench := rfl
@[simp] theorem store_loads (n a x : Nat) : (s.store n a x).loads = s.loads := rfl
@[simp] theorem store_funcs (n a x : Nat) : (s.store n a x).funcs = s.funcs := rfl
@[simp] theorem store_bursts (n a x : Nat) : (s.store n a x).bursts = s.bursts := rfl
@[simp] theorem store_cplane (n a x : Nat) : (s.store n a x).cplane = s.cplane := rfl
@[simp] theorem store_ecpriSeq (n a x : Nat) : (s.store n a x).ecpriSeq = s.ecpriSeq := rfl
@[simp] theorem store_txHeld (n a x : Nat) : (s.store n a x).txHeld = s.txHeld := rfl
@[simp] theorem store_adaptSlots (n a x : Nat) : (s.store n a x).adaptSlots = s.adaptSlots := rfl
@[simp] theorem store_adaptUsed (n a x : Nat) : (s.store n a x).adaptUsed = s.adaptUsed := rfl
@[simp] theorem store_audit (n a x : Nat) : (s.store n a x).audit = s.audit := rfl
@[simp] theorem store_whistle (n a x : Nat) : (s.store n a x).whistle = s.whistle := rfl
@[simp] theorem store_replay (n a x : Nat) : (s.store n a x).replay = s.replay := rfl
@[simp] theorem store_cycles (n a x : Nat) : (s.store n a x).cycles = s.cycles := rfl
@[simp] theorem store_benchPages (n a x : Nat) : (s.store n a x).benchPages = s.benchPages := rfl
@[simp] theorem store_fenceQueue (n a x : Nat) : (s.store n a x).fenceQueue = s.fenceQueue := rfl
@[simp] theorem store_obj (n a x : Nat) : (s.store n a x).obj = s.obj := rfl
@[simp] theorem store_blob (n a x : Nat) : (s.store n a x).blob = s.blob := rfl
@[simp] theorem store_tbs (n a x : Nat) : (s.store n a x).tbs = s.tbs := rfl
@[simp] theorem store_pins (n a x : Nat) : (s.store n a x).pins = s.pins := rfl
@[simp] theorem store_pps (n a x : Nat) : (s.store n a x).pps = s.pps := rfl
@[simp] theorem store_fences (n a x : Nat) : (s.store n a x).fences = s.fences := rfl
@[simp] theorem store_rallies (n a x : Nat) : (s.store n a x).rallies = s.rallies := rfl
@[simp] theorem store_svc (n a x : Nat) : (s.store n a x).svc = s.svc := rfl
@[simp] theorem store_coresStopped (n a x : Nat) : (s.store n a x).coresStopped = s.coresStopped := rfl
@[simp] theorem store_pwrm (n a x : Nat) : (s.store n a x).pwrm = s.pwrm := rfl
@[simp] theorem store_therm (n a x : Nat) : (s.store n a x).therm = s.therm := rfl
@[simp] theorem store_fixedBreach (n a x : Nat) : (s.store n a x).fixedBreach = s.fixedBreach := rfl
@[simp] theorem store_chip (n a x : Nat) : (s.store n a x).chip = s.chip := rfl
@[simp] theorem store_chans (n a x : Nat) : (s.store n a x).chans = s.chans := rfl
@[simp] theorem store_waits (n a x : Nat) : (s.store n a x).waits = s.waits := rfl
@[simp] theorem store_queued (n a x : Nat) : (s.store n a x).queued = s.queued := rfl
@[simp] theorem store_mgmtIp (n a x : Nat) : (s.store n a x).mgmtIp = s.mgmtIp := rfl
@[simp] theorem store_begun (n a x : Nat) : (s.store n a x).begun = s.begun := rfl
@[simp] theorem store_commits (n a x : Nat) : (s.store n a x).commits = s.commits := rfl
@[simp] theorem store_mgl (n a x : Nat) : (s.store n a x).mgl = s.mgl := rfl
@[simp] theorem store_firm (n a x : Nat) : (s.store n a x).firm = s.firm := rfl
@[simp] theorem store_power (n a x : Nat) : (s.store n a x).power = s.power := rfl
@[simp] theorem store_dbg (n a x : Nat) : (s.store n a x).dbg = s.dbg := rfl
@[simp] theorem store_ldpcEpoch (n a x : Nat) : (s.store n a x).ldpcEpoch = s.ldpcEpoch := rfl
@[simp] theorem store_xspiErrors (n a x : Nat) : (s.store n a x).xspiErrors = s.xspiErrors := rfl
@[simp] theorem store_fhFails (n a x : Nat) : (s.store n a x).fhFails = s.fhFails := rfl
@[simp] theorem store_past (n a x : Nat) : (s.store n a x).past = s.past := rfl

/-! ### storeMask -/

@[simp] theorem storeMask_pending (n a x k : Nat) : (s.storeMask n a x k).pending = s.pending := rfl
@[simp] theorem storeMask_out (n a x k : Nat) : (s.storeMask n a x k).out = s.out := rfl
@[simp] theorem storeMask_freeCtr (n a x k : Nat) : (s.storeMask n a x k).freeCtr = s.freeCtr := rfl
@[simp] theorem storeMask_clock (n a x k : Nat) : (s.storeMask n a x k).clock = s.clock := rfl
@[simp] theorem storeMask_auditAir (n a x k : Nat) : (s.storeMask n a x k).auditAir = s.auditAir := rfl
@[simp] theorem storeMask_mem (n a x k : Nat) : (s.storeMask n a x k).mem = memPutMask s.mem n a x k := rfl
@[simp] theorem storeMask_cores (n a x k : Nat) : (s.storeMask n a x k).cores = s.cores := rfl
@[simp] theorem storeMask_tallies (n a x k : Nat) : (s.storeMask n a x k).tallies = s.tallies := rfl
@[simp] theorem storeMask_tpools (n a x k : Nat) : (s.storeMask n a x k).tpools = s.tpools := rfl
@[simp] theorem storeMask_pools (n a x k : Nat) : (s.storeMask n a x k).pools = s.pools := rfl
@[simp] theorem storeMask_queues (n a x k : Nat) : (s.storeMask n a x k).queues = s.queues := rfl
@[simp] theorem storeMask_heldBy (n a x k : Nat) : (s.storeMask n a x k).heldBy = s.heldBy := rfl
@[simp] theorem storeMask_handleFrom (n a x k : Nat) : (s.storeMask n a x k).handleFrom = s.handleFrom := rfl
@[simp] theorem storeMask_credits (n a x k : Nat) : (s.storeMask n a x k).credits = s.credits := rfl
@[simp] theorem storeMask_jobs (n a x k : Nat) : (s.storeMask n a x k).jobs = s.jobs := rfl
@[simp] theorem storeMask_nextJob (n a x k : Nat) : (s.storeMask n a x k).nextJob = s.nextJob := rfl
@[simp] theorem storeMask_swapped (n a x k : Nat) : (s.storeMask n a x k).swapped = s.swapped := rfl
@[simp] theorem storeMask_orders (n a x k : Nat) : (s.storeMask n a x k).orders = s.orders := rfl
@[simp] theorem storeMask_nextOrder (n a x k : Nat) : (s.storeMask n a x k).nextOrder = s.nextOrder := rfl
@[simp] theorem storeMask_coding (n a x k : Nat) : (s.storeMask n a x k).coding = s.coding := rfl
@[simp] theorem storeMask_harq (n a x k : Nat) : (s.storeMask n a x k).harq = s.harq := rfl
@[simp] theorem storeMask_transforms (n a x k : Nat) : (s.storeMask n a x k).transforms = s.transforms := rfl
@[simp] theorem storeMask_lib (n a x k : Nat) : (s.storeMask n a x k).lib = s.lib := rfl
@[simp] theorem storeMask_bench (n a x k : Nat) : (s.storeMask n a x k).bench = s.bench := rfl
@[simp] theorem storeMask_loads (n a x k : Nat) : (s.storeMask n a x k).loads = s.loads := rfl
@[simp] theorem storeMask_funcs (n a x k : Nat) : (s.storeMask n a x k).funcs = s.funcs := rfl
@[simp] theorem storeMask_bursts (n a x k : Nat) : (s.storeMask n a x k).bursts = s.bursts := rfl
@[simp] theorem storeMask_cplane (n a x k : Nat) : (s.storeMask n a x k).cplane = s.cplane := rfl
@[simp] theorem storeMask_ecpriSeq (n a x k : Nat) : (s.storeMask n a x k).ecpriSeq = s.ecpriSeq := rfl
@[simp] theorem storeMask_txHeld (n a x k : Nat) : (s.storeMask n a x k).txHeld = s.txHeld := rfl
@[simp] theorem storeMask_adaptSlots (n a x k : Nat) : (s.storeMask n a x k).adaptSlots = s.adaptSlots := rfl
@[simp] theorem storeMask_adaptUsed (n a x k : Nat) : (s.storeMask n a x k).adaptUsed = s.adaptUsed := rfl
@[simp] theorem storeMask_audit (n a x k : Nat) : (s.storeMask n a x k).audit = s.audit := rfl
@[simp] theorem storeMask_whistle (n a x k : Nat) : (s.storeMask n a x k).whistle = s.whistle := rfl
@[simp] theorem storeMask_replay (n a x k : Nat) : (s.storeMask n a x k).replay = s.replay := rfl
@[simp] theorem storeMask_cycles (n a x k : Nat) : (s.storeMask n a x k).cycles = s.cycles := rfl
@[simp] theorem storeMask_benchPages (n a x k : Nat) : (s.storeMask n a x k).benchPages = s.benchPages := rfl
@[simp] theorem storeMask_fenceQueue (n a x k : Nat) : (s.storeMask n a x k).fenceQueue = s.fenceQueue := rfl
@[simp] theorem storeMask_obj (n a x k : Nat) : (s.storeMask n a x k).obj = s.obj := rfl
@[simp] theorem storeMask_blob (n a x k : Nat) : (s.storeMask n a x k).blob = s.blob := rfl
@[simp] theorem storeMask_tbs (n a x k : Nat) : (s.storeMask n a x k).tbs = s.tbs := rfl
@[simp] theorem storeMask_pins (n a x k : Nat) : (s.storeMask n a x k).pins = s.pins := rfl
@[simp] theorem storeMask_pps (n a x k : Nat) : (s.storeMask n a x k).pps = s.pps := rfl
@[simp] theorem storeMask_fences (n a x k : Nat) : (s.storeMask n a x k).fences = s.fences := rfl
@[simp] theorem storeMask_rallies (n a x k : Nat) : (s.storeMask n a x k).rallies = s.rallies := rfl
@[simp] theorem storeMask_svc (n a x k : Nat) : (s.storeMask n a x k).svc = s.svc := rfl
@[simp] theorem storeMask_coresStopped (n a x k : Nat) : (s.storeMask n a x k).coresStopped = s.coresStopped := rfl
@[simp] theorem storeMask_pwrm (n a x k : Nat) : (s.storeMask n a x k).pwrm = s.pwrm := rfl
@[simp] theorem storeMask_therm (n a x k : Nat) : (s.storeMask n a x k).therm = s.therm := rfl
@[simp] theorem storeMask_fixedBreach (n a x k : Nat) : (s.storeMask n a x k).fixedBreach = s.fixedBreach := rfl
@[simp] theorem storeMask_chip (n a x k : Nat) : (s.storeMask n a x k).chip = s.chip := rfl
@[simp] theorem storeMask_chans (n a x k : Nat) : (s.storeMask n a x k).chans = s.chans := rfl
@[simp] theorem storeMask_waits (n a x k : Nat) : (s.storeMask n a x k).waits = s.waits := rfl
@[simp] theorem storeMask_queued (n a x k : Nat) : (s.storeMask n a x k).queued = s.queued := rfl
@[simp] theorem storeMask_mgmtIp (n a x k : Nat) : (s.storeMask n a x k).mgmtIp = s.mgmtIp := rfl
@[simp] theorem storeMask_begun (n a x k : Nat) : (s.storeMask n a x k).begun = s.begun := rfl
@[simp] theorem storeMask_commits (n a x k : Nat) : (s.storeMask n a x k).commits = s.commits := rfl
@[simp] theorem storeMask_mgl (n a x k : Nat) : (s.storeMask n a x k).mgl = s.mgl := rfl
@[simp] theorem storeMask_firm (n a x k : Nat) : (s.storeMask n a x k).firm = s.firm := rfl
@[simp] theorem storeMask_power (n a x k : Nat) : (s.storeMask n a x k).power = s.power := rfl
@[simp] theorem storeMask_dbg (n a x k : Nat) : (s.storeMask n a x k).dbg = s.dbg := rfl
@[simp] theorem storeMask_ldpcEpoch (n a x k : Nat) : (s.storeMask n a x k).ldpcEpoch = s.ldpcEpoch := rfl
@[simp] theorem storeMask_xspiErrors (n a x k : Nat) : (s.storeMask n a x k).xspiErrors = s.xspiErrors := rfl
@[simp] theorem storeMask_fhFails (n a x k : Nat) : (s.storeMask n a x k).fhFails = s.fhFails := rfl
@[simp] theorem storeMask_past (n a x k : Nat) : (s.storeMask n a x k).past = s.past := rfl

/-! ### storeBytes -/

@[simp] theorem storeBytes_pending (a : Nat) (l : List Byte) : (s.storeBytes a l).pending = s.pending := rfl
@[simp] theorem storeBytes_out (a : Nat) (l : List Byte) : (s.storeBytes a l).out = s.out := rfl
@[simp] theorem storeBytes_freeCtr (a : Nat) (l : List Byte) : (s.storeBytes a l).freeCtr = s.freeCtr := rfl
@[simp] theorem storeBytes_clock (a : Nat) (l : List Byte) : (s.storeBytes a l).clock = s.clock := rfl
@[simp] theorem storeBytes_auditAir (a : Nat) (l : List Byte) : (s.storeBytes a l).auditAir = s.auditAir := rfl
@[simp] theorem storeBytes_mem (a : Nat) (l : List Byte) : (s.storeBytes a l).mem = memPutBytes s.mem a l := rfl
@[simp] theorem storeBytes_cores (a : Nat) (l : List Byte) : (s.storeBytes a l).cores = s.cores := rfl
@[simp] theorem storeBytes_tallies (a : Nat) (l : List Byte) : (s.storeBytes a l).tallies = s.tallies := rfl
@[simp] theorem storeBytes_tpools (a : Nat) (l : List Byte) : (s.storeBytes a l).tpools = s.tpools := rfl
@[simp] theorem storeBytes_pools (a : Nat) (l : List Byte) : (s.storeBytes a l).pools = s.pools := rfl
@[simp] theorem storeBytes_queues (a : Nat) (l : List Byte) : (s.storeBytes a l).queues = s.queues := rfl
@[simp] theorem storeBytes_heldBy (a : Nat) (l : List Byte) : (s.storeBytes a l).heldBy = s.heldBy := rfl
@[simp] theorem storeBytes_handleFrom (a : Nat) (l : List Byte) : (s.storeBytes a l).handleFrom = s.handleFrom := rfl
@[simp] theorem storeBytes_credits (a : Nat) (l : List Byte) : (s.storeBytes a l).credits = s.credits := rfl
@[simp] theorem storeBytes_jobs (a : Nat) (l : List Byte) : (s.storeBytes a l).jobs = s.jobs := rfl
@[simp] theorem storeBytes_nextJob (a : Nat) (l : List Byte) : (s.storeBytes a l).nextJob = s.nextJob := rfl
@[simp] theorem storeBytes_swapped (a : Nat) (l : List Byte) : (s.storeBytes a l).swapped = s.swapped := rfl
@[simp] theorem storeBytes_orders (a : Nat) (l : List Byte) : (s.storeBytes a l).orders = s.orders := rfl
@[simp] theorem storeBytes_nextOrder (a : Nat) (l : List Byte) : (s.storeBytes a l).nextOrder = s.nextOrder := rfl
@[simp] theorem storeBytes_coding (a : Nat) (l : List Byte) : (s.storeBytes a l).coding = s.coding := rfl
@[simp] theorem storeBytes_harq (a : Nat) (l : List Byte) : (s.storeBytes a l).harq = s.harq := rfl
@[simp] theorem storeBytes_transforms (a : Nat) (l : List Byte) : (s.storeBytes a l).transforms = s.transforms := rfl
@[simp] theorem storeBytes_lib (a : Nat) (l : List Byte) : (s.storeBytes a l).lib = s.lib := rfl
@[simp] theorem storeBytes_bench (a : Nat) (l : List Byte) : (s.storeBytes a l).bench = s.bench := rfl
@[simp] theorem storeBytes_loads (a : Nat) (l : List Byte) : (s.storeBytes a l).loads = s.loads := rfl
@[simp] theorem storeBytes_funcs (a : Nat) (l : List Byte) : (s.storeBytes a l).funcs = s.funcs := rfl
@[simp] theorem storeBytes_bursts (a : Nat) (l : List Byte) : (s.storeBytes a l).bursts = s.bursts := rfl
@[simp] theorem storeBytes_cplane (a : Nat) (l : List Byte) : (s.storeBytes a l).cplane = s.cplane := rfl
@[simp] theorem storeBytes_ecpriSeq (a : Nat) (l : List Byte) : (s.storeBytes a l).ecpriSeq = s.ecpriSeq := rfl
@[simp] theorem storeBytes_txHeld (a : Nat) (l : List Byte) : (s.storeBytes a l).txHeld = s.txHeld := rfl
@[simp] theorem storeBytes_adaptSlots (a : Nat) (l : List Byte) : (s.storeBytes a l).adaptSlots = s.adaptSlots := rfl
@[simp] theorem storeBytes_adaptUsed (a : Nat) (l : List Byte) : (s.storeBytes a l).adaptUsed = s.adaptUsed := rfl
@[simp] theorem storeBytes_audit (a : Nat) (l : List Byte) : (s.storeBytes a l).audit = s.audit := rfl
@[simp] theorem storeBytes_whistle (a : Nat) (l : List Byte) : (s.storeBytes a l).whistle = s.whistle := rfl
@[simp] theorem storeBytes_replay (a : Nat) (l : List Byte) : (s.storeBytes a l).replay = s.replay := rfl
@[simp] theorem storeBytes_cycles (a : Nat) (l : List Byte) : (s.storeBytes a l).cycles = s.cycles := rfl
@[simp] theorem storeBytes_benchPages (a : Nat) (l : List Byte) : (s.storeBytes a l).benchPages = s.benchPages := rfl
@[simp] theorem storeBytes_fenceQueue (a : Nat) (l : List Byte) : (s.storeBytes a l).fenceQueue = s.fenceQueue := rfl
@[simp] theorem storeBytes_obj (a : Nat) (l : List Byte) : (s.storeBytes a l).obj = s.obj := rfl
@[simp] theorem storeBytes_blob (a : Nat) (l : List Byte) : (s.storeBytes a l).blob = s.blob := rfl
@[simp] theorem storeBytes_tbs (a : Nat) (l : List Byte) : (s.storeBytes a l).tbs = s.tbs := rfl
@[simp] theorem storeBytes_pins (a : Nat) (l : List Byte) : (s.storeBytes a l).pins = s.pins := rfl
@[simp] theorem storeBytes_pps (a : Nat) (l : List Byte) : (s.storeBytes a l).pps = s.pps := rfl
@[simp] theorem storeBytes_fences (a : Nat) (l : List Byte) : (s.storeBytes a l).fences = s.fences := rfl
@[simp] theorem storeBytes_rallies (a : Nat) (l : List Byte) : (s.storeBytes a l).rallies = s.rallies := rfl
@[simp] theorem storeBytes_svc (a : Nat) (l : List Byte) : (s.storeBytes a l).svc = s.svc := rfl
@[simp] theorem storeBytes_coresStopped (a : Nat) (l : List Byte) : (s.storeBytes a l).coresStopped = s.coresStopped := rfl
@[simp] theorem storeBytes_pwrm (a : Nat) (l : List Byte) : (s.storeBytes a l).pwrm = s.pwrm := rfl
@[simp] theorem storeBytes_therm (a : Nat) (l : List Byte) : (s.storeBytes a l).therm = s.therm := rfl
@[simp] theorem storeBytes_fixedBreach (a : Nat) (l : List Byte) : (s.storeBytes a l).fixedBreach = s.fixedBreach := rfl
@[simp] theorem storeBytes_chip (a : Nat) (l : List Byte) : (s.storeBytes a l).chip = s.chip := rfl
@[simp] theorem storeBytes_chans (a : Nat) (l : List Byte) : (s.storeBytes a l).chans = s.chans := rfl
@[simp] theorem storeBytes_waits (a : Nat) (l : List Byte) : (s.storeBytes a l).waits = s.waits := rfl
@[simp] theorem storeBytes_queued (a : Nat) (l : List Byte) : (s.storeBytes a l).queued = s.queued := rfl
@[simp] theorem storeBytes_mgmtIp (a : Nat) (l : List Byte) : (s.storeBytes a l).mgmtIp = s.mgmtIp := rfl
@[simp] theorem storeBytes_begun (a : Nat) (l : List Byte) : (s.storeBytes a l).begun = s.begun := rfl
@[simp] theorem storeBytes_commits (a : Nat) (l : List Byte) : (s.storeBytes a l).commits = s.commits := rfl
@[simp] theorem storeBytes_mgl (a : Nat) (l : List Byte) : (s.storeBytes a l).mgl = s.mgl := rfl
@[simp] theorem storeBytes_firm (a : Nat) (l : List Byte) : (s.storeBytes a l).firm = s.firm := rfl
@[simp] theorem storeBytes_power (a : Nat) (l : List Byte) : (s.storeBytes a l).power = s.power := rfl
@[simp] theorem storeBytes_dbg (a : Nat) (l : List Byte) : (s.storeBytes a l).dbg = s.dbg := rfl
@[simp] theorem storeBytes_ldpcEpoch (a : Nat) (l : List Byte) : (s.storeBytes a l).ldpcEpoch = s.ldpcEpoch := rfl
@[simp] theorem storeBytes_xspiErrors (a : Nat) (l : List Byte) : (s.storeBytes a l).xspiErrors = s.xspiErrors := rfl
@[simp] theorem storeBytes_fhFails (a : Nat) (l : List Byte) : (s.storeBytes a l).fhFails = s.fhFails := rfl
@[simp] theorem storeBytes_past (a : Nat) (l : List Byte) : (s.storeBytes a l).past = s.past := rfl

end Sys2Proof.Machine
end

