-- ==== Sys2Proof/Laws/Issue.lean ====
section
/-! SUPPORT. Cores after an update, what a count of an event leaves alone, and the issue of a bundle of one syllable. -/

namespace Sys2Proof.Machine

open Sys2Proof

@[simp] theorem core_setCore (s : State) (n m : Nat) (c : Core) : (s.setCore n c).core m = if m = n then c else s.core m := by
  by_cases h : m = n
  · subst h
    simp [State.core]
  · simp [State.core, h, Tbl.get_set_other _ _ _ _ _ _ h]

@[simp] theorem core_updCore (s : State) (n m : Nat) (f : Core → Core) :
    (s.updCore n f).core m = if m = n then f (s.core n) else s.core m := by
  simp [State.updCore]

@[simp] theorem core_put (s : State) (i u v m : Nat) : (s.put i u v).core m = s.core m := rfl

@[simp] theorem setCore_setCore (s : State) (n : Nat) (c d : Core) : (s.setCore n c).setCore n d = s.setCore n d := by
  simp [State.setCore]

/-- A fold whose step keeps a projection keeps it. -/
theorem foldl_keeps {α β γ : Type} (f : β → α → β) (p : β → γ) (h : ∀ b a, p (f b a) = p b) (l : List α) (b : β) : p (l.foldl f b) = p b := by
  induction l generalizing b with
  | nil => rfl
  | cons a r ih => rw [List.foldl_cons, ih, h]

/-- Counting an event changes the dictionary alone. -/
theorem countCore_keeps {γ : Type} (p : State → γ) (h : ∀ s i u v, p (State.put s i u v) = p s) (s : State) (n k a : Nat) :
    p (s.countCore n k a) = p s := by
  unfold State.countCore
  exact foldl_keeps _ p (fun b e => h _ _ _ _) _ _

@[simp] theorem countCore_core (s : State) (n k a m : Nat) : (s.countCore n k a).core m = s.core m :=
  countCore_keeps (fun t => t.core m) (fun _ _ _ _ => rfl) s n k a

theorem foldl_inv {α β : Type} (f : β → α → β) (P : β → Prop) (h : ∀ b a, P b → P (f b a)) (l : List α) (b : β) (hb : P b) : P (l.foldl f b) := by
  induction l generalizing b with
  | nil => exact hb
  | cons a r ih => exact ih _ (h _ _ hb)

theorem countCore_eq (s : State) (n k a : Nat) : ∃ o, s.countCore n k a = { s with obj := o } := by
  unfold State.countCore
  refine foldl_inv _ (fun t => ∃ o, t = { s with obj := o }) ?_ _ _ ⟨s.obj, rfl⟩
  rintro b e ⟨o, rfl⟩
  exact ⟨_, rfl⟩

theorem fetchOk_congr (c d : Core) (n l : Nat) (h : c.pc = d.pc) (h1 : c.jobMode = d.jobMode) (h2 : c.curCtx = d.curCtx) :
    c.fetchOk n l = d.fetchOk n l := by
  simp [Core.fetchOk, h, h1, h2]

theorem jobStart_started (s : State) (n : Nat) (h : (s.core n).jobMode = true → (s.core n).curCtx.started = true) : s.jobStart n = s := by
  unfold State.jobStart
  simp only
  split
  · rename_i hc
    exact absurd (h hc.1) (by simp [hc.2])
  · rfl

/-- The core in which the one syllable of a bundle acts. -/
def Core.ready (c : Core) (y : Syl) : Core := { c with bundle := [y], run := {}, bubble := 0, held := false, heldCycles := 0 }

/-- Only TWAIT, TACQ and VMRD hold a bundle (R62). -/
theorem sylHolds_false (s : State) (n : Nat) (y : Syl) (h : y.op ≠ .twait) (h1 : y.op ≠ .tacq) (h2 : y.op ≠ .vmrd) : sylHolds s n y = false := by
  unfold sylHolds
  simp only
  split <;> rfl

theorem takesSyl_held (s : State) (n : Nat) (h : s.takesSyl n = true) : (s.core n).held = false := by
  simp [State.takesSyl] at h
  exact h.1.2

/-- The state in which a bundle of one syllable is looked at for a hold. -/
def State.looked (s : State) (op : CoreOp) (is : Issue) : State :=
  s.setCore is.core.val { s.core is.core.val with bundle := [⟨op, is.slot.val, is.body, is.ecc⟩], bubble := 0, run := {} }

/-- A staged bundle that neither faults nor holds: its syllables act in slot order and it finishes. -/
theorem issueBundle_go (s v : State) (n : Nat) (hb : (s.core n).bubble = 0)
    (hv : (s.updCore n fun c => { c with bubble := 0, run := { mark := c.run.mark } }) = v)
    (hd : (v.core n).run.dead = false) (hf : (v.core n).fetchOk n (v.core n).bundleLen = true)
    (hc : vtsetClash (v.core n).bundle = false) (hh : ((v.core n).bundle.any fun y => sylHolds v n y) = false) :
    s.issueBundle n =
      (((v.core n).bundle.foldl (fun s y => s.runSyl n y)
        (((if (v.core n).jobMode then v.countCore n 2 1 else v).jobStart n |>.markBundle n).updCore n
          fun c => { c with held := false, heldCycles := 0 })).finishBundle n) := by
  unfold State.issueBundle
  simp only [hb, State.coreCycles, hv, hd, hf, hc, hh, Bool.false_eq_true, if_false, not_true_eq_false]

theorem markBundle_off (s : State) (n : Nat) (h : (s.core n).run.mark = false) : s.markBundle n = s := by
  simp [State.markBundle, h]

theorem opInSlot_lt (op : CoreOp) (k : Nat) (h : opInSlot op k = true) : k < 7 := by
  by_contra hk
  have e : slotOps k = [] := by
    unfold slotOps
    split <;> first
      | omega
      | rfl
  rcases (by simpa [opInSlot, e] using h : op = .nop ∧ k < 7) with ⟨-, q⟩
  exact hk q

/-- A bundle of one syllable that does not hold: the syllable acts in a state that differs from the present one by event counters and the
bundle, and the bundle finishes. -/
theorem stage_alone (s : State) (op : CoreOp) (is : Issue) (h : s.Alone op is)
    (hold : sylHolds (s.looked op is) is.core.val ⟨op, is.slot.val, is.body, is.ecc⟩ = false) :
    ∃ u : State, s.stage op is = (u.runSyl is.core.val ⟨op, is.slot.val, is.body, is.ecc⟩).finishBundle is.core.val
      ∧ (∃ o k, u = { s with obj := o, cores := k })
      ∧ u.core is.core.val = (s.core is.core.val).ready ⟨op, is.slot.val, is.body, is.ecc⟩
      ∧ ∀ m, m ≠ is.core.val → u.core m = s.core m := by
  obtain ⟨n, slot, last, body, ecc⟩ := is
  have hl := h.last
  have hb := h.bundle
  have hr := h.run
  have hu := h.bubble
  have hf := h.fetch
  have hs := h.started
  have hsl := opInSlot_lt _ _ h.slot
  have hvt : ¬ (op = .vtset ∧ slot.val = 2) := by
    rintro ⟨rfl, e⟩
    have := h.slot
    simp [e, opInSlot, slotOps] at this
  have ht := h.takes
  simp only at hl hb hr hu hf hs hsl ht hold
  have e1 : s.stage op ⟨n, slot, last, body, ecc⟩ =
      (s.setCore n.val { s.core n.val with bundle := [⟨op, slot.val, body, ecc⟩] }).issueBundle n.val := by
    have hw : ({ s.core n.val with bundle := [⟨op, slot.val, body, ecc⟩] } : Core).whole = true := by
      rcases hr with e | e
      · simp [Core.whole, e]
      · simp only [Core.whole, e, Nat.testBit_two_pow, List.all_eq_true, List.any_cons, List.any_nil, Bool.or_false, beq_iff_eq]
        exact fun i _ => rfl
    have hm : (s.core n.val).names slot.val = true := by
      rcases hr with e | e <;> simp [Core.names, e]
    simp [State.stage, ht, hl, hb, State.updCore, hw, hm]
  have hv : ((s.setCore n.val { s.core n.val with bundle := [⟨op, slot.val, body, ecc⟩] }).updCore n.val
      fun c => { c with bubble := 0, run := { mark := c.run.mark } }) = s.looked op ⟨n, slot, last, body, ecc⟩ := by
    rcases hr with e | e <;> simp [State.updCore, State.looked, e]
  have hc : (s.looked op ⟨n, slot, last, body, ecc⟩).core n.val =
      { s.core n.val with bundle := [⟨op, slot.val, body, ecc⟩], bubble := 0, run := {} } := by
    simp [State.looked]
  have hlen : ((s.looked op ⟨n, slot, last, body, ecc⟩).core n.val).bundleLen = 16 := by
    simp [hc, Core.bundleLen, hsl]
  rw [e1, issueBundle_go _ _ n.val (by simpa using hu) hv (by simp [hc])
    (by rw [hlen, ← hf, hc]; rfl) (by simpa [hc, vtsetClash] using hvt) (by simpa [hc] using hold)]
  have hj : ∀ v : State, v.core n.val = (s.looked op ⟨n, slot, last, body, ecc⟩).core n.val → (v.jobStart n.val).markBundle n.val = v := by
    intro v e
    rw [jobStart_started v n.val (by rw [e, hc]; exact hs), markBundle_off v n.val (by rw [e, hc])]
  generalize hw : (if ((s.looked op ⟨n, slot, last, body, ecc⟩).core n.val).jobMode = true then
    (s.looked op ⟨n, slot, last, body, ecc⟩).countCore n.val 2 1 else s.looked op ⟨n, slot, last, body, ecc⟩) = w
  have hwc : ∀ m, w.core m = (s.looked op ⟨n, slot, last, body, ecc⟩).core m := by
    intro m
    subst hw
    split
    · simp
    · rfl
  have hwe : ∃ o k, w = { s with obj := o, cores := k } := by
    subst hw
    split
    · obtain ⟨o, e⟩ := countCore_eq (s.looked op ⟨n, slot, last, body, ecc⟩) n.val 2 1
      exact ⟨o, _, e⟩
    · exact ⟨s.obj, _, rfl⟩
  rw [hj w (hwc n.val)]
  refine ⟨_, by rw [hc]; rfl, ?_, ?_, ?_⟩
  · obtain ⟨o, k, rfl⟩ := hwe
    exact ⟨o, _, rfl⟩
  · simp [hwc, hc, Core.ready]
  · intro m hm
    simp [hwc, hm, State.looked]

/-! ### The end of a bundle that takes no branch and ends no loop level -/

theorem loopNext_none (le ls : Tbl Addr48) (pc next : Addr48) (k : Nat) (lc : Tbl Word32)
    (h : ∀ j < k, Tbl.get 0#32 lc j = 0#32 ∨ Tbl.get 0#48 le j ≠ pc) : loopNext le ls pc next k lc = (lc, next) := by
  induction k with
  | zero => rfl
  | succ k ih =>
    have hk := h k (by omega)
    rw [loopNext, if_neg (by rintro ⟨a, b⟩; rcases hk with e | e <;> simp_all), ih fun j hj => h j (by omega)]

theorem tdLevel_lt (d : BitVec 512) : tdLevel d < 4 := by
  simp only [tdLevel, tdField, bits]
  exact Nat.mod_lt _ (by norm_num)

theorem foldl_same {α β : Type} (f : β → α → β) (l : List α) (b : β) (h : ∀ a ∈ l, f b a = b) : l.foldl f b = b := by
  induction l with
  | nil => rfl
  | cons a r ih => rw [List.foldl_cons, h a (by simp), ih fun x hx => h x (by simp [hx])]

theorem stepWalkers_none (s : State) (n : Nat) (pc : Addr48)
    (h : ∀ k < 4, (s.core n).readLc k = 0#32 ∨ (s.core n).readLe k ≠ pc) : s.stepWalkers n pc = s := by
  unfold State.stepWalkers
  refine foldl_same _ _ _ fun k _ => ?_
  have hk := h (tdLevel ((s.core n).walker k).desc) (tdLevel_lt _)
  simp only
  rw [if_neg]
  rcases hk with e | e <;> simp [e]

/-- Results that land in the cycle that ends a bundle, and those that stay in flight. -/
def Core.due (c : Core) : List Land := c.inflight.filter fun r => decide (r.remain ≤ 1)
def Core.later (c : Core) : List Land :=
  (c.inflight.filter fun r => decide (1 < r.remain)).map fun r => { r with remain := r.remain - 1 }

/-- A core after a cycle, before its due results land. -/
def Core.cycled (c : Core) : Core :=
  let d := { c with cycleNo := c.cycleNo + 1, inflight := c.later, stop := c.stop.map fun q => { q with cycles := q.cycles + 1 } }
  if c.jobMode then d.updCur fun x => { x with cycle := x.cycle + 1 } else d

/-- A cycle in which no two results clash lands those that are due. -/
theorem coreCycle_land (s : State) (n : Nat) (h : anyClash (s.core n).due = false) :
    ∃ o, s.coreCycle n = { s with obj := o }.setCore n ((s.core n).cycled.landAll (s.core n).due) := by
  unfold State.coreCycle
  simp only [Core.due] at h
  simp only [h, Bool.false_eq_true, if_false]
  split
  · rename_i hj
    generalize hcr : List.length (List.filter _ (List.range 4)) = w
    obtain ⟨o, e⟩ := countCore_eq s n 1 1
    rw [e]
    obtain ⟨o', e'⟩ := countCore_eq { s with obj := o } n 0x31 w
    rw [e']
    exact ⟨o', by simp [Core.cycled, Core.later, Core.due, hj]⟩
  · rename_i hj
    exact ⟨s.obj, by simp [Core.cycled, Core.later, Core.due, hj]⟩

/-- The core of a bundle that has issued and goes on to the next bundle. -/
def Core.passed (c : Core) : Core :=
  { c with lastPc := c.pc, pc := c.run.skip.getD (c.pc + BitVec.ofNat 48 c.bundleLen), branched := false, bundle := [], run := {} }

/-- The end of a bundle that took no branch, raised nothing and ends no loop level. -/
theorem finishBundle_plain (s : State) (n : Nat) (hd : (s.core n).run.dead = false) (hu : (s.core n).run.resume = none)
    (he : (s.core n).run.ended = false)
    (ht : (s.core n).run.taken = none) (hl : ∀ k < 4, (s.core n).readLc k = 0#32 ∨ (s.core n).readLe k ≠ (s.core n).pc)
    (hc : anyClash (s.core n).due = false) :
    ∃ o, s.finishBundle n = { s with obj := o }.setCore n ((s.core n).passed.cycled.landAll (s.core n).due) := by
  unfold State.finishBundle
  simp only [hd, hu, he, ht, Option.isSome_none, Bool.false_eq_true, if_false, stepWalkers_none s n _ hl]
  rw [loopNext_none _ _ _ _ 4 _ hl]
  have hdue : ∀ c : Core, c.due = { c with lastPc := c.pc }.due := fun c => rfl
  obtain ⟨o, e⟩ := coreCycle_land (s.updCore n Core.passed) n (by
    simp only [core_updCore, if_true]
    exact hc)
  refine ⟨o, ?_⟩
  simp only [core_updCore, if_true] at e
  refine Eq.trans ?_ (e.trans ?_)
  · rfl
  · simp only [State.updCore]
    exact setCore_setCore { s with obj := o } n _ _

/-! ### A bundle of one syllable that only has results -/

/-- A core after a bundle of one syllable whose results are l, before the cycle that ends it. -/
def Core.after (c : Core) (l : List Land) : Core :=
  { c with
    lastPc := c.pc, pc := c.pc + 16, branched := false, bundle := [], run := {}, bubble := 0, held := false, heldCycles := 0, inflight := l }

/-- A syllable whose operation only adds results in flight: they go into flight, a cycle passes, and those of latency 1 land. -/
theorem acts_land (s : State) (op : CoreOp) (is : Issue) (l : List Land) (h : s.Acts op is)
    (h1 : op ≠ .twait) (h2 : op ≠ .tacq) (h3 : op ≠ .vmrd)
    (hl : ∀ u : State, u.core is.core.val = (s.core is.core.val).ready ⟨op, is.slot.val, is.body, is.ecc⟩ →
      runOp op ⟨is.core.val, is.slot.val, is.body, is.ecc⟩ u = u.updCore is.core.val fun c => { c with inflight := c.inflight ++ l })
    (hc : anyClash (l.filter fun r => decide (r.remain ≤ 1)) = false) :
    (∃ o k, s.stage op is = { s with obj := o, cores := k })
      ∧ (s.stage op is).core is.core.val =
        ((Core.after (s.core is.core.val) l).cycled).landAll (l.filter fun r => decide (r.remain ≤ 1))
      ∧ ∀ m, m ≠ is.core.val → (s.stage op is).core m = s.core m := by
  obtain ⟨u, e, ⟨o, k, hu⟩, hcore, hm⟩ := stage_alone s op is h.toAlone (sylHolds_false _ _ _ h1 h2 h3)
  rw [e]
  have hrun : ∃ o', u.runSyl is.core.val ⟨op, is.slot.val, is.body, is.ecc⟩ = ({ u with obj := o' }).updCore is.core.val fun c => { c with inflight := c.inflight ++ l } := by
    have hact : ∀ v : State, v.core is.core.val = u.core is.core.val → v.actSyl is.core.val ⟨op, is.slot.val, is.body, is.ecc⟩ = v.updCore is.core.val fun c => { c with inflight := c.inflight ++ l } := by
      intro v hv
      unfold State.actSyl
      simp only [h.legal, not_true_eq_false, if_false]
      rw [if_neg]
      · exact hl v (by rw [hv, hcore])
      · rintro ⟨a, b⟩
        have hon := h.on
        rw [hv, hcore] at b
        rcases hon with q | q
        · exact a q
        · exact b (by simpa [scalarOn, laneMask, Core.ready, Core.readP] using q)
    unfold State.runSyl
    simp only [hcore, Core.ready]
    rw [if_neg (by simp)]
    split
    · obtain ⟨o', e'⟩ := countCore_eq u is.core.val (Syl.countSel ⟨op, is.slot.val, is.body, is.ecc⟩) 1
      refine ⟨o', ?_⟩
      rw [e', hact]
      rfl
    · refine ⟨u.obj, ?_⟩
      rw [hact u rfl]
  obtain ⟨o', hrun⟩ := hrun
  rw [hrun]
  have hc2 : (({ u with obj := o' }).updCore is.core.val fun c => { c with inflight := c.inflight ++ l }).core is.core.val =
      { (s.core is.core.val).ready ⟨op, is.slot.val, is.body, is.ecc⟩ with inflight := l } := by
    rw [core_updCore, if_pos rfl]
    show { u.core is.core.val with inflight := (u.core is.core.val).inflight ++ l } = _
    rw [hcore]
    simp [Core.ready, h.inflight]
  have hbl : ({ (s.core is.core.val).ready ⟨op, is.slot.val, is.body, is.ecc⟩ with inflight := l } : Core).bundleLen = 16 := by
    simp [Core.bundleLen, Core.ready, opInSlot_lt _ _ h.slot]
  obtain ⟨o2, e2⟩ := finishBundle_plain _ is.core.val (by rw [hc2]; rfl) (by rw [hc2]; rfl) (by rw [hc2]; rfl) (by rw [hc2]; rfl) (by rw [hc2]; exact h.noLoop) (by rw [hc2]; exact hc)
  rw [e2]
  refine ⟨?_, ?_, ?_⟩
  · subst hu
    exact ⟨o2, _, rfl⟩
  · rw [core_setCore, if_pos rfl, hc2]
    congr 1
    unfold Core.passed
    rw [hbl]
    rfl
  · intro m hm'
    rw [core_setCore, if_neg hm']
    refine Eq.trans (b := (({ u with obj := o' }).updCore is.core.val fun c => { c with inflight := c.inflight ++ l }).core m) rfl ?_
    rw [core_updCore, if_neg hm']
    exact hm m hm'


end Sys2Proof.Machine
end

