-- ==== Sys2Proof/Tests/Slice0.lean ====
section
/-! SUPPORT. Tests: one state and operands that meet the hypotheses of each statement (witness_), ill-formed commands (wellformed_), and single
steps on small states with results taken from the spec's tables and examples (test_). -/

namespace Sys2Proof.Tests

open Sys2Proof Sys2Proof.Machine Sys2Proof.Claims

set_option maxRecDepth 20000

/-- Whether `Acts` holds, as a test. -/
def acts (s : State) (op : CoreOp) (is : Issue) : Bool :=
  let c := s.core is.core.val
  s.takesSyl is.core.val && is.last && opInSlot op is.slot.val && decide (c.bundle = []) && decide (c.run = {}) && decide (c.bubble = 0)
    && decide (c.inflight = []) && c.fetchOk is.core.val 16 && (!c.jobMode || c.curCtx.started)
    && (List.range 4).all (fun k => decide (c.readLc k = 0#32 ∨ c.readLe k ≠ c.pc)) && sylLegal op is.slot.val is.body
    && (byLane op is.slot.val || scalarOn c is.body)

theorem acts_sound (s : State) (op : CoreOp) (is : Issue) (h : acts s op is = true) : s.Acts op is := by
  simp only [acts, Bool.and_eq_true, decide_eq_true_eq, Bool.or_eq_true, Bool.not_eq_true'] at h
  obtain ⟨⟨⟨⟨⟨⟨⟨⟨⟨⟨⟨h1, h2⟩, h3⟩, h4⟩, h5⟩, h6⟩, h7⟩, h8⟩, h9⟩, h10⟩, h11⟩, h12⟩ := h
  exact { takes := h1, last := h2, slot := h3, bundle := h4, run := Or.inl h5, bubble := h6, inflight := h7, fetch := h8,
          started := fun e => by simpa [e] using h9, noLoop := fun k hk => by simpa using List.all_eq_true.mp h10 k (List.mem_range.mpr hk), legal := h11, on := h12 }

/-- A syllable that is a bundle of core 0: its opcode, D, A and B, and the low 30 bits. -/
def syl (op : CoreOp) (slot d a b : Nat) (low : Nat := 0) : Issue :=
  ⟨0, Fin.ofNat 8 slot, true, BitVec.ofNat 64 (opcodeOf op * 2 ^ 56 + d * 2 ^ 44 + a * 2 ^ 37 + b * 2 ^ 30 + low), .clean⟩

/-- A running context of job 5, and states with core 0 in job mode and in runtime mode. -/
def ctx5 : Ctx := { state := .running, started := true, job := 5, winLimit := 0x40000, codeLimit := 0x40000 }
def jobCore : Core := { jobMode := true, ctxs := [(0, ctx5)] }
def on (c : Core) : State := { State.reset with cores := [(0, c)] }

/-! ### Witnesses: the instructions of a core -/

/-- Every scalar, load, store, vector, matrix and special-function statement asks for a legal syllable that acts. -/
theorem witness_acts : ∀ e ∈ ([(.add, syl .add 0 1 2 3), (.sub, syl .sub 1 1 2 3), (.addi, syl .addi 0 1 2 0), (.mul, syl .mul 0 1 2 3), (.mulh, syl .mulh 0 1 2 3), (.and, syl .and 0 1 2 3), (.or, syl .or 0 1 2 3),
    (.xor, syl .xor 0 1 2 3), (.shl, syl .shl 0 1 2 3), (.shr, syl .shr 0 1 2 3), (.sra, syl .sra 0 1 2 3), (.li, syl .li 0 1 0 0), (.min, syl .min 0 1 2 3), (.max, syl .max 0 1 2 3), (.cmp, syl .cmp 0 0 2 3),
    (.cmpi, syl .cmpi 0 0 2 0), (.sel, syl .sel 0 1 2 3), (.nop, syl .nop 0 0 0 0), (.endJob, syl .endJob 0 0 0 0), (.resume, syl .resume 0 0 0x20 0), (.csrr, syl .csrr 0 1 0 0), (.csrw, syl .csrw 0 0 1 0), (.csrc, syl .csrc 0 0 1 0),
    (.aadd, syl .aadd 3 0x20 0x21 1), (.aaddi, syl .aaddi 3 0x20 0x21 0), (.amov, syl .amov 3 0x20 0x21 0), (.afromg, syl .afromg 3 0x20 1 1), (.atog, syl .atog 3 1 0x20 0), (.sstat, syl .sstat 3 1 0 0), (.spause, syl .spause 3 0 0 0)] :
    List (CoreOp × Issue)), acts (on {}) e.1 e.2 = true ∧ (e.1 ≠ .resume → acts (on jobCore) e.1 e.2 = true) := by decide

theorem witness_acts_vector : ∀ e ∈ ([(.vadd, syl .vadd 4 0x40 0x41 0x42), (.vsub, syl .vsub 4 0x40 0x41 0x42), (.vmul, syl .vmul 4 0x40 0x41 0x42), (.vfma, syl .vfma 4 0x40 0x41 0x42 (0x43 * 2 ^ 23 + 0x700)),
    (.vmin, syl .vmin 4 0x40 0x41 0x42), (.vmax, syl .vmax 4 0x40 0x41 0x42), (.vabs, syl .vabs 4 0x40 0x41 0), (.vand, syl .vand 4 0x40 0x41 0x42), (.vor, syl .vor 4 0x40 0x41 0x42), (.vxor, syl .vxor 4 0x40 0x41 0x42),
    (.vshl, syl .vshl 4 0x40 0x41 0), (.vmulrs, syl .vmulrs 4 0x40 0x41 0x42 0x200), (.vmulrs, syl .vmulrs 4 0x40 0x41 0x42 0x500), (.vsel, syl .vsel 4 0x40 0x41 0x42 (0x30 * 2 ^ 23)), (.vbcast, syl .vbcast 4 0x40 1 0),
    (.vperm, syl .vperm 4 0x40 0x41 0x42), (.vshuf, syl .vshuf 4 0x40 0x41 0x42), (.vexpand, syl .vexpand 4 0x40 0x41 0 (0x30 * 2 ^ 23)), (.vcompress, syl .vcompress 4 0x40 0x41 0 (0x30 * 2 ^ 23)),
    (.vcompress, syl .vcompress 4 0x40 0x41 0 (0x30 * 2 ^ 23 + 1)), (.vcvt, syl .vcvt 4 0x40 0x41 0), (.vcmp, syl .vcmp 4 0x30 0x41 0x42), (.vdmacs, syl .vdmacs 4 0x40 0x42 0x44 0x200), (.vdnarrow, syl .vdnarrow 4 0x40 0x42 0 0x200)] :
    List (CoreOp × Issue)), acts (on jobCore) e.1 e.2 = true := by decide

theorem witness_acts_matrix_special : ∀ e ∈ ([(.mrq, syl .mrq 5 0 1 2), (.fexp, syl .fexp 6 0x40 0x41 0 0x700), (.flog, syl .flog 6 0x40 0x41 0 0x600), (.frcp, syl .frcp 6 0x40 0x41 0 0x700), (.frsqrt, syl .frsqrt 6 0x40 0x41 0 0x700),
    (.fsigm, syl .fsigm 6 0x40 0x41 0 0x700), (.ftanh, syl .ftanh 6 0x40 0x41 0 0x700), (.fsoftp, syl .fsoftp 6 0x40 0x41 0 0x700), (.fsmooth, syl .fsmooth 6 0x40 0x41 0 0x700), (.fatan2, syl .fatan2 6 0x40 0x41 0x42 0x700),
    (.fsincos, syl .fsincos 6 0x40 0x41 0 0x700), (.fmp, syl .fmp 6 0x40 0x41 0 0x700), (.mvfl, syl .mvfl 6 1 0x60 0), (.mvfl, syl .mvfl 6 0x20 0x64 0), (.mvfl, syl .mvfl 6 0x20 0x68 0), (.vsetvl, syl .vsetvl 6 1 2 0), (.vsetvl, syl .vsetvl 6 1 0 0),
    (.sfbank, syl .sfbank 6 0 0 0)] : List (CoreOp × Issue)), acts (on {}) e.1 e.2 = true ∧ acts (on jobCore) e.1 e.2 = true := by decide

/-- A branch that is followed and one that is not, and a call. -/
theorem witness_branches : (∀ e ∈ ([(.br, syl .br 0 0 0 0 (14 * 2 ^ 47 + 2)), (.br, syl .br 0 0 0 0), (.bri, syl .bri 0 0 0x20 0 (14 * 2 ^ 47)), (.bri, syl .bri 0 0 0x20 0), (.call, syl .call 0 0 0x20 0 (14 * 2 ^ 47 + 2)),
      (.call, syl .call 0 0 0x2C 0 (14 * 2 ^ 47 + 2))] : List (CoreOp × Issue)), acts (on {}) e.1 e.2 = true)
    ∧ condHolds 0#8 0 14 = true ∧ condHolds 0#8 0 0 = false := by decide

theorem witness_csr : csrNo (arg (syl .csrr 0 1 0 0)) = 0 ∧ csrAccess 0 ≠ .absent ∧ csrAccess 0 ≠ .none ∧ csrOpaque jobCore 0 = false
    ∧ csrAccess (csrNo (arg (syl .csrr 0 1 0 0 (0x22 * 32)))) = .none ∧ acts (on jobCore) .csrr (syl .csrr 0 1 0 0 (0x22 * 32)) = true
    ∧ csrNo (arg (syl .csrw 0 0 1 0 (1 * 32))) = 1 ∧ acts (on {}) .csrw (syl .csrw 0 0 1 0 (1 * 32)) = true
    ∧ csrNo (arg (syl .csrc 0 0 1 0 (2 * 32))) = 2 ∧ acts (on {}) .csrc (syl .csrc 0 0 1 0 (2 * 32)) = true := by decide

theorem witness_header_and_resume : (on jobCore).takesSyl 0 = true ∧ ((on jobCore).core 0).fetchOk 0 8 = true ∧ ((on jobCore).core 0).curCtx.started = true
    ∧ (memNat ({ on {} with mem := [(2, 4#8)] } : State).mem 2 2).testBit 2 = true ∧ acts { on {} with mem := [(2, 4#8)] } .resume (syl .resume 0 0 0x20 0) = true
    ∧ acts (on jobCore) .resume (syl .resume 0 0 0x20 0) = true := by decide

/-- Loads and stores in the window and aligned, misaligned, and outside the window. -/
theorem witness_loads_and_stores : ∀ e ∈ ([(.ldb, 1, syl .ldb 2 1 0x20 0), (.ldbu, 1, syl .ldbu 2 1 0x20 0), (.ldh, 2, syl .ldh 2 1 0x20 0), (.ldhu, 2, syl .ldhu 2 1 0x20 0), (.ldw, 4, syl .ldw 2 1 0x20 0), (.lda, 8, syl .lda 2 0x20 0x20 0),
      (.ldp, 16, syl .ldp 2 0x30 0x20 0), (.ldv, 128, syl .ldv 2 0x40 0x20 0), (.stb, 1, syl .stb 2 1 0x20 0), (.sth, 2, syl .sth 2 1 0x20 0), (.stw, 4, syl .stw 2 1 0x20 0), (.sta, 8, syl .sta 2 0x20 0x20 0), (.stp, 16, syl .stp 2 0x30 0x20 0),
      (.stv, 128, syl .stv 2 0x40 0x20 0)] : List (CoreOp × Nat × Issue)),
    acts (on jobCore) e.1 e.2.2 = true ∧ (on jobCore).inWindow 0 (effAddr (on jobCore) (arg e.2.2)).toNat e.2.1 = true ∧ (effAddr (on jobCore) (arg e.2.2)).toNat % e.2.1 = 0
    ∧ (e.2.1 = 1 ∨ (let s := on { jobCore with a := [(0, 1#48)] }; acts s e.1 e.2.2 = true ∧ s.inWindow 0 (effAddr s (arg e.2.2)).toNat e.2.1 = true ∧ (effAddr s (arg e.2.2)).toNat % e.2.1 ≠ 0))
    ∧ (let s := on { jobCore with a := [(0, 0x40000#48)] }; acts s e.1 e.2.2 = true ∧ s.inWindow 0 (effAddr s (arg e.2.2)).toNat e.2.1 = false)
    ∧ (e.2.1 = 128 → boundWalker (on jobCore) (arg e.2.2) = none ∧ laneMask jobCore e.2.2.body ≠ 0#128) := by decide

/-- A vector load through a dense walker, and one with every lane off. -/
theorem witness_vector_loads : (let s := on { jobCore with ctxs := [(0, { ctx5 with walkers := [(0, { bound := true, len := 64, desc := BitVec.ofNat 512 (2 ^ 256) })] })] }
      ; acts s .ldv (syl .ldv 2 0x40 0x2C 0) = true ∧ ∃ w, boundWalker s (arg (syl .ldv 2 0x40 0x2C 0)) = some w ∧ w.len ≠ 0 ∧ tdField w.desc 256 32 ≠ 0)
    ∧ acts (on jobCore) .ldv (syl .ldv 2 0x40 0x20 0 (2 ^ 55)) = true ∧ laneMask jobCore (syl .ldv 2 0x40 0x20 0 (2 ^ 55)).body = 0#128 := by
  refine ⟨⟨by decide, _, rfl, by decide, by decide⟩, by decide, by decide⟩

/-- Tally 7 belongs to the Court's pool; 0xFFF8 is a symbol-count Tally; Tally 9 has no pool. -/
def tallyState (count : BitVec 32) (g : Nat) : State :=
  { on { jobCore with g := [(1, BitVec.ofNat 32 g), (2, 3#32)] } with tpools := [(1, { live := true, first := 4, count := 4 })], tallies := [(7, { count := count })] }

theorem witness_tallies : (∀ e ∈ ([(.twait, syl .twait 3 0 1 2), (.tadd, syl .tadd 3 0 1 2), (.tacq, syl .tacq 3 3 1 0), (.trel, syl .trel 3 0 1 0), (.tread, syl .tread 3 3 1 0)] : List (CoreOp × Issue)),
      acts (tallyState 3#32 7) e.1 e.2 = true ∧ (tallyState 3#32 7).tallyOwned 0 7 = true ∧ tallyNo (tallyState 3#32 7) (arg e.2) = 7
      ∧ acts (tallyState 3#32 9) e.1 e.2 = true ∧ (tallyState 3#32 9).tallyOwned 0 9 = false ∧ acts (tallyState 3#32 0xFFF8) e.1 e.2 = true)
    ∧ 0 ≤ (((tallyState 3#32 7).tally 7).count - 3#32).toInt ∧ ¬ 0 ≤ (((tallyState 2#32 7).tally 7).count - 3#32).toInt
    ∧ ((tallyState 3#32 7).tally 7).holder = 0 ∧ ((tallyState 3#32 7).tally 7).waiters = [] ∧ (({ tallyState 3#32 7 with tallies := [(7, { holder := 5 })] } : State).tally 7).holder = 5 := by decide

def queueState : State :=
  { on { jobCore with g := [(1, 3#32), (2, 6#32)] } with queues := [(3, { live := true, pool := 2, items := [8], from_ := [0] })], pools := [(2, { live := true, count := 16 })], heldBy := [(handleKey 2 6, 5)] }

theorem witness_queues : acts queueState .hdeq (syl .hdeq 3 3 1 0) = true ∧ (queueState.hqueue (queueKey 0 3)).live = true ∧ (queueState.hqueue (queueKey 0 3)).items.head? = some 8
    ∧ acts queueState .henq (syl .henq 3 0 1 2) = true ∧ 6 < (queueState.pool 2).count ∧ Tbl.get 0 queueState.heldBy (handleKey 2 6) = 5 := by decide

theorem witness_stream_control : acts (on jobCore) .sstart (syl .sstart 3 0 0x20 1) = true ∧ (ctx5.engine 0).state = .idle ∧ (on jobCore).inWindow 0 0 8 = true := by decide

theorem witness_pack : packAllowed 3 2 = true ∧ acts (on jobCore) .vpack (syl .vpack 4 0x40 0x41 0x42 0x302) = true ∧ packAllowed 3 3 = false ∧ acts (on jobCore) .vpack (syl .vpack 4 0x40 0x41 0x42 0x303) = true
    ∧ acts (on jobCore) .vunpack (syl .vunpack 4 0x40 0x41 0 0x230) = true ∧ acts (on jobCore) .vunpack (syl .vunpack 4 0x40 0x41 0 0x220) = true ∧ packAllowed 2 2 = false := by decide

theorem witness_reductions : acts (on jobCore) .vred (syl .vred 4 0x40 0x41 0 0x230) = true ∧ acts (on jobCore) .vred (syl .vred 4 0x40 0x41 0 0x270) = true
    ∧ acts (on jobCore) .vred (syl .vred 4 0x40 0x41 0 0x261) = true ∧ (jobCore.acc 0).kind ≠ 1 ∧ (jobCore.acc 0).kind = 0 ∧ (jobCore.acc 0).wide = false := by decide

/-- A tensor descriptor of 16 INT8 elements in one dimension, with and without SETVL; a tile descriptor of mode 0 with K = N = 1. -/
def tdNat (setvl : Nat) : Nat := 2 ^ 57 + 2 ^ 54 * setvl + 2 ^ 128 + 16 * 2 ^ 160 + 2 ^ 256
def tile0 : BitVec 512 := BitVec.ofNat 512 (2 ^ 50 + 2 ^ 35 + 2 ^ 26)
def pass0 : Pass := { id := 1, desc := tile0, act := 0, rows := 1, job := 5, slot := 0, rq := {}, outliers := [], backward := false, total := 1 }
def row1 : ARow := { cols := [(1, 0)] }
def store0 : Pass := { pass0 with desc := BitVec.ofNat 512 (2 ^ 58 + 2 ^ 35 + 2 ^ 26), produced := 1, queue := [row1] }
/-- Core 0 in job mode with a group in a state. -/
def grouped (g : Group) (x : Ctx := ctx5) : Core := { jobCore with ctxs := [(0, x)], groups := [(0, g)] }
def written (l : List Host.Cell) : State := { on jobCore with mem := l }

theorem witness_descriptors : (∀ v ∈ [0, 1], (let s : State := { on jobCore with mem := memPutNat [] 64 0 (tdNat v) }
      ; acts s .vtset (syl .vtset 4 0 0x20 0) = true ∧ s.inWindow 0 0 64 = true ∧ tdValid (BitVec.ofNat 512 (memNat s.mem 64 0)) = true ∧ tdAligned (BitVec.ofNat 512 (memNat s.mem 64 0)) = true
        ∧ tdSetvl (BitVec.ofNat 512 (memNat s.mem 64 0)) = (v == 1)))
    ∧ (jobCore.walker 1).bound = false := by decide

theorem witness_output_queue : (∀ fn ∈ [1, 2], acts (on { grouped {} with vl := 128#8 }) .vmrd (syl .vmrd 4 0x40 0 0 (0x500 + fn)) = true) ∧ (grouped {}).ownsGroup 0 = true ∧ ({} : Group).ready 1 = [] ∧ ({} : Group).moreToCome = false
    ∧ (let g : Group := { draining := [{ pass0 with rows := 2, total := 2, produced := 2, queue := [row1, row1] }] }; (g.ready 1).length = 8 ∧ dOutFmt tile0 ≠ 2
        ∧ acts (on { grouped g with vl := 128#8 }) .vmrd (syl .vmrd 4 0x40 0 0 0x501) = true ∧ acts (on { grouped g with vl := 128#8 }) .vmrd (syl .vmrd 4 0x40 0 0 0x502) = true) := by decide

theorem witness_matrix_settings : (let s := written (memPutNat [] 64 0 tile0.toNat)
      ; acts s .mtile (syl .mtile 5 0 0x20 0) = true ∧ s.inWindow 0 0 64 = true ∧ tileValid (BitVec.ofNat 512 (memNat s.mem 64 0)) 1 = true)
    ∧ acts (on jobCore) .mwld (syl .mwld 5 0 0x20 0) = true ∧ (on jobCore).inWindow 0 0 (nextTileBytes jobCore) = true
    ∧ (∀ v ∈ [0, 1], acts (on { jobCore with ctxs := [(0, { ctx5 with chain := BitVec.ofNat 32 (2 ^ 15 + v * 2 ^ 16) })] }) .mwpass (syl .mwpass 5 0 0 0 v) = true)
    ∧ acts (on jobCore) .moutl (syl .moutl 5 0 0x20 0) = true ∧ (on jobCore).inWindow 0 0 2 = true
    ∧ (∀ v ∈ [0, 1, 2], acts (on jobCore) .msplit (syl .msplit 5 0 0 0 v) = true) ∧ jobCore.ownsGroup 0 = true ∧ jobCore.split = 1 := by decide

/-- Passes: the array idle, a pass in progress, a pass queued; forward and backward. -/
theorem witness_passes : (∀ g ∈ [({} : Group), { current := some pass0 }, { current := some pass0, queued := some pass0 }],
      (let c := { grouped g { ctx5 with next := { tile := some tile0 } } with g := [(1, 1#32)] }
      ; acts (on c) .mpass (syl .mpass 5 0 0x20 1) = true ∧ c.ownsGroup (dGroup tile0) = true ∧ c.groupFenced 0 = false ∧ (c.group 0).scrub = false ∧ dDetach tile0 = false ∧ dOutMode tile0 = 0))
    ∧ (let d : BitVec 512 := BitVec.ofNat 512 (2 ^ 60 + 2 ^ 35 + 2 ^ 26)
      ; let s : State := { on { grouped {} { ctx5 with next := { tile := some d } } with g := [(1, 1#32)] } with obj := [(okey 0x4060 1, 1)] }
      ; acts s .mbwd (syl .mbwd 5 0 0x20 1) = true ∧ s.get 0x4060 1 ≠ 0 ∧ backwardFits d 1 1 = true) := by decide

theorem witness_special_functions : acts (on { jobCore with microprograms := [(sfBankOf (on jobCore) (arg (syl .fmp 6 0x40 0x41 0 0x703)) * 256 + 3, [1#8])] }) .fmp (syl .fmp 6 0x40 0x41 0 0x703) = true 
    ∧ fdecode (etFmt 7) 0x7FC00000 = .nan ∧ fdecode (etFmt 6) 0x7FC0 = .nan ∧ fdecode (etFmt 7) 0xFF800000 = .inf true ∧ fdecode (etFmt 6) 0xFF80 = .inf true
    ∧ (match fdecode (etFmt 7) 0x80000000 with
        | .fin true 0 _ => true
        | _ => false) = true := by decide

theorem witness_loops : acts (on jobCore) .loop (syl .loop 6 0 0 0 (2 ^ 48 + 2 * 2 ^ 20 + 2)) = true ∧ jobCore.loopAllowed 0 16 16 = true ∧ acts (on jobCore) .loop (syl .loop 6 0 0 0 (2 ^ 48 + 2)) = true
    ∧ acts (on jobCore) .loop (syl .loop 6 0 0 0 (2 ^ 48 + 2 * 2 ^ 20)) = true ∧ jobCore.loopAllowed 0 16 0 = false
    ∧ acts (on { jobCore with g := [(1, 2#32)] }) .mvtl (syl .mvtl 6 0x60 1 0) = true ∧ jobCore.loopAllowed 0 (jobCore.readLs 0) (jobCore.readLe 0) = true
    ∧ acts (on jobCore) .mvtl (syl .mvtl 6 0x64 0x20 0) = true ∧ acts (on jobCore) .mvtl (syl .mvtl 6 0x68 0x20 0) = true := by decide

/-! ### Witnesses: the events of a core -/

def land1 (d r : Nat) : Land := { dest := d, remain := r, value := 7, mask := BitVec.allOnes 128, sticky := 0, kind := 0 }

theorem witness_landing : (let f := fun (r : Land) => decide (r.remain ≤ 1)
      ; ([] : List Land).filter f = [] ∧ [land1 3 1].filter f = [land1 3 1] ∧ [land1 0x41 1].filter f = [land1 0x41 1] ∧ anyClash [land1 3 1] = false
        ∧ anyClash ([land1 3 1, land1 3 1].filter f) = true) := by decide

theorem witness_holds : (let c : Core := { (tallyState 3#32 7).core 0 with held := true, bundle := [⟨.twait, 3, (syl .twait 3 0 1 2).body, .clean⟩] }
      ; c.fetchOk 0 16 = true ∧ sylLegal .twait 3 (syl .twait 3 0 1 2).body = true ∧ scalarOn c (syl .twait 3 0 1 2).body = true ∧ (tallyState 3#32 7).tallyOwned 0 7 = true)
    ∧ tallyReached 3#32 3#32 = true ∧ tallyReached 2#32 3#32 = false := by decide

theorem witness_stops : (let c := { jobCore with stop := some { tile := true } }; c.stop = some { tile := true } ∧ c.curCtx.state = .running ∧ c.curCtx.excl = 0#32 ∧ (∀ q ∈ [0, 1, 2, 3], groupAtBoundary c (c.group q) = true))
    ∧ (let s : State := { tallyState 2#32 7 with cores := [(0, { (tallyState 2#32 7).core 0 with held := true, heldCycles := 64, bundle := [⟨.twait, 3, (syl .twait 3 0 1 2).body, .clean⟩] })] }
      ; (s.heldWait 0).isSome = true) := by decide

def jobs5 : Tbl Job := [(5, { live := true, kind := 0x20, state := .running, core := 0, slot := 0 })]

theorem witness_job_end : (let s : State := { on { jobCore with ctxs := [(0, { ctx5 with state := .ending })] } with jobs := jobs5, tallies := [(7, { holder := 5 }), (8, { holder := 6 })] }
      ; (s.core 0).curCtx.state = .ending ∧ passesOpen (s.core 0) 0 = false ∧ (s.job 5).live = true ∧ (s.tally 7).holder = 5 ∧ (s.tally 8).holder ≠ 5 ∧ Tbl.wf {} s.tallies = true
        ∧ s.isFenced 2 0 = false ∧ ((s.core 0).ctx 0).state ≠ .free ∧ ({ s with fences := [⟨2, 0x20, 0, 1, 0xFF, 0⟩] } : State).isFenced 2 0 = true) := by decide

/-- Groups with pass0 in progress: waiting for its tile, with it in the shadow bank, with it in the active bank; and with the fold of pass0 behind it. -/
def bank0 : Bank := ⟨1, 0, 0, [1#8]⟩
def waiting0 : Group := { current := some pass0 }
def running0 : Group := { current := some pass0, active := some bank0 }
def ended0 : Group := { current := some { pass0 with fold := 1 }, queued := some { pass0 with id := 2 } }

theorem witness_pass_events : (on jobCore).coresStopped = false ∧ (∀ g ∈ [({ queued := some pass0 } : Group), ended0], ∃ p, ((grouped g).group 0).queued = some p ∧ g.scrub = false
      ∧ ∀ o, g.current = some o → dOutMode o.desc ≠ 1 ∧ foldCount o 1 ≤ o.fold)
    ∧ (let o : Pass := { pass0 with rows := 1024 * 4, total := 1024 * 4 }; dOutMode o.desc = 0 ∧ o.fold + 1 < foldCount o 1)
    ∧ (∃ f, (grouped waiting0).nextFill 0 = some f ∧ f.tile = 0 ∧ f.here = true ∧ waiting0.bandsSwapped = 0 ∧ waiting0.shadow = none)
    ∧ (pass0.fold < foldCount pass0 1 ∧ waiting0.foldActive pass0 1 = false ∧ foldTile pass0 1 ≠ 5) := by
  refine ⟨by decide, ?_, by decide, ⟨_, rfl, by decide, by decide, by decide, by decide⟩, by decide⟩
  intro g h
  simp only [List.mem_cons, List.not_mem_nil, or_false] at h
  rcases h with rfl | rfl
  · exact ⟨pass0, rfl, rfl, by intro o h; cases h⟩
  · exact ⟨{ pass0 with id := 2 }, rfl, rfl, by intro o h; cases h; decide⟩

theorem witness_band_swaps : (∀ n ∈ [0, 7], let g : Group := { waiting0 with shadow := some bank0, bandsSwapped := n }
      ; ∃ f, (grouped g).nextFill 0 = some f ∧ bank0.pass = f.pass ∧ bank0.tile = f.tile ∧ (g.bandsSwapped ≠ 0 ∨ g.foldActive pass0 1 = false)) := by
  intro n h
  simp only [List.mem_cons, List.not_mem_nil, or_false] at h
  rcases h with rfl | rfl <;> exact ⟨_, rfl, by decide, by decide, by decide⟩

/-- The pass of row blocks of several rows lets a fold through; the boundary after it; a split that takes effect. -/
theorem witness_folds : (∃ p, Core.enterLast (on (grouped running0)) 0 (grouped running0) running0 pass0 1 = .pass p) ∧ running0.foldActive pass0 1 = true
    ∧ Core.enterLast (on (grouped waiting0)) 0 (grouped waiting0) waiting0 pass0 1 = .waits
    ∧ (arowPlace { pass0 with produced := 1 } 1 1).2.2.2 = 0 ∧ ({ jobCore with splitPending := some 2 } : Core).splitPending = some 2 ∧ (Tbl.get {} ctx5.mcont 0).current = none := by
  refine ⟨⟨_, rfl⟩, ?_⟩
  decide

theorem witness_output_rows : running0.current = some pass0 ∧ running0.draining = [] ∧ pass0.produced < pass0.total ∧ dOutMode pass0.desc = 0 ∧ pass0.formed.length < packLen pass0 1 0
    ∧ (let c := grouped running0 { ctx5 with winLimit := 0 }; Core.enterLast (on c) 0 c running0 pass0 1 = .fault evADDR 0 ∧ c.jobMode = true ∧ c.cur = pass0.slot) := by decide

theorem witness_store_drain : dOutMode store0.desc = 1 ∧ store0.produced = store0.total ∧ storeList store0 1 ≠ []
    ∧ (storeList store0 1).all (fun e => inCtxWindow jobCore 0 0 e.1 (outSize (dOutFmt store0.desc) (modeRow (dMode store0.desc)).complex)) = true
    ∧ (({ on (grouped { current := some store0 }) with jobs := jobs5 } : State).job 5).live = true ∧ ((grouped { scrub := true, queued := some pass0 }).group 0).scrub = true := by decide


/-- A bundle header that names slot 3 and one with a wrong tag; a load and a table read that meet an uncorrectable error; a vector load through a walker of length 0; a bound
and a merge whose lanes are off or whose record has no kind; a stop in a branch bubble. -/
theorem witness_further_forms : (let w := 0x5A0008; w / 2 ^ 16 = 0x5A ∧ w / 2 ^ 7 % 2 = 0 ∧ w / 2 ^ 9 % 2 ^ 7 = 0 ∧ w % 128 ≠ 0 ∧ ¬ 0x5B0008 / 2 ^ 16 = 0x5A)
    ∧ (let s := on { jobCore with a := [(0, 0x10000#48)] }
      ; let is := { syl .ldw 2 1 0x20 0 with ecc := .uncorrectable }
      ; acts s .ldw is = true ∧ s.inWindow 0 (effAddr s (arg is)).toNat 4 = true ∧ (effAddr s (arg is)).toNat % 4 = 0 ∧ 0x10000 ≤ (effAddr s (arg is)).toNat % Config.coreMemBytes)
    ∧ (let s := on { jobCore with ctxs := [(0, { ctx5 with walkers := [(0, { bound := true, desc := BitVec.ofNat 512 (2 ^ 256) })] })] }
      ; acts s .ldv (syl .ldv 2 0x40 0x2C 0) = true ∧ (boundWalker s (arg (syl .ldv 2 0x40 0x2C 0))).any (fun w => w.len == 0) = true)
    ∧ (acts (on jobCore) .vtset (syl .vtset 4 0 0x20 0 (2 ^ 55)) = true ∧ laneMask jobCore (syl .vtset 4 0 0x20 0 (2 ^ 55)).body = 0#128)
    ∧ (let s := on { jobCore with v := [(1, BitVec.ofNat 1024 (5 * 2 ^ 128))] }; let y := syl .vred 4 0x40 0x41 0 0x273
      ; acts s .vred y = true ∧ sylFN y.body = 0x73 ∧ sylSH y.body = 0 ∧ 2 < (xaccOfRecord ((vsrcA s (arg y)).toNat % 2 ^ 192)).kind)
    ∧ (let s := on { jobCore with bubble := 2, stop := some { tile := false } }; (s.drainBubble 0 |>.core 0).jobMode = true ∧ (s.drainBubble 0 |>.core 0).cur < 4) := by decide

/-! ### Witnesses: stream programs -/

/-- Objects of the dictionary, sorted by index and subindex. -/
def objs (l : List (Nat × Nat × Nat)) : Tbl Nat := l.map fun e => (okey e.1 e.2.1, e.2.2)
/-- Core 0 runs a context of job 5 whose engine 0 is g; Court 0 has carrier 0, with 4 ports and 52 PRBs both ways, and Tallies 4 to 7. -/
def engState (g : Engine) : State :=
  { on { jobCore with ctxs := [(0, { ctx5 with engines := [(0, g)] })] } with
    obj := objs [(0x2300, 1, 3), (0x2300, 3, 52), (0x2300, 4, 4), (0x3000, 2, 1)], tpools := [(1, { live := true, first := 4, count := 4 })],
    queues := [(3, { live := true, pool := 2, items := [8, 9], from_ := [0, 0] }), (4, { live := true, pool := 2 })], pools := [(2, { live := true, base := 0x1000, bufSize := 64, count := 16 })] }
def runs : Engine := { state := .run }
/-- Whether `engages` holds, as a test. -/
def engagesB (x : StreamIssue) (s : State) : Bool :=
  let g := engineOf x s
  !s.coresStopped && (s.core x.core.val).jobMode && decide (g.state = .run) && !g.paused && decide (g.pc < 32) && inProgram x s && decide (x.ecc ≠ .uncorrectable)
    && (List.range 4).all fun k => decide (Tbl.get 0#32 g.loopCount k = 0#32 ∨ Tbl.get 0 g.loopEnd k ≠ g.pc)

theorem engagesB_sound (x : StreamIssue) (s : State) (h : engagesB x s = true) : engages x s := by
  simp only [engagesB, Bool.and_eq_true, decide_eq_true_eq, Bool.not_eq_true', List.all_eq_true, List.mem_range] at h
  obtain ⟨⟨⟨⟨⟨⟨⟨h1, h2⟩, h3⟩, h4⟩, h5⟩, h6⟩, h7⟩, h8⟩ := h
  exact ⟨⟨h1, h2, h3, h4⟩, h5, h6, h7, h8⟩

/-- A stream instruction of engine 0 of core 0: its opcode (Table 8.4) and its operand fields. -/
def ins (opc w : Nat) : StreamIssue := ⟨0, 0, BitVec.ofNat 64 (opc * 2 ^ 58 + w), .clean⟩
def ci8 : BitVec 512 := BitVec.ofNat 512 (4 * 2 ^ 60 + 2 ^ 57 + 2 ^ 128 + 16 * 2 ^ 160 + 2 * 2 ^ 256)
def ci16 : BitVec 512 := BitVec.ofNat 512 (5 * 2 ^ 60 + 2 ^ 57 + 2 ^ 128 + 16 * 2 ^ 160 + 4 * 2 ^ 256)

theorem witness_stream_bindings : engagesB (ins 0 0) (engState runs) = true ∧ (∀ e ∈ ([1, 2, 4, 5, 6, 7, 8, 9, 0xA, 0xB, 0x3F] : List Nat), streamOpc (ins e 0) = e)
    ∧ (let s := { engState runs with mem := memPutNat [] 64 0x40 ci8.toNat }; let x := ins 1 0x40
      ; streamOpc x = 1 ∧ stBits x 48 5 = 0 ∧ stBits x 55 2 = 0 ∧ stBits x 0 48 % 64 = 0 ∧ s.engineReach 0 0 0x40 64 false = true ∧ streamDescOk (BitVec.ofNat 512 (readUnit s [] 0x40 64).1) = true)
    ∧ (let x := ins 1 (0x40 + 2 ^ 55); stBits x 55 2 = 1 ∧ stBits x 48 5 = 0 ∧ (Tbl.get none ({ runs with handles := [(0, some (2, 8))] } : Engine).handles 0).isSome = true)
    ∧ (let s := engState runs
      ; (∀ x ∈ [ins 2 (3 * 2 ^ 36 + 51 * 2 ^ 18), ins 2 (2 ^ 52 + 3 * 2 ^ 36 + 51 * 2 ^ 18)], streamOpc x = 2 ∧ stBits x 16 2 = 0 ∧ s.carrierCourt (stBits x 53 5) = (s.core 0).curCtx.court
        ∧ (if stBits x 52 1 = 1 then s.carDl (stBits x 53 5) else s.carUl (stBits x 53 5)) = true ∧ stBits x 44 8 + stBits x 36 8 + 1 ≤ s.localPorts (stBits x 53 5)
        ∧ stBits x 27 9 + stBits x 18 9 + 1 ≤ s.car (stBits x 53 5) 3))
    ∧ (∀ x ∈ [ins 4 (5 * 2 ^ 51 + 3), ins 4 (5 * 2 ^ 51), ins 4 (5 * 2 ^ 51 + 2 ^ 50)], streamOpc x = 4 ∧ stBits x 32 18 = 0 ∧ runs.pc ≤ stBits x 51 5)
    ∧ (∀ x ∈ [ins 0xA (2 ^ 55 + 16), ins 0xA (2 ^ 55 + 1), ins 0xA (2 * 2 ^ 55), ins 0xA 0], streamOpc x = 0xA ∧ stBits x 32 20 = 0 ∧ stBits x 57 1 = 0 ∧ stBits x 52 3 < tdNdim ci8
      ∧ ((stBits x 55 2 = 1 ∧ 1 ≤ stBits x 0 32 ∧ stBits x 0 32 ≤ tdCnt ci8 (stBits x 52 3)) ∨ (stBits x 55 2 = 2 ∧ 2 ^ Nat.log2 (tdCnt ci8 (stBits x 52 3)) = tdCnt ci8 (stBits x 52 3))
        ∨ stBits x 55 2 = 0))
    ∧ (∀ t ∈ [7, 0xFFF8], streamOpc (ins 5 (t * 2 ^ 32 + 3)) = 5 ∧ stBits (ins 5 (t * 2 ^ 32 + 3)) 48 9 = 0 ∧ (engState runs).engineTally 0 (stBits (ins 5 (t * 2 ^ 32 + 3)) 32 16) = true)
    ∧ (∀ k < 4, Tbl.get none runs.handles k = none) ∧ stBits (ins 0x3F 0) 0 58 = 0 := by decide

theorem witness_stream_tallies : (let x := ins 6 (7 * 2 ^ 32 + 3); streamOpc x = 6 ∧ stBits x 48 10 = 0 ∧ (engState runs).tallyOwned 0 (stBits x 32 16) = true ∧ isSymbolTally (stBits x 32 16) = false)
    ∧ (∀ q ∈ [3, 4], stBits (ins 7 (q * 2 ^ 48)) 0 48 = 0 ∧ ((engState runs).hqueue (queueKey 0 (stBits (ins 7 (q * 2 ^ 48)) 48 8))).live = true) ∧ (engState runs).holdPermitted 5 2 = true
    ∧ ((engState runs).hqueue 3).items = [8, 9] ∧ ((engState runs).hqueue 4).items = []
    ∧ (let s : State := { engState { runs with handles := [(0, some (2, 6))] } with heldBy := [(handleKey 2 6, 5)] }; let x := ins 8 (4 * 2 ^ 48)
      ; engagesB x s = true ∧ streamOpc x = 8 ∧ stBits x 0 48 = 0 ∧ Tbl.get none (engineOf x s).handles 0 = some (2, 6) ∧ (s.hqueue 4).pool = 2 ∧ Tbl.get 0 s.heldBy (handleKey 2 6) = 5)
    ∧ (∀ v ∈ [1, 63, 64], streamOpc (ins 9 v) = 9 ∧ stBits (ins 9 v) 7 51 = 0 ∧ (stBits (ins 9 v) 6 1 = 1 ∨ stBits (ins 9 v) 0 6 ≠ 0))
    ∧ (∀ v ∈ [0, 1, 2], let x := ins 0xB (v * 2 ^ 56 + 2 ^ 47); streamOpc x = 0xB ∧ stBits x 0 47 = 0 ∧ stBits x 48 8 = 0 ∧ stBits x 56 2 ≤ 2) := by decide

theorem witness_stream_faults : (ins 0 1).word ≠ 0#64 ∧ stBits (ins 1 8) 0 48 % 64 ≠ 0 ∧ stBits (ins 1 8) 48 5 = 0 ∧ (engState runs).carrierCourt (stBits (ins 2 (2 ^ 53)) 53 5) ≠ ((engState runs).core 0).curCtx.court
    ∧ stBits (ins 3 1) 32 26 = 0 ∧ convOk (sideType runs.src) (sideType runs.dst) = false ∧ stBits (ins 4 (5 * 2 ^ 51)) 51 5 < ({ runs with pc := 6 } : Engine).pc
    ∧ (engState runs).engineTally 0 (stBits (ins 5 (9 * 2 ^ 32)) 32 16) = false
    ∧ isSymbolTally (stBits (ins 6 (0xFFF8 * 2 ^ 32)) 32 16) = true ∧ ((engState runs).hqueue (queueKey 0 5)).live = false ∧ Tbl.get none runs.handles 0 = none ∧ runs.src = .none
    ∧ (∃ k < 4, (Tbl.get none ({ runs with handles := [(0, some (2, 8))] } : Engine).handles k).isSome = true)
    ∧ (let s := engState { runs with pc := 32 }; s.coresStopped = false ∧ (engineOf (ins 0 0) s).pc = 32) ∧ inProgram (ins 0 0) (engState { runs with prog := 0x40000 }) = false := by decide

def moveOk (d d2 : BitVec 512) : Bool :=
  let g : Engine := { runs with src := .tensor d 0 0, dst := .tensor d2 0x400 0 }
  let s := engState g
  engagesB (ins 3 1) s && (streamOpc (ins 3 1) == 3) && (stBits (ins 3 1) 32 26 == 0) && decide (g.srcPos < tdTotal d) && decide (g.dstPos < tdTotal d2) && decide (tdType d ≤ 9) && (tdType d2 == tdType d || (tdType d == 4 && tdType d2 == 5))
    && inOwnMemory 0 (unitAddr d 0 [] 0) 4 && inCtxWindow (s.core 0) 0 0 (unitAddr d 0 [] 0) 4 && inOwnMemory 0 (unitAddr d2 0x400 [] 0 / 128 * 128) 128
    && inCtxWindow (s.core 0) 0 0 (unitAddr d2 0x400 [] 0) 4

theorem witness_move : moveOk ci8 ci8 = true ∧ moveOk ci8 ci16 = true := by decide

/-- A live job of context 0 of core 0, held by Court 0. -/
def jobState (y : Job) (x : Ctx := ctx5) : State := { on { jobCore with ctxs := [(0, x)] } with jobs := [(5, y)] }
def y5 : Job := { live := true, kind := 0x20, state := .running, core := 0, slot := 0 }

theorem witness_credits_and_watchdogs : ((engState { runs with outstanding := [3, 4] }).engine 0 0 0).outstanding = [3, 4]
    ∧ (let g : Engine := { state := .wait, wait := .handle 1 3 }; g.wait = .handle 1 3 ∧ ((engState g).hqueue 3).items = [8, 9])
    ∧ (let s : State := { jobState y5 { ctx5 with engines := [(0, { state := .wait, wait := .tally 7 3#32 })] } with auditAir := 2 ^ 40 }
      ; s.cut = false ∧ (s.engine 0 0 0).wait = .tally 7 3#32 ∧ s.waitExpired (s.engine 0 0 0).waitStart = true ∧ tallyReached (s.tally 7).count 3#32 = false ∧ (s.job 5).live = true ∧ (s.job 5).state ≠ .fenced ∧ (s.job 5).state ≠ .completed
        ∧ (s.job 5).core = 0 ∧ (s.job 5).slot = 0 ∧ ((s.core 0).ctx 0).job = 5)
    ∧ (let s : State := { jobState y5 with tallies := [(7, { holder := 5, since := 0 })], tbs := [(0, { enabled := true, tc := 2 ^ 40 })] }
      ; (s.tally 7).holder = 5 ∧ (usToTc (s.get (0x3000 + (s.job 5).court) 5) : Int) ≤ airDiff (s.tally 7).since (s.tb (s.job 5).tb).tc) := by decide

/-- Core 0 heads chain 0, or is its only member (bit 16), with a pass of tile0 in a state of its group. -/
def chain1 (v : Nat) (g : Group) : Core := { grouped g { ctx5 with chain := BitVec.ofNat 32 v } with fenced := false }

theorem witness_chain_tiles : (∀ v ∈ [2 ^ 15, 2 ^ 15 + 2 ^ 16], (chain1 v {}).port = some (some 0, BitVec.ofNat 32 v) ∧ chainPos (BitVec.ofNat 32 v) = 0 ∧ (chain1 v {}).armed 0 = none
      ∧ ∃ q p, (chain1 v { current := some { pass0 with chain := true } }).armed 0 = some (.current q p))
    ∧ (let c := chain1 (2 ^ 15) { current := some { pass0 with chain := true } }; c.passesThrough (some 0, BitVec.ofNat 32 (2 ^ 15)) = false ∧ ((on c).comingTile (BitVec.ofNat 32 (2 ^ 15))).isSome = true)
    ∧ (let s : State := { on { chain1 (2 ^ 15) {} with chainBuf := [(0, [1#8])] } with cores := [(0, { chain1 (2 ^ 15) {} with chainBuf := [(0, [1#8])] }), (1, chain1 (2 ^ 15 + 1) {})] }
      ; s.comingTile (BitVec.ofNat 32 (2 ^ 15 + 1)) = some (0, [1#8]) ∧ ((s.core 1).armed 0) = none ∧ (s.core 1).passesThrough (some 0, BitVec.ofNat 32 (2 ^ 15 + 1)) = false)
    ∧ (chain1 0 {}).chainPort = none ∧ (chain1 0 {}).chainBuf.length < 2 ∧ (chain1 0 {}).chainBad < 2 ∧ ((chain1 0 {}).ctx 0).fenced = false := by
  refine ⟨fun v h => ?_, by decide⟩
  simp only [List.mem_cons, List.not_mem_nil, or_false] at h
  rcases h with rfl | rfl <;> exact ⟨by decide, by decide, by decide, 0, { pass0 with chain := true }, by decide⟩

/-! ### Witnesses: jobs and orders -/

theorem witness_job_release : (let s := jobState { live := true, kind := 0x20 }
      ; (s.job 5).state = .waiting ∧ (s.job 5).order = 0 ∧ (s.job 5).deps = [] ∧ (s.job 5).court < 16 ∧ s.cut = false ∧ s.reached 0 (s.tcOf 0 0) = true)
    ∧ (jobState y5).job 5 = y5 ∧ y5.live = true ∧ y5.state = .running ∧ y5.kind = 0x20 ∧ y5.done = false
    ∧ (let s : State := { on { ctxs := [(1, { state := .ready, job := 5 })] } with jobs := [(5, { live := true, kind := 0x20, state := .resident })] }
      ; s.readyJobs (s.coreCourt 0) = [] ∧ s.coresStopped = false ∧ (s.core 0).jobMode = false ∧ (s.core 0).fenced = false ∧ s.nextCtx 0 = some 1 ∧ ((s.core 0).ctx 1).state = .ready)
    ∧ (let s : State := { on { jobCore with ctxs := [(0, ctx5), (1, { state := .ready, job := 6 })] } with jobs := [(5, y5), (6, y5)], clock := 2 ^ 40 }
      ; s.runnable 0 1 = true ∧ (s.job ((s.core 0).ctx 1).job).prio = (s.job (s.core 0).curCtx.job).prio ∧ spansUs (s.get (0x3000 + (s.job 5).court) 3) (s.core 0).sliceStart s.clock = true
        ∧ (s.core 0).stop = none) := by decide

/-- Every slot of core 0 is blocked on Tally 7; a swapped-out context waits for Tally 8, which has reached its target. -/
def blocked (i : Nat) : Ctx := { state := .blocked, job := 5 + i, waitStart := i, waitOn := some (7, some 3#32) }
def swapState : State :=
  { on { ctxs := [(0, blocked 0), (1, blocked 1), (2, blocked 2), (3, blocked 3)] } with
    tallies := [(8, { count := 3 })], swapped := [⟨0, 9, { state := .blocked, job := 20, waitOn := some (8, some 3#32) }⟩], obj := objs [(0x3000, 6, 8)], benchPages := [(9, 0x20000)] }

theorem witness_swapping : swapState.swapVictim 0 = some 0 ∧ (Tbl.get 0 swapState.benchPages 0 == 0) = true ∧ (∀ i < 4, ((swapState.core 0).ctx i).state = .blocked)
    ∧ swapState.wakers 0 ≠ [] ∧ swapState.benchFree.head? = some 0 ∧ swapState.swapUsed 0 < swapState.get (0x3000 + 0) 6
    ∧ (let s := { swapState with cores := [(0, { ctxs := [(0, blocked 0)] })] }
      ; (s.core 0).freeSlot = some 1 ∧ (s.returning 0).map (fun w => w.ctx.job) = [20] ∧ firstBy s.jobBefore [20] = some 20 ∧ ((s.core 0).takeBank 0).isSome = true
        ∧ s.readyJobs (s.coreCourt 0) = [] ∧ s.get 0x5300 0x0B ≠ 1)
    ∧ (let y := syl .tacq 3 3 1 0
      ; let s : State := { on { jobCore with g := [(1, 7#32)], held := true, bundle := [⟨.tacq, 3, y.body, .clean⟩] } with
          tpools := [(1, { live := true, first := 4, count := 4 })], tallies := [(7, { waiters := [⟨0, 0, 5, 0⟩] })] }
      ; (s.tally 7).holder = 0 ∧ s.coresStopped = false ∧ (s.core 0).curCtx.started = true ∧ (s.core 0).fetchOk 0 16 = true ∧ (∀ k < 4, (s.core 0).readLc k = 0#32) ∧ sylLegal .tacq 3 y.body = true
        ∧ scalarOn (s.core 0) y.body = true ∧ tallyNo s ⟨0, 3, y.body, .clean⟩ = 7 ∧ s.tallyOwned 0 7 = true) := by decide

/-- Order 1: one entry on carrier 0, with a codeword in a state. -/
def orderState (kind jobKind : Nat) (ended : Bool) (tb : TimeBase := {}) : State :=
  { jobState { live := true, kind := jobKind, state := .running, order := 1 } with
    tbs := [(0, tb)],
    orders := [(1, { live := true, kind := kind, body := [BitVec.ofNat 8 kind, 1#8, 128#8, 0#8, 0#8, 1#8] ++ List.replicate 122 0#8, words := [{ user := 0, cw := 0, ended := ended }] })] }

/-- A C-plane order of one section, for slot 0 of frame 100. -/
def cpBody : List Byte := bytesOf 1 3 ++ bytesOf 1 1 ++ bytesOf 2 80 ++ bytesOf 1 0 ++ bytesOf 1 1 ++ bytesOf 1 1 ++ bytesOf 1 0 ++ bytesOf 8 (100 * 2 ^ 38) ++ List.replicate 48 0#8
  ++ (List.replicate 5 0#8 ++ [1#8] ++ List.replicate 10 0#8)
def cpEntry : List Byte := bytesOf 8 hostBase ++ [3#8, 1#8] ++ bytesOf 2 80 ++ bytesOf 4 0
def cpState : State :=
  { engState runs with funcs := [(0, { rings := [(2, { base := 64, size := 6, sized := true, ctrl := 1, host := 1#32, samples := [(1#32, [0])] })] })],
                       obj := objs [(0x2300, 1, 3), (0x2300, 3, 52), (0x2300, 4, 4), (0x3000, 2, 1)] }

theorem witness_accepted_order : entryReason cpEntry cpBody true = none ∧ (cpState.ring 0 2).enabled = true ∧ (cpState.ring 0 2).host ≠ (cpState.ring 0 2).dev ∧ cpState.cut = false ∧ cpState.injecting = false
    ∧ cpState.get 0x31A0 9 = 0 ∧ cpState.get 0x1001 6 ≠ 1 ∧ cpState.get 0x5300 0x0B ≠ 1 ∧ cpState.carrierOk 0 0 false = true ∧ cpState.slotOk 0 (orSlot cpBody) = true
    ∧ 0 ≤ airDiff (((samplesFor [(1#32, [0])] 0#32)[cpState.carTb 0]?).getD 0) (cpState.leadLimit cpBody) ∧ cpState.orderContentsOk cpBody = true ∧ cpState.isFenced 4 0 = false
    ∧ orCarrier cpBody = 0 ∧ orKind cpBody = 3 ∧ cpState.carrierCourt 0 = 0 := by decide

theorem witness_orders : (let s : State := { State.reset with funcs := [(0, { rings := [(2, { base := 64, size := 6, sized := true, ctrl := 1, host := 1#32 })] })] }
      ; (s.ring 0 2).enabled = true ∧ (s.ring 0 2).host ≠ (s.ring 0 2).dev ∧ s.cut = false ∧ s.injecting = false ∧ s.get 0x31A0 9 = 0 ∧ s.get 0x1001 6 ≠ 1
        ∧ entryReason (bytesOf 16 hostBase) [] true = some 2 ∧ entryReason (List.replicate 16 1#8) [] true = some 1 ∧ entryReason (bytesOf 16 hostBase) [] false = some 4
        ∧ entryReason (1#8 :: List.replicate 15 0#8) [] true = some 3)
    ∧ (let s := orderState 2 0x14 false; ∃ e, s.orders.find? (fun e => e.2.live && e.2.kind == 2 && e.2.carrier == 0 && orSlot e.2.body == 0) = some e ∧ e.2.ready.contains 0 = false
        ∧ e.2.readFail.contains 0 = false ∧ 0 < orCount e.2.body ∧ e.2.capacity.contains 0 = false ∧ s.readOk e.2 0 [] = true ∧ (∃ w ∈ e.2.words, w.user = 0)) := by
  refine ⟨by decide, _, rfl, ?_⟩
  decide

theorem witness_reports : (let s := orderState 1 6 true { enabled := true, tc := 2 ^ 33 }
      ; (s.job 5).live = true ∧ (s.job 5).kind = 6 ∧ (s.job 5).state = .running ∧ (s.order (s.job 5).order).live = true ∧ s.reached 0 (s.cutoff (s.order 1).body) = true ∧ (∀ w ∈ (s.order 1).words, w.ended = true))
    ∧ (let s := orderState 2 0x14 true; (s.job 5).live = true ∧ (s.job 5).kind = 0x14 ∧ (s.job 5).state = .running ∧ (s.order (s.job 5).order).live = true) := by decide

theorem witness_fence_disposal : (State.reset).fenceQueue = []
    ∧ (let s : State := { jobState { live := true, kind := 0x20, state := .fenced, core := 0xFF } with fenceQueue := [5], fences := [⟨0, 0x40, 0, 1, 0, 5⟩], tallies := [(7, { holder := 5 })] }
      ; (s.job 5).kind = 0x20 ∧ (s.job 5).core = 0xFF ∧ (s.job 5).court < 16 ∧ (s.order (s.job 5).order).live = false ∧ (∀ e ∈ s.heldBy, e.2 ≠ 5 ∧ Tbl.get 0 s.handleFrom e.1 ≠ 5)
        ∧ (∀ e ∈ s.queues, 5 ∉ e.2.from_) ∧ (s.tally 7).holder = 5) := by decide

/-! ### Witnesses: Megorlink -/

theorem natOf_bytesOf (n x : Nat) : natOf (bytesOf n x) = x % 256 ^ n := by
  induction n generalizing x with
  | zero => simp [bytesOf, natOf, Nat.mod_one]
  | succ n ih =>
    have h : (BitVec.ofNat 8 x).toNat = x % 256 := by simp
    rw [bytesOf, natOf, ih, h, Nat.pow_succ', Nat.mod_mul]

@[simp] theorem length_bytesOf (n x : Nat) : (bytesOf n x).length = n := by
  induction n generalizing x with
  | zero => rfl
  | succ n ih => simp [bytesOf, ih]

/-- A flit of no payload is its header, 256 bytes and a trailer that holds the CRC-32 of both. -/
theorem flit_shape (h : Nat) : ∃ z : List Byte, z.length = 256 ∧ flitBytes h [] none = (bytesOf 8 h ++ z) ++ bytesOf 8 ((crc32 (bytesOf 8 h ++ z)).toNat * 2 ^ 32) :=
  ⟨([] : List Byte).take 256 ++ List.replicate (256 - ([] : List Byte).length) 0#8, by rw [List.length_append, List.take_nil, List.length_replicate]; rfl,
    by simp only [flitBytes, List.append_assoc, Nat.add_zero]⟩

/-- Header bits, CRC and trailer bits of such a flit. -/
theorem flit_facts (h : Nat) (hh : h < 2 ^ 64) :
    (∀ lo w, flNat (flitBytes h [] none) lo w = bits h lo w) ∧ flitOk (flitBytes h [] none) = true ∧ flTrailer (flitBytes h [] none) 0 19 = 0 := by
  obtain ⟨z, hz, e⟩ := flit_shape h
  have hb : (bytesOf 8 h ++ z).length = 264 := by rw [List.length_append, length_bytesOf, hz]
  have hc := (crc32 (bytesOf 8 h ++ z)).isLt
  have ht : fieldOf (flitBytes h [] none) 264 8 = (crc32 (bytesOf 8 h ++ z)).toNat * 2 ^ 32 := by
    rw [e, fieldOf, List.drop_left' hb, List.take_of_length_le (by rw [length_bytesOf]), natOf_bytesOf]
    exact Nat.mod_eq_of_lt (by omega)
  refine ⟨fun lo w => ?_, ?_, ?_⟩
  · have : fieldOf (flitBytes h [] none) 0 8 = h := by
      rw [e, fieldOf, List.drop_zero, List.append_assoc, List.take_left' (length_bytesOf 8 h), natOf_bytesOf]
      exact Nat.mod_eq_of_lt hh
    rw [flNat, this]
  · have hl : (flitBytes h [] none).length = 272 := by rw [e, List.length_append, hb, length_bytesOf]
    have hk : (flitBytes h [] none).take 264 = bytesOf 8 h ++ z := by rw [e, List.take_left' hb]
    have : flTrailer (flitBytes h [] none) 32 32 = (crc32 (bytesOf 8 h ++ z)).toNat := by
      rw [flTrailer, bits, ht, Nat.mul_div_cancel _ (by decide)]
      exact Nat.mod_eq_of_lt hc
    rw [flitOk, hl, hk, this, beq_self_eq_true, beq_self_eq_true]
    rfl
  · rw [flTrailer, bits, ht, Nat.pow_zero, Nat.div_one]
    omega

/-- The header of a DATA flit in the middle of a packet, with SEQ 0, whatever its KIND. -/
theorem header_bits : ∀ k : Fin 256, (let h := flitHeader 1 0 0 0 0 false false 0 0x1F k.val
    ; h < 2 ^ 64 ∧ bits h 0 16 = 0 ∧ bits h 16 8 = k.val ∧ bits h 60 4 = 1 ∧ bits h 34 1 = 0 ∧ bits h 36 12 = 0) := by decide

theorem witness_data_flit : ∃ f, flitOk f = true ∧ flitUnknown f = false ∧ flNat f 60 4 = 1 ∧ flNat f 34 1 = 0 ∧ flNat f 36 12 = 0 := by
  have hd : knownKind (Config.flitKind 0).toNat = true := by
    simp only [knownKind, List.any_eq_true, beq_iff_eq]
    exact ⟨0, by simp, rfl⟩
  obtain ⟨hl, h0, h16, h60, h34, h36⟩ := header_bits ⟨(Config.flitKind 0).toNat, (Config.flitKind 0).isLt⟩
  obtain ⟨hf, ho, ht⟩ := flit_facts _ hl
  refine ⟨_, ho, ?_, by rw [hf, h60], by rw [hf, h34], by rw [hf, h36]⟩
  rw [flitUnknown, hf, hf, hf, ht, h0, h60, h16, hd]
  rfl

/-- This chip is chip 0, with port 0 in a state. -/
def linkState (st : Nat) (x : MglPort := {}) : State :=
  { State.reset with chip := 0, obj := objs [(0x2610, 1, 1), (0x2610, 4, st)], mgl := { ports := [(0, x)] }, clock := 2 ^ 40 }

def flit9 : TxFlit := ⟨1, 0, 0, 1, true, true, []⟩

theorem witness_links : (let s := linkState 2; s.mportState 0 = 2 ∧ (s.mport 0).expect = 0 ∧ flitOk [] = false ∧ (s.mport 0).nakSent = false ∧ (recent (s.tb 0).tc 1966080 (s.mport 0).retries).length < s.get 0x2600 0x0B
        ∧ (recent (s.tb 0).tc 1966080000 (s.mport 0).trains).length < 2)
    ∧ ((linkState 2 { nakSent := true }).mport 0).nakSent = true ∧ ((linkState 2 { replay := [(7, flit9)] }).mport 0).replay.findIdx? (fun e => e.1 == 7) = some 0
    ∧ (linkState 4).mportState 0 = 4 ∧ 2 ≤ (recent ((linkState 4).tb 0).tc 1966080000 ((linkState 4 { trains := [0, 0] }).mport 0).trains).length ∧ (linkState 2).isFenced 6 0 = false
    ∧ (let s := linkState 1; s.mportState 0 = 1 ∧ s.get (mpIx 0) 1 = 1 ∧ (s.get (mpIx 0) 2 = 0xFF ∨ s.get (mpIx 0) 2 ≠ 1) ∧ s.chip ≠ 0xFF) := by decide

/-- Chip 0 of a system of two, with Rallies. -/
def sysState (l : List Rally) : State :=
  { State.reset with chip := 0, clock := 2 ^ 40, rallies := l, obj := objs [(0x2600, 4, 2), (0x2600, 5, 3), (0x2640, 1, 1), (0x2641, 1, 1)], mgl := { heard := [(1, 1)] } }
def rallyX : Rally := { id := 2 ^ 32 + 7, spans := true, state := .committed, parts := 3, coord := 0, serveAt := 2 ^ 39 }

theorem witness_members_and_votes : live (sysState []) ∧ ((sysState []).get 0x2600 5).testBit 1 = true ∧ (1 : Nat) ≠ (sysState []).chip ∧ (sysState []).memberState 1 ≠ 3 ∧ Tbl.get 0 (sysState []).mgl.heard 1 ≠ 0
    ∧ spansUs ((sysState []).get 0x2600 0x0A) (((Tbl.get 0 (sysState []).mgl.heard 1 : Nat) : Int) - 1) (sysState []).clock = true
    ∧ (sysState []).actingCoordinator = some (sysState []).chip ∧ ((sysState []).put 0x2641 1 3).actingCoordinator = some 0 ∧ ((sysState []).get 0x2600 5).testBit 0 = true ∧ (({ sysState [] with chip := 1 } : State).put 0x2641 1 3).actingCoordinator ≠ some 1
    ∧ (3 : Nat).testBit (sysState []).chip = true ∧ (sysState []).voteRally 7 = none ∧ ([⟨0x1000, 1, [0#8]⟩] : List RallyWrite).all writeOk = false
    ∧ (let s := sysState [rallyX]; s.voteRally 7 = some rallyX ∧ s.undecided rallyX = true ∧ rallyX.parts.testBit 1 = true ∧ (rallyX.yes ||| rallyX.noes).testBit 1 = false
        ∧ (rallyX.yes ||| rallyX.noes ||| 2 ^ 1) &&& rallyX.parts ≠ rallyX.parts ∧ s.beforeServe rallyX 500 = true ∧ rallyX.yes &&& rallyX.parts ≠ rallyX.parts ∧ s.rallyOf rallyX.id = some rallyX) := by
  refine ⟨⟨by decide, by decide⟩, ?_⟩
  decide

theorem witness_decisions : live (sysState [rallyX]) ∧ (sysState [rallyX]).voteRally 7 = some rallyX ∧ rallyX.pending = true ∧ rallyX.decision = none ∧ (sysState [rallyX]).beforeServe rallyX 20 = true
    ∧ (∃ x ∈ ([((1 : Fin 24), true)] : List (Fin 24 × Bool)), rallyX.parts.testBit x.1 = true ∧ x.2 = true) ∧ (sysState [{ rallyX with decision := some true }]).voteRally 7 = some { rallyX with decision := some true } := by
  refine ⟨⟨by decide, by decide⟩, ?_⟩
  decide

/-- A unit of carrier 0, symbol 0, chunk 0, kind 2 at this chip's home, still without chip 1's part, and the job that waits for it. -/
def unit0 (done : Bool) : RedHeld := { carrier := 0, sym := 0, chunk := 0, kind := 2, home := 0, mask := 1, via := [0], members := 3, kids := [1], done := done }
def unitState : State :=
  { sysState [] with mgl := { units := [unit0 false] }, jobs := [(5, { live := true, kind := 2, deadline := some 0 })], tbs := [(0, { enabled := true })] }

theorem witness_reductions_chip : unitState.get 0x2600 5 ≠ 0 ∧ unitState.get 0x2600 0x0D ≠ 1 ∧ (unit0 false).is 0 0 0 2 0 = true ∧ (1 : Nat) ∉ (unit0 false).via ∧ (1 : Nat) ∈ (unit0 false).kids
    ∧ unitState.isFenced 10 unitState.chip = false ∧ unitState.unitJob 0 0 0 2 = some 5 ∧ (unitState.job 5).deadline = some 0 ∧ unitState.reached 0 (unitState.tcOf 0 0) = true
    ∧ ((jobState y5 { ctx5 with engines := [(0, { outstanding := [130] })] }).engine 0 0 0).outstanding = [130] := by decide

/-- AUDIT_TB runs; one credit is out that no engine has taken. -/
def auditState : State := { State.reset with tbs := [(0, { enabled := true, tc := 2 ^ 33 })], credits := [(3, 1)] }

theorem witness_audit_credit : auditState.creditDiff 3 = -1 ∧ (auditState.tb (auditState.get 0x3191 1 % 8)).enabled = true ∧ auditState.cut = false ∧ auditState.audit.last = none
    ∧ (let s : State := { auditState with audit := { due := [(⟨1, 3⟩, 0, 0)] } }; s.reached 0 0 = true ∧ s.bookHolders ⟨1, 3⟩ = []) := by decide

/-! ### Witnesses: fronthaul -/

/-- Carrier 0 of Court 0: both directions on fronthaul port 0, one antenna port, 52 uncompressed PRBs, two symbols of buffer each way; reception from the air end of a symbol to 70,000 Tc
later, transmission from 90,000 to 10,000 Tc before its start. Time base 0 stands in symbol 2. -/
def fhState (j : Tbl Job := []) (o : Tbl Order := []) : State :=
  { State.reset with
    obj := objs [(0x2200, 2, 0x123456789ABC), (0x2200, 4, 1), (0x2300, 1, 3), (0x2300, 3, 52), (0x2300, 4, 1), (0x2300, 5, 1), (0x2300, 10, 70000), (0x2300, 11, 90000), (0x2300, 12, 10000),
      (0x2380, 2, 0x10000), (0x2380, 3, 2), (0x2380, 4, 2), (0x3000, 2, 1)],
    tbs := [(0, { enabled := true, tc := 200000 })], tallies := [(0xFFF8, { count := 2 })], jobs := j, orders := o }

theorem witness_windows_fh : (let s := fhState; s.carUl 0 = true ∧ (s.tb (s.carTb 0)).enabled = true ∧ s.passed (s.carTb 0) (s.ulOpen 0 1) = true ∧ s.passed (s.carTb 0) (s.ulClose 0 1) = false
      ∧ s.passed (s.carTb 0) (s.ulClose 0 0) = true ∧ s.slotSymbol 0 false 1 ≠ 1)
    ∧ (∀ d ∈ [[], [6]], (let s := fhState [(5, { live := true, kind := 1, release := (fhState).airOf 0 ((fhState).ulClose 0 0), deps := d }), (6, { live := true, state := .running })]
      ; ((s.jobs.filter fun e => e.2.live && e.2.state == .waiting && decide (1 ≤ e.2.kind ∧ e.2.kind ≤ 4) && e.2.carrier == 0 && e.2.release == s.airOf (s.carTb 0) (s.ulClose 0 0)).map fun e => e.1) = [5]
        ∧ s.releasable 5 = (d == []) ∧ (s.job 5).kind = 1 ∧ (s.job 5).court < 16)) := by decide

/-- The air position of a message: subframe 0, slot 0, symbol `sym`, of frame 0. -/
def fhAir (sym : Nat) : Nat := (fhState.frameOf 0 0) / 1024 * 2 ^ 48 + (fhState.frameOf 0 0) % 1024 * 2 ^ 38 + sym * 2 ^ 24
def fhSymbol (sym : Nat) : Nat := fhState.symNumber 0 (airposToTc (fhState.tbMu 0) (fhState.tbEcp 0) (fhAir sym))
/-- The slot of symbol 1 open for reception, with PRB 3 present or not. -/
def fhOpen (prb : Nat) : State :=
  let s := fhState
  { s with mem := memPutNat (memPutNat (memPutNat s.mem 4 (s.slotAddr 0 false 1) 1) 8 (s.slotAddr 0 false 1 + 8) (s.airOf 0 (s.symStartTc 0 1))) 8 (s.slotAddr 0 false 1 + 64) prb }

theorem witness_reception : receives fhState 0 ∧ fhState.carrierOfEaxc 0 5 = none ∧ fhState.carrierOfEaxc 0 0 = some 0 ∧ airCanonical (fhState.tbMu 0) (fhState.tbEcp 0) (fhAir 14) = false
    ∧ (∀ n ∈ [0, 1, 2], airCanonical (fhState.tbMu 0) (fhState.tbEcp 0) (fhAir n) = true ∧ fhSymbol n = n) ∧ prbBytes (fhState.carWidth 0 false) = 28
    ∧ fhState.passed 0 (fhState.ulOpen 0 2) = false ∧ fhState.passed 0 (fhState.ulOpen 0 0) = true ∧ fhState.passed 0 (fhState.ulClose 0 0) = true
    ∧ (∀ v ∈ [0, 8], (let s := fhOpen v; s.tdOn 0 = false ∧ s.get 0x5300 0x0B ≠ 1 ∧ s.slotSymbol 0 false 1 = 1 ∧ memNat s.mem 8 (s.slotAddr 0 false 1 + 8) = s.airOf 0 (s.symStartTc 0 1)
        ∧ s.present 0 false 1 0 3 = (v == 8))) := by
  refine ⟨⟨by decide, by decide⟩, ?_⟩
  decide

/-- A downlink order of carrier 0 with every symbol of the slot that begins at the Tc count 0. -/
def dlOrder : Tbl Order := [(1, { live := true, kind := 2, body := [2#8] ++ List.replicate 23 0#8 ++ [0xFF#8, 0x3F#8] ++ List.replicate 38 0#8 })]
/-- Symbol 4 is at its slot for transmission, with PRB 3. -/
def txState : State :=
  let s := fhState [] dlOrder
  { s with mem := memPutNat (memPutNat [] 4 (s.slotAddr 0 true 4) 4) 8 (s.slotAddr 0 true 4 + 64) 8 }

/-- The order with one entry of 52 PRBs that is homed on another chip, and the symbol's DL_SYMBOL done in time. -/
def dlOrder2 : Tbl Order :=
  [(1, { live := true, kind := 2, home := some [],
         body := [2#8, 0#8, 0#8, 0#8, 0#8, 1#8] ++ List.replicate 18 0#8 ++ [0xFF#8, 0x3F#8] ++ List.replicate 38 0#8
           ++ [0#8, 0#8, 0#8, 1#8] ++ List.replicate 10 0#8 ++ [52#8, 0#8, 0#8, 14#8] ++ List.replicate 46 0#8 })]
def unfedState : State := { fhState [(5, { live := true, order := 1, sym := 4, kind := 0x12, done := true, nprb := 4 })] dlOrder2 with chip := 0 }

theorem witness_unfed : (let s := unfedState; s.symbolDone 1 4 = true ∧ s.missingHomes 1 4 = [1] ∧ s.dlOrderOf 0 4 = some (1, 4) ∧ s.carDl 0 = true ∧ s.passed 0 (s.dlOpen 0 4) = true
    ∧ s.passed 0 (s.dlClose 0 4) = false ∧ (s.order 1).tried.getLsbD 4 = false ∧ (s.order 1).carrier = 0)
    ∧ (let s : State := { fhState with cplane := [⟨1, 0, true, 1, 0, 0, []⟩], obj := objs [(0x2300, 4, 2)] }; (0 : Int) ≤ (s.tb (s.carTb 0)).tc ∧ s.cut = false ∧ 0 + 1 < s.localPorts 0) := by decide

theorem witness_transmission : (let s := txState; s.carDl 0 = true ∧ s.passed 0 (s.dlOpen 0 4) = true ∧ s.passed 0 (s.dlClose 0 4) = false ∧ s.dlOrderOf 0 4 = some (1, 4) ∧ (s.order 1).tried.getLsbD 4 = false
      ∧ s.cut = false ∧ s.symbolDone 1 4 = true ∧ (s.order 1).carrier = 0 ∧ ({ s with jobs := [(5, { live := true, order := 1, sym := 4, kind := 0x12 })] } : State).symbolDone 1 4 = false
      ∧ s.missingHomes 1 4 = [] ∧ s.removedMember = false ∧ s.slotSymbol 0 true 4 = 4 ∧ s.localPorts 0 = 1 ∧ s.txUnits 0 4 0 = [3] ∧ s.get (0x2200 + s.portOf 0 0) 4 = 1 ∧ s.passed 0 (s.dlClose 0 3) = false ∧ s.passed 0 (s.dlClose 0 2) = true)
    ∧ (∀ m < 64, ∀ e < 4, (((fhState).core m).curCtx.engine e).wait = .none)
    ∧ (let s := fhState; 0 + 1 < ({ s with obj := objs [(0x2300, 4, 2)] } : State).localPorts 0) := by decide

/-! ### Witnesses: object access -/

/-- A request on the physical function's ring: opcode, the COURT and SUB fields, index, flags, payload. -/
def req (op court sub index flags : Nat) (p : List Byte) : OapReq :=
  let b := [1#8] ++ bytesOf 1 op ++ bytesOf 2 1 ++ bytesOf 1 court ++ bytesOf 1 sub ++ bytesOf 2 index ++ bytesOf 2 p.length ++ bytesOf 1 flags ++ List.replicate 3 0#8
  { chan := .pcie 0, frame := b ++ bytesOf 2 (headerCheck b) ++ p }

/-- Firmware serves requests, and the reply ring of the physical function has room. -/
def oapState (l : List Rally := []) : State :=
  { State.reset with chip := 0, clock := 2 ^ 40, rallies := l, firm := { steps := [(6, 1)] }, obj := objs [(0x1001, 4, 0)], tbs := [(0, { enabled := true, tc := 200000 })],
                     funcs := [(0, { rings := [(1, { base := hostBase, size := 6, sized := true, ctrl := 1 })] })] }

/-- Whether `accepted` holds on the physical function, as a test. -/
def acceptedB (op : Nat) (q : OapReq) (s : State) : Bool :=
  let h := headOf q.frame
  let s1 := used 0 s
  decide (q.chan = .pcie 0) && s.serves_ q.chan && !badFrame q.frame && decide (h.opcode = op) && !s.chanBusy 0 && !s.injecting && decide (s.get 0x5300 0x0B ≠ 1)
    && decide ((s.chan 0).seq = none) && !s1.tooLong (s1.chan 0) h (replyLimit (s1.chan 0) 0 q.cap.toNat q.replyAddr.toNat) (q.frame.drop 16) && !s1.scopeDenied (s1.chan 0) h

theorem acceptedB_sound (op : Nat) (q : OapReq) (s : State) (h : acceptedB op q s = true) : accepted op 0 q s := by
  simp only [acceptedB, Bool.and_eq_true, decide_eq_true_eq, Bool.not_eq_true'] at h
  obtain ⟨⟨⟨⟨⟨⟨⟨⟨⟨h0, h1⟩, h2⟩, h3⟩, h5⟩, h6⟩, h7⟩, h8⟩, h9⟩, h10⟩ := h
  refine ⟨h1, by simpa using h2, h3, by rw [h0]; rfl, h5, h6, h7, fun x hx => ?_, h9, h10⟩
  rw [h8] at hx
  exact absurd hx (by simp)

/-- Whether an object may be the target of a request, its row having a property. -/
def targets (q : OapReq) (s : State) (write : Bool) (ok : ObjRow → Bool) : Bool :=
  match (used 0 s).target ((used 0 s).chan 0) (headOf q.frame) write with
  | .ok row => ok row
  | .error _ => false

/-- A Rally of the device that the physical function holds open, and one that is frozen. -/
def open1 : Rally := { id := 1, scope := 16, lastUse := 0 }

theorem witness_object_access : acceptedB 1 (req 1 0x80 3 0x1000 0 []) oapState = true ∧ targets (req 1 0x80 3 0x1000 0 []) oapState false (fun _ => true) = true
    ∧ acceptedB 3 (req 3 0x80 1 0x1000 0 (List.replicate 8 0#8)) oapState = true ∧ targets (req 3 0x80 1 0x1000 0 (List.replicate 8 0#8)) oapState false (fun r => r.ty.size == none) = true
    ∧ (∀ e ∈ [(req 2 0x80 3 0x1000 0 [0#8], fun (r : ObjRow) => r.access == .ro), (req 2 0x80 3 0x1120 0 [0#8], fun r => r.access == .rw && checkValue r [0#8] == 0x13),
        (req 2 0x80 1 0x4100 0 [2#8], fun r => r.access == .rwc && checkValue r [2#8] == 0), (req 2 0x80 1 0x2661 0 [], fun r => r.access == .wo && r.effect != .boot && checkValue r [] == 0)],
      acceptedB 2 e.1 oapState = true ∧ targets e.1 oapState true e.2 = true)
    ∧ acceptedB 4 (req 4 0x80 6 0x2001 2 (List.replicate 5 0#8)) oapState = true ∧ targets (req 4 0x80 6 0x2001 2 (List.replicate 5 0#8)) oapState true (fun r => r.access == .rw && r.ty.size == none) = true
    ∧ oapState.serves_ (.pcie 0) = true ∧ badFrame [] = true ∧ ({ oapState with obj := objs [(0x2600, 5, 3)] } : State).isMember 1 = true := by decide

theorem witness_staging : (let s := oapState [open1]; let w : Staged := ⟨okey 0x4100 1, 2, [], false⟩
      ; acceptedB 2 (req 2 0x80 1 0x4100 0 [2#8]) s = true ∧ (used 0 s).openRally 16 = some open1 ∧ w.key ≠ fwActivateKey ∧ (used 0 s).modelWriteOk w = true ∧ (used 0 s).toLoad w = []
        ∧ (used 0 s).rallyFull open1 w = false ∧ (used 0 s).stagedElsewhere open1.scope w.key = false) := by decide

/-- A commit of Rally 1 on time base 0 at an AIRPOS. -/
def commitReq (air : Nat) : OapReq := req 0x11 0x80 0 0 0 (bytesOf 4 1 ++ List.replicate 4 0#8 ++ bytesOf 8 air)
def commitAt (air : Nat) : Option (Nat × Nat) := let s := oapState [open1]; ((used 0 s).touch open1).commitCheck { open1 with lastUse := s.clock } 0 air true

theorem witness_rally_begin : acceptedB 0x10 (req 0x10 0x80 0 0 0 []) oapState = true ∧ oapState.recovery = false ∧ oapState.get 0x31A0 9 = 0 ∧ oapState.openRally 16 = none ∧ (oapState [open1]).openRally 16 ≠ none := by decide

theorem witness_rally_end : (let s := oapState [open1]; (∀ air ∈ [10 * 2 ^ 38, 0], acceptedB 0x11 (commitReq air) s = true) ∧ (used 0 s).rallyNamed (headOf (commitReq 0).frame) 1 = some open1
      ∧ acceptedB 0x12 (req 0x12 0x80 0 0 0 (bytesOf 4 1)) s = true ∧ acceptedB 0x13 (req 0x13 0x80 0 0 0 (bytesOf 4 1)) s = true ∧ open1.state = .opened ∧ open1.chan = 0) := by decide

theorem witness_rally_commit : commitAt (10 * 2 ^ 38) = none := by decide
theorem witness_rally_refused : commitAt 0 = some (0x22, 0) := by decide

theorem witness_simple_requests : acceptedB 0 (req 0 0x80 0 0 0 []) oapState = true ∧ (oapState.tb 0).enabled = true
    ∧ (∀ seq ∈ [0, 1], acceptedB 0x20 (req 0x20 0x80 0 0 0 (bytesOf 4 0x7FFF ++ bytesOf 4 seq)) oapState = true) ∧ oapState.getB 0 0x1100 2 = 0 ∧ oapState.fixedBreach = false
    ∧ (let s := oapState.settle; ∀ g < 16, s.getB g 0x1100 1 = s.dswUpper g)
    ∧ acceptedB 0x21 (req 0x21 0x80 0 0 0 (bytesOf 2 1000)) oapState = true := by decide

theorem witness_timers : (let s := { oapState with chans := [(0, { freshChan 0 with rate := 10 }), (16, { freshChan 16 with addr := sourceOf 1 2 })] }
      ; s.serving = true ∧ (s.chan 0).rate ≠ 0 ∧ (s.tb (s.chan 0).tb).enabled = true ∧ (s.chan 0).beat ≠ some (s.beatNow (s.chan 0).tb (s.chan 0).rate) ∧ s.replyRoom 0 = true
        ∧ s.mgmtChan (sourceOf 1 2) = some 16 ∧ s.longSince (1000000 * s.get 0x1120 3) (s.chan 16).lastUse = true)
    ∧ (oapState [open1]).openRally 16 = some open1 ∧ spansUs ((oapState [open1]).getB 16 0x1200 1 * 1000) open1.lastUse (oapState [open1]).clock = true := by decide

theorem witness_freeze_and_serve : (let r : Rally := { open1 with state := .committed }; let s := oapState [r]
      ; s.pendingInOrder = [r] ∧ s.rallyOf 1 = some r ∧ s.reached 0 ((s.tcOf 0 0 + airPeriod - 98304) % airPeriod) = true ∧ s.freezeCause r = 0)
    ∧ (let r : Rally := { open1 with state := .frozen, scope := 0, staged := [⟨okey 0x4100 1, 2, [], false⟩] }; (oapState [r]).cut = false ∧ 0x4100 ≤ okey 0x4100 1 / 256 ∧ okey 0x4100 1 / 256 < 0x4120
        ∧ (oapState [r]).reached 0 ((oapState [r]).tcOf 0 0 % airPeriod) = true ∧ r.writesSf = false ∧ (oapState [r]).jobs = []) := by decide

theorem witness_waits : (let w : OapWait := ⟨0, List.replicate 16 0#8, 0, 0, 0, .relay 1 0, 0, false⟩; let s := { oapState with waits := [w] }
      ; s.chanKey (.pcie 0) = some 0 ∧ s.relayWait (.pcie 0) = some w ∧ ([] : List Byte).length ≤ replyLimit (s.chan 0) 0 0 0 ∧ s.longSince 10000 0 = true
      ∧ (let v : OapWait := { w with kind := .whistle }; let z : State := { oapState with waits := [v], obj := objs [(0x1001, 4, 0), (0x5300, 5, 1)] }
        ; z.relayWait (.pcie 0) = none ∧ (z.waits.find? fun w => w.chan == 0 && w.kind == .whistle) = some v ∧ v.dead = false ∧ z.queued = [] ∧ z.longSince 10000 v.since = true ∧ z.get 0x5300 5 = 1)
      ∧ s.serves_ (.pcie 0) = true ∧ badFrame (req 1 0x80 3 0x1000 0 []).frame = false ∧ (headOf (req 1 0x80 3 0x1000 0 []).frame).opcode = 1 ∧ s.chanBusy 0 = true ∧ (s.queued.filter fun e => e.1 == 0).length < 64 ∧ s.queued = []) := by decide

/-! ### Witnesses: coding, transforms, adaptation -/

/-- An order of one entry of 200 bits on carrier 0, with one block of the codeword `cw`, whose coding job is 5. -/
def codeState (kind orderKind cw : Nat) (y : Job) (handle : Option (Nat × Nat)) : State :=
  { State.reset with
    chip := 0, tbs := [(0, { enabled := true })], jobs := [(5, { y with live := true, kind := kind, order := 1, cw := cw })], clock := 2 ^ 40,
    obj := objs [(0x2300, 3, 52), (0x2300, 4, 1), (0x4240, 4, 2)],
    orders := [(1, { live := true, kind := orderKind, words := [{ user := 0, cw := cw, begun := true, blocks := [{ job := 5, handle := handle }] }],
                     body := [BitVec.ofNat 8 orderKind, 1#8, 128#8, 0#8, 0#8, 1#8] ++ List.replicate 58 0#8 ++ [1#8, 0#8, 0#8, 0#8, 0#8, 2#8, 0#8, 2#8, 200#8, 0#8, 0#8, 0#8, 0#8, 0#8, 10#8, 0#8, 0#8, 2#8, 0#8, 1#8] ++ List.replicate 44 0#8 })],
    pools := [(2, { live := true, base := 0x100000, bufSize := 4096, count := 4, freeQueue := 9 })], queues := [(9, { live := true, pool := 2, items := [1, 3], from_ := [0, 0] })] }
/-- Engine e works for the job. -/
def onEngine (e kind cw : Nat) (handle : Option (Nat × Nat)) : State :=
  { codeState kind (if kind = 5 then 1 else 2) cw { state := .running } handle with coding := [(e, { state := 1, job := 5, cap := 3 })] }
def worksForB (s : State) (e j kind : Nat) : Bool :=
  decide ((s.engineC e).state = 1) && decide ((s.engineC e).job = j) && decide ((s.job j).live = true ∧ (s.job j).state ≠ .fenced ∧ (s.job j).state ≠ .completed) && decide ((s.job j).kind = kind)
    && decide ((s.job j).court < 16) && decide (s.get 0x5300 0x0B ≠ 1) && ((s.order (s.job j).order).word (s.job j).user (s.job j).cw).any fun w => decide ((s.job j).blk < w.blocks.length)

theorem worksForB_sound (s : State) (e j kind : Nat) (h : worksForB s e j kind = true) : worksFor s e j kind := by
  simp only [worksForB, Bool.and_eq_true, decide_eq_true_eq, Option.any_eq_true] at h
  obtain ⟨⟨⟨⟨⟨⟨h1, h2⟩, h3⟩, h4⟩, h5⟩, h6⟩, w, hw, h7⟩ := h
  exact ⟨h1, h2, h3, h4, h5, h6, w, hw, by simpa using h7⟩

theorem witness_coding_dispatch : (State.reset.codingQueue 0 = [])
    ∧ (let s := codeState 5 1 0 { state := .ready, queued := true, deadline := some (2 ^ 38) } none
      ; s.cut = false ∧ s.idleEngine 0 = some 0 ∧ s.codingQueue 0 = [5] ∧ (s.job 5).kind = 5 ∧ 0 < s.iterCap 5 ∧ s.keptBits 5 = none ∧ ∃ w, (s.order 1).word 0 0 = some w ∧ w.begun = true)
    ∧ (let s := codeState 0x11 2 0 { state := .ready, queued := true } none
      ; s.idleEngine 1 = some 8 ∧ s.codingQueue 1 = [5] ∧ (s.job 5).kind = 0x11 ∧ (s.hqueue (s.freeQueueKey (s.get (0x4240 + (s.job 5).carrier) 4))).items = [1, 3]) := by
  refine ⟨by decide, ⟨by decide, by decide, by decide, by decide, by decide, by decide, _, rfl, by decide⟩, by decide⟩

theorem witness_coding_ends : worksForB (onEngine 0 5 0 none) 0 5 5 = true ∧ worksForB (onEngine 8 0x11 0 (some (2, 1))) 8 5 0x11 = true ∧ worksForB (onEngine 12 5 2 none) 12 5 5 = true
    ∧ worksForB (onEngine 12 0x11 0 (some (2, 1))) 12 5 0x11 = true ∧ (∀ b, blockOf (onEngine 8 0x11 0 (some (2, 1))) 5 = some b → b.handle = some (2, 1))
    ∧ (∀ b, blockOf (onEngine 12 0x11 0 (some (2, 1))) 5 = some b → b.handle = some (2, 1)) ∧ ((onEngine 0 5 0 none).order 1).word 0 0 = some { user := 0, cw := 0, begun := true, blocks := [{ job := 5 }] } := by
  have one : ∀ e, (e = 8 ∨ e = 12) → ∀ b, blockOf (onEngine e 0x11 0 (some (2, 1))) 5 = some b → b.handle = some (2, 1) := by
    intro e he b h
    have : blockOf (onEngine e 0x11 0 (some (2, 1))) 5 = some { job := 5, handle := some (2, 1) } := by rcases he with rfl | rfl <;> decide
    rw [this, Option.some.injEq] at h
    rw [← h]
  exact ⟨by decide, by decide, by decide, by decide, one 8 (.inl rfl), one 12 (.inr rfl), by decide⟩

/-- Engines with no faults so far, and with two within the last second. -/
def faulty (l : List Nat) (st : Nat) : State :=
  { jobState { live := true, kind := 5, state := .running } with coding := [(0, { state := st, job := 5, faults := l })], transforms := [(0, { state := st, job := 5, faults := l })] }

theorem witness_engine_faults : (let s := faulty [] 1; (s.engineC 0).state = 1 ∧ (s.job (s.engineC 0).job).kind = 5 ∧ (s.job 5).live = true ∧ (s.job 5).state = .running ∧ s.isFenced 7 0 = false ∧ s.isFenced 8 0 = false)
    ∧ (∀ l ∈ [[], [0, 0]], (let s := faulty l 1; ((s.engineC 0).faults.filter fun t => decide (airDiff t (s.tb 0).tc < 1966080000)).length = l.length ∧ (s.xfEngine 0).faults = l))
    ∧ ((faulty [] 2).engineC 0).state = 2 ∧ ((faulty [] 2).xfEngine (14 - 14)).state = 2 := by decide

/-- A UL_FRONT of carrier 0, in time-domain mode with a transform of 1024, works on engine 0, or waits for it. -/
def xfState (st : Nat) (ports : Option (List Nat)) : State :=
  { State.reset with
    tbs := [(0, { enabled := true })], jobs := [(5, { live := true, kind := 1, state := .running, order := 1, ports := ports })], transforms := [(0, { state := st, job := 5 })],
    obj := objs [(0x2300, 3, 52), (0x2300, 4, 1), (0x4300, 1, 1), (0x4300, 2, 1024), (0x4300, 4, 2)],
    orders := [(1, { live := true, kind := 1, body := [1#8, 1#8] ++ List.replicate 62 0#8 })] }

theorem witness_transforms : (let s := xfState 0 (some [0]); (s.xfEngine 0).state = 0 ∧ s.cut = false ∧ s.nextTransform = some (5, 0))
    ∧ (let s := { xfState 1 (some []) with chip := 0 }; (s.xfEngine 0).state = 1 ∧ (s.job (s.xfEngine 0).job).kind = 1 ∧ (s.order (s.job 5).order).live = true ∧ s.tdOn 0 = true ∧ (s.xfEngine 0).port < s.localPorts 0
        ∧ 12 * s.car 0 3 ≤ s.get 0x4300 2) := by decide

/-- Court 0 collects for model 7, or has a candidate. -/
def adaptState (st pages : Nat) : State :=
  { State.reset with obj := objs [(0x4060, 1, 1), (0x4060, 2, 7), (0x4060, 3, 4), (0x4060, 7, 100), (0x4060, 10, st)], adaptSlots := [(0, 4)], lib := [(7, { live := true, pages := pages })] }

theorem witness_adaptation : (let s := adaptState 2 10; s.get 0x4060 1 = 1 ∧ s.get 0x4060 0x0A = 2 ∧ s.get 0x4060 3 ≤ Tbl.get 0 s.adaptSlots 0 ∧ s.get 0x4060 7 = 100
      ∧ s.libUsed + (s.model 7).pages * 65536 ≤ libTotal)
    ∧ libTotal < (adaptState 2 2000).libUsed + ((adaptState 2 2000).model 7).pages * 65536 ∧ (adaptState 3 10).get 0x4060 0x0A = 3 := by decide

/-- The first free candidate number. -/
theorem witness_candidate (n : Nat) (s : State) (h : (s.model 0x8000).live = false) : ((List.range (n + 1)).map (fun i => 0x8000 + i)).find? (fun m => !(s.model m).live) = some 0x8000 := by
  rw [List.range_succ_eq_map]
  simp [h]

theorem witness_candidate_id : (adaptState 2 10).candidateId = some 0x8000 ∧ (adaptState 2 2000).candidateId = some 0x8000 :=
  ⟨witness_candidate 32766 _ (by decide), witness_candidate 32766 _ (by decide)⟩

/-! ### Witnesses: clocks and pins -/

/-- Time base 0 in a state, at a symbol boundary or between two. -/
def tbState (x : TimeBase) (l : List (Nat × Nat × Nat) := []) : State := { State.reset with clock := 2 ^ 40, obj := objs l, tbs := [(0, { x with enabled := true })] }

theorem witness_time_bases : (let s := tbState { tc := 8 }; (s.tb 0).enabled = true ∧ (s.tb 0).nextSym ≤ (symbolOf (s.tbMu 0) (s.tbEcp 0) (s.tb 0).tc).1)
    ∧ (let s := tbState { nextSym := 1 }; (symbolOf (s.tbMu 0) (s.tbEcp 0) (s.tb 0).tc).1 < (s.tb 0).nextSym) ∧ (State.reset.tb 1).enabled = false
    ∧ (∀ st ∈ [TbState.acquiring, .freqLocked, .locked], (let s := tbState { state := st, inUse := true, prim := some 0 } [(tbIx 0, 5, 1)]; s.tbSource 0 ≠ 3 ∧ (s.tb 0).state = st ∧ (s.tb 0).enabled = true ∧ (s.tb 0).inUse = true)) := by decide

/-- Time base 0 with a qualified PTP source that has no master left, and a fallback. -/
def lossState (st : TbState) (fb : Option Int) (referenced : Bool) : State :=
  tbState { state := st, prim := some 0, fb := fb, inUse := true } ([(tbIx 0, 5, 1), (tbIx 0, 7, 2)] ++ if referenced then [(0x2300, 1, 1)] else [])

theorem witness_source_loss : (let s := tbState {} [(tbIx 0, 5, 3), (tbIx 0, 6, 1)]; ({ s with tbs := Tbl.set {} s.tbs 1 { enabled := true } } : State).sourceGone 0 false = false)
    ∧ (∀ st ∈ [TbState.acquiring, .freqLocked, .locked, .holdover], (let s := lossState st none false; s.sourceGone 0 false = true ∧ (s.tb 0).enabled = true ∧ (s.tb 0).prim.isSome = true ∧ (s.tb 0).onFallback = false
      ∧ s.get (tbIx 0) 5 ≠ 3 ∧ (s.tb 0).fb = none ∧ (s.tb 0).state = st))
    ∧ (let s := lossState .locked (some 9) true; (s.tb 0).fb = some 9 ∧ s.get (tbIx 0) 7 ≠ 3 ∧ (s.tb 0).inUse = true ∧ s.tbReferenced 0 = true ∧ (9 : Int).natAbs ≤ s.get (tbIx 0) 0x0D * 4)
    ∧ (lossState .locked (some 9) false).tbReferenced 0 = false
    ∧ (let s := lossState .locked (some 400000) true; s.tbReferenced 0 = true ∧ s.get (tbIx 0) 0x0D * 4 < (400000 : Int).natAbs) := by decide

theorem witness_source_qualified : offsetsAgree (List.replicate 7 0#64 ++ [4#64]) = true ∧ ¬ offsetsAgree [4#64] = true ∧ ((List.replicate 7 0#64 ++ [4#64]).getLastD 0#64).toInt = 4
    ∧ offsetsAgree (List.replicate 8 400000#64) = true ∧ ((List.replicate 8 400000#64).getLastD 0#64).toInt = 400000
    ∧ (∀ l ∈ [[], [(0x2300, 1, 1)]], (let s := tbState { state := .freerun, masters := [{}] } ([(tbIx 0, 5, 1)] ++ l); s.sourceReady 0 (s.get (tbIx 0) 5) = true ∧ (s.tb 0).enabled = true ∧ (s.tb 0).inUse = false
      ∧ (s.tbReferenced 0 = true ↔ l ≠ []) ∧ (4 : Int).natAbs ≤ s.get (tbIx 0) 0x0D * 4 ∧ s.get (tbIx 0) 0x0D * 4 < (400000 : Int).natAbs)) := by decide

theorem witness_sources : (∀ sub ∈ [0, 1, 2], (tbState {}).followOk 0 (5 + sub) 1 = true) ∧ (tbState {}).followOk 0 5 3 = false
    ∧ (∀ st ∈ [TbState.freqLocked, .locked], (let s := tbState { state := st, prim := some 0, inUse := true } [(tbIx 0, 5, 2)]; s.followOk 0 5 1 = true ∧ (1 : Nat) ≠ s.get (tbIx 0) 5 ∧ s.get (tbIx 0) 7 ≠ 3 ∧ (s.tb 0).enabled = true
      ∧ (s.tb 0).onFallback = false ∧ (s.tb 0).fb = none ∧ (s.tb 0).state = st))
    ∧ (let s := tbState { state := .holdover, prim := some 80 } [(tbIx 0, 5, 1), (tbIx 0, 0x11, 2)]; (s.tb 0).state = .holdover ∧ s.get (tbIx 0) 0x11 = 2 ∧ (s.tb 0).inUse = false ∧ s.tbSource 0 ≠ 3)
    ∧ ¬ ((tbState {}).tb 0).state = .holdover
    ∧ (∀ l ∈ [[], [(0x2300, 1, 1)]], (let s := tbState { step := 5, prim := some 100 } ([(tbIx 0, 5, 1)] ++ l); (s.tb 0).enabled = true ∧ (s.tb 0).step ≠ 0 ∧ s.tbJobs 0 = false
      ∧ isBoundary (s.tbMu 0) (s.tbEcp 0) ((s.tb 0).tc % airPeriod) = true ∧ s.tbSource 0 ≠ 3 ∧ (s.tbReferenced 0 = true ↔ l ≠ [])))
    ∧ ((tbState {}).tb 0).step = 0 := by decide

/-- A PTP frame to the port's address, of a message type and version, from domain 24 and the clock 1 port 0; and one over UDP and IPv4 from 10.0.0.1. -/
def ptpMsg (type version : Nat) : List Byte := [BitVec.ofNat 8 type, BitVec.ofNat 8 version] ++ List.replicate 2 0#8 ++ [24#8] ++ List.replicate 15 0#8 ++ List.replicate 9 0#8 ++ [1#8] ++ List.replicate 34 0#8
def ptpFrame (type version : Nat) : List Byte := bytesBe 6 0x123456789ABC ++ bytesBe 6 7 ++ [0x88#8, 0xF7#8] ++ ptpMsg type version
def ptpState (role : Nat) (masters : List PtpMaster := []) : State :=
  { tbState { masters := masters } [(tbIx 0, 5, 1), (0x2001, 1, role % 2), (0x2001, 3, 1), (0x2001, 4, role), (0x2200, 2, 0x123456789ABC), (0x2200, 4, 1)] with firm := { steps := [(6, 1)] } }
def ptpParent : PtpMaster := { source := List.replicate 9 0#8 ++ [1#8] }

theorem witness_ptp : (∀ e ∈ [(2, 0), (2, 8), (2, 9), (2, 11), (1, 0)], (let s := ptpState 0 [ptpParent]; let m := ptpMsg e.2 e.1
      ; s.get 0x2200 4 = 1 ∧ s.frameForPort 0 (ptpFrame e.2 e.1) = true ∧ ptpOf (ptpFrame e.2 e.1) = some (false, [], m) ∧ s.ptpPort 0 (natOfBe ((m.drop 4).take 1)) false [] = some 0 ∧ 64 ≤ m.length
        ∧ natOfBe ((m.drop 1).take 1) % 16 = e.1 ∧ natOfBe (m.take 1) % 16 = e.2 ∧ (s.get 0x2001 3).testBit 0 = true ∧ ((s.tb 0).master.map fun z => z.source) = some ((m.drop 20).take 10)))
    ∧ (let s := ptpState 0; ¬ ((s.tb 0).master.map fun z => z.source) = some (((ptpMsg 0 2).drop 20).take 10))
    ∧ ptpOf (bytesBe 6 1 ++ bytesBe 6 7 ++ [8#8, 0#8]) = none
    ∧ (let s := ptpState 2; let s1 : State := { s with obj := objs [(tbIx 0, 5, 1), (0x2001, 4, 1), (0x2200, 2, 0x123456789ABC), (0x2200, 4, 1)] }
      ; s1.ptpPort 0 24 false [] = some 0 ∧ (s1.get 0x2001 4).testBit 0 = true ∧ natOfBe ((ptpMsg 1 2).take 1) % 16 = 1 ∧ s1.cut = false ∧ s1.get 0x2001 1 = 0) := by decide

theorem witness_ptp_tx : (let s := ptpState 0; (s.tb 0).enabled = true ∧ s.cut = false ∧ s.get 0x2200 4 = 1 ∧ s.get 0x2001 1 = 0 ∧ (s.get 0x2001 3).testBit 0 = true ∧ s.get (tbIx 0) 5 = 1)
    ∧ (let s := ptpState 1 [ptpParent]; (s.get 0x2001 1 == 1) = true ∧ (s.get 0x2001 3).testBit 0 = true ∧ (s.tb 0).master.isSome = true) := by decide

theorem witness_time_signals : (tbState {}).get 0x2120 1 ≠ 1 ∧ (tbState {} [(0x2120, 1, 1)]).get 0x2120 1 = 1 ∧ (tbState {} [(0x2122, 1, 1)]).get 0x2122 1 = 1
    ∧ (let s := { tbState {} with pps := { edge := some (2 ^ 40 - 40000000) } }; s.get 0x2122 1 ≠ 1 ∧ spansUs 10000 (2 ^ 40 - 40000000) s.clock = true ∧ spansUs 900000 (2 ^ 40 - 40000000) s.clock = false)
    ∧ (let s := tbState { state := .freqLocked, prim := some 0, inUse := true } [(tbIx 0, 5, 0), (tbIx 0, 8, 1), (0x2124, 2, 1)]
      ; s.get 0x2124 2 = 1 ∧ s.get (tbIx 0) 8 = 1 ∧ s.get (tbIx 0) 5 = 0 ∧ (s.tb 0).enabled = true ∧ (s.tb 0).prim.isSome = true ∧ (s.tb 0).onFallback = false ∧ (s.tb 0).fb = none ∧ (s.tb 0).state = .freqLocked)
    ∧ spansUs 10 0 (1966080#32).toNat = true ∧ 50000 < (60000#32).toInt.natAbs ∧ (0#32).toInt.natAbs ≤ 50000 ∧ spansUs 10 0 (0#32).toNat = false
    ∧ (let s := tbState { state := .holdover } [(tbIx 0, 5, 0), (tbIx 0, 8, 1), (0x2124, 2, 2)]; s.get 0x2124 2 ≠ 1 ∧ s.get (tbIx 0) 8 = 1 ∧ s.get (tbIx 0) 5 = 0 ∧ (s.tb 0).enabled = true ∧ (s.tb 0).inUse = false) := by decide

theorem witness_pps_out : (let s := tbState {}; let n := s.get 0x2121 1 % 8; let t : Int := ((s.tb n).tc : Int) - asI64 (s.get (tbIx n) 4)
      ; s.pps.out = false ∧ (s.tb n).enabled = true ∧ s.pps.second ≠ some (t / 1966080000) ∧ t % 1966080000 < (s.get 0x2121 2 : Nat))
    ∧ (let s : State := { tbState {} with pps := { out := true, second := some 5 } }; let n := s.get 0x2121 1 % 8; let t : Int := ((s.tb n).tc : Int) - asI64 (s.get (tbIx n) 4)
      ; s.pps.out = true ∧ s.pps.second ≠ some (t / 1966080000))
    ∧ (let s : State := { tbState {} with pps := { out := true, second := some 0 } }; let n := s.get 0x2121 1 % 8; let t : Int := ((s.tb n).tc : Int) - asI64 (s.get (tbIx n) 4)
      ; s.pps.out = true ∧ s.pps.second = some (t / 1966080000) ∧ t % 1966080000 < (s.get 0x2121 2 : Nat))
    ∧ (let s := tbState {} [(0x2121, 1, 1)]; s.pps.out = false ∧ (s.tb (s.get 0x2121 1 % 8)).enabled = false) := by decide

/-- Pin 3 in a mode, with a program of 100 Tc from the Tc count 0. -/
def pinState (mode tc : Nat) (x : Pin := {}) : State := { tbState { tc := tc } [(pinIx 3, 1, mode), (pinIx 3, 5, 100)] with pins := [(3, x)] }

theorem witness_pins : (let s := pinState 2 50; s.get (pinIx 3) 1 = 2 ∧ (s.pin 3).until_ = none ∧ (true = true ↔ (s.pin 3).start ≤ 50 ∧ 50 < (s.pin 3).start + s.get (pinIx 3) 5) ∧ (s.tb (s.get (pinIx 3) 2 % 8)).tc = 50
      ∧ (s.pin 3).want ≠ true ∧ (s.pin 3).active ≠ true)
    ∧ (let s := pinState 2 200 { want := true, active := true }; (false = true ↔ (s.pin 3).start ≤ 200 ∧ 200 < (s.pin 3).start + s.get (pinIx 3) 5) ∧ (s.pin 3).want ≠ false ∧ (s.pin 3).active ≠ false)
    ∧ (∀ m ∈ [1, 2, 3, 4, 5], m ≠ 0 ∧ m ≠ 6 ∧ (pinState m 0).get (pinIx 3) 1 = m) ∧ (pinState 6 0).get (pinIx 3) 1 = 6
    ∧ ((pinState 6 0).pin 3).lastCapture = none ∧ ((pinState 6 0 { lastCapture := some (2 ^ 40 - 3) }).pin 3).lastCapture = some (2 ^ 40 - 3) ∧ (pinState 6 0).clock < 2 ^ 40 - 3 + 8 := by decide

/-! ### Witnesses: host interface -/

/-- Ring q of function 0. -/
def ringState (q : Nat) (r : Ring) : State := { State.reset with funcs := [(0, { rings := [(q, r)] })] }
def ring64 : Ring := { base := hostBase, size := 6, sized := true, ctrl := 1 }

theorem witness_doorbells : (∀ e ∈ [(2, (5 : BitVec 32), { ring64 with dev := 2 }), (6, 5, { ring64 with dev := 70 })],
      (let s := ringState e.1 e.2.2; let r := s.ring 0 e.1; let d := if e.1 = 0 ∨ (2 ≤ e.1 ∧ e.1 ≤ 5) then e.2.1 - r.dev else r.dev - e.2.1
        ; (e.1 = 2 → r.enabled = true ∧ d.msb = false ∧ d.toNat ≤ r.cap) ∧ (e.1 = 6 → r.cap < d.toNat)))
    ∧ (State.reset.ring 0 0).base = 0 ∧ (let r := (ringState 0 { ring64 with ctrl := 0 }).ring 0 0; r.base ≠ 0 ∧ r.sized = true ∧ r.enabled = false)
    ∧ ((ringState 6 { ring64 with held := [[1#8]] }).ring 0 6).held ≠ [] := by decide

theorem witness_registers : (State.reset.ring 0 0).enabled = false ∧ (0x800000001000#64).toNat % 4096 = 0 ∧ hostReach (0x800000001000#64).toNat 4096 = true ∧ (1#64).toNat % 4096 ≠ 0
    ∧ (∀ w ∈ [4, 16], 4 ≤ w ∧ w ≤ 16) ∧ (3 < 4) ∧ (16 < 17) := by decide

theorem witness_msix : ((State.reset.func 0).pend.getLsbD 1 && (State.reset.func 0).unmasked.getLsbD 1) = false
    ∧ (let s : State := { State.reset with funcs := [(0, { pend := 2, unmasked := 2 })] }; (s.func 0).pend.getLsbD 1 = true ∧ (s.func 0).unmasked.getLsbD 1 = true) := by decide

theorem witness_record_space : (let r := (ringState 6 { ring64 with held := [List.replicate 128 0#8] }).ring 0 6
      ; r.held = [List.replicate 128 0#8] ∧ 128 / 64 ≤ r.space ∧ 128 ≤ (r.cap - r.dev.toNat % r.cap) * 64)
    ∧ (let r := (ringState 6 { ring64 with dev := 64, held := [List.replicate 128 0#8] }).ring 0 6; r.space < 128 / 64) := by decide

/-- The physical function's request ring announces one entry. -/
def rqState : State :=
  { oapState with funcs := [(0, { rings := [(0, { ring64 with host := 1 }), (1, ring64)] })] }
def rqEntry : List Byte := bytesOf 8 hostBase ++ bytesOf 2 16 ++ bytesOf 2 0 ++ bytesOf 4 4096 ++ bytesOf 8 0 ++ bytesOf 8 0

theorem witness_requests : (State.reset.ring 0 0).enabled = false ∧ (rqState.ring 0 0).enabled = true ∧ (rqState.ring 0 0).host ≠ (rqState.ring 0 0).dev ∧ rqState.serves_ (.pcie 0) = true
    ∧ rqState.chanBusy 0 = false ∧ rqState.get 0x31A0 9 = 0 ∧ rqMalformed [] = true ∧ rqMalformed rqEntry = false ∧ fieldOf rqEntry 8 2 ≤ (List.replicate 16 0#8).length := by decide

theorem witness_windows : (let s := engState runs; (0x8000000#28).toNat = 0x8000000 ∧ s.bar2Reach 0 0x8000000 8 false = true ∧ s.bar2Reach 0 0x8000000 8 true = true
      ∧ s.bar2Reach 1 0x8000000 8 false = false ∧ s.bar2Reach 1 0x8000000 8 true = false ∧ s.bar2Reach 0 (0x9800000 - 8) 8 false = false
      ∧ s.bar2Reach 0 0x18000040 4 true = true ∧ (0x40#20).toNat % 16 ≠ 12 ∧ s.bar2Reach 0 (0x18000000 + 0x4C) 4 true = true ∧ (0x4C#20).toNat % 16 = 12
      ∧ s.bar2Reach 0 (0x18000000 + 0x2C) 4 true = false) := by decide

/-- A DHCP acknowledgement for the management port. -/
def dhcpFrame : List Byte :=
  List.replicate 12 0#8 ++ [8#8, 0#8] ++ ([0x45#8] ++ List.replicate 8 0#8 ++ [17#8] ++ List.replicate 10 0#8) ++ [0#8, 67#8, 0#8, 68#8, 0#8, 0#8, 0#8, 0#8]
    ++ ([2#8] ++ List.replicate 15 0#8 ++ [10#8, 0#8, 0#8, 9#8] ++ List.replicate 8 0#8 ++ bytesBe 6 Config.mgmtMac.toNat ++ List.replicate 206 0#8) ++ [53#8, 1#8, 5#8, 255#8]

theorem natOfBe_bytesBe6 (x : BitVec 48) : natOfBe (bytesBe 6 x.toNat) = x.toNat := by
  have h := x.isLt
  simp only [bytesBe, bytesOf, List.reverse_cons, List.reverse_nil, List.nil_append, List.cons_append, natOfBe, List.foldl_cons, List.foldl_nil, BitVec.toNat_ofNat]
  omega

theorem witness_management : (let s := { oapState with mgmtIp := some 0x0A000009 }; s.serving = true ∧ s.mgmtIp = some (0x0A000009#32).toNat)
    ∧ natOfBe (((List.replicate 14 0#8).drop 12).take 2) ≠ 0x0806 ∧ natOfBe (((List.replicate 14 0#8).drop 12).take 2) ≠ 0x0800 := by decide

theorem witness_dhcp : dhcpFrame.length ≤ 1518 ∧ natOfBe ((dhcpFrame.drop 12).take 2) = 0x0800 ∧ dhcpAddress dhcpFrame = some 0x0A000009 := by
  refine ⟨by decide, by decide, ?_⟩
  have h : ((((dhcpFrame.drop 14).drop 20).drop 8).drop 28).take 6 = bytesBe 6 Config.mgmtMac.toNat := by rfl
  unfold dhcpAddress
  have e : fieldOf (dhcpFrame.drop 14) 0 1 % 16 * 4 = 20 := by decide
  simp only [e, h, natOfBe_bytesBe6]
  decide

/-! ### Witnesses: library, Bench, Whistle and Replay -/

/-- Model 3 in the library, xSPI RAM on channel 0, firmware past step 9, and Rally 9 open; loads as given. -/
def libState (m : LibModel := { live := true, pages := 1, data := [1#8, 2#8] }) (l : List Load := []) (st : RallyState := .opened) : State :=
  { State.reset with obj := objs [(0x2510, 2, 1)], lib := [(3, m)], rallies := [{ id := 9, state := st }], loads := l, firm := { steps := [(9, 1)] } }
def load3 (done : Nat) (mirrored : Bool) : Load := { model := 3, pages := [5], done := done, due := { tb := 0, count := 7 }, rally := 9, mirrored := mirrored }

theorem witness_load_request : (let s := libState {}; s.loading 3 = false ∧ (s.resident 3).live = false ∧ (s.rallies.any fun y => y.id == (9#32).toNat && y.state == .opened) = true ∧ (s.model 3).live = false)
    ∧ (let s := libState; s.xspiUp ≠ 0 ∧ (s.model 3).live = true ∧ (s.model 3).damaged = false ∧ (s.model 3).pages ≤ s.benchFree.length)
    ∧ (libState {} [load3 0 false]).loading 3 = true := by decide

theorem witness_load_pages : (∀ e ∈ [(0, false), (0, true)], (let s := libState { live := true, pages := 1, data := [1#8, 2#8] } [load3 e.1 e.2]; s.loads = load3 e.1 e.2 :: [] ∧ (load3 e.1 e.2).done < (load3 e.1 e.2).pages.length))
    ∧ (load3 1 false).pages.length ≤ (load3 1 false).done ∧ (load3 0 true).mirrored = true := by decide

/-- A package of one byte that an operator has signed. -/
def package7 : Package := { id := 7, version := 2, signed := true, signatureOk := true, stage := 1, points := [], data := [9#8] }

theorem witness_packages : (∀ w ∈ libState.waits, w.kind ≠ .library) ∧ Tbl.get 0 libState.firm.steps 9 ≠ 0 ∧ package7.wellFormed = true ∧ package7.id ≠ 0#16 ∧ package7.id ≠ 0xFFFF#16 ∧ libState.idInUse package7.id.toNat = false
    ∧ (package7.data.length + 65535) / 65536 ≠ 0 ∧ (package7.data.length + 65535) / 65536 ≤ 64 ∧ (libState.lib.filter fun e => e.2.live).length < 2048 ∧ libState.libUsed + 65536 ≤ libTotal ∧ package7.micro = false
    ∧ libState.idInUse 3 = true ∧ ({ package7 with signatureOk := false }).signatureOk = false
    ∧ (libState.model 3).live = true ∧ libState.isReferenced 3 = false ∧ libState.isPinned 3 = false ∧ (libState.model 4).live = false := by decide

/-- A Whistle in a state of WHISTLE_STATE, on time base 0. -/
def whistleState (st : Nat) (w : Whistle := {}) : State := { State.reset with obj := objs [(0x5300, 5, st)], whistle := w, tbs := [(0, { enabled := true, tc := 200000 })] }

theorem witness_whistle : (let s := whistleState 0; let e : BitVec 64 := BitVec.ofNat 64 (2 ^ 48); airCanonical (s.tbMu s.whistleTb) (s.tbEcp s.whistleTb) e.toNat = true ∧ apOff e.toNat = 0 ∧ s.get 0x5300 5 = 0
      ∧ 98304 ≤ airDiff (s.tb s.whistleTb).tc (s.tcOf s.whistleTb e.toNat))
    ∧ ¬ (whistleState 1).get 0x5300 5 = 0 ∧ (whistleState 1).get 0x5300 5 = 1 ∧ (whistleState 3).get 0x5300 5 = 3 ∧ (whistleState 3).whistle.resume = none := by decide

theorem witness_cut : (let s := whistleState 1 { edge := some 200000 }; s.get 0x5300 5 = 1 ∧ s.reached s.whistle.tb 200000 = true ∧ s.reached s.whistle.tb 200001 = false)
    ∧ (whistleState 2).get 0x5300 5 = 2 ∧ (whistleState 2).drained = true
    ∧ (let s := whistleState 3 { resume := some 200000 }; s.get 0x5300 5 = 3 ∧ s.reached s.whistle.tb 200000 = true ∧ (∀ r ∈ s.rallies, r.pending = false) ∧ (∀ e ∈ s.jobs, e.2.state ≠ .waiting)) := by decide

theorem witness_replay : State.reset.injecting = false ∧ (let s : State := { State.reset with obj := objs [(0x5300, 0x0B, 2)], replay := { entries := [⟨0x0A, 0, bytesOf 2 4 ++ bytesOf 4 1⟩] } }
      ; s.injecting = true ∧ s.cut = false ∧ s.replay.entries[s.replay.next]? = some ⟨0x0A, 0, bytesOf 2 4 ++ bytesOf 4 1⟩ ∧ (s.get 0x5000 2 = 2 → s.replay.start + 0 * 196608 ≤ s.cycles))
    ∧ State.reset.get 0x5300 0x0B ≠ 1 ∧ (let s : State := { State.reset with obj := objs [(0x5300, 0x0B, 1), (0x5300, 0x0C, 2 ^ 32)] }; s.get 0x5300 0x0B = 1 ∧ s.get 0x5300 7 * 1048576 < s.get 0x5300 0x0C + 16) := by decide

/-! ### Witnesses: power, frequency and temperature -/

/-- F at a number of MHz, time base 0 enabled at a Tc count. -/
def powerState (mhz : Nat) (p : Power := {}) (l : List (Nat × Nat × Nat) := []) : State :=
  { State.reset with clock := 2 ^ 40, obj := objs (l ++ [(0x5100, 2, mhz)]), power := p, tbs := [(0, { enabled := true, tc := 196608 })] }
def move1 : FreqMove := { target := 800, voltage := false, voltageSince := 0, relockFrom := none }

theorem witness_rounds : (List.replicate 6 (5000 : BitVec 32)).length = 6 ∧ (([none, some 5] : List (Option (BitVec 32)))[0]?).join = none
    ∧ (let s := powerState 900; (s.power.validAt.any fun v => spansUs 1000 v s.clock) = true)
    ∧ (let s := powerState 900 { validAt := List.replicate 6 (2 ^ 40) }; (s.power.validAt.any fun v => spansUs 1000 v s.clock) = false) := by decide

theorem witness_frequency : (powerState 900).atEdge 196608 = true ∧ (powerState 900).atEdge 8192 = true ∧ ({ powerState 900 with tbs := [(0, { enabled := true, tc := 200000 })] } : State).atEdge 196608 = false
    ∧ ({ powerState 900 with tbs := [(0, { enabled := true, tc := 200000 })] } : State).atEdge 8192 = false ∧ (powerState 900 { lastEdge := some 1 }).power.lastEdge = some ((powerState 900).powerTc / 196608)
    ∧ (∀ e ∈ [(2000000, -1), (295000, 1)], (let s := powerState 900 {} [(0x5000, 8, e.1)]
      ; let f := s.mhz; let used := s.get 0x5000 8; let cap := s.get 0x5000 1 * 1000
      ; let hot : Bool := if s.thermLimit < s.tj then true else if s.tj ≤ s.thermLimit - 2000 then false else s.power.thermal
      ; let pp := if cap < used then f - 25 * min 8 (max 1 ((used - cap) * 100 / max 1 cap)) else if used * 100 ≤ 97 * cap ∧ s.tj ≤ s.thermLimit - 5000 then f + 25 else f
      ; let pth := if s.thermLimit < s.tj then f - 50 else if hot then f else 1100
      ; let target := max 300 (min s.fMax (min pp (min s.permitCurrent pth)))
      ; s.power.lastEdge ≠ some (s.powerTc / 196608) ∧ s.power.tripped = false ∧ f ≠ 0 ∧ s.power.move = none ∧ s.power.avsOk = true ∧ (e.2 = (-1 : Int) → target < f) ∧ (e.2 = 1 → target = f)))
    ∧ (let s := powerState 850; s.mhz < max 300 (min s.fMax (min (s.mhz + 25) (min s.permitCurrent 1100))) ∧ s.get 0x5000 8 * 100 ≤ 97 * (s.get 0x5000 1 * 1000) ∧ s.tj ≤ s.thermLimit - 5000) := by decide

theorem witness_current : (powerState 900 { alert := some 3 }).power.alert.isSome = true ∧ (powerState 900).power.alert = none ∧ (powerState 900).power.ocWarning = false
    ∧ (let s := powerState 900 { ocWarning := true }; s.power.ocWarning = true ∧ spansUs 25 s.power.ocStepAt s.clock = true ∧ s.power.move = none ∧ 300 < s.mhz)
    ∧ (let s := powerState 900 { move := some move1 }; s.power.move = some move1 ∧ move1.voltage = false ∧ spansUs 50 move1.voltageSince s.clock = true) := by decide

theorem witness_switch : ({ move1 with relockFrom := some 5 } : FreqMove).relockFrom.isSome = true
    ∧ (let s := powerState 900 { move := some move1, gusts := [(2, 5)] }; s.power.gusts ≠ [] ∧ move1.deferred = false)
    ∧ (let m := { move1 with voltage := true, relocked := true }; let s := powerState 900 { move := some m, held := true } [(0x5000, 2, 2), (0x5000, 3, 900)]
      ; s.power.move = some m ∧ s.power.gusts = [] ∧ s.power.gustClear = none ∧ m.voltage = true ∧ m.relocked = true ∧ m.target < s.mhz ∧ s.power.held = true ∧ s.get 0x5000 2 = 2 ∧ s.get 0x5000 3 ≤ s.mhz ∧ m.target < s.get 0x5000 3)
    ∧ move1.voltage = false := by decide

theorem witness_gusts : 20 ≤ (20#8).toNat ∧ (3#8).toNat < 20 ∧ Tbl.get 0 (powerState 900).power.gusts 3 = 0 ∧ Tbl.get 0 (powerState 900 { gusts := [(3, 5)] }).power.gusts 3 ≠ 0
    ∧ (let s := powerState 900 { gustFrom := some 7 }; (s.power.gustFrom.any fun t => spansUs 10 t s.clock) = true) ∧ ((powerState 900).power.gustFrom.any fun t => spansUs 10 t (powerState 900).clock) = false
    ∧ (∀ e ∈ [(7, true), (2 ^ 40, false)], (let s := powerState 900 { move := some move1, gustClear := some e.1 }; s.power.move = some move1 ∧ s.power.gustClear = some e.1 ∧ move1.relockFrom = none ∧ s.power.gusts = [] ∧ spansUs 5 e.1 s.clock = e.2)) := by decide

theorem witness_temperature : (90000#32) ∈ [40000#32, 90000#32, 30000#32].take 32 ∧ ([40000#32, 90000#32, 30000#32].all fun b => decide (b.toInt ≤ 90000)) = true
    ∧ asI32 ((powerState 900).get 0x5010 2) < (90000#32).toInt ∧ (powerState 900).power.tripped = false ∧ (powerState 900 { tripped := true }).power.tripped = true := by decide

/-! ### Witnesses: fences, lifts and resets -/

/-- A fence of a grain and object. -/
def fenced (grain object : Nat) : Fence := { grain := grain, cause := 0x40, object := object, seq := 1 }

theorem witness_channel_fence : (let s := { tbState {} [(0x2510, 2, 4)] with xspiErrors := [(0, [5, 6])] }
      ; s.isFenced 9 0 = false ∧ s.get 0x2510 2 ≠ 0 ∧ 3 ≤ (List.replicate (1#8).toNat (s.tb 0).tc ++ (Tbl.get [] s.xspiErrors 0).filter fun t => decide (airDiff t (s.tb 0).tc < 1966080000)).length)
    ∧ (List.replicate (1#8).toNat ((tbState {}).tb 0).tc ++ (Tbl.get [] (tbState {}).xspiErrors 0).filter fun t => decide (airDiff t ((tbState {}).tb 0).tc < 1966080000)).length < 3
    ∧ ({ tbState {} with fences := [fenced 9 0] } : State).isFenced 9 0 = true := by decide

theorem witness_lifts : (let s : State := { State.reset with fences := [fenced 2 3], firm := { units := [(3, { sequence := 0x1FF })] } }; s.isFenced 2 3 = true ∧ (Tbl.get {} s.firm.units 3).sequence &&& 0x1FF = 0x1FF)
    ∧ (let s : State := { State.reset with fences := [fenced 1 0x503], firm := { units := [(3, { sequence := 0x50 })] } }; s.isFenced 1 0x503 = true ∧ (0x503 % 64 = 3) ∧ (Tbl.get {} s.firm.units 3).sequence &&& (0x503 / 256 % 16 * 16) = 0x503 / 256 % 16 * 16)
    ∧ (Tbl.get {} State.reset.firm.units 3).sequence &&& 0x1FF ≠ 0x1FF ∧ 5 ∉ [1, 2, 3, 7, 8] := by decide

theorem witness_court_fence : ({ State.reset with fences := [fenced 4 2] } : State).isFenced 4 2 = true
    ∧ (let s := jobState { y5 with court := 2, core := 0xFF, state := .waiting }; s.isFenced 4 2 = false ∧ fenceable s 5 ∧ (s.job 5).court = 2 ∧ (s.job 5).kind = 0x20 ∧ 64 ≤ (s.job 5).core)
    ∧ (∀ i, ((jobState { y5 with court := 2, core := 0xFF, state := .waiting }).job i).live = true → i = 5) := by
  refine ⟨by decide, ⟨by decide, by unfold fenceable; decide, by decide, by decide, by decide⟩, fun i h => ?_⟩
  by_contra e
  exact absurd h (by simp [State.job, jobState, Tbl.get, Ne.symm e])

theorem witness_ports : (∀ l ∈ [[], [5, 6]], (let s := { tbState {} [(0x2200, 1, 1)] with fhFails := [(0, l)] }; s.get 0x2200 1 ≠ 0 ∧ s.isFenced 5 0 = false ∧ s.get 0x2200 4 ≠ 1
      ∧ (((s.tb 0).tc :: (Tbl.get [] s.fhFails 0).filter fun t => decide (airDiff t (s.tb 0).tc < 1966080000)).length < 3 ↔ l = [])))
    ∧ (tbState {} [(0x2200, 4, 1)]).get 0x2200 4 = 1 := by decide

theorem witness_resets : State.reset.firm.steps = [] ∧ ({ State.reset with obj := objs [(0x1001, 7, 3)] } : State).get 0x1001 7 = 3 ∧ ({ State.reset with firm := { steps := [(1, 1)] } } : State).firm.steps ≠ [] ∧ (∀ r ∈ State.reset.rallies, r.state = .opened → r.chan ≠ 3) ∧ (({ State.reset with cores := [(3, { inTest := true })] } : State).core 3).inTest = true ∧ (State.reset.core 3).inTest = false
    ∧ (Instr.poreset, 0) ∈ [(Instr.poreset, 0), (.brownout true, 2), (.brownout false, 3)] := by decide

/-! ### Witnesses: start-up, self-test and firmware -/

/-- A slot header that shows no fault: images 5 and 6, for stepping B0. -/
def header0 : List Byte :=
  bytesOf 4 0x53464C4D ++ bytesOf 4 1 ++ bytesOf 4 5 ++ bytesOf 4 6 ++ bytesOf 2 2 ++ bytesOf 2 3 ++ [1#8, 0xB0#8] ++ List.replicate 10 0#8
    ++ (bytesOf 4 6 ++ List.replicate 60 0#8) ++ (bytesOf 4 5 ++ List.replicate 60 0#8) ++ (List.range 3).flatMap (fun _ => bytesOf 4 8192 ++ bytesOf 4 0)
def headerTail : Nat := 8192 - header0.length
def slotOk : FwSlot := { state := 3, header := header0 ++ List.replicate headerTail 0#8, written := 8192, seq := 7 }
/-- Firmware past given steps. -/
def firmState (steps : List Nat) (f : Firm := {}) (l : List (Nat × Nat × Nat) := []) : State :=
  { State.reset with clock := 2 ^ 40, obj := objs l, firm := { f with steps := steps.map fun n => (n, 1) } }

theorem witness_rom : (firmState [] { slot0 := slotOk }).stepDone 1 = false ∧ (firmState [] { slot0 := slotOk }).bootOrder = [0]
    ∧ (firmState []).bootOrder.find? (fun k => (firmState []).slotFault k 0 none == 0) = none := by decide
theorem witness_rom_header : ((firmState [] { slot0 := slotOk }).slotFault 0 0 none == 0) = true := by decide +kernel

def record0 : List Byte := bytesOf 2 0x5442 ++ bytesOf 2 1 ++ List.replicate 1436 0#8

theorem witness_record : (let s := firmState [4]; s.stepDone 4 = true ∧ s.stepDone 5 = false ∧ s.recovery = false) ∧ record0.length = 1440 ∧ fieldOf record0 0 2 = 0x5442 ∧ fieldOf record0 2 2 = 1
    ∧ ∀ i < 89, (recordUnit record0 i).result ≠ 3 := by decide

/-- Every unit judged, 16 cores tested. -/
def testedState (svc : Nat) (steps : List Nat) : State :=
  { firmState steps { units := testUnits.map fun u => (u, { current := true }) } ((List.range 16).map fun n => (0x8000 + n, 9, 1)) with svc := svc }

theorem witness_services : (let s := testedState 0 [7]; s.svc = 0 ∧ s.stepDone 7 = true ∧ 16 ≤ s.testedCores ∧ (∀ u ∈ testUnits, 0x100 ≤ u → u < 0x300 → s.unitJudged u = true))
    ∧ (let s := testedState 1 [7, 9]; s.svc = 1 ∧ s.stepDone 9 = true ∧ (∀ u ∈ testUnits, s.unitJudged u = true) ∧ (∀ l ∈ s.loads, l.rally ≠ 0)) := by decide
theorem witness_reference_models : (let s := firmState [7] {} [(0x2510, 2, 4)]; s.stepDone 7 = true ∧ s.stepDone 9 = false ∧ package7.micro = false ∧ s.xspiUp ≠ 0
      ∧ (package7.data.length + 65535) / 65536 ≤ s.benchFree.length) := by decide

theorem witness_slices : (let s := firmState [7] { units := [(3, { ended := 0xFE })] }; s.stepDone 7 = true ∧ 3 ∈ s.untested.take 8 ∧ (s.testUnit 3).ended.testBit 0 = false ∧ (s.testUnit 3).ended ||| 1 = 255)
    ∧ (let s := firmState [7] { units := [(3, { ended := 0x1FE })] }; 3 ∈ s.untested.take 8 ∧ (s.testUnit 3).ended.testBit 0 = false ∧ (s.testUnit 3).ended ||| 1 = 511 ∧ (s.testUnit 3).result ≠ 3) := by decide

theorem witness_in_service : ({ firmState [] {} [(0x31A0, 9, 1)] with svc := 2 } : State).mayBegin 3 1 = true ∧ ({ firmState [] {} [(0x31A0, 9, 1)] with svc := 2 } : State).mayBegin 3 0 = false := by decide
theorem witness_in_service_end : (let s := firmState [] { units := [(3, { slice := some 9, sequence := 255 })] }; (s.testUnit 3).slice = some 9 ∧ s.get 0x31A0 9 = 0 ∧ (s.testUnit 3).sequence ||| 2 ^ 8 = 511 ∧ s.needed 3 = false)
    ∧ (let s := { jobState { y5 with state := .ready, core := 0xFF, prio := 1 } with obj := objs [(0x3000, 1, 8), (0x8003, 9, 1)], cores := [(3, { inTest := true })], firm := { units := [(3, { slice := some 9 })] } }
      ; (s.testUnit 3).slice.isSome = true ∧ s.needed 3 = true) := by decide

theorem witness_shutdown : (let s := firmState [] {} [(0x5010, 1, 120000)]; s.firm.marked = false ∧ asI32 (s.get 0x31A0 4) ≤ s.tj) ∧ (firmState []).shutdownOk = true ∧ (firmState [] {} [(0x2300, 1, 3)]).shutdownOk = false
    ∧ (let s := firmState [] {} [(0x31A0, 9, 1)]; s.get 0x31A0 9 = 1 ∧ s.longSince (1000 * s.get 0x31A0 1) s.firm.shutStart = true) ∧ (firmState [] {} [(0x31A0, 9, 2)]).get 0x31A0 9 = 2
    ∧ (firmState [] { marked := true }).firm.marked = true := by decide

theorem witness_write : (let s := firmState []; s.get 0x7000 4 ≠ 3 ∧ s.firm.verifying = false ∧ [1#8].length ≤ 16 * mb) ∧ (firmState [] {} [(0x7000, 4, 3)]).get 0x7000 4 = 3 ∧ (firmState [] { verifying := true }).firm.verifying = true
    ∧ (firmState [] { verifying := true }).slotFault 1 3 (some 0) ≠ 0 := by decide
theorem witness_verified : (firmState [] { verifying := true, slot1 := slotOk } [(0x1001, 2, 6)]).slotFault 1 0 (some 6) = 0 := by decide +kernel

theorem witness_activation : (let s := { firmState [] {} [(0x7000, 4, 2)] with rallies := [open1] }; s.openRally 16 = some open1 ∧ s.activateOk 1 = true ∧ s.activateOk 0 = false)
    ∧ (let s := firmState [] { activated := some (1, 5), switched := 6 }; s.firm.activated = some (1, 5) ∧ s.firm.switched.getLsbD 1 = true ∧ s.firm.switched.getLsbD 0 = false ∧ (s.core 0).residents = [] ∧ s.swapped = []
      ∧ s.firm.switched ≠ BitVec.allOnes 64)
    ∧ (let s := { jobState y5 with clock := 2 ^ 40, firm := { activated := some (1, 5) } }
      ; s.firm.switched.getLsbD 0 = false ∧ s.longSince 100000 5 = true ∧ (s.core 0).residents = [0] ∧ (s.swapped.any fun w => w.core == 0) = false ∧ ((s.core 0).ctx 0).job = 5 ∧ fenceable s 5 ∧ sitsAt s 5 0 0)
    ∧ (firmState [] { activated := some (1, 5), switched := BitVec.allOnes 64 }).firm.switched = BitVec.allOnes 64 := by
  refine ⟨by decide, by decide, ⟨by decide, by decide, by decide, by decide, by decide, by unfold fenceable; decide, by unfold sitsAt; decide⟩, by decide⟩

theorem witness_attestation : (firmState []).firm.attest = none ∧ (List.replicate 32 0#8).length = 32 ∧ (firmState [] { attest := some ([1#8], [2#8]) }).firm.attest = some ([1#8], [2#8]) ∧ (List.replicate 17088 (0#8 : Byte)).length = 17088 := by
  refine ⟨by decide, by decide, by decide, List.length_replicate⟩

/-! ### Witnesses: debug access, TAP, trace and counters -/

/-- A cut is held, core 0 runs job 5. -/
def heldState : State := { on jobCore with obj := objs [(0x5300, 5, 3), (0x6000, 6, 1)] }

theorem witness_debug : (let s := State.reset; s.dbgReached false = false ∧ s.dbgReached true = true ∧ s.region 0x40000 8 = .core ∧ s.inHeldArea 0x40000 = false ∧ s.region 0x9800000 8 = .unmapped ∧ s.region 0x100000000000 8 = .remote
      ∧ s.region (64 * Config.coreMemBytes - 8) 8 = .core ∧ s.region (64 * Config.coreMemBytes) 8 ≠ .core)
    ∧ (let s := heldState; s.dbgReached false = true ∧ s.region (saveArea 0 0) 8 = .core ∧ s.inHeldArea (saveArea 0 0) = true ∧ s.inHeldArea (saveArea 0 0 + 0x8000) = false) := by decide

theorem witness_dbgacc : State.reset.get 0x6000 6 = 0 ∧ heldState.get 0x6000 6 ≠ 0 ∧ heldState.power.tripped = false ∧ (0 : BitVec 160).getLsbD 112 = false ∧ (BitVec.ofNat 160 (2 ^ 112)).getLsbD 112 = true
    ∧ ({ heldState with dbg := { set0 := { status := 1 } } } : State).dbg.set0.status % 2 = 1 := by decide

/-- Tracing to the host or to xSPI RAM, with 3 records on core 2's ring. -/
def traceState (l : List (Nat × Nat × Nat)) : State :=
  { State.reset with clock := 2 ^ 40, cores := [(2, { traceCount := 3 })], obj := objs (l ++ [(0x8002, 0x0B, 1)]), tbs := [(0, { enabled := true, tc := 2 ^ 30 })] }

theorem witness_drain : (let s := traceState [(0x6000, 2, 0), (0x6000, 3, hostBase), (0x6000, 4, 0x100000)]; s.drainTurn 0 = some 2 ∧ s.drainTurn 0 ≠ some 3 ∧ s.power.tripped = false ∧ s.get 0x6000 2 = 0
      ∧ hostReach (s.get 0x6000 3) (s.get 0x6000 4) = true ∧ min (min (min 128 (s.core 2).traceCount) (2 * s.obsLeft 0)) ((s.get 0x6000 4 - 0x1000 - (s.dbg.producer - (0#64).toNat)) / 32) ≠ 0)
    ∧ (let s := traceState [(0x6000, 2, 1)]; s.drainTurn 0 = some 2 ∧ s.power.tripped = false ∧ s.get 0x6000 2 = 1 ∧ min (min 128 (s.core 2).traceCount) (2 * s.obsLeft 0) ≠ 0)
    ∧ (let s := traceState [(0x6000, 1, 0)]; s.drainTurn 0 = some 2 ∧ s.obsLeft 0 = 0) := by decide

theorem witness_snapshot : (let s := { traceState [(0x6000, 7, 1000)] with obj := objs [(0x6000, 7, 1000), (0x8002, 0x0B, 1), (0x8002, 0x13, 9), (0x8002, 0x23, 1)] }
      ; s.get 0x6000 7 ≠ 0 ∧ spansUs (s.get 0x6000 7) s.dbg.snapshot (s.mono 0 (s.symbolStart 0)) = true ∧ s.power.tripped = false ∧ (∀ m < 64, s.get (0x8000 + m) 0x0B = 1 ↔ m = 2) ∧ 3 < 16
        ∧ (∀ j < 16, s.get 0x8002 (0x20 + j) ≠ 0 ↔ j = 3) ∧ (s.core 2).traceCount < 2048 ∧ (s.core 2).traceDropPending = 0 ∧ s.airNow 0 < 2 ^ 64) ∧ State.reset.get 0x6000 7 = 0 := by decide

theorem witness_selectors : (∀ v ∈ [0, 5, 0x50], v ∈ coreSelectors) ∧ 6 ∉ coreSelectors ∧ globalSelector 0x1007 = true ∧ globalSelector 0x1008 = false ∧ globalSelector 0x1033 = true ∧ isStatistic 0x5010 1 = false ∧ isStatistic 0x8000 0x47 = true
    ∧ (Instr.bypass, JtagInstr.bypass, fun (_ : State) => [Out.data 10 0 [0#8]]).1 = .bypass := by decide

/-! ### Witnesses: every step -/

theorem witness_step : ({ State.reset with pending := [.bypass] } : State).pending = .bypass :: [] ∧ State.reset.pending = []
    ∧ (State.reset.tb 0).enabled = true ∧ (State.reset.tb 0).slew = 0 ∧ State.reset.get 0x2000 0x15 = 0 ∧ (∀ m < 8, State.reset.tbSource m ≠ 3) ∧ (State.reset.tb 1).enabled = false := by decide

theorem witness_sound : State.reset.Sound ∧ ∃ t, step State.reset = .next t := ⟨by unfold State.Sound; decide, _, rfl⟩

theorem witness_latch : (let s : State := { State.reset with power := { tripped := true }, coresStopped := true }; s.power.tripped = true ∧ s.coresStopped = true)
    ∧ (∃ t, exec .bypass State.reset = .next t) ∧ Instr.bypass ≠ .poreset ∧ (∀ v, Instr.bypass ≠ .brownout v) := by
  refine ⟨by decide, ⟨_, rfl⟩, by decide, fun v => by cases v <;> decide⟩


/-! ### Ill-formed commands -/

/-- A syllable in a slot that does not list its opcode, or with another opcode's number, for every instruction of a core; each has slots that do. -/
theorem wellformed_slots : ∀ e ∈ ([
    (.add, .add), (.sub, .sub), (.addi, .addi), (.and, .and), (.or, .or), (.xor, .xor), (.li, .li), (.shl, .shl), (.shr, .shr), (.sra, .sra), (.mul, .mul), (.mulh, .mulh),
    (.min, .min), (.max, .max), (.cmp, .cmp), (.cmpi, .cmpi), (.sel, .sel), (.br, .br), (.bri, .bri), (.call, .call), (.csrr, .csrr), (.csrw, .csrw), (.csrc, .csrc),
    (.endJob, .endJob), (.resume, .resume), (.ldb, .ldb), (.ldbu, .ldbu), (.ldh, .ldh), (.ldhu, .ldhu), (.ldw, .ldw), (.lda, .lda), (.ldp, .ldp), (.ldv, .ldv),
    (.stb, .stb), (.sth, .sth), (.stw, .stw), (.sta, .sta), (.stp, .stp), (.stv, .stv), (.aadd, .aadd), (.aaddi, .aaddi), (.amov, .amov), (.afromg, .afromg),
    (.atog, .atog), (.sstart, .sstart), (.spause, .spause), (.sstat, .sstat), (.twait, .twait), (.tadd, .tadd), (.tacq, .tacq), (.trel, .trel), (.tread, .tread),
    (.hdeq, .hdeq), (.henq, .henq), (.vadd, .vadd), (.vsub, .vsub), (.vmul, .vmul), (.vfma, .vfma), (.vmin, .vmin), (.vmax, .vmax), (.vabs, .vabs), (.vand, .vand),
    (.vor, .vor), (.vxor, .vxor), (.vshl, .vshl), (.vmulrs, .vmulrs), (.vdmacs, .vdmacs), (.vdnarrow, .vdnarrow), (.vcmp, .vcmp), (.vsel, .vsel), (.vbcast, .vbcast),
    (.vcvt, .vcvt), (.vperm, .vperm), (.vshuf, .vshuf), (.vpack, .vpack), (.vunpack, .vunpack), (.vcompress, .vcompress), (.vexpand, .vexpand), (.vred, .vred),
    (.vtset, .vtset), (.vmrd, .vmrd), (.mtile, .mtile), (.mwld, .mwld), (.mwpass, .mwpass), (.mpass, .mpass), (.mrq, .mrq), (.msplit, .msplit), (.moutl, .moutl),
    (.mbwd, .mbwd), (.fexp, .fexp), (.flog, .flog), (.frcp, .frcp), (.frsqrt, .frsqrt), (.fsigm, .fsigm), (.ftanh, .ftanh), (.fsoftp, .fsoftp), (.fsincos, .fsincos),
    (.fatan2, .fatan2), (.fsmooth, .fsmooth), (.fmp, .fmp), (.loop, .loop), (.mvfl, .mvfl), (.mvtl, .mvtl), (.vsetvl, .vsetvl), (.sfbank, .sfbank)] : List (CoreOp × (Issue → Instr))),
    (∃ k < 8, (e.2 (syl e.1 k 0 0 0)).wf = false) ∧ (∃ k < 8, (e.2 (syl e.1 k 0 0 0)).wf = true) ∧ ∀ k < 8, (e.2 ⟨0, Fin.ofNat 8 k, true, 0xFF#64 <<< 56, .clean⟩).wf = false := by decide

/-- A bundle header: its slot-presence mask is empty exactly where the bundle has no syllable. -/
theorem wellformed_header : (Instr.mark ⟨0, 7, true, 0x101#64, .clean⟩).wf = false ∧ (Instr.mark ⟨0, 7, true, 0x100#64, .clean⟩).wf = true ∧ (Instr.mark ⟨0, 3, true, 0x100#64, .clean⟩).wf = false
    ∧ (Instr.nop ⟨0, 7, true, 0x100#64, .clean⟩).wf = false ∧ (Instr.nop ⟨0, 7, true, 0#64, .clean⟩).wf = true := by decide
theorem wellformed_entries : (Instr.soEntryRead 0 0 [] [] true).wf = false ∧ (Instr.rqEntryRead 0 [] [] true).wf = false ∧ (Instr.rqEntryRead 0 rqEntry [] true).wf = true := by decide
theorem wellformed_frames : (Instr.uplaneRx 0 []).wf = false ∧ (Instr.ecpriDelayRequest 0 []).wf = false ∧ (Instr.ptpMessageRx 0 []).wf = false ∧ (Instr.managementFrame []).wf = false
    ∧ (Instr.flitRx 0 []).wf = false ∧ (Instr.reductionUnitRx 0 { carrier := 0, sym := 0, chunk := 0, kind := 0, home := 0, mask := 0, sums := [(1, 1)] }).wf = false := by decide
theorem wellformed_requests : ∀ mk ∈ ([.heartbeat, .read, .write, .readBlock, .writeBlock, .rallyBegin, .rallyCommit, .rallyAbort, .rallyStatus, .ackAttention, .subscribe] : List (OapReq → Instr)),
    (mk { chan := .pcie 0, frame := [] }).wf = false ∧ (mk (req 1 0x80 3 0x1000 0 [])).wf = true := by decide
theorem wellformed_host : (Instr.bar2Access 0 0 4 (some [1#8]) false).wf = false ∧ (Instr.bar2Access 0 0 1 (some [1#8]) false).wf = true ∧ (Instr.tallyAddWrite 0 0 []).wf = false := by decide
theorem wellformed_others : (Instr.prepare 0 0 0 0 0 0 [] [] true).wf = false ∧ (Instr.libPut { package7 with data := [] }).wf = false ∧ (Instr.pmbusRound [] false).wf = false ∧ (Instr.attestNonce []).wf = false
    ∧ (Instr.dbgRead true 0 false [1#8] false).wf = false ∧ (Instr.attestReportReady []).wf = false := by decide

/-! ### Single steps and small results, from the spec's tables and examples -/

/-- Example 0.1. -/
theorem test_airpos_fields : apSfn 0x0000814C16000400 = 517 ∧ apSf 0x0000814C16000400 = 3 ∧ apSlot 0x0000814C16000400 = 1 ∧ apSym 0x0000814C16000400 = 6 ∧ apOff 0x0000814C16000400 = 1024 ∧ apExt 0x0000814C16000400 = 0 := by decide
/-- Example 2.1. -/
theorem test_two_numerologies : airposToTc 1 false 0x0000321018000000 = 3941569536 ∧ tcToAirpos 3 false 3941569536 = 0x0000321064000000 ∧ isBoundary 3 false 3941569536 = true
    ∧ tcToAirpos 1 false (3941569536 + 17536) = 0x0000321018000000 + 17536 ∧ isBoundary 1 false (3941569536 + 17536) = false := by decide
/-- Example 6.2. -/
theorem test_requantise : [56, 40, -56, 2048, -1000].map (fun a => requant a 0x60000000 33 0x80 5) = [(0x8A, false), (0x88, false), (0x76, false), (0xFF, true), (0, true)] := by decide
/-- Example 6.1. -/
theorem test_sb8 : toSb [1000, -37, 2040, 5, -2048, 0, 300, 80, 112, -7, 100, 250, -1500, 64, 1020, 1] 8 = (5, [31, -1, 64, 0, -64, 0, 9, 2, 4, 0, 3, 8, -47, 2, 32, 0]) ∧ sbTag 0x2A 0 = 0x2A := by decide +kernel
/-- Example 10.1, step 2. -/
theorem test_redundancy_version : k0Of { bg := 1, c := 1, kp := 8448, k := 8448, zc := 384, n := 25344, crc := 24 } 2 25344 = 14208 ∧ decodeCycles { bg := 1, c := 1, kp := 8448, k := 8448, zc := 384, n := 25344, crc := 24 } 46 4 = 2368 := by decide
/-- Example 14.1: header checks of three requests. -/
theorem test_header_checks : headerCheck ([0x1001, 0x0041, 0, 0, 0, 0, 0].flatMap (bytesOf 2)) = 0xEFBD
    ∧ headerCheck ([0x0201, 0x0042, 0x0300, 0x4002, 0x0002, 0, 0].flatMap (bytesOf 2)) = 0xBAB8 ∧ headerCheck ([0x1101, 0x0043, 0, 0, 0x0010, 0, 0].flatMap (bytesOf 2)) = 0xEEAB := by decide
/-- Example 15.1. -/
theorem test_directory_record : (objAt 0x4002 3).map (fun r => dirRecord 0x4002 3 r) = some [0x02#8, 0x40#8, 0x03#8, 0x03#8, 0x22#8, 0x14#8, 0x02#8, 0x00#8] := by decide
/-- Table 14.9, step 3: the earliest instant 983,040 Tc after the sample, and the boundary at or after it. -/
theorem test_rally_lead : (let t := airposToTc 1 false (620 * 2 ^ 38 + 3 * 2 ^ 34 + 9 * 2 ^ 24 + 12000) + 983040; tcToAirpos 1 false t = 620 * 2 ^ 38 + 3 * 2 ^ 34 + 2 ^ 28 + 9 * 2 ^ 24 + 12000
    ∧ tcToAirpos 1 false (nextBoundary 1 false t) = 620 * 2 ^ 38 + 3 * 2 ^ 34 + 2 ^ 28 + 10 * 2 ^ 24) := by decide

/-- The one record in flight of core 0 after a step. -/
def landed (o : Host.Outcome State Fault Refusal) : Option (Vec × Nat × Nat) :=
  match o with
  | .next t => (t.core 0).inflight.head?.map fun r => (r.value, r.dest, r.remain)
  | _ => none

/-- Example 4.1: VMULRS at a tie, lanes 0 and 1. -/
theorem test_vmulrs : landed (exec (.vmulrs (syl .vmulrs 4 0x40 0x41 0x42 (15 * 2 ^ 17 + 0x200))) (on { jobCore with vl := 128, v := [(1, 0xEDCB1235#1024), (2, 0x40004000#1024)] })) = some (0xF6E6091B#1024, 0x40, 2) := by decide
/-- Example 7.1: VCOMPRESS packs the selected elements of v4 and sets vl. -/
theorem test_vcompress : landed (exec (.vcompress (syl .vcompress 4 0x46 0x44 0 (0x32 * 2 ^ 23 + 1))) (on { jobCore with vl := 16, v := [(4, 0x1F1E1D1C1B1A19181716151413121110#1024)], p := [(2, 0x4232#128)] }))
    = some (0x1E19151411#1024, 0x46, 2) := by decide
/-- Example 7.1, step 5. -/
theorem test_vexpand : landed (exec (.vexpand (syl .vexpand 4 0x47 0x46 0 (0x32 * 2 ^ 23))) (on { jobCore with vl := 16, v := [(6, 0x1E19151411#1024)], p := [(2, 0x4232#128)] }))
    = some (0x001E00000000190000001514000011 * 256, 0x47, 2) := by decide
/-- R85: ADD wraps and sets FLAGS; g0 reads zero and drops a write. -/
theorem test_add_wraps : (match exec (.add (syl .add 0 1 2 3)) (on { jobCore with g := [(2, 0xFFFFFFFF#32), (3, 1#32)] }) with | .next t => ((t.core 0).readG 1, (t.core 0).pc) | _ => (7, 0)) = (0, 16) := by decide
theorem test_add_g0 : (match exec (.add (syl .add 0 0 2 3)) (on { jobCore with g := [(2, 5#32), (3, 1#32)] }) with | .next t => (t.core 0).readG 0 | _ => 7) = 0 := by decide
/-- R56: a misaligned word load raises ALIGN and writes nothing; the context is fenced. -/
theorem test_ldw_misaligned : (match exec (.ldw (syl .ldw 2 1 0x20 0)) (on { jobCore with a := [(0, 2#48)] }) with | .next t => ((t.core 0).readG 1, (t.core 0).inflight.length) | _ => (7, 7)) = (0, 0) := by decide
/-- R89: TADD adds to an owned Tally. -/
theorem test_tadd : (match exec (.tadd (syl .tadd 3 0 1 2)) (tallyState 5#32 7) with | .next t => (t.tally 7).count | _ => 0) = 8 := by decide

end Sys2Proof.Tests
end

/-! # The family 00_scope.md: the state after reset, and what every step keeps -/

section
namespace Sys2Proof.Machine
open Sys2Proof

/-! ## The state after reset -/

/-- Memory lists nothing after reset. -/
theorem reset_sound : State.reset.Sound := rfl

theorem reset_get (i u : Nat) : State.reset.get i u = objDefault (okey i u) := rfl

theorem reset_tb_of_ne_zero {n : Nat} (hn : n ≠ 0) : State.reset.tb n = {} := by
  simp [State.tb, State.reset, hn.symm]

theorem reset_readG (n i : Nat) : (State.reset.core n).readG i = 0#32 :=
  ite_self 0#32

/-- Settles O57: most clauses are values that `State.reset` gives by computation. The others are g0, which reads zero by itself, the time bases other
than TB0, which the reset state does not list, and two objects read from the dictionary. -/
theorem resetState : Obligations.ResetState := by
  unfold Obligations.ResetState
  refine ⟨reset_sound, rfl, rfl, rfl, rfl, rfl, reset_get, fun _ => rfl, rfl, fun n hn => ?otherTimeBases, ?enabledObject, ?modeObject,
    fun n i => ⟨reset_readG n i, rfl, rfl⟩, fun _ => rfl, fun _ _ => rfl, rfl, rfl⟩
  case otherTimeBases => rw [reset_tb_of_ne_zero hn]
  case enabledObject => rw [reset_get]; decide
  case modeObject => rw [reset_get]; decide

/-! ## What every command keeps

`Keeps s₀ s` relates the state `s₀` that a command meets to every state `s` on its way. Each function `f` of the model that gives a state has one
lemma, `Keeps.f`: it takes `Keeps s₀ s` to `Keeps s₀ (f s)`, or to `Answers s₀ (f s)` where `f` gives an answer. So the proof for a function is
written as the function is: one term per branch, that names its updates in their order. The relation says more than O58 asks, that the other
statements about every command may rest on it. -/

/-- The parts of the state that `Keeps` speaks of. -/
abbrev State.lasting (s : State) :=
  (s.mem, s.pending, s.out, s.freeCtr, s.firm.ctrlFuses, s.firm.rtFuses, s.power.tripped, s.coresStopped)

/-- What every command keeps, resets included, on the way from `s₀` to `s`: memory in its canonical form, the queue behind the command, what has left
the chip, the free values used up, and the rollback fuse counts. -/
structure KeepsRecord (s₀ s : State) : Prop where
  mem : Memory.wf s₀.mem = true → Memory.wf s.mem = true
  pending : s.pending = s₀.pending
  out : s₀.out <+: s.out
  freeCtr : s₀.freeCtr ≤ s.freeCtr
  ctrlFuses : s₀.firm.ctrlFuses ≤ s.firm.ctrlFuses
  rtFuses : s₀.firm.rtFuses ≤ s.firm.rtFuses

/-- What every command keeps but the resets that cut the power: `KeepsRecord`, and the THERMTRIP_N latch with the cores' clocks stopped (R425). -/
structure Keeps (s₀ s : State) : Prop extends KeepsRecord s₀ s where
  tripLatch : s₀.power.tripped = true → s₀.coresStopped = true → s.power.tripped = true ∧ s.coresStopped = true

/-- The answer of a command that completes and keeps what `Keeps` names. -/
def Answers (s₀ : State) (a : Answer) : Prop := ∃ t, a = .next t ∧ Keeps s₀ t

variable {s₀ s t : State}

/-! ### Rules for every form of expression: a state goes through conditionals, folds, options and record updates -/

theorem Keeps.refl : Keeps s s :=
  ⟨⟨id, rfl, List.prefix_refl _, Nat.le_refl _, Nat.le_refl _, Nat.le_refl _⟩, fun ht hs => ⟨ht, hs⟩⟩

theorem Keeps.next (h : Keeps s₀ s) : Answers s₀ (.next s) := ⟨s, rfl, h⟩

theorem Answers.ite {c : Prop} {inst : Decidable c} {a b : Answer} (ha : Answers s₀ a) (hb : Answers s₀ b) :
    Answers s₀ (if c then a else b) := by
  split
  · exact ha
  · exact hb

/-- `π` reads the state out of what the two branches give: a pair, a job graph, a run of moves. -/
theorem Keeps.iteOf {α : Type} {c : Prop} {inst : Decidable c} {a b : α} (π : α → State) (ha : Keeps s₀ (π a)) (hb : Keeps s₀ (π b)) :
    Keeps s₀ (π (if c then a else b)) := by
  split
  · exact ha
  · exact hb

theorem Keeps.ite {c : Prop} {inst : Decidable c} (hs : Keeps s₀ s) (ht : Keeps s₀ t) : Keeps s₀ (if c then s else t) :=
  .iteOf id hs ht

theorem Keeps.when {c : Prop} {inst : Decidable c} (h : Keeps s₀ s) (ht : Keeps s₀ s → Keeps s₀ t) : Keeps s₀ (if c then t else s) :=
  .ite (ht h) h

theorem Keeps.unless {c : Prop} {inst : Decidable c} (h : Keeps s₀ s) (ht : Keeps s₀ s → Keeps s₀ t) : Keeps s₀ (if c then s else t) :=
  .ite h (ht h)

theorem Keeps.foldlOf {α β : Type} {f : β → α → β} {l : List α} {b : β} (π : β → State) (h : Keeps s₀ (π b))
    (hf : ∀ {b x}, Keeps s₀ (π b) → Keeps s₀ (π (f b x))) : Keeps s₀ (π (l.foldl f b)) := by
  induction l generalizing b with
  | nil => exact h
  | cons x l ih => exact ih (hf h)

theorem Keeps.foldl {α : Type} {f : State → α → State} {l : List α} (h : Keeps s₀ s)
    (hf : ∀ {s x}, Keeps s₀ s → Keeps s₀ (f s x)) : Keeps s₀ (l.foldl f s) :=
  h.foldlOf id hf

theorem Keeps.getD {o : Option State} (h : Keeps s₀ s) (ho : ∀ {t}, o = some t → Keeps s₀ t) : Keeps s₀ (o.getD s) := by
  cases o with
  | none => exact h
  | some t => exact ho rfl

theorem Keeps.elim {α : Type} {o : Option α} {f : α → State} (h : Keeps s₀ s) (hf : ∀ {x}, Keeps s₀ (f x)) : Keeps s₀ (o.elim s f) := by
  cases o with
  | none => exact h
  | some x => exact hf

theorem Keeps.inGraph {a b c d} (h : Keeps s₀ s) : Keeps s₀ (Graph.mk s a b c d).s := h

theorem Keeps.inRun {a b c d e f} (h : Keeps s₀ s) : Keeps s₀ (MoveRun.mk s a b c d e f).s := h

theorem Keeps.inDone {a b c d} (h : Keeps s₀ s) : Keeps s₀ (Done.mk s a b c d).state := h

theorem Keeps.pair {α : Type} {x : α} (h : Keeps s₀ s) : Keeps s₀ (s, x).1 := h

/-- A record update that names none of the `lasting` fields; `e` is `rfl`. A use writes `by with_reducible rfl` where the unfolding of model functions
would lose the arguments of the update before it. -/
theorem Keeps.upd (h : Keeps s₀ s) (e : t.lasting = s.lasting) : Keeps s₀ t := by
  obtain ⟨hm, hp, ho, hf, hc, hr, ht, hs⟩ : _ ∧ _ ∧ _ ∧ _ ∧ _ ∧ _ ∧ _ ∧ _ := by simpa only [State.lasting, Prod.mk.injEq] using e
  exact ⟨⟨hm ▸ h.mem, hp ▸ h.pending, ho ▸ h.out, hf ▸ h.freeCtr, hc ▸ h.ctrlFuses, hr ▸ h.rtFuses⟩, ht ▸ hs ▸ h.tripLatch⟩

theorem Keeps.takeFree {k : Nat} (h : Keeps s₀ s) : Keeps s₀ { s with freeCtr := s.freeCtr + k } :=
  { h with freeCtr := Nat.le_add_right_of_le h.freeCtr }

/-- An update that takes its firmware record from a state which keeps the fuse counts. -/
theorem Keeps.updFirm {f : State} (h : Keeps s₀ s) (hf : Keeps s₀ f)
    (e : t.lasting = { s with firm := f.firm }.lasting) : Keeps s₀ t :=
  Keeps.upd (s := { s with firm := f.firm }) { h with ctrlFuses := hf.ctrlFuses, rtFuses := hf.rtFuses } e

/-- An update that takes its power record from a state which keeps the THERMTRIP_N latch. -/
theorem Keeps.updPower {p : State} (h : Keeps s₀ s) (hp : Keeps s₀ p)
    (e : t.lasting = { s with power := p.power }.lasting) : Keeps s₀ t :=
  Keeps.upd (s := { s with power := p.power }) { h with tripLatch := fun ht hs => ⟨(hp.tripLatch ht hs).1, (h.tripLatch ht hs).2⟩ } e

theorem Keeps.updMem {m : List Host.Cell} (h : Keeps s₀ s) (hm : Memory.wf s.mem = true → Memory.wf m = true)
    (e : t.lasting = { s with mem := m }.lasting) : Keeps s₀ t :=
  Keeps.upd (s := { s with mem := m }) { h with mem := fun hw => hm (h.mem hw) } e

theorem Keeps.stopCores (h : Keeps s₀ s) (e : t.lasting = { s with coresStopped := true }.lasting) : Keeps s₀ t :=
  Keeps.upd (s := { s with coresStopped := true }) { h with tripLatch := fun ht hs => ⟨(h.tripLatch ht hs).1, rfl⟩ } e

/-- Once THERMTRIP_N is latched, an update that runs the cores only where it is not leaves their clocks stopped. -/
theorem Keeps.resumeCores {p : State} (h : Keeps s₀ s) (hp : Keeps s₀ p)
    (e : t.lasting = { s with coresStopped := p.power.tripped }.lasting) : Keeps s₀ t :=
  Keeps.upd (s := { s with coresStopped := p.power.tripped })
    { h with tripLatch := fun ht hs => ⟨(h.tripLatch ht hs).1, (hp.tripLatch ht hs).1⟩ } e

/-! ### Memory, registers and the outputs -/

theorem Keeps.store {n a x : Nat} (h : Keeps s₀ s) : Keeps s₀ (s.store n a x) :=
  { h with mem := fun hw => memPutNat_wf n s.mem a x (h.mem hw) }

theorem Keeps.storeMask {n a x mask : Nat} (h : Keeps s₀ s) : Keeps s₀ (s.storeMask n a x mask) :=
  { h with mem := fun hw => memPutMask_wf n s.mem a x mask (h.mem hw) }

theorem Keeps.storeBytes {a : Nat} {b : List Byte} (h : Keeps s₀ s) : Keeps s₀ (s.storeBytes a b) :=
  { h with mem := fun hw => memPutBytes_wf b s.mem a (h.mem hw) }

theorem Keeps.setCore {n : Nat} {c : Core} (h : Keeps s₀ s) : Keeps s₀ (s.setCore n c) := h.upd rfl

theorem Keeps.updCore {n : Nat} {f : Core → Core} (h : Keeps s₀ s) : Keeps s₀ (s.updCore n f) := h.setCore

theorem Keeps.mapCores {f : Core → Core} (h : Keeps s₀ s) : Keeps s₀ (s.mapCores f) := h.foldl fun h => h.updCore

theorem Keeps.setTb {n : Nat} {t : TimeBase} (h : Keeps s₀ s) : Keeps s₀ (s.setTb n t) := h.upd rfl

theorem Keeps.bumpFree (h : Keeps s₀ s) : Keeps s₀ s.bumpFree :=
  { h with freeCtr := Nat.le_succ_of_le h.freeCtr }

theorem Keeps.emit {o : Out} (h : Keeps s₀ s) : Keeps s₀ (s.emit o) :=
  { h with out := h.out.trans (List.prefix_append _ _) }

theorem Keeps.setTally {n : Nat} {t : Tally} (h : Keeps s₀ s) : Keeps s₀ (s.setTally n t) := h.upd rfl

theorem Keeps.setJob {j : Nat} {x : Job} (h : Keeps s₀ s) : Keeps s₀ (s.setJob j x) := h.upd rfl

theorem Keeps.setHqueue {q : Nat} {x : HQueue} (h : Keeps s₀ s) : Keeps s₀ (s.setHqueue q x) := h.upd rfl

/-! ### Objects -/

theorem Keeps.put {index sub v : Nat} (h : Keeps s₀ s) : Keeps s₀ (s.put index sub v) := h.upd rfl

theorem Keeps.bump {index sub : Nat} (h : Keeps s₀ s) : Keeps s₀ (s.bump index sub) := h.put

theorem Keeps.bumpBy {index sub n : Nat} (h : Keeps s₀ s) : Keeps s₀ (s.bumpBy index sub n) := h.put

theorem Keeps.putBlob {index sub : Nat} {b : List Byte} (h : Keeps s₀ s) : Keeps s₀ (s.putBlob index sub b) := h.upd rfl

/-! ### Attention, fences and the fault log -/

theorem Keeps.putB {b index sub v : Nat} (h : Keeps s₀ s) : Keeps s₀ (s.putB b index sub v) := h.upd rfl

theorem Keeps.bumpB {b index sub : Nat} (h : Keeps s₀ s) : Keeps s₀ (s.bumpB b index sub) := h.putB

theorem Keeps.countCore {n sel amt : Nat} (h : Keeps s₀ s) : Keeps s₀ (s.countCore n sel amt) := h.foldl fun h => h.put

theorem Keeps.countGlobal {sel amt : Nat} (h : Keeps s₀ s) : Keeps s₀ (s.countGlobal sel amt) := h.foldl fun h => h.put

theorem Keeps.latch {f b : Nat} (h : Keeps s₀ s) : Keeps s₀ (s.latch f b) := h.putB.bumpB

theorem Keeps.latchChanges {f old new : Nat} (h : Keeps s₀ s) : Keeps s₀ (s.latchChanges f old new) := by
  unfold State.latchChanges
  extract_lets _ s1 _ s2
  have hs1 : Keeps s₀ s1 := .ite (Keeps.ite h.latch h).latch (.ite h.latch h)
  have hs2 : Keeps s₀ s2 := .ite (Keeps.ite hs1.latch hs1).latch (.ite hs1.latch hs1)
  exact .ite (Keeps.ite hs2.latch hs2).latch (.ite hs2.latch hs2)

theorem Keeps.settleF {f : Nat} (h : Keeps s₀ s) : Keeps s₀ (s.settleF f) := h.latchChanges.unless fun h => h.putB.bumpB

theorem Keeps.settle (h : Keeps s₀ s) : Keeps s₀ s.settle := h.foldl fun h => h.settleF

theorem Keeps.attend {b court : Nat} (h : Keeps s₀ s) : Keeps s₀ (s.attend b court) := (Keeps.ite h.latch.latch h.latch).settle

theorem Keeps.violation {court : Nat} (h : Keeps s₀ s) : Keeps s₀ (s.violation court) := h.attend

theorem Keeps.lateEvent {court : Nat} (h : Keeps s₀ s) : Keeps s₀ (s.lateEvent court) := h.attend

theorem Keeps.traceWrite {n type slot court tb payload : Nat} (h : Keeps s₀ s) : Keeps s₀ (s.traceWrite n type slot court tb payload) := by
  unfold State.traceWrite
  extract_lets _ _ _ _ s1
  have hs1 : Keeps s₀ s1 := .ite h.store.countCore h.store
  exact hs1.setCore

theorem Keeps.trace {n type slot court tb payload : Nat} (h : Keeps s₀ s) :
    Keeps s₀ (s.trace n type slot court tb payload) :=
  .ite h.setCore (.ite h.setCore.bump (Keeps.ite h h.traceWrite).traceWrite.updCore)

theorem Keeps.xspiWrite {off : Nat} {b : List Byte} (h : Keeps s₀ s) : Keeps s₀ (s.xspiWrite off b) := h.foldl fun h => h.storeBytes.countGlobal

theorem Keeps.replayLog {kind : Nat} {payload : List Byte} (h : Keeps s₀ s) : Keeps s₀ (s.replayLog kind payload) := by
  unfold State.replayLog
  exact .ite h (.ite h.put (h.upd (by rfl)).xspiWrite.put)

theorem Keeps.carryIn {j kind : Nat} {payload : List Byte} (h : Keeps s₀ s) : Keeps s₀ (s.carryIn j kind payload) := .ite h.replayLog h

theorem Keeps.logFault {air tb grain cause action object court slot job info : Nat} (h : Keeps s₀ s) :
    Keeps s₀ (s.logFault air tb grain cause action object court slot job info) := by
  unfold State.logFault
  extract_lets _ _ _ s1 _ _ src _ s2 _ _ s3
  have hs1 : Keeps s₀ s1 := h.put.putBlob
  have hsrc : Keeps s₀ src := .ite hs1 hs1.xspiWrite
  have hs2 : Keeps s₀ s2 := .ite (hsrc.updFirm hs1 rfl) hs1
  have hs3 : Keeps s₀ s3 := .ite (Keeps.ite hs2.replayLog hs2).trace (.ite hs2.replayLog hs2)
  exact .ite hs3.attend hs3.settle

theorem Keeps.abandonSlices (h : Keeps s₀ s) : Keeps s₀ s.abandonSlices := by
  unfold State.abandonSlices
  extract_lets _ s1 src
  have hs1 : Keeps s₀ s1 := h.put
  have hsrc : Keeps s₀ src := hs1.mapCores
  exact .ite h (hsrc.updFirm hs1 rfl)

theorem Keeps.restartSequence {grain object : Nat} (h : Keeps s₀ s) : Keeps s₀ (s.restartSequence grain object) := by
  unfold State.restartSequence
  split
  · exact h.upd rfl
  · exact h

theorem Keeps.fenceObject {grain object cause info court : Nat} (h : Keeps s₀ s) : Keeps s₀ (s.fenceObject grain object cause info court) := by
  unfold State.fenceObject
  refine .ite h ?_
  extract_lets s1 s2
  have hs1 : Keeps s₀ s1 := h.abandonSlices.restartSequence
  have hs2 : Keeps s₀ s2 := hs1.upd rfl
  exact hs2.logFault

theorem Keeps.liftFence {grain object info : Nat} (h : Keeps s₀ s) : Keeps s₀ (s.liftFence grain object info) := by
  unfold State.liftFence
  split
  · exact (h.upd (by rfl)).logFault
  · exact h

theorem Keeps.fenceJob {j cause pc info : Nat} (h : Keeps s₀ s) : Keeps s₀ (s.fenceJob j cause pc info) := by
  unfold State.fenceJob
  extract_lets _ s1 _ s2 _ s3
  have hs1 : Keeps s₀ s1 := h.abandonSlices
  have hs2 : Keeps s₀ s2 := hs1.setJob.upd (by with_reducible rfl)
  have hs3 : Keeps s₀ s3 := hs2.upd (by with_reducible rfl)
  exact .ite hs3.logFault h

/-! ### Operations of a core -/

theorem Keeps.raise {n cause : Nat} {pc : Addr48} {info : Option (BitVec 32)} (h : Keeps s₀ s) :
    Keeps s₀ (s.raise n cause pc info) :=
  (Keeps.ite h.bumpFree h).bumpFree.setCore.fenceJob

theorem Keeps.fault {x : SylArg} {cause : Nat} {info : Option (BitVec 32)} (h : Keeps s₀ s) : Keeps s₀ (s.fault x cause info) := h.raise

theorem Keeps.streamFault {x : SylArg} {reason : Nat} (h : Keeps s₀ s) : Keeps s₀ (s.streamFault x reason) := h.fault

theorem Keeps.faultCtx {n k cause info : Nat} (h : Keeps s₀ s) : Keeps s₀ (s.faultCtx n k cause info) := .ite h.raise h.updCore.fenceJob

theorem Keeps.fenceCore {n cause info : Nat} (h : Keeps s₀ s) : Keeps s₀ (s.fenceCore n cause info) := by
  unfold State.fenceCore
  refine .ite h ?_
  extract_lets _ _ s2 s3
  have hs2 : Keeps s₀ s2 := h.fenceObject.foldl fun h => h.faultCtx
  have hs3 : Keeps s₀ s3 := hs2.foldl fun h => h.fenceJob
  exact hs3.updCore.settle

theorem Keeps.eccFault {n off : Nat} {pc : Addr48} (h : Keeps s₀ s) : Keeps s₀ (s.eccFault n off pc) := by
  unfold State.eccFault
  dsimp only
  refine .ite h.fenceCore ?_
  refine .ite h.raise ?_
  refine .ite h.faultCtx ?_
  split
  · exact h.faultCtx
  · exact h

theorem Keeps.eccRead {n off : Nat} {pc : Addr48} {e : EccFind} {k : State → State} (h : Keeps s₀ s) (hk : ∀ {t}, Keeps s₀ t → Keeps s₀ (k t)) :
    Keeps s₀ (s.eccRead n off pc e k) := by
  unfold State.eccRead
  split
  · exact hk h
  · exact hk h.bump
  · exact h.eccFault

theorem Keeps.sylRead {x : SylArg} {a : Nat} {k : State → State} (h : Keeps s₀ s) (hk : ∀ {t}, Keeps s₀ t → Keeps s₀ (k t)) :
    Keeps s₀ (s.sylRead x a k) :=
  h.eccRead fun h => hk h

theorem Keeps.coreCycle {n : Nat} (h : Keeps s₀ s) : Keeps s₀ (s.coreCycle n) := by
  unfold State.coreCycle
  extract_lets _ _ _ _ _ _ s1
  have hs1 : Keeps s₀ s1 := .ite h.countCore.countCore h
  exact .ite hs1.setCore.raise hs1.setCore

theorem Keeps.coreCycles {n k : Nat} (h : Keeps s₀ s) : Keeps s₀ (s.coreCycles n k) := by
  induction k generalizing s with
  | zero => exact h
  | succ k ih => exact ih h.coreCycle

theorem Keeps.result {n dest lat : Nat} {value : Vec} {mask : Pred} {sticky : Byte} {kind : Nat} (h : Keeps s₀ s) :
    Keeps s₀ (s.result n dest lat value mask sticky kind) :=
  h.updCore

theorem Keeps.result1 {n dest value : Nat} (h : Keeps s₀ s) : Keeps s₀ (s.result1 n dest value) := h.result

theorem Keeps.flagResult {x : SylArg} {f : Nat} (h : Keeps s₀ s) : Keeps s₀ (s.flagResult x f) := h.result1

theorem Keeps.stepWalkers {n : Nat} {pc : Addr48} (h : Keeps s₀ s) : Keeps s₀ (s.stepWalkers n pc) := by
  unfold State.stepWalkers
  refine h.foldl fun h => ?_
  extract_lets _ _ _ _ _ s1
  have hs1 : Keeps s₀ s1 := .ite h.setCore h.setCore.result
  exact .ite (.ite hs1.result hs1) h

theorem Keeps.traceJob {n type payload : Nat} (h : Keeps s₀ s) : Keeps s₀ (s.traceJob n type payload) := h.trace

/-! ### S0 and S1 syllables -/

theorem Keeps.aluFlags {x : SylArg} {r : Word32} {f : Nat} (h : Keeps s₀ s) : Keeps s₀ (s.aluFlags x r f) := h.result1.flagResult

theorem Keeps.alu {x : SylArg} {r : Word32} (h : Keeps s₀ s) : Keeps s₀ (s.alu x r) := h.result1

theorem Keeps.branchTo {n : Nat} {t : Addr48} (h : Keeps s₀ s) : Keeps s₀ (s.branchTo n t) := h.updCore

/-! ### L syllables -/

theorem Keeps.postInc {x : SylArg} (h : Keeps s₀ s) : Keeps s₀ (s.postInc x) := .ite h.result1 h

theorem Keeps.access {x : SylArg} {n : Nat} {k : Nat → State → State} (h : Keeps s₀ s) (hk : ∀ {a0 t}, Keeps s₀ t → Keeps s₀ (k a0 t)) :
    Keeps s₀ (s.access x n k) :=
  .ite h.fault (.ite h.fault (hk h).postInc)

theorem Keeps.load {x : SylArg} {n kind : Nat} {ext : Nat → Nat} (h : Keeps s₀ s) :
    Keeps s₀ (s.load x n kind ext) :=
  .ite (h.sylRead fun h => h) (h.access fun h => h.sylRead fun h => h.result)

theorem Keeps.dropCached {a n : Nat} (h : Keeps s₀ s) : Keeps s₀ (s.dropCached a n) := .ite h h.setCore

theorem Keeps.writeBytes {a : Nat} {b : List Byte} (h : Keeps s₀ s) : Keeps s₀ (s.writeBytes a b) := h.storeBytes.dropCached

theorem Keeps.storeSyl {x : SylArg} {n v : Nat} (h : Keeps s₀ s) : Keeps s₀ (s.storeSyl x n v) := h.access fun h => h.store.dropCached

theorem Keeps.opLdv {x : SylArg} (h : Keeps s₀ s) : Keeps s₀ (opLdv x s) := by
  unfold Machine.opLdv
  dsimp only
  split
  · refine .ite h.postInc ?_
    refine .ite h.result.postInc ?_
    refine .ite ?_ (.ite h.fault (.ite h.fault (.ite (h.sylRead fun h => h) (h.sylRead fun h => h.result).postInc)))
    exact .ite h.fault (.ite h.fault (.ite (h.sylRead fun h => h) (h.sylRead fun h => h.result).postInc))
  · refine .ite h.postInc ?_
    exact .ite h.fault (.ite h.fault (.ite (h.sylRead fun h => h) (h.sylRead fun h => h.result).postInc))

theorem Keeps.opStv {x : SylArg} (h : Keeps s₀ s) : Keeps s₀ (opStv x s) := by
  unfold Machine.opStv
  dsimp only
  split
  · exact .ite h.fault (.ite h.postInc (.ite h.fault (.ite h.fault h.storeMask.dropCached.postInc)))
  · exact .ite h.postInc (.ite h.fault (.ite h.fault h.storeMask.dropCached.postInc))

/-! ### A syllables -/

theorem Keeps.setEngine {n k e : Nat} {x : Engine} (h : Keeps s₀ s) : Keeps s₀ (s.setEngine n k e x) := h.updCore

theorem Keeps.onTally {x : SylArg} {sym : State → State} {k : Nat → State → State} (h :
    Keeps s₀ s) (hsym : ∀ {t}, Keeps s₀ t → Keeps s₀ (sym t)) (hk : ∀ {a0 t}, Keeps s₀ t → Keeps s₀ (k a0 t)) :
    Keeps s₀ (s.onTally x sym k) :=
  .ite (hsym h) (.ite (hk h) h.fault)

theorem Keeps.tallyAdd {t : Nat} {v : BitVec 32} (h : Keeps s₀ s) : Keeps s₀ (s.tallyAdd t v) := h.setTally

theorem Keeps.jobTallyAdd {j t : Nat} {v : BitVec 32} (h : Keeps s₀ s) : Keeps s₀ (s.jobTallyAdd j t v) := h.tallyAdd.carryIn

theorem Keeps.takeHandle {q j : Nat} {x : Nat × Nat × State} (h : Keeps s₀ s) (e : s.takeHandle q j = some x) : Keeps s₀ x.2.2 := by
  simp only [State.takeHandle] at e
  split at e
  · cases e
  · cases e
    exact h.setHqueue.upd (by with_reducible rfl)

theorem Keeps.putHandle {q hd j : Nat} (h : Keeps s₀ s) : Keeps s₀ (s.putHandle q hd j) := by
  unfold State.putHandle
  extract_lets _ src
  have hsrc : Keeps s₀ src := h.setHqueue
  exact hsrc.upd rfl

theorem Keeps.opHdeq {x : SylArg} (h : Keeps s₀ s) : Keeps s₀ (opHdeq x s) := by
  unfold Machine.opHdeq
  dsimp only
  refine .ite h.streamFault ?_
  split
  · exact h.result1
  · rename_i r e
    have h' := h.takeHandle e
    exact h'.updCore.result1

theorem Keeps.carryBuffer {j p hd q : Nat} (h : Keeps s₀ s) : Keeps s₀ (s.carryBuffer j p hd q) := h.carryIn

/-! ### V syllables -/

theorem Keeps.vput {x : SylArg} {w n : Nat} {f : Nat → Nat × Byte} (h : Keeps s₀ s) : Keeps s₀ (s.vput x w n f) := h.result

theorem Keeps.vmap {x : SylArg} {f : Nat → Nat × Byte} (h : Keeps s₀ s) : Keeps s₀ (s.vmap x f) := h.vput

theorem Keeps.vmap2 {x : SylArg} {f : Nat → Nat → Nat × Byte} (h : Keeps s₀ s) : Keeps s₀ (s.vmap2 x f) := h.vmap

theorem Keeps.opVtset {x : SylArg} (h : Keeps s₀ s) : Keeps s₀ (opVtset x s) := by
  unfold Machine.opVtset
  refine .ite h ?_
  refine .ite h.fault ?_
  refine .ite h.fault ?_
  exact .ite h.fault (.ite h.fault (.ite h.fault (h.setCore.result.when fun h => h.result)))

/-! ### M syllables -/

theorem Keeps.setNext {n : Nat} {f : NextPass → NextPass} (h : Keeps s₀ s) : Keeps s₀ (s.setNext n f) := h.updCore

theorem Keeps.numberNext {n : Nat} {f : NextPass → NextPass} (h : Keeps s₀ s) : Keeps s₀ (s.numberNext n f) := h.updCore

theorem Keeps.beginPass {n q : Nat} {p : Pass} (h : Keeps s₀ s) : Keeps s₀ (s.beginPass n q p) := by
  unfold State.beginPass
  exact h.countCore.updCore

theorem Keeps.issuePass {x : SylArg} {back : Bool} (h : Keeps s₀ s) : Keeps s₀ (s.issuePass x back) := by
  unfold State.issuePass
  dsimp only
  split
  · exact h.fault
  · refine .ite h.fault ?_
    iterate 7 refine .ite h.fault ?_
    exact .ite h.fault (.ite h.fault (.ite h.setCore.updCore (.ite h.setCore.beginPass h.setCore.setCore)))

/-! ### F syllables -/

theorem Keeps.fput {x : SylArg} {d : Nat} {f : Nat → Nat × Byte} (h : Keeps s₀ s) : Keeps s₀ (s.fput x d f) := h.result

theorem Keeps.bankRead {x : SylArg} {k : State → State} (h : Keeps s₀ s) (hk : ∀ {t}, Keeps s₀ t → Keeps s₀ (k t)) : Keeps s₀ (s.bankRead x k) := by
  unfold State.bankRead
  split
  · exact hk h
  · exact hk h.bump
  · exact h.fenceCore

theorem Keeps.fmap {x : SylArg} {f : Nat → Nat → Nat → Nat × Byte} (h : Keeps s₀ s) : Keeps s₀ (s.fmap x f) := h.bankRead fun h => h.fput

theorem Keeps.opLoop {x : SylArg} (h : Keeps s₀ s) : Keeps s₀ (opLoop x s) := by
  unfold Machine.opLoop
  extract_lets _ _ _ _ _ s1
  have hs1 : Keeps s₀ s1 := h.result1.result1.result1
  exact .ite (.ite hs1.updCore hs1) h.fault

/-! ### Issue of a bundle -/

theorem Keeps.jobState {j : Nat} {st : JobState} (h : Keeps s₀ s) : Keeps s₀ (s.jobState j st) := .ite h.setJob h

theorem Keeps.resumeCtx {n a : Nat} (h : Keeps s₀ s) : Keeps s₀ (s.resumeCtx n a) := by
  unfold State.resumeCtx
  exact h.setCore.traceJob.jobState

/-- What a slot syllable does. `delta` opens the syllables whose body begins with a `let`: the lemma does not match them otherwise. -/
theorem Keeps.runOp {op : CoreOp} {x : SylArg} (h : Keeps s₀ s) : Keeps s₀ (runOp op x s) := by
  unfold Machine.runOp
  cases op with
  | nop => exact h
  | add | sub | addi | and | or | xor | shl | shr | sra | mul | mulh => exact h.aluFlags
  | li | min | max | sel => exact h.alu
  | cmp | cmpi => exact h.flagResult
  | br | bri => exact .ite h.branchTo h
  | call => exact h.result1.branchTo
  | csrr => exact .ite h.fault (.ite h.fault (.ite h.bumpFree.result1 h.result1))
  | csrw => exact .ite h.fault (.ite h.fault h.result1)
  | csrc => exact .ite h.result1 h.fault
  | endJob => exact h.updCore
  | resume => exact .ite h.fault (h.sylRead fun h => .ite h.fenceJob h.updCore)
  | ldb | ldbu | ldh | ldhu | ldw | lda | ldp =>
    delta opLdb opLdbu opLdh opLdhu opLdw opLda opLdp
    exact h.load
  | ldv => exact h.opLdv
  | stb | sth | stw | sta | stp => exact h.storeSyl
  | stv => exact h.opStv
  | aadd | aaddi | amov | afromg | atog | sstat | mvfl => exact h.result1
  | sstart => exact .ite h.streamFault (.ite h.streamFault h.setEngine)
  | spause => exact h.setEngine
  | twait => exact h.onTally (fun h => h) fun h => h
  | tadd => exact h.onTally (fun h => h.fault) fun h => h.jobTallyAdd
  | tacq =>
    delta opTacq
    exact h.onTally (fun h => h.fault) fun h => .ite h.fault h.setTally.result1.result1
  | trel => exact h.onTally (fun h => h.fault) fun h => .ite h.setTally.result1 h.fault
  | tread => exact h.onTally (fun h => h.result1) fun h => h.result1
  | hdeq => exact h.opHdeq
  | henq => exact .ite h.streamFault (.ite h.streamFault h.carryBuffer.putHandle.updCore)
  | vadd | vsub | vmul | vmin | vmax | vabs | vand | vor | vxor | vshl | vmulrs =>
    delta opVadd opVsub opVmul opVmin opVmax opVabs opVand opVor opVxor opVshl opVmulrs
    exact h.vmap2
  | vfma | vsel | vbcast | vperm | vshuf | vexpand => exact h.vmap
  | vdmacs => exact h.result.result
  | vdnarrow | vcmp => exact h.result
  | vcvt => exact h.vput
  | vpack | vunpack => exact .ite h.vput h.fault
  | vcompress => exact .ite h.vmap.result h.vmap
  | vred => exact .ite h.fault (.ite h.fault (.ite h.updCore.result (.ite h.updCore.result h.updCore.result)))
  | vtset => exact h.opVtset
  | vmrd => exact .ite h.fault (.ite h.fault (.ite h.fault (.ite h.fault h.setCore.result)))
  | mtile => exact .ite h.fault (.ite h.fault (.ite h.fault h.setNext))
  | mwld => exact .ite h.fault (.ite h.fault h.numberNext)
  | mwpass => exact .ite h.streamFault h.numberNext
  | mpass | mbwd => exact h.issuePass
  | mrq =>
    delta opMrq
    exact h.setNext
  | msplit => exact .ite h.setCore h.fault
  | moutl => exact .ite h.fault h.setNext
  | fexp | flog | frcp | frsqrt | fsigm | ftanh | fsoftp | fsmooth => exact h.fmap
  | fsincos =>
    delta opFsincos
    exact h.bankRead fun h => h.fput.fput
  | fatan2 =>
    delta opFatan2
    exact h.bankRead fun h => h.fput
  | fmp => exact .ite h.fault (h.bankRead fun h => h.fput)
  | loop => exact h.opLoop
  | mvtl => exact .ite (.ite h.fault h.result1) h.result1
  | vsetvl => exact h.result1.result1
  | sfbank => exact .ite h.fault h.result1

theorem Keeps.actSyl {n : Nat} {y : Syl} (h : Keeps s₀ s) : Keeps s₀ (s.actSyl n y) := .ite h (.ite h.fault h.runOp)

theorem Keeps.runSyl {n : Nat} {y : Syl} (h : Keeps s₀ s) : Keeps s₀ (s.runSyl n y) := .ite h (.ite h.countCore.actSyl h.actSyl)

theorem Keeps.joinWaiters {n : Nat} {y : Syl} (h : Keeps s₀ s) : Keeps s₀ (s.joinWaiters n y) := .ite h.setTally h

theorem Keeps.markBundle {n : Nat} (h : Keeps s₀ s) : Keeps s₀ (s.markBundle n) := .ite h.updCore.traceJob h

theorem Keeps.jobStart {n : Nat} (h : Keeps s₀ s) : Keeps s₀ (s.jobStart n) := .ite h.updCore.traceJob h

theorem Keeps.finishBundle {n : Nat} (h : Keeps s₀ s) : Keeps s₀ (s.finishBundle n) := by
  unfold State.finishBundle
  dsimp only
  refine .ite h.updCore ?_
  refine .ite h.resumeCtx ?_
  refine .ite h.updCore.coreCycle ?_
  split <;> exact h.stepWalkers.updCore.coreCycle

theorem Keeps.holdBundle {n : Nat} (h : Keeps s₀ s) : Keeps s₀ (s.holdBundle n) := by
  unfold State.holdBundle
  extract_lets _ _ s1
  have hs1 : Keeps s₀ s1 := (h.foldl fun h => h.joinWaiters).countCore
  exact hs1.updCore.coreCycle

theorem Keeps.issueBundle {n : Nat} (h : Keeps s₀ s) : Keeps s₀ (s.issueBundle n) := by
  unfold State.issueBundle
  extract_lets _ _ _ s1
  have hs1 : Keeps s₀ s1 := (h.updCore.coreCycles.when fun h => h.countCore).jobStart.markBundle
  refine .ite h.updCore.coreCycles.finishBundle ?_
  refine .ite h.updCore.coreCycles.raise.finishBundle ?_
  refine .ite h.updCore.coreCycles.raise.finishBundle ?_
  exact .ite h.updCore.coreCycles.holdBundle (hs1.updCore.foldl fun h => h.runSyl).finishBundle

theorem Keeps.stage {op : CoreOp} {is : Issue} (h : Keeps s₀ s) :
    Keeps s₀ (s.stage op is) :=
  .ite h (.ite (Keeps.ite h.updCore h).issueBundle (.ite h.updCore h))

theorem Keeps.stageHeader {is : Issue} (h : Keeps s₀ s) : Keeps s₀ (s.stageHeader is) := by
  unfold State.stageHeader
  refine .ite h ?_
  refine .ite h.eccFault.finishBundle ?_
  exact h.eccRead fun h => .ite h.raise.finishBundle (.ite h.updCore.issueBundle h.updCore)

/-! ### The start of a job -/

theorem Keeps.setOrder {i : Nat} {o : Order} (h : Keeps s₀ s) : Keeps s₀ (s.setOrder i o) := h.upd rfl

theorem Keeps.forOf {y : Job} (h : Keeps s₀ s) : Keeps s₀ (s.forOf y) := by
  unfold State.forOf
  split
  · exact h.upd rfl
  · exact h

theorem Keeps.forJob {j : Nat} (h : Keeps s₀ s) : Keeps s₀ (s.forJob j) := h.forOf

theorem Keeps.noteSample {n : Nat} {p : Purpose} {j : Nat} (h : Keeps s₀ s) : Keeps s₀ (s.noteSample n p j) := h.replayLog

theorem Keeps.encodeLate {j : Nat} (h : Keeps s₀ s) : Keeps s₀ (s.encodeLate j) := h.foldl fun h => h.setOrder.bump.lateEvent

theorem Keeps.startChecks {j : Nat} (h : Keeps s₀ s) :
    Keeps s₀ (s.startChecks j) :=
  .ite (h.noteSample.when fun h => h.setJob.bump) (.ite h.encodeLate h)

/-! ### The scheduler -/

theorem Keeps.startCtx {n k : Nat} (h : Keeps s₀ s) : Keeps s₀ (s.startCtx n k) := by
  unfold State.startCtx
  extract_lets _ _ _ _ _ s1
  have hs1 : Keeps s₀ s1 := h.setCore.takeFree
  exact hs1.jobState.startChecks

theorem Keeps.startNext {n : Nat} (h : Keeps s₀ s) : Keeps s₀ (s.startNext n) := by
  unfold State.startNext
  dsimp only
  refine .ite h ?_
  split
  · exact .ite h.startCtx h
  · exact h

theorem Keeps.requestStop {n : Nat} {tile : Bool} (h : Keeps s₀ s) : Keeps s₀ (s.requestStop n tile) := h.updCore

theorem Keeps.preempt {n : Nat} (h : Keeps s₀ s) : Keeps s₀ (s.preempt n) := by
  unfold State.preempt
  dsimp only
  split
  · exact .ite h.requestStop.noteSample h
  · exact h

theorem Keeps.linkChain {j : Nat} (h : Keeps s₀ s) : Keeps s₀ (s.linkChain j) := by
  unfold State.linkChain
  refine .ite h ?_
  dsimp only
  split
  · exact (Keeps.ite h h.mapCores).foldl fun h => h.updCore
  · exact h

theorem Keeps.placeOn {j n : Nat} (h : Keeps s₀ s) : Keeps s₀ (s.placeOn j n) := by
  unfold State.placeOn
  dsimp only
  split
  · exact h.setCore.setJob.linkChain.startNext.preempt
  · exact h

theorem Keeps.tryPlace {j : Nat} (h : Keeps s₀ s) : Keeps s₀ (s.tryPlace j) := by
  unfold State.tryPlace
  dsimp only
  split
  · exact h.placeOn
  · exact h.setJob

theorem Keeps.placeHead {court : Nat} (h : Keeps s₀ s) : Keeps s₀ (s.placeHead court) := by
  unfold State.placeHead
  split
  · exact .ite h.tryPlace h
  · exact h

theorem Keeps.storeLands {a i : Nat} {l : List Land} (h : Keeps s₀ s) : Keeps s₀ (s.storeLands a i l) := by
  induction l generalizing s i with
  | nil => exact h
  | cons x l ih => exact ih h.store.store

theorem Keeps.storeEntries {a g q e : Nat} {l : List (Pass × ARow)} (h : Keeps s₀ s) : Keeps s₀ (s.storeEntries a g q e l) := by
  induction l generalizing s e with
  | nil => exact h
  | cons x l ih =>
    refine ih (h.foldl fun h => ?_)
    split
    · exact h.store
    · exact h

/-- A store of free values, which uses up `k` of them (log entry 3). -/
theorem Keeps.storeFree {n a x k : Nat} (h : Keeps s₀ s) : Keeps s₀ { s.store n a x with freeCtr := s.freeCtr + k } :=
  { h.store with freeCtr := Nat.le_add_right_of_le h.freeCtr }

theorem Keeps.storeMatrix {a : Nat} {gs : Tbl Group} {split : Nat} {mc : Tbl MCont} (h : Keeps s₀ s) : Keeps s₀ (s.storeMatrix a gs split mc) := by
  unfold State.storeMatrix
  refine h.storeFree.foldl fun h => ?_
  extract_lets _ _ s2
  have hs2 : Keeps s₀ s2 := h.storeEntries.foldl fun h => h.store
  split
  · exact hs2.foldl fun h => h.store
  · exact hs2

theorem Keeps.drainBubble {n : Nat} (h : Keeps s₀ s) : Keeps s₀ (s.drainBubble n) := h.updCore.coreCycles

theorem Keeps.saveCtx {n cause : Nat} (h : Keeps s₀ s) : Keeps s₀ (s.saveCtx n cause) := by
  unfold State.saveCtx
  extract_lets s1 _ _ _ _ _ _ _ _ _ _ s4 _ _ s7 s8 _ _ _ s9 s10
  have hs1 : Keeps s₀ s1 := h.takeFree
  have hs4 : Keeps s₀ s4 := hs1.store.store.store.store
  have hs7 : Keeps s₀ s7 := hs4.store.store.storeLands
  have hs8 : Keeps s₀ s8 := .ite hs7.storeMatrix hs7
  have hs9 : Keeps s₀ s9 := hs8.bumpFree.setCore.traceJob
  have hs10 : Keeps s₀ s10 := hs9.upd rfl
  exact hs10.jobState

theorem Keeps.returnHandle {p hd : Nat} (h : Keeps s₀ s) : Keeps s₀ (s.returnHandle p hd) := h.putHandle

theorem Keeps.returnHandles {j : Nat} (h : Keeps s₀ s) : Keeps s₀ (s.returnHandles j) := .ite h (h.foldl fun h => h.returnHandle)

theorem Keeps.abandonTallies {j : Nat} (h : Keeps s₀ s) : Keeps s₀ (s.abandonTallies j) := by
  unfold State.abandonTallies
  exact .ite h (h.upd (by rfl)).bumpBy

theorem Keeps.freeCtx {n k : Nat} (h : Keeps s₀ s) : Keeps s₀ (s.freeCtx n k) := by
  unfold State.freeCtx
  extract_lets
  exact h.updCore.upd (by with_reducible rfl)

theorem Keeps.judge {j : Nat} (h : Keeps s₀ s) : Keeps s₀ (s.judge j) := by
  unfold State.judge
  extract_lets _ _ _ s2 s3
  have hs2 : Keeps s₀ s2 := h.setJob.noteSample.when fun h => h.bump
  have hs3 : Keeps s₀ s3 := .ite (hs2.upd rfl) hs2
  exact .ite h (.ite hs3.bump.lateEvent hs3)

theorem Keeps.completeJob {j : Nat} (h : Keeps s₀ s) : Keeps s₀ (s.completeJob j) := .ite h.judge.setJob.bump h

/-! ### Events of a core -/

theorem Keeps.execTileStopTimeout {core : Fin 64} (h : Keeps s₀ s) : Answers s₀ (execTileStopTimeout core s) := by
  unfold Machine.execTileStopTimeout
  refine .ite h.next ?_
  split
  · exact (Keeps.ite h.updCore h).next
  · exact h.next

theorem Keeps.takeStop {n cause : Nat} (h : Keeps s₀ s) :
    Keeps s₀ (s.takeStop n cause) :=
  h.drainBubble.unless fun h => h.countCore.saveCtx.bump.startNext

theorem Keeps.execStopTile {core : Fin 64} (h : Keeps s₀ s) : Answers s₀ (execStopTile core s) := by
  unfold Machine.execStopTile
  refine .ite h.next ?_
  dsimp only
  split
  · exact (Keeps.ite h.takeStop h).next
  · exact h.next

theorem Keeps.execStopBundle {core : Fin 64} (h : Keeps s₀ s) : Answers s₀ (execStopBundle core s) := by
  unfold Machine.execStopBundle
  refine .ite h.next ?_
  dsimp only
  split
  · exact (Keeps.ite h.takeStop h).next
  · exact h.next

theorem Keeps.execBlocked {core : Fin 64} (h : Keeps s₀ s) : Answers s₀ (execBlocked core s) := by
  unfold Machine.execBlocked
  refine .ite h.next ?_
  dsimp only
  split
  · exact (Keeps.ite h.countCore.saveCtx.updCore.startNext h).next
  · exact h.next

theorem Keeps.execJobEnd {core : Fin 64} (h : Keeps s₀ s) : Answers s₀ (execJobEnd core s) := by
  unfold Machine.execJobEnd
  refine .ite h.next ?_
  extract_lets _ _ _ _ s2 _ s4
  have hs2 : Keeps s₀ s2 := h.traceJob.returnHandles.abandonTallies
  have hs4 : Keeps s₀ s4 := hs2.updCore.bumpFree.freeCtx.updCore
  exact (Keeps.ite hs4.bumpFree.completeJob.startNext h).next

theorem Keeps.updGroup {n q : Nat} {f : Group → Group} (h : Keeps s₀ s) : Keeps s₀ (s.updGroup n q f) := h.updCore

theorem Keeps.abandonFault {n q : Nat} {p : Pass} {cause info : Nat} (h : Keeps s₀ s) :
    Keeps s₀ (s.abandonFault n q p cause info) := h.updGroup.faultCtx

theorem Keeps.execPassBegin {core : Fin 64} {group : Fin 4} (h : Keeps s₀ s) : Answers s₀ (execPassBegin core group s) := by
  unfold Machine.execPassBegin
  refine .ite h.next ?_
  dsimp only
  split
  · exact (Keeps.ite h h.updGroup.beginPass).next
  · refine Keeps.next ?_
    refine .ite h ?_
    refine .ite h.updGroup.beginPass ?_
    refine .ite h ?_
    split
    · exact h
    · exact h.abandonFault
    · exact h.updGroup.beginPass
  · exact h.next

theorem Keeps.execTileFillDone {core : Fin 64} {group : Fin 4} {tile : BitVec 16} {parity : BitVec 2} (h : Keeps s₀ s) :
    Answers s₀ (execTileFillDone core group tile parity s) := by
  unfold Machine.execTileFillDone
  refine .ite h.next ?_
  extract_lets
  split
  · extract_lets _ _ _ _ _ s1
    have hs1 : Keeps s₀ s1 := .ite h h.countCore.countCore
    exact (Keeps.ite h hs1.bumpBy.updCore).next
  · exact h.next

theorem Keeps.execBandSwap {core : Fin 64} {group : Fin 4} (h : Keeps s₀ s) : Answers s₀ (execBandSwap core group s) := by
  unfold Machine.execBandSwap
  refine .ite h.next ?_
  dsimp only
  split
  · refine Keeps.next ?_
    refine .ite h ?_
    split
    · refine .ite h.updGroup ?_
      split
      · exact h
      · exact h.abandonFault
      · exact h.updGroup
    · exact h.updGroup
  · exact h.next

theorem Keeps.ctxSticky {n k : Nat} {b : Byte} (h : Keeps s₀ s) : Keeps s₀ (s.ctxSticky n k b) := .ite h h.updCore

theorem Keeps.execOutputRowReady {core : Fin 64} {group : Fin 4} (h : Keeps s₀ s) : Answers s₀ (execOutputRowReady core group s) := by
  unfold Machine.execOutputRowReady
  refine .ite h.next ?_
  extract_lets
  split
  · extract_lets
    split
    · exact h.next
    · exact h.abandonFault.next
    · extract_lets _ _ _ s2 s3
      have hs2 : Keeps s₀ s2 := .ite h.updGroup.updCore h.updGroup
      have hs3 : Keeps s₀ s3 := .ite hs2.countCore.updCore hs2
      exact hs3.ctxSticky.next
  · exact h.next

theorem Keeps.execTileBoundary {core : Fin 64} {group : Fin 4} (h : Keeps s₀ s) : Answers s₀ (execTileBoundary core group s) := by
  unfold Machine.execTileBoundary
  refine .ite h.next ?_
  dsimp only
  split
  · exact (Keeps.ite h.updGroup h).next
  · exact h.next

theorem Keeps.groupFault {n q mask : Nat} (h : Keeps s₀ s) : Keeps s₀ (s.groupFault n q mask) := by
  unfold State.groupFault
  extract_lets _ _ _ _ s2 _ s3
  have hs2 : Keeps s₀ s2 := by
    dsimp only [s2]
    split
    · exact h.updCore.faultCtx
    · exact h.updCore
  have hs3 : Keeps s₀ s3 := hs2.foldl fun h => h.updCore.fenceObject
  exact .ite hs3.fenceCore hs3

theorem Keeps.execStoreDrain {core : Fin 64} {group : Fin 4} {eccFault : Bool} (h : Keeps s₀ s) :
    Answers s₀ (execStoreDrain core group eccFault s) := by
  unfold Machine.execStoreDrain
  refine .ite h.next ?_
  extract_lets
  split
  · extract_lets _ _ s1
    have hs1 : Keeps s₀ s1 := h.foldl fun h => h.store.dropCached
    refine .ite h.next ?_
    exact .ite h.groupFault.next (.ite h.updGroup.faultCtx.next hs1.updCore.countCore.ctxSticky.next)
  · exact h.next

theorem Keeps.execSplitTakesEffect {core : Fin 64} (h : Keeps s₀ s) : Answers s₀ (execSplitTakesEffect core s) := by
  unfold Machine.execSplitTakesEffect
  refine .ite h.next ?_
  dsimp only
  split
  · exact (Keeps.ite h h.updCore).next
  · exact h.next

theorem Keeps.execGroupScrubEnd {core : Fin 64} {group : Fin 4} (h : Keeps s₀ s) : Answers s₀ (execGroupScrubEnd core group s) := by
  unfold Machine.execGroupScrubEnd
  dsimp only
  refine Keeps.next ?_
  refine .ite ?_ h
  split
  · exact h.updGroup.updGroup.beginPass
  · exact h.updGroup

/-! ### Carriers and symbol buffers -/

theorem Keeps.setPresent {c : Nat} {dl : Bool} {n port prb : Nat} (h : Keeps s₀ s) : Keeps s₀ (s.setPresent c dl n port prb) := h.store

theorem Keeps.slotHeader {c : Nat} {dl : Bool} {n air : Nat} (h : Keeps s₀ s) : Keeps s₀ (s.slotHeader c dl n air) := h.store.store

theorem Keeps.clearPresence {c : Nat} {dl : Bool} {n : Nat} (h : Keeps s₀ s) : Keeps s₀ (s.clearPresence c dl n) := h.store

theorem Keeps.tallyWrite {a : Nat} {b : List Byte} {bad : State → State} (h : Keeps s₀ s) (hbad : ∀ {t}, Keeps s₀ t → Keeps s₀ (bad t)) :
    Keeps s₀ (s.tallyWrite a b bad) :=
  .ite h.tallyAdd (hbad h)

/-! ### Stream programs -/

theorem Keeps.engineFault {n e reason : Nat} (h : Keeps s₀ s) : Keeps s₀ (s.engineFault n e reason) := h.raise

theorem Keeps.onEngine {x : StreamIssue} {opc : Nat} {ok : Bool} {f : Engine → State → State} (h :
    Keeps s₀ s) (hf : ∀ {a0 t}, Keeps s₀ t → Keeps s₀ (f a0 t)) :
    Keeps s₀ (s.onEngine x opc ok f) := by
  unfold State.onEngine
  refine .ite h ?_
  refine .ite h.engineFault ?_
  exact .ite h.engineFault (.ite h.engineFault (h.eccRead fun h => .ite h.engineFault (hf h)))

theorem Keeps.endInstr {x : StreamIssue} {g : Engine} (h : Keeps s₀ s) : Keeps s₀ (s.endInstr x g) := h.setEngine

theorem Keeps.engineStats {n e mode chan t : Nat} {v : Int × Int} {raw : Nat} (h : Keeps s₀ s) :
    Keeps s₀ (s.engineStats n e mode chan t v raw) :=
  .ite h (.ite h.put.putBlob h.put)

theorem Keeps.tagBlock {a n t : Nat} (h : Keeps s₀ s) : Keeps s₀ (s.tagBlock a n t) := h.upd rfl

theorem Keeps.engineStore {court a n v : Nat} (h : Keeps s₀ s) :
    Keeps s₀ (s.engineStore court a n v) :=
  .ite (h.tallyWrite fun h => h.violation) (.ite h.emit h.store.dropCached)

theorem Keeps.takeLine {n : Nat} {l : LineRef} {x y : MoveRun} (h : Keeps s₀ x.s) (e : takeLine n l x = some y) : Keeps s₀ y.s := by
  simp only [Machine.takeLine] at e
  generalize (if l.2 = true then x.g.lastScale else x.g.lastLine) = last at e
  split at e
  · cases e; exact h
  · split at e
    · cases e; exact h.countCore
    · split at e
      · cases e; exact h.countCore.upd rfl
      · cases e

theorem Keeps.takeLines {n : Nat} {l : List LineRef} {x y : MoveRun} (h : Keeps s₀ x.s) (e : takeLines n l x = some y) : Keeps s₀ y.s := by
  induction l generalizing x with
  | nil => cases e; exact h
  | cons a l ih =>
    obtain ⟨z, hz, e⟩ := Option.bind_eq_some_iff.1 e
    exact ih (h.takeLine hz) e

theorem Keeps.bfpClamp {v : Int × Int} {r : MoveRun} (h : Keeps s₀ r.s) : Keeps s₀ (bfpClamp v r).s := by
  unfold Machine.bfpClamp
  split
  · exact .iteOf MoveRun.s h.bump.violation.inRun h
  · exact h

theorem Keeps.moveToBlock {n e : Nat} {d : BitVec 512} {base scale : Nat} {r : MoveRun} (h : Keeps s₀ r.s) :
    Keeps s₀ (moveToBlock n e d base scale r).s := by
  unfold Machine.moveToBlock
  dsimp only
  refine .iteOf MoveRun.s (.ite h h.engineStats) ?_
  split
  · exact h
  · rename_i r1 e
    have h' := (Keeps.ite h h.engineStats).takeLines e
    split
    · refine .engineStore (.foldl (.ite h'.engineStore ?_) fun h => h.engineStats)
      exact h'.engineStore.upd rfl
    · dsimp only
      exact .updCore (.engineStore (.ite h'.engineStore h'.engineStore.tagBlock))

theorem Keeps.moveToTensor {n e : Nat} {d : BitVec 512} {base scale : Nat} {r : MoveRun} (h : Keeps s₀ r.s) :
    Keeps s₀ (moveToTensor n e d base scale r).s := by
  unfold Machine.moveToTensor
  extract_lets
  refine .iteOf MoveRun.s h ?_
  refine .iteOf MoveRun.s h.moveToBlock ?_
  split
  · exact h
  · rename_i r1 e
    have h' := h.takeLines e
    extract_lets r2
    have hr2 : Keeps s₀ r2.s := h'.engineStore.inRun.bfpClamp
    exact hr2.engineStats.inRun

theorem Keeps.moveToSymbol {n e : Nat} {w : BitVec 64} {sym : BitVec 32} {r : MoveRun} (h : Keeps s₀ r.s) :
    Keeps s₀ (moveToSymbol n e w sym r).s := by
  unfold Machine.moveToSymbol
  extract_lets
  iterate 3 refine .iteOf MoveRun.s h ?_
  split
  · exact h
  · rename_i r1 e
    have h' := h.takeLines e
    extract_lets _ s1 s2
    have hs1 : Keeps s₀ s1 := .ite h' (h'.slotHeader.unless fun h => h.clearPresence)
    have hs2 : Keeps s₀ s2 := hs1.foldl fun h => h.engineStats
    exact hs2.storeBytes.setPresent.inRun

theorem Keeps.moveUnit {n e : Nat} {r : MoveRun} (h : Keeps s₀ r.s) : Keeps s₀ (moveUnit n e r).s := by
  unfold Machine.moveUnit
  dsimp only
  refine .iteOf MoveRun.s ?_ ?_
  · refine Keeps.inRun ?_
    split
    · exact h.bump
    · exact h
  · split
    · exact h.moveToTensor
    · exact h.moveToSymbol
    · exact h

theorem Keeps.moveLoop {n e k : Nat} {x : MoveRun} (h : Keeps s₀ x.s) : Keeps s₀ (moveLoop n e k x).s := by
  induction k generalizing x with
  | zero => exact h
  | succ k ih => exact .iteOf MoveRun.s h (ih h.moveUnit)

theorem Keeps.runMove {n e : Nat} {g : Engine} {left : Nat} {exhaust : Bool} {ext : List Byte} (h : Keeps s₀ s) :
    Keeps s₀ (s.runMove n e g left exhaust ext) := by
  unfold State.runMove
  dsimp only
  split
  · exact h.moveLoop.setEngine.engineFault
  · exact .ite h.moveLoop.setEngine h.moveLoop.setEngine

theorem Keeps.giveHandle {n k e hk : Nat} {g : Engine} {q : Nat} (h : Keeps s₀ s) : Keeps s₀ (s.giveHandle n k e hk g q) := by
  unfold State.giveHandle
  split
  · rename_i r e
    have h' := h.takeHandle e
    exact h'.setEngine
  · exact h

theorem Keeps.execHget {x : StreamIssue} (h : Keeps s₀ s) :
    Answers s₀ (execHget x s) :=
  (h.onEngine fun h => .ite h.engineFault (.ite h.engineFault (.ite h.engineFault (.ite h.setEngine h.giveHandle)))).next

theorem Keeps.execHput {x : StreamIssue} (h : Keeps s₀ s) : Answers s₀ (execHput x s) := by
  unfold Machine.execHput
  refine Keeps.next ?_
  refine .onEngine h fun h => ?_
  dsimp only
  split
  · exact h.engineFault
  · exact .ite h.engineFault (.ite h.engineFault h.carryBuffer.putHandle.setEngine)

theorem Keeps.execAmode {x : StreamIssue} (h : Keeps s₀ s) : Answers s₀ (execAmode x s) := by
  unfold Machine.execAmode
  refine Keeps.next ?_
  refine .onEngine h fun h => ?_
  dsimp only
  split
  · exact .ite h.endInstr h.engineFault
  · exact h.engineFault

/-! ### Host rings -/

theorem Keeps.hostViolation {f : Nat} (h : Keeps s₀ s) : Keeps s₀ (s.hostViolation f) := h.bump.violation

theorem Keeps.setFunc {f : Nat} {x : Func} (h : Keeps s₀ s) : Keeps s₀ (s.setFunc f x) := h.upd rfl

theorem Keeps.setRing {f q : Nat} {r : Ring} (h : Keeps s₀ s) : Keeps s₀ (s.setRing f q r) := h.setFunc

theorem Keeps.advanceDev {f q n : Nat} (h : Keeps s₀ s) : Keeps s₀ (s.advanceDev f q n) := by
  unfold State.advanceDev
  extract_lets _ _ _ s2
  have hs2 : Keeps s₀ s2 := .ite h.setRing h.setRing.emit
  split
  · exact .ite hs2.setFunc hs2
  · exact hs2

theorem Keeps.ringWrite {base unit cap pos : Nat} {b : List Byte} (h : Keeps s₀ s) :
    Keeps s₀ (s.ringWrite base unit cap pos b) :=
  .ite h.emit h.emit.emit

theorem Keeps.drainHeld {f q k : Nat} (h : Keeps s₀ s) : Keeps s₀ (s.drainHeld f q k) := by
  induction k generalizing s with
  | zero => exact h
  | succ k ih =>
    unfold State.drainHeld
    extract_lets
    split
    · exact .ite (ih h.setRing.ringWrite.advanceDev) h
    · exact h

theorem Keeps.record {f r : Nat} {b : List Byte} (h : Keeps s₀ s) :
    Keeps s₀ (s.record f r b) :=
  .ite h.hostViolation (.ite h.ringWrite.advanceDev (.ite h.setRing h.hostViolation))

theorem Keeps.replyEntry {f : Nat} {b : List Byte} (h : Keeps s₀ s) : Keeps s₀ (s.replyEntry f b) := by
  unfold State.replyEntry
  exact h.ringWrite.advanceDev

theorem Keeps.hostWrite {a : Nat} {b : List Byte} (h : Keeps s₀ s) : Keeps s₀ (s.hostWrite a b) := .ite h h.emit

/-! ### The Megorlink link layer -/

theorem Keeps.setMport {p : Nat} {x : MglPort} (h : Keeps s₀ s) : Keeps s₀ (s.setMport p x) := h.upd rfl

theorem Keeps.sendControl {p type seq vc : Nat} (h : Keeps s₀ s) : Keeps s₀ (s.sendControl p type seq vc) := h.emit.setMport

theorem Keeps.pump {p k : Nat} (h : Keeps s₀ s) : Keeps s₀ (s.pump p k) := by
  induction k generalizing s with
  | zero => exact h
  | succ k ih =>
    unfold State.pump
    extract_lets
    split
    · split
      · exact ih h.emit.countGlobal.setMport
      · exact h
    · exact h

theorem Keeps.pumpAll {p : Nat} (h : Keeps s₀ s) : Keeps s₀ (s.pumpAll p) := h.pump

theorem Keeps.serveTrees (h : Keeps s₀ s) : Keeps s₀ s.serveTrees := h.upd rfl

theorem Keeps.deal {nb vc kind src dst : Nat} {packet : List Byte} (h : Keeps s₀ s) : Keeps s₀ (s.deal nb vc kind src dst packet) := by
  unfold State.deal
  split
  · exact (h.upd (by rfl)).setMport.pumpAll
  · exact h

theorem Keeps.sendVia {nb c vc kind : Nat} {b : List Byte} (h : Keeps s₀ s) : Keeps s₀ (s.sendVia nb c vc kind b) := by
  unfold State.sendVia
  extract_lets
  exact (h.upd (by rfl)).deal

theorem Keeps.sendMgl {c vc kind : Nat} {b : List Byte} (h : Keeps s₀ s) : Keeps s₀ (s.sendMgl c vc kind b) := by
  unfold State.sendMgl
  refine .ite h ?_
  split
  · exact h.sendVia
  · exact h

theorem Keeps.sendDown {m c kind : Nat} {b : List Byte} (h : Keeps s₀ s) : Keeps s₀ (s.sendDown m c kind b) := by
  unfold State.sendDown
  split
  · exact h.sendVia
  · exact h.sendMgl

/-! ### The Bench -/

theorem Keeps.ownPages {l : List Nat} {o : Nat} (h : Keeps s₀ s) : Keeps s₀ (s.ownPages l o) := h.upd rfl

theorem Keeps.dropModel {m : Nat} (h : Keeps s₀ s) : Keeps s₀ (s.dropModel m) := by
  unfold State.dropModel
  extract_lets src
  have hsrc : Keeps s₀ src := h.ownPages
  exact hsrc.upd rfl

theorem Keeps.evictUntil {need : Nat} {l : List Nat} (h : Keeps s₀ s) : Keeps s₀ (s.evictUntil need l) := by
  induction l generalizing s with
  | nil => exact h
  | cons m l ih => exact .ite h (ih h.dropModel.bump)

theorem Keeps.requestLoad {m rally : Nat} {demand : Bool} (h : Keeps s₀ s) : Keeps s₀ (s.requestLoad m rally demand).1 := by
  unfold State.requestLoad
  extract_lets _ _ _ s2
  have hs2 : Keeps s₀ s2 := h.evictUntil.ownPages
  exact .iteOf Prod.fst h.bump.pair (hs2.upd (by rfl)).pair

theorem Keeps.demandLoad {m : Nat} (h : Keeps s₀ s) : Keeps s₀ (s.demandLoad m) := .ite h.requestLoad h

theorem Keeps.cancelLoad {l : Load} (h : Keeps s₀ s) : Keeps s₀ (s.cancelLoad l) := by
  unfold State.cancelLoad
  extract_lets src
  have hsrc : Keeps s₀ src := h.ownPages
  exact hsrc.upd rfl

theorem Keeps.releaseRallyLoads {id : Nat} (h : Keeps s₀ s) : Keeps s₀ (s.releaseRallyLoads id) := by
  unfold State.releaseRallyLoads
  extract_lets s1
  have hs1 : Keeps s₀ s1 := h.foldl fun h => h.cancelLoad
  exact hs1.upd rfl

theorem Keeps.serveRallyLoads {id : Nat} (h : Keeps s₀ s) : Keeps s₀ (s.serveRallyLoads id) := h.upd rfl

theorem Keeps.execBenchLoadRequest {model : BitVec 16} {rally : BitVec 32} (h : Keeps s₀ s) : Answers s₀ (execBenchLoadRequest model rally s) := by
  unfold Machine.execBenchLoadRequest
  extract_lets _ _ q
  have hq : Keeps s₀ q.1 := h.requestLoad
  exact .ite h.next (.ite h.demandLoad.next (.ite (Keeps.ite hq (hq.upd (by with_reducible rfl))).next h.next))

theorem Keeps.failRallyLoad {r : Nat} (h : Keeps s₀ s) : Keeps s₀ (s.failRallyLoad r) := h.upd rfl

theorem Keeps.execBenchPageLoaded {crcOk : Bool} (h : Keeps s₀ s) : Answers s₀ (execBenchPageLoaded crcOk s) := by
  unfold Machine.execBenchPageLoaded
  split
  · refine Keeps.next ?_
    refine .ite h ?_
    refine .ite ?_ ?_
    · extract_lets _ _ s1 src
      have hs1 : Keeps s₀ s1 := h.foldl fun h => h.countGlobal
      have hsrc : Keeps s₀ src := hs1.storeBytes
      exact hsrc.upd (by with_reducible rfl)
    · refine .ite (h.upd (by with_reducible rfl)) ?_
      extract_lets s1
      have hs1 : Keeps s₀ s1 := h.cancelLoad.bump.failRallyLoad
      exact hs1.upd (by with_reducible rfl)
  · exact h.next

theorem Keeps.execBenchLoadEnd (h : Keeps s₀ s) : Answers s₀ (execBenchLoadEnd s) := by
  unfold Machine.execBenchLoadEnd
  split
  · exact (Keeps.ite h (h.bump.upd (by with_reducible rfl))).next
  · exact h.next

/-! ### Slot orders -/

theorem Keeps.refuseOrder {f r : Nat} {b : List Byte} {cause : Nat} (h : Keeps s₀ s) : Keeps s₀ (s.refuseOrder f r b cause) := by
  unfold State.refuseOrder
  extract_lets _ _ _ _ _ _ _ s2 s3
  have hs2 : Keeps s₀ s2 := .ite (Keeps.ite h.bump h).bumpBy (.ite h.bump h)
  have hs3 : Keeps s₀ s3 := .ite hs2.hostViolation hs2
  exact hs3.record.bumpFree

theorem Keeps.newJob {y : Job} (h : Keeps s₀ s) : Keeps s₀ (s.newJob y).1 := by
  unfold State.newJob
  exact (h.setJob.upd (by with_reducible rfl)).pair

theorem Keeps.addBursts {b : List Byte} (h : Keeps s₀ s) : Keeps s₀ (s.addBursts b) := h.upd rfl

theorem Keeps.addCplane {id : Nat} {b : List Byte} (h : Keeps s₀ s) : Keeps s₀ (s.addCplane id b) := by
  unfold State.addCplane
  exact .ite h (h.upd rfl)

theorem Keeps.add {g : Graph} {y : Job} (h : Keeps s₀ g.s) : Keeps s₀ (g.add y).1.s := h.newJob.inGraph

theorem Keeps.fronts_ {g : Graph} {id : Nat} {b : List Byte} (h : Keeps s₀ g.s) : Keeps s₀ (g.fronts_ id b).s := by
  unfold Graph.fronts_
  refine .iteOf Graph.s h ?_
  refine h.foldlOf Graph.s fun h => ?_
  extract_lets _ _ _ _ src
  have hsrc : Keeps s₀ src.s := h.add
  exact hsrc

theorem Keeps.occasion {g : Graph} {id : Nat} {b : List Byte} {us : List (List Byte)} {ci : Nat} {ch o : Nat × Nat} (h : Keeps s₀ g.s) :
    Keeps s₀ (g.occasion id b us ci ch o).s := by
  unfold Graph.occasion
  extract_lets _ _ _ _ _ _ _ src
  have hsrc : Keeps s₀ src.s := h.add.add
  exact hsrc

theorem Keeps.chunk {g : Graph} {id : Nat} {b : List Byte} {all : List (List Byte)} {ci : Nat} {ch : Nat × Nat} (h : Keeps s₀ g.s) :
    Keeps s₀ (g.chunk id b all ci ch).s := by
  unfold Graph.chunk
  extract_lets _ _ g1
  have hg1 : Keeps s₀ g1.s := h.foldlOf Graph.s fun h => h.occasion
  refine .iteOf Graph.s h ?_
  refine hg1.foldlOf Graph.s fun h => ?_
  extract_lets _ _ _ src
  have hsrc : Keeps s₀ src.s := h.add
  exact hsrc

theorem Keeps.decodes {g : Graph} {id : Nat} {b : List Byte} {chs : List (Nat × Nat)} {w : Codeword} (h : Keeps s₀ g.s) :
    Keeps s₀ (g.decodes id b chs w).1.s := by
  unfold Graph.decodes
  extract_lets _ _ _ _ _ r
  have hr : Keeps s₀ r.1.s := by
    refine h.foldlOf (fun x : Graph × List CodeBlock => x.1.s) fun h => ?_
    extract_lets _ _ _ _ _ src
    have hsrc : Keeps s₀ src.s := h.add
    split
    · rename_i x e
      have h' := h.add.takeHandle e
      exact h'
    · exact h.add
  exact .iteOf (fun x : Graph × Codeword => x.1.s) h.bump.inGraph hr

theorem Keeps.ucis {g : Graph} {id : Nat} {b : List Byte} {i : Nat} (h : Keeps s₀ g.s) : Keeps s₀ (g.ucis id b i).1.s := by
  unfold Graph.ucis
  refine h.foldlOf (fun x : Graph × List Codeword => x.1.s) fun h => ?_
  refine .iteOf (fun x : Graph × List Codeword => x.1.s) h ?_
  extract_lets _ r
  have hr : Keeps s₀ r.1.s := h.foldlOf (fun x : Graph × List CodeBlock => x.1.s) fun h => h.add
  exact hr

theorem Keeps.startUplink {f r : Nat} {b : List Byte} {sample : Nat} (h : Keeps s₀ s) : Keeps s₀ (s.startUplink f r b sample) := by
  unfold State.startUplink
  extract_lets _ _ _ _ _ _ g0 g1 ws ws1
  have hg0 : Keeps s₀ g0.s := (h.upd (by rfl)).inGraph.fronts_
  have hg1 : Keeps s₀ g1.s := hg0.foldlOf Graph.s fun h => h.chunk
  have hws : Keeps s₀ ws.1.s := hg1.foldlOf (fun x : Graph × List Codeword => x.1.s) fun h =>
    .iteOf (fun x : Graph × List Codeword => x.1.s) h h.decodes
  have hws1 : Keeps s₀ ws1.1.s := hws.foldlOf (fun x : Graph × List Codeword => x.1.s) fun h =>
    .iteOf (fun x : Graph × List Codeword => x.1.s) h h.ucis
  exact hws1.add.setOrder.bump.bumpBy.addBursts.addCplane

theorem Keeps.symbol {g : Graph} {id : Nat} {b : List Byte} {us : List (List Byte)} {k : Nat} (h : Keeps s₀ g.s) :
    Keeps s₀ (g.symbol id b us k).s := by
  unfold Graph.symbol
  extract_lets _ _ _ _ _ _ g1
  have hg1 : Keeps s₀ g1.1.s := h.foldlOf (fun x : Graph × List Nat => x.1.s) fun h => .iteOf (fun x : Graph × List Nat => x.1.s) h h.add
  exact .iteOf Graph.s hg1.add hg1

theorem Keeps.encodes {g : Graph} {id : Nat} {b : List Byte} {w : Codeword} (h : Keeps s₀ g.s) : Keeps s₀ (g.encodes id b w).1.s := by
  unfold Graph.encodes
  extract_lets _ _ _ r
  have hr : Keeps s₀ r.1.s := h.foldlOf (fun x : Graph × List CodeBlock => x.1.s) fun h => h.add
  exact hr

theorem Keeps.startDownlink {f r : Nat} {b : List Byte} {sample : Nat} (h : Keeps s₀ s) : Keeps s₀ (s.startDownlink f r b sample) := by
  unfold State.startDownlink
  extract_lets _ _ _ _ _ ws g
  have hws : Keeps s₀ ws.1.s := (h.upd (by rfl)).inGraph.foldlOf (fun x : Graph × List Codeword => x.1.s) fun h =>
    .iteOf (fun x : Graph × List Codeword => x.1.s) h h.encodes
  have hg : Keeps s₀ g.s := hws.foldlOf Graph.s fun h => h.symbol
  exact hg.add.setOrder.bump.addBursts.addCplane

theorem Keeps.startCplane {f r : Nat} {b : List Byte} {sample : Nat} {posted : Bool} (h : Keeps s₀ s) :
    Keeps s₀ (s.startCplane f r b sample posted) := by
  unfold State.startCplane
  extract_lets _ _ _ _ _ _ _ src
  have hsrc : Keeps s₀ src := (h.upd (by rfl)).setOrder
  exact hsrc.upd rfl

theorem Keeps.takeOrder {f r : Nat} {b : List Byte} {samples : List Nat} {forward : Bool} (h : Keeps s₀ s) :
    Keeps s₀ (s.takeOrder f r b samples forward) := by
  unfold State.takeOrder
  extract_lets _ _ _ _ _ s1
  have hs1 : Keeps s₀ s1 := h.replayLog.when fun h => h.foldl fun h => .ite h.sendMgl h
  iterate 3 refine .ite (h.replayLog.unless fun h => h.refuseOrder) ?_
  exact .ite h.replayLog.refuseOrder (.ite hs1.startUplink (.ite hs1.startDownlink hs1.startCplane))

theorem Keeps.acceptOrder {f r : Nat} {b : List Byte} {samples : List Nat} (h : Keeps s₀ s) : Keeps s₀ (s.acceptOrder f r b samples) := h.takeOrder

theorem Keeps.forwardedOrder {p : List Byte} (h : Keeps s₀ s) : Keeps s₀ (s.forwardedOrder p) := h.takeOrder

/-! ### The coding engines -/

theorem Keeps.updWord {y : Job} {f : Codeword → Codeword} (h : Keeps s₀ s) : Keeps s₀ (s.updWord y f) := by
  unfold State.updWord
  split
  · exact h.setOrder
  · exact h

theorem Keeps.putHarq {p : Harq} (h : Keeps s₀ s) : Keeps s₀ (s.putHarq p) := by
  unfold State.putHarq
  exact .ite (h.upd rfl) (h.upd rfl)

theorem Keeps.harqEvict {k need n : Nat} (h : Keeps s₀ s) : Keeps s₀ (s.harqEvict k need n) := by
  induction n generalizing s with
  | zero => exact h
  | succ n ih =>
    unfold State.harqEvict
    refine .ite h ?_
    split
    · exact ih h.putHarq.bump
    · exact h

theorem Keeps.harqBegin {oid : Nat} {w : Codeword} {r : Nat} (h : Keeps s₀ s) : Keeps s₀ (s.harqBegin oid w r) := by
  unfold State.harqBegin
  refine .ite ?_ (.ite h.bump.putHarq.setOrder (.ite h.bump.putHarq.setOrder h.putHarq.setOrder))
  refine .ite h.putHarq.harqEvict.putHarq.setOrder ?_
  exact .ite h.putHarq.harqEvict.bump.putHarq.setOrder h.bump.setOrder

theorem Keeps.softPut {bl : List Nat} {i : Nat} {a b : Int} (h : Keeps s₀ s) : Keeps s₀ (softPut s bl i a b) := h.foldl fun h => h.store

theorem Keeps.combine {oid : Nat} {w : Codeword} {r : Nat} (h : Keeps s₀ s) : Keeps s₀ (s.combine oid w r) := by
  unfold State.combine
  extract_lets
  split
  · refine .ite h.bumpBy ?_
    extract_lets _ _ _ s1
    have hs1 : Keeps s₀ s1 := h.bumpBy.foldl fun h => h.softPut
    exact hs1.putHarq.carryIn
  · exact h.bumpBy

theorem Keeps.closeWord {oid : Nat} {w : Codeword} (h : Keeps s₀ s) : Keeps s₀ (s.closeWord oid w) := by
  unfold State.closeWord
  dsimp only
  refine .ite h ?_
  refine .ite h.setOrder ?_
  split
  · exact h.setOrder.bump.unless fun h => h.putHarq
  · exact h.setOrder.bump

theorem Keeps.endBlock {j result cause iters : Nat} {bits : List Byte} (h : Keeps s₀ s) : Keeps s₀ (s.endBlock j result cause iters bits) := by
  unfold State.endBlock
  extract_lets _ s1
  have hs1 : Keeps s₀ s1 := by
    dsimp only [s1]
    split
    · split
      · exact h.returnHandle
      · exact h
    · exact h
  split
  · exact hs1.updWord.completeJob.closeWord
  · exact hs1.updWord.completeJob

theorem Keeps.enqueueUnit {j : Nat} (h : Keeps s₀ s) : Keeps s₀ (s.enqueueUnit j) := .ite h.setJob.bump h.setJob

theorem Keeps.admitUnits {k : Nat} (h : Keeps s₀ s) : Keeps s₀ (s.admitUnits k) := by
  unfold State.admitUnits
  refine .ite h ?_
  split
  · exact h.setJob
  · exact h

theorem Keeps.setEngineC {e : Nat} {g : CodingEngine} (h : Keeps s₀ s) : Keeps s₀ (s.setEngineC e g) := h.upd rfl

theorem Keeps.lookedUp {j : Nat} (h : Keeps s₀ s) : Keeps s₀ (s.lookedUp j) := by
  unfold State.lookedUp
  dsimp only
  split
  · exact .ite h h.harqBegin
  · exact h

theorem Keeps.startDecode {j e : Nat} (h : Keeps s₀ s) : Keeps s₀ (s.startDecode j e) := by
  unfold State.startDecode
  extract_lets _ _ _ s2 s3
  have hs2 : Keeps s₀ s2 := (Keeps.ite h.lookedUp.bump h.lookedUp).countGlobal.noteSample
  have hs3 : Keeps s₀ s3 := by
    dsimp only [s3]
    split
    · exact hs2.combine
    · exact hs2
  split
  · split
    · exact h.lookedUp.endBlock
    · exact .ite h.lookedUp hs3.setJob.setEngineC
  · exact h.completeJob

theorem Keeps.execCodingDispatch {kind : Fin 3} (h : Keeps s₀ s) : Answers s₀ (execCodingDispatch kind s) := by
  unfold Machine.execCodingDispatch
  extract_lets
  split
  · exact h.next
  · split
    · exact h.next
    · dsimp only
      refine .ite h.startDecode.admitUnits.next ?_
      refine .ite h.setJob.setEngineC.admitUnits.next ?_
      split
      · rename_i x e
        have h' := h.takeHandle e
        exact h'.updWord.setJob.setEngineC.admitUnits.next
      · exact h.next

theorem Keeps.freeEngine {e : Nat} (h : Keeps s₀ s) : Keeps s₀ (s.freeEngine e) := h.setEngineC.when fun h => h.bump

theorem Keeps.execLdpcDecodeDone {engine : Fin 8} (h : Keeps s₀ s) : Answers s₀ (execLdpcDecodeDone engine s) := by
  unfold Machine.execLdpcDecodeDone
  dsimp only
  refine .ite h.next ?_
  split
  · exact h.freeEngine.endBlock.next
  · exact h.freeEngine.next

theorem Keeps.execLdpcEncodeDone {engine : Fin 4} (h : Keeps s₀ s) : Answers s₀ (execLdpcEncodeDone engine s) := by
  unfold Machine.execLdpcEncodeDone
  extract_lets _ _ _ _ _ _ _ _ _ _ _ _ s1
  have hs1 : Keeps s₀ s1 := by
    dsimp only [s1]
    split
    · exact h.writeBytes
    · exact h
  exact .ite h.next hs1.updWord.freeEngine.completeJob.next

theorem Keeps.execPolarDecodeDone {engine : Fin 2} {llrs : List Byte} (h : Keeps s₀ s) : Answers s₀ (execPolarDecodeDone engine llrs s) := by
  unfold Machine.execPolarDecodeDone
  dsimp only
  refine .ite h.next ?_
  split <;> exact h.freeEngine.endBlock.next

theorem Keeps.execPolarEncodeDone {engine : Fin 2} (h : Keeps s₀ s) : Answers s₀ (execPolarEncodeDone engine s) := by
  unfold Machine.execPolarEncodeDone
  extract_lets _ _ _ _ _ _ _ _ _ _ s1
  have hs1 : Keeps s₀ s1 := by
    dsimp only [s1]
    split
    · exact h.writeBytes
    · exact h
  exact .ite h.next hs1.updWord.freeEngine.completeJob.next

theorem Keeps.flushFor {y : Job} (h : Keeps s₀ s) : Keeps s₀ (s.flushFor y) := by
  unfold State.flushFor
  split
  · split
    · exact h.putHarq
    · exact h
  · exact h

theorem Keeps.execEngineFault {engine : Fin 14} {softRead combining : Bool} {block : BitVec 12} (h : Keeps s₀ s) :
    Answers s₀ (execEngineFault engine softRead combining block s) := by
  unfold Machine.execEngineFault
  refine .ite (Keeps.ite h h.flushFor.bump.updWord.setEngineC.fenceJob).next (.ite h.next ?_)
  extract_lets _ _ s1' s1 s2
  have hs1' : Keeps s₀ s1' := .ite h.flushFor.updWord h
  have hs1 : Keeps s₀ s1 := .ite hs1'.setJob h
  have hs2 : Keeps s₀ s2 := .ite hs1.bump hs1
  exact .ite hs2.setEngineC.fenceObject.settle.next hs2.setEngineC.next

theorem Keeps.execEngineScrubEnd {engine : Fin 22} (h : Keeps s₀ s) : Answers s₀ (execEngineScrubEnd engine s) := by
  unfold Machine.execEngineScrubEnd
  exact .ite (Keeps.ite h.setEngineC h).next (h.upd (by rfl)).next

theorem Keeps.execHarqTimeout (h : Keeps s₀ s) : Answers s₀ (execHarqTimeout s) := by
  unfold Machine.execHarqTimeout
  exact (h.upd (by rfl)).next

/-! ### Receivers -/

theorem Keeps.writeLlrs {y : Job} {q : Nat} {r : UserReport} (h : Keeps s₀ s) : Keeps s₀ (s.writeLlrs y q r).1 := by
  unfold State.writeLlrs
  dsimp only
  split
  · exact h
  · refine Keeps.pair ?_
    refine h.foldl fun h => ?_
    split
    · exact h.writeBytes
    · exact h

theorem Keeps.collect {y : Job} {r : UserReport} (h : Keeps s₀ s) : Keeps s₀ (s.collect y r) := .ite h h.setOrder

theorem Keeps.keepSample {k : Nat} {b : List Byte} (h : Keeps s₀ s) : Keeps s₀ (State.keepSample k s b) := by
  unfold State.keepSample
  extract_lets _ _ src
  have hsrc : Keeps s₀ src := h.xspiWrite.bump
  exact .ite (h.upd rfl) (hsrc.upd rfl)

theorem Keeps.keepSamples {oid : Nat} (h : Keeps s₀ s) : Keeps s₀ (s.keepSamples oid) := by
  unfold State.keepSamples
  extract_lets _ _ _ _ r _ s1 s2
  have hr : Keeps s₀ r.1 := by
    refine h.foldlOf Prod.fst fun h => ?_
    extract_lets _ t1
    have ht1 : Keeps s₀ t1 := h.foldl fun h => h.keepSample
    exact ht1
  have hs1 : Keeps s₀ s1 := hr.setOrder
  have hs2 : Keeps s₀ s2 := hs1.upd rfl
  exact .ite h (.ite hs1 (.ite hs2.put hs2))

/-! ### Downlink symbols -/

theorem Keeps.claimDl {c n : Nat} (h : Keeps s₀ s) : Keeps s₀ (s.claimDl c n) := .ite h h.slotHeader.clearPresence

theorem Keeps.writeChunk {y : Job} {vals : List LayerVal} (h : Keeps s₀ s) : Keeps s₀ (s.writeChunk y vals) := by
  unfold State.writeChunk
  extract_lets _ _ _ _ _ _ _ r
  have hr : Keeps s₀ r.1 := h.claimDl.pair.foldlOf Prod.fst fun h => h.foldlOf Prod.fst fun h => h.storeBytes.setPresent.pair
  exact hr.setOrder.bumpBy

theorem Keeps.precodeChunk {y : Job} (h : Keeps s₀ s) : Keeps s₀ (s.precodeChunk y) := .ite h.writeChunk h

theorem Keeps.dlSymbolDone {j : Nat} (h : Keeps s₀ s) : Keeps s₀ (s.dlSymbolDone j) := by
  unfold State.dlSymbolDone
  extract_lets _ _ _ _ _ s2
  have hs2 : Keeps s₀ s2 := .ite (h.setOrder.foldl fun h => .ite h.sendDown h) h.setOrder
  exact hs2.precodeChunk

theorem Keeps.valsIn {src : Nat} {b : List Byte} (h : Keeps s₀ s) : Keeps s₀ (s.valsIn src b) := by
  unfold State.valsIn
  split
  · dsimp only
    refine .ite h ?_
    split
    · exact h.setOrder.precodeChunk
    · exact h.setOrder
  · exact h

/-! ### Jobs -/

theorem Keeps.execSoEntryRead {func : Fin 16} {ring : Fin 4} {entry body : List Byte} {readable : Bool} (h : Keeps s₀ s) :
    Answers s₀ (execSoEntryRead func ring entry body readable s) := by
  unfold Machine.execSoEntryRead
  dsimp only
  refine .ite h.next ?_
  split
  · exact h.setRing.advanceDev.bump.hostViolation.record.next
  · exact h.setRing.advanceDev.acceptOrder.next

theorem Keeps.countRelease {j : Nat} (h : Keeps s₀ s) : Keeps s₀ (s.countRelease j) := h.setJob.bump.when fun h => h.setOrder

theorem Keeps.countReceiver {j : Nat} (h : Keeps s₀ s) : Keeps s₀ (s.countReceiver j) := .ite h.setOrder h

theorem Keeps.resolve {j : Nat} (h : Keeps s₀ s) : Keeps s₀ (s.resolve j) := by
  unfold State.resolve
  extract_lets
  refine .ite h.setJob ?_
  refine .ite h.bump.setJob ?_
  refine .ite h.bump.demandLoad.setJob ?_
  split
  · exact h.bump.setJob
  · refine .ite h.bump.setJob ?_
    extract_lets s1
    have hs1 : Keeps s₀ s1 := h.setJob
    exact hs1.upd rfl

theorem Keeps.loseJob {j : Nat} (h : Keeps s₀ s) : Keeps s₀ (s.loseJob j) := h.setJob

theorem Keeps.releaseJob {j : Nat} (h : Keeps s₀ s) : Keeps s₀ (s.releaseJob j) := by
  unfold State.releaseJob
  extract_lets _ _ _ _ s2
  have hs2 : Keeps s₀ s2 := h.countRelease.when fun h => h.resolve
  refine .ite h.loseJob ?_
  refine .ite h.countRelease.endBlock ?_
  exact .ite h.countRelease.enqueueUnit (.ite h.countRelease.setJob (Keeps.ite hs2.setJob hs2).tryPlace)

theorem Keeps.execJobRelease {job : BitVec 32} {req : Option JobReq} (h : Keeps s₀ s) : Answers s₀ (execJobRelease job req s) := by
  unfold Machine.execJobRelease
  extract_lets r
  have hr : Keeps s₀ r.1 := by
    dsimp only [r]
    split
    · exact h.newJob
    · exact h
  exact (Keeps.ite hr.releaseJob hr).next

theorem Keeps.writePayload {o : Order} {i : Nat} (h : Keeps s₀ s) : Keeps s₀ (s.writePayload o i) := by
  unfold State.writePayload
  extract_lets _ _ word _ _ s1
  have hword {s : State} {q a : Nat} (h : Keeps s₀ s) : Keeps s₀ (word s q a) := by
    dsimp only [word]
    split
    · exact .ite h.hostWrite h
    · exact h
  have hs1 : Keeps s₀ s1 := hword (hword h)
  exact hs1.foldlOf Prod.fst fun h => (Keeps.ite h.hostWrite h).pair

theorem Keeps.dropOrder {oid : Nat} (h : Keeps s₀ s) : Keeps s₀ (s.dropOrder oid) := h.upd rfl

theorem Keeps.writeUplink {oid : Nat} (h : Keeps s₀ s) : Keeps s₀ (s.writeUplink oid) := by
  unfold State.writeUplink
  extract_lets _ _ _ s1
  have hs1 : Keeps s₀ s1 := h.keepSamples.foldl fun h => h.writePayload
  exact (Keeps.ite hs1 hs1.record.bumpFree).dropOrder

theorem Keeps.cancelDecode {j : Nat} (h : Keeps s₀ s) : Keeps s₀ (s.cancelDecode j) := by
  unfold State.cancelDecode
  extract_lets _ _ _ s2
  have hs2 : Keeps s₀ s2 := .ite (h.upd rfl) (h.upd (by rfl)).setJob.bump
  exact .ite hs2.setJob.endBlock hs2.endBlock

theorem Keeps.execReportCutoff {job : BitVec 32} (h : Keeps s₀ s) : Answers s₀ (execReportCutoff job s) := by
  unfold Machine.execReportCutoff
  extract_lets _ _ _ _ _ s1
  have hs1 : Keeps s₀ s1 := (Keeps.ite h.countRelease h).foldl fun h => h.cancelDecode
  exact .ite h.next (Keeps.ite hs1 hs1.lateEvent).completeJob.writeUplink.next

theorem Keeps.takeUnit {y : Job} (h : Keeps s₀ s) : Keeps s₀ (s.takeUnit y) := by
  unfold State.takeUnit
  exact .ite (h.upd rfl) h

theorem Keeps.receive {y : Job} {users : List UserReport} {i : Nat} (h : Keeps s₀ s) : Keeps s₀ (s.receive y users i).1 := by
  unfold State.receive
  extract_lets _ _ _ _ _ _ b
  have hb : Keeps s₀ b.1 := h.setOrder.writeLlrs.writeLlrs
  exact .iteOf Prod.fst h.setOrder.pair hb.collect.pair

theorem Keeps.receiverDone {y : Job} {users : List UserReport} (h : Keeps s₀ s) : Keeps s₀ (s.receiverDone y users) := by
  unfold State.receiverDone
  extract_lets _ r
  have hr : Keeps s₀ r.1 := h.foldlOf Prod.fst fun h => h.receive.pair
  exact .ite hr.bump hr

theorem Keeps.execJobCompletion {job : BitVec 32} {users : List UserReport} (h : Keeps s₀ s) : Answers s₀ (execJobCompletion job users s) := by
  unfold Machine.execJobCompletion
  extract_lets _ _ _ s1
  have hs1 : Keeps s₀ s1 := h.takeUnit.judge.countReceiver
  refine .ite h.next ?_
  refine .ite (Keeps.ite h.completeJob.writeUplink h).next ?_
  exact .ite h.next (Keeps.ite hs1 (.ite hs1.receiverDone (.ite hs1.dlSymbolDone hs1))).next

theorem Keeps.returnBits {oid : Nat} (h : Keeps s₀ s) : Keeps s₀ (s.returnBits oid) := h.foldl fun h => h.returnHandle

theorem Keeps.execDlReportWrite {job : BitVec 32} (h : Keeps s₀ s) : Answers s₀ (execDlReportWrite job s) := by
  unfold Machine.execDlReportWrite
  extract_lets _ _ _ _ _ s1
  have hs1 : Keeps s₀ s1 := h.completeJob.unless fun h => h.record
  exact .ite h.next hs1.returnBits.dropOrder.next

theorem Keeps.badDownlink {oid : Nat} (h : Keeps s₀ s) : Keeps s₀ (s.badDownlink oid) := by
  unfold State.badDownlink
  extract_lets _ src
  have hsrc : Keeps s₀ src := h.returnBits.dropOrder
  exact (hsrc.upd (by rfl)).refuseOrder

theorem Keeps.listJobs {oid i : Nat} (h : Keeps s₀ s) : Keeps s₀ (s.listJobs oid i) := by
  unfold State.listJobs
  extract_lets
  refine .ite h ?_
  refine h.foldl fun h => ?_
  refine h.foldl fun h => ?_
  dsimp only
  refine .ite h ?_
  refine .ite h.newJob.setOrder ?_
  split
  · exact h.newJob.setOrder.setJob
  · exact h.newJob.setOrder.newJob.setOrder

theorem Keeps.redue {oid : Nat} (h : Keeps s₀ s) : Keeps s₀ (s.redue oid) := h.foldl fun h => .ite h (h.foldl fun h => .ite h h.setJob)

theorem Keeps.execTbReadDone {carrier : Fin 32} {slot : BitVec 64} {user : BitVec 6} {data weights : List Byte} {ok : Bool} (h : Keeps s₀ s) :
    Answers s₀ (execTbReadDone carrier slot user data weights ok s) := by
  unfold Machine.execTbReadDone
  split
  · exact h.next
  · extract_lets _ _ s0 _ _ _ s1
    have hs0 : Keeps s₀ s0 := h.foldl fun h => h.setJob
    have hs1 : Keeps s₀ s1 := h.foldl fun h => h.setJob
    refine .ite h.next ?_
    refine .ite ?_ hs1.setOrder.next
    exact .ite h.badDownlink.next (hs0.setOrder.when fun h => h.listJobs.redue).next

theorem Keeps.execSwapOut {core : Fin 64} (h : Keeps s₀ s) : Answers s₀ (execSwapOut core s) := by
  unfold Machine.execSwapOut
  extract_lets
  split
  · extract_lets _ s1 src s2
    have hs1 : Keeps s₀ s1 := h.ownPages.storeBytes
    have hsrc : Keeps s₀ src := hs1.freeCtx
    have hs2 : Keeps s₀ s2 := hsrc.upd (by with_reducible rfl)
    exact .ite h.next hs2.setJob.bump.next
  · exact h.next

theorem Keeps.execSwapIn {core : Fin 64} (h : Keeps s₀ s) : Answers s₀ (execSwapIn core s) := by
  unfold Machine.execSwapIn
  extract_lets
  split
  · extract_lets
    refine .ite h.next ?_
    split
    · extract_lets _ _ _ src s2
      have hsrc : Keeps s₀ src := h.storeBytes.ownPages.setCore
      have hs2 : Keeps s₀ s2 := hsrc.upd (by with_reducible rfl)
      exact hs2.setJob.startNext.next
    · exact h.next
  · exact h.next

theorem Keeps.execTacqGrant {tally : BitVec 16} (h : Keeps s₀ s) : Answers s₀ (execTacqGrant tally s) := by
  unfold Machine.execTacqGrant
  dsimp only
  split
  · exact (Keeps.ite h.issueBundle h).next
  · exact h.next

theorem Keeps.fenceJobAnywhere {j cause info : Nat} (h : Keeps s₀ s) : Keeps s₀ (s.fenceJobAnywhere j cause info) := .ite h.faultCtx h.fenceJob

theorem Keeps.returnEnqueued {j : Nat} (h : Keeps s₀ s) : Keeps s₀ (s.returnEnqueued j) := by
  unfold State.returnEnqueued
  extract_lets
  exact (h.upd (by rfl)).foldl fun h => h.returnHandle

theorem Keeps.fenceConsumers {j : Nat} (h : Keeps s₀ s) : Keeps s₀ (s.fenceConsumers j) := h.foldl fun h => .ite h.fenceJobAnywhere h

theorem Keeps.redirect {j n : Nat} (h : Keeps s₀ s) : Keeps s₀ (s.redirect j n) := h.upd rfl

theorem Keeps.rerun {j : Nat} (h : Keeps s₀ s) : Keeps s₀ (s.rerun j) := by
  unfold State.rerun
  extract_lets _ _ _ _ _ _ _ s1 _ _ s3
  have hs1 : Keeps s₀ s1 := h.noteSample.newJob.redirect.bump
  have hs3 : Keeps s₀ s3 := (Keeps.ite hs1.bump hs1).setOrder
  exact .ite h (.ite hs3.tryPlace h.noteSample.setJob)

theorem Keeps.rerunDecode {j : Nat} (h : Keeps s₀ s) : Keeps s₀ (s.rerunDecode j) := by
  unfold State.rerunDecode
  extract_lets _ r s1 s2
  have hr : Keeps s₀ r.1 := h.newJob
  have hs1 : Keeps s₀ s1 := hr.updWord
  have hs2 : Keeps s₀ s2 := (hs1.upd (by rfl)).bump
  exact .ite h (.ite h.endBlock (.ite hs2.endBlock hs2))

theorem Keeps.execFenceDisposal (h : Keeps s₀ s) : Answers s₀ (execFenceDisposal s) := by
  unfold Machine.execFenceDisposal
  split
  · exact h.next
  · extract_lets _ s0 src s1 _ src1 s2 s3 s4 s5 _ s6 s7
    have hs0 : Keeps s₀ s0 := h.upd rfl
    have hsrc : Keeps s₀ src := hs0.updCore.freeCtx
    have hs1 : Keeps s₀ s1 := .ite (hsrc.upd rfl) hs0
    have hsrc1 : Keeps s₀ src1 := hs1.ownPages
    have hs2 : Keeps s₀ s2 := hsrc1.upd rfl
    have hs3 : Keeps s₀ s3 := .ite hs2 hs2.returnHandles
    have hs4 : Keeps s₀ s4 := hs3.returnEnqueued.fenceConsumers.abandonTallies
    have hs5 : Keeps s₀ s5 := .ite hs4.rerunDecode hs4.rerun
    have hs6 : Keeps s₀ s6 := hs5.setJob.bump
    have hs7 : Keeps s₀ s7 := hs6.upd rfl
    exact (hs7.logFault.when fun h => h.placeHead.startNext).next

/-! ### Lines, handles and the watchdog -/

theorem Keeps.resumeMove {n k e : Nat} {ext : List Byte} (h : Keeps s₀ s) : Keeps s₀ (s.resumeMove n k e ext) := by
  unfold State.resumeMove
  dsimp only
  refine .ite h ?_
  split
  · exact h.runMove
  · exact h.runMove
  · exact h

theorem Keeps.execLineAck {core : Fin 64} {slot engine : Fin 4} {ext : List Byte} (h : Keeps s₀ s) :
    Answers s₀ (execLineAck core slot engine ext s) := by
  unfold Machine.execLineAck
  refine Keeps.next (.resumeMove ?_)
  split
  · exact h.setEngine.upd (by with_reducible rfl)
  · exact h

theorem Keeps.execHandleGrant {core : Fin 64} {slot engine : Fin 4} (h : Keeps s₀ s) : Answers s₀ (execHandleGrant core slot engine s) := by
  unfold Machine.execHandleGrant
  dsimp only
  split
  · exact (Keeps.ite h h.giveHandle).next
  · exact h.next

theorem Keeps.watchFence {waiter : Nat} {holders : List Nat} (h : Keeps s₀ s) : Keeps s₀ (s.watchFence waiter holders) := by
  unfold State.watchFence
  split
  · exact h.bump.fenceJobAnywhere
  · exact h

theorem Keeps.watchTally {since job : Nat} {w : Nat × Option (BitVec 32)} (h : Keeps s₀ s) : Keeps s₀ (s.watchTally since job w) := by
  unfold State.watchTally
  refine .ite h ?_
  split <;> exact .ite h h.watchFence

theorem Keeps.execWatchdogExpiry {wait : WaitRef} (h : Keeps s₀ s) : Answers s₀ (execWatchdogExpiry wait s) := by
  unfold Machine.execWatchdogExpiry
  refine .ite h.next ?_
  split
  · dsimp only
    refine .ite h.next ?_
    split <;> exact h.watchFence.next
  · dsimp only
    split
    · exact h.watchTally.next
    · exact h.next
  · split
    · split
      · exact h.watchTally.next
      · exact h.next
    · exact h.next
  · split
    · exact (Keeps.ite h.watchFence.updCore h).next
    · exact h.next

theorem Keeps.chainFail {hd p : Nat} (h : Keeps s₀ s) : Keeps s₀ (s.chainFail hd p) := by
  unfold State.chainFail
  refine h.foldl fun h => ?_
  split
  · exact h.fenceJobAnywhere.updCore
  · exact h

theorem Keeps.leftUpstream {v : BitVec 32} (h : Keeps s₀ s) : Keeps s₀ (s.leftUpstream v) := by
  unfold State.leftUpstream
  refine .ite h ?_
  split
  · exact h.updCore
  · exact h

theorem Keeps.execChainTileArrival {core : Fin 64} {crcOk : Bool} (h : Keeps s₀ s) : Answers s₀ (execChainTileArrival core crcOk s) := by
  unfold Machine.execChainTileArrival
  extract_lets
  split
  · exact h.next
  · extract_lets
    split
    · exact h.next
    · refine .ite h.next ?_
      refine .ite h.updCore.next ?_
      refine .ite (Keeps.ite h.updCore.chainFail h.updCore).next ?_
      extract_lets
      split
      · extract_lets _ _ _ _ s2
        have hs2 : Keeps s₀ s2 := h.leftUpstream.writeBytes
        exact hs2.updCore.next
      · exact h.leftUpstream.updCore.next

/-! ### Fronthaul -/

theorem Keeps.portViolation {p : Nat} (h : Keeps s₀ s) : Keeps s₀ (s.portViolation p) := (h.latch.foldl fun h => h.latch).settle

theorem Keeps.malformed {p : Nat} (h : Keeps s₀ s) : Keeps s₀ (s.malformed p) := h.bump.portViolation

theorem Keeps.openSlot {c n : Nat} (h : Keeps s₀ s) : Keeps s₀ (s.openSlot c n) := by
  unfold State.openSlot
  extract_lets _ _ s1
  have hs1 : Keeps s₀ s1 := h.slotHeader.clearPresence
  exact .ite h (.ite hs1.store hs1)

theorem Keeps.placeUnit {p c n port u : Nat} {d : List Byte} (h : Keeps s₀ s) :
    Keeps s₀ (s.placeUnit p c n port u d) :=
  .ite h.storeBytes (.ite h.malformed h.storeBytes.setPresent)

theorem Keeps.placeSection {p c n port units P : Nat} {x : USection} (h : Keeps s₀ s) :
    Keeps s₀ (s.placeSection p c n port units P x) :=
  .ite h.malformed (h.foldl fun h => h.placeUnit)

theorem Keeps.recordArrival {c n id units : Nat} {l : List USection} {msg : List Byte} (h : Keeps s₀ s) :
    Keeps s₀ (s.recordArrival c n id units l msg) := by
  unfold State.recordArrival
  extract_lets s1 _ src
  have hs1 : Keeps s₀ s1 := h.replayLog
  have hsrc : Keeps s₀ src := hs1.hostWrite
  exact .ite hs1 (.ite hs1.emit (.ite (.ite hs1.put (hsrc.upd rfl)) hs1))

theorem Keeps.uplane {p : Nat} {m : List Byte} (h : Keeps s₀ s) : Keeps s₀ (s.uplane p m) := by
  unfold State.uplane
  dsimp only
  split
  · exact h.malformed
  · refine .ite h.malformed ?_
    refine .ite h.bump.violation ?_
    exact .ite h.bump.violation (h.openSlot.foldl fun h => h.placeSection).recordArrival

theorem Keeps.delayRequest {p : Nat} {m : List Byte} (h : Keeps s₀ s) : Keeps s₀ (s.delayRequest p m) := .ite h.malformed h.emit.emit

theorem Keeps.ecpri {p want k : Nat} {short : Bool} {b : List Byte} (h : Keeps s₀ s) : Keeps s₀ (s.ecpri p want short k b) := by
  induction k generalizing s b with
  | zero => exact h
  | succ k ih =>
    unfold State.ecpri
    extract_lets _ _ _ _ _ _ _ s1
    have hs1 : Keeps s₀ s1 := .ite h (.ite h.uplane (.ite (.ite h.delayRequest h) (.ite h.malformed h)))
    exact .ite (.ite h.malformed h) (.ite (ih hs1) hs1)

theorem Keeps.fhFrame {p want : Nat} {b : List Byte} (h : Keeps s₀ s) : Keeps s₀ (s.fhFrame p want b) := .ite h (.ite (.ite h.malformed h) h.ecpri)

theorem Keeps.nextSeq {id dir plane : Nat} (h : Keeps s₀ s) : Keeps s₀ (s.nextSeq id dir plane).1 := by
  unfold State.nextSeq
  extract_lets
  exact (h.upd (by rfl)).pair

theorem Keeps.uplaneMsg {c sym a sect : Nat} {r : Nat × Nat} (h : Keeps s₀ s) : Keeps s₀ (s.uplaneMsg c sym a sect r).1 := h.nextSeq.pair

theorem Keeps.symbolMsgs {c sym sect : Nat} {units : Nat → List Nat} (h : Keeps s₀ s) :
    Keeps s₀ (s.symbolMsgs c sym sect units).1 :=
  h.foldlOf Prod.fst fun h => h.foldlOf Prod.fst fun h => h.uplaneMsg.pair

theorem Keeps.sendMsgs {c sym : Nat} {blocked : BitVec 16} {l : List (Nat × List Byte)} (h : Keeps s₀ s) : Keeps s₀ (s.sendMsgs c sym blocked l) := by
  unfold State.sendMsgs
  exact h.foldl fun h => .ite (h.upd rfl) h.emit

theorem Keeps.symbolLost {id k cause : Nat} (h : Keeps s₀ s) : Keeps s₀ (s.symbolLost id k cause) := h.setOrder.bump.unless fun h => h.lateEvent

theorem Keeps.symbolUnfed {id k : Nat} (h : Keeps s₀ s) : Keeps s₀ (s.symbolUnfed id k) := by
  unfold State.symbolUnfed
  extract_lets _ s1
  have hs1 : Keeps s₀ s1 := h.foldl fun h => h.sendMgl
  exact hs1.symbolLost

theorem Keeps.unfedIn {b : List Byte} (h : Keeps s₀ s) : Keeps s₀ (s.unfedIn b) := by
  unfold State.unfedIn
  split
  · exact h.setOrder
  · exact h

theorem Keeps.execTxWindowOpen {carrier : Fin 32} {sym : BitVec 32} {blocked : BitVec 16} (h : Keeps s₀ s) :
    Answers s₀ (execTxWindowOpen carrier sym blocked s) := by
  unfold Machine.execTxWindowOpen
  dsimp only
  refine .ite h.next ?_
  split
  · refine .ite (Keeps.ite h (h.upd (by rfl)).sendMsgs).next ?_
    refine .ite h.setOrder.symbolLost.next ?_
    exact .ite h.setOrder.symbolUnfed.next (.ite h.setOrder.next h.setOrder.symbolMsgs.sendMsgs.next)
  · exact .ite h.next h.symbolMsgs.sendMsgs.next

theorem Keeps.execTxWindowClose {carrier : Fin 32} {sym : BitVec 32} (h : Keeps s₀ s) : Answers s₀ (execTxWindowClose carrier sym s) := by
  unfold Machine.execTxWindowClose
  extract_lets _ _ _ _ s2
  have hs2 : Keeps s₀ s2 := (h.upd (by rfl)).foldl fun h => h.bumpBy
  exact .ite h.next ((Keeps.ite hs2 hs2.lateEvent).foldl fun h => h.resumeMove).next

theorem Keeps.cplaneDone {id bit count : Nat} (h : Keeps s₀ s) : Keeps s₀ (s.cplaneDone id bit count) := by
  unfold State.cplaneDone
  dsimp only
  refine .ite ?_ (.ite (h.upd (by rfl)).record h.setOrder)
  split
  · exact (h.upd (by rfl)).sendMgl
  · exact h.upd rfl

theorem Keeps.cplaneIn {src : Nat} {b : List Byte} (h : Keeps s₀ s) : Keeps s₀ (s.cplaneIn src b) := by
  unfold State.cplaneIn
  split
  · exact h.cplaneDone
  · exact h

theorem Keeps.cplaneLost {c : Nat} (h : Keeps s₀ s) : Keeps s₀ (s.cplaneLost c) := h.foldl fun h => h.cplaneDone

theorem Keeps.execCplaneTx (h : Keeps s₀ s) : Answers s₀ (execCplaneTx s) := by
  unfold Machine.execCplaneTx
  split
  · exact h.next
  · refine .ite h.next ?_
    extract_lets _ _ _ _ q s2
    have hq : Keeps s₀ q.1 := (h.upd (by rfl)).nextSeq
    have hs2 : Keeps s₀ s2 := .ite (h.upd rfl) hq.emit
    exact .ite hs2.next (hs2.setOrder.when fun h => h.cplaneDone).next

/-! ### Site adaptation and transforms -/

theorem Keeps.adaptRestart {k : Nat} (h : Keeps s₀ s) : Keeps s₀ (s.adaptRestart k) := by
  unfold State.adaptRestart
  extract_lets src
  have hsrc : Keeps s₀ src := h.put.put
  exact hsrc.upd rfl

theorem Keeps.execAdaptEpochEnd {court : Fin 16} {baseLoss candLoss : BitVec 32} {train : Training} (h : Keeps s₀ s) :
    Answers s₀ (execAdaptEpochEnd court baseLoss candLoss train s) := by
  unfold Machine.execAdaptEpochEnd
  extract_lets _ _ s1
  have hs1 : Keeps s₀ s1 := h.put.put
  refine .ite h.next ?_
  refine .ite hs1.bump.adaptRestart.next ?_
  split
  · refine .ite hs1.bump.adaptRestart.attend.next ?_
    extract_lets s2
    have hs2 : Keeps s₀ s2 := hs1.upd rfl
    exact hs2.put.put.bump.attend.next
  · exact hs1.bump.adaptRestart.attend.next

theorem Keeps.discardCandidate {k : Nat} (h : Keeps s₀ s) : Keeps s₀ (s.discardCandidate k) := by
  unfold State.discardCandidate
  extract_lets _ s1
  have hs1 : Keeps s₀ s1 := .ite h (h.upd rfl)
  exact hs1.put.adaptRestart

theorem Keeps.setXf {e : Nat} {g : TransformEngine} (h : Keeps s₀ s) : Keeps s₀ (s.setXf e g) := h.upd rfl

theorem Keeps.xfDispatch {e : Nat} (h : Keeps s₀ s) : Keeps s₀ (s.xfDispatch e) := by
  unfold State.xfDispatch
  dsimp only
  refine .ite h ?_
  split
  · exact h.setXf.setJob
  · exact h

theorem Keeps.writeSamples {c n port : Nat} {v : List (Int × Int)} (h : Keeps s₀ s) :
    Keeps s₀ (s.writeSamples c n port v) := h.foldl fun h => h.storeBytes

theorem Keeps.dlSamples {c n port : Nat} {v : List (Int × Int)} (h : Keeps s₀ s) :
    Keeps s₀ (s.dlSamples c n port v) :=
  h.claimDl.writeSamples.when fun h => h.claimDl.writeSamples

theorem Keeps.ulBins {c n port : Nat} {v : List (Int × Int)} (h : Keeps s₀ s) :
    Keeps s₀ (s.ulBins c n port v) := h.foldl fun h => h.storeBytes.setPresent

theorem Keeps.execTransformDone {engine : Fin 8} (h : Keeps s₀ s) : Answers s₀ (execTransformDone engine s) := by
  unfold Machine.execTransformDone
  extract_lets _ _ _ _ _ _ _ _ _ _ _ _ s1 s2
  have hs1 : Keeps s₀ s1 := h.setXf.bump.bumpBy.countGlobal
  have hs2 : Keeps s₀ s2 := .ite hs1 (.ite hs1.ulBins hs1.dlSamples)
  exact .ite h.xfDispatch.next hs2.xfDispatch.next

theorem Keeps.execTransformEngineFault {engine : Fin 8} (h : Keeps s₀ s) : Answers s₀ (execTransformEngineFault engine s) := by
  unfold Machine.execTransformEngineFault
  refine .ite h.next ?_
  exact .ite (Keeps.ite h.setJob h).setXf.fenceObject.settle.next (Keeps.ite h.setJob h).setXf.next

/-! ### Time bases and pins -/

theorem Keeps.tbEnter {n : Nat} {x : TbState} {cause : Nat} (h : Keeps s₀ s) : Keeps s₀ (s.tbEnter n x cause) := .ite h.put h.put.setTb.bump.settle

theorem Keeps.followStates (h : Keeps s₀ s) : Keeps s₀ s.followStates := h.foldl fun h => .ite (.ite h h.tbEnter) h

theorem Keeps.tbStep {n : Nat} {d : Int} (h : Keeps s₀ s) : Keeps s₀ (s.tbStep n d) := h.setTb.foldl fun h => .ite h.setTb h

theorem Keeps.tbAcquire {n : Nat} (h : Keeps s₀ s) : Keeps s₀ (s.tbAcquire n) := by
  unfold State.tbAcquire
  extract_lets _ _ _ _ s1
  have hs1 : Keeps s₀ s1 := .ite h.setTb h.tbStep.setTb
  exact .ite hs1.tbEnter hs1.tbEnter

theorem Keeps.tbWait {n : Nat} (h : Keeps s₀ s) : Keeps s₀ (s.tbWait n) := h.setTb.tbEnter

theorem Keeps.tbTake {n : Nat} (h : Keeps s₀ s) : Keeps s₀ (s.tbTake n) := .ite h.tbWait h.tbAcquire

theorem Keeps.tbQualify {n : Nat} {fallback : Bool} {off : Int} (h : Keeps s₀ s) :
    Keeps s₀ (s.tbQualify n fallback off) :=
  .ite h (.ite (.ite h.setTb.setTb.tbTake h.setTb) (.ite h.setTb.setTb.tbTake h.setTb))

theorem Keeps.toFallback {n : Nat} (h : Keeps s₀ s) :
    Keeps s₀ (s.toFallback n) :=
  .ite h.setTb.tbWait (.ite (h.setTb.setTb.when fun h => h.tbEnter) h.setTb.tbAcquire)

theorem Keeps.dropSource {n : Nat} {other : TbState} (h : Keeps s₀ s) :
    Keeps s₀ (s.dropSource n other) :=
  .ite h.toFallback (.ite h.setTb.tbEnter h.setTb.tbEnter)

theorem Keeps.tbLose {n : Nat} {fallback : Bool} (h : Keeps s₀ s) : Keeps s₀ (s.tbLose n fallback) := .ite h.setTb h.setTb.dropSource

theorem Keeps.followSync {n : Nat} (h : Keeps s₀ s) : Keeps s₀ (s.followSync n) := by
  unfold State.followSync
  refine .ite ?_ h
  refine .ite (.ite h (.ite h.tbLose (.ite h h.tbQualify))) ?_
  refine .ite (Keeps.ite h (.ite h.tbLose (.ite h h.tbQualify))).tbLose ?_
  refine .ite (.ite h (.ite h.tbLose (.ite h h.tbQualify))) ?_
  exact (Keeps.ite h (.ite h.tbLose (.ite h h.tbQualify))).tbQualify

theorem Keeps.tbSettle {n : Nat} (h : Keeps s₀ s) : Keeps s₀ (s.tbSettle n) := .ite h.tbAcquire h

theorem Keeps.execServoUpdate {tb : Fin 8} {offset : BitVec 64} {freqPpb : BitVec 32} {rate : BitVec 64} (h : Keeps s₀ s) :
    Answers s₀ (execServoUpdate tb offset freqPpb rate s) := by
  unfold Machine.execServoUpdate
  dsimp only
  refine .ite h.next ?_
  refine .ite h.setTb.tbSettle.followStates.next ?_
  split
  · exact (h.put.put.setTb.when fun h => h.tbEnter).followStates.next
  · exact (h.put.put.setTb.when fun h => h.tbEnter).followStates.next
  · exact (h.put.put.setTb.when fun h => h.tbEnter).followStates.next
  · exact h.next

theorem Keeps.forgetSources {n sub : Nat} (h : Keeps s₀ s) : Keeps s₀ (s.forgetSources n sub) := h.setTb

theorem Keeps.writeSource {n sub v : Nat} (h : Keeps s₀ s) (e : s.writeSource n sub v = some t) : Keeps s₀ t := by
  simp only [State.writeSource] at e
  split at e
  · cases e
  · split at e
    · cases e; exact h
    · obtain rfl := Option.some.inj e
      exact (Keeps.ite h.forgetSources.put.dropSource h.forgetSources.put).followSync.followStates

theorem Keeps.realign {n : Nat} (h : Keeps s₀ s) (e : s.realign n = some t) : Keeps s₀ t := by
  simp only [State.realign] at e
  split at e
  · cases e
    exact .ite h (Keeps.ite h.setTb.tbEnter h.setTb.tbEnter).followStates
  · cases e

theorem Keeps.execStepApply {tb : Fin 8} (h : Keeps s₀ s) : Answers s₀ (execStepApply tb s) := by
  unfold Machine.execStepApply
  refine Keeps.next ?_
  refine .ite h ?_
  exact (Keeps.ite h.tbStep.put.setTb.setTb.tbAcquire h.tbStep.put.setTb.setTb.tbEnter).followStates

theorem Keeps.ptpBad {n p : Nat} (h : Keeps s₀ s) : Keeps s₀ (s.ptpBad n p) := h.bump.portViolation

theorem Keeps.ptpAnnounce {n : Nat} {x : PtpMaster} (h : Keeps s₀ s) : Keeps s₀ (s.ptpAnnounce n x) := by
  unfold State.ptpAnnounce
  dsimp only
  split
  · exact h.setTb.putBlob.put
  · exact h.setTb

theorem Keeps.execPtpMessageRx {port : Fin 16} {frame : List Byte} (h : Keeps s₀ s) : Answers s₀ (execPtpMessageRx port frame s) := by
  unfold Machine.execPtpMessageRx
  extract_lets
  split
  · exact h.next
  · dsimp only
    refine .ite h.next ?_
    split
    · exact (h.elim h.ptpBad).next
    · refine .ite h.ptpBad.next ?_
      refine .ite h.ptpAnnounce.next ?_
      refine .ite ?_ (.ite h.next (.ite h.emit.next h.ptpBad.next))
      exact .ite h.next (.ite h.setTb.next (.ite h.setTb.next h.put.next))

theorem Keeps.execPpsInEdge (h : Keeps s₀ s) : Answers s₀ (execPpsInEdge s) := by
  unfold Machine.execPpsInEdge
  exact (Keeps.ite ((h.upd (by rfl)).foldl fun h => h.setTb) h).next

theorem Keeps.execTodMessage {utc : BitVec 48} {valid : Bool} (h : Keeps s₀ s) : Answers s₀ (execTodMessage utc valid s) := by
  unfold Machine.execTodMessage
  exact .ite h.emit.next (.ite (h.upd (by rfl)).next (h.foldl fun h => h.bump.attend).next)

theorem Keeps.driveSynce (h : Keeps s₀ s) : Keeps s₀ s.driveSynce := by
  unfold State.driveSynce
  exact .ite h (h.upd (by rfl)).emit

theorem Keeps.execSynceSquelch {lane : Fin 16} {lock : Bool} (h : Keeps s₀ s) : Answers s₀ (execSynceSquelch lane lock s) := by
  unfold Machine.execSynceSquelch
  extract_lets
  exact (h.upd (by rfl)).driveSynce.next

theorem Keeps.setPin {p : Nat} {x : Pin} (h : Keeps s₀ s) : Keeps s₀ (s.setPin p x) := h.upd rfl

theorem Keeps.drivePin {p : Nat} (h : Keeps s₀ s) : Keeps s₀ (s.drivePin p) := .ite h h.setPin.emit

theorem Keeps.pinOld {p : Nat} (h : Keeps s₀ s) : Keeps s₀ (s.pinOld p) := by
  unfold State.pinOld
  dsimp only
  split
  · exact .ite h.setPin.bump h
  · exact h

theorem Keeps.execTimedPinEdge {pin : Fin 32} (h : Keeps s₀ s) : Answers s₀ (execTimedPinEdge pin s) := by
  unfold Machine.execTimedPinEdge
  extract_lets _ _ _ _ s1
  have hs1 : Keeps s₀ s1 := .ite h.pinOld (.ite h.pinOld.setPin.bump (.ite h.pinOld.setPin h.pinOld.setPin.bump))
  exact (hs1.upd (by rfl)).drivePin.next

theorem Keeps.pinServed {old : State} {p : Nat} (h : Keeps s₀ s) : Keeps s₀ (s.pinServed old p) := h.setPin.pinOld.drivePin

theorem Keeps.forcePin {p : Nat} {on : Bool} (h : Keeps s₀ s) : Keeps s₀ (s.forcePin p on) := h.setPin.drivePin

theorem Keeps.execPpsOutEdge (h : Keeps s₀ s) : Answers s₀ (execPpsOutEdge s) := by
  unfold Machine.execPpsOutEdge
  extract_lets
  exact (Keeps.ite (.ite (h.upd (by rfl)).emit h) (.ite (h.upd (by rfl)).emit h)).next

theorem Keeps.tickOwn {n : Nat} (h : Keeps s₀ s) : Keeps s₀ (s.tickOwn n) := .ite h h.setTb

theorem Keeps.tickFollower {old : State} {n : Nat} (h : Keeps s₀ s) : Keeps s₀ (old.tickFollower s n) := .ite h.setTb h

theorem Keeps.tick (h : Keeps s₀ s) : Keeps s₀ s.tick := by
  unfold State.tick
  extract_lets s1 s2 s3
  have hs1 : Keeps s₀ s1 := h.foldl fun h => h.tickOwn
  have hs2 : Keeps s₀ s2 := hs1.foldl fun h => h.tickFollower
  have hs3 : Keeps s₀ s3 := (hs2.foldl fun h => h.tbSettle).followStates
  exact hs3.upd (by with_reducible rfl)

/-! ### Staged object values -/

theorem Keeps.putStaged {w : Staged} (h : Keeps s₀ s) : Keeps s₀ (s.putStaged w) := .ite h.putBlob h.put

/-! ### Values a commit applies -/

theorem Keeps.applied {l : List Staged} (h : Keeps s₀ s) : Keeps s₀ (s.applied l) := h.foldl fun h => h.putStaged

/-! ### Pools, Whistle and Replay -/

theorem Keeps.dropPool {p : Nat} (h : Keeps s₀ s) : Keeps s₀ (s.dropPool p) := h.upd rfl

theorem Keeps.makePool {p : Nat} {b : List Byte} (h : Keeps s₀ s) : Keeps s₀ (s.makePool p b) := by
  unfold State.makePool
  refine .ite h ?_
  extract_lets _ _ s2
  have hs2 : Keeps s₀ s2 := (h.upd (by rfl)).setHqueue
  exact hs2.foldl fun h => h.setHqueue

theorem Keeps.makeTPool {p : Nat} {b : List Byte} (h : Keeps s₀ s) : Keeps s₀ (s.makeTPool p b) := by
  unfold State.makeTPool
  extract_lets _ s1
  have hs1 : Keeps s₀ s1 := h.upd rfl
  exact .ite ((hs1.upd (by rfl)).foldl fun h => .ite h h.setTally) hs1

theorem Keeps.startRecord (h : Keeps s₀ s) : Keeps s₀ s.startRecord := by
  unfold State.startRecord
  extract_lets s1 _ src s2
  have hs1 : Keeps s₀ s1 := h.foldl fun h => .ite h h.adaptRestart
  have hsrc : Keeps s₀ src := hs1.put.put
  have hs2 : Keeps s₀ s2 := hsrc.upd (by with_reducible rfl)
  exact hs2.foldl fun h => h.replayLog

theorem Keeps.startInject (h : Keeps s₀ s) : Keeps s₀ s.startInject := by
  unfold State.startInject
  split
  · exact h
  · extract_lets _ _ soft s1 s2 src
    have hsoft (hw : Memory.wf s.mem = true) : Memory.wf soft = true := memPutFold_wf _ _ (Tbl.wf_filter 0#8 _ s.mem hw)
    have hs1 : Keeps s₀ s1 := h.updMem hsoft (by with_reducible rfl)
    have hs2 : Keeps s₀ s2 := hs1.foldl fun h => h.upd (by with_reducible rfl)
    have hsrc : Keeps s₀ src := hs2.put.put
    exact hsrc.upd (by with_reducible rfl)

theorem Keeps.serveReplay {mode : Nat} (h : Keeps s₀ s) : Keeps s₀ (s.serveReplay mode) := .ite h.startRecord (.ite h.startInject (.ite h.put h))

theorem Keeps.toMembers {kind : Nat} {b : List Byte} (h : Keeps s₀ s) : Keeps s₀ (s.toMembers kind b) := h.foldl fun h => .ite h.sendMgl h

theorem Keeps.whistleSet {n air asked : Nat} (h : Keeps s₀ s) : Keeps s₀ (s.whistleSet n air asked) := by
  unfold State.whistleSet
  extract_lets
  exact h.put.upd (by with_reducible rfl)

theorem Keeps.armWhistle {air : Nat} (h : Keeps s₀ s) (e : s.armWhistle air = some t) : Keeps s₀ t := by
  simp only [State.armWhistle] at e
  split at e
  · cases e
  · cases e
    exact h.whistleSet.toMembers

theorem Keeps.disarmWhistle (h : Keeps s₀ s) : Keeps s₀ s.disarmWhistle := by
  unfold State.disarmWhistle
  exact .ite (h.put.upd (by with_reducible rfl)) h

theorem Keeps.cancelWhistle (h : Keeps s₀ s) (e : s.cancelWhistle = some t) : Keeps s₀ t := by
  unfold State.cancelWhistle at e
  split at e
  · cases e
    exact h.disarmWhistle.toMembers
  · cases e

theorem Keeps.resumeWhistle (h : Keeps s₀ s) (e : s.resumeWhistle = some t) : Keeps s₀ t := by
  simp only [State.resumeWhistle] at e
  split at e
  · cases e
  · cases e
    exact (h.upd (by rfl)).toMembers

theorem Keeps.execWhistleEdge (h : Keeps s₀ s) : Answers s₀ (execWhistleEdge s) := by
  unfold Machine.execWhistleEdge
  split
  · refine (Keeps.ite ?_ h).next
    extract_lets _ s1 _ s2 s3
    have hs1 : Keeps s₀ s1 := h.replayLog.put.abandonSlices
    have hs2 : Keeps s₀ s2 := hs1.stopCores rfl
    have hs3 : Keeps s₀ s3 := hs2.foldl fun h => h.latch
    exact (hs3.foldl fun h => h.drivePin).settle
  · exact h.next

/-! ### Rallies -/

theorem Keeps.updRally {id : Nat} {f : Rally → Rally} (h : Keeps s₀ s) : Keeps s₀ (s.updRally id f) := h.upd rfl

theorem Keeps.trimHistory {scope : Nat} (h : Keeps s₀ s) : Keeps s₀ (s.trimHistory scope) := by
  unfold State.trimHistory
  exact .ite h (h.upd rfl)

theorem Keeps.dropActivation {r : Rally} (h : Keeps s₀ s) : Keeps s₀ (s.dropActivation r) := .ite h.put h

theorem Keeps.endRally {r : Rally} {st : RallyState} {cause : Nat} (h : Keeps s₀ s) : Keeps s₀ (s.endRally r st cause) := by
  unfold State.endRally
  extract_lets _ s1 s2 s3
  have hs1 : Keeps s₀ s1 := (Keeps.ite h.mapCores h).dropActivation.updRally
  have hs2 : Keeps s₀ s2 := hs1.releaseRallyLoads.bumpB
  have hs3 : Keeps s₀ s3 := .ite hs2.settle hs2.attend
  exact hs3.trimHistory

theorem Keeps.toChips {mask kind : Nat} {b : List Byte} (h : Keeps s₀ s) : Keeps s₀ (s.toChips mask kind b) := h.foldl fun h => .ite h.sendMgl h

theorem Keeps.commitRally {r : Rally} {tb air : Nat} (h : Keeps s₀ s) : Keeps s₀ (s.commitRally r tb air) := by
  unfold State.commitRally
  extract_lets _ _ _ _ _ src s1 _ s3
  have hsrc : Keeps s₀ src := h.updRally
  have hs1 : Keeps s₀ s1 := hsrc.upd rfl
  have hs3 : Keeps s₀ s3 := .ite (Keeps.ite hs1.put hs1).toChips (.ite hs1.put hs1)
  exact hs3.settle

theorem Keeps.tryCommit {r : Rally} {tb air : Nat} (h : Keeps s₀ s) : Keeps s₀ (s.tryCommit r tb air).1 := by
  unfold State.tryCommit
  refine .iteOf Prod.fst h ?_
  split
  · exact h
  · exact h.commitRally.pair

theorem Keeps.abortOpen {r : Rally} {cause : Nat} (h : Keeps s₀ s) : Keeps s₀ (s.abortOpen r cause) := h.endRally.toChips

theorem Keeps.execRallyIdleTimeout {scope : Fin 17} (h : Keeps s₀ s) : Answers s₀ (execRallyIdleTimeout scope s) := by
  unfold Machine.execRallyIdleTimeout
  split
  · exact (Keeps.ite h.abortOpen h).next
  · exact h.next

theorem Keeps.holdBanks (h : Keeps s₀ s) : Keeps s₀ s.holdBanks := h.foldl fun h => h.updCore

theorem Keeps.takeDecision {r : Rally} {commit : Bool} (h : Keeps s₀ s) :
    Keeps s₀ (s.takeDecision r commit) :=
  .ite h (.ite (Keeps.ite h.updRally.holdBanks h.updRally).updRally h.updRally.endRally)

theorem Keeps.freezeOne {r : Rally} (h : Keeps s₀ s) :
    Keeps s₀ (s.freezeOne r) :=
  .ite (.ite h.updRally.toChips h) (.ite (Keeps.ite h.holdBanks h).updRally h.endRally)

theorem Keeps.freezeDue (h : Keeps s₀ s) : Keeps s₀ s.freezeDue := h.foldl fun h => h.elim (.ite h.freezeOne h)

theorem Keeps.serveTb {old : State} {own : List Nat} {n : Nat} (h : Keeps s₀ s) : Keeps s₀ (old.serveTb own s n) := by
  unfold State.serveTb
  extract_lets _ _ s1
  have hs1 : Keeps s₀ s1 := .ite h.setTb.setTally.tbEnter (.ite h.setTb.tbEnter (.ite h.setTb h))
  exact .ite (Keeps.ite hs1.setTb hs1).setTb (.ite hs1.setTb hs1)

theorem Keeps.servePools {old : State} {own : List Nat} (h : Keeps s₀ s) : Keeps s₀ (s.servePools old own) := by
  unfold State.servePools
  extract_lets _ _ s1 s2
  have hs1 : Keeps s₀ s1 := h.foldl fun h => h.dropPool
  have hs2 : Keeps s₀ s2 := hs1.foldl fun h => h.makePool
  exact hs2.foldl fun h => h.makeTPool

theorem Keeps.serveAdapt {old : State} {own : List Nat} {k : Nat} (h : Keeps s₀ s) :
    Keeps s₀ (s.serveAdapt old own k) :=
  .ite h.adaptRestart (.ite h.put.adaptRestart h)

theorem Keeps.serveCore {n : Nat} (h : Keeps s₀ s) : Keeps s₀ (s.serveCore n) := by
  unfold State.serveCore
  extract_lets
  exact h.updCore.upd (by with_reducible rfl)

theorem Keeps.serveSf {image : Nat} (h : Keeps s₀ s) : Keeps s₀ (s.serveSf image) := h.foldl fun h => .ite h h.updCore

theorem Keeps.serveMembers {old : State} (h : Keeps s₀ s) : Keeps s₀ (s.serveMembers old) := by
  unfold State.serveMembers
  extract_lets _ _ s1 _ _ _ src s2 s3
  have hs1 : Keeps s₀ s1 := h.bump
  have hsrc : Keeps s₀ src := hs1.bumpFree
  have hs2 : Keeps s₀ s2 := .ite (.ite (hs1.upd rfl) (hsrc.upd rfl)) hs1
  have hs3 : Keeps s₀ s3 := .ite hs2.put (.ite (hs2.upd rfl) hs2)
  refine .ite h ?_
  refine hs3.serveTrees.foldl fun h => ?_
  extract_lets t1 _ u
  have ht1 : Keeps s₀ t1 := .ite h.put h.put
  have hu : Keeps s₀ u := .ite (ht1.upd rfl) ht1
  exact .ite hu.liftFence hu.cplaneLost

theorem Keeps.serveActivation {slot : Nat} (h : Keeps s₀ s) : Keeps s₀ (s.serveActivation slot) := by
  unfold State.serveActivation
  extract_lets
  exact (h.upd (by rfl)).put.put

theorem Keeps.serveEffects {old : State} {own courts : List Nat} (h : Keeps s₀ s) : Keeps s₀ (s.serveEffects old own courts) := by
  unfold State.serveEffects
  extract_lets s1 s2 s3 s4 _ s6 s7 _ s8 s9 _ s11 s12 s13
  have hs1 : Keeps s₀ s1 := h.foldl fun h => h.serveTb
  have hs2 : Keeps s₀ s2 := hs1.foldl fun h => h.followSync
  have hs3 : Keeps s₀ s3 := (hs2.foldl fun h => h.tbSettle).followStates
  have hs4 : Keeps s₀ s4 := hs3.foldl fun h => h.pinServed
  have hs6 : Keeps s₀ s6 := hs4.servePools.foldl fun h => h.serveAdapt
  have hs7 : Keeps s₀ s7 := hs6.foldl fun h => h.serveCore
  have hs8 : Keeps s₀ s8 := .ite hs7.serveSf hs7
  have hs9 : Keeps s₀ s9 := .ite (hs8.upd rfl) hs8
  have hs11 : Keeps s₀ s11 := hs9.serveMembers.when fun h => h.serveActivation
  have hs12 : Keeps s₀ s12 := hs11.foldl fun h => h.liftFence
  have hs13 : Keeps s₀ s13 := hs12.foldl fun h => (Keeps.ite h.put h).liftFence.settle
  exact .ite hs13.serveReplay hs13

theorem Keeps.orphanRallies (h : Keeps s₀ s) : Keeps s₀ s.orphanRallies := h.foldl fun h => h.endRally

theorem Keeps.keepPast {courts : List Nat} (h : Keeps s₀ s) : Keeps s₀ (s.keepPast courts) := h.upd rfl

theorem Keeps.serveGroup {l : List Rally} (h : Keeps s₀ s) : Keeps s₀ (s.serveGroup l) := by
  unfold State.serveGroup
  extract_lets _ _ _ _ _ s2 _ s4 s5
  have hs2 : Keeps s₀ s2 := h.keepPast.applied.foldl fun h => h.bumpB
  have hs4 : Keeps s₀ s4 := (Keeps.ite hs2.bumpB hs2).serveEffects
  have hs5 : Keeps s₀ s5 := by
    refine hs4.foldl fun h => ?_
    extract_lets t1
    have ht1 : Keeps s₀ t1 := h.updRally.serveRallyLoads.bumpB
    exact (Keeps.ite ht1.toChips ht1).trimHistory
  exact hs5.orphanRallies.settle

theorem Keeps.releaseInOrder {upTo : Option Int} {n : Nat} (h : Keeps s₀ s) : Keeps s₀ (State.releaseInOrder upTo n s) := by
  induction n generalizing s with
  | zero => exact h
  | succ n ih =>
    unfold State.releaseInOrder
    extract_lets
    split
    · exact ih h.releaseJob
    · exact h

theorem Keeps.serveAll {n : Nat} (h : Keeps s₀ s) : Keeps s₀ (State.serveAll n s) := by
  induction n generalizing s with
  | zero => exact h
  | succ n ih =>
    unfold State.serveAll
    split
    · exact ih h.releaseInOrder.serveGroup
    · exact h

theorem Keeps.serveDue (h : Keeps s₀ s) : Keeps s₀ s.serveDue := h.freezeDue.serveAll

theorem Keeps.execResumeBoundary (h : Keeps s₀ s) : Answers s₀ (execResumeBoundary s) := by
  unfold Machine.execResumeBoundary
  split
  · refine (Keeps.ite h ?_).next
    extract_lets _ _ _ s1 src s2 s3
    have hs1 : Keeps s₀ s1 := h.put.replayLog
    have hsrc : Keeps s₀ src := hs1.mapCores
    have hs2 : Keeps s₀ s2 := hsrc.resumeCores h rfl
    have hs3 : Keeps s₀ s3 := hs2.foldl fun h => h.drivePin
    exact (hs3.serveDue.releaseInOrder.foldl fun h => h.pumpAll).settle
  · exact h.next

/-! ### Megorlink members, votes and reductions -/

theorem Keeps.redeal {p : Nat} (h : Keeps s₀ s) : Keeps s₀ (s.redeal p) := by
  unfold State.redeal
  dsimp only
  split
  · exact h.setMport.setMport.pumpAll
  · exact h.setMport

theorem Keeps.retrain {p : Nat} (h : Keeps s₀ s) : Keeps s₀ (s.retrain p) := by
  unfold State.retrain
  extract_lets _ _ _ _ s2
  have hs2 : Keeps s₀ s2 := h.put.bump.redeal.setMport
  exact (Keeps.ite hs2.put.fenceObject hs2).settle

theorem Keeps.retry {p : Nat} (h : Keeps s₀ s) : Keeps s₀ (s.retry p) := by
  unfold State.retry
  extract_lets _ _ _ s1
  have hs1 : Keeps s₀ s1 := h.bump.setMport.violation
  exact .ite hs1.retrain hs1

theorem Keeps.portRetrain {p : Nat} (h : Keeps s₀ s) : Keeps s₀ (s.portRetrain p) := .ite h h.liftFence.setMport.retrain

theorem Keeps.flitNews {p : Nat} {f : List Byte} (h : Keeps s₀ s) : Keeps s₀ (s.flitNews p f) := h.setMport

theorem Keeps.resend {p seq : Nat} (h : Keeps s₀ s) : Keeps s₀ (s.resend p seq) := by
  unfold State.resend
  dsimp only
  split
  · exact h.setMport.foldl fun h => h.emit.countGlobal
  · exact h

theorem Keeps.nak {p : Nat} (h : Keeps s₀ s) : Keeps s₀ (s.nak p) := .ite h h.setMport.sendControl.retry

theorem Keeps.vc0 {packet : List Byte} {f : State → State} (h : Keeps s₀ s) (hf : ∀ {t}, Keeps s₀ t → Keeps s₀ (f t)) :
    Keeps s₀ (s.vc0 packet f) :=
  .ite h (hf h.replayLog)

theorem Keeps.heartbeatIn {c : Nat} (h : Keeps s₀ s) : Keeps s₀ (State.heartbeatIn c s) := by
  unfold State.heartbeatIn
  exact .ite (h.put.upd (by with_reducible rfl)) h

theorem Keeps.execMemberHeartbeat {from_ : Option (Fin 24)} (h : Keeps s₀ s) : Answers s₀ (execMemberHeartbeat from_ s) := by
  unfold Machine.execMemberHeartbeat
  split
  · refine Keeps.next ?_
    refine .ite ?_ h
    extract_lets src
    have hsrc : Keeps s₀ src := h.toMembers
    exact hsrc.upd rfl
  · exact (h.vc0 fun h => h.heartbeatIn).next

theorem Keeps.removeLost (h : Keeps s₀ s) : Keeps s₀ s.removeLost := by
  unfold State.removeLost
  extract_lets
  exact (h.upd (by rfl)).commitRally

theorem Keeps.loadFor {id : Nat} {l : List Staged} (h : Keeps s₀ s) :
    Keeps s₀ (s.loadFor id l) :=
  h.foldl fun h => .ite h (h.requestLoad.unless fun h => h.updRally)

theorem Keeps.prepareIn {m : PrepareMsg} (h : Keeps s₀ s) : Keeps s₀ (State.prepareIn m s) := by
  unfold State.prepareIn
  extract_lets _ _ s1 _ _ s11
  have hs1 : Keeps s₀ s1 := h.upd rfl
  have hs11 : Keeps s₀ s11 := (hs1.upd (by rfl)).loadFor
  exact .ite h hs11.updRally.toChips.settle

theorem Keeps.decideRally {r : Rally} (h : Keeps s₀ s) : Keeps s₀ (s.decideRally r) := by
  unfold State.decideRally
  extract_lets _ _ _ _ s2
  have hs2 : Keeps s₀ s2 := (Keeps.ite h h.bump).updRally.toChips
  exact hs2.takeDecision.settle

theorem Keeps.voteIn {c id : Nat} {yes : Bool} (h : Keeps s₀ s) : Keeps s₀ (State.voteIn c id yes s) := by
  unfold State.voteIn
  split
  · exact .ite h (.ite h.updRally.decideRally h.updRally)
  · exact h

theorem Keeps.retractIn {c id : Nat} (h : Keeps s₀ s) : Keeps s₀ (State.retractIn c id s) := by
  unfold State.retractIn
  split
  · exact .ite h.updRally h
  · exact h

theorem Keeps.execRetract {rally : BitVec 32} {from_ : Option (Fin 24)} (h : Keeps s₀ s) : Answers s₀ (execRetract rally from_ s) := by
  unfold Machine.execRetract
  split
  · exact (h.vc0 fun h => h.retractIn).next
  · split
    · exact (Keeps.ite h.updRally.toChips h).next
    · exact h.next

theorem Keeps.execVoteDeadline {rally : BitVec 32} (h : Keeps s₀ s) : Answers s₀ (execVoteDeadline rally s) := by
  unfold Machine.execVoteDeadline
  split
  · exact (Keeps.ite h.decideRally h).next
  · exact h.next

theorem Keeps.decisionIn {id : Nat} {commit : Bool} (h : Keeps s₀ s) : Keeps s₀ (State.decisionIn id commit s) := by
  unfold State.decisionIn
  split
  · extract_lets s1
    have hs1 : Keeps s₀ s1 := .ite h.endRally h.takeDecision
    exact hs1.toChips.settle
  · exact h

theorem Keeps.execDecisionRepeat {rally : BitVec 32} {acks : BitVec 24} (h : Keeps s₀ s) : Answers s₀ (execDecisionRepeat rally acks s) := by
  unfold Machine.execDecisionRepeat
  split
  · split
    · exact (Keeps.ite h (.ite h.updRally.updRally.toChips h.updRally)).next
    · exact h.next
  · exact h.next

theorem Keeps.queryIn {c id : Nat} (h : Keeps s₀ s) : Keeps s₀ (State.queryIn c id s) := h.toChips

theorem Keeps.execDecisionQuery {rally : BitVec 32} {from_ : Option (Fin 24)} (h : Keeps s₀ s) : Answers s₀ (execDecisionQuery rally from_ s) := by
  unfold Machine.execDecisionQuery
  split
  · exact (h.vc0 fun h => h.queryIn).next
  · split
    · exact (Keeps.ite h.toChips h).next
    · exact h.next

theorem Keeps.isolate (h : Keeps s₀ s) : Keeps s₀ s.isolate := h.put.put.attend

theorem Keeps.execQueryCutoff {rally : BitVec 32} {replies : List (Fin 24 × Bool)} (h : Keeps s₀ s) :
    Answers s₀ (execQueryCutoff rally replies s) := by
  unfold Machine.execQueryCutoff
  split
  · exact (Keeps.ite h (.ite h.takeDecision (h.endRally.toChips.when fun h => h.isolate).settle)).next
  · exact h.next

theorem Keeps.execReductionUnitRx {src : Fin 24} {unit : RedUnit} (h : Keeps s₀ s) : Answers s₀ (execReductionUnitRx src unit s) := by
  unfold Machine.execReductionUnitRx
  exact .ite h.next (Keeps.ite (h.upd (by with_reducible rfl)) (.ite (h.upd (by with_reducible rfl)).sendVia (h.upd (by with_reducible rfl)))).next

theorem Keeps.execReductionAbandon {carrier : Fin 32} {sym : BitVec 32} {chunk kind : BitVec 8} {home : Fin 24} (h : Keeps s₀ s) :
    Answers s₀ (execReductionAbandon carrier sym chunk kind home s) := by
  unfold Machine.execReductionAbandon
  refine Keeps.next (.ite h ?_)
  dsimp only
  split
  · exact .setJob (.foldl (h.upd rfl) fun h => h.bump)
  · exact .foldl (h.upd rfl) fun h => h.bump

theorem Keeps.execRemoteAccessTimeout {core : Fin 64} {slot engine : Fin 4} (h : Keeps s₀ s) :
    Answers s₀ (execRemoteAccessTimeout core slot engine s) := by
  unfold Machine.execRemoteAccessTimeout
  extract_lets
  split
  · refine Keeps.next ?_
    refine .ite h ?_
    refine .faultCtx ?_
    extract_lets src
    have hsrc : Keeps s₀ src := h.setEngine
    exact hsrc.upd rfl
  · exact h.next

theorem Keeps.books {n edge : Nat} {e : Imbalance × Int} (h : Keeps s₀ s) : Keeps s₀ (s.books n edge e) := by
  unfold State.books
  extract_lets _ _ _ src
  have hsrc : Keeps s₀ src := h.putBlob
  exact (hsrc.upd (by rfl)).attend

theorem Keeps.execAuditEdge {linkDiffs : List (Fin 8 × Fin 4 × Int)} (h : Keeps s₀ s) : Answers s₀ (execAuditEdge linkDiffs s) := by
  unfold Machine.execAuditEdge
  extract_lets _ _ _ _ _ _ s2 _ s3
  have hs2 : Keeps s₀ s2 := .ite h.bump h.bump.bump
  have hs3 : Keeps s₀ s3 := hs2.upd rfl
  exact (Keeps.ite h (hs3.foldl fun h => h.books)).next

theorem Keeps.restartLoads (h : Keeps s₀ s) : Keeps s₀ s.restartLoads := by
  unfold State.restartLoads
  extract_lets _ s1
  have hs1 : Keeps s₀ s1 := (h.upd (by rfl)).foldl fun h => h.upd rfl
  exact hs1.foldl fun h => h.endRally

theorem Keeps.rebuildBench (h : Keeps s₀ s) : Keeps s₀ s.rebuildBench := by
  unfold State.rebuildBench
  extract_lets _ _ s1 s2
  have hs1 : Keeps s₀ s1 := (h.upd (by rfl)).foldl fun h => h.ownPages
  have hs2 : Keeps s₀ s2 := hs1.foldl fun h => h.ownPages
  exact (hs2.ownPages.foldl fun h => h.fenceJobAnywhere).restartLoads

theorem Keeps.reinit {i : Imbalance} (h : Keeps s₀ s) : Keeps s₀ (s.reinit i) := by
  unfold State.reinit
  extract_lets _ src
  have hsrc : Keeps s₀ src := h.mapCores
  refine .ite h.dropPool.makePool ?_
  exact .ite (hsrc.upd rfl) (.ite h.retrain (.ite h.makeTPool (.ite h.rebuildBench (h.upd rfl))))

theorem Keeps.applyRemedy {i : Imbalance} (h : Keeps s₀ s) : Keeps s₀ (s.applyRemedy i) := by
  unfold State.applyRemedy
  extract_lets s1
  have hs1 : Keeps s₀ s1 := h.foldl fun h => h.fenceJobAnywhere
  exact hs1.reinit.bump.settle

theorem Keeps.execRemedy (h : Keeps s₀ s) : Answers s₀ (execRemedy s) := by
  unfold Machine.execRemedy
  extract_lets
  exact (Keeps.ite h ((h.upd (by rfl)).foldl fun h => h.applyRemedy)).next

/-! ### Power and temperature -/

theorem Keeps.reasonStep {new r : Nat} (h : Keeps s₀ s) : Keeps s₀ (State.reasonStep new s r) := by
  unfold State.reasonStep
  exact .ite (h.bump.updPower h rfl) (.ite (h.upd rfl) h)

theorem Keeps.throttle (h : Keeps s₀ s) : Keeps s₀ s.throttle := (h.foldl fun h => h.reasonStep).put.settle

theorem Keeps.holdFixed (h : Keeps s₀ s) : Keeps s₀ s.holdFixed := h.upd rfl

theorem Keeps.putUsed (h : Keeps s₀ s) : Keeps s₀ s.putUsed := h.put

theorem Keeps.comparePower (h : Keeps s₀ s) : Keeps s₀ s.comparePower := by
  unfold State.comparePower
  refine .ite (h.upd rfl) ?_
  extract_lets _ _ _ _ _ s1 _ s11
  have hs1 : Keeps s₀ s1 := h.upd rfl
  have hs11 : Keeps s₀ s11 := h.upd rfl
  exact .ite (.ite (hs1.upd (by rfl)).bump.settle hs1) (.ite (hs11.upd (by rfl)).settle hs11)

theorem Keeps.execPmbusRound {mw : List (Option (BitVec 32))} {ocWarning : Bool} (h : Keeps s₀ s) : Answers s₀ (execPmbusRound mw ocWarning s) := by
  unfold Machine.execPmbusRound
  extract_lets _ _ _ _ _ _ s2
  have hs2 : Keeps s₀ s2 := .ite (h.upd (by rfl)).put (h.upd rfl)
  exact (Keeps.ite hs2.put hs2).putUsed.comparePower.throttle.next

theorem Keeps.execEstimateTick {mw : BitVec 32} (h : Keeps s₀ s) : Answers s₀ (execEstimateTick mw s) := by
  unfold Machine.execEstimateTick
  extract_lets _ s1
  have hs1 : Keeps s₀ s1 := (h.upd (by rfl)).put
  exact (Keeps.ite hs1.putUsed hs1).next

theorem Keeps.execTelemetryLost (h : Keeps s₀ s) : Answers s₀ (execTelemetryLost s) := by
  unfold Machine.execTelemetryLost
  exact (Keeps.ite (h.upd (by rfl)).put.putUsed.comparePower.throttle h).next

theorem Keeps.startMove {target : Nat} (h : Keeps s₀ s) : Keeps s₀ (s.startMove target) := by
  unfold State.startMove
  exact .ite h (.ite (h.upd (by rfl)).emit (h.upd rfl))

theorem Keeps.execDecisionEdge (h : Keeps s₀ s) : Answers s₀ (execDecisionEdge s) := by
  unfold Machine.execDecisionEdge
  extract_lets _ s0 _ _ s1
  have hs0 : Keeps s₀ s0 := h.countGlobal
  have hs1 : Keeps s₀ s1 := hs0.upd rfl
  exact (Keeps.ite h (hs1.updPower hs0 (by rfl)).holdFixed.startMove.throttle).next

theorem Keeps.execPmAlert (h : Keeps s₀ s) : Answers s₀ (execPmAlert s) := by
  unfold Machine.execPmAlert
  exact (Keeps.ite h (h.upd (by with_reducible rfl))).next

theorem Keeps.execCurrentLimitRepeat (h : Keeps s₀ s) : Answers s₀ (execCurrentLimitRepeat s) := by
  unfold Machine.execCurrentLimitRepeat
  extract_lets
  exact (Keeps.ite (h.upd (by rfl)).startMove.throttle h).next

theorem Keeps.execAvsbusSettled {mv : Option (BitVec 16)} (h : Keeps s₀ s) : Answers s₀ (execAvsbusSettled mv s) := by
  unfold Machine.execAvsbusSettled
  split
  · exact (Keeps.ite (h.put.updPower h (by with_reducible rfl)).put.holdFixed.throttle (h.put.updPower h (by with_reducible rfl))).next
  · exact (Keeps.ite (h.upd (by with_reducible rfl)) h).next

theorem Keeps.execPllRelockDone (h : Keeps s₀ s) : Answers s₀ (execPllRelockDone s) := by
  unfold Machine.execPllRelockDone
  exact (h.upd (by rfl)).next

theorem Keeps.switchTo {f : Nat} (h : Keeps s₀ s) : Keeps s₀ (s.switchTo f) := by
  unfold State.switchTo
  extract_lets _ _ _ _ _ s2 s3
  have hs2 : Keeps s₀ s2 := .ite (h.put.updPower h (by rfl)).emit (h.put.updPower h rfl)
  have hs3 : Keeps s₀ s3 := .ite (hs2.upd (by rfl)).bump.attend hs2
  exact hs3.holdFixed.throttle

theorem Keeps.execFrequencySwitch (h : Keeps s₀ s) : Answers s₀ (execFrequencySwitch s) := by
  unfold Machine.execFrequencySwitch
  split
  · exact h.next
  · exact (Keeps.ite h (.ite (.ite h (h.bump.updPower h (by with_reducible rfl))) (.ite h.switchTo h))).next

theorem Keeps.execGustFire {domain : BitVec 8} (h : Keeps s₀ s) : Answers s₀ (execGustFire domain s) := by
  unfold Machine.execGustFire
  extract_lets
  exact (Keeps.ite h (h.upd (by rfl)).bump.throttle).next

theorem Keeps.execGustClear {domain : BitVec 8} (h : Keeps s₀ s) : Answers s₀ (execGustClear domain s) := by
  unfold Machine.execGustClear
  extract_lets
  exact (Keeps.ite h (h.upd (by rfl)).countGlobal.throttle).next

theorem Keeps.execLongGust (h : Keeps s₀ s) : Answers s₀ (execLongGust s) := by
  unfold Machine.execLongGust
  exact (Keeps.ite (h.upd (by rfl)).settle h).next

theorem Keeps.execRelockRestart (h : Keeps s₀ s) : Answers s₀ (execRelockRestart s) := by
  unfold Machine.execRelockRestart
  split
  · exact (Keeps.ite (h.bump.updPower h (by with_reducible rfl)) h).next
  · exact h.next

theorem Keeps.execSensorSample {temps : List (BitVec 32)} (h : Keeps s₀ s) : Answers s₀ (execSensorSample temps s) := by
  unfold Machine.execSensorSample
  dsimp only
  split
  · exact h.next
  · refine Keeps.next (.settle ?_)
    exact (Keeps.ite h.put.putBlob.put h.put.putBlob).upd rfl

theorem Keeps.releasePins (h : Keeps s₀ s) : Keeps s₀ s.releasePins := by
  unfold State.releasePins
  extract_lets _ s2
  have hs2 : Keeps s₀ s2 := .ite (h.foldl fun h => h.emit).emit (h.foldl fun h => h.emit)
  exact .ite hs2.emit hs2

theorem Keeps.execThermalTrip (h : Keeps s₀ s) : Answers s₀ (execThermalTrip s) := by
  unfold Machine.execThermalTrip
  refine (Keeps.ite h ?_).next
  extract_lets s0 _ _ s1
  have hs0 : Keeps s₀ s0 := h.releasePins
  have hs1 : Keeps s₀ s1 := { hs0 with tripLatch := fun _ _ => ⟨rfl, rfl⟩ }
  exact hs1.emit

/-! ### Fences, lifts and resets -/

theorem Keeps.execXspiChannelFence {channel : Fin 8} {words : BitVec 8} {silent : Bool} (h : Keeps s₀ s) :
    Answers s₀ (execXspiChannelFence channel words silent s) := by
  unfold Machine.execXspiChannelFence
  extract_lets _ _ _ _ src s1
  have hsrc : Keeps s₀ src := h.bumpBy
  have hs1 : Keeps s₀ s1 := hsrc.upd rfl
  exact (Keeps.ite hs1 hs1.put.fenceObject.settle).next

theorem Keeps.execFenceLift {grain : Fin 11} {object : BitVec 16} (h : Keeps s₀ s) : Answers s₀ (execFenceLift grain object s) := by
  unfold Machine.execFenceLift
  extract_lets
  split
  · extract_lets _ s2
    have hs2 : Keeps s₀ s2 := by
      refine .ite h.liftFence.updCore ?_
      exact .ite h.liftFence.updCore (.ite h.liftFence.setEngineC (h.liftFence.when fun h => h.setXf))
    exact (Keeps.ite hs2.settle h).next
  · exact h.next

theorem Keeps.execFhPortTraining {port : Fin 16} {ok : Bool} (h : Keeps s₀ s) : Answers s₀ (execFhPortTraining port ok s) := by
  unfold Machine.execFhPortTraining
  extract_lets
  exact (Keeps.ite h (.ite h.put.settle (.ite (h.upd (by with_reducible rfl)) (h.upd (by with_reducible rfl)).put.fenceObject.settle))).next

theorem Keeps.resetFunc {f : Nat} (h : Keeps s₀ s) : Keeps s₀ (s.resetFunc f) := by
  unfold State.resetFunc
  extract_lets src s1
  have hsrc : Keeps s₀ src := h.setFunc
  have hs1 : Keeps s₀ s1 := hsrc.upd rfl
  exact (hs1.foldl fun h => h.abortOpen).settle

theorem Keeps.resetPcie (h : Keeps s₀ s) : Keeps s₀ s.resetPcie := (h.foldl fun h => h.resetFunc).put.put.put

theorem Keeps.execDomainReset {domain : ResetDomain} (h : Keeps s₀ s) : Answers s₀ (execDomainReset domain s) := by
  unfold Machine.execDomainReset
  split
  · exact (Keeps.ite h.updCore h).next
  · exact h.resetPcie.next
  · exact h.next
  · exact h.next
  · exact h.next

/-- A reset of the chip keeps the archive alone, or nothing, of memory. -/
theorem KeepsRecord.restart {cause : Nat} {chip : Bool} (h : Keeps s₀ s) : KeepsRecord s₀ (s.restart cause chip) := by
  unfold State.restart
  extract_lets _ s1
  have hs1 : Keeps s₀ s1 := h.releasePins.when fun h => h.emit
  split
  · exact { hs1 with mem := fun hw => Tbl.wf_filter 0#8 _ _ (hs1.mem hw) }
  · exact { hs1 with mem := fun _ => rfl }

/-- RESET_N cuts no power: THERMTRIP_N stays latched through it. -/
theorem Keeps.restart {cause : Nat} (h : Keeps s₀ s) : Keeps s₀ (s.restart cause true) where
  toKeepsRecord := .restart h
  tripLatch ht hs :=
    have hs1 : Keeps s₀ (if s.releasePins.power.tripped ∧ true = false then s.releasePins.emit (.data 6 34 [0#8]) else s.releasePins) :=
      h.releasePins.when fun h => h.emit
    ⟨(hs1.tripLatch ht hs).1, (hs1.tripLatch ht hs).1⟩

/-! ### The model library -/

theorem Keeps.libEnter {p : Package} (h : Keeps s₀ s) : Keeps s₀ (s.libEnter p) := h.upd rfl

theorem Keeps.libDelete {m : Nat} (h : Keeps s₀ s) : Keeps s₀ (s.libDelete m).1 := by
  unfold State.libDelete
  refine .iteOf Prod.fst h ?_
  extract_lets s1 s2
  have hs1 : Keeps s₀ s1 := h.foldl fun h => h.cancelLoad
  have hs2 : Keeps s₀ s2 := .ite hs1.dropModel hs1
  exact (hs2.upd (by rfl)).pair

/-! ### Start-up, self-test and firmware -/

theorem Keeps.reach {n : Nat} (h : Keeps s₀ s) : Keeps s₀ (s.reach n) := h.upd rfl

theorem Keeps.setFwSlot {k : Nat} {x : FwSlot} (h : Keeps s₀ s) : Keeps s₀ (s.setFwSlot k x) :=
  h.upd (by unfold State.setFwSlot; split <;> rfl)

theorem Keeps.writeBootHeader (h : Keeps s₀ s) : Keeps s₀ s.writeBootHeader := by
  unfold State.writeBootHeader
  extract_lets
  exact (h.upd (by rfl)).emit

theorem Keeps.raiseFuses {hd : List Byte} (h : Keeps s₀ s) : Keeps s₀ (s.raiseFuses hd) :=
  Keeps.put (s := { s with firm := { s.firm with
      ctrlFuses := max s.firm.ctrlFuses (fieldOf hd 16 2), rtFuses := max s.firm.rtFuses (fieldOf hd 18 2) } })
    { h with ctrlFuses := le_max_of_le_left h.ctrlFuses, rtFuses := le_max_of_le_left h.rtFuses }

theorem Keeps.execRomBoot {fault0 fault1 : BitVec 3} (h : Keeps s₀ s) : Answers s₀ (execRomBoot fault0 fault1 s) := by
  unfold Machine.execRomBoot
  refine .ite h.next ?_
  extract_lets _ _ _ s2 s3
  have hs2 : Keeps s₀ s2 := (h.upd (by rfl)).writeBootHeader.put
  have hs3 : Keeps s₀ s3 := hs2.foldl fun h => h.reach
  split
  · extract_lets _ s4
    have hs4 : Keeps s₀ s4 := hs3.put.put.put.raiseFuses
    exact (Keeps.ite hs4 hs4.put.attend).next
  · exact hs3.put.put.next

theorem Keeps.setTestUnit {u : Nat} {x : TestUnit} (h : Keeps s₀ s) : Keeps s₀ (s.setTestUnit u x) := h.upd rfl

theorem Keeps.withhold {m slice : Nat} (h : Keeps s₀ s) : Keeps s₀ (s.withhold m slice) := by
  unfold State.withhold
  extract_lets _ s1
  have hs1 : Keeps s₀ s1 := h.bumpFree
  exact .ite (hs1.upd rfl) (.ite hs1.ownPages (hs1.put.updFirm hs1 rfl))

theorem Keeps.failUnit {u slice : Nat} (h : Keeps s₀ s) : Keeps s₀ (s.failUnit u slice) := by
  unfold State.failUnit
  refine .ite ?_ (.ite h.setEngineC.fenceObject.settle (.ite h.setXf.fenceObject.settle h.withhold))
  exact .ite (.ite h.updCore.fenceObject.fenceCore h.updCore.fenceObject.settle) h.put.fenceCore

theorem Keeps.sliceEnded {u slice : Nat} {pass : Bool} (h : Keeps s₀ s) :
    Keeps s₀ (s.sliceEnded u slice pass) :=
  h.setTestUnit.bump.unless fun h => h.bump.failUnit

theorem Keeps.judgeUnit {x : TestUnit} {u : Nat} {stale : Bool} (h : Keeps s₀ s) : Keeps s₀ (s.judgeUnit x u stale) := by
  unfold State.judgeUnit
  extract_lets _ _ _ _ s3
  have hs3 : Keeps s₀ s3 := h.setTestUnit.failUnit.setTestUnit
  exact .ite (.ite h.setTestUnit.failUnit (.ite hs3.put hs3)) (h.setTestUnit.when fun h => h.put)

theorem Keeps.judgeRecord {r : List Byte} {verified : Bool} (h : Keeps s₀ s) : Keeps s₀ (s.judgeRecord r verified) := by
  unfold State.judgeRecord
  exact .ite ((h.upd (by rfl)).foldl fun h => h.judgeUnit) (h.foldl fun h => h.judgeUnit)

theorem Keeps.bootInForce (h : Keeps s₀ s) : Keeps s₀ s.bootInForce := by
  unfold State.bootInForce
  refine h.foldl fun h => ?_
  split
  · exact h.putStaged
  · exact h

theorem Keeps.peerDefaults (h : Keeps s₀ s) : Keeps s₀ s.peerDefaults := by
  unfold State.peerDefaults
  refine .ite h ?_
  refine h.foldl fun h => ?_
  split
  · exact .ite (.ite h h.put) (Keeps.ite h h.put).put
  · exact h

theorem Keeps.execSerdesPllsLocked {record : List Byte} {verified : Bool} (h : Keeps s₀ s) : Answers s₀ (execSerdesPllsLocked record verified s) := by
  unfold Machine.execSerdesPllsLocked
  refine .ite h.next ?_
  extract_lets s1 _ s2 _ s3 _ s5
  have hs1 : Keeps s₀ s1 := h.bootInForce
  have hs2 : Keeps s₀ s2 := (hs1.upd (by rfl)).peerDefaults
  have hs3 : Keeps s₀ s3 := hs2.foldl fun h => h.put.put
  have hs5 : Keeps s₀ s5 := hs3.put.judgeRecord.foldl fun h => .ite h.put.setMport h
  exact (hs5.foldl fun h => h.reach).settle.next

theorem Keeps.execBreezeService (h : Keeps s₀ s) : Answers s₀ (execBreezeService s) := by
  unfold Machine.execBreezeService
  exact (Keeps.ite (h.upd (by rfl)).reach.settle h).next

theorem Keeps.execCheckBytesInitialised {models : List Package} (h : Keeps s₀ s) : Answers s₀ (execCheckBytesInitialised models s) := by
  unfold Machine.execCheckBytesInitialised
  refine Keeps.next ?_
  refine .ite h ?_
  extract_lets s1
  have hs1 : Keeps s₀ s1 := h.reach.foldl fun h => h.libEnter
  exact hs1.foldl fun h => .ite h h.requestLoad

theorem Keeps.execFullService (h : Keeps s₀ s) : Answers s₀ (execFullService s) := by
  unfold Machine.execFullService
  exact (Keeps.ite (h.upd (by rfl)).reach.reach.settle h).next

theorem Keeps.beginSlice {u n : Nat} (h : Keeps s₀ s) :
    Keeps s₀ (s.beginSlice u n) :=
  .ite h.setTestUnit.updCore (.ite h.setTestUnit.setEngineC (h.setTestUnit.when fun h => h.setXf))

theorem Keeps.freeUnit {u : Nat} (h : Keeps s₀ s) : Keeps s₀ (s.freeUnit u) := .ite h.updCore (.ite h.setEngineC (.ite h.setXf h))

theorem Keeps.fullPass {u : Nat} (h : Keeps s₀ s) : Keeps s₀ (s.fullPass u) := .ite h.setTestUnit h

theorem Keeps.execInServiceSlice {unit : BitVec 16} {slice : Fin 10} {ended : Option Bool} (h : Keeps s₀ s) :
    Answers s₀ (execInServiceSlice unit slice ended s) := by
  unfold Machine.execInServiceSlice
  dsimp only
  split
  · exact (Keeps.ite h.beginSlice.settle h).next
  · exact (Keeps.ite h (h.freeUnit.sliceEnded.when fun h => h.fullPass).settle).next

theorem Keeps.execExcursionMarker (h : Keeps s₀ s) : Answers s₀ (execExcursionMarker s) := by
  unfold Machine.execExcursionMarker
  exact (Keeps.ite h (h.upd (by rfl)).emit).next

theorem Keeps.beginShutdown (h : Keeps s₀ s) : Keeps s₀ s.beginShutdown := by
  unfold State.beginShutdown
  extract_lets s1
  have hs1 : Keeps s₀ s1 := h.abandonSlices.put
  exact hs1.upd rfl

theorem Keeps.execShutdown {phase : Fin 3} (h : Keeps s₀ s) : Answers s₀ (execShutdown phase s) := by
  unfold Machine.execShutdown
  split
  · exact (Keeps.ite h.beginShutdown h).next
  · exact (Keeps.ite h.abandonSlices.put h).next
  · exact (Keeps.ite (h.upd (by rfl)).put.emit h).next

theorem Keeps.refuseSlot {k reason : Nat} (h : Keeps s₀ s) : Keeps s₀ (s.refuseSlot k reason) := h.setFwSlot.put.put.attend

theorem Keeps.fwSegment {first last : Bool} {off : Nat} {data : List Byte} {flashOk : Bool} (h : Keeps s₀ s) :
    Keeps s₀ (s.fwSegment first last off data flashOk).1 := by
  unfold State.fwSegment
  extract_lets _ _ s1 _ _ s2
  have hs1 : Keeps s₀ s1 := .ite h.setFwSlot.writeBootHeader.put.put h
  have hs2 : Keeps s₀ s2 := hs1.setFwSlot.emit
  exact .iteOf Prod.fst h (Keeps.ite hs2.refuseSlot (.ite (hs2.upd (by with_reducible rfl)) hs2)).pair

theorem Keeps.execFwVerifyDone {fault : BitVec 3} (h : Keeps s₀ s) : Answers s₀ (execFwVerifyDone fault s) := by
  unfold Machine.execFwVerifyDone
  refine .ite h.next ?_
  refine .ite (h.upd (by rfl)).refuseSlot.next ?_
  exact .ite (h.upd (by rfl)).setFwSlot.writeBootHeader.put.next (h.upd (by rfl)).setFwSlot.put.next

theorem Keeps.execFwActivate {slot : BitVec 8} (h : Keeps s₀ s) : Answers s₀ (execFwActivate slot s) := by
  unfold Machine.execFwActivate
  split
  · exact (Keeps.ite h.updRally h).next
  · exact h.next

theorem Keeps.execRuntimeSwitch {core : Fin 64} (h : Keeps s₀ s) : Answers s₀ (execRuntimeSwitch core s) := by
  unfold Machine.execRuntimeSwitch
  split
  · exact (Keeps.ite h (.ite (h.updCore.updFirm h (by with_reducible rfl)).put (h.updCore.updFirm h (by with_reducible rfl)))).next
  · exact h.next

theorem Keeps.execFwFinalize (h : Keeps s₀ s) : Answers s₀ (execFwFinalize s) := by
  unfold Machine.execFwFinalize
  split
  · refine Keeps.next ?_
    refine .ite h ?_
    extract_lets _ _ s2
    have hs2 : Keeps s₀ s2 := h.setFwSlot.writeBootHeader.writeBootHeader.raiseFuses
    exact (hs2.upd (by rfl)).put.attend
  · exact h.next

theorem Keeps.execOldEpochContextTimeout {core : Fin 64} (h : Keeps s₀ s) : Answers s₀ (execOldEpochContextTimeout core s) := by
  unfold Machine.execOldEpochContextTimeout
  split
  · exact (Keeps.ite h (h.foldl fun h => h.bumpFree.fenceJobAnywhere)).next
  · exact h.next

theorem Keeps.attestBegin {nonce : List Byte} (h : Keeps s₀ s) : Keeps s₀ (s.attestBegin nonce).1 := by
  unfold State.attestBegin
  exact .iteOf Prod.fst h (.iteOf Prod.fst h (h.upd (by rfl)).pair)

theorem Keeps.execAttestReportReady {signature : List Byte} (h : Keeps s₀ s) : Answers s₀ (execAttestReportReady signature s) := by
  unfold Machine.execAttestReportReady
  split
  · exact (Keeps.ite h (h.upd (by rfl)).putBlob).next
  · exact h.next

/-! ### Debug access and counters -/

theorem Keeps.countAccess {a n : Nat} (h : Keeps s₀ s) : Keeps s₀ (s.countAccess a n) := by
  unfold State.countAccess
  split
  · exact h.countCore
  · exact h.countGlobal
  · exact h.bumpFree
  · exact h

theorem Keeps.devWrite {a : Nat} {b : List Byte} (h : Keeps s₀ s) : Keeps s₀ (s.devWrite a b) := h.writeBytes

theorem Keeps.setDbg {set1 : Bool} {d : DbgSet} (h : Keeps s₀ s) : Keeps s₀ (s.setDbg set1 d) := h.upd rfl

theorem Keeps.dbgRead {set1 : Bool} {addr : Nat} {tag : Bool} {ext : List Byte} {ecc : Bool} (h : Keeps s₀ s) :
    Keeps s₀ (s.dbgRead set1 addr tag ext ecc) := by
  unfold State.dbgRead
  dsimp only
  split
  · exact h.countAccess.setDbg
  · exact .ite h.countAccess.setDbg h.countAccess.setDbg
  · exact .ite h.countAccess.setDbg h.countAccess.setDbg
  · exact .ite h.countAccess.setDbg h.countAccess.setDbg
  · exact .ite h.countAccess.setDbg h.countAccess.setDbg

theorem Keeps.dbgWrite {set1 : Bool} {addr data : Nat} {timeout : Bool} (h : Keeps s₀ s) : Keeps s₀ (s.dbgWrite set1 addr data timeout) := by
  unfold State.dbgWrite
  dsimp only
  split
  · exact h.countAccess.setDbg
  · exact .ite h.countAccess.setDbg h.countAccess.emit.setDbg
  · exact h.countAccess.emit.setDbg
  · exact h.countAccess.setDbg
  · exact (h.countAccess.when fun h => h.hostViolation).setDbg
  · exact .ite h.countAccess.setDbg h.countAccess.devWrite.setDbg
  · exact .ite h.countAccess.setDbg h.countAccess.devWrite.setDbg

theorem Keeps.dbgCtrl {set1 : Bool} {c : Nat} (h : Keeps s₀ s) :
    Keeps s₀ (s.dbgCtrl set1 c) :=
  .ite h.setDbg (.ite h.setDbg (.ite h.setDbg (.ite h.dbgWrite h.dbgRead)))

theorem Keeps.tap {i : JtagInstr} (h : Keeps s₀ s) : Keeps s₀ (s.tap i) := h.upd rfl

theorem Keeps.execSamplePreload {pins : List Bool} (h : Keeps s₀ s) : Answers s₀ (execSamplePreload pins s) := by
  unfold Machine.execSamplePreload
  refine Keeps.next ?_
  extract_lets src
  have hsrc : Keeps s₀ src := h.tap
  exact hsrc.upd rfl

theorem Keeps.observe {d n : Nat} (h : Keeps s₀ s) : Keeps s₀ (s.observe d n) := h.upd rfl

theorem Keeps.servedBurst {d core n : Nat} (h : Keeps s₀ s) : Keeps s₀ (s.servedBurst d core n) := h.upd rfl

theorem Keeps.hostTrace {addr area pos : Nat} {b : List Byte} (h : Keeps s₀ s) :
    Keeps s₀ (s.hostTrace addr area pos b) :=
  .ite h.hostWrite h.hostWrite.hostWrite

theorem Keeps.execTraceDrainBurst {core : Fin 64} {consumer : BitVec 64} (h : Keeps s₀ s) : Answers s₀ (execTraceDrainBurst core consumer s) := by
  unfold Machine.execTraceDrainBurst
  extract_lets _ _ _ _ _ _ _ _ _ _ s1 _ s2
  have hs1 : Keeps s₀ s1 := h.servedBurst.countCore.updCore
  have hs2 : Keeps s₀ s2 := hs1.hostTrace
  exact .ite h.next (.ite h.next (.ite (hs1.foldl fun h => h.xspiWrite).put.next (hs2.upd (by rfl)).hostWrite.next))

theorem Keeps.execCountSnapshot (h : Keeps s₀ s) : Answers s₀ (execCountSnapshot s) := by
  unfold Machine.execCountSnapshot
  exact .ite h.next ((h.upd (by rfl)).foldl fun h => h.foldl fun h => h.observe.trace).next

theorem Keeps.writeSel {core : Option Nat} {i sel : Nat} (h : Keeps s₀ s) : Keeps s₀ (s.writeSel core i sel) := by
  unfold State.writeSel
  split <;> exact h.put.put

theorem Keeps.clearStatistic {index sub : Nat} (h : Keeps s₀ s) : Keeps s₀ (s.clearStatistic index sub) := .ite h.put (.ite h.put h.putBlob)

/-! ### The Object Access Protocol -/

theorem Keeps.setChan {k : Nat} {c : Chan} (h : Keeps s₀ s) : Keeps s₀ (s.setChan k c) := h.upd rfl

theorem Keeps.openChan {c : ChanRef} {x : Nat × State} (h : Keeps s₀ s) (e : s.openChan c = some x) : Keeps s₀ x.2 := by
  unfold State.openChan at e
  split at e
  · cases e; exact h
  · cases e; exact h
  · split at e
    · cases e; exact h
    · obtain ⟨_, _, rfl⟩ := Option.map_eq_some_iff.1 e
      exact h.setChan

theorem Keeps.sendReply {t : ReplyTo} {frame : List Byte} (h : Keeps s₀ s) :
    Keeps s₀ (s.sendReply t frame) :=
  .ite h (.ite (Keeps.ite h.hostWrite h).replyEntry (.ite h.emit h.sendMgl))

theorem Keeps.stageLoads {id : Nat} {ms : List Nat} (h : Keeps s₀ s) : Keeps s₀ (s.stageLoads id ms) := h.foldl fun h => h.requestLoad.updRally

theorem Keeps.stageIn {r : Option Rally} {chan scope : Nat} {w : Staged} (h : Keeps s₀ s) : Keeps s₀ (s.stageIn r chan scope w).1 := by
  unfold State.stageIn
  dsimp only
  refine .iteOf Prod.fst h ?_
  split
  · exact h
  · exact .iteOf Prod.fst h (.iteOf Prod.fst h h.updRally.stageLoads.pair)

theorem Keeps.stageRelayed {rally chan scope : Nat} {w : Staged} (h : Keeps s₀ s) : Keeps s₀ (s.stageRelayed rally chan scope w).1 := by
  unfold State.stageRelayed
  extract_lets _ _ q
  have hq : Keeps s₀ q.1 := (h.upd (by rfl)).stageIn
  split
  · exact h.stageIn
  · exact .iteOf Prod.fst h (.iteOf Prod.fst hq.settle.pair h)

theorem Keeps.enablePort {p v : Nat} (h : Keeps s₀ s) :
    Keeps s₀ (s.enablePort p v) :=
  .ite h.put (.ite h.put.put.setMport.settle h.put.put.redeal.settle)

theorem Keeps.orRange {x : Option State} (h : Keeps s₀ s) (hx : ∀ {t}, x = some t → Keeps s₀ t) : Keeps s₀ (orRange s x).1 := by
  unfold Machine.orRange
  split
  · exact hx rfl
  · exact h

theorem Keeps.writeTb {n b v : Nat} (h : Keeps s₀ s) : Keeps s₀ (s.writeTb n b v).1 := by
  unfold State.writeTb
  refine .iteOf Prod.fst (h.orRange h.writeSource) ?_
  exact .iteOf Prod.fst h (.iteOf Prod.fst (h.orRange h.realign) h.put.pair)

theorem Keeps.programBoot {l : Tbl (Option (List Byte))} (h : Keeps s₀ s) : Keeps s₀ (s.programBoot l) := by
  unfold State.programBoot
  extract_lets
  exact (h.upd (by rfl)).emit

theorem Keeps.writeNow {f scope : Nat} {row : ObjRow} {i b : Nat} {v : List Byte} (h : Keeps s₀ s) : Keeps s₀ (s.writeNow f scope row i b v).1 := by
  unfold State.writeNow
  extract_lets _ plain
  have hplain : Keeps s₀ plain := .ite h.put h.putBlob
  refine .iteOf Prod.fst h.clearStatistic.pair ?_
  refine .iteOf Prod.fst h.programBoot.pair ?_
  refine .iteOf Prod.fst h.putB.settle.pair ?_
  refine .iteOf Prod.fst h.putB.pair ?_
  refine .iteOf Prod.fst h.writeTb ?_
  refine .iteOf Prod.fst h.forcePin.pair ?_
  refine .iteOf Prod.fst hplain.driveSynce.pair ?_
  refine .iteOf Prod.fst h.enablePort.pair ?_
  refine .iteOf Prod.fst h.portRetrain.pair ?_
  refine .iteOf Prod.fst (.iteOf Prod.fst h.beginShutdown.pair h) ?_
  refine .iteOf Prod.fst h.libDelete ?_
  refine .iteOf Prod.fst (Keeps.ite h.discardCandidate h).pair ?_
  refine .iteOf Prod.fst h ?_
  refine .iteOf Prod.fst (h.orRange h.armWhistle) ?_
  refine .iteOf Prod.fst (h.orRange h.cancelWhistle) ?_
  refine .iteOf Prod.fst (h.orRange h.resumeWhistle) ?_
  refine .iteOf Prod.fst (hplain.upd (by rfl)).pair ?_
  exact .iteOf Prod.fst h.writeSel.pair (.iteOf Prod.fst h.attestBegin (.iteOf Prod.fst h.writeSel.pair hplain))

theorem Keeps.relayOut {chan c : Nat} {frame : List Byte} (h : Keeps s₀ s) :
    Keeps s₀ (s.relayOut chan c frame).state :=
  .iteOf Done.state h h.sendMgl.inDone

theorem Keeps.writeValue {key : Nat} {c : Chan} {hd : OapHead} {rally : Nat} {v : List Byte} (h : Keeps s₀ s) :
    Keeps s₀ (s.writeValue key c hd rally v).state := by
  unfold State.writeValue
  split
  · exact h
  · extract_lets _ _ _ _ q
    have hq : Keeps s₀ q.1 := .iteOf Prod.fst h.stageRelayed h.stageIn
    iterate 3 refine .iteOf Done.state h ?_
    refine .iteOf Done.state hq ?_
    refine .iteOf Done.state (.iteOf Done.state h h) ?_
    refine .iteOf Done.state h.relayOut ?_
    exact .iteOf Done.state (.iteOf Done.state h h) (.iteOf Done.state h.fwSegment.inDone h.writeNow.inDone)

theorem Keeps.observeRead {i b : Nat} (h : Keeps s₀ s) : Keeps s₀ (s.observeRead i b) := .ite h.observe h

theorem Keeps.readObject {c : Chan} {hd : OapHead} (h : Keeps s₀ s) : Keeps s₀ (s.readObject c hd).state := by
  unfold State.readObject
  split
  · exact h
  · exact .iteOf Done.state h (.iteOf Done.state h h.observeRead.inDone)

theorem Keeps.readBlockObject {c : Chan} {hd : OapHead} {p : List Byte} {limit : Nat} (h : Keeps s₀ s) :
    Keeps s₀ (s.readBlockObject c hd p limit).state := by
  unfold State.readBlockObject
  split
  · exact h
  · exact .iteOf Done.state h (.iteOf Done.state h (.iteOf Done.state h h))

theorem Keeps.fwBlock {key : Nat} {c : Chan} {hd : OapHead} {off : Nat} {data : List Byte} (h : Keeps s₀ s) :
    Keeps s₀ (s.fwBlock key c hd off data).state :=
  .iteOf Done.state h h.fwSegment.setChan.inDone

theorem Keeps.writeBlockObject {key : Nat} {c : Chan} {hd : OapHead} {rally : Nat} {p : List Byte} (h : Keeps s₀ s) :
    Keeps s₀ (s.writeBlockObject key c hd rally p).state := by
  unfold State.writeBlockObject
  split
  · exact h
  · dsimp only
    iterate 3 refine .iteOf Done.state h ?_
    refine .iteOf Done.state h.fwBlock ?_
    split
    · exact h
    · refine .iteOf Done.state h.setChan.inDone ?_
      exact .iteOf Done.state h.setChan.inDone (.iteOf Done.state h h.setChan.writeValue)

theorem Keeps.beginRally {key : Nat} {hd : OapHead} (h : Keeps s₀ s) : Keeps s₀ (s.beginRally key hd).state := by
  unfold State.beginRally
  refine .iteOf Done.state h ?_
  exact .iteOf Done.state h (.iteOf Done.state h (.iteOf Done.state h (h.upd (by rfl)).trimHistory.settle.inDone))

theorem Keeps.touch {r : Rally} (h : Keeps s₀ s) : Keeps s₀ (s.touch r) := h.updRally

theorem Keeps.commitRequest {key : Nat} {hd : OapHead} {p : List Byte} (h : Keeps s₀ s) : Keeps s₀ (s.commitRequest key hd p).state := by
  unfold State.commitRequest
  extract_lets
  refine .iteOf Done.state h (.iteOf Done.state h ?_)
  split
  · exact h
  · refine .iteOf Done.state h (.iteOf Done.state h (.iteOf Done.state h ?_))
    extract_lets _ s2
    have hs2 : Keeps s₀ s2 := .ite h.touch.replayLog h.touch
    generalize e : s2.tryCommit _ _ _ = x
    have hx : Keeps s₀ x.1 := e ▸ hs2.tryCommit
    obtain ⟨t, _ | _⟩ := x
    · exact hx
    · exact hx

theorem Keeps.retractRally {r : Rally} (h : Keeps s₀ s) : Keeps s₀ (s.retractRally r) := h.updRally.toChips

theorem Keeps.abortRequest {key : Nat} {hd : OapHead} {p : List Byte} (h : Keeps s₀ s) : Keeps s₀ (s.abortRequest key hd p).state := by
  unfold State.abortRequest
  refine .iteOf Done.state h ?_
  split
  · exact h
  · split
    · exact .iteOf Done.state h h.abortOpen.inDone
    · exact .iteOf Done.state h.retractRally.inDone (.iteOf Done.state h h.endRally.inDone)
    · exact h
    · exact h
    · exact h
    · exact h
    · exact h

theorem Keeps.statusRequest {hd : OapHead} {p : List Byte} (h : Keeps s₀ s) : Keeps s₀ (s.statusRequest hd p).state := by
  unfold State.statusRequest
  dsimp only
  refine .iteOf Done.state h ?_
  refine .iteOf Done.state h ?_
  split
  · exact h.touch.inDone
  · exact h

theorem Keeps.ackRequest {f : Nat} {p : List Byte} (h : Keeps s₀ s) : Keeps s₀ (s.ackRequest f p).state := by
  unfold State.ackRequest
  extract_lets _ _ s1
  have hs1 : Keeps s₀ s1 := h.putB
  exact .iteOf Done.state h (.iteOf Done.state h (.iteOf Done.state h (hs1.upd (by rfl)).settle.inDone))

theorem Keeps.heartbeatRequest {f : Nat} {hd : OapHead} (h : Keeps s₀ s) :
    Keeps s₀ (s.heartbeatRequest f hd).state :=
  .iteOf Done.state h (.iteOf Done.state h h)

theorem Keeps.subscribeRequest {key : Nat} {c : Chan} {hd : OapHead} {p : List Byte} (h : Keeps s₀ s) :
    Keeps s₀ (s.subscribeRequest key c hd p).state :=
  .iteOf Done.state h (.iteOf Done.state h h.setChan.inDone)

theorem Keeps.perform {key : Nat} {c : Chan} {hd : OapHead} {rally limit : Nat} {p : List Byte} (h : Keeps s₀ s) :
    Keeps s₀ (s.perform key c hd rally limit p).state := by
  unfold State.perform
  refine .iteOf Done.state h.heartbeatRequest ?_
  refine .iteOf Done.state h.readObject ?_
  refine .iteOf Done.state h.writeValue ?_
  refine .iteOf Done.state h.readBlockObject ?_
  refine .iteOf Done.state h.writeBlockObject ?_
  refine .iteOf Done.state h.beginRally ?_
  refine .iteOf Done.state h.commitRequest ?_
  refine .iteOf Done.state h.abortRequest ?_
  exact .iteOf Done.state h.statusRequest (.iteOf Done.state h.ackRequest h.subscribeRequest)

theorem Keeps.answer {key : Nat} {c : Chan} {hd : OapHead} {rally limit : Nat} {p : List Byte} {replayed : Bool} (h : Keeps s₀ s) :
    Keeps s₀ (s.answer key c hd rally limit p replayed).state :=
  .iteOf Done.state h (.iteOf Done.state h h.perform)

theorem Keeps.countResult {f code : Nat} (h : Keeps s₀ s) : Keeps s₀ (s.countResult f code) := .ite h.bumpB.violation (.ite h.bumpB.violation h)

theorem Keeps.addWait {key : Nat} {q : OapReq} {k : WaitKind} (h : Keeps s₀ s) : Keeps s₀ (s.addWait key q k) := h.upd rfl

theorem Keeps.request {key : Nat} {q : OapReq} {replayed : Bool} (h : Keeps s₀ s) : Keeps s₀ (s.request key q replayed) := by
  unfold State.request
  extract_lets _ _ _ _ _ _ _ _ s0 d _ _ s2
  have hs0 : Keeps s₀ s0 := .ite (.ite h.setChan.replayLog h.setChan.replayLog) h.setChan
  have hd : Keeps s₀ d.state := .iteOf Done.state hs0 (.iteOf Done.state hs0.answer hs0)
  have hs2 : Keeps s₀ s2 := hd.countResult.when fun h => h.setChan
  refine .ite h.setChan.sendReply ?_
  split
  · exact hs2.addWait
  · exact (Keeps.ite hs2.setChan hs2).sendReply

theorem Keeps.frameIn {q : OapReq} {replayed : Bool} (h : Keeps s₀ s) : Keeps s₀ (s.frameIn q replayed) := by
  unfold State.frameIn
  extract_lets _ _ _ reply
  have hreply {s : State} {code : Nat} (h : Keeps s₀ s) : Keeps s₀ (reply s code) := by
    dsimp only [reply]
    split
    · exact h.emit
    · exact h.sendReply
  refine .ite (hreply h.countResult) ?_
  split
  · exact hreply h
  · rename_i e
    have hs1 := h.openChan e
    exact .ite hs1.request (.ite (hs1.upd rfl) (hreply hs1))

theorem Keeps.serveQueued {key n : Nat} (h : Keeps s₀ s) : Keeps s₀ (State.serveQueued key n s) := by
  induction n generalizing s with
  | zero => exact h
  | succ n ih =>
    unfold State.serveQueued
    refine .ite h ?_
    split
    · exact ih (h.upd (by rfl)).request
    · exact h

theorem Keeps.oapRow {op : Nat} {q : OapReq} (h : Keeps s₀ s) : Keeps s₀ (s.oapRow op q) := .ite h.frameIn h

theorem Keeps.execHeartbeatDue {chan : ChanRef} (h : Keeps s₀ s) : Answers s₀ (execHeartbeatDue chan s) := by
  unfold Machine.execHeartbeatDue
  split
  · exact (Keeps.ite h (.ite h.setChan.bumpB.latch.settle h.setChan.sendReply)).next
  · exact h.next

theorem Keeps.closeChan {key : Nat} (h : Keeps s₀ s) : Keeps s₀ (s.closeChan key) := by
  unfold State.closeChan
  extract_lets
  exact ((h.upd (by rfl)).foldl fun h => h.abortOpen).settle

theorem Keeps.execMgmtIdleTimeout {chan : ChanRef} (h : Keeps s₀ s) : Answers s₀ (execMgmtIdleTimeout chan s) := by
  unfold Machine.execMgmtIdleTimeout
  split
  · exact (Keeps.ite h.closeChan h).next
  · exact h.next

theorem Keeps.endWait {w : OapWait} {code : Nat} {payload : List Byte} (h : Keeps s₀ s) : Keeps s₀ (s.endWait w code payload) := by
  unfold State.endWait
  extract_lets _ _ _ _ s2
  have hs2 : Keeps s₀ s2 := .ite (h.upd (by rfl)).countResult (h.upd rfl)
  exact .ite (h.upd rfl) hs2.setChan.sendReply.serveQueued

theorem Keeps.execBootWriteDone {chan : ChanRef} (h : Keeps s₀ s) : Answers s₀ (execBootWriteDone chan s) := by
  unfold Machine.execBootWriteDone
  split
  · refine Keeps.next ?_
    split
    · exact h.programBoot.endWait
    · exact h
  · exact h.next

theorem Keeps.execLibPut {pkg : Package} (h : Keeps s₀ s) : Answers s₀ (execLibPut pkg s) := by
  unfold Machine.execLibPut
  dsimp only
  split
  · exact (Keeps.ite h.libEnter h).endWait.next
  · exact (Keeps.ite h.libEnter h).next

theorem Keeps.joinRally {k : WaitKind} {reply : List Byte} (h : Keeps s₀ s) : Keeps s₀ (s.joinRally k reply) := by
  unfold State.joinRally
  split
  · exact .ite h.updRally h
  · exact h

theorem Keeps.execRelay {req : OapReq} {reply : Option (List Byte)} (h : Keeps s₀ s) : Answers s₀ (execRelay req reply s) := by
  unfold Machine.execRelay
  split
  · exact (Keeps.ite h.oapRow h).next
  · split
    · exact h.joinRally.endWait.next
    · exact h.next

theorem Keeps.execRelayTimeout {chan : ChanRef} (h : Keeps s₀ s) : Answers s₀ (execRelayTimeout chan s) := by
  unfold Machine.execRelayTimeout
  split
  · exact (Keeps.ite h.endWait h).next
  · split
    · exact (Keeps.ite (h.getD h.cancelWhistle).endWait h).next
    · exact h.next

/-! ### Delivered packets -/

theorem Keeps.whistleArmIn {src air n : Nat} (h : Keeps s₀ s) : Keeps s₀ (s.whistleArmIn src air n) := (Keeps.ite h.whistleSet h).sendMgl

theorem Keeps.whistleAnswerIn {src : Nat} {yes : Bool} (h : Keeps s₀ s) : Keeps s₀ (s.whistleAnswerIn src yes) := by
  unfold State.whistleAnswerIn
  refine .ite h ?_
  extract_lets _ _ _ s2
  have hs2 : Keeps s₀ s2 := .ite (h.upd rfl) (h.upd (by rfl)).disarmWhistle.toMembers
  refine .ite hs2 ?_
  split
  · exact hs2.endWait
  · exact hs2

theorem Keeps.whistleIn {src : Nat} {b : List Byte} (h : Keeps s₀ s) : Keeps s₀ (s.whistleIn src b) := by
  unfold State.whistleIn
  dsimp only
  split
  · exact h.whistleArmIn
  · exact .ite (h.upd rfl) h
  · exact h.whistleAnswerIn
  · exact h.disarmWhistle
  · exact h

theorem Keeps.deliver {src kind : Nat} {b : List Byte} (h : Keeps s₀ s) : Keeps s₀ (s.deliver src kind b) := by
  unfold State.deliver
  refine .ite h.emit ?_
  refine .ite (.ite h.emit h.emit.forwardedOrder) ?_
  refine .ite h.emit.valsIn ?_
  refine .ite h.emit.unfedIn ?_
  exact .ite h.emit.cplaneIn (.ite (.ite h.emit h.emit.whistleIn) (.ite h.emit.fenceObject h.emit))

theorem Keeps.deliverAll {k n : Nat} (h : Keeps s₀ s) : Keeps s₀ (s.deliverAll k n) := by
  induction n generalizing s with
  | zero => exact h
  | succ n ih =>
    unfold State.deliverAll
    extract_lets
    split
    · exact ih (h.upd (by rfl)).deliver
    · exact h

theorem Keeps.packetIn {src dst vc kind : Nat} {packet : List Byte} (h : Keeps s₀ s) : Keeps s₀ (s.packetIn src dst vc kind packet) := by
  unfold State.packetIn
  dsimp only
  refine .ite (.ite h (h.upd (by rfl)).deliverAll) ?_
  refine .ite h.deliver ?_
  split
  · exact h.deal
  · exact h

theorem Keeps.acceptFlit {p : Nat} {f : List Byte} (h : Keeps s₀ s) : Keeps s₀ (s.acceptFlit p f) := by
  unfold State.acceptFlit
  extract_lets _ _ _ s1
  have hs1 : Keeps s₀ s1 := h.setMport
  exact .ite hs1 (.ite (hs1.upd (by rfl)).packetIn (hs1.upd rfl))

theorem Keeps.execFlitRx {port : Fin 8} {flit : List Byte} (h : Keeps s₀ s) : Answers s₀ (execFlitRx port flit s) := by
  unfold Machine.execFlitRx
  extract_lets _ _ s1 s2
  have hs1 : Keeps s₀ s1 := .ite h.flitNews.bump.violation h.flitNews
  have hs2 : Keeps s₀ s2 := .ite (.ite hs1.acceptFlit.sendControl hs1.nak) (.ite hs1.resend hs1)
  exact (Keeps.ite h (.ite h.nak hs2.pumpAll)).next

/-! ### Host registers and windows -/

theorem Keeps.doorbell {f q : Nat} {v : BitVec 32} (h : Keeps s₀ s) : Keeps s₀ (s.doorbell f q v) := .ite h.hostViolation h.setRing

theorem Keeps.enableRing {f q : Nat} {irq : Bool} (h : Keeps s₀ s) :
    Keeps s₀ (s.enableRing f q irq) := .ite h.hostViolation (.ite h.setRing h.setRing)

theorem Keeps.disableRing {f q : Nat} {irq : Bool} (h : Keeps s₀ s) : Keeps s₀ (s.disableRing f q irq) := h.setRing.foldl fun h => h.hostViolation

theorem Keeps.writeBar0 {f off v : Nat} (h : Keeps s₀ s) : Keeps s₀ (s.writeBar0 f off v) := by
  unfold State.writeBar0
  refine .ite (.ite h.hostViolation h.setFunc) ?_
  refine .ite h ?_
  refine .ite (.ite h.hostViolation h.setRing) ?_
  refine .ite (.ite h.hostViolation h.setRing) ?_
  exact .ite (.ite h.hostViolation (.ite h.enableRing h.disableRing)) (.ite h.doorbell h)

theorem Keeps.writeMsix {f off v : Nat} (h : Keeps s₀ s) :
    Keeps s₀ (s.writeMsix f off v) :=
  .ite h (.ite h.setFunc (.ite h.setFunc (.ite h.setFunc (.ite h.setFunc h))))

theorem Keeps.rqError {f index code : Nat} (h : Keeps s₀ s) : Keeps s₀ (s.rqError f index code) := h.bump.hostViolation.replyEntry

theorem Keeps.execRqEntryRead {func : Fin 16} {entry frame : List Byte} {readable : Bool} (h : Keeps s₀ s) :
    Answers s₀ (execRqEntryRead func entry frame readable s) := by
  unfold Machine.execRqEntryRead
  refine .ite h.next ?_
  exact (Keeps.ite h.advanceDev.rqError (.ite h.advanceDev.rqError h.advanceDev.frameIn)).next

theorem Keeps.csrWrite {a : Nat} {b : List Byte} (h : Keeps s₀ s) : Keeps s₀ (s.csrWrite a b) := .ite h.setDbg (.ite h.setDbg (.ite h.dbgCtrl h))

theorem Keeps.bar2Write {f a : Nat} {b : List Byte} (h : Keeps s₀ s) : Keeps s₀ (s.bar2Write f a b) := by
  unfold State.bar2Write
  split
  · exact h.tallyWrite fun h => h.hostViolation
  · exact h.csrWrite
  · exact h.devWrite

theorem Keeps.execBar2Access {func : Fin 16} {offset : BitVec 28} {size : BitVec 8} {data : Option (List Byte)} {ecc : Bool} (h : Keeps s₀ s) :
    Answers s₀ (execBar2Access func offset size data ecc s) := by
  unfold Machine.execBar2Access
  dsimp only
  split
  · split
    · exact (Keeps.ite (h.countAccess.emit.when fun h => h.bump) h.hostViolation.emit).next
    · exact h.hostViolation.emit.next
  · split
    · exact (Keeps.ite h.countAccess.bar2Write h.hostViolation).next
    · exact h.hostViolation.next

theorem Keeps.execManagementFrame {frame : List Byte} (h : Keeps s₀ s) : Answers s₀ (execManagementFrame frame s) := by
  unfold Machine.execManagementFrame
  dsimp only
  refine Keeps.next ?_
  refine .ite h ?_
  refine .ite ?_ ?_
  · split
    · exact h.emit
    · exact h
  · refine .ite ?_ h
    split
    · exact h.upd rfl
    · split
      · exact h.emit
      · exact h

theorem Keeps.injectRequest {b : List Byte} (h : Keeps s₀ s) : Keeps s₀ (s.injectRequest b) := by
  unfold State.injectRequest
  dsimp only
  split
  · exact h.answer.countResult.programBoot
  · exact h.answer.countResult

theorem Keeps.injectPacket {b : List Byte} (h : Keeps s₀ s) : Keeps s₀ (s.injectPacket b) := by
  unfold State.injectPacket
  dsimp only
  split
  · exact h.prepareIn
  · exact h.voteIn
  · exact h.decisionIn
  · exact h.retractIn
  · exact h.queryIn
  · exact h.injectRequest
  · exact h.heartbeatIn
  · exact h

theorem Keeps.injectArrival {b : List Byte} (h : Keeps s₀ s) :
    Keeps s₀ (s.injectArrival b) :=
  h.openSlot.foldl fun h => .ite h.placeUnit h.placeUnit.bumpFree

theorem Keeps.injectHarq {b : List Byte} (h : Keeps s₀ s) : Keeps s₀ (s.injectHarq b) := by
  unfold State.injectHarq
  split
  · extract_lets _ _ _ _ s1
    have hs1 : Keeps s₀ s1 := h.foldl fun h => h.softPut
    exact hs1.putHarq
  · exact h

theorem Keeps.injectFence {b : List Byte} (h : Keeps s₀ s) : Keeps s₀ (s.injectFence b) := .ite h.fenceJobAnywhere h.fenceObject

theorem Keeps.injectEntry {e : ReplayEntry} (h : Keeps s₀ s) : Keeps s₀ (s.injectEntry e) := by
  unfold State.injectEntry
  dsimp only
  split
  · exact h.injectRequest
  · exact h.acceptOrder
  · exact .ite h.setTb h
  · exact h.injectArrival
  · exact h.injectPacket
  · exact h.injectFence
  · exact h.writeBytes.putHandle
  · exact h.injectHarq
  · exact h.tallyAdd
  · exact .ite (h.put.upd (by with_reducible rfl)) (h.upd (by with_reducible rfl))
  · exact h

theorem Keeps.endInject (h : Keeps s₀ s) : Keeps s₀ s.endInject := by
  unfold State.endInject
  exact .ite (h.put.upd (by with_reducible rfl)) h

theorem Keeps.execReplayEntryInject (h : Keeps s₀ s) : Answers s₀ (execReplayEntryInject s) := by
  unfold Machine.execReplayEntryInject
  refine .ite h.next ?_
  split
  · refine Keeps.next ?_
    refine .ite ?_ h
    extract_lets s1
    have hs1 : Keeps s₀ s1 := h.injectEntry.put
    exact (hs1.upd (by rfl)).endInject
  · exact h.endInject.next

/-! ### Every command -/

/-- The resets that cut the power, and with it the THERMTRIP_N latch (R425, R431). -/
def cutsPower : Instr → Bool
  | .poreset | .brownout _ => true
  | _ => false

/-- Every command but a power-on reset and a brownout. -/
theorem Keeps.exec {i : Instr} (hi : cutsPower i = false) (h : Keeps s₀ s) : Answers s₀ (exec i s) := by
  unfold Machine.exec
  cases i with
  | nop => exact (Keeps.ite h.stageHeader h.stage).next
  | mark => exact h.stageHeader.next
  | add | sub | addi | and | or | xor | li | shl | shr | sra | mul | mulh | min | max | cmp | cmpi | sel | br | bri | call | csrr | csrw
    | csrc | endJob | resume | ldb | ldbu | ldh | ldhu | ldw | lda | ldp | ldv | stb | sth | stw | sta | stp | stv | aadd | aaddi | amov
    | afromg | atog | sstart | spause | sstat | twait | tadd | tacq | trel | tread | hdeq | henq | vadd | vsub | vmul | vfma | vmin | vmax
    | vabs | vand | vor | vxor | vshl | vmulrs | vdmacs | vdnarrow | vcmp | vsel | vbcast | vcvt | vperm | vshuf | vpack | vunpack
    | vcompress | vexpand | vred | vtset | vmrd | mtile | mwld | mwpass | mpass | mrq | msplit | moutl | mbwd | fexp | flog | frcp | frsqrt
    | fsigm | ftanh | fsoftp | fsincos | fatan2 | fsmooth | fmp | loop | mvfl | mvtl | vsetvl | sfbank =>
    exact h.stage.next
  | resultLanding => exact (Keeps.ite h h.coreCycle).next
  | holdRelease => exact (Keeps.ite h.issueBundle h).next
  | stopRequest => exact h.requestStop.next
  | tileStopTimeout => exact h.execTileStopTimeout
  | stopTile => exact h.execStopTile
  | stopBundle => exact h.execStopBundle
  | blocked => exact h.execBlocked
  | jobEnd => exact h.execJobEnd
  | coreFence => exact h.fenceCore.next
  | passBegin => exact h.execPassBegin
  | bandSwap => exact h.execBandSwap
  | tileFillDone => exact h.execTileFillDone
  | outputRowReady => exact h.execOutputRowReady
  | tileBoundary => exact h.execTileBoundary
  | storeDrain => exact h.execStoreDrain
  | splitTakesEffect => exact h.execSplitTakesEffect
  | groupFault => exact h.groupFault.next
  | groupScrubEnd => exact h.execGroupScrubEnd
  | streamNop => exact (h.onEngine fun h => h.endInstr).next
  | bind => exact (h.onEngine fun h => .ite h.engineFault (.ite h.engineFault (.ite h.engineFault h.endInstr))).next
  | sym => exact (h.onEngine fun h => .ite h.engineFault (.ite h.engineFault h.endInstr)).next
  | move => exact (h.onEngine fun h => .ite h.engineFault (.ite h.engineFault (Keeps.ite h.bump h).runMove)).next
  | streamLoop => exact (h.onEngine fun h => .ite h.engineFault (.ite h.setEngine h.setEngine)).next
  | waitt => exact (h.onEngine fun h => .ite h.engineFault (.ite h.endInstr h.setEngine)).next
  | streamTadd => exact (h.onEngine fun h => .ite h.engineFault h.jobTallyAdd.endInstr).next
  | hget => exact h.execHget
  | hput => exact h.execHput
  | tagset => exact (h.onEngine fun h => (Keeps.ite h h.updCore).endInstr).next
  | amode => exact h.execAmode
  | stats => exact (h.onEngine fun h => (Keeps.ite h.put.putBlob h).endInstr).next
  | streamEnd => exact (h.onEngine fun h => .ite h.engineFault h.setEngine).next
  | lineAck => exact h.execLineAck
  | handleGrant => exact h.execHandleGrant
  | watchdogExpiry => exact h.execWatchdogExpiry
  | auditEdge => exact h.execAuditEdge
  | remedy => exact h.execRemedy
  | chainTileArrival => exact h.execChainTileArrival
  | soEntryRead => exact h.execSoEntryRead
  | jobRelease => exact h.execJobRelease
  | jobCompletion => exact h.execJobCompletion
  | contextSlotFree => exact (Keeps.ite h h.placeHead).startNext.next
  | sliceEnd => exact (Keeps.ite h.requestStop h).next
  | swapOut => exact h.execSwapOut
  | swapIn => exact h.execSwapIn
  | tacqGrant => exact h.execTacqGrant
  | holdBoundExpiry => exact (Keeps.ite h.bump.fenceJobAnywhere.abandonTallies h).next
  | rxWindowOpen => exact (Keeps.ite h.openSlot h).next
  | rxWindowClose => exact .ite h.next (h.foldl fun h => .ite h.releaseJob h).next
  | uplaneRx | ecpriDelayRequest => exact h.fhFrame.next
  | reportCutoff => exact h.execReportCutoff
  | dlReportWrite => exact h.execDlReportWrite
  | txWindowOpen => exact h.execTxWindowOpen
  | txWindowClose => exact h.execTxWindowClose
  | cplaneTx => exact h.execCplaneTx
  | codingDispatch => exact h.execCodingDispatch
  | ldpcDecodeDone => exact h.execLdpcDecodeDone
  | ldpcEncodeDone => exact h.execLdpcEncodeDone
  | polarDecodeDone => exact h.execPolarDecodeDone
  | polarEncodeDone => exact h.execPolarEncodeDone
  | engineFault => exact h.execEngineFault
  | engineScrubEnd => exact h.execEngineScrubEnd
  | harqTimeout => exact h.execHarqTimeout
  | adaptEpochEnd => exact h.execAdaptEpochEnd
  | adaptDiscard => exact (Keeps.ite h.discardCandidate h).next
  | symbolBoundary => exact (Keeps.ite h h.setTb.setTally).next
  | ptpMessageRx => exact h.execPtpMessageRx
  | servoUpdate => exact h.execServoUpdate
  | sourceLoss => exact (Keeps.ite (Keeps.ite h.setTb h).tbLose.followStates h).next
  | sourceQualified => exact (Keeps.ite h.tbQualify.followStates h).next
  | phaseSrcWrite => exact (h.getD h.writeSource).next
  | realign => exact (h.getD h.realign).next
  | stepApply => exact h.execStepApply
  | ppsInEdge => exact h.execPpsInEdge
  | todMessage => exact h.execTodMessage
  | refInLoss => exact (Keeps.ite (h.put.foldl fun h => h.tbLose).followStates h).next
  | synceSquelch => exact h.execSynceSquelch
  | esmcRx => exact (Keeps.ite h.emit h).next
  | timedPinEdge => exact h.execTimedPinEdge
  | ppsOutEdge => exact h.execPpsOutEdge
  | captureEdge => exact (Keeps.ite h (.ite h.setPin h.setPin.bump.put)).next
  | forceInactive | release => exact h.forcePin.next
  | heartbeat | read | write | readBlock | writeBlock | rallyBegin | rallyCommit | rallyAbort | rallyStatus | ackAttention | subscribe =>
    exact h.oapRow.next
  | heartbeatDue => exact h.execHeartbeatDue
  | rallyIdleTimeout => exact h.execRallyIdleTimeout
  | mgmtIdleTimeout => exact h.execMgmtIdleTimeout
  | freezePoint => exact h.freezeDue.next
  | serveTime => exact (Keeps.ite h h.serveDue).next
  | flitRx => exact h.execFlitRx
  | nakRx => exact (Keeps.ite h.resend h).next
  | laneLockLoss => exact (Keeps.ite h.retrain h).next
  | retrainDone => exact (Keeps.ite h h.setMport.put.pumpAll.settle).next
  | portRetrain => exact h.portRetrain.next
  | timeFlit | cutHeld | replayRingFull => exact (Keeps.ite h.put h).next
  | memberHeartbeat => exact h.execMemberHeartbeat
  | lostTimeout => exact (Keeps.ite h (.ite h.put.fenceObject.sendMgl.removeLost h.put)).next
  | prepare => exact (h.vc0 fun h => h.prepareIn).next
  | voteRx => exact (h.vc0 fun h => h.voteIn).next
  | retract => exact h.execRetract
  | voteDeadline => exact h.execVoteDeadline
  | decisionRx => exact (h.vc0 fun h => h.decisionIn).next
  | decisionRepeat => exact h.execDecisionRepeat
  | decisionQuery => exact h.execDecisionQuery
  | queryCutoff => exact h.execQueryCutoff
  | reductionUnitRx => exact h.execReductionUnitRx
  | reductionAbandon => exact h.execReductionAbandon
  | remoteAccessTimeout => exact h.execRemoteAccessTimeout
  | relay => exact h.execRelay
  | relayTimeout => exact h.execRelayTimeout
  | doorbell => exact h.doorbell.next
  | ringEnable => exact h.enableRing.next
  | ringDisable => exact h.disableRing.next
  | registerWrite => exact (Keeps.ite h.writeMsix h.writeBar0).next
  | rqEntryRead => exact h.execRqEntryRead
  | msixMessage => exact (Keeps.ite h.setFunc.bump.emit h).next
  | rsSpaceFree => exact h.drainHeld.next
  | bar2Access => exact h.execBar2Access
  | tallyAddWrite => exact (Keeps.ite h.bar2Write h.hostViolation).next
  | benchLoadRequest => exact h.execBenchLoadRequest
  | benchPageLoaded => exact h.execBenchPageLoaded
  | benchLoadEnd => exact h.execBenchLoadEnd
  | libPut => exact h.execLibPut
  | libDelete => exact h.libDelete.next
  | xspiChannelFence => exact h.execXspiChannelFence
  | fenceDisposal => exact h.execFenceDisposal
  | fenceLift => exact h.execFenceLift
  | whistle => exact (h.getD h.armWhistle).next
  | whistleCancel => exact (h.getD h.cancelWhistle).next
  | whistleResume => exact (h.getD h.resumeWhistle).next
  | whistleEdge => exact h.execWhistleEdge
  | resumeBoundary => exact h.execResumeBoundary
  | replayEntryInject => exact h.execReplayEntryInject
  | pmbusRound => exact h.execPmbusRound
  | estimateTick => exact h.execEstimateTick
  | telemetryLost => exact h.execTelemetryLost
  | decisionEdge => exact h.execDecisionEdge
  | pmAlert => exact h.execPmAlert
  | avsbusSettled => exact h.execAvsbusSettled
  | pllRelockDone => exact h.execPllRelockDone
  | frequencySwitch => exact h.execFrequencySwitch
  | gustFire => exact h.execGustFire
  | gustClear => exact h.execGustClear
  | sensorSample => exact h.execSensorSample
  | thermalTrip => exact h.execThermalTrip
  | chipReset => exact h.restart.next
  | poreset | brownout => cases hi
  | pcieFundamentalReset => exact h.resetPcie.next
  | functionLevelReset => exact h.resetFunc.bump.next
  | domainReset => exact h.execDomainReset
  | fhPortTraining => exact h.execFhPortTraining
  | bootWriteDone => exact h.execBootWriteDone
  | bootClear => exact (Keeps.ite h.programBoot h).next
  | romBoot => exact h.execRomBoot
  | breezeService => exact h.execBreezeService
  | fullService => exact h.execFullService
  | startupTestSlice => exact (Keeps.ite h (.ite h.sliceEnded (h.sliceEnded.setTestUnit.when fun h => h.put.settle))).next
  | inServiceSlice => exact h.execInServiceSlice
  | sliceAbandon => exact (Keeps.ite h.setTestUnit.freeUnit.bump.settle h).next
  | excursionMarker => exact h.execExcursionMarker
  | shutdown => exact h.execShutdown
  | fwWrite => exact h.fwSegment.next
  | fwActivate => exact h.execFwActivate
  | runtimeSwitch => exact h.execRuntimeSwitch
  | fwFinalize => exact h.execFwFinalize
  | attestNonce => exact h.attestBegin.next
  | dbgRead => exact (Keeps.ite h.dbgRead h).next
  | dbgWrite => exact (Keeps.ite h.dbgWrite h).next
  | bypass | extest | idcode | clamp | extestPulse | extestTrain => exact h.tap.emit.next
  | samplePreload => exact h.execSamplePreload
  | dbgacc => exact .ite h.tap.emit.next (Keeps.ite h.tap.emit h.tap.emit.setDbg.dbgCtrl).next
  | traceDrainBurst => exact h.execTraceDrainBurst
  | countSnapshot => exact h.execCountSnapshot
  | countSelWrite => exact (Keeps.ite h.writeSel h).next
  | statisticsClear => exact (Keeps.ite h.clearStatistic h).next
  | transformDone => exact h.execTransformDone
  | transformEngineFault => exact h.execTransformEngineFault
  | controlComplexEcc => exact (Keeps.ite h (h.fenceObject.foldl fun h => h.fenceJobAnywhere).settle).next
  | tbReadDone => exact h.execTbReadDone
  | managementFrame => exact h.execManagementFrame
  | badFrame => exact (Keeps.ite h.frameIn h).next
  | ptpMessageTx => exact .ite h.next (h.setTb.foldl fun h => h.emit).next
  | refInReturn => exact (Keeps.ite h (h.put.foldl fun h => h.tbQualify).followStates).next
  | fhLinkLoss => exact (Keeps.ite h.put.settle h).next
  | currentLimitRepeat => exact h.execCurrentLimitRepeat
  | longGust => exact h.execLongGust
  | relockRestart => exact h.execRelockRestart
  | serdesPllsLocked => exact h.execSerdesPllsLocked
  | checkBytesInitialised => exact h.execCheckBytesInitialised
  | oldEpochContextTimeout => exact h.execOldEpochContextTimeout
  | fwVerifyDone => exact h.execFwVerifyDone
  | attestReportReady => exact h.execAttestReportReady

/-- Every command. -/
theorem Keeps.exec_record {i : Instr} (h : Keeps s₀ s) : ∃ t, Machine.exec i s = .next t ∧ KeepsRecord s₀ t := by
  by_cases hi : cutsPower i = true
  · cases i with
    | poreset => exact ⟨_, rfl, .restart h⟩
    | brownout => exact ⟨_, rfl, .restart h⟩
    | _ => cases hi
  · obtain ⟨t, e, ht⟩ := h.exec (Bool.eq_false_iff.2 hi)
    exact ⟨t, e, ht.toKeepsRecord⟩

/-- One step: the front command on the rest of the queue, or one Tc where none waits. -/
theorem step_keepsMem (e : step s = .next t) : Memory.wf s.mem = true → Memory.wf t.mem = true := by
  unfold step at e
  split at e
  next rest _ =>
    obtain ⟨t', e', ht⟩ := (Keeps.refl (s := { s with pending := rest })).exec_record
    cases e'.symm.trans e
    exact ht.mem
  next =>
    obtain rfl := Host.Outcome.next.inj e
    exact Keeps.refl.tick.mem

/-- Settles O58: every function of the model that writes memory does so by `store`, `storeMask`, `storeBytes`, a filter or `memPut`, each of which
keeps the canonical form; `Keeps` carries that through every command and through the idle tick. -/
theorem stepKeepsMemoryCanonical : Obligations.StepKeepsMemoryCanonical := by
  unfold Obligations.StepKeepsMemoryCanonical State.Sound
  exact fun _ _ hs e => step_keepsMem e hs

end Sys2Proof.Machine
end

/-!
# The family 01_slot_journey.md: shared rules

What a write leaves readable, and what the device's own books (counts, status latches, the fault log, the Replay record) leave as it was. -/

section
namespace Sys2Proof.Machine
open Sys2Proof

/-! ## Reads after writes of objects, jobs and orders -/

section
variable (s : State)

@[simp] theorem get_put (i u v j w : Nat) : (s.put i u v).get j w = if okey j w = okey i u then v else s.get j w := by
  unfold State.get State.put
  by_cases h : okey j w = okey i u
  · simp [h]
  · simp [h, Tbl.get_set_other _ _ _ _ _ _ h]

theorem get_bump (i u : Nat) : (s.bump i u).get i u = (s.get i u + 1) % 2 ^ 32 := by
  simp [State.bump]

theorem get_bumpBy (i u n : Nat) : (s.bumpBy i u n).get i u = (s.get i u + n) % 2 ^ 32 := by
  simp [State.bumpBy]

@[simp] theorem getB_putB (b i u v : Nat) : (s.putB b i u v).getB b i u = v := by
  simp [State.getB, State.putB]

theorem getB_putB_ne {b i u v c j w : Nat} (h : okey j w + c * 2 ^ 24 ≠ okey i u + b * 2 ^ 24) : (s.putB b i u v).getB c j w = s.getB c j w :=
  Tbl.get_set_other _ _ _ _ _ _ h

theorem getB_bumpB (b i u : Nat) : (s.bumpB b i u).getB b i u = (s.getB b i u + 1) % 2 ^ 32 := by
  simp [State.bumpB]

@[simp] theorem job_setJob (j i : Nat) (x : Job) : (s.setJob j x).job i = if i = j then x else s.job i := by
  simp [State.job, State.setJob]

@[simp] theorem order_setOrder (j i : Nat) (x : Order) : (s.setOrder j x).order i = if i = j then x else s.order i := by
  simp [State.order, State.setOrder]

end

/-! ## What counts, status words and logs leave alone -/

/-- The objects, by index and subindex, that the device keeps about itself: the status word with its latches, the counts of failed slices, the fault
log, the state of the Replay record, the trace and event counters, the activation's state, the time bases and the adaptation. -/
def bookEntry (i u : Nat) : Bool :=
  [0x1100, 0x1101, 0x31A0, 0x5200, 0x6000, 0x6010, 0x7000].contains i || (i == 0x5300 && [0x0B, 0x0C].contains u)
    || decide (0x2000 ≤ i ∧ i < 0x2100) || decide (0x4060 ≤ i ∧ i < 0x4070) || decide (0x8000 ≤ i)

/-- A key, of whatever bank, of an object that is none of those. -/
abbrev Tracked (k : Nat) : Prop := bookEntry (k / 256 % 65536) (k % 256) = false

/-- What `p` reads of the state stands, and so does every tracked object. -/
structure Same {γ : Type} (p : State → γ) (s t : State) : Prop where
  rest : p t = p s
  obj : ∀ d k, Tracked k → Tbl.get d t.obj k = Tbl.get d s.obj k

variable {γ : Type} {p : State → γ} {s₀ s t : State}

theorem Same.refl : Same p s s := ⟨rfl, fun _ _ _ => rfl⟩

theorem Same.upd (h : Same p s₀ s) (e : p t = p s) (ho : t.obj = s.obj) : Same p s₀ t :=
  ⟨e.trans h.rest, fun d k hk => ho ▸ h.obj d k hk⟩

theorem Same.ite {c : Prop} {inst : Decidable c} (hs : Same p s₀ s) (ht : Same p s₀ t) : Same p s₀ (if c then s else t) := by
  split
  · exact hs
  · exact ht

theorem Same.foldl {α : Type} {f : State → α → State} {l : List α} (h : Same p s₀ s) (hf : ∀ {s x}, x ∈ l → Same p s₀ s → Same p s₀ (f s x)) :
    Same p s₀ (l.foldl f s) := by
  induction l generalizing s with
  | nil => exact h
  | cons x l ih => exact ih (hf (by simp) h) fun hx => hf (by simp [hx])

theorem Same.get (h : Same p s t) {i u : Nat} (hk : Tracked (okey i u)) : t.get i u = s.get i u := h.obj _ _ hk

theorem Same.getB (h : Same p s t) {b i u : Nat} (hk : Tracked (okey i u + b * 2 ^ 24)) : t.getB b i u = s.getB b i u := h.obj _ _ hk

/-! ### The dictionary -/

/-- A part of the state that does not hold the scalar objects. -/
structure Dictless (p : State → γ) : Prop where
  put : ∀ s i u v, p (State.put s i u v) = p s
  putB : ∀ s b i u v, p (State.putB s b i u v) = p s

theorem not_tracked_okey {i u b : Nat} (hi : bookEntry (i % 65536) u = true) (hu : u < 256) : ¬ Tracked (okey i u + b * 2 ^ 24) := by
  have h : (okey i u + b * 2 ^ 24) / 256 % 65536 = i % 65536 := by
    unfold okey
    omega
  have hm : (okey i u + b * 2 ^ 24) % 256 = u := by
    unfold okey
    omega
  rw [Tracked, h, hm, hi]
  decide

theorem Same.setObj (h : Same p s₀ s) {e k v : Nat} (hr : p t = p s) (ho : t.obj = Tbl.set e s.obj k v) (hk : ¬ Tracked k) : Same p s₀ t :=
  ⟨hr.trans h.rest, fun d i hi => by rw [ho, Tbl.get_set_other d e s.obj k v i fun hik => hk (hik ▸ hi), h.obj d i hi]⟩

theorem Same.putB (hp : Dictless p) (h : Same p s₀ s) {b i u v : Nat} (hi : bookEntry (i % 65536) u = true) (hu : u < 256) : Same p s₀ (s.putB b i u v) :=
  h.setObj (hp.putB s b i u v) rfl (not_tracked_okey hi hu)

theorem Same.bumpB (hp : Dictless p) (h : Same p s₀ s) {b i u : Nat} (hi : bookEntry (i % 65536) u = true) (hu : u < 256) : Same p s₀ (s.bumpB b i u) :=
  h.putB hp hi hu

theorem Same.put (hp : Dictless p) (h : Same p s₀ s) {i u v : Nat} (hi : bookEntry (i % 65536) u = true) (hu : u < 256) : Same p s₀ (s.put i u v) :=
  h.setObj (hp.put s i u v) rfl (by simpa using not_tracked_okey (b := 0) hi hu)

theorem Same.bump (hp : Dictless p) (h : Same p s₀ s) {i u : Nat} (hi : bookEntry (i % 65536) u = true) (hu : u < 256) : Same p s₀ (s.bump i u) :=
  h.put hp hi hu

theorem Same.latch (hp : Dictless p) (h : Same p s₀ s) {f b : Nat} (hb : b < 255) : Same p s₀ (s.latch f b) :=
  (h.putB hp rfl (by decide)).bumpB hp rfl (by omega)

theorem Same.latchChanges (hp : Dictless p) (h : Same p s₀ s) {f old new : Nat} : Same p s₀ (s.latchChanges f old new) := by
  have step : ∀ {s : State} {c : Prop} {inst : Decidable c} {b : Nat}, Same p s₀ s → b < 255 → Same p s₀ (if c then s.latch f b else s) :=
    fun h hb => .ite (h.latch hp hb) h
  exact step (step (step (step (step (step h (by decide)) (by decide)) (by decide)) (by decide)) (by decide)) (by decide)

theorem Same.settleF (hp : Dictless p) (h : Same p s₀ s) {f : Nat} : Same p s₀ (s.settleF f) :=
  .ite (h.latchChanges hp) (((h.latchChanges hp).putB hp rfl (by decide)).bumpB hp rfl (by decide))

theorem Same.settle (hp : Dictless p) (h : Same p s₀ s) : Same p s₀ s.settle := h.foldl fun _ h => h.settleF hp

theorem Same.attend (hp : Dictless p) (h : Same p s₀ s) {b court : Nat} (hb : b < 255) : Same p s₀ (s.attend b court) :=
  (Same.ite ((h.latch hp hb).latch hp hb) (h.latch hp hb)).settle hp

theorem Same.violation (hp : Dictless p) (h : Same p s₀ s) {court : Nat} : Same p s₀ (s.violation court) := h.attend hp (by decide)

theorem Same.lateEvent (hp : Dictless p) (h : Same p s₀ s) {court : Nat} : Same p s₀ (s.lateEvent court) := h.attend hp (by decide)

theorem Same.countGlobal (hp : Dictless p) (h : Same p s₀ s) {sel amt : Nat} : Same p s₀ (s.countGlobal sel amt) :=
  h.foldl fun _ h => h.put hp rfl (Nat.mod_lt _ (by decide))

theorem Same.countCore (hp : Dictless p) (h : Same p s₀ s) {n sel amt : Nat} (hn : n < 64) : Same p s₀ (s.countCore n sel amt) :=
  h.foldl fun _ h => h.put hp (by simp [bookEntry]; omega) (by omega)

/-! ### The fault log, the trace and the Replay record -/

/-- A part of the state that holds neither objects nor what a Replay record is written to. -/
structure Recordless (p : State → γ) : Prop extends Dictless p where
  storeBytes : ∀ s a b, p (State.storeBytes s a b) = p s
  replay : ∀ s r, p { s with replay := r } = p s

/-- A part of the state that holds neither objects nor what a log entry is written to. -/
structure Logless (p : State → γ) : Prop extends Recordless p where
  putBlob : ∀ s i u b, p (State.putBlob s i u b) = p s
  store : ∀ s n a x, p (State.store s n a x) = p s
  setCore : ∀ s n c, p (State.setCore s n c) = p s
  firm : ∀ s f, p { s with firm := f } = p s

theorem Same.storeBytes (hp : Recordless p) (h : Same p s₀ s) {a : Nat} {b : List Byte} : Same p s₀ (s.storeBytes a b) := h.upd (hp.storeBytes s a b) rfl

theorem Same.setReplay (hp : Recordless p) (h : Same p s₀ s) {r : Replay} : Same p s₀ { s with replay := r } := h.upd (hp.replay s r) rfl

theorem Same.xspiWrite (hp : Recordless p) (h : Same p s₀ s) {off : Nat} {b : List Byte} : Same p s₀ (s.xspiWrite off b) :=
  h.foldl fun _ h => (h.storeBytes hp).countGlobal hp.toDictless

theorem Same.replayLog (hp : Recordless p) (h : Same p s₀ s) {kind : Nat} {b : List Byte} : Same p s₀ (s.replayLog kind b) := by
  unfold State.replayLog
  extract_lets _ _ _ _ s1
  have hs1 : Same p s₀ s1 := h.setReplay hp
  exact .ite h (.ite (h.put hp.toDictless rfl (by decide)) ((hs1.xspiWrite hp).put hp.toDictless rfl (by decide)))

theorem Same.store (hp : Logless p) (h : Same p s₀ s) {n a x : Nat} : Same p s₀ (s.store n a x) := h.upd (hp.store s n a x) rfl

theorem Same.setCore (hp : Logless p) (h : Same p s₀ s) {n : Nat} {c : Core} : Same p s₀ (s.setCore n c) := h.upd (hp.setCore s n c) rfl

theorem Same.updCore (hp : Logless p) (h : Same p s₀ s) {n : Nat} {f : Core → Core} : Same p s₀ (s.updCore n f) := h.setCore hp

theorem Same.mapCores (hp : Logless p) (h : Same p s₀ s) {f : Core → Core} : Same p s₀ (s.mapCores f) := h.foldl fun _ h => h.updCore hp

theorem Same.setFirm (hp : Logless p) (h : Same p s₀ s) {f : Firm} : Same p s₀ { s with firm := f } := h.upd (hp.firm s f) rfl

theorem Same.putBlob (hp : Logless p) (h : Same p s₀ s) {i u : Nat} {b : List Byte} : Same p s₀ (s.putBlob i u b) := h.upd (hp.putBlob s i u b) rfl

theorem Same.traceWrite (hp : Logless p) (h : Same p s₀ s) {n type slot court tb payload : Nat} (hn : n < 64) :
    Same p s₀ (s.traceWrite n type slot court tb payload) := by
  unfold State.traceWrite
  extract_lets _ _ _ _ s1
  have hs1 : Same p s₀ s1 := .ite ((h.store hp).countCore hp.toDictless hn) (h.store hp)
  exact hs1.setCore hp

theorem Same.trace (hp : Logless p) (h : Same p s₀ s) {n type slot court tb payload : Nat} (hn : n < 64) :
    Same p s₀ (s.trace n type slot court tb payload) :=
  .ite (h.setCore hp) (.ite ((h.setCore hp).bump hp.toDictless rfl (by decide))
    (((Same.ite h (h.traceWrite hp hn)).traceWrite hp hn).updCore hp))

theorem Same.logFault (hp : Logless p) (h : Same p s₀ s) {air tb grain cause action object court slot job info : Nat} :
    Same p s₀ (s.logFault air tb grain cause action object court slot job info) := by
  unfold State.logFault
  extract_lets _ _ _ s1 _ _ src _ s2 s3 _ s4
  have h1 : Same p s₀ s1 := (h.put hp.toDictless rfl (by decide)).putBlob hp
  have hsrc : Same p s₀ src := .ite h1 (h1.xspiWrite hp.toRecordless)
  have h2 : Same p s₀ s2 := .ite (hsrc.setFirm hp) h1
  have h3 : Same p s₀ s3 := .ite (h2.replayLog hp.toRecordless) h2
  have h4 : Same p s₀ s4 := .ite (h3.trace hp (Nat.mod_lt _ (by decide))) h3
  exact .ite (h4.attend hp.toDictless (by decide)) (h4.settle hp.toDictless)

/-! ### Packets on the links -/

/-- A part of the state that holds neither objects, nor what leaves the chip, nor the Megorlink. -/
structure Linkless (p : State → γ) : Prop extends Dictless p where
  out : ∀ s o, p { s with out := o } = p s
  mgl : ∀ s m, p { s with mgl := m } = p s

theorem Same.emit (hp : Linkless p) (h : Same p s₀ s) {o : Out} : Same p s₀ (s.emit o) := h.upd (hp.out s _) rfl

theorem Same.setMgl (hp : Linkless p) (h : Same p s₀ s) {m : Mgl} : Same p s₀ { s with mgl := m } := h.upd (hp.mgl s m) rfl

theorem Same.pump (hp : Linkless p) (h : Same p s₀ s) {q k : Nat} : Same p s₀ (s.pump q k) := by
  induction k generalizing s with
  | zero => exact h
  | succ k ih =>
    unfold State.pump
    extract_lets x
    split
    · split
      · exact ih (((h.emit hp).countGlobal hp.toDictless).setMgl hp)
      · exact h
    · exact h

theorem Same.deal (hp : Linkless p) (h : Same p s₀ s) {nb vc kind src dst : Nat} {b : List Byte} : Same p s₀ (s.deal nb vc kind src dst b) := by
  unfold State.deal
  split
  · exact ((h.setMgl hp).setMgl hp).pump hp
  · exact h

theorem Same.sendMgl (hp : Linkless p) (h : Same p s₀ s) {c vc kind : Nat} {b : List Byte} : Same p s₀ (s.sendMgl c vc kind b) := by
  unfold State.sendMgl
  refine .ite h ?_
  split
  · exact (h.setMgl hp).deal hp
  · exact h

end Sys2Proof.Machine
end

/-!
# The family 01_slot_journey.md: reductions across chips, remote accesses and audits (O32)
-/

section
namespace Sys2Proof.Machine
open Sys2Proof Sys2Proof.Claims

variable {γ : Type} {p : State → γ} {s₀ s t : State}

/-- A part of the state that also holds neither coding nor transform engines. -/
structure Sliceless (p : State → γ) : Prop extends Logless p where
  engines : ∀ s f c e, p { s with firm := f, coding := c, transforms := e } = p s

theorem Same.abandonSlices (hp : Sliceless p) (h : Same p s₀ s) : Same p s₀ s.abandonSlices := by
  unfold State.abandonSlices
  extract_lets _ s1 src
  have hsrc : Same p s₀ src := (h.put hp.toDictless rfl (by decide)).mapCores hp.toLogless
  exact .ite h (hsrc.upd (hp.engines _ _ _ _) rfl)

/-- Where a fence of a job is noted, and the line credits. -/
def State.jobBooks (s : State) : Tbl Job × List Nat × Tbl Nat := (s.jobs, s.fenceQueue, s.credits)

theorem jobBooks_sliceless : Sliceless State.jobBooks where
  put _ _ _ _ := rfl
  putB _ _ _ _ _ := rfl
  putBlob _ _ _ _ := rfl
  store _ _ _ _ := rfl
  storeBytes _ _ _ := rfl
  setCore _ _ _ := rfl
  replay _ _ := rfl
  firm _ _ := rfl
  engines _ _ _ _ := rfl

theorem jobBooks_eq {j q c} (h : s.jobBooks = (j, q, c)) : s.jobs = j ∧ s.fenceQueue = q ∧ s.credits = c := by
  simpa [State.jobBooks] using h

theorem abandonSlices_fenceQueue : s.abandonSlices.fenceQueue = s.fenceQueue := (jobBooks_eq (Same.refl.abandonSlices jobBooks_sliceless).rest).2.1
theorem abandonSlices_credits : s.abandonSlices.credits = s.credits := (jobBooks_eq (Same.refl.abandonSlices jobBooks_sliceless).rest).2.2

theorem fenceJob_fences {j cause pc info : Nat} (h : fenceable s j) :
    nowFenced (s.fenceJob j cause pc info) j cause ∧ ((s.fenceJob j cause pc info).job j).fenceInfo = info
      ∧ (s.fenceJob j cause pc info).credits = s.credits := by
  obtain ⟨hl, hf, hc⟩ := h
  unfold State.fenceJob
  extract_lets x s1 _ s2 obj s3
  rw [if_pos (by simp [x, hl, hf, hc])]
  obtain ⟨hj, hq, hcr⟩ := jobBooks_eq (Same.refl.logFault jobBooks_sliceless.toLogless :
    Same State.jobBooks s3 (s3.logFault (s3.airNow x.tb) x.tb 0 cause 0 obj x.court (if x.core < 64 then x.slot else 0xFF) j info)).rest
  have hx : ∀ {u : State}, u.jobs = s3.jobs →
      u.job j = { x with state := .fenced, cause := cause, fenceAir := s1.airNow x.tb, fencePc := pc, fenceInfo := info } := fun e => by
    rw [State.job, e]
    exact (job_setJob s1 j j _).trans (if_pos rfl)
  have hq2 : s3.fenceQueue = s.fenceQueue ++ [j] := congrArg (· ++ [j]) abandonSlices_fenceQueue
  refine ⟨⟨?_, ?_, ?_⟩, ?_, hcr.trans abandonSlices_credits⟩
  · rw [hx hj]
  · rw [hx hj]
  · rw [hq, hq2]
    simp
  · rw [hx hj]

/-- A fault of the running context and one of another context both fence the context's job (R76, R122). -/
theorem faultCtx_fences {n k cause info : Nat} (hi : info < 2 ^ 32) (h : fenceable s ((s.core n).ctx k).job) :
    nowFenced (s.faultCtx n k cause info) ((s.core n).ctx k).job cause ∧ ((s.faultCtx n k cause info).job ((s.core n).ctx k).job).fenceInfo = info
      ∧ (s.faultCtx n k cause info).credits = s.credits := by
  unfold State.faultCtx
  extract_lets c
  split
  next hc =>
    obtain ⟨hm, hk⟩ := hc
    unfold State.raise
    extract_lets iv s1 j c' r
    have hj : j = ((s.core n).ctx k).job := (if_pos hm).trans (congrArg (fun i => ((s.core n).ctx i).job) hk)
    have hiv : iv.toNat = info := (BitVec.toNat_ofNat info 32).trans (Nat.mod_eq_of_lt hi)
    rw [hj, hiv]
    exact fenceJob_fences h
  next => exact fenceJob_fences h

/-! ### Reduction units -/

theorem reductionUnitRx_home (src : Fin 24) (u : RedUnit) (s : State) (e : RedHeld) (h0 : s.get 0x2600 5 ≠ 0) (h1 : s.get 0x2600 0x0D ≠ 1)
    (hu : s.mgl.units = [e]) (he : e.is u.carrier u.sym.toNat u.chunk.toNat u.kind.toNat u.home = true) (hd : e.done = false) (hv : src.val ∉ e.via)
    (hk : src.val = s.chip ∨ src.val ∈ e.kids) (hf : s.isFenced 10 s.chip = false) (hh : u.home.val = s.chip) :
    execReductionUnitRx src u s = .next { s with mgl := { s.mgl with units := [{ e with
      mask := e.mask ||| u.mask.toNat, sums := addSums e.sums u.sums, via := e.via ++ [src.val], done := (e.mask ||| u.mask.toNat) == e.members }] } } := by
  unfold execReductionUnitRx
  extract_lets u c n k j h x rest zero y all r
  have hx : x = e := by simp only [x, hu, c, n, k, j, h, u, List.find?_singleton, he, if_true, Option.getD_some]
  have hr : rest = [] := by simp [rest, hu, c, n, k, j, h, u, he]
  have hz : zero = false := by simp [zero, hf]
  have hy : y = { e with mask := e.mask ||| u.mask.toNat, sums := addSums e.sums u.sums, via := e.via ++ [src.val] } := by
    simp only [y, hx, hz]
    rfl
  rw [if_neg, if_pos hh, hr, hy]
  · rfl
  · rw [hx]
    simp only [h0, h1, hd, List.contains_iff_mem, hv, false_or, Bool.false_eq_true, not_and, Bool.not_eq_false]
    tauto

/-- A count of one object of each index of a list without repetitions. -/
theorem get_foldl_bump {l : List Nat} (hl : l.Nodup) (i u q : Nat) (s : State) :
    (l.foldl (fun (s : State) q => s.bump (i + q) u) s).get (i + q) u = if q ∈ l then (s.get (i + q) u + 1) % 2 ^ 32 else s.get (i + q) u := by
  induction l generalizing s with
  | nil => simp
  | cons a r ih =>
    obtain ⟨ha, hr⟩ := List.nodup_cons.1 hl
    rw [List.foldl_cons, ih hr]
    by_cases hq : q = a
    · subst hq
      simp [ha, get_bump]
    · have hk : okey (i + q) u ≠ okey (i + a) u := by
        unfold okey
        omega
      simp [State.bump, hq, hk]

/-- The chips whose sums a unit lacks. -/
def RedHeld.missing (e : RedHeld) : List Nat := (List.range 24).filter fun q => e.members.testBit q && !e.mask.testBit q

theorem RedHeld.mem_missing {e : RedHeld} {q : Nat} (hq : q < 24) : q ∈ e.missing ↔ e.members.testBit q = true ∧ e.mask.testBit q = false := by
  simp [RedHeld.missing, hq]

theorem RedHeld.missing_nodup (e : RedHeld) : e.missing.Nodup := List.nodup_range.filter _

/-- Each member that a unit lacks is counted. -/
def State.countMissing (e : RedHeld) (s : State) : State := e.missing.foldl (fun (s : State) q => s.bump (0x2640 + q) 4) s

theorem countMissing_rest (e : RedHeld) : (s.countMissing e).jobs = s.jobs ∧ (s.countMissing e).mgl = s.mgl ∧ (s.countMissing e).cores = s.cores :=
  ⟨foldl_keeps (fun (s : State) q => s.bump (0x2640 + q) 4) State.jobs (fun _ _ => rfl) _ s,
    foldl_keeps (fun (s : State) q => s.bump (0x2640 + q) 4) State.mgl (fun _ _ => rfl) _ s,
    foldl_keeps (fun (s : State) q => s.bump (0x2640 + q) 4) State.cores (fun _ _ => rfl) _ s⟩

/-- The state in which a unit has been given up. -/
def State.withoutUnits (s : State) (e : RedHeld) : State := ({ s with mgl := { s.mgl with units := [] } } : State).countMissing e

theorem reductionAbandon_home (carrier : Fin 32) (sym : BitVec 32) (chunk kind : BitVec 8) (home : Fin 24) (s : State) (e : RedHeld) (j d : Nat)
    (hu : s.mgl.units = [e]) (he : e.is carrier sym.toNat chunk.toNat kind.toNat home = true) (hd : e.done = false) (hh : home.val = s.chip)
    (hj : s.unitJob carrier sym.toNat chunk.toNat kind.toNat = some j) (hdl : (s.job j).deadline = some d)
    (hr : s.reached (s.job j).tb (s.tcOf (s.job j).tb d) = true) :
    execReductionAbandon carrier sym chunk kind home s =
      .next ((s.withoutUnits e).setJob j { (s.withoutUnits e).job j with lost := true, done := true, cause := 0x49 }) := by
  unfold execReductionAbandon
  extract_lets c n k m h held x job early miss src s1
  have hheld : held = some e := by simp only [held, hu, c, n, k, m, h, List.find?_singleton, he, if_true]
  have hx : x = e := by simp only [x, hheld, Option.getD_some]
  have hjob : job = some j := by simp only [job, h, hh, if_true, c, n, k, m, hj]
  have hearly : early = false := by simp only [early, hjob, Option.any_some, hdl, hr, Bool.not_true]
  have hrest : (s.mgl.units.filter fun e => !e.is c n k m h) = [] := by simp [hu, c, n, k, m, h, he]
  have hs1 : s1 = s.withoutUnits e := by
    simp only [s1, miss, src, hrest, hx, State.withoutUnits, State.countMissing, RedHeld.missing]
  rw [if_neg (by simp [hx, hd, hheld, hearly]), hjob, hs1]

theorem reductionAbandon_spec (carrier : Fin 32) (sym : BitVec 32) (chunk kind : BitVec 8) (home : Fin 24) (s : State) (e : RedHeld) (j d : Nat)
    (hu : s.mgl.units = [e]) (he : e.is carrier sym.toNat chunk.toNat kind.toNat home = true) (hd : e.done = false) (hh : home.val = s.chip)
    (hj : s.unitJob carrier sym.toNat chunk.toNat kind.toNat = some j) (hdl : (s.job j).deadline = some d)
    (hr : s.reached (s.job j).tb (s.tcOf (s.job j).tb d) = true) :
    ∃ t, exec (.reductionAbandon carrier sym chunk kind home) s = .next t ∧ (t.job j).lost = true ∧ (t.job j).done = true ∧ (t.job j).cause = 0x49
      ∧ t.mgl.units = []
      ∧ (∀ q < 24, t.get (0x2640 + q) 4
          = if e.members.testBit q ∧ e.mask.testBit q = false then (s.get (0x2640 + q) 4 + 1) % 2 ^ 32 else s.get (0x2640 + q) 4)
      ∧ t.cores = s.cores := by
  obtain ⟨-, hm, hc⟩ := countMissing_rest (s := { s with mgl := { s.mgl with units := [] } }) e
  refine ⟨_, reductionAbandon_home carrier sym chunk kind home s e j d hu he hd hh hj hdl hr, ?_, ?_, ?_, ?_, fun q hq => ?_, hc⟩
  · rw [job_setJob, if_pos rfl]
  · rw [job_setJob, if_pos rfl]
  · rw [job_setJob, if_pos rfl]
  · exact congrArg Mgl.units hm
  · simp only [← RedHeld.mem_missing hq]
    exact get_foldl_bump e.missing_nodup 0x2640 4 q _

/-! ### The audit and its remedies -/

/-- What an audit edge notes, and the cores. -/
def State.auditNotes (s : State) : Tbl Core × Option (Nat × Nat) × List Imbalance := (s.cores, s.audit.last, s.audit.found)

/-- What a remedy's instant is noted in, and the cores. -/
def State.remedies (s : State) : Tbl Core × List (Imbalance × Nat × Nat) := (s.cores, s.audit.due)

theorem auditNotes_dictless : Dictless State.auditNotes := ⟨fun _ _ _ _ => rfl, fun _ _ _ _ _ => rfl⟩

theorem remedies_dictless : Dictless State.remedies := ⟨fun _ _ _ _ => rfl, fun _ _ _ _ _ => rfl⟩

theorem Same.books {n edge : Nat} {e : Imbalance × Int} (h : Same State.auditNotes s₀ s) : Same State.auditNotes s₀ (s.books n edge e) := by
  unfold State.books
  refine Same.attend auditNotes_dictless ?_ (by decide)
  exact h.upd rfl rfl

theorem books_due (n edge : Nat) (e : Imbalance × Int) : ∃ b, (s.books n edge e).audit.due = s.audit.due ++ [(e.1, n, b)] := by
  unfold State.books
  extract_lets t b rec_ src s1
  exact ⟨b % airPeriod, (Prod.mk.inj (Same.refl.attend remedies_dictless (by decide)).rest).2⟩

/-- The state in which an audit edge has counted its audit, and one that found something. -/
def State.auditCounted (s : State) (l : List (Imbalance × Int)) : State := if l = [] then s.bump 0x3191 2 else (s.bump 0x3191 2).bump 0x3191 3

/-- The state in which an audit edge has also noted what it found. -/
def State.audited (s : State) (l : List (Imbalance × Int)) : State :=
  { s.auditCounted l with audit := { (s.auditCounted l).audit with
      last := some (s.get 0x3191 1 % 8, s.symbolStart (s.get 0x3191 1 % 8)), found := l.map fun e => e.1 } }

/-- The imbalances that are found again and have no remedy due. -/
def State.foundAgain (s : State) (l : List (Imbalance × Int)) : List (Imbalance × Int) :=
  l.filter fun e => s.audit.found.contains e.1 && !(s.audit.due.any fun d => d.1 == e.1)

theorem auditEdge_first (l : List (Fin 8 × Fin 4 × Int)) (s : State) (hc : s.cut = false) (he : (s.tb (s.get 0x3191 1 % 8)).enabled = true)
    (hl : s.audit.last = none) :
    execAuditEdge l s = .next ((s.foundAgain (s.imbalances l)).foldl
      (fun (s' : State) e => s'.books (s.get 0x3191 1 % 8) (s.symbolStart (s.get 0x3191 1 % 8)) e) (s.audited (s.imbalances l))) := by
  unfold execAuditEdge
  extract_lets n edge soon
  rw [if_neg (by simp [n, soon, hc, he, hl])]
  rfl

theorem auditCounted_rest (l : List (Imbalance × Int)) : (s.auditCounted l).cores = s.cores ∧ (s.auditCounted l).audit = s.audit := by
  unfold State.auditCounted
  split
  · exact ⟨rfl, rfl⟩
  · exact ⟨rfl, rfl⟩

theorem auditCounted_counts (l : List (Imbalance × Int)) :
    (s.auditCounted l).get 0x3191 2 = (s.get 0x3191 2 + 1) % 2 ^ 32
      ∧ (s.auditCounted l).get 0x3191 3 = (if l = [] then s.get 0x3191 3 else (s.get 0x3191 3 + 1) % 2 ^ 32) := by
  have h3 : (s.bump 0x3191 2).get 0x3191 3 = s.get 0x3191 3 := (get_put ..).trans (if_neg (by decide))
  unfold State.auditCounted
  by_cases h : l = []
  · rw [if_pos h, if_pos h]
    exact ⟨get_bump .., h3⟩
  · rw [if_neg h, if_neg h, get_bump, h3]
    exact ⟨((get_put ..).trans (if_neg (by decide))).trans (get_bump ..), rfl⟩

theorem get_withAudit (s : State) (a : Audit) (i u : Nat) : ({ s with audit := a } : State).get i u = s.get i u := rfl

theorem audited_notes (l : List (Imbalance × Int)) :
    (s.audited l).cores = s.cores ∧ (s.audited l).audit.due = s.audit.due
      ∧ (s.audited l).get 0x3191 2 = (s.get 0x3191 2 + 1) % 2 ^ 32
      ∧ (s.audited l).get 0x3191 3 = (if l = [] then s.get 0x3191 3 else (s.get 0x3191 3 + 1) % 2 ^ 32) := by
  obtain ⟨hcores, haudit⟩ := auditCounted_rest (s := s) l
  obtain ⟨h2, h3⟩ := auditCounted_counts (s := s) l
  have hdue : (s.auditCounted l).audit.due = s.audit.due := congrArg Audit.due haudit
  unfold State.audited
  rw [get_withAudit, get_withAudit]
  exact ⟨hcores, hdue, h2, h3⟩

theorem auditEdge_spec (l : List (Fin 8 × Fin 4 × Int)) (s : State) (hc : s.cut = false) (he : (s.tb (s.get 0x3191 1 % 8)).enabled = true)
    (hl : s.audit.last = none) :
    let n := s.get 0x3191 1 % 8
    ∃ t, exec (.auditEdge l) s = .next t ∧ t.audit.last = some (n, s.symbolStart n) ∧ t.get 0x3191 2 = (s.get 0x3191 2 + 1) % 2 ^ 32
      ∧ t.get 0x3191 3 = (if s.imbalances l = [] then s.get 0x3191 3 else (s.get 0x3191 3 + 1) % 2 ^ 32)
      ∧ (∀ i d, (i, d) ∈ s.imbalances l → i ∈ t.audit.found)
      ∧ (∀ i d, s.imbalances l = [(i, d)] → i ∈ s.audit.found → s.audit.due = [] → ∃ b, t.audit.due = [(i, n, b)]) ∧ t.cores = s.cores := by
  intro n
  obtain ⟨hcores, hdue, h2, h3⟩ := audited_notes (s := s) (s.imbalances l)
  have hb : Same State.auditNotes (s.audited (s.imbalances l)) ((s.foundAgain (s.imbalances l)).foldl
      (fun (s' : State) e => s'.books n (s.symbolStart n) e) (s.audited (s.imbalances l))) := Same.refl.foldl fun _ h => h.books
  have hr := hb.rest
  simp only [State.auditNotes, Prod.mk.injEq] at hr
  obtain ⟨hrc, hrl, hrf⟩ := hr
  refine ⟨_, auditEdge_first l s hc he hl, hrl, (hb.get (by decide)).trans h2, (hb.get (by decide)).trans h3, fun i d hi => ?_, fun i d hi hf hd => ?_,
    hrc.trans hcores⟩
  · rw [hrf]
    exact List.mem_map_of_mem (f := fun e : Imbalance × Int => e.1) hi
  · have ha : s.foundAgain (s.imbalances l) = [(i, d)] := by simp [State.foundAgain, hi, hf, hd]
    rw [ha, List.foldl_cons, List.foldl_nil]
    obtain ⟨b, e⟩ := books_due (s := s.audited (s.imbalances l)) n (s.symbolStart n) (i, d)
    exact ⟨b, by rw [e, hdue, hd]; rfl⟩

/-- The parts that the remedy of a credit book works on, and memory. -/
def State.creditBook (s : State) : Tbl Nat × List (Imbalance × Nat × Nat) × List Host.Cell := (s.credits, s.audit.due, s.mem)

theorem creditBook_dictless : Dictless State.creditBook := ⟨fun _ _ _ _ => rfl, fun _ _ _ _ _ => rfl⟩

theorem mapCores_keeps {γ : Type} (p : State → γ) (h : ∀ s n c, p (State.setCore s n c) = p s) (s : State) (f : Core → Core) : p (s.mapCores f) = p s :=
  foldl_keeps _ p (fun _ _ => h _ _ _) _ _

theorem reinit_credits (s : State) (p : Nat) : ∃ f, s.reinit ⟨1, p⟩ = { s.mapCores f with credits := Tbl.set 0 s.credits p 0 } :=
  ⟨_, rfl⟩

/-- The remedy of a book of line credits on whose lines no job waits (R197). -/
theorem applyRemedy_credits {p : Nat} (h : s.bookHolders ⟨1, p⟩ = []) :
    (s.applyRemedy ⟨1, p⟩).creditBook = (Tbl.set 0 s.credits p 0, s.audit.due, s.mem)
      ∧ (s.applyRemedy ⟨1, p⟩).get 0x3191 4 = (s.get 0x3191 4 + 1) % 2 ^ 32 := by
  obtain ⟨f, hf⟩ := reinit_credits s p
  have e : s.applyRemedy ⟨1, p⟩ = (({ s.mapCores f with credits := Tbl.set 0 s.credits p 0 } : State).bump 0x3191 4).settle := by
    rw [← hf, State.applyRemedy, h]
    rfl
  have hset := Same.refl.settle creditBook_dictless (s := ({ s.mapCores f with credits := Tbl.set 0 s.credits p 0 } : State).bump 0x3191 4)
  rw [e]
  refine ⟨hset.rest.trans ?_, (hset.get (by decide)).trans ((get_bump _ _ _).trans ?_)⟩
  · exact congrArg (fun c : Tbl Nat × List (Imbalance × Nat × Nat) × List Host.Cell => (Tbl.set 0 s.credits p 0, c.2))
      (mapCores_keeps State.creditBook (fun _ _ _ => rfl) s f)
  · exact congrArg (fun v : Nat => (v + 1) % 2 ^ 32) (mapCores_keeps (fun s => State.get s 0x3191 4) (fun _ _ _ => rfl) s f)

theorem remedy_one (s : State) (i : Imbalance) (n b : Nat) (hc : s.cut = false) (hd : s.audit.due = [(i, n, b)]) (hr : s.reached n b = true) :
    ∃ f, execRemedy s = .next (({ s with audit := { s.audit with due := [], found := f } } : State).applyRemedy i) := by
  have hleft : (s.audit.due.filter fun d => !s.reached d.2.1 d.2.2) = [] := by simp [hd, hr]
  unfold execRemedy
  extract_lets now
  have hnow : now = [(i, n, b)] := by simp [now, hd, hr]
  rw [if_neg (by simp [hc]), hnow, List.foldl_cons, List.foldl_nil, hleft]
  exact ⟨_, rfl⟩

theorem remedy_spec (s : State) (p n b : Nat) (hc : s.cut = false) (hd : s.audit.due = [(⟨1, p⟩, n, b)]) (hr : s.reached n b = true)
    (hh : s.bookHolders ⟨1, p⟩ = []) :
    ∃ t, exec .remedy s = .next t ∧ Tbl.get 0 t.credits p = 0 ∧ t.get 0x3191 4 = (s.get 0x3191 4 + 1) % 2 ^ 32 ∧ t.audit.due = [] ∧ t.mem = s.mem := by
  obtain ⟨f, e⟩ := remedy_one s ⟨1, p⟩ n b hc hd hr
  obtain ⟨hb, h4⟩ := applyRemedy_credits (s := { s with audit := { s.audit with due := [], found := f } }) hh
  obtain ⟨hcr, hdue, hm⟩ : _ ∧ _ ∧ _ := by simpa only [State.creditBook, Prod.mk.injEq] using hb
  exact ⟨_, e, by rw [hcr, Tbl.get_set, if_pos rfl], h4, hdue, hm⟩

theorem reductionUnitRx_spec (src : Fin 24) (u : RedUnit) (s : State) (e : RedHeld) (h0 : s.get 0x2600 5 ≠ 0) (h1 : s.get 0x2600 0x0D ≠ 1)
    (hu : s.mgl.units = [e]) (he : e.is u.carrier u.sym.toNat u.chunk.toNat u.kind.toNat u.home = true) (hd : e.done = false) (hv : src.val ∉ e.via)
    (hk : src.val = s.chip ∨ src.val ∈ e.kids) (hf : s.isFenced 10 s.chip = false) (hh : u.home.val = s.chip) :
    ∃ t x, exec (.reductionUnitRx src u) s = .next t ∧ t.mgl.units = [x] ∧ x.mask = e.mask ||| u.mask.toNat ∧ x.via = e.via ++ [src.val]
      ∧ (x.done = true ↔ x.mask = e.members) ∧ x.sums = addSums e.sums u.sums ∧ (∃ m, t = { s with mgl := m }) :=
  ⟨_, _, reductionUnitRx_home src u s e h0 h1 hu he hd hv hk hf hh, rfl, rfl, rfl, beq_iff_eq, rfl, _, rfl⟩

theorem ctx_setCtx (c : Core) (k i : Nat) (x : Ctx) : (c.setCtx k x).ctx i = if i = k then x else c.ctx i := by
  simp [Core.ctx, Core.setCtx]

theorem setEngine_job (s : State) (n k e : Nat) (x : Engine) : (((s.setEngine n k e x).core n).ctx k).job = ((s.core n).ctx k).job := by
  rw [State.setEngine, core_updCore, if_pos rfl, ctx_setCtx, if_pos rfl]
  rfl

theorem remoteAccessTimeout_spec (core : Fin 64) (slot e : Fin 4) (s : State) (p : Nat) (r : List Nat)
    (ho : (s.engine core slot e).outstanding = p :: r) (hp : 128 ≤ p) (hj : fenceable s ((s.core core).ctx slot).job) :
    ∃ t, exec (.remoteAccessTimeout core slot e) s = .next t ∧ nowFenced t ((s.core core).ctx slot).job 0x22
      ∧ (t.job ((s.core core).ctx slot).job).fenceInfo = 0x3000C + e.val * 256 ∧ Tbl.get 0 t.credits p = Tbl.get 0 s.credits p - 1 := by
  obtain ⟨u, hu, hcr, e'⟩ : ∃ u : State,
      u = { s.setEngine core slot e { s.engine core slot e with outstanding := r } with credits := Tbl.upd 0 s.credits p fun c => c - 1 }
      ∧ u.credits = Tbl.upd 0 s.credits p (fun c => c - 1)
      ∧ execRemoteAccessTimeout core slot e s = .next (u.faultCtx core slot evSTREAM (0x00030000 + e.val * 256 + 0x0C)) := by
    unfold execRemoteAccessTimeout
    simp only [ho]
    rw [if_neg (by omega)]
    exact ⟨_, rfl, rfl, rfl⟩
  have hctx : ((u.core core).ctx slot).job = ((s.core core).ctx slot).job := hu ▸ setEngine_job s core slot e _
  have hjobs : u.jobs = s.jobs := hu ▸ rfl
  obtain ⟨hf, hi, hc⟩ := faultCtx_fences (s := u) (n := core) (k := slot) (cause := evSTREAM) (info := 0x00030000 + e.val * 256 + 0x0C)
    (by have := e.isLt; omega) (by rw [hctx]; simpa only [fenceable, State.job, hjobs] using hj)
  rw [hctx] at hf hi
  refine ⟨_, e', hf, hi.trans (by omega), ?_⟩
  rw [hc, hcr, Tbl.upd, Tbl.get_set, if_pos rfl]

/-- Settles O32: the units of a reduction (R308 to R310), the remote access (R311), the audit edge (R196) and the remedy of line credits (R197), each by
the lemma of its instruction above. -/
theorem reductionsRemoteAccessAndAudits : Obligations.ReductionsRemoteAccessAndAudits := by
  unfold Obligations.ReductionsRemoteAccessAndAudits
  exact ⟨⟨reductionUnitRx_spec, reductionAbandon_spec, remoteAccessTimeout_spec⟩, auditEdge_spec, remedy_spec⟩

end Sys2Proof.Machine
end

/-!
# The family 01_slot_journey.md: fronthaul transmission (O34)
-/

section
namespace Sys2Proof.Machine
open Sys2Proof Sys2Proof.Claims

variable {γ : Type} {p : State → γ} {s₀ s t : State}

/-! ### A latched source stays latched -/

/-- Attention source b of function f is latched. -/
def State.latched (s : State) (f b : Nat) : Bool := (s.getB f 0x1100 3).testBit b

theorem latched_putB {f b g i u v : Nat} (h : okey 0x1100 3 + f * 2 ^ 24 ≠ okey i u + g * 2 ^ 24) : (s.putB g i u v).latched f b = s.latched f b :=
  congrArg (·.testBit b) (getB_putB_ne s h)

theorem latch_latched (s : State) (f : Nat) {b : Nat} (hb : b < 255) : (s.latch f b).latched f b = true := by
  unfold State.latch State.bumpB
  rw [latched_putB (by unfold okey; omega), State.latched, getB_putB, Nat.testBit_or, Nat.testBit_two_pow_self, Bool.or_true]

theorem latched_latch {f b g c : Nat} (hc : c < 255) (h : s.latched f b = true) : (s.latch g c).latched f b = true := by
  unfold State.latch State.bumpB
  rw [latched_putB (by unfold okey; omega)]
  by_cases hg : f = g
  · subst hg
    rw [State.latched, getB_putB, Nat.testBit_or, Bool.or_eq_true]
    exact .inl h
  · rw [latched_putB (by omega)]
    exact h

theorem latched_ite {f b : Nat} {c : Prop} {inst : Decidable c} (hs : s.latched f b = true) (ht : t.latched f b = true) :
    (if c then s else t).latched f b = true := by
  split
  · exact hs
  · exact ht

theorem latched_latchChanges {f b g old new : Nat} (h : s.latched f b = true) : (s.latchChanges g old new).latched f b = true := by
  have step : ∀ {s : State} {c : Prop} {inst : Decidable c} {a : Nat}, s.latched f b = true → a < 255 → (if c then s.latch g a else s).latched f b = true :=
    fun h ha => latched_ite (latched_latch ha h) h
  exact step (step (step (step (step (step h (by decide)) (by decide)) (by decide)) (by decide)) (by decide)) (by decide)

theorem latched_settleF {f b g : Nat} (h : s.latched f b = true) : (s.settleF g).latched f b = true := by
  unfold State.settleF
  extract_lets old s1 new
  have h1 : s1.latched f b = true := latched_latchChanges h
  refine latched_ite h1 ?_
  unfold State.bumpB
  rw [latched_putB (by unfold okey; omega), latched_putB (by unfold okey; omega)]
  exact h1

theorem latched_settle {f b : Nat} (h : s.latched f b = true) : s.settle.latched f b = true := by
  unfold State.settle
  induction List.range 16 generalizing s with
  | nil => exact h
  | cons g r ih => exact ih (latched_settleF h)

theorem attend_latched (s : State) {b court : Nat} (hb : b < 255) : (s.attend b court).latched 0 b = true :=
  latched_settle (latched_ite (latched_latch hb (latch_latched s 0 hb)) (latch_latched s 0 hb))

/-! ### The header of a U-plane message -/

theorem natBits_add (a b x : Nat) : natBits (a + b) x = natBits a (x / 2 ^ b) ++ natBits b x := by
  unfold natBits
  rw [List.range_add, List.map_append, List.map_map]
  congr 1
  · refine List.map_congr_left fun i hi => ?_
    have hi := List.mem_range.1 hi
    rw [Nat.testBit_div_two_pow, show a + b - 1 - i = a - 1 - i + b by omega]
  · refine List.map_congr_left fun i hi => ?_
    rw [Function.comp, show a + b - 1 - (a + i) = b - 1 - i by omega]

theorem natBits_append {a b x y : Nat} (hy : y < 2 ^ b) : natBits a x ++ natBits b y = natBits (a + b) (x * 2 ^ b + y) := by
  have hx : (x * 2 ^ b + y) / 2 ^ b = x := by rw [Nat.mul_comm, Nat.mul_add_div (by positivity), Nat.div_eq_of_lt hy, Nat.add_zero]
  rw [natBits_add, hx]
  congr 1
  refine List.map_congr_left fun i hi => ?_
  have hi := List.mem_range.1 hi
  rw [Nat.mul_comm, Nat.testBit_two_pow_mul_add _ hy, if_pos (by omega)]

/-- The number that eight bits make, bit 7 first. -/
theorem foldl_bits8 (v : Nat) (l : List Bool) :
    (List.range 8).foldl (fun a i => if ((natBits 8 v ++ l)[i]?).getD false then a + 2 ^ (7 - i) else a) 0 = v % 256 := by
  have hbits : ∀ w : Fin 256, (List.range 8).foldl (fun a i => if w.val.testBit (7 - i) then a + 2 ^ (7 - i) else a) 0 = w.val := by decide +kernel
  refine Eq.trans ?_ (hbits ⟨v % 256, Nat.mod_lt _ (by decide)⟩)
  refine List.foldl_ext _ _ _ fun a i hi => ?_
  have hi := List.mem_range.1 hi
  have e : ((natBits 8 v ++ l)[i]?).getD false = (v % 2 ^ 8).testBit (7 - i) := by
    rw [List.getElem?_append_left (by simp [natBits, hi]), natBits, List.getElem?_map, List.getElem?_range hi, Nat.testBit_mod_two_pow,
      decide_eq_true (by omega : 7 - i < 8)]
    rfl
  exact if_congr (iff_of_eq (congrArg (· = true) e)) rfl rfl

theorem bytesOf_succ' (n x : Nat) : bytesOf (n + 1) x = bytesOf n x ++ [BitVec.ofNat 8 (x / 256 ^ n)] := by
  induction n generalizing x with
  | zero => simp [bytesOf]
  | succ n ih => rw [bytesOf, ih, bytesOf, List.cons_append, Nat.div_div_eq_div_mul, Nat.pow_succ']

theorem bytesBe_succ (n x : Nat) : bytesBe (n + 1) x = BitVec.ofNat 8 (x / 256 ^ n) :: bytesBe n x := by
  simp [bytesBe, bytesOf_succ']

theorem bytesOfBits_natBits (n x k : Nat) (l : List Bool) : bytesOfBits (n + k) (natBits (8 * n) x ++ l) = bytesBe n x ++ bytesOfBits k l := by
  induction n with
  | zero => rw [Nat.zero_add]; rfl
  | succ n ih =>
    have hb : natBits (8 * (n + 1)) x = natBits 8 (x / 256 ^ n) ++ natBits (8 * n) x := by
      rw [show 8 * (n + 1) = 8 + 8 * n by omega, natBits_add, Nat.pow_mul]
    have hd : ((natBits 8 (x / 256 ^ n) ++ (natBits (8 * n) x ++ l)).drop 8) = natBits (8 * n) x ++ l := List.drop_left' (by simp [natBits])
    rw [show n + 1 + k = n + k + 1 by omega, hb, List.append_assoc, bytesOfBits, if_neg (by simp [natBits]), hd, ih, foldl_bits8, bytesBe_succ, List.cons_append]
    exact congrArg (· :: _) (BitVec.eq_of_toNat_eq (by simp))

theorem bytesOfBits_nil (k : Nat) : bytesOfBits k [] = [] := by
  cases k with
  | zero => rfl
  | succ k => exact if_pos rfl

/-- The application header and the section header of a U-plane message (Table 16.2): two words of 32 bits. -/
theorem uplaneHeader {fn sf sl sy sect u n : Nat} (hfn : fn < 256) (hsf : sf < 16) (hsl : sl < 64) (hsy : sy < 16) (hu : u < 1024) (hn : n < 256) :
    packMsb (natBits 1 1 ++ natBits 3 1 ++ natBits 4 0 ++ natBits 8 fn ++ natBits 4 sf ++ natBits 6 sl ++ natBits 6 sy
        ++ natBits 12 sect ++ natBits 1 0 ++ natBits 1 0 ++ natBits 10 u ++ natBits 8 n)
      = bytesBe 4 (2 ^ 31 + 2 ^ 28 + fn * 2 ^ 16 + sf * 2 ^ 12 + sl * 2 ^ 6 + sy) ++ bytesBe 4 (sect * 2 ^ 20 + u * 2 ^ 8 + n) := by
  have h1 : natBits 1 1 ++ natBits 3 1 ++ natBits 4 0 ++ natBits 8 fn ++ natBits 4 sf ++ natBits 6 sl ++ natBits 6 sy
      = natBits 32 (2 ^ 31 + 2 ^ 28 + fn * 2 ^ 16 + sf * 2 ^ 12 + sl * 2 ^ 6 + sy) := by
    rw [natBits_append (by omega), natBits_append (by omega), natBits_append (by omega), natBits_append (by omega), natBits_append (by omega),
      natBits_append (by omega)]
    refine congrArg (natBits 32) ?_
    omega
  have h2 : natBits 12 sect ++ (natBits 1 0 ++ (natBits 1 0 ++ (natBits 10 u ++ natBits 8 n))) = natBits 32 (sect * 2 ^ 20 + u * 2 ^ 8 + n) := by
    rw [natBits_append (by omega), natBits_append (by omega), natBits_append (by omega), natBits_append (by omega)]
    refine congrArg (natBits 32) ?_
    omega
  have h3 := bytesOfBits_natBits 4 (2 ^ 31 + 2 ^ 28 + fn * 2 ^ 16 + sf * 2 ^ 12 + sl * 2 ^ 6 + sy) 61
    (natBits 32 (sect * 2 ^ 20 + u * 2 ^ 8 + n))
  have h4 := bytesOfBits_natBits 4 (sect * 2 ^ 20 + u * 2 ^ 8 + n) 57 []
  rw [h1, List.append_assoc, List.append_assoc, List.append_assoc, List.append_assoc, h2, packMsb, List.length_append, natBits, natBits,
    List.length_map, List.length_map, List.length_range]
  rw [List.append_nil, bytesOfBits_nil, List.append_nil] at h4
  exact h3.trans (by rw [show 61 = 4 + 57 by rfl]; exact congrArg _ h4)

/-! ### The opening of a transmit window -/

/-- The state in which the transmit window of symbol k of an order has opened. -/
def State.trying (s : State) (id k : Nat) : State := s.setOrder id { s.order id with tried := (s.order id).tried ||| BitVec.ofNat 14 (2 ^ k) }

theorem trying_order (s : State) (id k : Nat) :
    (s.trying id k).order id = { s.order id with tried := (s.order id).tried ||| BitVec.ofNat 14 (2 ^ k) } := by
  rw [State.trying, order_setOrder, if_pos rfl]

theorem trying_symbolDone (s : State) (id k : Nat) : (s.trying id k).symbolDone id k = s.symbolDone id k := by
  rw [State.symbolDone, trying_order]
  rfl

theorem trying_chunkHomes (s : State) (id k : Nat) (y : Job) : (s.trying id k).chunkHomes y = s.chunkHomes y := by
  unfold State.chunkHomes
  by_cases h : y.order = id
  · rw [h, trying_order]
    rfl
  · rw [show (s.trying id k).order y.order = s.order y.order from (order_setOrder ..).trans (if_neg h)]
    rfl

theorem trying_missingHomes (s : State) (id k : Nat) : (s.trying id k).missingHomes id k = s.missingHomes id k := by
  unfold State.missingHomes
  rw [trying_order]
  simp only [trying_chunkHomes]
  rfl

theorem getLsbD_orSymbol {k : Nat} (x : BitVec 14) (hk : k < 14) : (x ||| BitVec.ofNat 14 (2 ^ k)).getLsbD k = true := by
  rw [BitVec.getLsbD_or, BitVec.getLsbD_ofNat, Nat.testBit_two_pow_self, decide_eq_true hk, Bool.and_true, Bool.or_true]

theorem dlOrderOf_lt {c n id k : Nat} (h : s.dlOrderOf c n = some (id, k)) : k < 14 := by
  unfold State.dlOrderOf at h
  obtain ⟨e, -, he⟩ := List.exists_of_findSome?_eq_some h
  split at he
  · obtain ⟨i, hi, hk⟩ := Option.map_eq_some_iff.1 he
    have hi := List.mem_range.1 (List.mem_of_find?_eq_some hi)
    obtain ⟨-, rfl⟩ := Prod.mk.inj hk
    exact hi
  · cases he

/-- The window of a symbol of a live order opens for the first time (R19, R256). -/
theorem txWindowOpen_order {c : Fin 32} {sym : BitVec 32} {blocked : BitVec 16} {id k : Nat} (hd : s.carDl c = true)
    (ho : s.passed (s.carTb c) (s.dlOpen c sym.toNat) = true) (hx : s.passed (s.carTb c) (s.dlClose c sym.toNat) = false)
    (hf : s.dlOrderOf c sym.toNat = some (id, k)) (ht : (s.order id).tried.getLsbD k = false) :
    execTxWindowOpen c sym blocked s =
      let s1 := s.trying id k
      if s.cut ∨ s1.symbolDone id k = false then .next (s1.symbolLost id k 3)
      else if s1.missingHomes id k ≠ [] then .next (s1.symbolUnfed id k)
      else if s1.slotSymbol c true sym.toNat ≠ sym.toNat ∨ s1.removedMember then .next s1
      else
        let m := s1.symbolMsgs c sym.toNat (runStart (orSymbols (s.order id).body) k) (s1.txUnits c sym.toNat)
        .next (m.1.sendMsgs c sym.toNat blocked m.2) := by
  unfold execTxWindowOpen
  extract_lets c' n tb
  rw [if_neg (by simp [c', n, tb, hd, ho, hx]), show s.dlOrderOf c' n = some (id, k) from hf]
  exact if_neg (by simp [ht])

/-- What the loss of a symbol leaves alone. -/
def State.symbolRest (s : State) : Tbl Order × List Out × List Host.Cell := (s.orders, s.out, s.mem)

theorem symbolRest_dictless : Dictless State.symbolRest := ⟨fun _ _ _ _ => rfl, fun _ _ _ _ _ => rfl⟩

theorem tracked_txIx (c : Fin 32) : Tracked (okey (0x4120 + c.val) 4) := by
  revert c
  decide

theorem symbolLost_spec {id k cause : Nat} {c : Fin 32} (hk : k < 14) (hc : s.cut = false) (ho : (s.order id).carrier = c.val) :
    ((s.symbolLost id k cause).order id).symbols.getLsbD k = true ∧ ((s.symbolLost id k cause).order id).tried = (s.order id).tried
      ∧ (s.symbolLost id k cause).get (0x4120 + c) 4 = (s.get (0x4120 + c) 4 + 1) % 2 ^ 32
      ∧ (s.symbolLost id k cause).out = s.out ∧ (s.symbolLost id k cause).mem = s.mem := by
  unfold State.symbolLost
  extract_lets o c' l o1 s1
  have htried : o1.tried = o.tried :=
    foldl_keeps (fun (o : Order) (w : Codeword) => o.putWord { w with status := 2, cause := cause }) Order.tried (fun _ _ => rfl) l o
  have hlate : Same State.symbolRest s1 (s1.lateEvent (s.carrierCourt c')) := Same.refl.lateEvent symbolRest_dictless
  obtain ⟨hord, hout, hmem⟩ : _ ∧ _ ∧ _ := by simpa only [State.symbolRest, Prod.mk.injEq] using hlate.rest
  have hx : (s1.lateEvent (s.carrierCourt c')).order id = { o1 with symbols := o1.symbols ||| BitVec.ofNat 14 (2 ^ k) } := by
    rw [State.order, hord]
    exact (order_setOrder s id id _).trans (if_pos rfl)
  have hcount : s1.get (0x4120 + c) 4 = (s.get (0x4120 + c) 4 + 1) % 2 ^ 32 := ho ▸ get_bump _ _ _
  rw [if_neg (by simp [hc]), hx]
  exact ⟨getLsbD_orSymbol _ hk, htried, (hlate.get (tracked_txIx c)).trans hcount, hout, hmem⟩

/-- What a packet to another chip leaves alone. -/
def State.packetRest (s : State) : Tbl Order × Power × List Host.Cell := (s.orders, s.power, s.mem)

theorem packetRest_linkless : Linkless State.packetRest where
  put _ _ _ _ := rfl
  putB _ _ _ _ _ := rfl
  out _ _ := rfl
  mgl _ _ := rfl

theorem symbolUnfed_spec {id k : Nat} {c : Fin 32} (hk : k < 14) (hc : s.cut = false) (ho : (s.order id).carrier = c.val) :
    ((s.symbolUnfed id k).order id).symbols.getLsbD k = true
      ∧ (s.symbolUnfed id k).get (0x4120 + c) 4 = (s.get (0x4120 + c) 4 + 1) % 2 ^ 32 ∧ (s.symbolUnfed id k).mem = s.mem := by
  unfold State.symbolUnfed
  extract_lets b s1
  have hs : Same State.packetRest s s1 := Same.refl.foldl fun _ h => h.sendMgl packetRest_linkless
  obtain ⟨hord, hpow, hmem⟩ : _ ∧ _ ∧ _ := by simpa only [State.packetRest, Prod.mk.injEq] using hs.rest
  have hcut : s1.cut = s.cut := by rw [State.cut, State.cut, hs.get (by decide), hpow]
  obtain ⟨hsym, -, hcount, -, hm⟩ := symbolLost_spec (s := s1) (cause := 6) hk (hcut.trans hc) (by rw [State.order, hord]; exact ho)
  exact ⟨hsym, by rw [hcount, hs.get (tracked_txIx c)], hm.trans hmem⟩

theorem length_memBytes (m : List Host.Cell) (n a : Nat) : (memBytes m n a).length = n := by
  induction n generalizing a with
  | zero => rfl
  | succ n ih => rw [memBytes, List.length_cons, ih]

theorem length_bytesBe (n x : Nat) : (bytesBe n x).length = n := by
  rw [bytesBe, List.length_reverse, Tests.length_bytesOf]

/-- The U-plane message of one unit (Table 16.2). -/
theorem uplaneMsg_one {c sym sect u : Nat} (hu : u < 1024) :
    s.uplaneMsg c sym 0 sect (u, 1) =
      let air := s.airOf (s.carTb c) (s.symStartTc (s.carTb c) sym)
      let e := s.car c 6 % 65536
      let P := prbBytes (s.carWidth c true)
      let a := if s.tdOn c then s.blockAddr c true sym 0 u else s.prbAddr c true sym 0 u
      ({ s with ecpriSeq := Tbl.set 0 s.ecpriSeq (e * 4 + 2) ((Tbl.get 0 s.ecpriSeq (e * 4 + 2) + 1) % 256) },
        [0x10#8, 0#8] ++ bytesBe 2 (12 + P) ++ bytesBe 2 e ++ [BitVec.ofNat 8 (Tbl.get 0 s.ecpriSeq (e * 4 + 2)), 0x80#8]
          ++ bytesBe 4 (2 ^ 31 + 2 ^ 28 + apSfn air % 256 * 2 ^ 16 + apSf air * 2 ^ 12 + apSlot air * 2 ^ 6 + apSym air)
          ++ bytesBe 4 (sect * 2 ^ 20 + u * 2 ^ 8 + 1) ++ memBytes s.mem P a) := by
  unfold State.uplaneMsg
  extract_lets tb air id q P a hdr air' e P'
  have hh : hdr = bytesBe 4 (2 ^ 31 + 2 ^ 28 + apSfn air % 256 * 2 ^ 16 + apSf air * 2 ^ 12 + apSlot air * 2 ^ 6 + apSym air)
      ++ bytesBe 4 (sect * 2 ^ 20 + u * 2 ^ 8 + 1) :=
    uplaneHeader (Nat.mod_lt _ (by decide)) (Nat.mod_lt _ (by decide)) (Nat.mod_lt _ (by decide)) (Nat.mod_lt _ (by decide)) hu (n := 1) (by decide)
  have hq : q.2 = [BitVec.ofNat 8 (Tbl.get 0 s.ecpriSeq (e * 4 + 2)), 0x80#8] := rfl
  have hl : (bytesBe 2 id ++ q.2 ++ hdr ++ memBytes s.mem P a).length = 12 + P := by
    rw [hh, hq]
    simp only [List.length_append, length_memBytes, length_bytesBe, List.length_cons, List.length_nil]
  have h0 : [0x10#8] ++ bytesOf 1 0 = [0x10#8, 0#8] := rfl
  refine Prod.ext rfl ?_
  rw [Nat.one_mul, ecpriMsg, hl, h0, hh, hq]
  simp only [List.append_assoc]
  rfl

theorem symbolMsgs_one {c sym sect u : Nat} {units : Nat → List Nat} (hp : s.localPorts c = 1) (hu : units 0 = [u]) :
    s.symbolMsgs c sym sect units = ((s.uplaneMsg c sym 0 sect (u, 1)).1, [(s.portOf c 0, (s.uplaneMsg c sym 0 sect (u, 1)).2)]) := by
  unfold State.symbolMsgs
  rw [hp, List.range_one, List.foldl_cons, List.foldl_nil, hu]
  rfl

theorem sendMsgs_one {c sym q : Nat} {b : List Byte} (h : s.get (0x2200 + q) 4 = 1) : s.sendMsgs c sym 0#16 [(q, b)] = s.emit (.data 4 q b) := by
  unfold State.sendMsgs
  rw [List.foldl_cons, List.foldl_nil, if_neg (by simp [h])]

section
variable {c : Fin 32} {sym : BitVec 32} {id k : Nat} (hd : s.carDl c = true) (ho : s.passed (s.carTb c) (s.dlOpen c sym.toNat) = true)
  (hx : s.passed (s.carTb c) (s.dlClose c sym.toNat) = false) (hf : s.dlOrderOf c sym.toNat = some (id, k))
  (ht : (s.order id).tried.getLsbD k = false) (hc : s.cut = false)
include hd ho hx hf ht hc

theorem txWindowOpen_incomplete (hdone : s.symbolDone id k = false) (hcar : (s.order id).carrier = c.val) :
    ∃ t, exec (.txWindowOpen c sym 0#16) s = .next t ∧ (t.order id).symbols.getLsbD k = true ∧ (t.order id).tried.getLsbD k = true
      ∧ t.get (0x4120 + c) 4 = (s.get (0x4120 + c) 4 + 1) % 2 ^ 32 ∧ t.out = s.out ∧ t.mem = s.mem := by
  have e : exec (.txWindowOpen c sym 0#16) s = .next ((s.trying id k).symbolLost id k 3) := by
    refine (txWindowOpen_order hd ho hx hf ht).trans (if_pos (.inr ?_))
    rw [trying_symbolDone, hdone]
  have hk := dlOrderOf_lt hf
  obtain ⟨h1, h2, h3, h4, h5⟩ := symbolLost_spec (s := s.trying id k) (cause := 3) hk hc (by rw [trying_order]; exact hcar)
  refine ⟨_, e, h1, ?_, h3, h4, h5⟩
  rw [h2, trying_order]
  exact getLsbD_orSymbol _ hk

theorem txWindowOpen_unfed (hdone : s.symbolDone id k = true) (hm : s.missingHomes id k ≠ []) (hcar : (s.order id).carrier = c.val) :
    ∃ t, exec (.txWindowOpen c sym 0#16) s = .next t ∧ (t.order id).symbols.getLsbD k = true
      ∧ t.get (0x4120 + c) 4 = (s.get (0x4120 + c) 4 + 1) % 2 ^ 32 ∧ t.mem = s.mem := by
  have e : exec (.txWindowOpen c sym 0#16) s = .next ((s.trying id k).symbolUnfed id k) := by
    refine (txWindowOpen_order hd ho hx hf ht).trans ((if_neg ?_).trans (if_pos ?_))
    · rw [trying_symbolDone, hdone, show s.cut = false from hc]
      decide
    · rwa [trying_missingHomes]
  obtain ⟨h1, h2, h3⟩ := symbolUnfed_spec (s := s.trying id k) (dlOrderOf_lt hf) hc (by rw [trying_order]; exact hcar)
  exact ⟨_, e, h1, h2, h3⟩

theorem txWindowOpen_one (u : Nat) (hdone : s.symbolDone id k = true) (hm : s.missingHomes id k = []) (hr : s.removedMember = false)
    (hslot : s.slotSymbol c true sym.toNat = sym.toNat) (hp : s.localPorts c = 1) (hunits : s.txUnits c sym.toNat 0 = [u])
    (hport : s.get (0x2200 + s.portOf c 0) 4 = 1) :
    exec (.txWindowOpen c sym 0#16) s =
      .next (((s.trying id k).uplaneMsg c sym.toNat 0 (runStart (orSymbols (s.order id).body) k) (u, 1)).1.emit (.data 4 (s.portOf c 0)
        ((s.trying id k).uplaneMsg c sym.toNat 0 (runStart (orSymbols (s.order id).body) k) (u, 1)).2)) := by
  refine (txWindowOpen_order hd ho hx hf ht).trans ((if_neg ?_).trans ((if_neg ?_).trans ((if_neg ?_).trans ?_)))
  · rw [trying_symbolDone, hdone, show s.cut = false from hc]
    decide
  · rw [trying_missingHomes, hm]
    decide
  · rw [show (s.trying id k).slotSymbol c true sym.toNat = sym.toNat from hslot, show (s.trying id k).removedMember = false from hr]
    simp
  · have hmsgs := symbolMsgs_one (s := s.trying id k) (sym := sym.toNat) (sect := runStart (orSymbols (s.order id).body) k)
      (units := (s.trying id k).txUnits c sym.toNat) hp hunits
    refine congrArg Host.Outcome.next ?_
    rw [hmsgs]
    exact sendMsgs_one hport

end

/-! ### The close of a transmit window and the C-plane -/

/-- What a status latch leaves alone of what the close of a window works on. -/
def State.closeRest (s : State) : Tbl Core × List TxHeld × List Out × List Host.Cell := (s.cores, s.txHeld, s.out, s.mem)

theorem closeRest_dictless : Dictless State.closeRest := ⟨fun _ _ _ _ => rfl, fun _ _ _ _ _ => rfl⟩

theorem tracked_missedIx {q : Nat} (h : q < 16) : Tracked (okey (0x2200 + q) 0x0B) := by
  revert q
  decide

/-- The close of a window on whose symbol one port's messages are held, while no engine waits for a slot. -/
theorem txWindowClose_one {c : Fin 32} {sym : BitVec 32} {h : TxHeld} (hd : s.carDl c = true)
    (hx : s.passed (s.carTb c) (s.dlClose c sym.toNat) = true) (hh : s.txHeld = [h]) (hc : h.carrier = c.val) (hs : h.sym = sym.toNat)
    (hw : ∀ m < 64, ∀ e < 4, ∀ l x, ((s.core m).curCtx.engine e).wait ≠ .slot l x) :
    execTxWindowClose c sym s =
      .next ((({ s with txHeld := [] } : State).bumpBy (0x2200 + h.port) 0x0B h.msgs.length).lateEvent (s.carrierCourt c)) := by
  unfold execTxWindowClose
  extract_lets c' n lost s1 s2 s3 waiters
  have hmine : (h.carrier == c' && h.sym == n) = true := by simp [c', n, hc, hs]
  have hlost : lost = [h] := by simp [lost, hh, hmine]
  have h1 : s1 = { s with txHeld := [] } := by simp [s1, hh, c', n, hc, hs]
  have h2 : s2 = s1.bumpBy (0x2200 + h.port) 0x0B h.msgs.length := by simp only [s2, hlost, List.foldl_cons, List.foldl_nil]
  have h3 : s3 = s2.lateEvent (s.carrierCourt c) := if_neg (by simp [hlost])
  have hcores : s3.cores = s.cores := by
    rw [h3, h2, h1]
    exact congrArg Prod.fst (Same.refl.lateEvent closeRest_dictless).rest
  have hwait : waiters = [] := by
    refine List.flatMap_eq_nil_iff.2 fun m hm => List.filterMap_eq_nil_iff.2 fun e he => ?_
    have hne := hw m (List.mem_range.1 hm) e (List.mem_range.1 he)
    rw [show s3.core m = s.core m by rw [State.core, State.core, hcores]]
    split
    · exact absurd ‹_› (hne _ _)
    · rfl
  rw [if_neg (by simp [c', n, hd, hx]), hwait, List.foldl_nil, h3, h2, h1]

theorem txWindowClose_spec (c : Fin 32) (sym : BitVec 32) (s : State) (h : TxHeld) (hd : s.carDl c = true)
    (hx : s.passed (s.carTb c) (s.dlClose c sym.toNat) = true) (hh : s.txHeld = [h]) (hc : h.carrier = c.val) (hs : h.sym = sym.toNat) (hp : h.port < 16)
    (hw : ∀ m < 64, ∀ e < 4, ∀ l x, ((s.core m).curCtx.engine e).wait ≠ .slot l x) :
    ∃ t, exec (.txWindowClose c sym) s = .next t ∧ t.txHeld = [] ∧ t.get (0x2200 + h.port) 0x0B = (s.get (0x2200 + h.port) 0x0B + h.msgs.length) % 2 ^ 32
      ∧ (t.getB 0 0x1100 3).testBit 3 = true ∧ t.mem = s.mem ∧ t.out = s.out ∧ t.cores = s.cores := by
  obtain ⟨t, ht, hset⟩ : ∃ t, t = (({ s with txHeld := [] } : State).bumpBy (0x2200 + h.port) 0x0B h.msgs.length).lateEvent (s.carrierCourt c)
      ∧ exec (.txWindowClose c sym) s = .next t := ⟨_, rfl, txWindowClose_one hd hx hh hc hs hw⟩
  have hlate : Same State.closeRest (({ s with txHeld := [] } : State).bumpBy (0x2200 + h.port) 0x0B h.msgs.length) t :=
    ht ▸ Same.refl.lateEvent closeRest_dictless
  obtain ⟨hcores, hheld, hout, hmem⟩ : _ ∧ _ ∧ _ ∧ _ := by simpa only [State.closeRest, Prod.mk.injEq] using hlate.rest
  exact ⟨t, hset, hheld, (hlate.get (tracked_missedIx hp)).trans (get_bumpBy _ _ _ _), ht ▸ attend_latched _ (by decide), hmem, hout, hcores⟩

theorem cplaneTx_spec (s : State) (r : CRun) (hr : s.cplane = [r]) (he : r.earliest ≤ (s.tb (s.carTb r.carrier)).tc) (hc : s.cut = false)
    (hn : r.next + 1 < s.localPorts r.carrier) (h3 : r.stype ≠ 3) :
    let e := (s.car r.carrier 6 + r.next) % 65536
    let k := e * 4 + (if r.dl then 2 else 0) + 1
    ∃ t, exec .cplaneTx s = .next t ∧ t.cplane = [{ r with next := r.next + 1 }]
      ∧ t.out = s.out ++ [.data 4 (s.portOf r.carrier r.next) ([0x10#8, 2#8] ++ bytesBe 2 (4 + r.body.length) ++ bytesBe 2 e ++ [BitVec.ofNat 8 (Tbl.get 0 s.ecpriSeq k), 0x80#8] ++ r.body)]
      ∧ t.mem = s.mem ∧ t.obj = s.obj := by
  intro e k
  have hfind : (s.cplane.find? fun r => decide (r.earliest ≤ ((s.tb (s.carTb r.carrier)).tc : Int))) = some r := by simp [hr, he]
  have hk : e * 4 + (if r.dl then 1 else 0) * 2 + 1 = k := by
    cases h : r.dl <;> simp [k, h]
  have hrest : s.cplane.erase r = [] := by simp [hr]
  show ∃ t, execCplaneTx s = .next t ∧ _
  unfold execCplaneTx
  rw [hfind]
  dsimp only
  rw [if_neg (by simp [hc]), if_pos (.inl h3), if_neg (by omega), hrest, if_neg (by simp; omega)]
  have hmsg : ecpriMsg 2 (bytesBe 2 e ++ [BitVec.ofNat 8 (Tbl.get 0 s.ecpriSeq (e * 4 + (if r.dl then 1 else 0) * 2 + 1)), 0x80#8] ++ r.body)
      = [0x10#8, 2#8] ++ bytesBe 2 (4 + r.body.length) ++ bytesBe 2 e ++ [BitVec.ofNat 8 (Tbl.get 0 s.ecpriSeq k), 0x80#8] ++ r.body := by
    have h0 : [0x10#8] ++ bytesOf 1 2 = [0x10#8, 2#8] := rfl
    have hl : ∀ x y : Byte, (bytesBe 2 e ++ [x, y] ++ r.body).length = 4 + r.body.length := fun x y => by
      simp only [List.length_append, length_bytesBe, List.length_cons, List.length_nil]
    rw [ecpriMsg, hk, hl, h0]
    simp only [List.append_assoc]
  exact ⟨_, rfl, rfl, congrArg (fun b => s.out ++ [Out.data 4 (s.portOf r.carrier r.next) b]) hmsg, rfl, rfl⟩

/-- Settles O34: the opening of a transmit window by the three ends that an untried symbol's window has (`txWindowOpen_order`), then its close and the
C-plane's next message. -/
theorem fronthaulTransmission : Obligations.FronthaulTransmission := by
  unfold Obligations.FronthaulTransmission
  refine ⟨fun c sym s id k => ?_, txWindowClose_spec, cplaneTx_spec⟩
  intro n o hd ho hx hf ht
  refine ⟨txWindowOpen_incomplete hd ho hx hf ht, txWindowOpen_unfed hd ho hx hf ht, fun u hu hc hdone hm hr hslot hp hunits hport => ?_⟩
  have hmsg := uplaneMsg_one (s := s.trying id k) (c := c) (sym := n) (sect := runStart (orSymbols o.body) k) hu
  refine ⟨_, txWindowOpen_one hd ho hx hf ht hc u hdone hm hr hslot hp hunits hport, ?_⟩
  rw [hmsg]
  refine ⟨rfl, ?_, rfl, rfl⟩
  exact (Tbl.get_set ..).trans (if_pos rfl)

end Sys2Proof.Machine
end

/-!
# The family 01_slot_journey.md: heartbeats, idle Rallies and channels, the freeze point and the Serve time (O37)
-/

section
namespace Sys2Proof.Machine
open Sys2Proof Sys2Proof.Claims

variable {γ : Type} {p : State → γ} {s₀ s t : State}

/-! ### Rings of the host -/

/-- A part of the state that holds neither the functions' registers nor what leaves the chip. -/
structure Ringless (p : State → γ) : Prop where
  out : ∀ s o, p { s with out := o } = p s
  funcs : ∀ s f, p { s with funcs := f } = p s

theorem ringWrite_keeps (hout : ∀ s o, p { s with out := o } = p s) (base unit cap pos : Nat) (b : List Byte) :
    p (s.ringWrite base unit cap pos b) = p s := by
  unfold State.ringWrite
  extract_lets q room
  split
  · exact hout s _
  · exact (hout _ _).trans (hout s _)

theorem hostWrite_keeps (hout : ∀ s o, p { s with out := o } = p s) (a : Nat) (b : List Byte) : p (s.hostWrite a b) = p s := by
  unfold State.hostWrite
  split
  · rfl
  · exact hout s _

theorem advanceDev_keeps (hp : Ringless p) (f q n : Nat) : p (s.advanceDev f q n) = p s := by
  unfold State.advanceDev
  extract_lets r d s1 s2
  have h2 : p s2 = p s := by
    have h1 : p s1 = p s := hp.funcs s _
    refine Eq.trans ?_ h1
    exact (apply_ite p _ _ _).trans (ite_eq_left_iff.2 fun _ => hp.out _ _)
  split
  · split
    · exact (hp.funcs s2 _).trans h2
    · exact h2
  · exact h2

theorem replyEntry_keeps (hp : Ringless p) (f : Nat) (b : List Byte) : p (s.replyEntry f b) = p s :=
  (advanceDev_keeps hp f 1 1).trans (ringWrite_keeps hp.out _ _ _ _ _)

theorem func_setFunc (f : Nat) (x : Func) : (s.setFunc f x).func f = x :=
  (Tbl.get_set ..).trans (if_pos rfl)

theorem ring_setRing (f q : Nat) (r : Ring) : (s.setRing f q r).ring f q = r := by
  rw [State.ring, State.setRing, func_setFunc]
  exact (Tbl.get_set ..).trans (if_pos rfl)

theorem advanceDev_ring (f q n : Nat) : (s.advanceDev f q n).ring f q = { s.ring f q with dev := (s.ring f q).dev + BitVec.ofNat 32 n } := by
  unfold State.advanceDev
  extract_lets r d s1 s2
  have h2 : s2.ring f q = { r with dev := d } := by
    refine (apply_ite (State.ring · f q) _ _ _).trans ?_
    rw [show (s1.emit (.data 2 ((s1.func f).statusAddr + 4 * q) (bytesOf 4 d.toNat))).ring f q = s1.ring f q from rfl, ite_self, ring_setRing]
  split
  · split
    · rw [State.ring, func_setFunc]
      exact h2
    · exact h2
  · exact h2

/-! ### Channels and heartbeats -/

theorem chan_live (s : State) (k : Nat) : (s.chan k).live = true := by
  unfold State.chan
  extract_lets c
  split
  · assumption
  · rfl

theorem chan_setChan (s : State) (k : Nat) {c : Chan} (h : c.live = true) : (s.setChan k c).chan k = c := by
  have hk : Tbl.get {} (s.setChan k c).chans k = c := (Tbl.get_set ..).trans (if_pos rfl)
  rw [State.chan, hk]
  exact if_pos h

/-- All that `quiet` speaks of. -/
def State.quietRest (s : State) : Tbl Core × List Host.Cell × Tbl Job × Tbl Order × Tbl Tally × Tbl TimeBase × List Rally :=
  (s.cores, s.mem, s.jobs, s.orders, s.tallies, s.tbs, s.rallies)

theorem quietRest_ringless : Ringless State.quietRest := ⟨fun _ _ => rfl, fun _ _ => rfl⟩

theorem chans_ringless : Ringless State.chans := ⟨fun _ _ => rfl, fun _ _ => rfl⟩

theorem quiet_of_quietRest (h : t.quietRest = s.quietRest) : quiet s t := by
  simpa only [quiet, State.quietRest, Prod.mk.injEq] using h

/-- The reply to a function whose reply ring is enabled: its entry, perhaps with its payload before it. -/
theorem sendReply_ring {r : ReplyTo} {b : List Byte} (hk : r.chan < 16) (he : (s.ring r.chan 1).enabled = true) :
    ∃ w x, s.sendReply r b = w.replyEntry r.chan x ∧ (w = s ∨ w = s.hostWrite r.replyAddr (b.drop 16)) := by
  unfold State.sendReply
  extract_lets q
  rw [if_neg (by simp [he]), if_pos hk]
  refine ⟨_, _, rfl, ?_⟩
  split
  · exact .inr rfl
  · exact .inl rfl

/-- The state in which a subscription has taken the instant that its time base has reached. -/
def State.beaten (s : State) (k : Nat) : State := s.setChan k { s.chan k with beat := some (s.beatNow (s.chan k).tb (s.chan k).rate) }

theorem heartbeatDue_room {f : Fin 16} (hs : s.serving = true) (hr : (s.chan f).rate ≠ 0) (he : (s.tb (s.chan f).tb).enabled = true)
    (hb : (s.chan f).beat ≠ some (s.beatNow (s.chan f).tb (s.chan f).rate)) (hroom : s.replyRoom f = true) :
    ∃ b, execHeartbeatDue (.pcie f) s = .next ((s.beaten f).sendReply ⟨f, 0xFFFFFFFF, 0⟩ b) := by
  apply Exists.intro
  unfold execHeartbeatDue State.chanKey
  dsimp only
  rw [if_neg (by simp [hs, hr, he, hb]), if_neg]
  · rfl
  · exact fun h => absurd (hroom.symm.trans h.2) (by decide)

theorem heartbeatDue_spec (f : Fin 16) (s : State) :
    let c := s.chan f.val
    s.serving = true → c.rate ≠ 0 → (s.tb c.tb).enabled = true → c.beat ≠ some (s.beatNow c.tb c.rate) → s.replyRoom f.val = true →
    ∃ t, exec (.heartbeatDue (.pcie f)) s = .next t ∧ (t.chan f.val).beat = some (s.beatNow c.tb c.rate) ∧ (t.ring f.val 1).dev = (s.ring f.val 1).dev + 1#32
      ∧ quiet s t := by
  intro c hs hr he hb hroom
  have hring : (s.beaten f).ring f 1 = s.ring f 1 := rfl
  have hen : (s.ring f 1).enabled = true := (Bool.and_eq_true_iff.1 hroom).1
  obtain ⟨b, e⟩ := heartbeatDue_room hs hr he hb hroom
  obtain ⟨w, x, hw, hcase⟩ := sendReply_ring (s := s.beaten f) (r := ⟨f, 0xFFFFFFFF, 0⟩) (b := b) f.isLt ((congrArg Ring.enabled hring).trans hen)
  obtain ⟨hq, hc, hr⟩ : w.quietRest = s.quietRest ∧ w.chans = (s.beaten f).chans ∧ w.ring f 1 = s.ring f 1 := by
    rcases hcase with rfl | rfl
    · exact ⟨rfl, rfl, hring⟩
    · exact ⟨hostWrite_keeps (fun _ _ => rfl) _ _, hostWrite_keeps (fun _ _ => rfl) _ _,
        (hostWrite_keeps (p := (State.ring · f 1)) (fun _ _ => rfl) _ _).trans hring⟩
  rw [hw] at e
  refine ⟨w.replyEntry f x, e, ?_, ?_, quiet_of_quietRest ((replyEntry_keeps quietRest_ringless f x).trans hq)⟩
  · have hchan : (w.replyEntry f x).chan f = (s.beaten f).chan f := by rw [State.chan, State.chan, (replyEntry_keeps chans_ringless f x).trans hc]
    rw [hchan]
    exact congrArg Chan.beat (chan_setChan (c := { s.chan f with beat := some (s.beatNow c.tb c.rate) }) s f (chan_live s f))
  · unfold State.replyEntry
    rw [advanceDev_ring, ringWrite_keeps (p := (State.ring · f 1)) (fun _ _ => rfl), hr]

/-! ### Rallies that end unserved -/

/-- The Rallies, by what a Serve time and the end of a Rally do not go through. -/
theorem rallies_dictless : Dictless State.rallies := ⟨fun _ _ _ _ => rfl, fun _ _ _ _ _ => rfl⟩

theorem rallies_linkless : Linkless State.rallies where
  toDictless := rallies_dictless
  out _ _ := rfl
  mgl _ _ := rfl

theorem rallies_logless : Logless State.rallies where
  put _ _ _ _ := rfl
  putB _ _ _ _ _ := rfl
  putBlob _ _ _ _ := rfl
  store _ _ _ _ := rfl
  storeBytes _ _ _ := rfl
  setCore _ _ _ := rfl
  replay _ _ := rfl
  firm _ _ := rfl

/-- What the release of a Rally's loads leaves alone. -/
theorem releaseRallyLoads_keeps (hload : ∀ s l, p (State.cancelLoad s l) = p s) (hbench : ∀ s b, p { s with bench := b } = p s) (id : Nat) :
    p (s.releaseRallyLoads id) = p s := by
  unfold State.releaseRallyLoads
  extract_lets s1 u
  refine (hbench s1 _).trans ?_
  exact foldl_keeps (fun (s : State) l => s.cancelLoad l) p hload _ s

theorem mem_updRally {id : Nat} {f : Rally → Rally} {x : Rally} (hx : x ∈ (s.updRally id f).rallies) (hi : x.id = id) :
    ∃ r ∈ s.rallies, r.id = id ∧ x = f r := by
  obtain ⟨r, hr, rfl⟩ := List.mem_map.1 hx
  by_cases h : r.id = id
  · exact ⟨r, hr, h, if_pos h⟩
  · rw [if_neg h] at hi
    exact absurd hi h

theorem mem_trimHistory {scope : Nat} {x : Rally} (hx : x ∈ (s.trimHistory scope).rallies) : x ∈ s.rallies := by
  unfold State.trimHistory at hx
  split at hx
  · exact hx
  · exact List.mem_of_mem_eraseP hx

theorem trimHistory_obj (scope : Nat) : (s.trimHistory scope).obj = s.obj := by
  unfold State.trimHistory
  split <;> rfl

/-- An open Rally that ends, but for its trim of HISTORY, with a cause that is not the host's. -/
theorem endRally_opened {r : Rally} {c : Nat} (h : r.state = .opened) (hc : c ≠ 1) :
    s.endRally r .aborted c = (((s.updRally r.id fun x => { x with state := .aborted, cause := c }).releaseRallyLoads r.id).bumpB r.scope 0x1200 6
      |>.attend 5 (scopeCourt r.scope)).trimHistory r.scope := by
  unfold State.endRally
  extract_lets s0 s1 s2 s3
  have h0 : s0 = s := if_neg (by simp [h])
  have hd : s.dropActivation r = s := if_neg (by simp [Rally.pending, h])
  have h1 : s1 = s.updRally r.id fun x => { x with state := .aborted, cause := c } := by
    simp only [s1, h0, hd]
  have h3 : s3 = s2.attend 5 (scopeCourt r.scope) := if_neg hc
  rw [h3]
  simp only [s2, h1]
  rfl

theorem Same.toChips (hp : Linkless p) (h : Same p s₀ s) {mask kind : Nat} {b : List Byte} : Same p s₀ (s.toChips mask kind b) :=
  h.foldl fun _ h => .ite (h.sendMgl hp) h

/-- The object of a scope stands for whatever the device's own books do. -/
theorem tracked_scope (u b : Nat) (hu : u < 256) : Tracked (okey 0x1200 u + b * 2 ^ 24) := by
  have h : (okey 0x1200 u + b * 2 ^ 24) / 256 % 65536 = 0x1200 := by
    unfold okey
    omega
  rw [Tracked, h]
  rfl

/-- Channels and cores. -/
def State.chansCores (s : State) : Tbl Chan × Tbl Core := (s.chans, s.cores)

theorem chansCores_linkless : Linkless State.chansCores where
  put _ _ _ _ := rfl
  putB _ _ _ _ _ := rfl
  out _ _ := rfl
  mgl _ _ := rfl

section
variable {r : Rally} {c : Nat} (h : r.state = .opened) (hc : c ≠ 1)
include h hc

theorem abortOpen_aborted {x : Rally} (hx : x ∈ (s.abortOpen r c).rallies) (hi : x.id = r.id) : x.state = .aborted ∧ x.cause = c := by
  unfold State.abortOpen at hx
  rw [(Same.refl.toChips rallies_linkless).rest, endRally_opened h hc] at hx
  replace hx := mem_trimHistory hx
  rw [(Same.refl.attend rallies_dictless (by decide)).rest] at hx
  replace hx : x ∈ ((s.updRally r.id fun x => { x with state := .aborted, cause := c }).releaseRallyLoads r.id).rallies := hx
  rw [releaseRallyLoads_keeps (p := State.rallies) (fun _ _ => rfl) (fun _ _ => rfl)] at hx
  obtain ⟨y, -, -, rfl⟩ := mem_updRally hx hi
  exact ⟨rfl, rfl⟩

theorem abortOpen_count (s : State) : (s.abortOpen r c).getB r.scope 0x1200 6 = (s.getB r.scope 0x1200 6 + 1) % 2 ^ 32 := by
  unfold State.abortOpen
  rw [(Same.refl.toChips rallies_linkless).getB (tracked_scope 6 _ (by decide)), endRally_opened h hc, State.getB, trimHistory_obj]
  refine ((Same.refl.attend rallies_dictless (by decide)).getB (tracked_scope 6 _ (by decide))).trans ((getB_bumpB ..).trans ?_)
  rw [State.getB, releaseRallyLoads_keeps (p := State.obj) (fun _ _ => rfl) (fun _ _ => rfl)]
  rfl

theorem abortOpen_keeps (s : State) : (s.abortOpen r c).chansCores = s.chansCores := by
  unfold State.abortOpen
  have htrim : ∀ (s : State) (k : Nat), (s.trimHistory k).chansCores = s.chansCores := fun s k => by
    unfold State.trimHistory
    split <;> rfl
  rw [(Same.refl.toChips chansCores_linkless).rest, endRally_opened h hc, htrim, (Same.refl.attend chansCores_linkless.toDictless (by decide)).rest]
  exact releaseRallyLoads_keeps (s := s.updRally r.id fun x => { x with state := .aborted, cause := c }) (p := State.chansCores) (fun _ _ => rfl) (fun _ _ => rfl) r.id

end

theorem openRally_opened {scope : Nat} {r : Rally} (h : s.openRally scope = some r) : r.state = .opened := by
  have hr := List.find?_some h
  exact eq_of_beq (Bool.and_eq_true_iff.1 hr).2

theorem rallyIdleTimeout_spec (scope : Fin 17) (s : State) (r : Rally) (hr : s.openRally scope = some r)
    (hi : spansUs (s.getB scope 0x1200 1 * 1000) r.lastUse s.clock = true) (_ : r.scope ≤ 16) :
    ∃ t, exec (.rallyIdleTimeout scope) s = .next t ∧ (∀ x ∈ t.rallies, x.id = r.id → x.state = .aborted ∧ x.cause = 2)
      ∧ t.getB r.scope 0x1200 6 = (s.getB r.scope 0x1200 6 + 1) % 2 ^ 32 := by
  have ho := openRally_opened hr
  refine ⟨s.abortOpen r 2, ?_, fun x hx => abortOpen_aborted ho (by decide) hx, abortOpen_count ho (by decide) s⟩
  show execRallyIdleTimeout scope s = _
  unfold execRallyIdleTimeout
  rw [hr]
  exact congrArg _ (if_pos hi)

theorem closeChan_keeps (s : State) (key : Nat) : (s.closeChan key).chansCores = (Tbl.erase s.chans key, s.cores) := by
  unfold State.closeChan
  extract_lets s1
  refine (Same.refl.settle chansCores_linkless.toDictless).rest.trans ?_
  have hstep : ∀ (l : List Rally) (t : State), (∀ r ∈ l, r.state = .opened) → (l.foldl (fun (s : State) r => s.abortOpen r 3) t).chansCores = t.chansCores := by
    intro l
    induction l with
    | nil => exact fun _ _ => rfl
    | cons r l ih =>
      intro t hl
      rw [List.foldl_cons, ih _ fun x hx => hl x (by simp [hx]), abortOpen_keeps (hl r (by simp)) (by decide)]
  refine (hstep _ s1 fun r hr => ?_).trans rfl
  exact eq_of_beq (Bool.and_eq_true_iff.1 (List.mem_filter.1 hr).2).1

theorem mgmtChan_range {a key : Nat} (h : s.mgmtChan a = some key) : 16 ≤ key ∧ key < 24 := by
  have hk := List.mem_of_find?_eq_some h
  simp only [mgmtKeys, List.mem_cons, List.not_mem_nil, or_false] at hk
  omega

theorem mgmtIdleTimeout_spec (addr : BitVec 32) (port : BitVec 16) (s : State) (key : Nat) (hk : s.mgmtChan (sourceOf addr port) = some key)
    (hl : s.longSince (1000000 * s.get 0x1120 3) (s.chan key).lastUse = true) :
    ∃ t, exec (.mgmtIdleTimeout (.mgmt addr port)) s = .next t ∧ (Tbl.get {} t.chans key).live = false ∧ t.cores = s.cores := by
  obtain ⟨hchans, hcores⟩ := Prod.mk.inj (closeChan_keeps s key)
  obtain ⟨h1, h2⟩ := mgmtChan_range hk
  refine ⟨s.closeChan key, ?_, ?_, hcores⟩
  · show execMgmtIdleTimeout (.mgmt addr port) s = _
    unfold execMgmtIdleTimeout State.chanKey
    simp only [hk]
    rw [if_pos ⟨h1, h2, hl⟩]
  · rw [hchans, Tbl.get_erase, if_pos rfl]

/-! ### The freeze point -/

theorem foldl_updCore_cores (f : Core → Core) (l : List Nat) (s : State) : ∃ k, l.foldl (fun (s : State) n => s.updCore n f) s = { s with cores := k } := by
  induction l generalizing s with
  | nil => exact ⟨s.cores, rfl⟩
  | cons n l ih =>
    obtain ⟨k, hk⟩ := ih (s.updCore n f)
    exact ⟨k, hk⟩

theorem holdBanks_cores (s : State) : ∃ k, s.holdBanks = { s with cores := k } := foldl_updCore_cores Core.holdBank s.courtCores s

/-- A Rally that freezes: where it changes the special-function set, the banks are held. -/
def State.frozen (s : State) (r : Rally) : State := (if r.writesSf then s.holdBanks else s).updRally r.id fun x => { x with state := .frozen }

theorem freezeDue_one {r : Rally} (hp : s.pendingInOrder = [r]) (hr : s.rallyOf r.id = some r) (hst : r.state = .committed) (hsp : r.spans = false)
    (ha : s.atFreeze r = true) (hc : s.freezeCause r = 0) : s.freezeDue = s.frozen r := by
  have hdue : (s.pendingInOrder.filter fun r => r.state == .committed && s.atFreeze r) = [r] := by simp [hp, hst, ha]
  unfold State.freezeDue
  rw [hdue, List.foldl_cons, List.foldl_nil, hr, Option.elim_some, if_pos hst]
  unfold State.freezeOne
  rw [if_neg (by simp [hsp]), hc, if_pos rfl]
  rfl

theorem frozen_only (s : State) (r : Rally) :
    (∃ l k, s.frozen r = { s with rallies := l, cores := k }) ∧ (r.writesSf = false → (s.frozen r).cores = s.cores) := by
  unfold State.frozen
  by_cases h : r.writesSf = true
  · obtain ⟨k, hk⟩ := holdBanks_cores s
    rw [if_pos h, hk]
    exact ⟨⟨_, k, rfl⟩, fun h' => absurd (h.symm.trans h') (by decide)⟩
  · rw [if_neg h]
    exact ⟨⟨_, s.cores, rfl⟩, fun _ => rfl⟩

theorem freezePoint_spec (s : State) (r : Rally) (hp : s.pendingInOrder = [r]) (hr : s.rallyOf r.id = some r) (hst : r.state = .committed)
    (hsp : r.spans = false) (ha : s.reached r.tb ((s.tcOf r.tb r.serve + airPeriod - 98304) % airPeriod) = true) (hc : s.freezeCause r = 0) :
    ∃ t, exec .freezePoint s = .next t ∧ (∀ x ∈ t.rallies, x.id = r.id → x.state = .frozen) ∧ (∃ l k, t = { s with rallies := l, cores := k })
      ∧ (r.writesSf = false → t.cores = s.cores) := by
  obtain ⟨honly, hcores⟩ := frozen_only s r
  refine ⟨s.frozen r, congrArg _ (freezeDue_one hp hr hst hsp ha hc), fun x hx hi => ?_, honly, hcores⟩
  obtain ⟨y, -, -, rfl⟩ := mem_updRally hx hi
  rfl

/-! ### What follows from the values that a Serve time puts in force -/

theorem tbIx_book {n u : Nat} (hn : n < 8) : bookEntry (tbIx n % 65536) u = true := by
  interval_cases n <;> rfl

theorem Same.setTb (h : Same State.rallies s₀ s) {n : Nat} {x : TimeBase} : Same State.rallies s₀ (s.setTb n x) := h.upd rfl rfl

theorem Same.setTally (h : Same State.rallies s₀ s) {n : Nat} {x : Tally} : Same State.rallies s₀ (s.setTally n x) := h.upd rfl rfl

theorem Same.tbEnter (h : Same State.rallies s₀ s) {n : Nat} {x : TbState} {cause : Nat} (hn : n < 8) : Same State.rallies s₀ (s.tbEnter n x cause) := by
  unfold State.tbEnter
  extract_lets t s1
  have h1 : Same State.rallies s₀ s1 := h.put rallies_dictless (tbIx_book hn) (by decide)
  exact .ite h1 ((h1.setTb.bump rallies_dictless (tbIx_book hn) (by decide)).settle rallies_dictless)

theorem Same.tbStep (h : Same State.rallies s₀ s) {n : Nat} {d : Int} : Same State.rallies s₀ (s.tbStep n d) := by
  unfold State.tbStep
  extract_lets t less
  exact Same.foldl h.setTb fun _ h => .ite h.setTb h

theorem Same.tbAcquire (h : Same State.rallies s₀ s) {n : Nat} (hn : n < 8) : Same State.rallies s₀ (s.tbAcquire n) := by
  unfold State.tbAcquire
  extract_lets d _ s2 _ s1
  have h2 : Same State.rallies s₀ s2 := h.tbStep
  have h1 : Same State.rallies s₀ s1 := .ite h.setTb h2.setTb
  exact .ite (h1.tbEnter hn) (h1.tbEnter hn)

theorem Same.tbWait (h : Same State.rallies s₀ s) {n : Nat} (hn : n < 8) : Same State.rallies s₀ (s.tbWait n) := h.setTb.tbEnter hn

theorem Same.tbTake (h : Same State.rallies s₀ s) {n : Nat} (hn : n < 8) : Same State.rallies s₀ (s.tbTake n) := .ite (h.tbWait hn) (h.tbAcquire hn)

theorem Same.tbQualify (h : Same State.rallies s₀ s) {n : Nat} {b : Bool} {off : Int} (hn : n < 8) : Same State.rallies s₀ (s.tbQualify n b off) := by
  unfold State.tbQualify
  extract_lets t t1 s1
  have h1 : Same State.rallies s₀ s1 := h.setTb
  exact .ite h (.ite (.ite (h1.setTb.tbTake hn) h1) (.ite (h1.setTb.tbTake hn) h1))

theorem Same.toFallback (h : Same State.rallies s₀ s) {n : Nat} (hn : n < 8) : Same State.rallies s₀ (s.toFallback n) := by
  unfold State.toFallback
  extract_lets t s1 _ s2
  have h1 : Same State.rallies s₀ s1 := h.setTb
  have h2 : Same State.rallies s₀ s2 := h1.setTb
  exact .ite (h1.tbWait hn) (.ite (.ite (h2.tbEnter hn) h2) (h1.tbAcquire hn))

theorem Same.dropSource (h : Same State.rallies s₀ s) {n : Nat} {x : TbState} (hn : n < 8) : Same State.rallies s₀ (s.dropSource n x) :=
  .ite (h.toFallback hn) (.ite (h.setTb.tbEnter hn) (h.setTb.tbEnter hn))

theorem Same.tbLose (h : Same State.rallies s₀ s) {n : Nat} {b : Bool} (hn : n < 8) : Same State.rallies s₀ (s.tbLose n b) :=
  .ite h.setTb (h.setTb.dropSource hn)

theorem Same.followSync (h : Same State.rallies s₀ s) {n : Nat} (hn : n < 8) : Same State.rallies s₀ (s.followSync n) := by
  unfold State.followSync
  extract_lets up one
  have hone : ∀ {s b}, Same State.rallies s₀ s → Same State.rallies s₀ (one s b) := fun h =>
    .ite h (.ite (h.tbLose hn) (.ite h (h.tbQualify hn)))
  exact .ite (hone (hone h)) h

theorem Same.tbSettle (h : Same State.rallies s₀ s) {n : Nat} (hn : n < 8) : Same State.rallies s₀ (s.tbSettle n) := .ite (h.tbAcquire hn) h

theorem Same.followStates (h : Same State.rallies s₀ s) : Same State.rallies s₀ s.followStates :=
  h.foldl fun hn h => .ite (.ite h (h.tbEnter (List.mem_range.1 hn))) h

theorem Same.serveTb (h : Same State.rallies s₀ s) {old : State} {own : List Nat} {n : Nat} (hn : n < 8) : Same State.rallies s₀ (State.serveTb old own s n) := by
  unfold State.serveTb
  extract_lets on _ s1 d _ s2 st
  have h1 : Same State.rallies s₀ s1 := .ite (h.setTb.setTally.tbEnter hn) (.ite (h.setTb.tbEnter hn) (.ite h.setTb h))
  have h2 : Same State.rallies s₀ s2 := .ite h1.setTb h1
  exact .ite h2.setTb h2

theorem Same.serveAdapt (h : Same State.rallies s₀ s) {old : State} {own : List Nat} {k : Nat} (hk : k < 16) :
    Same State.rallies s₀ (State.serveAdapt s old own k) := by
  have hbook : ∀ u, bookEntry ((0x4060 + k) % 65536) u = true := fun u => by interval_cases k <;> rfl
  have hrestart : ∀ {s}, Same State.rallies s₀ s → Same State.rallies s₀ (s.adaptRestart k) := fun h =>
    Same.upd ((h.put rallies_dictless (hbook _) (by decide)).put rallies_dictless (hbook _) (by decide)) rfl rfl
  exact .ite (hrestart h) (.ite (hrestart (h.put rallies_dictless (hbook _) (by decide))) h)

theorem get_filter_of_forall {α : Type} (d : α) {q : Nat × α → Bool} {k : Nat} (hq : ∀ v, q (k, v) = true) (t : Tbl α) :
    Tbl.get d (t.filter q) k = Tbl.get d t k := by
  induction t with
  | nil => rfl
  | cons e t ih =>
    obtain ⟨i, v⟩ := e
    by_cases hi : i = k
    · subst hi
      rw [List.filter_cons_of_pos (hq v), Tbl.get_cons, Tbl.get_cons, if_pos rfl, if_pos rfl]
    · rw [Tbl.get_cons, if_neg hi, ← ih, List.filter_cons]
      split
      · rw [Tbl.get_cons, if_neg hi]
      · rfl

theorem Same.serveCore (h : Same State.rallies s₀ s) {n : Nat} (hn : n < 64) : Same State.rallies s₀ (s.serveCore n) := by
  refine ⟨h.rest, fun d k hk => ?_⟩
  refine (get_filter_of_forall d (fun v => ?_) s.obj).trans (h.obj d k hk)
  have hne : k / 256 ≠ 0x8000 + n := fun e => by
    have hb : bookEntry (k / 256 % 65536) (k % 256) = true := by
      rw [show k / 256 % 65536 = 0x8000 + n by omega]
      simp [bookEntry]
    exact absurd (hb.symm.trans hk) (by decide)
  simp [hne]

theorem Same.liftFence (h : Same State.rallies s₀ s) {grain object info : Nat} : Same State.rallies s₀ (s.liftFence grain object info) := by
  unfold State.liftFence
  split
  · have h1 : Same State.rallies s₀ { s with fences := s.fences.filter fun x => !(x.grain == grain && x.object == object) } := h.upd rfl rfl
    exact h1.logFault rallies_logless
  · exact h

/-! ### A Serve time -/

/-- A key of a quantity of a Court (0x4100 to 0x411F) has no effect beyond its value. -/
def plainKey (k : Nat) : Prop := 0x4100 ≤ k / 256 ∧ k / 256 < 0x4120

theorem ne_of_plainKey {k i u : Nat} (hk : plainKey k) (hi : i < 0x4100 ∨ 0x4120 ≤ i) (hu : u < 256) : okey i u ≠ k := by
  obtain ⟨h1, h2⟩ := hk
  unfold okey
  omega

theorem contains_plainKey {k i u : Nat} (hk : plainKey k) (hi : i < 0x4100 ∨ 0x4120 ≤ i) (hu : u < 256) : [k].contains (okey i u) = false := by
  simpa using ne_of_plainKey hk hi hu

theorem Same.servePools (h : Same State.rallies s₀ s) {old : State} {k : Nat} (hk : plainKey k) : Same State.rallies s₀ (s.servePools old [k]) := by
  unfold State.servePools
  extract_lets ps ts s1 s2
  have hps : ps = [] := List.filter_eq_nil_iff.2 fun q hq => by
    have hlt := List.mem_range.1 hq
    rw [contains_plainKey hk (by omega) (by omega)]
    simp
  have hts : ts = [] := List.filter_eq_nil_iff.2 fun q hq => by
    have hlt := List.mem_range.1 hq
    rw [contains_plainKey hk (by omega) (by omega)]
    simp
  rw [hts, List.foldl_nil]
  simpa only [s2, s1, hps, List.foldl_nil] using h

theorem Same.serveEffects {old : State} {k : Nat} {courts : List Nat} (hk : plainKey k) (hm : s.get 0x2600 5 = old.get 0x2600 5) :
    Same State.rallies s (s.serveEffects old [k] courts) := by
  unfold State.serveEffects
  extract_lets s1 s2 s3 s4 s5 s6 s7 runtime s8 s9 s10 s11 s12 s13
  have h1 : Same State.rallies s s1 := Same.refl.foldl fun hn h => h.serveTb (List.mem_range.1 hn)
  have h2 : Same State.rallies s s2 := h1.foldl fun hn h => h.followSync (List.mem_range.1 hn)
  have h3 : Same State.rallies s s3 := Same.followStates (h2.foldl fun hn h => h.tbSettle (List.mem_range.1 hn))
  have h4 : Same State.rallies s s4 := by
    have hpins : ((List.range 32).filter fun p => [k].any fun k => k / 256 == pinIx p && decide (k % 256 ≤ 0x0D)) = [] :=
      List.filter_eq_nil_iff.2 fun q hq => by
        have hne : k / 256 ≠ pinIx q := by
          have := List.mem_range.1 hq
          obtain ⟨h1, h2⟩ := hk
          unfold pinIx
          omega
        simp [hne]
    have e4 : s4 = s3 := by simp only [s4, hpins, List.foldl_nil]
    rwa [e4]
  have h6 : Same State.rallies s s6 := (h4.servePools hk).foldl fun hn h => h.serveAdapt (List.mem_range.1 hn)
  have h7 : Same State.rallies s s7 := h6.foldl fun hn h => h.serveCore (List.mem_range.1 (List.mem_filter.1 hn).1)
  have hfw : [k].contains fwActivateKey = false := contains_plainKey hk (by omega) (by omega)
  have hsf : [k].contains sfPackagesKey = false := contains_plainKey hk (by omega) (by omega)
  have hldpc : [k].contains ldpcTableKey = false := contains_plainKey hk (by omega) (by omega)
  have e8 : s8 = s7 := if_neg (by simp only [hsf, hfw, Bool.false_eq_true, or_self, not_false_eq_true])
  have e9 : s9 = s8 := if_neg (by simp only [hldpc, Bool.false_eq_true, not_false_eq_true])
  have h9 : Same State.rallies s s9 := by rwa [e9, e8]
  have e10 : s10 = s9 := if_pos ((h9.get (by decide)).trans hm)
  have e11 : s11 = s10 := if_neg (by simp only [hfw, Bool.false_eq_true, not_false_eq_true])
  have h11 : Same State.rallies s s11 := by rwa [e11, e10]
  have h12 : Same State.rallies s s12 := h11.foldl fun _ h => h.liftFence
  have h13 : Same State.rallies s s13 := by
    have hports : ((List.range 16).filter fun p => [k].contains (okey (0x2200 + p) 1)) = [] :=
      List.filter_eq_nil_iff.2 fun q hq => by
        have hlt := List.mem_range.1 hq
        rw [contains_plainKey hk (by omega) (by omega)]
        decide
    have e13 : s13 = s12 := by simp only [s13, hports, List.foldl_nil]
    rwa [e13]
  have hrep : [k].contains (okey 0x5300 6) = false := contains_plainKey hk (by omega) (by omega)
  rw [if_neg (by simp only [hrep, Bool.false_eq_true, not_false_eq_true])]
  exact h13

theorem tracked_plainKey {k : Nat} (hk : plainKey k) : Tracked k := by
  obtain ⟨h1, h2⟩ := hk
  rw [Tracked, show k / 256 % 65536 = k / 256 by omega]
  simp [bookEntry]
  omega

theorem get_putB_ne {b i u v j w : Nat} (h : okey j w ≠ okey i u + b * 2 ^ 24) : (s.putB b i u v).get j w = s.get j w :=
  Tbl.get_set_other _ _ _ _ _ _ h

/-- The state in which a Court's one staged value is in force and its epoch has advanced. -/
def State.inForce (s : State) (r : Rally) (w : Staged) : State :=
  ((s.keepPast [r.scope]).put (w.key / 256) (w.key % 256) w.value).bumpB r.scope 0x1200 4

/-- The state in which a Rally is served. -/
def State.servedRally (s : State) (r : Rally) : State :=
  (((s.updRally r.id fun x => { x with state := .served, epoch := s.getB r.scope 0x1200 4 }).serveRallyLoads r.id).bumpB r.scope 0x1200 5).trimHistory r.scope

theorem serveGroup_one {r : Rally} {w : Staged} (hsc : r.scope < 16) (hsp : r.spans = false) (hst : r.staged = [w]) (hb : w.isBlob = false) :
    s.serveGroup [r] = (((s.inForce r w).serveEffects s [w.key] [r.scope]).servedRally r).orphanRallies.settle := by
  have h16 : (r.scope == 16) = false := beq_eq_false_iff_ne.2 (by omega)
  have hone : (List.range 16).filter (fun k => r.scope == k) = [r.scope] := by
    generalize r.scope = k at hsc
    revert k
    decide
  unfold State.serveGroup
  extract_lets w' own device courts s1 s2 s3 s4 s5
  have hw : w' = [w] := by simp [w', hst]
  have hown : own = [w.key] := by simp [own, hw]
  have hdev : device = false := by simp [device, h16]
  have hcourts : courts = [r.scope] := by simp only [courts, hdev, List.any_cons, List.any_nil, Bool.or_false, Bool.false_or, hone]
  have h1 : s1 = (s.keepPast [r.scope]).put (w.key / 256) (w.key % 256) w.value := by
    simp only [s1, hcourts, hw, State.applied, List.foldl_cons, List.foldl_nil]
    exact if_neg (by simp [hb])
  have h2 : s2 = s.inForce r w := by simp only [s2, hcourts, h1, List.foldl_cons, List.foldl_nil, State.inForce]
  have h3 : s3 = s2 := if_neg (by simp [hdev])
  have h4 : s4 = (s.inForce r w).serveEffects s [w.key] [r.scope] := by simp only [s4, h3, h2, hown, hcourts]
  have h5 : s5 = s4.servedRally r := by
    simp only [s5, List.foldl_cons, List.foldl_nil, hsp, Bool.false_eq_true, if_false, State.servedRally]
  rw [h5, h4]

theorem inForce_get {r : Rally} {w : Staged} {i u : Nat} (hi : okey i u ≠ okey 0x1200 4 + r.scope * 2 ^ 24) :
    (s.inForce r w).get i u = if okey i u = w.key then w.value else s.get i u := by
  have hk : okey (w.key / 256) (w.key % 256) = w.key := by unfold okey; omega
  unfold State.inForce State.bumpB
  rw [get_putB_ne hi, get_put, hk]
  rfl

theorem inForce_epoch {r : Rally} {w : Staged} (hk : plainKey w.key) :
    (s.inForce r w).getB r.scope 0x1200 4 = (s.getB r.scope 0x1200 4 + 1) % 2 ^ 32 := by
  unfold State.inForce
  rw [getB_bumpB]
  refine congrArg (fun v => (v + 1) % 2 ^ 32) (Tbl.get_set_other _ _ _ _ _ _ ?_)
  obtain ⟨h1, h2⟩ := hk
  unfold okey
  omega

theorem servedRally_one {r : Rally} (hr : s.rallies = [r]) :
    (s.servedRally r).rallies = [{ r with state := .served, epoch := s.getB r.scope 0x1200 4 }] := by
  unfold State.servedRally
  generalize hu : ((s.updRally r.id fun x => { x with state := .served, epoch := s.getB r.scope 0x1200 4 }).serveRallyLoads r.id).bumpB r.scope 0x1200 5 = u
  have hrs : u.rallies = [{ r with state := .served, epoch := s.getB r.scope 0x1200 4 }] := by
    rw [← hu]
    refine (congrArg (List.map _) hr).trans ?_
    rw [List.map_cons, List.map_nil, if_pos rfl]
  have hlen : (u.scopeRallies r.scope).length ≤ 32 := by
    refine (List.length_filter_le _ _).trans ?_
    rw [hrs, List.length_singleton]
    decide
  rw [State.trimHistory, if_pos hlen, hrs]

theorem servedRally_obj (r : Rally) : (s.servedRally r).obj = (s.bumpB r.scope 0x1200 5).obj := trimHistory_obj r.scope

/-- Nothing is pending any more: no Rally loses its time base. -/
theorem orphanRallies_eq (h : ∀ r ∈ s.rallies, r.pending = false) : s.orphanRallies = s := by
  have hl : (s.rallies.filter fun r => r.pending && (s.tb r.tb).enabled == false) = [] :=
    List.filter_eq_nil_iff.2 fun r hr => by simp [h r hr]
  unfold State.orphanRallies
  rw [hl, List.foldl_nil]

theorem serveGroup_spec {r : Rally} {w : Staged} (hr : s.rallies = [r]) (hsc : r.scope < 16) (hsp : r.spans = false) (hst : r.staged = [w])
    (hb : w.isBlob = false) (hk : plainKey w.key) :
    (s.serveGroup [r]).get (w.key / 256) (w.key % 256) = w.value
      ∧ (s.serveGroup [r]).getB r.scope 0x1200 4 = (s.getB r.scope 0x1200 4 + 1) % 2 ^ 32
      ∧ ∀ x ∈ (s.serveGroup [r]).rallies, x.id = r.id → x.state = .served := by
  have hkey : okey (w.key / 256) (w.key % 256) = w.key := by unfold okey; omega
  have hmem : (s.inForce r w).get 0x2600 5 = s.get 0x2600 5 :=
    (inForce_get (by unfold okey; omega)).trans (if_neg (ne_of_plainKey hk (by omega) (by omega)))
  have heff : Same State.rallies (s.inForce r w) ((s.inForce r w).serveEffects s [w.key] [r.scope]) := Same.serveEffects hk hmem
  generalize he : (s.inForce r w).serveEffects s [w.key] [r.scope] = e at heff
  have hone := servedRally_one (heff.rest.trans hr)
  have horph : (e.servedRally r).orphanRallies = e.servedRally r := orphanRallies_eq fun x hx => by
    rw [hone, List.mem_singleton] at hx
    rw [hx]
    rfl
  have hset : Same State.rallies (e.servedRally r) (s.serveGroup [r]) := by
    rw [serveGroup_one hsc hsp hst hb, he, horph]
    exact Same.refl.settle rallies_dictless
  refine ⟨?_, ?_, fun x hx _ => ?_⟩
  · have hne : w.key ≠ okey 0x1200 5 + r.scope * 2 ^ 24 ∧ w.key ≠ okey 0x1200 4 + r.scope * 2 ^ 24 := by
      obtain ⟨h1, h2⟩ := hk
      unfold okey
      omega
    rw [hset.get (by rw [hkey]; exact tracked_plainKey hk), State.get, servedRally_obj]
    refine (get_putB_ne (by rw [hkey]; exact hne.1)).trans ?_
    rw [heff.get (by rw [hkey]; exact tracked_plainKey hk), inForce_get (by rw [hkey]; exact hne.2), hkey, if_pos rfl]
  · rw [hset.getB (tracked_scope 4 _ (by decide)), State.getB, servedRally_obj]
    refine (getB_putB_ne _ (by unfold okey; omega)).trans ?_
    rw [heff.getB (tracked_scope 4 _ (by decide)), inForce_epoch hk]
  · rw [hset.rest, hone, List.mem_singleton] at hx
    rw [hx]

theorem releaseInOrder_eq {m : Option Int} (h : ∀ e ∈ s.jobs, s.releasable e.1 = false) (n : Nat) : s.releaseInOrder m n = s := by
  cases n with
  | zero => rfl
  | succ n =>
    unfold State.releaseInOrder
    extract_lets pos due
    have hl : (s.jobs.filter fun e => due e.1) = [] := List.filter_eq_nil_iff.2 fun e he => by simp [due, h e he]
    rw [hl]
    rfl

theorem serveTime_spec (s : State) (r : Rally) (w : Staged) (hc : s.cut = false) (hr : s.rallies = [r]) (hf : r.state = .frozen) (hsc : r.scope < 16)
    (hsp : r.spans = false) (hst : r.staged = [w]) (hb : w.isBlob = false) (h1 : 0x4100 ≤ w.key / 256) (h2 : w.key / 256 < 0x4120)
    (hre : s.reached r.tb (s.tcOf r.tb r.serve % airPeriod) = true) (hj : ∀ e ∈ s.jobs, s.releasable e.1 = false) :
    ∃ t, exec .serveTime s = .next t ∧ t.get (w.key / 256) (w.key % 256) = w.value ∧ t.getB r.scope 0x1200 4 = (s.getB r.scope 0x1200 4 + 1) % 2 ^ 32
      ∧ (∀ x ∈ t.rallies, x.id = r.id → x.state = .served) := by
  have hp : s.pendingInOrder = [r] := by simp [State.pendingInOrder, hr, Rally.pending, hf, insertRally]
  have hfreeze : s.freezeDue = s := by
    have hl : (s.pendingInOrder.filter fun r => r.state == .committed && s.atFreeze r) = [] := by simp [hp, hf]
    unfold State.freezeDue
    rw [hl, List.foldl_nil]
  have hserve : s.serveDue = s.serveGroup [r] := by
    unfold State.serveDue
    rw [hfreeze, hr]
    show s.serveAll 1 = _
    unfold State.serveAll
    have hfind : (s.pendingInOrder.find? fun r => r.state == .frozen && s.reached r.tb (s.tcOf r.tb r.serve % airPeriod)) = some r := by
      simp [hp, hf, hre]
    rw [hfind]
    dsimp only
    rw [releaseInOrder_eq hj]
    have hgroup : (s.pendingInOrder.filter fun x => x.state == .frozen && x.serveAt == r.serveAt && s.reached x.tb (s.tcOf x.tb x.serve % airPeriod)) = [r] := by
      simp [hp, hf, hre]
    rw [hgroup]
    rfl
  exact ⟨s.serveGroup [r], congrArg _ ((if_neg (by simp [hc])).trans hserve), serveGroup_spec hr hsc hsp hst hb ⟨h1, h2⟩⟩

/-- Settles O37: the due heartbeat, the two ends of what has been idle too long, the freeze point, and the Serve time, after which only the values, the
epoch and the Rally itself have changed of what the statement reads (`Same.serveEffects`). -/
theorem rallyTimers : Obligations.RallyTimers := by
  unfold Obligations.RallyTimers
  exact ⟨heartbeatDue_spec, rallyIdleTimeout_spec, mgmtIdleTimeout_spec, freezePoint_spec, serveTime_spec⟩

end Sys2Proof.Machine
end

/-!
# The family 01_slot_journey.md: slot orders, their records, and the disposal of fenced jobs (O28)
-/

section
namespace Sys2Proof.Machine
open Sys2Proof Sys2Proof.Claims

variable {γ : Type} {p : State → γ} {s₀ s t : State}

/-! ### The job graph of an order -/

/-- What building the job graph of an order leaves alone. -/
def State.orderBook (s : State) : Nat × Tbl Order × Tbl Func × Tbl Core × List Host.Cell := (s.nextOrder, s.orders, s.funcs, s.cores, s.mem)

theorem orderBook_linkless : Linkless State.orderBook where
  put _ _ _ _ := rfl
  putB _ _ _ _ _ := rfl
  out _ _ := rfl
  mgl _ _ := rfl

theorem takeHandle_orderBook {q j : Nat} {r : Nat × Nat × State} (h : s.takeHandle q j = some r) : r.2.2.orderBook = s.orderBook := by
  unfold State.takeHandle at h
  extract_lets y at h
  split at h
  · cases h
  · cases h
    rfl

/-- The order book of a graph under construction. -/
def Graph.book (g : Graph) : Nat × Tbl Order × Tbl Func × Tbl Core × List Host.Cell := g.s.orderBook

theorem book_add (g : Graph) (y : Job) : (g.add y).1.book = g.book := rfl

theorem book_withFronts (g : Graph) (l : List (Nat × Nat)) : ({ g with fronts := l } : Graph).book = g.book := rfl

theorem book_withWeights (g : Graph) (l : List ((Nat × Nat) × Nat)) : ({ g with weights := l } : Graph).book = g.book := rfl

theorem book_withDetects (g : Graph) (l : List ((Nat × Nat) × Nat)) : ({ g with detects := l } : Graph).book = g.book := rfl

theorem book_fronts (g : Graph) (id : Nat) (b : List Byte) : (g.fronts_ id b).book = g.book := by
  unfold Graph.fronts_
  extract_lets c tb
  split
  · rfl
  · refine foldl_keeps _ Graph.book (fun g k => ?_) _ g
    extract_lets close t len r
    exact (book_withFronts ..).trans (book_add ..)

theorem book_occasion (g : Graph) (id : Nat) (b : List Byte) (us : List (List Byte)) (ci : Nat) (ch o : Nat × Nat) :
    (g.occasion id b us ci ch o).book = g.book := by
  unfold Graph.occasion
  extract_lets c first m per dead r1 r2
  have h2 : r2.1.book = r1.1.book := book_add ..
  have h1 : r1.1.book = g.book := book_add ..
  exact (book_withWeights ..).trans (h2.trans h1)

theorem book_chunk (g : Graph) (id : Nat) (b : List Byte) (all : List (List Byte)) (ci : Nat) (ch : Nat × Nat) :
    (g.chunk id b all ci ch).book = g.book := by
  unfold Graph.chunk
  extract_lets us occs g1
  have h1 : g1.book = g.book := foldl_keeps (fun (g : Graph) o => g.occasion id b us ci ch o) Graph.book (fun _ _ => book_occasion ..) _ g
  split
  · rfl
  · refine (foldl_keeps _ Graph.book (fun g k => ?_) _ g1).trans h1
    extract_lets need deps r
    exact (book_withDetects ..).trans (book_add ..)

theorem book_decodes (g : Graph) (id : Nat) (b : List Byte) (chs : List (Nat × Nat)) (w : Codeword) : (g.decodes id b chs w).1.book = g.book := by
  unfold Graph.decodes
  extract_lets c u seg pool q r
  split
  · rfl
  · refine foldl_keeps _ (fun a : Graph × List CodeBlock => a.1.book) (fun a i => ?_) _ (g, [])
    extract_lets syms deps src y j
    have hj : j.1.book = a.1.book := book_add ..
    split
    next h hh => exact Eq.trans (takeHandle_orderBook hh) hj
    next => exact hj

theorem book_ucis (g : Graph) (id : Nat) (b : List Byte) (i : Nat) : (g.ucis id b i).1.book = g.book := by
  unfold Graph.ucis
  extract_lets u
  refine foldl_keeps _ (fun a : Graph × List Codeword => a.1.book) (fun a f => ?_) _ (g, [])
  dsimp only
  split
  · rfl
  · refine foldl_keeps _ (fun x : Graph × List CodeBlock => x.1.book) (fun x k => ?_) _ (a.1, [])
    exact book_add ..

theorem book_encodes (g : Graph) (id : Nat) (b : List Byte) (w : Codeword) : (g.encodes id b w).1.book = g.book := by
  unfold Graph.encodes
  extract_lets u n tb r
  refine foldl_keeps _ (fun a : Graph × List CodeBlock => a.1.book) (fun a i => ?_) _ (g, [])
  exact book_add ..

theorem book_symbol (g : Graph) (id : Nat) (b : List Byte) (us : List (List Byte)) (k : Nat) : (g.symbol id b us k).book = g.book := by
  unfold Graph.symbol
  extract_lets c tb td dead on chs g1
  have h1 : g1.1.book = g.book := by
    refine foldl_keeps _ (fun a : Graph × List Nat => a.1.book) (fun a e => ?_) _ (g, [])
    dsimp only
    split
    · rfl
    · exact book_add ..
  split
  · exact (book_add ..).trans h1
  · exact h1

/-! ### An order that is started -/

/-- An order of kind k from ring r of function f with body b has been entered under the next number, and nothing else of the order book changed. -/
def Started (f r k : Nat) (b : List Byte) (s t : State) : Prop :=
  ∃ o : Order, t.orderBook = (s.nextOrder + 1, Tbl.set {} s.orders s.nextOrder o, s.funcs, s.cores, s.mem)
    ∧ o.live = true ∧ o.kind = k ∧ o.body = b ∧ o.func = f ∧ o.ring = r

theorem addCplane_orderBook (id : Nat) (b : List Byte) : (s.addCplane id b).orderBook = s.orderBook := by
  unfold State.addCplane
  extract_lets c tb dl t0
  split <;> rfl

theorem addBursts_orderBook (b : List Byte) : (s.addBursts b).orderBook = s.orderBook := rfl

theorem bump_orderBook (i u : Nat) : (s.bump i u).orderBook = s.orderBook := rfl

theorem bumpBy_orderBook (i u n : Nat) : (s.bumpBy i u n).orderBook = s.orderBook := rfl

/-- An order entered in a state whose job graph has been built. -/
theorem started_setOrder {f r k : Nat} {b : List Byte} {u : State} {o : Order} (hu : u.orderBook = (s.nextOrder + 1, s.orders, s.funcs, s.cores, s.mem))
    (ht : t.orderBook = (u.setOrder s.nextOrder o).orderBook) (ho : o.live = true ∧ o.kind = k ∧ o.body = b ∧ o.func = f ∧ o.ring = r) :
    Started f r k b s t := by
  obtain ⟨hn, hord, hf, hc, hm⟩ : _ ∧ _ ∧ _ ∧ _ ∧ _ := by simpa only [State.orderBook, Prod.mk.injEq] using hu
  refine ⟨o, ?_, ho⟩
  rw [ht, State.orderBook, State.setOrder]
  simp only [hn, hord, hf, hc, hm]

theorem startUplink_started (s : State) (f r : Nat) (b : List Byte) (sample : Nat) : Started f r 1 b s (s.startUplink f r b sample) := by
  unfold State.startUplink
  extract_lets id c us chs served mine g0 g1 ws ws2 _ rep o lost
  have h0 : g0.book = (s.nextOrder + 1, s.orders, s.funcs, s.cores, s.mem) := book_fronts _ _ _
  have h1 : g1.book = g0.book := by
    refine foldl_keeps _ Graph.book (fun g e => ?_) _ g0
    exact book_chunk ..
  have hw : ws.1.book = g1.book := by
    refine foldl_keeps _ (fun a : Graph × List Codeword => a.1.book) (fun a w => ?_) _ (g1, [])
    split
    · rfl
    · exact book_decodes ..
  have hw2 : ws2.1.book = ws.1.book := by
    refine foldl_keeps _ (fun a : Graph × List Codeword => a.1.book) (fun a i => ?_) _ ws
    split
    · rfl
    · exact book_ucis ..
  have hrep : rep.1.book = ws2.1.book := book_add ..
  refine started_setOrder (u := rep.1.s) (o := o) (hrep.trans (hw2.trans (hw.trans (h1.trans h0)))) ?_ ⟨rfl, rfl, rfl, rfl, rfl⟩
  rw [addCplane_orderBook, addBursts_orderBook, bumpBy_orderBook, bump_orderBook]

theorem startDownlink_started (s : State) (f r : Nat) (b : List Byte) (sample : Nat) : Started f r 2 b s (s.startDownlink f r b sample) := by
  unfold State.startDownlink
  extract_lets id c us sent mine ws g last rel _ rep o
  have hw : ws.1.book = (s.nextOrder + 1, s.orders, s.funcs, s.cores, s.mem) := by
    refine foldl_keeps _ (fun a : Graph × List Codeword => a.1.book) (fun a w => ?_) _ _
    split
    · rfl
    · exact book_encodes ..
  have hg : g.book = ws.1.book := by
    refine foldl_keeps _ Graph.book (fun g k => ?_) _ ws.1
    exact book_symbol ..
  have hrep : rep.1.book = g.book := book_add ..
  refine started_setOrder (u := rep.1.s) (o := o) (hrep.trans (hg.trans hw)) ?_ ⟨rfl, rfl, rfl, rfl, rfl⟩
  rw [addCplane_orderBook, addBursts_orderBook, bump_orderBook]

theorem startCplane_started (s : State) (f r : Nat) (b : List Byte) (sample : Nat) (posted : Bool) :
    Started f r 3 b s (s.startCplane f r b sample posted) := by
  unfold State.startCplane
  extract_lets id c tb syms others o run
  exact started_setOrder (u := { s with nextOrder := id + 1 }) (o := o) rfl rfl ⟨rfl, rfl, rfl, rfl, rfl⟩

theorem Started.of_orderBook {f r k : Nat} {b : List Byte} {u : State} (h : Started f r k b u t) (e : u.orderBook = s.orderBook) : Started f r k b s t := by
  obtain ⟨hn, hord, hf, hc, hm⟩ : _ ∧ _ ∧ _ ∧ _ ∧ _ := by simpa only [State.orderBook, Prod.mk.injEq] using e
  unfold Started at h ⊢
  rwa [hn, hord, hf, hc, hm] at h

/-- An order that meets every condition is started, on every chip of a system (R12, R13, R20). -/
theorem takeOrder_started {f r : Nat} {b : List Byte} {smp : List Nat} (hrec : s.get 0x5300 0x0B ≠ 1)
    (hcar : s.carrierOk f (orCarrier b) (orKind b == 2) = true) (hslot : s.slotOk (orCarrier b) (orSlot b) = true)
    (hlead : 0 ≤ airDiff ((smp[s.carTb (orCarrier b)]?).getD 0) (s.leadLimit b)) (hok : s.orderContentsOk b = true)
    (hfence : s.isFenced 4 (s.carrierCourt (orCarrier b)) = false) :
    ∃ k, Started f r k b s (s.takeOrder f r b smp true) ∧ (orKind b = 1 ∨ orKind b = 2 ∨ orKind b = 3 → k = orKind b) := by
  unfold State.takeOrder
  extract_lets c k s' no sample s1
  have hs : s' = s := if_pos hrec
  clear_value s'
  subst hs
  rw [if_neg (by simp [c, k, hcar, hslot]), if_neg (not_lt.2 hlead), if_neg (by simp [hok]), if_neg (by simp [c, hfence])]
  have h1 : s1.orderBook = s'.orderBook := by
    have hsame : Same State.orderBook s' s1 := .ite (Same.refl.foldl fun _ h => .ite (h.sendMgl orderBook_linkless) h) .refl
    exact hsame.rest
  by_cases k1 : k = 1
  · rw [if_pos k1]
    exact ⟨1, (startUplink_started s1 f r b sample).of_orderBook h1, fun _ => k1.symm⟩
  by_cases k2 : k = 2
  · rw [if_neg k1, if_pos k2]
    exact ⟨2, (startDownlink_started s1 f r b sample).of_orderBook h1, fun _ => k2.symm⟩
  · rw [if_neg k1, if_neg k2]
    refine ⟨3, (startCplane_started s1 f r b sample true).of_orderBook h1, fun h => ?_⟩
    rcases h with h | h | h
    · exact absurd h k1
    · exact absurd h k2
    · exact h.symm

/-! ### An entry of a slot-order ring -/

theorem advanceDev_only (s : State) (f q n : Nat) : ∃ o u, s.advanceDev f q n = { s with out := o, funcs := u } := by
  unfold State.advanceDev
  extract_lets r d s1 s2
  obtain ⟨o, u, h2⟩ : ∃ o u, s2 = { s with out := o, funcs := u } := by
    by_cases h : (s1.func f).statusAddr = 0
    · exact ⟨s.out, s1.funcs, if_pos h⟩
    · exact ⟨_, s1.funcs, if_neg h⟩
  rw [h2]
  split
  · split <;> exact ⟨_, _, rfl⟩
  · exact ⟨_, _, rfl⟩

/-- The state in which an entry of slot-order ring q has been read. -/
def State.entryTaken (s : State) (f q : Nat) : State :=
  (s.setRing f q { s.ring f q with samples := (s.ring f q).samples.filter fun e => e.1 != (s.ring f q).dev + 1 }).advanceDev f q 1

theorem entryTaken_only (s : State) (f q : Nat) : ∃ o u, s.entryTaken f q = { s with out := o, funcs := u } := by
  obtain ⟨o, u, h⟩ := advanceDev_only
    (s.setRing f q { s.ring f q with samples := (s.ring f q).samples.filter fun e => e.1 != (s.ring f q).dev + 1 }) f q 1
  exact ⟨o, u, h⟩

theorem entryTaken_ring (s : State) (f q : Nat) :
    ((s.entryTaken f q).ring f q).dev = (s.ring f q).dev + 1#32 ∧ ((s.entryTaken f q).ring f q).host = (s.ring f q).host := by
  unfold State.entryTaken
  rw [advanceDev_ring, ring_setRing]
  exact ⟨rfl, rfl⟩

section
variable {f : Fin 16} {r : Fin 4} {entry body : List Byte} (hen : (s.ring f (2 + r)).enabled = true) (hne : (s.ring f (2 + r)).host ≠ (s.ring f (2 + r)).dev)
  (hcut : s.cut = false) (hinj : s.injecting = false) (h9 : s.get 0x31A0 9 = 0) (h6 : s.get 0x1001 6 ≠ 1)
include hen hne hcut hinj h9 h6

theorem soEntryRead_ok (hreason : entryReason entry body true = none) :
    execSoEntryRead f r entry body true s = .next ((s.entryTaken f (2 + r)).acceptOrder f r (body.take (fieldOf entry 10 2))
      (samplesFor (s.ring f (2 + r)).samples (s.ring f (2 + r)).dev)) := by
  unfold execSoEntryRead
  extract_lets g q x smp s1
  rw [if_neg (by simp [g, q, x, hen, hne, hcut, hinj, h9, h6]), hreason]
  rfl

theorem soEntryRead_bad {readable : Bool} {n : Nat} (hreason : entryReason entry body readable = some n) :
    execSoEntryRead f r entry body readable s = .next ((((s.entryTaken f (2 + r)).bump (0x2410 + f) 3).hostViolation f).record f r
      (errorRecord (2 + r) n (s.ring f (2 + r)).dev.toNat entry)) := by
  unfold execSoEntryRead
  extract_lets g q x smp s1
  rw [if_neg (by simp [g, q, x, hen, hne, hcut, hinj, h9, h6]), hreason]
  rfl

end

theorem soEntryRead_accepts (f : Fin 16) (r : Fin 4) (entry body : List Byte) (s : State) :
    let q := s.ring f (2 + r.val)
    let b := body.take (fieldOf entry 10 2)
    let smp := samplesFor q.samples q.dev
    let c := orCarrier b
    q.enabled = true → q.host ≠ q.dev → s.cut = false → s.injecting = false → s.get 0x31A0 9 = 0 → s.get 0x1001 6 ≠ 1 → entryReason entry body true = none →
    s.get 0x5300 0x0B ≠ 1 → s.carrierOk f c (orKind b == 2) = true → s.slotOk c (orSlot b) = true → 0 ≤ airDiff ((smp[s.carTb c]?).getD 0) (s.leadLimit b) →
    s.orderContentsOk b = true → s.isFenced 4 (s.carrierCourt c) = false →
    ∃ t, exec (.soEntryRead f r entry body true) s = .next t ∧ (t.ring f (2 + r.val)).dev = q.dev + 1#32 ∧ t.nextOrder = s.nextOrder + 1
      ∧ (let o := t.order s.nextOrder; o.live = true ∧ o.body = b ∧ o.func = f.val ∧ o.ring = r.val
          ∧ (orKind b = 1 ∨ orKind b = 2 ∨ orKind b = 3 → o.kind = orKind b))
      ∧ (∀ i, i ≠ s.nextOrder → t.order i = s.order i) ∧ t.cores = s.cores ∧ memKept s t := by
  intro q b smp c hen hne hcut hinj h9 h6 hreason hrec hcar hslot hlead hok hfence
  obtain ⟨x, u, hx⟩ := entryTaken_only s f (2 + r)
  obtain ⟨k, ⟨o, hbook, hlive, hkind, hbody, hfunc, hring⟩, hk⟩ :=
    takeOrder_started (s := s.entryTaken f (2 + r)) (f := f) (r := r) (b := b) (smp := smp) (by rw [hx]; exact hrec) (by rw [hx]; exact hcar)
      (by rw [hx]; exact hslot) (by rw [hx]; exact hlead) (by rw [hx]; exact hok) (by rw [hx]; exact hfence)
  have hord : (s.entryTaken f (2 + r)).orders = s.orders ∧ (s.entryTaken f (2 + r)).nextOrder = s.nextOrder
      ∧ (s.entryTaken f (2 + r)).cores = s.cores ∧ (s.entryTaken f (2 + r)).mem = s.mem := by
    rw [hx]
    exact ⟨rfl, rfl, rfl, rfl⟩
  obtain ⟨e1, e2, e3, e4⟩ := hord
  rw [e1, e2, e3, e4] at hbook
  obtain ⟨hn, horders, hfuncs, hcores, hmem⟩ : _ ∧ _ ∧ _ ∧ _ ∧ _ := by simpa only [State.orderBook, Prod.mk.injEq] using hbook
  refine ⟨_, soEntryRead_ok hen hne hcut hinj h9 h6 hreason, ?_, hn, ?_, fun i hi => ?_, hcores, fun a => by rw [State.acceptOrder, hmem]⟩
  · rw [State.acceptOrder, State.ring, State.func, hfuncs]
    exact (entryTaken_ring s f (2 + r)).1
  · have ho : (State.acceptOrder (s.entryTaken f (2 + r)) f r b smp).order s.nextOrder = o := by
      rw [State.acceptOrder, State.order, horders, Tbl.get_set, if_pos rfl]
    dsimp only
    rw [ho]
    exact ⟨hlive, hbody, hfunc, hring, fun h => hkind.trans (hk h)⟩
  · rw [State.acceptOrder, State.order, horders, Tbl.get_set, if_neg hi]
    rfl

/-! ### Records -/

theorem hostViolation_keeps (hp : Dictless p) (f : Nat) : p (s.hostViolation f) = p s :=
  (Same.refl.violation hp).rest.trans (hp.put ..)

theorem record_keeps (hp : Dictless p) (hr : Ringless p) (f r : Nat) (b : List Byte) : p (s.record f r b) = p s := by
  unfold State.record
  extract_lets q x
  split
  · exact hostViolation_keeps hp f
  split
  · exact (advanceDev_keeps hr ..).trans (ringWrite_keeps hr.out ..)
  split
  · exact hr.funcs s _
  · exact hostViolation_keeps hp f

theorem ring_setRing_ne {f q k : Nat} {x : Ring} (h : k ≠ q) : (s.setRing f q x).ring f k = s.ring f k := by
  rw [State.ring, State.setRing, func_setFunc]
  exact (Tbl.get_set ..).trans (if_neg h)

theorem advanceDev_ring_ne {f q k n : Nat} (h : k ≠ q) : (s.advanceDev f q n).ring f k = s.ring f k := by
  unfold State.advanceDev
  extract_lets r d s1 s2
  have h1 : s1.ring f k = s.ring f k := ring_setRing_ne h
  have h2 : s2.ring f k = s.ring f k := by
    refine (apply_ite (State.ring · f k) _ _ _).trans ?_
    exact ite_eq_left_iff.2 (fun _ => rfl) |>.trans h1
  split
  · split
    · rw [State.ring, func_setFunc]
      exact h2
    · exact h2
  · exact h2

theorem record_ring {f r k : Nat} {b : List Byte} (h : k ≠ 6 + r) : (s.record f r b).ring f k = s.ring f k := by
  have hp : Dictless (State.ring · f k) := ⟨fun _ _ _ _ => rfl, fun _ _ _ _ _ => rfl⟩
  unfold State.record
  extract_lets q x
  split
  · exact hostViolation_keeps hp f
  split
  · exact (advanceDev_ring_ne h).trans (ringWrite_keeps (p := (State.ring · f k)) (fun _ _ => rfl) ..)
  split
  · exact ring_setRing_ne h
  · exact hostViolation_keeps hp f

theorem tracked_malformed (f : Fin 16) : Tracked (okey (0x2410 + f.val) 3) := by
  revert f
  decide

theorem hostViolation_malformed (f : Fin 16) : (s.hostViolation f).get (0x2410 + f) 3 = s.get (0x2410 + f) 3 := by
  unfold State.hostViolation
  rw [(Same.refl.violation rallies_dictless).get (tracked_malformed f)]
  exact (get_put ..).trans (if_neg (by unfold okey; omega))

theorem record_malformed (f : Fin 16) (r : Nat) (b : List Byte) : (s.record f r b).get (0x2410 + f) 3 = s.get (0x2410 + f) 3 := by
  unfold State.record
  extract_lets q x
  split
  · exact hostViolation_malformed f
  split
  · exact (advanceDev_keeps (p := (State.get · (0x2410 + f) 3)) ⟨fun _ _ => rfl, fun _ _ => rfl⟩ ..).trans
      (ringWrite_keeps (p := (State.get · (0x2410 + f) 3)) (fun _ _ => rfl) ..)
  split
  · rfl
  · exact hostViolation_malformed f

/-- Jobs, orders and memory. -/
def State.orderWork (s : State) : Tbl Job × Tbl Order × List Host.Cell := (s.jobs, s.orders, s.mem)

theorem orderWork_dictless : Dictless State.orderWork := ⟨fun _ _ _ _ => rfl, fun _ _ _ _ _ => rfl⟩

theorem orderWork_ringless : Ringless State.orderWork := ⟨fun _ _ => rfl, fun _ _ => rfl⟩

theorem soEntryRead_skips (f : Fin 16) (r : Fin 4) (entry body : List Byte) (readable : Bool) (s : State) (reason : Nat) :
    let q := s.ring f (2 + r.val)
    q.enabled = true → q.host ≠ q.dev → s.cut = false → s.injecting = false → s.get 0x31A0 9 = 0 → s.get 0x1001 6 ≠ 1 → entryReason entry body readable = some reason →
    ∃ t, exec (.soEntryRead f r entry body readable) s = .next t ∧ (t.ring f (2 + r.val)).dev = q.dev + 1#32 ∧ (t.ring f (2 + r.val)).host = q.host
      ∧ t.get (0x2410 + f.val) 3 = (s.get (0x2410 + f.val) 3 + 1) % 2 ^ 32 ∧ t.jobs = s.jobs ∧ t.orders = s.orders ∧ memKept s t := by
  intro q hen hne hcut hinj h9 h6 hreason
  obtain ⟨x, u, hx⟩ := entryTaken_only s f (2 + r)
  obtain ⟨hdev, hhost⟩ := entryTaken_ring s f (2 + r)
  refine ⟨_, soEntryRead_bad hen hne hcut hinj h9 h6 hreason, ?_⟩
  generalize errorRecord _ _ _ _ = e
  generalize hu : s.entryTaken f (2 + r) = v at hx hdev hhost
  have hring : ((((v.bump (0x2410 + f) 3).hostViolation f).record f r e).ring f (2 + r)) = v.ring f (2 + r) := by
    rw [record_ring (by omega)]
    exact hostViolation_keeps (p := (State.ring · f (2 + r))) ⟨fun _ _ _ _ => rfl, fun _ _ _ _ _ => rfl⟩ f
  have hwork : (((v.bump (0x2410 + f) 3).hostViolation f).record f r e).orderWork = s.orderWork := by
    rw [record_keeps orderWork_dictless orderWork_ringless, hostViolation_keeps orderWork_dictless, hx]
    rfl
  obtain ⟨hjobs, horders, hmem⟩ : _ ∧ _ ∧ _ := by simpa only [State.orderWork, Prod.mk.injEq] using hwork
  refine ⟨by rw [hring, hdev], by rw [hring, hhost], ?_, hjobs, horders, fun a => by rw [hmem]⟩
  rw [record_malformed, hostViolation_malformed, get_bump, hx]
  rfl

/-! ### The reads of a transport block -/

theorem foldl_setJob_jobs (f : State → Nat → Job) (l : List Nat) (s : State) :
    ∃ j, l.foldl (fun (s : State) i => s.setJob i (f s i)) s = { s with jobs := j } := by
  induction l generalizing s with
  | nil => exact ⟨s.jobs, rfl⟩
  | cons i l ih =>
    obtain ⟨j, hj⟩ := ih (s.setJob i (f s i))
    exact ⟨j, hj⟩

/-- What has been read for an order, with cores and memory. -/
def State.readFor (id : Nat) (s : State) : (List Nat × Tbl (List Byte) × Tbl (List Byte)) × Tbl Core × List Host.Cell :=
  (((s.order id).ready, (s.order id).data, (s.order id).weights), s.cores, s.mem)

theorem readFor_setOrder {id : Nat} {o : Order} (hr : o.ready = (s.order id).ready) (hd : o.data = (s.order id).data) (hw : o.weights = (s.order id).weights) :
    (s.setOrder id o).readFor id = s.readFor id := by
  unfold State.readFor
  rw [order_setOrder, if_pos rfl, hr, hd, hw]
  rfl

theorem newJob_order (id : Nat) (s : State) (y : Job) : (s.newJob y).1.order id = s.order id := rfl

theorem newJob_readFor (id : Nat) (s : State) (y : Job) : (s.newJob y).1.readFor id = s.readFor id := rfl

theorem listJobs_readFor (id i : Nat) (s : State) : (s.listJobs id i).readFor id = s.readFor id := by
  unfold State.listJobs
  extract_lets o u b td tb
  split
  · rfl
  · refine foldl_keeps _ (State.readFor id) (fun s e => foldl_keeps _ (State.readFor id) (fun s k => ?_) _ s) _ s
    extract_lets o cost dead _ r s1 w _
    split
    · rfl
    have hr : r.1.order id = s.order id := newJob_order ..
    have h1 : s1.readFor id = s.readFor id := by
      refine (readFor_setOrder ?_ ?_ ?_).trans (newJob_readFor ..)
      · rw [hr]
      · rw [hr]
      · rw [hr]
    split
    · exact h1
    split
    · exact h1
    · have hw : w.1.readFor id = s1.readFor id := newJob_readFor ..
      refine (readFor_setOrder ?_ ?_ ?_).trans (hw.trans h1)
      · rfl
      · rfl
      · rfl

theorem redue_readFor (id : Nat) (s : State) : (s.redue id).readFor id = s.readFor id := by
  unfold State.redue
  extract_lets o
  refine foldl_keeps _ (State.readFor id) (fun s w => ?_) _ s
  split
  · rfl
  refine foldl_keeps _ (State.readFor id) (fun s e => ?_) _ s
  extract_lets y
  split
  · rfl
  · rfl

section
variable {c : Fin 32} {slot : BitVec 64} {u : BitVec 6} {data weights : List Byte} {e : Nat × Order}
  (hfind : s.orders.find? (fun e => e.2.live && e.2.kind == 2 && e.2.carrier == c.val && orSlot e.2.body == slot.toNat) = some e)
  (hready : e.2.ready.contains u.toNat = false) (hfail : e.2.readFail.contains u.toNat = false) (hlt : u.toNat < orCount e.2.body)
  (hcap : e.2.capacity.contains u.toNat = false)
include hfind hready hfail hlt hcap

/-- The state in which what was read for an entry has been entered; a signal's DL_SYMBOL jobs and the deadlines of the others follow from it. -/
theorem tbReadDone_ok (hread : s.readOk e.2 u.toNat data = true) :
    ∃ j, execTbReadDone c slot u data weights true s = .next (
      let s1 := ({ s with jobs := j } : State).setOrder e.1 { e.2 with
        ready := e.2.ready ++ [u.toNat], data := Tbl.set [] e.2.data u.toNat data,
        weights := Tbl.set [] e.2.weights u.toNat (s.readWeights c (e.2.user u.toNat) weights) }
      if isSignal (e.2.user u.toNat) then (s1.listJobs e.1 u.toNat).redue e.1 else s1) := by
  unfold execTbReadDone
  rw [hfind]
  dsimp only
  rw [if_neg (by simp only [hready, hfail, hcap, Bool.false_eq_true, false_or, not_le, hlt]), if_pos rfl, if_neg (by simp [hread])]
  obtain ⟨j, hj⟩ := foldl_setJob_jobs (fun s j => { s.job j with release := s.airNow (s.job j).tb })
    (e.2.jobs.filter fun j => (s.job j).kind == 0x11 && (s.job j).user == u.toNat && (s.job j).state == .waiting) s
  exact ⟨j, by rw [hj]⟩

theorem tbReadDone_failed :
    ∃ j, execTbReadDone c slot u data weights false s = .next (({ s with jobs := j } : State).setOrder e.1 { e.2 with
      readFail := e.2.readFail ++ [u.toNat],
      words := e.2.words.map fun w => if w.user = u.toNat then { w with status := 1, cause := 7, ended := true } else w }) := by
  unfold execTbReadDone
  rw [hfind]
  dsimp only
  rw [if_neg (by simp only [hready, hfail, hcap, Bool.false_eq_true, false_or, not_le, hlt]), if_neg (by decide)]
  obtain ⟨j, hj⟩ := foldl_setJob_jobs (fun s j => { s.job j with done := true, state := .completed })
    ((e.2.words.filter fun w => w.user == u.toNat).flatMap fun w => w.blocks.map fun b => b.job) s
  exact ⟨j, by rw [hj]⟩

end

theorem tbReadDone_spec (c : Fin 32) (slot : BitVec 64) (u : BitVec 6) (data weights : List Byte) (ok : Bool) (s : State) (e : Nat × Order)
    (hfind : s.orders.find? (fun e => e.2.live && e.2.kind == 2 && e.2.carrier == c.val && orSlot e.2.body == slot.toNat) = some e)
    (hready : e.2.ready.contains u.toNat = false) (hfail : e.2.readFail.contains u.toNat = false) (hlt : u.toNat < orCount e.2.body)
    (hcap : e.2.capacity.contains u.toNat = false) :
    (ok = true → s.readOk e.2 u.toNat data = true →
      ∃ t, exec (.tbReadDone c slot u data weights ok) s = .next t ∧ u.toNat ∈ (t.order e.1).ready ∧ Tbl.get [] (t.order e.1).data u.toNat = data
        ∧ Tbl.get [] (t.order e.1).weights u.toNat = s.readWeights c (e.2.user u.toNat) weights
        ∧ t.cores = s.cores ∧ memKept s t ∧ (isSignal (e.2.user u.toNat) = false → ∃ o j, t = { s with orders := o, jobs := j }))
    ∧ (ok = false → ∃ t, exec (.tbReadDone c slot u data weights ok) s = .next t ∧ u.toNat ∈ (t.order e.1).readFail
        ∧ (∀ w ∈ (t.order e.1).words, w.user = u.toNat → w.status = 1 ∧ w.cause = 7 ∧ w.ended = true) ∧ memKept s t) := by
  constructor
  · rintro rfl hread
    obtain ⟨j, h⟩ := tbReadDone_ok (weights := weights) hfind hready hfail hlt hcap hread
    refine ⟨_, h, ?_⟩
    extract_lets _ s1
    have h1 : s1.order e.1 = _ := (order_setOrder ..).trans (if_pos rfl)
    have hr : (if isSignal (e.2.user u.toNat) then (s1.listJobs e.1 u.toNat).redue e.1 else s1).readFor e.1 = s1.readFor e.1 := by
      split
      · exact (redue_readFor ..).trans (listJobs_readFor ..)
      · rfl
    have hnot : isSignal (e.2.user u.toNat) = false → ∃ o j, (if isSignal (e.2.user u.toNat) then (s1.listJobs e.1 u.toNat).redue e.1 else s1)
        = { s with orders := o, jobs := j } := fun hs => ⟨_, _, if_neg (by simp [hs])⟩
    generalize (if isSignal (e.2.user u.toNat) then (s1.listJobs e.1 u.toNat).redue e.1 else s1) = t at hr hnot
    obtain ⟨⟨hrd, hdt, hwt⟩, hcores, hmem⟩ : (_ ∧ _ ∧ _) ∧ _ ∧ _ := by simpa only [State.readFor, Prod.mk.injEq] using hr
    refine ⟨?_, ?_, ?_, hcores, fun a => congrArg (memByte · a) hmem, hnot⟩
    · rw [hrd, h1]
      exact List.mem_append_right _ (List.mem_singleton_self _)
    · rw [hdt, h1]
      exact (Tbl.get_set ..).trans (if_pos rfl)
    · rw [hwt, h1]
      exact (Tbl.get_set ..).trans (if_pos rfl)
  · rintro rfl
    obtain ⟨j, h⟩ := tbReadDone_failed (data := data) (weights := weights) hfind hready hfail hlt hcap
    refine ⟨_, h, ?_, ?_, fun a => rfl⟩
    · rw [order_setOrder, if_pos rfl]
      exact List.mem_append_right _ (List.mem_singleton_self _)
    · rw [order_setOrder, if_pos rfl]
      intro w hw hi
      obtain ⟨x, -, rfl⟩ := List.mem_map.1 hw
      by_cases hx : x.user = u.toNat
      · rw [if_pos hx]
        exact ⟨rfl, rfl, rfl⟩
      · rw [if_neg hx] at hi
        exact absurd hi hx

/-! ### An order that is finished -/

theorem cores_recordless : Recordless State.cores := ⟨⟨fun _ _ _ _ => rfl, fun _ _ _ _ _ => rfl⟩, fun _ _ _ => rfl, fun _ _ => rfl⟩

/-- Jobs and cores. -/
def State.jobsCores (s : State) : Tbl Job × Tbl Core := (s.jobs, s.cores)

theorem jobsCores_recordless : Recordless State.jobsCores := ⟨⟨fun _ _ _ _ => rfl, fun _ _ _ _ _ => rfl⟩, fun _ _ _ => rfl, fun _ _ => rfl⟩

theorem jobsCores_ringless : Ringless State.jobsCores := ⟨fun _ _ => rfl, fun _ _ => rfl⟩

theorem judge_cores (s : State) (j : Nat) : (s.judge j).cores = s.cores := by
  unfold State.judge
  extract_lets y late s1 s2 s3
  have h1 : s1.cores = s.cores := (Same.refl.replayLog cores_recordless).rest
  have h2 : s2.cores = s.cores := (apply_ite State.cores _ _ _).trans ((ite_eq_right_iff.2 fun _ => rfl).trans h1)
  have h3 : s3.cores = s.cores := (apply_ite State.cores _ _ _).trans ((ite_eq_right_iff.2 fun _ => rfl).trans h2)
  split
  · rfl
  split
  · exact (Same.refl.lateEvent cores_recordless.toDictless).rest.trans h3
  · exact h3

/-- A running job completes: its descriptor is the last that is written. -/
theorem completeJob_running {j : Nat} (hl : (s.job j).live = true) (hr : (s.job j).state = .running) :
    (∃ t v, (s.completeJob j).jobs = Tbl.set {} t j v ∧ v.state = .completed) ∧ (s.completeJob j).cores = s.cores := by
  unfold State.completeJob
  extract_lets y s1
  rw [if_pos (by simp [y, hl, hr])]
  exact ⟨⟨s1.jobs, _, rfl, rfl⟩, judge_cores s j⟩

theorem jobsCores_withAdaptUsed (s : State) (a : Tbl Nat) : ({ s with adaptUsed := a } : State).jobsCores = s.jobsCores := rfl

theorem bump_jobsCores (s : State) (i u : Nat) : (s.bump i u).jobsCores = s.jobsCores := rfl

theorem keepSample_jobsCores (k : Nat) (s : State) (b : List Byte) : (State.keepSample k s b).jobsCores = s.jobsCores := by
  unfold State.keepSample
  extract_lets size used
  by_cases h : size < used + b.length
  · rw [if_pos h, jobsCores_withAdaptUsed]
  · rw [if_neg h, jobsCores_withAdaptUsed, bump_jobsCores, (Same.refl.xspiWrite jobsCores_recordless).rest]

theorem keepSamples_jobsCores (s : State) (oid : Nat) : (s.keepSamples oid).jobsCores = s.jobsCores := by
  unfold State.keepSamples
  extract_lets o k full passed r n s1 s2
  have hr : r.1.jobsCores = s.jobsCores := by
    refine foldl_keeps _ (fun x : State × List Nat => x.1.jobsCores) (fun x i => ?_) _ (s, [])
    exact foldl_keeps (State.keepSample k) State.jobsCores (keepSample_jobsCores k) _ x.1
  have h1 : s1.jobsCores = s.jobsCores := hr
  split
  · rfl
  split
  · exact h1
  split
  · exact h1
  · exact h1

theorem writePayload_jobsCores (s : State) (o : Order) (i : Nat) : (s.writePayload o i).jobsCores = s.jobsCores := by
  unfold State.writePayload
  extract_lets u a0 word a1 a2 s1 m
  have hword : ∀ s q a, (word s q a).jobsCores = s.jobsCores := fun s q a => by
    simp only [word]
    split
    · split
      · exact hostWrite_keeps (fun _ _ => rfl) ..
      · rfl
    · rfl
  refine (foldl_keeps _ (fun x : State × Nat => x.1.jobsCores) (fun x f => ?_) _ (s1, a2)).trans ((hword ..).trans (hword ..))
  dsimp only
  split
  · exact hostWrite_keeps (fun _ _ => rfl) ..
  · rfl

theorem record_jobsCores (f r : Nat) (b : List Byte) : (s.record f r b).jobsCores = s.jobsCores :=
  record_keeps jobsCores_recordless.toDictless jobsCores_ringless f r b

theorem get_eq_or_mem {α : Type} (d : α) (t : Tbl α) (k : Nat) : Tbl.get d t k = d ∨ (k, Tbl.get d t k) ∈ t := by
  induction t with
  | nil => exact .inl rfl
  | cons e t ih =>
    obtain ⟨i, v⟩ := e
    rw [Tbl.get_cons]
    split
    next h => exact .inr (h ▸ List.mem_cons_self)
    next => exact ih.imp id fun h => List.mem_cons_of_mem _ h

theorem eq_of_mem_set {α : Type} [DecidableEq α] {d v w : α} {t : Tbl α} {k : Nat} (h : (k, w) ∈ Tbl.set d t k v) : w = v := by
  have hne := Tbl.erase_ne t k
  unfold Tbl.set at h
  split at h
  · exact absurd rfl (hne _ h)
  · rcases Tbl.mem_insert _ _ _ _ h with h | h
    · exact (Prod.mk.inj h).2
    · exact absurd rfl (hne _ h)

theorem get_filter_set {α : Type} [DecidableEq α] (d v : α) (t : Tbl α) (k : Nat) (q : Nat × α → Bool) :
    Tbl.get d ((Tbl.set d t k v).filter q) k = d ∨ Tbl.get d ((Tbl.set d t k v).filter q) k = v :=
  (get_eq_or_mem ..).imp id fun h => eq_of_mem_set (List.mem_of_mem_filter h)

/-- What a finished order leaves of itself and of its report's job. -/
theorem dropOrder_spec {j oid : Nat} {t : Tbl Job} {v : Job} (hj : s.jobs = Tbl.set {} t j v) (hv : v.state = .completed) :
    ((s.dropOrder oid).order oid).live = false ∧ (((s.dropOrder oid).job j).live = true → ((s.dropOrder oid).job j).state = .completed)
      ∧ (s.dropOrder oid).cores = s.cores := by
  unfold State.dropOrder
  extract_lets o
  refine ⟨?_, fun hl => ?_, rfl⟩
  · rw [State.order, Tbl.get_set, if_pos rfl]
  · unfold State.job at hl ⊢
    dsimp only at hl ⊢
    rw [hj] at hl ⊢
    rcases get_filter_set {} v t j (fun e => !(o.jobs.contains e.1 && (e.2.state == .completed || e.2.state == .waiting))) with h | h
    · rw [h] at hl
      cases hl
    · rw [h, hv]

/-- The last steps of an order whose report's job has just completed, by way of steps that leave jobs and cores alone. -/
theorem finished_spec {j oid : Nat} {u : State} (hl : (s.job j).live = true) (hr : (s.job j).state = .running)
    (hu : u.jobsCores = (s.completeJob j).jobsCores) :
    ((u.dropOrder oid).order oid).live = false ∧ (((u.dropOrder oid).job j).live = true → ((u.dropOrder oid).job j).state = .completed)
      ∧ (u.dropOrder oid).cores = s.cores := by
  obtain ⟨⟨t, v, hj, hv⟩, hc⟩ := completeJob_running hl hr
  obtain ⟨hujobs, hucores⟩ := Prod.mk.inj hu
  obtain ⟨h1, h2, h3⟩ := dropOrder_spec (oid := oid) (hujobs.trans hj) hv
  exact ⟨h1, h2, h3.trans (hucores.trans hc)⟩

theorem writeUplink_drops (s : State) (oid : Nat) : ∃ u : State, u.jobsCores = s.jobsCores ∧ s.writeUplink oid = u.dropOrder oid := by
  unfold State.writeUplink
  extract_lets s0 o e s1 rec_
  have h1 : s1.jobsCores = s.jobsCores :=
    (foldl_keeps (fun s i => s.writePayload o i) State.jobsCores (fun _ _ => writePayload_jobsCores ..) _ s0).trans (keepSamples_jobsCores s oid)
  refine ⟨_, ?_, rfl⟩
  split
  · exact h1
  · exact (record_jobsCores ..).trans h1

theorem reportCutoff_ended {id : BitVec 32} (hl : (s.job id.toNat).live = true) (hk : (s.job id.toNat).kind = 6) (hr : (s.job id.toNat).state = .running)
    (ho : (s.order (s.job id.toNat).order).live = true)
    (hc : s.reached (s.job id.toNat).tb (s.cutoff (s.order (s.job id.toNat).order).body) = true)
    (hw : ∀ w ∈ (s.order (s.job id.toNat).order).words, w.ended = true) :
    execReportCutoff id s = .next ((s.completeJob id.toNat).writeUplink (s.job id.toNat).order) := by
  unfold execReportCutoff
  extract_lets j y o open_ s0 s1 s2
  have hopen : open_ = [] := by
    have hnone : (o.words.filter fun w => !w.ended) = [] := List.filter_eq_nil_iff.2 fun w h => by simp [hw w h]
    simp only [open_, hnone, List.flatMap_nil]
  have h0 : s0 = s := if_neg (by rw [show y.state = .running from hr]; decide)
  have h1 : s1 = s := by simp only [s1, hopen, List.foldl_nil, h0]
  have h2 : s2 = s := (if_pos hopen).trans h1
  rw [h2, if_neg]
  rw [show y.live = true from hl, show y.kind = 6 from hk, show o.live = true from ho, show s.reached y.tb (s.cutoff o.body) = true from hc]
  decide

theorem dlReportWrite_drops {id : BitVec 32} (hl : (s.job id.toNat).live = true) (hk : (s.job id.toNat).kind = 0x14)
    (hr : (s.job id.toNat).state = .running) (ho : (s.order (s.job id.toNat).order).live = true) :
    ∃ u : State, u.jobsCores = (s.completeJob id.toNat).jobsCores ∧ execDlReportWrite id s = .next (u.dropOrder (s.job id.toNat).order) := by
  unfold execDlReportWrite
  extract_lets j y o e s0 s1
  have h1 : s1.jobsCores = s0.jobsCores := (apply_ite State.jobsCores _ _ _).trans (ite_eq_left_iff.2 fun _ => record_jobsCores ..)
  refine ⟨s1.returnBits y.order, ?_, if_neg ?_⟩
  · exact (foldl_keeps (fun (s : State) (h : Nat × Nat) => s.returnHandle h.1 h.2) State.jobsCores (fun _ _ => rfl) _ s1).trans h1
  · rw [show y.live = true from hl, show y.kind = 0x14 from hk, show y.state = .running from hr, show o.live = true from ho]
    decide

theorem reportCutoff_spec (id : BitVec 32) (s : State) :
    let j := id.toNat
    let y := s.job j
    y.live = true → y.kind = 6 → y.state = .running → (s.order y.order).live = true → s.reached y.tb (s.cutoff (s.order y.order).body) = true →
    (∀ w ∈ (s.order y.order).words, w.ended = true) →
    ∃ t, exec (.reportCutoff id) s = .next t ∧ (t.order y.order).live = false ∧ ((t.job j).live = true → (t.job j).state = .completed) ∧ t.cores = s.cores := by
  intro j y hl hk hr ho hc hw
  obtain ⟨u, hu, hdrop⟩ := writeUplink_drops (s.completeJob j) y.order
  exact ⟨_, (reportCutoff_ended hl hk hr ho hc hw).trans (congrArg _ hdrop), finished_spec hl hr hu⟩

theorem dlReportWrite_spec (id : BitVec 32) (s : State) :
    let j := id.toNat
    let y := s.job j
    y.live = true → y.kind = 0x14 → y.state = .running → (s.order y.order).live = true →
    ∃ t, exec (.dlReportWrite id) s = .next t ∧ (t.order y.order).live = false ∧ ((t.job j).live = true → (t.job j).state = .completed) ∧ t.cores = s.cores := by
  intro j y hl hk hr ho
  obtain ⟨u, hu, e⟩ := dlReportWrite_drops hl hk hr ho
  exact ⟨_, e, finished_spec hl hr hu⟩

/-! ### The disposal of a fenced job -/

theorem returnHandles_eq {j : Nat} (h : ∀ e ∈ s.heldBy, e.2 ≠ j) : s.returnHandles j = s := by
  have hl : (s.heldBy.filter fun e => e.2 == j) = [] := List.filter_eq_nil_iff.2 fun e he => by simp [h e he]
  unfold State.returnHandles State.handlesOf
  rw [hl]
  exact ite_self s

theorem returnEnqueued_queues {j : Nat} (h : ∀ e ∈ s.queues, j ∉ e.2.from_) : ∃ q, s.returnEnqueued j = { s with queues := q } := by
  unfold State.returnEnqueued
  extract_lets stage mine strip s1
  have hmine : mine = [] := List.flatMap_eq_nil_iff.2 fun e he => by
    have hz : ((e.2.items.zip e.2.from_).filter fun x => x.2 == j) = [] := List.filter_eq_nil_iff.2 fun x hx => by
      have hx2 : x.2 ∈ e.2.from_ := (List.of_mem_zip hx).2
      have hne : x.2 ≠ j := fun hj => h e (List.mem_of_mem_filter he) (hj ▸ hx2)
      simp [hne]
    rw [hz, List.map_nil]
  rw [hmine, List.mergeSort_nil, List.foldl_nil]
  exact ⟨_, rfl⟩

theorem fenceConsumers_eq {j : Nat} (h : ∀ e ∈ s.heldBy, Tbl.get 0 s.handleFrom e.1 ≠ j) : s.fenceConsumers j = s := by
  have hl : (s.heldBy.filter fun e => Tbl.get 0 s.handleFrom e.1 == j && e.2 != 0 && e.2 != j) = [] :=
    List.filter_eq_nil_iff.2 fun e he => by simp [h e he]
  unfold State.fenceConsumers
  rw [hl]
  rfl

theorem rerun_eq {j : Nat} (h : (s.order (s.job j).order).live = false) : s.rerun j = s := by
  unfold State.rerun
  extract_lets y f fits up
  exact if_pos h

/-- A value that f does not turn into the default is found where it was. -/
theorem get_mapV {α : Type} [DecidableEq α] {d : α} {f : α → α} {t : Tbl α} {k : Nat} (hf : f (Tbl.get d t k) ≠ d) (hk : Tbl.get d t k ≠ d) :
    Tbl.get d (Tbl.mapV d t f) k = f (Tbl.get d t k) := by
  induction t with
  | nil => exact absurd rfl hk
  | cons e t ih =>
    obtain ⟨i, v⟩ := e
    rw [Tbl.get_cons] at hf hk ⊢
    by_cases hi : i = k
    · rw [if_pos hi] at hf ⊢
      rw [Tbl.mapV, List.map_cons, List.filter_cons, if_pos (decide_eq_true hf), Tbl.get_cons, if_pos hi]
    · rw [if_neg hi] at hf hk ⊢
      rw [← ih hf hk, Tbl.mapV, List.map_cons, List.filter_cons]
      split
      · rw [Tbl.get_cons, if_neg hi]
        rfl
      · rfl

theorem abandonTallies_rest (j : Nat) : (s.abandonTallies j).jobs = s.jobs ∧ (s.abandonTallies j).fenceQueue = s.fenceQueue := by
  unfold State.abandonTallies
  split
  · exact ⟨rfl, rfl⟩
  · exact ⟨rfl, rfl⟩

theorem abandonTallies_orders (j : Nat) : (s.abandonTallies j).orders = s.orders := by
  unfold State.abandonTallies
  split
  · rfl
  · rfl

theorem abandonTallies_get {j i u : Nat} (h : okey i u ≠ okey 0x3340 1) : (s.abandonTallies j).get i u = s.get i u := by
  unfold State.abandonTallies
  split
  · rfl
  · exact (get_put ..).trans (if_neg h)

/-- A Tally that job j leaves if it holds it (R290). -/
def Tally.leftBy (j : Nat) (y : Tally) : Tally := if y.holder = j then { y with holder := 0, abandoned := true } else y

theorem abandonTallies_tallies {j : Nat} (hj : j ≠ 0) : (s.abandonTallies j).tallies = Tbl.mapV {} s.tallies (Tally.leftBy j) := by
  unfold State.abandonTallies
  rw [if_neg hj]
  rfl

theorem abandonTallies_tally {j i : Nat} (hj : j ≠ 0) (h : (s.tally i).holder = j) :
    ((s.abandonTallies j).tally i).holder = 0 ∧ ((s.abandonTallies j).tally i).abandoned = true := by
  have hleft : Tally.leftBy j (s.tally i) = { s.tally i with holder := 0, abandoned := true } := if_pos h
  have hne : Tally.leftBy j (s.tally i) ≠ {} := by
    rw [hleft]
    exact fun e => Bool.noConfusion (congrArg Tally.abandoned e : true = false)
  have hget : (s.abandonTallies j).tally i = Tally.leftBy j (s.tally i) := by
    rw [State.tally, abandonTallies_tallies hj]
    exact get_mapV hne fun e => hj (h.symm.trans (congrArg Tally.holder e))
  rw [hget, hleft]
  exact ⟨rfl, rfl⟩

/-- What the disposal of a job is noted in. -/
def State.disposal (s : State) : List Fence × Tbl Job × List Nat × Tbl Tally := (s.fences, s.jobs, s.fenceQueue, s.tallies)

theorem disposal_logless : Logless State.disposal where
  put _ _ _ _ := rfl
  putB _ _ _ _ _ := rfl
  putBlob _ _ _ _ := rfl
  store _ _ _ _ := rfl
  storeBytes _ _ _ := rfl
  setCore _ _ _ := rfl
  replay _ _ := rfl
  firm _ _ := rfl

/-- The descriptor of a fenced job is done, its disposal counts in FENCED of its Court, and its fence leaves FENCES. -/
def State.lifted (s : State) (j court : Nat) : State :=
  let s1 := (s.setJob j { s.job j with live := (s.job j).lost, core := 0xFF, done := true }).bump (0x3020 + court) 4
  { s1 with fences := s1.fences.filter fun x => !(x.grain == 0 && x.job == j) }

theorem lifted_fences {j court : Nat} {x : Fence} (hx : x ∈ (s.lifted j court).fences) (hg : x.grain = 0) : x.job ≠ j := by
  have h := (List.mem_filter.1 hx).2
  intro hj
  simp [hg, hj] at h

theorem lifted_job {j court : Nat} : ((s.lifted j court).job j).live = (s.job j).lost ∧ ((s.lifted j court).job j).done = true := by
  have h : (s.lifted j court).job j = { s.job j with live := (s.job j).lost, core := 0xFF, done := true } := (job_setJob ..).trans (if_pos rfl)
  rw [h]
  exact ⟨rfl, rfl⟩

theorem lifted_count {j court : Nat} : (s.lifted j court).get (0x3020 + court) 4 = (s.get (0x3020 + court) 4 + 1) % 2 ^ 32 := get_bump ..

theorem lifted_rest {j court : Nat} : (s.lifted j court).tallies = s.tallies ∧ (s.lifted j court).fenceQueue = s.fenceQueue := by
  unfold State.lifted State.bump State.put State.setJob
  constructor
  · dsimp only
  · dsimp only

/-- The state in which a fenced job has left its Tallies, its descriptor and its fence (R393). -/
def State.disposed (s : State) (j court : Nat) : State := (s.abandonTallies j).lifted j court

theorem disposed_job {j court : Nat} : ((s.disposed j court).job j).live = (s.job j).lost ∧ ((s.disposed j court).job j).done = true := by
  have h : (s.abandonTallies j).job j = s.job j := by rw [State.job, State.job, (abandonTallies_rest j).1]
  rw [← h]
  exact lifted_job

theorem disposed_count {j court : Nat} (hc : court < 16) : (s.disposed j court).get (0x3020 + court) 4 = (s.get (0x3020 + court) 4 + 1) % 2 ^ 32 := by
  rw [State.disposed, lifted_count, abandonTallies_get (by unfold okey; omega)]

theorem disposed_tally {j court i : Nat} (hj : j ≠ 0) (h : (s.tally i).holder = j) :
    ((s.disposed j court).tally i).holder = 0 ∧ ((s.disposed j court).tally i).abandoned = true := by
  rw [State.tally, State.disposed, lifted_rest.1]
  exact abandonTallies_tally hj h

theorem disposed_fenceQueue {j court : Nat} : (s.disposed j court).fenceQueue = s.fenceQueue := lifted_rest.2.trans (abandonTallies_rest j).2

theorem tracked_courtIx {k : Nat} (h : k < 16) : Tracked (okey (0x3020 + k) 4) := by
  revert k
  decide

/-- The disposal of a customer job that is on no core and neither holds nor has passed on a handle. -/
theorem fenceDisposal_customer {j : Nat} {r : List Nat} (hq : s.fenceQueue = j :: r) (hk : (s.job j).kind = 0x20) (hcore : (s.job j).core = 0xFF)
    (hord : (s.order (s.job j).order).live = false) (hheld : ∀ e ∈ s.heldBy, e.2 ≠ j ∧ Tbl.get 0 s.handleFrom e.1 ≠ j)
    (hqueues : ∀ e ∈ s.queues, j ∉ e.2.from_) :
    ∃ u t : State, (u.jobs = s.jobs ∧ u.obj = s.obj ∧ u.tallies = s.tallies ∧ u.fenceQueue = r)
      ∧ Same State.disposal (u.disposed j (s.job j).court) t ∧ execFenceDisposal s = .next t := by
  unfold execFenceDisposal
  rw [hq]
  dsimp -zeta only
  extract_lets y s0 src s1 gone src2 s2 s3 s4 s5 x s6 s7 obj s8
  have hy : ¬ y.core < 64 := by rw [show y.core = 0xFF from hcore]; decide
  have hk5 : ¬ y.kind = 5 := by rw [show y.kind = 0x20 from hk]; decide
  have h1 : s1 = { s with fenceQueue := r } := if_neg hy
  have h2 : ∃ b w, s2 = { s with fenceQueue := r, benchPages := b, swapped := w } := by
    simp only [s2, src2, h1]
    exact ⟨_, _, rfl⟩
  obtain ⟨b, w, h2⟩ := h2
  have h3 : s3 = s2 := (if_neg hk5).trans (returnHandles_eq (by rw [h2]; exact fun e he => (hheld e he).1))
  obtain ⟨q, hq3⟩ := returnEnqueued_queues (s := s3) (j := j) (by rw [h3, h2]; exact hqueues)
  obtain ⟨v, hv⟩ : ∃ v : State, v = s3.returnEnqueued j := ⟨_, rfl⟩
  have hvs : v.jobs = s.jobs ∧ v.obj = s.obj ∧ v.tallies = s.tallies ∧ v.fenceQueue = r ∧ v.orders = s.orders ∧ v.heldBy = s.heldBy
      ∧ v.handleFrom = s.handleFrom := by
    rw [hv, hq3, h3, h2]
    exact ⟨rfl, rfl, rfl, rfl, rfl, rfl, rfl⟩
  obtain ⟨hvj, hvo, hvt, hvq, hvord, hvh, hvf⟩ := hvs
  have h4 : s4 = v.abandonTallies j := by
    simp only [s4, ← hv]
    rw [fenceConsumers_eq (by rw [hvh, hvf]; exact fun e he => (hheld e he).2)]
  have h5 : s5 = v.abandonTallies j := by
    refine (if_neg hk5).trans ((congrArg (State.rerun · j) h4).trans (rerun_eq ?_))
    rw [State.order, State.job, abandonTallies_orders, (abandonTallies_rest j).1, hvord, hvj]
    exact hord
  have h7 : s7 = v.disposed j y.court := by
    simp only [s7, s6, x, h5]
    rfl
  refine ⟨v, s8, ⟨hvj, hvo, hvt, hvq⟩, ?_, by rw [if_neg hy]⟩
  rw [← show s7 = v.disposed j (s.job j).court from h7]
  exact Same.refl.logFault disposal_logless

theorem fenceDisposal_spec (s : State) (j : Nat) (r : List Nat) :
    let y := s.job j
    s.fenceQueue = j :: r → j ≠ 0 → y.kind = 0x20 → y.core = 0xFF → y.court < 16 → (s.order y.order).live = false →
    (∀ e ∈ s.heldBy, e.2 ≠ j ∧ Tbl.get 0 s.handleFrom e.1 ≠ j) → (∀ e ∈ s.queues, j ∉ e.2.from_) →
    ∃ t, exec .fenceDisposal s = .next t ∧ (∀ x ∈ t.fences, x.grain = 0 → x.job ≠ j) ∧ (t.job j).live = (s.job j).lost ∧ (t.job j).done = true
      ∧ t.fenceQueue = r ∧ t.get (0x3020 + y.court) 4 = (s.get (0x3020 + y.court) 4 + 1) % 2 ^ 32
      ∧ (∀ i, (s.tally i).holder = j → (t.tally i).holder = 0 ∧ (t.tally i).abandoned = true) := by
  intro y hq hj hk hcore hcourt hord hheld hqueues
  obtain ⟨u, t, ⟨hjobs, hobj, htal, hqueue⟩, hsame, e⟩ := fenceDisposal_customer hq hk hcore hord hheld hqueues
  obtain ⟨hfences, htjobs, htqueue, httal⟩ : _ ∧ _ ∧ _ ∧ _ := by simpa only [State.disposal, Prod.mk.injEq] using hsame.rest
  have hjob : t.job j = (u.disposed j y.court).job j := by rw [State.job, State.job, htjobs]
  have hu : u.job j = s.job j := by rw [State.job, State.job, hjobs]
  obtain ⟨hlive, hdone⟩ := disposed_job (s := u) (j := j) (court := y.court)
  refine ⟨t, e, fun x hx hg => ?_, by rw [hjob, hlive, hu], by rw [hjob, hdone], htqueue.trans (disposed_fenceQueue.trans hqueue), ?_, fun i hi => ?_⟩
  · rw [hfences] at hx
    exact lifted_fences hx hg
  · have hget : u.get (0x3020 + y.court) 4 = s.get (0x3020 + y.court) 4 := by rw [State.get, State.get, hobj]
    rw [hsame.get (tracked_courtIx hcourt), disposed_count hcourt, hget]
  · have htally : t.tally i = (u.disposed j y.court).tally i := by rw [State.tally, State.tally, httal]
    rw [htally]
    have hui : u.tally i = s.tally i := by rw [State.tally, State.tally, htal]
    exact disposed_tally hj (by rw [hui, hi])

/-- Settles O28: the two ends of an entry's read, the end of a transport block's read, the two reports, and the disposal of a fenced job, each by the
lemma of its instruction above. -/
theorem ordersReportsAndDisposals : Obligations.OrdersReportsAndDisposals := by
  unfold Obligations.OrdersReportsAndDisposals
  refine ⟨⟨soEntryRead_accepts, soEntryRead_skips, tbReadDone_spec, reportCutoff_spec, dlReportWrite_spec⟩, fun s hq => ?_, fenceDisposal_spec⟩
  show execFenceDisposal s = _
  unfold execFenceDisposal
  rw [hq]

end Sys2Proof.Machine
end

/-!
# The family 02_air_time.md: timed pins (O44)
-/

section
namespace Sys2Proof.Machine
open Sys2Proof Sys2Proof.Claims

variable {s : State} {p : Nat}

/-! ## Reads of pins -/

@[simp] theorem pin_setPin (s : State) (p q : Nat) (x : Pin) : (s.setPin p x).pin q = if q = p then x else s.pin q := by
  simp [State.pin, State.setPin]

@[simp] theorem pin_put (s : State) (i u v q : Nat) : (s.put i u v).pin q = s.pin q := rfl

@[simp] theorem get_setPin (s : State) (p : Nat) (x : Pin) (i u : Nat) : (s.setPin p x).get i u = s.get i u := rfl

@[simp] theorem cut_setPin (s : State) (p : Nat) (x : Pin) : (s.setPin p x).cut = s.cut := rfl

/-- The two subindices of one object have two keys. -/
theorem okey_inj_sub {i u v : Nat} : okey i u = okey i v ↔ u = v := by
  unfold okey
  omega

/-! ## The ball -/

theorem drivePin_pin (s : State) (p : Nat) : (s.drivePin p).pin p = { s.pin p with ball := s.pinBall p } := by
  unfold State.drivePin
  extract_lets x b
  split
  · rename_i hb
    rw [show s.pinBall p = (s.pin p).ball from hb]
  · exact (pin_setPin ..).trans (if_pos rfl)

theorem drivePin_pin_ne (s : State) {p q : Nat} (h : q ≠ p) : (s.drivePin p).pin q = s.pin q := by
  unfold State.drivePin
  extract_lets x b
  split
  · rfl
  · exact (pin_setPin ..).trans (if_neg h)

/-- The ball changes the pin's record and what leaves the chip, nothing else. -/
theorem drivePin_only (s : State) (p : Nat) : ∃ l o, s.drivePin p = { s with pins := l, out := o } := by
  unfold State.drivePin
  extract_lets x b
  split
  · exact ⟨_, _, rfl⟩
  · exact ⟨_, _, rfl⟩

theorem drivePin_out_length (s : State) (p : Nat) :
    (s.drivePin p).out.length = s.out.length + if s.pinBall p = (s.pin p).ball then 0 else 1 := by
  unfold State.drivePin
  extract_lets x b
  by_cases h : s.pinBall p = (s.pin p).ball
  · rw [if_pos h, if_pos (show b = x.ball from h)]
    rfl
  · rw [if_neg h, if_neg (show ¬ b = x.ball from h)]
    exact List.length_append

theorem drivePin_get (s : State) (p i u : Nat) : (s.drivePin p).get i u = s.get i u := by
  obtain ⟨l, o, e⟩ := drivePin_only s p
  rw [e]
  rfl

/-- A forced pin whose program has begun, or that a program drives now, stands at its inactive level (R48). -/
theorem pinBall_forced (hf : (s.pin p).forced = true) (h : (s.pin p).used = true ∨ (s.get (pinIx p) 1 ≠ 0 ∧ s.get (pinIx p) 1 ≠ 6)) :
    s.pinBall p = if s.get (pinIx p) 3 = 0 then .low else .high := by
  unfold State.pinBall
  extract_lets i x m on
  rw [if_neg (by simp only [x, m, i]; rcases h with h | h <;> simp [h]), if_neg (by simp [x, hf])]
  simp only [on, x, hf]
  by_cases h3 : s.get (pinIx p) 3 = 0 <;> simp [i, h3]

/-- In the modes ONE_SHOT, PERIODIC and CYCLE_START the ball shows the program's output while nothing forces it (R45, R48). -/
theorem pinBall_program (hm : s.get (pinIx p) 1 = 2 ∨ s.get (pinIx p) 1 = 3 ∨ s.get (pinIx p) 1 = 4) :
    s.pinBall p = if ((s.pin p).active && !(s.pin p).forced) == (s.get (pinIx p) 3 == 0) then .high else .low := by
  unfold State.pinBall
  extract_lets i x m on
  have hcut : (m == 1 || m == 5) = false := by rcases hm with h | h | h <;> simp [m, i, h]
  have h0 : m ≠ 0 ∧ m ≠ 6 := by rcases hm with h | h | h <;> simp [m, i, h]
  rw [if_neg (by simp [h0]), if_neg (by simp [h0])]
  simp only [on, hcut, Bool.and_false, Bool.not_false, Bool.and_true]
  rfl

/-! ## Forced pins -/

/-- What FORCE_INACTIVE and RELEASE do: the pin is forced or not, and its ball takes the level that follows. -/
theorem forcePin_spec (s : State) (p : Nat) (on : Bool) {b : Ball} (hb : (s.setPin p { s.pin p with forced := on }).pinBall p = b) :
    (s.forcePin p on).pin p = { s.pin p with forced := on, ball := b }
      ∧ (s.forcePin p on).out.length = s.out.length + (if b = (s.pin p).ball then 0 else 1)
      ∧ (∀ q, q ≠ p → (s.forcePin p on).pin q = s.pin q) ∧ ∃ l o, s.forcePin p on = { s with pins := l, out := o } := by
  have hpin : (s.setPin p { s.pin p with forced := on }).pin p = { s.pin p with forced := on } := (pin_setPin ..).trans (if_pos rfl)
  refine ⟨?_, ?_, fun q hq => ?_, ?_⟩
  · rw [State.forcePin, drivePin_pin, hpin, hb]
  · rw [State.forcePin, drivePin_out_length, hpin, hb]
    rfl
  · rw [State.forcePin, drivePin_pin_ne _ hq, pin_setPin, if_neg hq]
  · obtain ⟨l, o, e⟩ := drivePin_only (s.setPin p { s.pin p with forced := on }) p
    exact ⟨l, o, e⟩

theorem forceInactive_spec (pin : Fin 32) (s : State)
    (h : (s.pin pin).used = true ∨ (s.get (pinIx pin) 1 ≠ 0 ∧ s.get (pinIx pin) 1 ≠ 6)) :
    let x := s.pin pin
    let b : Ball := if s.get (pinIx pin) 3 = 0 then .low else .high
    ∃ t, exec (.forceInactive pin) s = .next t ∧ t.pin pin = { x with forced := true, ball := b }
      ∧ t.out.length = s.out.length + (if b = x.ball then 0 else 1) ∧ (∀ q, q ≠ pin.val → t.pin q = s.pin q)
      ∧ ∃ l o, t = { s with pins := l, out := o } :=
  ⟨_, rfl, forcePin_spec s pin true (pinBall_forced (by simp) (by simpa using h))⟩

theorem release_spec (pin : Fin 32) (s : State)
    (hm : s.get (pinIx pin) 1 = 2 ∨ s.get (pinIx pin) 1 = 3 ∨ s.get (pinIx pin) 1 = 4) :
    let x := s.pin pin
    let b : Ball := if x.active == (s.get (pinIx pin) 3 == 0) then .high else .low
    ∃ t, exec (.release pin) s = .next t ∧ t.pin pin = { x with forced := false, ball := b }
      ∧ t.out.length = s.out.length + (if b = x.ball then 0 else 1) ∧ (∀ q, q ≠ pin.val → t.pin q = s.pin q)
      ∧ ∃ l o, t = { s with pins := l, out := o } := by
  have hball := pinBall_program (s := s.setPin pin { s.pin pin with forced := false }) (p := pin) hm
  exact ⟨_, rfl, forcePin_spec s pin false (hball.trans (by simp))⟩

/-! ## Edges of a program -/

theorem pinOld_eq (h : (s.pin p).until_ = none) : s.pinOld p = s := by
  unfold State.pinOld
  dsimp only
  rw [h]

theorem pinLevel_oneShot (hm : s.get (pinIx p) 1 = 2) :
    s.pinLevel p = decide ((s.pin p).start ≤ (s.tb (s.get (pinIx p) 2 % 8)).tc
      ∧ (s.tb (s.get (pinIx p) 2 % 8)).tc < (s.pin p).start + s.get (pinIx p) 5) := by
  unfold State.pinLevel
  extract_lets i x n mu e t w period u mode
  have hmode : mode = 2 := hm
  rw [if_neg (by omega), if_pos hmode]

/-- The state in which an edge of a pin's program has counted and the pin's output is `on`. -/
def State.pinMoved (s : State) (p : Nat) (on : Bool) : State := (s.setPin p { s.pin p with want := on, active := on }).bump (pinIx p) 0x0F

theorem pinMoved_pin (s : State) (p : Nat) (on : Bool) : (s.pinMoved p on).pin p = { s.pin p with want := on, active := on } := by
  simp [State.pinMoved, State.bump]

theorem pinMoved_pin_ne (s : State) {p q : Nat} (on : Bool) (h : q ≠ p) : (s.pinMoved p on).pin q = s.pin q := by
  simp [State.pinMoved, State.bump, h]

theorem pinMoved_get (s : State) (p : Nat) (on : Bool) (u : Nat) :
    (s.pinMoved p on).get (pinIx p) u = if u = 0x0F then (s.get (pinIx p) 0x0F + 1) % 2 ^ 32 else s.get (pinIx p) u := by
  simp [State.pinMoved, State.bump, okey_inj_sub]

/-- An edge that moves the output forgets bursts, counts, and drives the ball. -/
theorem timedPinEdge_moves {pin : Fin 32} {on : Bool} (hu : (s.pin pin).until_ = none) (hm : s.get (pinIx pin) 1 ≠ 6)
    (hlv : s.pinLevel pin = on) (hw : (s.pin pin).want ≠ on) (ha : (s.pin pin).active ≠ on) :
    ∃ u : State, (u.pins = (s.pinMoved pin on).pins ∧ u.obj = (s.pinMoved pin on).obj ∧ u.cores = s.cores ∧ u.mem = s.mem)
      ∧ execTimedPinEdge pin s = .next (u.drivePin pin) := by
  unfold execTimedPinEdge
  extract_lets q s0 x lv s1
  have h0 : s0 = s := pinOld_eq hu
  have hx : x = s.pin pin := by simp only [x, h0, q]
  have hlv' : lv = on := by simp only [lv, h0, q, hlv]
  have h1 : s1 = s.pinMoved pin on := by
    simp only [s1, h0, hx, hlv', q]
    rw [if_neg (by simp [hw.symm, hm]), if_neg (by simp [hu]), if_neg ha.symm]
    rfl
  rw [h1]
  refine ⟨_, ?_, rfl⟩
  exact ⟨rfl, rfl, rfl, rfl⟩

theorem timedPinEdge_oneShot (pin : Fin 32) (s : State) :
    let p := pin.val
    let x := s.pin p
    let w := (s.tb (s.get (pinIx p) 2 % 8)).tc
    s.get (pinIx p) 1 = 2 → x.until_ = none →
    ∀ on : Bool, (on = true ↔ x.start ≤ w ∧ w < x.start + s.get (pinIx p) 5) → x.want ≠ on → x.active ≠ on →
      ∃ t, exec (.timedPinEdge pin) s = .next t ∧ (t.pin p).active = on ∧ t.get (pinIx p) 0x0F = (s.get (pinIx p) 0x0F + 1) % 2 ^ 32
        ∧ (t.pin p).ball = (if (on && !x.forced) == (s.get (pinIx p) 3 == 0) then .high else .low) ∧ (∀ q, q ≠ p → t.pin q = s.pin q)
        ∧ t.cores = s.cores ∧ t.mem = s.mem := by
  intro p x w hm hu on hon hw ha
  have hlv : s.pinLevel pin = on := (pinLevel_oneShot hm).trans (Bool.eq_iff_iff.2 (by simpa [x, w, p] using hon.symm))
  obtain ⟨u, ⟨hpins, hobj, hcores, hmem⟩, e⟩ := timedPinEdge_moves hu (by rw [show s.get (pinIx pin) 1 = 2 from hm]; decide) hlv hw ha
  have hpin : ∀ q, u.pin q = (s.pinMoved pin on).pin q := fun q => by rw [State.pin, State.pin, hpins]
  have hget : ∀ v, u.get (pinIx p) v = if v = 0x0F then (s.get (pinIx p) 0x0F + 1) % 2 ^ 32 else s.get (pinIx p) v := fun v => by
    rw [State.get, hobj]
    exact pinMoved_get s p on v
  obtain ⟨l, o, honly⟩ := drivePin_only u pin
  refine ⟨_, e, ?_, ?_, ?_, fun q hq => ?_, ?_, ?_⟩
  · rw [drivePin_pin, hpin, pinMoved_pin]
  · rw [drivePin_get, hget, if_pos rfl]
  · rw [drivePin_pin, pinBall_program (.inl (by rw [hget]; exact hm)), hpin, pinMoved_pin, hget]
    rfl
  · rw [drivePin_pin_ne u hq, hpin, pinMoved_pin_ne s on hq]
  · rw [honly]
    exact hcores
  · rw [honly]
    exact hmem

/-! ## Captures -/

/-- The state in which the pin has seen an edge. -/
def State.edgeSeen (s : State) (p : Nat) : State := s.setPin p { s.pin p with lastCapture := some s.clock }

theorem edgeSeen_last (s : State) (p : Nat) : ((s.edgeSeen p).pin p).lastCapture = some s.clock := by
  simp [State.edgeSeen]

theorem edgeSeen_get (s : State) (p i u : Nat) : (s.edgeSeen p).get i u = s.get i u := rfl

theorem captureEdge_far {pin : Fin 32} (h : s.get (pinIx pin) 1 = 6) (hfar : ∀ e, (s.pin pin).lastCapture = some e → e + 8 ≤ s.clock) :
    execCaptureEdge pin s = .next (((s.edgeSeen pin).bump (pinIx pin) 0x11).put (pinIx pin) 0x12 (s.airNow (s.get (pinIx pin) 2 % 8))) := by
  unfold execCaptureEdge
  extract_lets p x close s1
  have hclose : close = false := by
    cases hl : x.lastCapture with
    | none => simp only [close, hl]
    | some e => simpa only [close, hl, decide_eq_false_iff_not, not_lt] using hfar e hl
  rw [if_neg (not_not.2 h), if_neg (by simp [hclose])]
  rfl

theorem captureEdge_near {pin : Fin 32} {e : Nat} (h : s.get (pinIx pin) 1 = 6) (he : (s.pin pin).lastCapture = some e) (hnear : s.clock < e + 8) :
    execCaptureEdge pin s = .next (s.edgeSeen pin) := by
  unfold execCaptureEdge
  extract_lets p x close s1
  have hl : x.lastCapture = some e := he
  have hclose : close = true := by simpa only [close, hl, decide_eq_true_eq] using hnear
  rw [if_neg (not_not.2 h), if_pos hclose]
  rfl

theorem captureEdge_ignored {pin : Fin 32} (h : s.get (pinIx pin) 1 ≠ 6) : execCaptureEdge pin s = .next s := by
  unfold execCaptureEdge
  extract_lets
  rw [if_pos h]

theorem captureEdge_spec (pin : Fin 32) (s : State) :
    let p := pin.val
    (s.get (pinIx p) 1 ≠ 6 → exec (.captureEdge pin) s = .next s)
    ∧ (s.get (pinIx p) 1 = 6 → (∀ e, (s.pin p).lastCapture = some e → e + 8 ≤ s.clock) →
      ∃ t, exec (.captureEdge pin) s = .next t ∧ t.get (pinIx p) 0x11 = (s.get (pinIx p) 0x11 + 1) % 2 ^ 32
        ∧ t.get (pinIx p) 0x12 = s.airNow (s.get (pinIx p) 2 % 8)
        ∧ (t.pin p).lastCapture = some s.clock ∧ (∃ l o, t = { s with pins := l, obj := o }))
    ∧ (∀ e, s.get (pinIx p) 1 = 6 → (s.pin p).lastCapture = some e → s.clock < e + 8 →
      ∃ t, exec (.captureEdge pin) s = .next t ∧ t.obj = s.obj ∧ (t.pin p).lastCapture = some s.clock) := by
  intro p
  refine ⟨captureEdge_ignored, fun h hfar => ⟨_, captureEdge_far h hfar, ?_, ?_, ?_, ?_⟩, fun e h he hnear => ⟨_, captureEdge_near h he hnear, rfl, ?_⟩⟩
  · rw [get_put, if_neg (by simp [p, okey_inj_sub]), get_bump, edgeSeen_get]
  · rw [get_put, if_pos rfl]
  · rw [pin_put, State.bump, pin_put, edgeSeen_last]
  · unfold State.bump State.put State.edgeSeen State.setPin
    exact ⟨_, _, rfl⟩
  · exact edgeSeen_last s p

/-- Settles O44: an edge of a ONE_SHOT program (R45), the forcing of a pin and its release (R48), and captured edges (R49), each by the lemma of its
instruction above. -/
theorem timedPins : Obligations.TimedPins := by
  unfold Obligations.TimedPins
  exact ⟨timedPinEdge_oneShot, fun pin s => ⟨forceInactive_spec pin s, release_spec pin s⟩, captureEdge_spec⟩

end Sys2Proof.Machine
end

/-!
# The family 02_air_time.md: shared rules

What forming a status word again, and a move of a time base, leave as it was. -/

section
namespace Sys2Proof.Machine
open Sys2Proof Sys2Proof.Claims

variable {s₀ s t : State} {n m : Nat}

/-! ## The status words -/

/-- A key of the dictionary itself from index 0x2000 on: neither a banked key nor one of the objects of the status words, 0x1100 and 0x1101. -/
abbrev SetupKey (k : Nat) : Prop := 0x200000 ≤ k ∧ k < 0x1000000

theorem setupKey_okey {i u : Nat} (hi : 0x2000 ≤ i) (hi' : i < 0x10000) (hu : u < 256) : SetupKey (okey i u) := by
  unfold okey
  omega

/-- Only the dictionary differs, and no setup key of it. -/
structure Settles (s t : State) : Prop where
  only : ∃ o, t = { s with obj := o }
  obj : ∀ d k, SetupKey k → Tbl.get d t.obj k = Tbl.get d s.obj k

theorem Settles.refl : Settles s s := ⟨⟨_, rfl⟩, fun _ _ _ => rfl⟩

theorem Settles.ite {c : Prop} {inst : Decidable c} (hs : Settles s₀ s) (ht : Settles s₀ t) : Settles s₀ (if c then s else t) := by
  split
  · exact hs
  · exact ht

theorem Settles.foldl {α : Type} {f : State → α → State} {l : List α} (h : Settles s₀ s) (hf : ∀ {s x}, Settles s₀ s → Settles s₀ (f s x)) :
    Settles s₀ (l.foldl f s) := by
  induction l generalizing s with
  | nil => exact h
  | cons x l ih => exact ih (hf h)

theorem Settles.putB (h : Settles s₀ s) {b i u v : Nat} (hi : i < 0x2000) (hu : u < 256) : Settles s₀ (s.putB b i u v) := by
  obtain ⟨⟨o, e⟩, hobj⟩ := h
  refine ⟨⟨_, by rw [e]; rfl⟩, fun d k hk => (Tbl.get_set_other _ _ _ _ _ _ ?_).trans (hobj d k hk)⟩
  unfold okey
  omega

theorem Settles.bumpB (h : Settles s₀ s) {b i u : Nat} (hi : i < 0x2000) (hu : u < 256) : Settles s₀ (s.bumpB b i u) := h.putB hi hu

theorem Settles.latch (h : Settles s₀ s) {f b : Nat} (hb : b < 255) : Settles s₀ (s.latch f b) :=
  (h.putB (by decide) (by decide)).bumpB (by decide) (by omega)

theorem Settles.latchChanges (h : Settles s₀ s) {f old new : Nat} : Settles s₀ (s.latchChanges f old new) := by
  have step : ∀ {s : State} {c : Prop} {inst : Decidable c} {b : Nat}, Settles s₀ s → b < 255 → Settles s₀ (if c then s.latch f b else s) :=
    fun h hb => .ite (h.latch hb) h
  exact step (step (step (step (step (step h (by decide)) (by decide)) (by decide)) (by decide)) (by decide)) (by decide)

theorem Settles.settleF (h : Settles s₀ s) {f : Nat} : Settles s₀ (s.settleF f) :=
  .ite h.latchChanges ((h.latchChanges.putB (by decide) (by decide)).bumpB (by decide) (by decide))

theorem Settles.settle (h : Settles s₀ s) : Settles s₀ s.settle := h.foldl fun h => h.settleF

theorem Settles.attend (h : Settles s₀ s) {b court : Nat} (hb : b < 255) : Settles s₀ (s.attend b court) :=
  (Settles.ite ((h.latch hb).latch hb) (h.latch hb)).settle

theorem Settles.get (h : Settles s t) {i u : Nat} (hi : 0x2000 ≤ i) (hi' : i < 0x10000) (hu : u < 256) : t.get i u = s.get i u :=
  h.obj _ _ (setupKey_okey hi hi' hu)

theorem Settles.tb (h : Settles s t) (n : Nat) : t.tb n = s.tb n := by
  obtain ⟨o, rfl⟩ := h.only
  rfl

/-! ## Reads of time bases -/

@[simp] theorem tb_setTb (s : State) (n m : Nat) (x : TimeBase) : (s.setTb n x).tb m = if m = n then x else s.tb m := by
  simp [State.tb, State.setTb]

@[simp] theorem tb_put (s : State) (i u v m : Nat) : (s.put i u v).tb m = s.tb m := rfl

@[simp] theorem tb_bump (s : State) (i u m : Nat) : (s.bump i u).tb m = s.tb m := rfl

@[simp] theorem get_setTb (s : State) (n i u : Nat) (x : TimeBase) : (s.setTb n x).get i u = s.get i u := rfl

theorem tb_setTb_self (s : State) (n : Nat) (x : TimeBase) : (s.setTb n x).tb n = x := (tb_setTb ..).trans (if_pos rfl)

theorem get_bump_ne {i u j w : Nat} (h : okey j w ≠ okey i u) : (s.bump i u).get j w = s.get j w := (get_put ..).trans (if_neg h)

/-- Objects of two time bases have different keys. -/
theorem okey_tbIx_ne {u v : Nat} (h : m ≠ n) (hu : u < 256) (hv : v < 256) : okey (tbIx m) u ≠ okey (tbIx n) v := by
  unfold okey tbIx
  omega

theorem setupKey_tbIx {u : Nat} (hn : n < 8) (hu : u < 256) : SetupKey (okey (tbIx n) u) :=
  setupKey_okey (by unfold tbIx; omega) (by unfold tbIx; omega) hu

theorem Settles.getTb (h : Settles s t) {u : Nat} (hn : n < 8) (hu : u < 256) : t.get (tbIx n) u = s.get (tbIx n) u := h.obj _ _ (setupKey_tbIx hn hu)

theorem okey_mod {i u : Nat} (hu : u < 256) : okey i u % 256 = u := by
  unfold okey
  omega

/-! ## Which time base follows another -/

theorem tbSource_congr (hf : (t.tb n).onFallback = (s.tb n).onFallback) (h5 : t.get (tbIx n) 5 = s.get (tbIx n) 5)
    (h7 : t.get (tbIx n) 7 = s.get (tbIx n) 7) : t.tbSource n = s.tbSource n := by
  have h : ∀ b : Bool, t.get (tbIx n) (if b then 7 else 5) = s.get (tbIx n) (if b then 7 else 5) := fun b => by
    cases b
    · exact h5
    · exact h7
  unfold State.tbSource
  rw [hf]
  exact h _

theorem tbFollows_congr (he : (t.tb n).enabled = (s.tb n).enabled) (hu : (t.tb n).inUse = (s.tb n).inUse)
    (hf : (t.tb n).onFallback = (s.tb n).onFallback) (h5 : t.get (tbIx n) 5 = s.get (tbIx n) 5) (h7 : t.get (tbIx n) 7 = s.get (tbIx n) 7) :
    t.tbFollows n = s.tbFollows n := by
  rw [State.tbFollows, State.tbFollows, he, hu, tbSource_congr hf h5 h7]

theorem tbFollows_of_unused (h : (s.tb n).inUse = false) : s.tbFollows n = false := by
  simp [State.tbFollows, h]

theorem tbFollows_of_source (h : s.tbSource n ≠ 3) : s.tbFollows n = false := by
  simp [State.tbFollows, h]

/-! ## What a move of time base n leaves as it was -/

/-- Only time base n, those that follow it and the dictionary differ, and the same other time bases follow one. -/
structure Around (n : Nat) (s t : State) : Prop where
  only : ∃ o b, t = { s with obj := o, tbs := b }
  tb : ∀ m, m ≠ n → (8 ≤ m ∨ s.tbFollows m = false) → t.tb m = s.tb m
  follows : ∀ m < 8, m ≠ n → t.tbFollows m = s.tbFollows m

theorem Around.trans {u : State} (h : Around n s t) (h' : Around n t u) : Around n s u := by
  obtain ⟨o, b, rfl⟩ := h.only
  obtain ⟨o', b', rfl⟩ := h'.only
  refine ⟨⟨o', b', rfl⟩, fun m hm hf => ?_, fun m h8 hm => (h'.follows m h8 hm).trans (h.follows m h8 hm)⟩
  refine (h'.tb m hm ?_).trans (h.tb m hm hf)
  rcases Nat.lt_or_ge m 8 with h8 | h8
  · exact .inr ((h.follows m h8 hm).trans (hf.resolve_left (by omega)))
  · exact .inl h8

theorem Around.onlyTb (h : Around n s t) : onlyTb n s t := ⟨h.only, fun m hm hf => h.tb m hm (.inr hf)⟩

/-- A write of an object of time base n itself. -/
theorem Around.put (s : State) (n : Nat) {u : Nat} (v : Nat) (hu : u < 256) : Around n s (s.put (tbIx n) u v) := by
  refine ⟨⟨_, _, rfl⟩, fun m _ _ => rfl, fun m _ hm => ?_⟩
  have hget : ∀ w < 256, (s.put (tbIx n) u v).get (tbIx m) w = s.get (tbIx m) w := fun w hw => (get_put ..).trans (if_neg (okey_tbIx_ne hm hw hu))
  exact tbFollows_congr rfl rfl rfl (hget 5 (by decide)) (hget 7 (by decide))

/-- `Around`, and beside the status words only HOLDOVER_CAUSE and STATE_CHANGES of time bases; none is enabled or disabled. -/
structure Moves (n : Nat) (s t : State) : Prop extends Around n s t where
  obj : ∀ d k, SetupKey k → k % 256 ≠ 0x11 → k % 256 ≠ 0x16 → Tbl.get d t.obj k = Tbl.get d s.obj k
  enabled : ∀ m, (t.tb m).enabled = (s.tb m).enabled

theorem Moves.refl : Moves n s s := ⟨⟨⟨_, _, rfl⟩, fun _ _ _ => rfl, fun _ _ _ => rfl⟩, fun _ _ _ _ _ => rfl, fun _ => rfl⟩

theorem Moves.trans {u : State} (h : Moves n s t) (h' : Moves n t u) : Moves n s u :=
  ⟨h.toAround.trans h'.toAround, fun d k hk h1 h2 => (h'.obj d k hk h1 h2).trans (h.obj d k hk h1 h2), fun m => (h'.enabled m).trans (h.enabled m)⟩

theorem Moves.ite {c : Prop} {inst : Decidable c} (hs : Moves n s₀ s) (ht : Moves n s₀ t) : Moves n s₀ (if c then s else t) := by
  split
  · exact hs
  · exact ht

theorem Moves.foldl {α : Type} {f : State → α → State} {l : List α} (h : Moves n s₀ s) (hf : ∀ {s x}, x ∈ l → Moves n s₀ s → Moves n s₀ (f s x)) :
    Moves n s₀ (l.foldl f s) := by
  induction l generalizing s with
  | nil => exact h
  | cons x l ih => exact ih (hf (by simp) h) fun hx => hf (by simp [hx])

theorem Moves.get (h : Moves n s t) {i u : Nat} (hi : 0x2000 ≤ i) (hi' : i < 0x10000) (hu : u < 256) (h1 : u ≠ 0x11) (h2 : u ≠ 0x16) :
    t.get i u = s.get i u :=
  h.obj _ _ (setupKey_okey hi hi' hu) (by rwa [okey_mod hu]) (by rwa [okey_mod hu])

theorem Moves.getTb (h : Moves n s t) {u : Nat} (hm : m < 8) (hu : u < 256) (h1 : u ≠ 0x11) (h2 : u ≠ 0x16) : t.get (tbIx m) u = s.get (tbIx m) u :=
  h.get (by unfold tbIx; omega) (by unfold tbIx; omega) hu h1 h2

theorem Moves.setTb (h : Moves n s₀ s) {x : TimeBase} (he : x.enabled = (s.tb n).enabled) : Moves n s₀ (s.setTb n x) := by
  refine h.trans ⟨⟨⟨_, _, rfl⟩, fun m hm _ => (tb_setTb ..).trans (if_neg hm), fun m _ hm => ?_⟩, fun _ _ _ _ _ => rfl, fun m => ?_⟩
  · have hx : (s.setTb n x).tb m = s.tb m := (tb_setTb ..).trans (if_neg hm)
    exact tbFollows_congr (by rw [hx]) (by rw [hx]) (by rw [hx]) rfl rfl
  · rw [tb_setTb]
    split
    · rename_i hm
      rw [he, hm]
    · rfl

/-- A follower goes on following. -/
theorem Moves.setFollower (h : Moves n s₀ s) {x : TimeBase} (h8 : m < 8) (hf : s.tbFollows m = true) (he : x.enabled = (s.tb m).enabled)
    (hu : x.inUse = (s.tb m).inUse) (hb : x.onFallback = (s.tb m).onFallback) : Moves n s₀ (s.setTb m x) := by
  refine h.trans ⟨⟨⟨_, _, rfl⟩, fun k _ hk => (tb_setTb ..).trans (if_neg ?_), fun k _ _ => ?_⟩, fun _ _ _ _ _ => rfl, fun k => ?_⟩
  · rintro rfl
    rcases hk with hk | hk
    · omega
    · exact Bool.noConfusion (hk.symm.trans hf)
  · refine tbFollows_congr ?_ ?_ ?_ rfl rfl
    all_goals
      rw [tb_setTb]
      split
      · subst k; assumption
      · rfl
  · rw [tb_setTb]
    split
    · rename_i hk
      rw [he, hk]
    · rfl

theorem Moves.settle (h : Moves n s₀ s) : Moves n s₀ s.settle := by
  have hs : Settles s s.settle := Settles.refl.settle
  obtain ⟨o, e⟩ := hs.only
  refine h.trans ⟨⟨⟨o, s.tbs, e⟩, fun m _ _ => hs.tb m, fun m h8 _ => ?_⟩, fun d k hk _ _ => hs.obj d k hk, fun m => by rw [hs.tb]⟩
  exact tbFollows_congr (by rw [hs.tb]) (by rw [hs.tb]) (by rw [hs.tb]) (hs.getTb h8 (by decide)) (hs.getTb h8 (by decide))

/-- A write of HOLDOVER_CAUSE or STATE_CHANGES of a time base. -/
theorem Moves.putState (h : Moves n s₀ s) {u v : Nat} (hu : u = 0x11 ∨ u = 0x16) : Moves n s₀ (s.put (tbIx m) u v) := by
  have hne : ∀ k i, u ≠ k → k < 256 → okey i k ≠ okey (tbIx m) u := fun k i hk _ => by
    unfold okey
    omega
  refine h.trans ⟨⟨⟨_, _, rfl⟩, fun _ _ _ => rfl, fun k _ _ => ?_⟩, fun d k _ h1 h2 => Tbl.get_set_other _ _ _ _ _ _ ?_, fun _ => rfl⟩
  · refine tbFollows_congr rfl rfl rfl ((get_put ..).trans (if_neg (hne 5 _ ?_ (by decide)))) ((get_put ..).trans (if_neg (hne 7 _ ?_ (by decide))))
    · omega
    · omega
  · unfold okey
    omega

theorem Moves.tbEnterAt (h : Moves n s₀ s) {x : TbState} {c : Nat} (hm : m = n ∨ (m < 8 ∧ s.tbFollows m = true)) : Moves n s₀ (s.tbEnter m x c) := by
  unfold State.tbEnter
  extract_lets b s1
  have h1 : Moves n s₀ s1 := h.putState (.inl rfl)
  refine .ite h1 (Moves.settle (Moves.putState ?_ (.inr rfl)))
  rcases hm with rfl | ⟨h8, hf⟩
  · exact h1.setTb rfl
  · refine h1.setFollower h8 ?_ rfl rfl rfl
    have hput : ∀ w, w ≠ 0x11 → s1.get (tbIx m) w = s.get (tbIx m) w := fun w hw => (get_put ..).trans (if_neg (by rwa [okey_inj_sub]))
    have hsame : s1.tbFollows m = s.tbFollows m := tbFollows_congr rfl rfl rfl (hput 5 (by decide)) (hput 7 (by decide))
    exact hsame.trans hf

theorem Moves.tbEnter (h : Moves n s₀ s) {x : TbState} {c : Nat} : Moves n s₀ (s.tbEnter n x c) := h.tbEnterAt (.inl rfl)

theorem Moves.followStates (h : Moves n s₀ s) : Moves n s₀ s.followStates := by
  refine h.foldl fun {s m} hm h => ?_
  split
  · rename_i hf
    exact .ite h (h.tbEnterAt (.inr ⟨List.mem_range.1 hm, hf⟩))
  · exact h

theorem Moves.tbStep (h : Moves n s₀ s) {d : Int} : Moves n s₀ (s.tbStep n d) := by
  unfold State.tbStep
  extract_lets x less
  have h1 : Moves n s₀ (s.setTb n { x with tc := ((x.tc : Int) + d).toNat, prim := less x.prim, fb := less x.fb }) := h.setTb rfl
  refine h1.foldl fun {s m} hm h => ?_
  split
  · rename_i hf
    refine h.setFollower (List.mem_range.1 hm) hf.2.1 ?_ ?_ ?_
    all_goals
      split
      · rfl
      · rfl
  · exact h

theorem Moves.tbAcquire (h : Moves n s₀ s) : Moves n s₀ (s.tbAcquire n) := by
  unfold State.tbAcquire
  extract_lets d _ s2 _ s1
  have h1 : Moves n s₀ s1 := .ite (h.setTb rfl) (h.tbStep.setTb rfl)
  exact .ite h1.tbEnter h1.tbEnter

theorem Moves.tbWait (h : Moves n s₀ s) : Moves n s₀ (s.tbWait n) := (h.setTb (by rfl)).tbEnter

theorem Moves.tbTake (h : Moves n s₀ s) : Moves n s₀ (s.tbTake n) := .ite h.tbWait h.tbAcquire

theorem Moves.tbQualify (h : Moves n s₀ s) {b : Bool} {off : Int} : Moves n s₀ (s.tbQualify n b off) := by
  unfold State.tbQualify
  extract_lets x x1 s1
  have hx : x1.enabled = (s.tb n).enabled := by
    simp only [x1]
    split
    · rfl
    · rfl
  have h1 : Moves n s₀ s1 := h.setTb hx
  have h2 : ∀ {y : TimeBase}, y.enabled = x1.enabled → Moves n s₀ ((s1.setTb n y).tbTake n) := fun hy =>
    Moves.tbTake (h1.setTb (hy.trans (congrArg TimeBase.enabled (tb_setTb_self ..)).symm))
  exact .ite h (.ite (.ite (h2 rfl) h1) (.ite (h2 rfl) h1))

theorem Moves.toFallback (h : Moves n s₀ s) : Moves n s₀ (s.toFallback n) := by
  unfold State.toFallback
  extract_lets x s1 _ s2
  have h1 : Moves n s₀ s1 := h.setTb rfl
  have h2 : Moves n s₀ s2 := h1.setTb rfl
  exact .ite h1.tbWait (.ite (.ite h2.tbEnter h2) h1.tbAcquire)

theorem Moves.dropSource (h : Moves n s₀ s) {x : TbState} : Moves n s₀ (s.dropSource n x) :=
  .ite h.toFallback (.ite (h.setTb (by rfl)).tbEnter (h.setTb (by rfl)).tbEnter)

theorem Moves.tbLose (h : Moves n s₀ s) {b : Bool} : Moves n s₀ (s.tbLose n b) := by
  unfold State.tbLose
  extract_lets x had s1
  have h1 : Moves n s₀ s1 := by
    refine h.setTb ?_
    split
    · rfl
    · rfl
  exact .ite h1 h1.dropSource

theorem Moves.followSync (h : Moves n s₀ s) : Moves n s₀ (s.followSync n) := by
  unfold State.followSync
  extract_lets up one
  have hone : ∀ {s b}, Moves n s₀ s → Moves n s₀ (one s b) := fun h => .ite h (.ite h.tbLose (.ite h h.tbQualify))
  exact .ite (hone (hone h)) h

end Sys2Proof.Machine
end

/-!
# The family 02_air_time.md: the states of a time base (O42)
-/

section
namespace Sys2Proof.Machine
open Sys2Proof Sys2Proof.Claims

variable {s₀ s t : State} {n m : Nat}

/-! ## Entering a state -/

/-- A time base that enters a state: its counts of updates begin again or stand. -/
theorem tbEnter_tb (s : State) (n : Nat) (x : TbState) (c : Nat) : ∃ g b, (s.tbEnter n x c).tb n = { s.tb n with state := x, good := g, bad := b } := by
  unfold State.tbEnter
  extract_lets y s1
  split
  · rename_i h
    exact ⟨y.good, y.bad, by rw [← h]; rfl⟩
  · exact ⟨0, 0, (Settles.refl.settle.tb n).trans ((tb_bump ..).trans (tb_setTb_self ..))⟩

theorem tbEnter_tb_ne {x : TbState} {c : Nat} (h : m ≠ n) : (s.tbEnter n x c).tb m = s.tb m := by
  unfold State.tbEnter
  extract_lets y s1
  split
  · rfl
  · exact (Settles.refl.settle.tb m).trans ((tb_bump ..).trans ((tb_setTb ..).trans (if_neg h)))

theorem tbEnter_prim (s : State) (n m : Nat) (x : TbState) (c : Nat) : ((s.tbEnter n x c).tb m).prim = (s.tb m).prim := by
  by_cases h : m = n
  · obtain ⟨g, b, e⟩ := tbEnter_tb s n x c
    rw [h, e]
  · rw [tbEnter_tb_ne h]

theorem tbEnter_cause (s : State) (hn : n < 8) (x : TbState) (c : Nat) : (s.tbEnter n x c).get (tbIx n) 0x11 = if x = .holdover then c else 0 := by
  unfold State.tbEnter
  extract_lets y s1
  have h1 : s1.get (tbIx n) 0x11 = if x = .holdover then c else 0 := (get_put ..).trans (if_pos rfl)
  split
  · exact h1
  · rw [Settles.refl.settle.getTb hn (by decide), get_bump_ne (by simp [okey_inj_sub]), get_setTb, h1]

theorem tbEnter_changes (s : State) (hn : n < 8) (x : TbState) (c : Nat) :
    (s.tbEnter n x c).get (tbIx n) 0x16 = if (s.tb n).state = x then s.get (tbIx n) 0x16 else (s.get (tbIx n) 0x16 + 1) % 2 ^ 32 := by
  unfold State.tbEnter
  extract_lets y s1
  have h1 : s1.get (tbIx n) 0x16 = s.get (tbIx n) 0x16 := (get_put ..).trans (if_neg (by simp [okey_inj_sub]))
  by_cases h : y.state = x
  · rw [if_pos h, if_pos h, h1]
  · rw [if_neg h, if_neg h, Settles.refl.settle.getTb hn (by decide), get_bump, get_setTb, h1]

theorem tbEnter_getTb (s : State) (hn : n < 8) (x : TbState) (c : Nat) {u : Nat} (hu : u < 256) (h1 : u ≠ 0x11) (h2 : u ≠ 0x16) :
    (s.tbEnter n x c).get (tbIx n) u = s.get (tbIx n) u :=
  (Moves.refl.tbEnter (n := n)).getTb hn hu h1 h2

/-- Another time base's entering a state leaves the objects of time base n. -/
theorem tbEnter_getTb_ne {x : TbState} {c u : Nat} (h : n ≠ m) (hn : n < 8) (hu : u < 256) :
    (s.tbEnter m x c).get (tbIx n) u = s.get (tbIx n) u := by
  unfold State.tbEnter
  extract_lets y s1
  have h1 : s1.get (tbIx n) u = s.get (tbIx n) u := (get_put ..).trans (if_neg (okey_tbIx_ne h hu (by decide)))
  split
  · exact h1
  · rw [Settles.refl.settle.getTb hn hu, get_bump_ne (okey_tbIx_ne h hu (by decide)), get_setTb, h1]

/-- Time base n and its objects stand. -/
structure Stays (n : Nat) (s t : State) : Prop where
  tb : t.tb n = s.tb n
  get : ∀ u < 256, t.get (tbIx n) u = s.get (tbIx n) u

/-- What holds at first and as followers enter states holds when every follower has taken its state. -/
theorem followStates_of {P : State → Prop} (h : P s) (step : ∀ u m x c, u.tbFollows m = true → P u → P (u.tbEnter m x c)) : P s.followStates := by
  refine foldl_inv _ P (fun u m hu => ?_) _ _ h
  split
  · rename_i hm
    exact iteInduction (fun _ => hu) fun _ => step u m _ _ hm hu
  · exact hu

/-- A time base that follows none is left alone as the followers take their states. -/
theorem followStates_stays (hn : n < 8) (hf : s.tbFollows n = false) : Stays n s s.followStates := by
  refine followStates_of ⟨rfl, fun _ _ => rfl⟩ fun u m x c hm h => ?_
  have hnm : n ≠ m := by
    rintro rfl
    have hsame : u.tbFollows n = s.tbFollows n := by
      refine tbFollows_congr ?_ ?_ ?_ (h.get 5 (by decide)) (h.get 7 (by decide))
      all_goals rw [h.tb]
    exact Bool.noConfusion (hm.symm.trans (hsame.trans hf))
  exact ⟨(tbEnter_tb_ne hnm).trans h.tb, fun v hv => (tbEnter_getTb_ne hnm hn hv).trans (h.get v hv)⟩

theorem followStates_prim (s : State) (n : Nat) : (s.followStates.tb n).prim = (s.tb n).prim :=
  followStates_of (P := fun u => (u.tb n).prim = (s.tb n).prim) rfl fun u m x c _ h => (tbEnter_prim u m n x c).trans h

/-! ## References -/

theorem any_congr {α : Type} {l : List α} {p q : α → Bool} (h : ∀ x ∈ l, p x = q x) : l.any p = l.any q := by
  rw [Bool.eq_iff_iff, List.any_eq_true, List.any_eq_true]
  exact exists_congr fun x => and_congr_right fun hx => by rw [h x hx]

theorem tbNamed_congr {g g' : Nat → Nat → Nat} (h : ∀ i u, 0x2100 ≤ i → i < 0x2700 → u < 8 → g i u = g' i u) : tbNamed g n = tbNamed g' n := by
  unfold tbNamed
  congr 1
  · refine any_congr fun c hc => ?_
    have hc := List.mem_range.1 hc
    rw [h _ 1 (by omega) (by omega) (by decide), h _ 2 (by omega) (by omega) (by decide)]
  · refine any_congr fun c hc => ?_
    have hc := List.mem_range.1 hc
    rw [h _ 1 (by omega) (by omega) (by decide), h _ 2 (by omega) (by omega) (by decide)]

/-- Whether a time base is referenced rests on the carriers, the pins, the members, the jobs, the Rallies and whether it is enabled. -/
theorem tbReferenced_congr (hg : ∀ i u, 0x2100 ≤ i → i < 0x2700 → u < 8 → t.get i u = s.get i u) (hj : t.jobs = s.jobs) (hr : t.rallies = s.rallies)
    (hc : t.chip = s.chip) (he : (t.tb n).enabled = (s.tb n).enabled) : t.tbReferenced n = s.tbReferenced n := by
  have hmem : t.get 0x2600 5 = s.get 0x2600 5 := hg _ _ (by decide) (by decide) (by decide)
  simp only [State.tbReferenced, State.tbJobs, State.coordinates, State.multiChip, State.memberCount, State.isMember, tbNamed_congr hg, hmem, hj, hr, hc, he]
  rfl

theorem Moves.referenced (h : Moves n s t) : t.tbReferenced m = s.tbReferenced m := by
  obtain ⟨o, b, e⟩ := h.only
  refine tbReferenced_congr (fun i u hi hi' hu => h.get (by omega) (by omega) (by omega) (by omega) (by omega)) ?_ ?_ ?_ (h.enabled m)
  all_goals rw [e]

/-! ## Acquiring a source -/

/-- The offset of the source that `onFallback` names, 0 where it has none. -/
def TimeBase.offset (x : TimeBase) : Int := (if x.onFallback then x.fb else x.prim).getD 0

theorem phaseQuarter_source (h : s.tbSource n ≠ 3) : s.phaseQuarter n = (s.tb n).offset := if_neg h

theorem phaseTc_source (h : s.tbSource n ≠ 3) : s.phaseTc n = quarterToTc (s.tb n).offset := by
  rw [State.phaseTc, if_neg h, phaseQuarter_source h]

theorem stepNeeded_iff (h : s.tbSource n ≠ 3) :
    s.stepNeeded n = true ↔ s.tbReferenced n = true ∧ s.get (tbIx n) 0x0D * 4 < (s.tb n).offset.natAbs := by
  simp [State.stepNeeded, phaseQuarter_source h]

/-- A time base that has stepped by d Tc, its sources' offsets with it. -/
def TimeBase.stepped (x : TimeBase) (d : Int) : TimeBase :=
  { x with tc := ((x.tc : Int) + d).toNat, prim := x.prim.map fun o => o - tcToQuarter d, fb := x.fb.map fun o => o - tcToQuarter d }

theorem tbStep_tb (s : State) (n : Nat) (d : Int) : (s.tbStep n d).tb n = (s.tb n).stepped d := by
  unfold State.tbStep
  extract_lets x less
  refine (foldl_keeps _ (fun s : State => s.tb n) (fun u m => ?_) _ _).trans (tb_setTb_self ..)
  dsimp only
  split
  · rename_i h
    exact (tb_setTb ..).trans (if_neg h.1.symm)
  · rfl

/-- A referenced time base slews to the phase of its source. -/
theorem tbAcquire_referenced (hr : s.tbReferenced n = true) (h3 : s.tbSource n ≠ 3) :
    s.tbAcquire n = (s.setTb n { s.tb n with inUse := true, slew := quarterToTc (s.tb n).offset }).tbEnter n .acquiring 0 := by
  unfold State.tbAcquire
  extract_lets d _ s2 _ s1
  have h1 : s1 = s.setTb n { s.tb n with inUse := true, slew := quarterToTc (s.tb n).offset } := by
    rw [← phaseTc_source h3]
    exact if_pos hr
  rw [if_neg h3, h1]

/-- An unreferenced one steps there. -/
theorem tbAcquire_unreferenced (hr : s.tbReferenced n = false) (h3 : s.tbSource n ≠ 3) :
    s.tbAcquire n = ((s.tbStep n (quarterToTc (s.tb n).offset)).setTb n
      { (s.tb n).stepped (quarterToTc (s.tb n).offset) with inUse := true, slew := 0 }).tbEnter n .acquiring 0 := by
  unfold State.tbAcquire
  extract_lets d _ s2 _ s1
  have hd : d = quarterToTc (s.tb n).offset := phaseTc_source h3
  have h1 : s1 = (s.tbStep n (quarterToTc (s.tb n).offset)).setTb n { (s.tb n).stepped (quarterToTc (s.tb n).offset) with inUse := true, slew := 0 } := by
    rw [← hd, ← tbStep_tb]
    exact if_neg (by simp [hr])
  rw [if_neg h3, h1]

theorem tbAcquire_slews (hr : s.tbReferenced n = true) (h3 : s.tbSource n ≠ 3) :
    ∃ g b, (s.tbAcquire n).tb n
      = { s.tb n with inUse := true, slew := quarterToTc (s.tb n).offset, state := .acquiring, good := g, bad := b } := by
  rw [tbAcquire_referenced hr h3]
  obtain ⟨g, b, e⟩ := tbEnter_tb (s.setTb n { s.tb n with inUse := true, slew := quarterToTc (s.tb n).offset }) n .acquiring 0
  exact ⟨g, b, by rw [e, tb_setTb_self]⟩

theorem tbAcquire_steps (hr : s.tbReferenced n = false) (h3 : s.tbSource n ≠ 3) :
    ∃ g b, (s.tbAcquire n).tb n
      = { (s.tb n).stepped (quarterToTc (s.tb n).offset) with inUse := true, slew := 0, state := .acquiring, good := g, bad := b } := by
  rw [tbAcquire_unreferenced hr h3]
  obtain ⟨g, b, e⟩ := tbEnter_tb ((s.tbStep n (quarterToTc (s.tb n).offset)).setTb n
    { (s.tb n).stepped (quarterToTc (s.tb n).offset) with inUse := true, slew := 0 }) n .acquiring 0
  exact ⟨g, b, by rw [e, tb_setTb_self]⟩

theorem tbWait_tb (s : State) (n : Nat) : ∃ g b, (s.tbWait n).tb n = { s.tb n with inUse := false, slew := 0, state := .holdover, good := g, bad := b } := by
  obtain ⟨g, b, e⟩ := tbEnter_tb (s.setTb n { s.tb n with inUse := false, slew := 0 }) n .holdover 2
  exact ⟨g, b, by rw [State.tbWait, e, tb_setTb_self]⟩

theorem tbWait_cause (s : State) (hn : n < 8) : (s.tbWait n).get (tbIx n) 0x11 = 2 := tbEnter_cause _ hn _ _

/-- What holds of time base n once its own state has been formed, and the followers take theirs. -/
theorem followStates_tb (hn : n < 8) (hf : s.tbFollows n = false) : s.followStates.tb n = s.tb n := (followStates_stays hn hf).tb

theorem followStates_getTb (hn : n < 8) (hf : s.tbFollows n = false) {u : Nat} (hu : u < 256) : s.followStates.get (tbIx n) u = s.get (tbIx n) u :=
  (followStates_stays hn hf).get u hu

theorem Moves.source (h : Moves n s t) (hn : n < 8) (hf : (t.tb n).onFallback = (s.tb n).onFallback) : t.tbSource n = s.tbSource n :=
  tbSource_congr hf (h.getTb hn (by decide) (by decide) (by decide)) (h.getTb hn (by decide) (by decide) (by decide))

/-! ## Symbol boundaries (R30) -/

theorem symbolBoundary_counts {tb : Fin 8} {k : Nat} (hk : (symbolOf (s.tbMu tb) (s.tbEcp tb) (s.tb tb).tc).1 = k) (he : (s.tb tb).enabled = true)
    (hn : (s.tb tb).nextSym ≤ k) :
    execSymbolBoundary tb s = .next ((s.setTb tb { s.tb tb with nextSym := k + 1 }).setTally (0xFFF8 + tb)
      { s.tally (0xFFF8 + tb) with count := (s.tally (0xFFF8 + tb)).count + BitVec.ofNat 32 (k + 1 - (s.tb tb).nextSym) }) := by
  subst hk
  unfold execSymbolBoundary
  extract_lets p x k y
  rw [if_neg (by simp [x, p, k, he, hn])]

theorem symbolBoundary_spec (tb : Fin 8) (s : State) :
    let x := s.tb tb
    let k := (symbolOf (s.tbMu tb) (s.tbEcp tb) x.tc).1
    (x.enabled = false ∨ k < x.nextSym → exec (.symbolBoundary tb) s = .next s)
    ∧ (x.enabled = true → x.nextSym ≤ k →
      ∃ t, exec (.symbolBoundary tb) s = .next t ∧ (t.tally (0xFFF8 + tb)).count = (s.tally (0xFFF8 + tb)).count + BitVec.ofNat 32 (k + 1 - x.nextSym)
        ∧ (t.tb tb).nextSym = k + 1 ∧ (∀ i, i ≠ 0xFFF8 + tb.val → t.tally i = s.tally i) ∧ (∃ l b, t = { s with tallies := l, tbs := b })
        ∧ ∀ m, (t.tb m).tc = (s.tb m).tc) := by
  intro x k
  refine ⟨fun h => ?_, fun he hn => ⟨_, symbolBoundary_counts rfl he hn, ?_, ?_, fun i hi => ?_, ⟨_, _, rfl⟩, fun m => ?_⟩⟩
  · show execSymbolBoundary tb s = _
    unfold execSymbolBoundary
    extract_lets
    rw [if_pos h]
  · simp [State.tally, State.setTally]
    rfl
  · exact congrArg TimeBase.nextSym (tb_setTb_self ..)
  · exact Tbl.get_set_other _ _ _ _ _ _ hi
  · refine (congrArg TimeBase.tc (tb_setTb s tb m _)).trans ?_
    split
    · rename_i hm
      rw [hm]
    · rfl

/-! ## Updates of the servo (R41, Table 2.4) -/

/-- A time base whose source in use has been measured. -/
def TimeBase.measured (x : TimeBase) (off : Int) : TimeBase :=
  if x.onFallback then { x with fb := x.fb.map fun _ => off } else { x with prim := x.prim.map fun _ => off }

/-- A time base that has taken a servo update, with its counts of updates. -/
def TimeBase.served (x : TimeBase) (off : Int) (g b : Nat) : TimeBase := { x.measured off with slew := quarterToTc off, good := g, bad := b }

theorem TimeBase.served_keeps (x : TimeBase) (off : Int) (g b : Nat) :
    (x.served off g b).enabled = x.enabled ∧ (x.served off g b).onFallback = x.onFallback ∧ (x.served off g b).state = x.state
      ∧ (x.served off g b).tc = x.tc := by
  unfold TimeBase.served TimeBase.measured
  split
  · exact ⟨rfl, rfl, rfl, rfl⟩
  · exact ⟨rfl, rfl, rfl, rfl⟩

/-- The state in which OFFSET_EST, RATE_ADJ and the time base have taken a servo update. -/
def State.served (s : State) (n : Nat) (off rate : BitVec 64) (g b : Nat) : State :=
  ((s.put (tbIx n) 0x14 (satI32 off.toInt)).put (tbIx n) 0x15 rate.toNat).setTb n ((s.tb n).served off.toInt g b)

theorem served_tb (s : State) (n : Nat) (off rate : BitVec 64) (g b : Nat) : (s.served n off rate g b).tb n = (s.tb n).served off.toInt g b :=
  tb_setTb_self ..

theorem served_get (s : State) (n : Nat) (off rate : BitVec 64) (g b u : Nat) :
    (s.served n off rate g b).get (tbIx n) u
      = if u = 0x15 then rate.toNat else if u = 0x14 then satI32 off.toInt else s.get (tbIx n) u := by
  simp [State.served, okey_inj_sub]

theorem served_around (s : State) (n : Nat) (off rate : BitVec 64) (g b : Nat) : Around n s (s.served n off rate g b) := by
  refine ((Around.put s n _ (by decide)).trans (Around.put _ n _ (by decide))).trans (Moves.toAround (Moves.refl.setTb ?_))
  exact ((s.tb n).served_keeps ..).1

theorem served_source (s : State) (n : Nat) (off rate : BitVec 64) (g b : Nat) : (s.served n off rate g b).tbSource n = s.tbSource n := by
  refine tbSource_congr ?_ (served_get ..) (served_get ..)
  rw [served_tb]
  exact ((s.tb n).served_keeps ..).2.1

/-- The state in which a time base has taken an update, and the state x that the update leads to. -/
def State.servedTo (s : State) (n : Nat) (off rate : BitVec 64) (g b : Nat) (x : Option TbState) : State :=
  (match x with
  | some x => (s.served n off rate g b).tbEnter n x 0
  | none => s.served n off rate g b).followStates

theorem servedTo_spec (s : State) (hn : n < 8) (off rate : BitVec 64) (g b : Nat) (x : Option TbState) (h3 : s.tbSource n ≠ 3) (hx : x ≠ some (s.tb n).state) :
    let t := s.servedTo n off rate g b x
    t.get (tbIx n) 0x14 = satI32 off.toInt ∧ t.get (tbIx n) 0x15 = rate.toNat ∧ (t.tb n).slew = quarterToTc off.toInt
      ∧ (t.tb n).tc = (s.tb n).tc ∧ onlyTb n s t ∧ (t.tb n).state = x.getD (s.tb n).state
      ∧ t.get (tbIx n) 0x16 = if (t.tb n).state = (s.tb n).state then s.get (tbIx n) 0x16 else (s.get (tbIx n) 0x16 + 1) % 2 ^ 32 := by
  obtain ⟨-, -, hstate, htc⟩ := (s.tb n).served_keeps off.toInt g b
  have hsource := served_source s n off rate g b
  cases x with
  | none =>
    have hf : (s.served n off rate g b).tbFollows n = false := tbFollows_of_source (by rwa [hsource])
    have hget := fun u (hu : u < 256) => (followStates_getTb hn hf hu).trans (served_get s n off rate g b u)
    have htb := (followStates_tb hn hf).trans (served_tb s n off rate g b)
    unfold State.servedTo
    dsimp only
    rw [htb, hget _ (by decide), hget _ (by decide), hget _ (by decide)]
    exact ⟨rfl, rfl, rfl, htc, ((served_around ..).trans (Moves.toAround Moves.refl.followStates)).onlyTb, hstate, (if_pos hstate).symm⟩
  | some x =>
    have hm : Moves n (s.served n off rate g b) ((s.served n off rate g b).tbEnter n x 0) := Moves.refl.tbEnter
    obtain ⟨g', b', e⟩ := tbEnter_tb (s.served n off rate g b) n x 0
    have hf : ((s.served n off rate g b).tbEnter n x 0).tbFollows n = false :=
      tbFollows_of_source (by rw [hm.source hn (by rw [e]), hsource]; exact h3)
    have htb := followStates_tb hn hf
    have hget := fun u (hu : u < 256) => followStates_getTb (u := u) hn hf hu
    have hne : (s.tb n).state ≠ x := fun h => hx (congrArg some h.symm)
    unfold State.servedTo
    dsimp only
    rw [htb, hget _ (by decide), hget _ (by decide), hget _ (by decide), tbEnter_getTb _ hn _ _ (by decide) (by decide) (by decide),
      tbEnter_getTb _ hn _ _ (by decide) (by decide) (by decide), tbEnter_changes _ hn, e, served_tb, served_get, served_get, served_get, hstate,
      if_neg hne, if_neg hne.symm]
    exact ⟨rfl, rfl, rfl, htc, ((served_around ..).trans (Moves.toAround hm.followStates)).onlyTb, rfl, rfl⟩

variable {tb : Fin 8} {off rate : BitVec 64} {ppb : BitVec 32}

theorem servedTo_ite (s : State) (n : Nat) (off rate : BitVec 64) (g b : Nat) (x : TbState) (on : Prop) [Decidable on] :
    (if decide on then (s.served n off rate g b).tbEnter n x 0 else s.served n off rate g b).followStates
      = s.servedTo n off rate g b (if on then some x else none) := by
  by_cases h : on
  · rw [if_pos h, if_pos (decide_eq_true h)]
    rfl
  · rw [if_neg h, if_neg (by simp [h])]
    rfl

/-- A count of updates that begins again unless c holds reaches k just when c holds and it was one short of k. -/
theorem count_reaches {c : Prop} [Decidable c] {k g : Nat} (hk : 0 < k) : k ≤ (if c then g + 1 else 0) ↔ c ∧ k ≤ g + 1 := by
  by_cases h : c
  · simp [h]
  · simp [h, hk.ne']

/-- The state that an update of the servo leads to, where that is another one (Table 2.4). -/
def State.servoNext (s : State) (n : Nat) (off : BitVec 64) (ppb : BitVec 32) : Option TbState :=
  match (s.tb n).state with
  | .acquiring => if ppb.toInt.natAbs ≤ 50 ∧ 16 ≤ (s.tb n).good + 1 then some .freqLocked else none
  | .freqLocked => if (s.tbSource n ≠ 0 ∧ off.toInt.natAbs ≤ 4 * s.get (tbIx n) 0x0A) ∧ 16 ≤ (s.tb n).good + 1 then some .locked else none
  | .locked => if 4 * s.get (tbIx n) 0x0B < off.toInt.natAbs ∧ 4 ≤ (s.tb n).bad + 1 then some .freqLocked else none
  | _ => none

theorem servoNext_acquiring {off : BitVec 64} {ppb : BitVec 32} (h : (s.tb n).state = .acquiring) :
    s.servoNext n off ppb = if ppb.toInt.natAbs ≤ 50 ∧ 16 ≤ (s.tb n).good + 1 then some .freqLocked else none := by
  rw [State.servoNext, h]

theorem servoNext_freqLocked {off : BitVec 64} {ppb : BitVec 32} (h : (s.tb n).state = .freqLocked) :
    s.servoNext n off ppb
      = if (s.tbSource n ≠ 0 ∧ off.toInt.natAbs ≤ 4 * s.get (tbIx n) 0x0A) ∧ 16 ≤ (s.tb n).good + 1 then some .locked else none := by
  rw [State.servoNext, h]

theorem servoNext_locked {off : BitVec 64} {ppb : BitVec 32} (h : (s.tb n).state = .locked) :
    s.servoNext n off ppb = if 4 * s.get (tbIx n) 0x0B < off.toInt.natAbs ∧ 4 ≤ (s.tb n).bad + 1 then some .freqLocked else none := by
  rw [State.servoNext, h]

theorem servoNext_ne {off : BitVec 64} {ppb : BitVec 32} (h : (s.tb n).state = .acquiring ∨ (s.tb n).state = .freqLocked ∨ (s.tb n).state = .locked) :
    s.servoNext n off ppb ≠ some (s.tb n).state := by
  rcases h with h | h | h
  · simp [servoNext_acquiring h, h]
  · simp [servoNext_freqLocked h, h]
  · simp [servoNext_locked h, h]

theorem servoUpdate_served (h3 : s.tbSource tb ≠ 3) (he : (s.tb tb).enabled = true) (hu : (s.tb tb).inUse = true)
    (hst : (s.tb tb).state = .acquiring ∨ (s.tb tb).state = .freqLocked ∨ (s.tb tb).state = .locked) :
    ∃ g b, execServoUpdate tb off ppb rate s = .next (s.servedTo tb off rate g b (s.servoNext tb off ppb)) := by
  unfold execServoUpdate
  extract_lets n x o m s1 t1 go g g' b
  have hgo : ∀ (i j : Nat) (on : Prop) [Decidable on] (z : TbState),
      go i j (decide on) z = s.servedTo tb off rate i j (if on then some z else none) := fun i j on _ z => servedTo_ite s tb off rate i j z on
  clear_value go
  rw [if_neg (by simp [x, n, he, h3]), if_neg (by simp [x, n, hu])]
  rcases hst with h | h | h
  · rw [servoNext_acquiring h, show x.state = .acquiring from h]
    exact ⟨g, x.bad, congrArg Host.Outcome.next ((hgo g x.bad (16 ≤ g) .freqLocked).trans (congrArg (s.servedTo tb off rate g x.bad) (if_congr (count_reaches (by decide)) rfl rfl)))⟩
  · rw [servoNext_freqLocked h, show x.state = .freqLocked from h]
    exact ⟨g', x.bad, congrArg Host.Outcome.next ((hgo g' x.bad (16 ≤ g') .locked).trans (congrArg (s.servedTo tb off rate g' x.bad) (if_congr (count_reaches (by decide)) rfl rfl)))⟩
  · rw [servoNext_locked h, show x.state = .locked from h]
    exact ⟨x.good, b, congrArg Host.Outcome.next ((hgo x.good b (4 ≤ b) .freqLocked).trans (congrArg (s.servedTo tb off rate x.good b) (if_congr (count_reaches (by decide)) rfl rfl)))⟩

theorem servoUpdate_spec (tb : Fin 8) (off : BitVec 64) (ppb : BitVec 32) (rate : BitVec 64) (s : State) :
    let n := tb.val
    let x := s.tb n
    s.tbSource n ≠ 3 → x.enabled = true → x.inUse = true → (x.state = .acquiring ∨ x.state = .freqLocked ∨ x.state = .locked) →
    ∃ t, exec (.servoUpdate tb off ppb rate) s = .next t ∧ t.get (tbIx n) 0x14 = satI32 off.toInt ∧ t.get (tbIx n) 0x15 = rate.toNat ∧ (t.tb n).slew = quarterToTc off.toInt
      ∧ (t.tb n).tc = x.tc ∧ onlyTb n s t
      ∧ (x.state = .acquiring → (t.tb n).state = if ppb.toInt.natAbs ≤ 50 ∧ 16 ≤ x.good + 1 then .freqLocked else .acquiring)
      ∧ (x.state = .freqLocked → (t.tb n).state = if s.tbSource n ≠ 0 ∧ off.toInt.natAbs ≤ 4 * s.get (tbIx n) 0x0A ∧ 16 ≤ x.good + 1 then .locked else .freqLocked)
      ∧ (x.state = .locked → (t.tb n).state = if 4 * s.get (tbIx n) 0x0B < off.toInt.natAbs ∧ 4 ≤ x.bad + 1 then .freqLocked else .locked)
      ∧ t.get (tbIx n) 0x16 = if (t.tb n).state = x.state then s.get (tbIx n) 0x16 else (s.get (tbIx n) 0x16 + 1) % 2 ^ 32 := by
  intro n x h3 he hu hst
  obtain ⟨g, b, e⟩ := servoUpdate_served (off := off) (ppb := ppb) (rate := rate) h3 he hu hst
  obtain ⟨h14, h15, hslew, htc, honly, hstate, h16⟩ := servedTo_spec s tb.isLt off rate g b (s.servoNext tb off ppb) h3 (servoNext_ne hst)
  refine ⟨_, e, h14, h15, hslew, htc, honly, fun h => ?_, fun h => ?_, fun h => ?_, h16⟩
  · rw [hstate, servoNext_acquiring h, apply_ite (Option.getD · _), show (s.tb tb).state = .acquiring from h]
    rfl
  · rw [hstate, servoNext_freqLocked h, apply_ite (Option.getD · _), show (s.tb tb).state = .freqLocked from h]
    simp only [and_assoc]
    rfl
  · rw [hstate, servoNext_locked h, apply_ite (Option.getD · _), show (s.tb tb).state = .locked from h]
    rfl

/-! ## The loss of a source (R37, Table 2.4) -/

/-- A time base that its sources have left. -/
def TimeBase.unsourced (x : TimeBase) : TimeBase := { x with inUse := false, onFallback := false, slew := 0 }

/-- The state that the loss of the last source leads to. -/
def TbState.lost (x other : TbState) : TbState := if x = .freqLocked ∨ x = .locked then .holdover else other

theorem dropSource_gone {other : TbState} (h : ¬ ((s.tb n).onFallback = false ∧ (s.tb n).fb.isSome = true)) :
    s.dropSource n other = (s.setTb n (s.tb n).unsourced).tbEnter n ((s.tb n).state.lost other) 1 := by
  unfold State.dropSource
  extract_lets x s1
  rw [if_neg h]
  exact (apply_ite (fun z => s1.tbEnter n z 1) _ _ _).symm

theorem dropSource_gone_tb {other : TbState} (h : ¬ ((s.tb n).onFallback = false ∧ (s.tb n).fb.isSome = true)) :
    ∃ g b, (s.dropSource n other).tb n = { (s.tb n).unsourced with state := (s.tb n).state.lost other, good := g, bad := b } := by
  obtain ⟨g, b, e⟩ := tbEnter_tb (s.setTb n (s.tb n).unsourced) n ((s.tb n).state.lost other) 1
  exact ⟨g, b, by rw [dropSource_gone h, e, tb_setTb_self]⟩

theorem dropSource_gone_cause (hn : n < 8) {other : TbState} (h : ¬ ((s.tb n).onFallback = false ∧ (s.tb n).fb.isSome = true)) :
    (s.dropSource n other).get (tbIx n) 0x11 = if (s.tb n).state.lost other = .holdover then 1 else 0 := by
  rw [dropSource_gone h, tbEnter_cause _ hn]

theorem dropSource_fallback {other : TbState} (hf : (s.tb n).onFallback = false) (hb : (s.tb n).fb.isSome = true) :
    s.dropSource n other = s.toFallback n := if_pos ⟨hf, hb⟩

theorem tbSource_fallback (h : (s.tb n).onFallback = true) : s.tbSource n = s.get (tbIx n) 7 := by
  rw [State.tbSource, h]
  rfl

theorem tbSource_primary (h : (s.tb n).onFallback = false) : s.tbSource n = s.get (tbIx n) 5 := by
  rw [State.tbSource, h]
  rfl

/-- The state in which the fallback is the source of time base n. -/
def State.turned (s : State) (n : Nat) : State := s.setTb n { s.tb n with onFallback := true }

theorem turned_tb (s : State) (n : Nat) : (s.turned n).tb n = { s.tb n with onFallback := true } := tb_setTb_self ..

theorem turned_source (s : State) (n : Nat) : (s.turned n).tbSource n = s.get (tbIx n) 7 :=
  tbSource_fallback (by rw [turned_tb])

theorem turned_referenced (s : State) (n m : Nat) : (s.turned n).tbReferenced m = s.tbReferenced m := Moves.referenced (n := n) (Moves.refl.setTb rfl)

theorem turned_offset (s : State) (n : Nat) {off : Int} (h : (s.tb n).fb = some off) : ((s.turned n).tb n).offset = off := by
  rw [turned_tb, TimeBase.offset, if_pos rfl]
  exact congrArg (Option.getD · 0) h

theorem turned_stepNeeded {off : Int} (h : (s.tb n).fb = some off) (h7 : s.get (tbIx n) 7 ≠ 3) :
    (s.turned n).stepNeeded n = true ↔ s.tbReferenced n = true ∧ s.get (tbIx n) 0x0D * 4 < off.natAbs := by
  rw [stepNeeded_iff (by rwa [turned_source]), turned_offset s n h, turned_referenced]
  rfl

/-- To a fallback beyond SLEW_LIMIT the time base does not move: it waits with STEP_NEEDED. -/
theorem toFallback_waits {off : Int} (h : (s.tb n).fb = some off) (h7 : s.get (tbIx n) 7 ≠ 3) (hr : s.tbReferenced n = true)
    (hl : s.get (tbIx n) 0x0D * 4 < off.natAbs) : s.toFallback n = (s.turned n).tbWait n :=
  if_pos ((turned_stepNeeded h h7).2 ⟨hr, hl⟩)

/-- To one within it, it slews in the state it was in. -/
theorem toFallback_slews {off : Int} (h : (s.tb n).fb = some off) (h7 : s.get (tbIx n) 7 ≠ 3) (hu : (s.tb n).inUse = true)
    (hl : s.tbReferenced n = false ∨ off.natAbs ≤ s.get (tbIx n) 0x0D * 4) :
    s.toFallback n = (s.turned n).setTb n { (s.turned n).tb n with slew := quarterToTc off } := by
  have hstep : ¬ (s.turned n).stepNeeded n = true := fun hs => by
    obtain ⟨hr, hlt⟩ := (turned_stepNeeded h h7).1 hs
    rcases hl with hl | hl
    · exact Bool.noConfusion (hl.symm.trans hr)
    · omega
  have h3 : (s.turned n).tbSource n ≠ 3 := by rwa [turned_source]
  unfold State.toFallback
  extract_lets x s1 _ s2
  have h1 : s1 = s.turned n := rfl
  have h2 : s2 = (s.turned n).setTb n { (s.turned n).tb n with slew := quarterToTc off } := by
    rw [← show s1.phaseTc n = quarterToTc off by rw [h1, phaseTc_source h3, turned_offset s n h]]
    rfl
  have h23 : s2.tbSource n = (s.turned n).tbSource n := by
    rw [h2]
    exact tbSource_congr (by rw [tb_setTb_self]) rfl rfl
  rw [h1, if_neg hstep, if_pos hu, if_neg (by rwa [h23]), h2]

/-! ### A lost primary is not qualified again on the way -/

theorem setTb_prim {x : TimeBase} (hx : x.prim = none) : ((s.setTb n x).tb n).prim = none := by rw [tb_setTb_self, hx]

theorem tbAcquire_prim (h : (s.tb n).prim = none) : ((s.tbAcquire n).tb n).prim = none := by
  unfold State.tbAcquire
  extract_lets d _ s2 _ s1
  have h2 : (s2.tb n).prim = none := by
    simp only [s2]
    rw [tbStep_tb, TimeBase.stepped, h]
    rfl
  have h1 : (s1.tb n).prim = none := by
    simp only [s1]
    exact iteInduction (motive := fun u : State => (u.tb n).prim = none) (fun _ => setTb_prim h) fun _ => setTb_prim h2
  split
  · rw [tbEnter_prim, h1]
  · rw [tbEnter_prim, h1]

theorem tbWait_prim (h : (s.tb n).prim = none) : ((s.tbWait n).tb n).prim = none :=
  (tbEnter_prim ..).trans (setTb_prim h)

theorem toFallback_prim (h : (s.tb n).prim = none) : ((s.toFallback n).tb n).prim = none := by
  unfold State.toFallback
  extract_lets x s1 _ s2
  have h1 : (s1.tb n).prim = none := setTb_prim h
  have h2 : (s2.tb n).prim = none := setTb_prim h1
  split
  · exact tbWait_prim h1
  · split
    · split
      · rw [tbEnter_prim, h2]
      · exact h2
    · exact tbAcquire_prim h1

theorem dropSource_prim {other : TbState} (h : (s.tb n).prim = none) : ((s.dropSource n other).tb n).prim = none := by
  by_cases hg : (s.tb n).onFallback = false ∧ (s.tb n).fb.isSome = true
  · rw [dropSource_fallback hg.1 hg.2, toFallback_prim h]
  · rw [dropSource_gone hg, tbEnter_prim]
    exact setTb_prim h

/-- The state in which the masters of a lost primary source are forgotten where it is PTP. -/
def State.forgotten (s : State) (n : Nat) : State :=
  if s.get (tbIx n) 5 = 1 then s.setTb n { s.tb n with masters := [], lastSync := none } else s

theorem forgotten_tb (s : State) (n : Nat) : ∃ l y, (s.forgotten n).tb n = { s.tb n with masters := l, lastSync := y } := by
  unfold State.forgotten
  split
  · exact ⟨_, _, tb_setTb_self ..⟩
  · exact ⟨_, _, rfl⟩

theorem forgotten_moves (s : State) (n : Nat) : Moves n s (s.forgotten n) := .ite (Moves.refl.setTb rfl) .refl

theorem forgotten_obj (s : State) (n : Nat) : (s.forgotten n).obj = s.obj := by
  unfold State.forgotten
  split
  · rfl
  · rfl

/-- The state in which the primary source of time base n is gone. -/
def State.primaryGone (s : State) (n : Nat) : State := (s.forgotten n).setTb n { (s.forgotten n).tb n with prim := none }

theorem primaryGone_tb (s : State) (n : Nat) : ∃ l y, (s.primaryGone n).tb n = { s.tb n with prim := none, masters := l, lastSync := y } := by
  obtain ⟨l, y, e⟩ := forgotten_tb s n
  exact ⟨l, y, by rw [State.primaryGone, tb_setTb_self, e]⟩

theorem primaryGone_moves (s : State) (n : Nat) : Moves n s (s.primaryGone n) := (forgotten_moves s n).setTb rfl

theorem primaryGone_get (s : State) (n i u : Nat) : (s.primaryGone n).get i u = s.get i u := by
  rw [State.primaryGone, get_setTb, State.get, forgotten_obj]
  rfl

/-- The lost primary leaves the time base; then the fallback or the loss follows. -/
theorem sourceLoss_drops (hg : s.sourceGone tb false = true) (he : (s.tb tb).enabled = true) (hp : (s.tb tb).prim.isSome = true)
    (hf : (s.tb tb).onFallback = false) :
    execSourceLoss tb false s
      = .next ((s.primaryGone tb).dropSource tb (if (s.tb tb).state = .holdover then .holdover else .freerun)).followStates := by
  have hlose : (s.forgotten tb).tbLose tb false = (s.primaryGone tb).dropSource tb (if (s.tb tb).state = .holdover then .holdover else .freerun) := by
    obtain ⟨l, y, e⟩ := forgotten_tb s tb
    unfold State.tbLose
    extract_lets x had s1
    have hx : x = { s.tb tb with masters := l, lastSync := y } := e
    rw [if_neg (by simp [had, hx, he, hp, hf])]
    rw [show x.state = (s.tb tb).state by rw [hx]]
    rfl
  rw [← hlose]
  exact congrArg Host.Outcome.next (if_pos hg)

/-- Without a fallback the time base has no source left. -/
theorem loss_gone (hn : n < 8) (other : TbState) (hb : (s.tb n).fb = none) :
    let t := ((s.primaryGone n).dropSource n other).followStates
    (t.tb n).state = (s.tb n).state.lost other ∧ (t.tb n).slew = 0
      ∧ t.get (tbIx n) 0x11 = if (s.tb n).state.lost other = .holdover then 1 else 0 := by
  obtain ⟨l, y, e⟩ := primaryGone_tb s n
  have hgone : ¬ (((s.primaryGone n).tb n).onFallback = false ∧ ((s.primaryGone n).tb n).fb.isSome = true) := by simp [e, hb]
  obtain ⟨g, b, e'⟩ := dropSource_gone_tb (other := other) hgone
  have hf : ((s.primaryGone n).dropSource n other).tbFollows n = false := tbFollows_of_unused (by rw [e']; rfl)
  refine ⟨?_, ?_, ?_⟩
  · rw [followStates_tb hn hf, e', e]
  · rw [followStates_tb hn hf, e']
    rfl
  · rw [followStates_getTb hn hf (by decide), dropSource_gone_cause hn hgone, e]

theorem loss_fallback (other : TbState) {off : Int} (hf : (s.tb n).onFallback = false) (hb : (s.tb n).fb = some off) :
    (s.primaryGone n).dropSource n other = (s.primaryGone n).toFallback n := by
  obtain ⟨l, y, e⟩ := primaryGone_tb s n
  exact dropSource_fallback (by rw [e]; exact hf) (by simp [e, hb])

/-- To a fallback within SLEW_LIMIT, or while nothing refers to the time base, it slews in the state it was in. -/
theorem loss_slews (hn : n < 8) {off : Int} (hb : (s.tb n).fb = some off) (h7 : s.get (tbIx n) 7 ≠ 3) (hu : (s.tb n).inUse = true)
    (hl : s.tbReferenced n = false ∨ off.natAbs ≤ s.get (tbIx n) 0x0D * 4) :
    let t := ((s.primaryGone n).toFallback n).followStates
    (t.tb n).state = (s.tb n).state ∧ (t.tb n).onFallback = true ∧ (t.tb n).slew = quarterToTc off ∧ (t.tb n).tc = (s.tb n).tc := by
  obtain ⟨l, y, e⟩ := primaryGone_tb s n
  have hto := toFallback_slews (s := s.primaryGone n) (n := n) (off := off) (by rw [e]; exact hb) (by rwa [primaryGone_get]) (by rw [e]; exact hu)
    (by rwa [primaryGone_get, (primaryGone_moves s n).referenced])
  have htb : ((s.primaryGone n).toFallback n).tb n = { s.tb n with prim := none, masters := l, lastSync := y, onFallback := true, slew := quarterToTc off } := by
    rw [hto, tb_setTb_self, turned_tb, e]
  have hsource : ((s.primaryGone n).toFallback n).tbSource n = s.get (tbIx n) 7 :=
    (tbSource_fallback (by rw [htb])).trans ((primaryGone_moves s n).toFallback.getTb hn (by decide) (by decide) (by decide))
  dsimp only
  rw [followStates_tb hn (tbFollows_of_source (by rwa [hsource])), htb]
  exact ⟨rfl, rfl, rfl, rfl⟩

/-- Beyond SLEW_LIMIT of a referenced time base it waits with STEP_NEEDED. -/
theorem loss_waits (hn : n < 8) {off : Int} (hb : (s.tb n).fb = some off) (h7 : s.get (tbIx n) 7 ≠ 3) (hr : s.tbReferenced n = true)
    (hl : s.get (tbIx n) 0x0D * 4 < off.natAbs) :
    let t := ((s.primaryGone n).toFallback n).followStates
    (t.tb n).state = .holdover ∧ t.get (tbIx n) 0x11 = 2 ∧ (t.tb n).inUse = false ∧ (t.tb n).tc = (s.tb n).tc := by
  obtain ⟨l, y, e⟩ := primaryGone_tb s n
  have hto := toFallback_waits (s := s.primaryGone n) (n := n) (off := off) (by rw [e]; exact hb) (by rwa [primaryGone_get])
    (by rwa [(primaryGone_moves s n).referenced]) (by rwa [primaryGone_get])
  obtain ⟨g, b, e'⟩ := tbWait_tb ((s.primaryGone n).turned n) n
  have hf : ((s.primaryGone n).toFallback n).tbFollows n = false := tbFollows_of_unused (by rw [hto, e'])
  dsimp only
  rw [followStates_tb hn hf, followStates_getTb hn hf (by decide), hto, tbWait_cause _ hn, e', turned_tb, e]
  exact ⟨rfl, rfl, rfl, rfl⟩

theorem sourceLoss_spec (tb : Fin 8) (s : State) :
    let n := tb.val
    let x := s.tb n
    let limit := s.get (tbIx n) 0x0D * 4
    (s.sourceGone n false = false → exec (.sourceLoss tb false) s = .next s)
    ∧ (s.sourceGone n false = true → x.enabled = true → x.prim.isSome = true → x.onFallback = false → s.get (tbIx n) 5 ≠ 3 →
      ∃ t, exec (.sourceLoss tb false) s = .next t ∧ (t.tb n).prim = none ∧ onlyTb n s t
        ∧ (x.fb = none → x.state = .acquiring → (t.tb n).state = .freerun)
        ∧ (x.fb = none → (x.state = .freqLocked ∨ x.state = .locked ∨ x.state = .holdover) → (t.tb n).state = .holdover ∧ t.get (tbIx n) 0x11 = 1 ∧ (t.tb n).slew = 0)
        ∧ (∀ off, x.fb = some off → s.get (tbIx n) 7 ≠ 3 →
          (x.inUse = true → (s.tbReferenced n = false ∨ off.natAbs ≤ limit) → (t.tb n).state = x.state ∧ (t.tb n).onFallback = true ∧ (t.tb n).slew = quarterToTc off ∧ (t.tb n).tc = x.tc)
          ∧ (s.tbReferenced n = true → limit < off.natAbs → (t.tb n).state = .holdover ∧ t.get (tbIx n) 0x11 = 2 ∧ (t.tb n).inUse = false ∧ (t.tb n).tc = x.tc))) := by
  intro n x limit
  refine ⟨fun hg => ?_, fun hg he hp hf _ => ⟨_, sourceLoss_drops hg he hp hf, ?_, ?_, ?_⟩⟩
  · exact congrArg Host.Outcome.next (if_neg (by simp [n, hg]))
  · obtain ⟨l, y, e⟩ := primaryGone_tb s n
    rw [followStates_prim]
    exact dropSource_prim (by rw [e])
  · exact ((primaryGone_moves s n).trans Moves.refl.dropSource.followStates).onlyTb
  · generalize hother : (if (s.tb tb).state = .holdover then TbState.holdover else .freerun) = other
    refine ⟨fun hb hst => ?_, fun hb hst => ?_, fun off hb h7 => ⟨fun hu hl => ?_, fun hr hl => ?_⟩⟩
    · rw [(loss_gone tb.isLt other hb).1, ← hother, show (s.tb tb).state = .acquiring from hst]
      rfl
    · obtain ⟨hstate, hslew, hcause⟩ := loss_gone tb.isLt other hb
      have hlost : (s.tb tb).state.lost other = .holdover := by
        rw [← hother]
        rcases hst with h | h | h
        all_goals
          rw [show (s.tb tb).state = _ from h]
          rfl
      rw [hlost] at hstate hcause
      exact ⟨hstate, hcause, hslew⟩
    · rw [loss_fallback other hf hb]
      exact loss_slews tb.isLt hb h7 hu hl
    · rw [loss_fallback other hf hb]
      exact loss_waits tb.isLt hb h7 hr hl

/-! ## The qualification of a source (R41 to R43) -/

/-- The state in which the primary has qualified with an offset, and is the source to take. -/
def State.qualified (s : State) (n : Nat) (off : Int) : State :=
  (s.setTb n { s.tb n with prim := some off }).setTb n { s.tb n with prim := some off, onFallback := false, inUse := false }

theorem qualified_tb (s : State) (n : Nat) (off : Int) :
    (s.qualified n off).tb n = { s.tb n with prim := some off, onFallback := false, inUse := false } := tb_setTb_self ..

theorem qualified_moves (s : State) (n : Nat) (off : Int) : Moves n s (s.qualified n off) := by
  refine (Moves.refl.setTb (by rfl)).setTb ?_
  rw [tb_setTb_self]

theorem qualified_source (s : State) (n : Nat) (off : Int) : (s.qualified n off).tbSource n = s.get (tbIx n) 5 :=
  tbSource_primary (by rw [qualified_tb])

theorem qualified_offset (s : State) (n : Nat) (off : Int) : ((s.qualified n off).tb n).offset = off := by
  rw [qualified_tb]
  rfl

theorem tbQualify_takes (off : Int) (he : (s.tb n).enabled = true) (hu : (s.tb n).inUse = false) :
    s.tbQualify n false off = (s.qualified n off).tbTake n := by
  unfold State.tbQualify
  extract_lets x x1 s1
  rw [if_neg (by simp [x, he]), if_neg (by decide), if_pos (.inl hu)]
  rfl

theorem qualified_stepNeeded {off : Int} (h5 : s.get (tbIx n) 5 ≠ 3) :
    (s.qualified n off).stepNeeded n = true ↔ s.tbReferenced n = true ∧ s.get (tbIx n) 0x0D * 4 < off.natAbs := by
  rw [stepNeeded_iff (by rwa [qualified_source]), qualified_offset, (qualified_moves s n off).referenced]
  rfl

/-- The three ends of a qualification of the primary: a step where nothing refers to the time base, else a slew within SLEW_LIMIT and STEP_NEEDED
beyond it. -/
theorem qualified_take (hn : n < 8) {off : Int} (h5 : s.get (tbIx n) 5 ≠ 3) :
    let u := (s.qualified n off).tbTake n
    (s.tbReferenced n = false → ∃ g b, u.tb n = { ((s.qualified n off).tb n).stepped (quarterToTc off) with
        inUse := true, slew := 0, state := .acquiring, good := g, bad := b })
    ∧ (s.tbReferenced n = true → off.natAbs ≤ s.get (tbIx n) 0x0D * 4 → ∃ g b, u.tb n = { (s.qualified n off).tb n with
        inUse := true, slew := quarterToTc off, state := .acquiring, good := g, bad := b })
    ∧ (s.tbReferenced n = true → s.get (tbIx n) 0x0D * 4 < off.natAbs → u.get (tbIx n) 0x11 = 2 ∧ ∃ g b, u.tb n = { (s.qualified n off).tb n with
        inUse := false, slew := 0, state := .holdover, good := g, bad := b }) := by
  have h3 : (s.qualified n off).tbSource n ≠ 3 := by rwa [qualified_source]
  have hr : (s.qualified n off).tbReferenced n = s.tbReferenced n := (qualified_moves s n off).referenced
  refine ⟨fun h => ?_, fun h hl => ?_, fun h hl => ?_⟩
  · rw [State.tbTake, if_neg fun hs => Bool.noConfusion (h.symm.trans ((qualified_stepNeeded h5).1 hs).1)]
    have e := tbAcquire_steps (hr.trans h) h3
    rwa [qualified_offset] at e
  · rw [State.tbTake, if_neg fun hs => absurd ((qualified_stepNeeded h5).1 hs).2 (by omega)]
    have e := tbAcquire_slews (hr.trans h) h3
    rwa [qualified_offset] at e
  · rw [State.tbTake, if_pos ((qualified_stepNeeded h5).2 ⟨h, hl⟩)]
    exact ⟨tbWait_cause _ hn, tbWait_tb ..⟩

theorem sourceReady_ne (h : s.sourceReady n (s.get (tbIx n) 5) = true) : s.get (tbIx n) 5 ≠ 3 := by
  intro h3
  rw [h3] at h
  simp [State.sourceReady] at h

theorem qualified_follows (hn : n < 8) {off : Int} (h5 : s.get (tbIx n) 5 ≠ 3) {u : State} (hm : Moves n (s.qualified n off) u)
    (hf : (u.tb n).onFallback = false) : u.tbFollows n = false :=
  tbFollows_of_source (by
    rw [tbSource_primary hf, ((qualified_moves s n off).trans hm).getTb hn (by decide) (by decide) (by decide)]
    exact h5)

theorem sourceQualified_spec (tb : Fin 8) (l : List (BitVec 64)) (s : State) :
    let n := tb.val
    let x := s.tb n
    let off := (l.getLastD 0#64).toInt
    let limit := s.get (tbIx n) 0x0D * 4
    let ready := offsetsAgree l = true ∧ s.sourceReady n (s.get (tbIx n) 5) = true
    (¬ ready → exec (.sourceQualified tb false l) s = .next s)
    ∧ (ready → x.enabled = true → x.inUse = false →
      ∃ t, exec (.sourceQualified tb false l) s = .next t ∧ (t.tb n).onFallback = false ∧ onlyTb n s t
        ∧ (s.tbReferenced n = false → (t.tb n).state = .acquiring ∧ (t.tb n).tc = ((x.tc : Int) + quarterToTc off).toNat ∧ (t.tb n).slew = 0 ∧ (t.tb n).inUse = true)
        ∧ (s.tbReferenced n = true → off.natAbs ≤ limit →
          (t.tb n).state = .acquiring ∧ (t.tb n).tc = x.tc ∧ (t.tb n).slew = quarterToTc off ∧ (t.tb n).prim = some off ∧ (t.tb n).inUse = true)
        ∧ (s.tbReferenced n = true → limit < off.natAbs →
          (t.tb n).state = .holdover ∧ (t.tb n).tc = x.tc ∧ t.get (tbIx n) 0x11 = 2 ∧ (t.tb n).prim = some off ∧ (t.tb n).inUse = false)) := by
  intro n x off limit ready
  refine ⟨fun h => congrArg Host.Outcome.next (if_neg h), fun h he hu => ?_⟩
  have h5 : s.get (tbIx n) 5 ≠ 3 := sourceReady_ne h.2
  have e : execSourceQualified tb false l s = .next ((s.qualified n off).tbTake n).followStates := by
    rw [← tbQualify_takes off he hu]
    exact congrArg Host.Outcome.next (if_pos h)
  have hm : Moves n (s.qualified n off) ((s.qualified n off).tbTake n) := Moves.refl.tbTake
  obtain ⟨hstep, hslew, hwait⟩ := qualified_take (off := off) tb.isLt h5
  have hback : (((s.qualified n off).tbTake n).tb n).onFallback = false := by
    cases hr : s.tbReferenced n with
    | false =>
      obtain ⟨g, b, e'⟩ := hstep hr
      rw [e', qualified_tb]
      rfl
    | true =>
      rcases Nat.lt_or_ge limit off.natAbs with hl | hl
      · obtain ⟨-, g, b, e'⟩ := hwait hr hl
        rw [e', qualified_tb]
      · obtain ⟨g, b, e'⟩ := hslew hr hl
        rw [e', qualified_tb]
  have hf := qualified_follows tb.isLt h5 hm hback
  refine ⟨_, e, ?_, ((qualified_moves s n off).trans hm.followStates).onlyTb, fun hr => ?_, fun hr hl => ?_, fun hr hl => ?_⟩
  all_goals rw [followStates_tb tb.isLt hf]
  · exact hback
  · obtain ⟨g, b, e'⟩ := hstep hr
    rw [e', qualified_tb]
    exact ⟨rfl, rfl, rfl, rfl⟩
  · obtain ⟨g, b, e'⟩ := hslew hr hl
    rw [e', qualified_tb]
    exact ⟨rfl, rfl, rfl, rfl, rfl⟩
  · obtain ⟨hcause, g, b, e'⟩ := hwait hr hl
    rw [followStates_getTb tb.isLt hf (by decide), hcause, e', qualified_tb]
    exact ⟨rfl, rfl, rfl, rfl, rfl⟩

/-! ## Writes of a source (R36, R37) -/

/-- The state in which a new value of PHASE_SRC, PHASE_ARG or FALLBACK_SRC stands and what it replaces no longer qualifies. -/
def State.rewired (s : State) (n sub v : Nat) : State := (s.forgetSources n sub).put (tbIx n) sub v

theorem rewired_get (s : State) (n sub v u : Nat) : (s.rewired n sub v).get (tbIx n) u = if u = sub then v else s.get (tbIx n) u := by
  simp only [State.rewired, get_put, okey_inj_sub]
  rfl

theorem rewired_around (s : State) (n : Nat) {sub : Nat} (v : Nat) (hs : sub < 256) : Around n s (s.rewired n sub v) :=
  have h : Moves n s (s.forgetSources n sub) := Moves.refl.setTb rfl
  h.toAround.trans (Around.put (s.forgetSources n sub) n v hs)

theorem rewired_tb_primary (s : State) (n v : Nat) : (s.rewired n 5 v).tb n = { s.tb n with prim := none } := tb_setTb_self ..

/-- Whether a write of a source replaces the one in use. -/
def State.replacesUsed (s : State) (n sub : Nat) : Bool :=
  (if sub = 5 then !(s.tb n).onFallback else if sub = 7 then (s.tb n).onFallback else s.tbSource n == 3) && (s.tb n).enabled

/-- The state in which a replaced source in use has been dropped. -/
def State.rewiredDropped (s : State) (n sub v : Nat) : State :=
  if s.replacesUsed n sub then (s.rewired n sub v).dropSource n .freerun else s.rewired n sub v

theorem rewiredDropped_moves (s : State) (n sub v : Nat) : Moves n (s.rewired n sub v) (s.rewiredDropped n sub v) := .ite Moves.refl.dropSource .refl

theorem writeSource_new {sub v : Nat} (h : s.followOk n sub v = true) (hv : s.get (tbIx n) sub ≠ v) :
    s.writeSource n sub v = some ((s.rewiredDropped n sub v).followSync n).followStates := by
  unfold State.writeSource
  rw [if_neg (by simp [h]), if_neg hv]
  simp only [State.rewiredDropped, State.replacesUsed, Bool.and_eq_true]
  rfl

theorem followSync_eq (h5 : s.get (tbIx n) 5 ≠ 3) (h7 : s.get (tbIx n) 7 ≠ 3) : s.followSync n = s := by
  unfold State.followSync
  extract_lets up one
  have hone : ∀ b, one s b = s := fun b => if_pos (by cases b; exact h5; exact h7)
  rw [hone, hone]
  exact ite_self s

theorem rewiredDropped_lost (hn : n < 8) {v : Nat} (he : (s.tb n).enabled = true) (hf : (s.tb n).onFallback = false) (hb : (s.tb n).fb = none)
    (hst : (s.tb n).state = .freqLocked ∨ (s.tb n).state = .locked) :
    let u := s.rewiredDropped n 5 v
    (u.tb n).state = .holdover ∧ (u.tb n).prim = none ∧ (u.tb n).inUse = false ∧ u.get (tbIx n) 0x11 = 1 := by
  have hgone : ¬ (((s.rewired n 5 v).tb n).onFallback = false ∧ ((s.rewired n 5 v).tb n).fb.isSome = true) := by simp [rewired_tb_primary, hb]
  have hlost : ((s.rewired n 5 v).tb n).state.lost .freerun = .holdover := by
    rw [rewired_tb_primary]
    exact if_pos hst
  obtain ⟨g, b, e⟩ := dropSource_gone_tb (other := .freerun) hgone
  have hcause := dropSource_gone_cause hn (other := .freerun) hgone
  rw [hlost] at e hcause
  have hu : s.rewiredDropped n 5 v = (s.rewired n 5 v).dropSource n .freerun := if_pos (by simp [State.replacesUsed, he, hf])
  dsimp only
  rw [hu, e, hcause, rewired_tb_primary]
  exact ⟨rfl, rfl, rfl, rfl⟩

theorem phaseSrcWrite_spec (tb : Fin 8) (sub : Fin 3) (v : BitVec 8) (s : State) :
    let n := tb.val
    let x := s.tb n
    (s.followOk n (5 + sub) v.toNat = false → exec (.phaseSrcWrite tb sub v) s = .next s)
    ∧ (s.followOk n (5 + sub) v.toNat = true → ∃ t, exec (.phaseSrcWrite tb sub v) s = .next t ∧ t.get (tbIx n) (5 + sub) = v.toNat ∧ onlyTb n s t
      ∧ (sub = 0 → v.toNat ≠ s.get (tbIx n) 5 → v.toNat ≠ 3 → s.get (tbIx n) 7 ≠ 3 → x.enabled = true → x.onFallback = false → x.fb = none → (x.state = .freqLocked ∨ x.state = .locked) →
        (t.tb n).state = .holdover ∧ (t.tb n).prim = none ∧ t.get (tbIx n) 0x11 = 1)) := by
  intro n x
  have hrun : ∀ {t : State}, s.writeSource n (5 + sub) v.toNat = some t → execPhaseSrcWrite tb sub v s = .next t := fun e =>
    congrArg (fun o : Option State => Host.Outcome.next (o.getD s)) e
  refine ⟨fun h => ?_, fun h => ?_⟩
  · have hnone : s.writeSource n (5 + sub) v.toNat = none := if_pos h
    exact congrArg (fun o : Option State => Host.Outcome.next (o.getD s)) hnone
  · by_cases hv : s.get (tbIx n) (5 + sub) = v.toNat
    · refine ⟨s, hrun ?_, hv, ⟨⟨_, _, rfl⟩, fun _ _ _ => rfl⟩, fun h0 hne => ?_⟩
      · unfold State.writeSource
        rw [if_neg (by simp [h]), if_pos hv]
      · subst h0
        exact absurd hv.symm hne
    · have hm : Moves n (s.rewired n (5 + sub) v.toNat) ((s.rewiredDropped n (5 + sub) v.toNat).followSync n).followStates :=
        (rewiredDropped_moves ..).followSync.followStates
      have hsub := sub.isLt
      refine ⟨_, hrun (writeSource_new h hv), ?_, ((rewired_around s n v.toNat (by omega)).trans hm.toAround).onlyTb, fun h0 _ h3 h7 he hf hb hst => ?_⟩
      · rw [hm.getTb tb.isLt (by omega) (by omega) (by omega), rewired_get, if_pos rfl]
      · subst h0
        obtain ⟨hstate, hprim, hu, hcause⟩ := rewiredDropped_lost (v := v.toNat) tb.isLt he hf hb hst
        have hd := rewiredDropped_moves s n 5 v.toNat
        have hsync : (s.rewiredDropped n 5 v.toNat).followSync n = s.rewiredDropped n 5 v.toNat := by
          refine followSync_eq ?_ ?_
          · rw [hd.getTb tb.isLt (by decide) (by decide) (by decide), rewired_get, if_pos rfl]
            exact h3
          · rw [hd.getTb tb.isLt (by decide) (by decide) (by decide), rewired_get, if_neg (by decide)]
            exact h7
        have hfree := tbFollows_of_unused hu
        show (((s.rewiredDropped n 5 v.toNat).followSync n).followStates.tb n).state = _ ∧ (((s.rewiredDropped n 5 v.toNat).followSync n).followStates.tb n).prim = _
          ∧ ((s.rewiredDropped n 5 v.toNat).followSync n).followStates.get _ _ = _
        rw [hsync, followStates_tb tb.isLt hfree, followStates_getTb tb.isLt hfree (by decide)]
        exact ⟨hstate, hprim, hcause⟩

/-! ## REALIGN and STEP in force (R43) -/

/-- The state in which a waiting time base slews to its source. -/
def State.realigned (s : State) (n : Nat) : State :=
  (s.setTb n { s.tb n with inUse := true, slew := quarterToTc (s.tb n).offset }).tbEnter n .acquiring 0

theorem realign_slews (hst : (s.tb n).state = .holdover) (hc : s.get (tbIx n) 0x11 = 2) (hu : (s.tb n).inUse = false) (h3 : s.tbSource n ≠ 3) :
    s.realign n = some (s.realigned n).followStates := by
  unfold State.realign
  extract_lets x s1
  have h1 : s1 = s.setTb n { s.tb n with inUse := true, slew := quarterToTc (s.tb n).offset } := by
    rw [← phaseTc_source h3]
  rw [if_pos ⟨hst, hc⟩, if_neg (by simp [x, hu]), if_neg h3, h1]
  rfl

theorem realign_spec (tb : Fin 8) (s : State) :
    let n := tb.val
    let x := s.tb n
    (¬ (x.state = .holdover ∧ s.get (tbIx n) 0x11 = 2) → exec (.realign tb) s = .next s)
    ∧ (x.state = .holdover → s.get (tbIx n) 0x11 = 2 → x.inUse = false → s.tbSource n ≠ 3 →
      ∃ t, exec (.realign tb) s = .next t ∧ (t.tb n).state = .acquiring ∧ (t.tb n).slew = quarterToTc ((if x.onFallback then x.fb else x.prim).getD 0) ∧ (t.tb n).tc = x.tc
        ∧ t.get (tbIx n) 0x11 = 0 ∧ onlyTb n s t) := by
  intro n x
  have hrun : ∀ {t : State}, s.realign n = some t → execRealign tb s = .next t := fun e => congrArg (fun o : Option State => Host.Outcome.next (o.getD s)) e
  refine ⟨fun h => ?_, fun hst hc hu h3 => ⟨_, hrun (realign_slews hst hc hu h3), ?_⟩⟩
  · have hnone : s.realign n = none := if_neg h
    exact congrArg (fun o : Option State => Host.Outcome.next (o.getD s)) hnone
  · have hset : Moves n s (s.setTb n { s.tb n with inUse := true, slew := quarterToTc (s.tb n).offset }) := Moves.refl.setTb rfl
    have hm : Moves n s (s.realigned n) := hset.tbEnter
    obtain ⟨g, b, e⟩ := tbEnter_tb (s.setTb n { s.tb n with inUse := true, slew := quarterToTc (s.tb n).offset }) n .acquiring 0
    rw [tb_setTb_self] at e
    have hf : (s.realigned n).tbFollows n = false := tbFollows_of_source (by
      rw [hm.source tb.isLt (by rw [State.realigned, e])]
      exact h3)
    rw [followStates_tb tb.isLt hf, followStates_getTb tb.isLt hf (by decide), State.realigned, e, tbEnter_cause _ tb.isLt]
    exact ⟨rfl, rfl, rfl, rfl, hm.followStates.onlyTb⟩

/-- The offset of the source that `onFallback` names, where it is qualified. -/
def TimeBase.source (x : TimeBase) : Option Int := if x.onFallback then x.fb else x.prim

theorem source_stepped (x : TimeBase) (d : Int) : (x.stepped d).source = x.source.map fun o => o - tcToQuarter d := by
  unfold TimeBase.source TimeBase.stepped
  split
  · rfl
  · rfl

/-- The state in which a served STEP is applied and STEP is 0 again. -/
def State.stepTaken (s : State) (n : Nat) : State :=
  ((s.tbStep n (s.tb n).step).put (tbIx n) 0x0F 0).setTb n { (s.tb n).stepped (s.tb n).step with step := 0 }

theorem stepTaken_tb (s : State) (n : Nat) : (s.stepTaken n).tb n = { (s.tb n).stepped (s.tb n).step with step := 0 } := tb_setTb_self ..

theorem stepTaken_get (s : State) (n : Nat) : (s.stepTaken n).get (tbIx n) 0x0F = 0 := (get_put ..).trans (if_pos rfl)

theorem stepTaken_around (s : State) (n : Nat) : Around n s (s.stepTaken n) := by
  have hstep : Moves n s (s.tbStep n (s.tb n).step) := Moves.refl.tbStep
  have hset : Moves n ((s.tbStep n (s.tb n).step).put (tbIx n) 0x0F 0) (s.stepTaken n) := Moves.refl.setTb (by rw [tb_put, tbStep_tb])
  exact (hstep.toAround.trans (Around.put _ n 0 (by decide))).trans hset.toAround

/-- A step leaves every other object. -/
theorem stepTaken_getOther (s : State) (n : Nat) {i u : Nat} (hi : 0x2000 ≤ i) (hi' : i < 0x10000) (hu : u < 0x0F) : (s.stepTaken n).get i u = s.get i u := by
  have hstep : Moves n s (s.tbStep n (s.tb n).step) := Moves.refl.tbStep
  exact ((get_put ..).trans (if_neg (by unfold okey; omega))).trans (hstep.get hi hi' (by omega) (by omega) (by omega))

theorem stepTaken_enabled (s : State) (n : Nat) : ((s.stepTaken n).tb n).enabled = (s.tb n).enabled := by
  rw [stepTaken_tb]
  rfl

theorem stepTaken_referenced (s : State) (n : Nat) : (s.stepTaken n).tbReferenced n = s.tbReferenced n := by
  obtain ⟨o, b, e⟩ := (stepTaken_around s n).only
  refine tbReferenced_congr (fun i u hi hi' hu => stepTaken_getOther s n (by omega) (by omega) (by omega)) ?_ ?_ ?_ (stepTaken_enabled s n)
  all_goals rw [e]

/-- The state in which time base n, its step applied, takes its source's phase where it has a qualified source (R43). -/
def State.stepEnd (s : State) (n : Nat) : State :=
  if (s.tb n).source.isSome then ((s.stepTaken n).setTb n { (s.stepTaken n).tb n with inUse := false }).tbAcquire n
  else ((s.stepTaken n).setTb n { (s.stepTaken n).tb n with slew := 0 }).tbEnter n .acquiring 0

theorem stepEnd_moves (s : State) (n : Nat) : Moves n (s.stepTaken n) (s.stepEnd n) :=
  .ite (Moves.tbAcquire (Moves.refl.setTb (by rfl))) (Moves.tbEnter (Moves.refl.setTb (by rfl)))

/-- Without a qualified source the time base only steps. -/
theorem stepEnd_none (ho : (s.tb n).source = none) :
    ∃ g b, (s.stepEnd n).tb n = { (s.tb n).stepped (s.tb n).step with step := 0, slew := 0, state := .acquiring, good := g, bad := b } := by
  obtain ⟨g, b, e⟩ := tbEnter_tb ((s.stepTaken n).setTb n { (s.stepTaken n).tb n with slew := 0 }) n .acquiring 0
  refine ⟨g, b, ?_⟩
  rw [State.stepEnd, if_neg (by simp [ho]), e, tb_setTb_self, stepTaken_tb]

/-- With one a referenced time base slews to what is left of its offset, another steps there. -/
theorem stepEnd_some {off : Int} (hn : n < 8) (ho : (s.tb n).source = some off) (h3 : s.tbSource n ≠ 3) :
    let d := quarterToTc (off - tcToQuarter (s.tb n).step)
    let y : TimeBase := { (s.tb n).stepped (s.tb n).step with step := 0, inUse := true }
    (s.tbReferenced n = true → ∃ g b, (s.stepEnd n).tb n = { y with slew := d, state := .acquiring, good := g, bad := b })
    ∧ (s.tbReferenced n = false → ∃ g b, (s.stepEnd n).tb n = { y.stepped d with slew := 0, state := .acquiring, good := g, bad := b }) := by
  generalize hw : (s.stepTaken n).setTb n { (s.stepTaken n).tb n with inUse := false } = w
  have hwtb : w.tb n = { (s.tb n).stepped (s.tb n).step with step := 0, inUse := false } := by rw [← hw, tb_setTb_self, stepTaken_tb]
  have hwm : Moves n (s.stepTaken n) w := hw ▸ Moves.refl.setTb rfl
  have hend : s.stepEnd n = w.tbAcquire n := by rw [State.stepEnd, if_pos (by simp [ho]), hw]
  have href : w.tbReferenced n = s.tbReferenced n := hwm.referenced.trans (stepTaken_referenced s n)
  have hoff : (w.tb n).offset = off - tcToQuarter (s.tb n).step := by
    have hs : (w.tb n).source = some (off - tcToQuarter (s.tb n).step) := by
      rw [hwtb]
      exact (source_stepped ..).trans (congrArg (Option.map fun o => o - tcToQuarter (s.tb n).step) ho)
    exact congrArg (Option.getD · 0) hs
  have hget : ∀ u < 0x0F, w.get (tbIx n) u = s.get (tbIx n) u := fun u hu =>
    (hwm.getTb hn (by omega) (by omega) (by omega)).trans (stepTaken_getOther s n (by unfold tbIx; omega) (by unfold tbIx; omega) hu)
  have hw3 : w.tbSource n ≠ 3 := by
    rw [tbSource_congr (s := s) (show (w.tb n).onFallback = (s.tb n).onFallback by rw [hwtb]; rfl) (hget 5 (by decide)) (hget 7 (by decide))]
    exact h3
  refine ⟨fun hr => ?_, fun hr => ?_⟩
  · obtain ⟨g, b, e⟩ := tbAcquire_slews (href.trans hr) hw3
    exact ⟨g, b, by rw [hend, e, hoff, hwtb]⟩
  · obtain ⟨g, b, e⟩ := tbAcquire_steps (href.trans hr) hw3
    exact ⟨g, b, by rw [hend, e, hoff, hwtb]; rfl⟩

theorem stepEnd_keeps (hn : n < 8) (h3 : s.tbSource n ≠ 3) :
    ((s.stepEnd n).tb n).step = 0 ∧ ((s.stepEnd n).tb n).state = .acquiring ∧ ((s.stepEnd n).tb n).onFallback = (s.tb n).onFallback := by
  cases ho : (s.tb n).source with
  | none =>
    obtain ⟨g, b, e⟩ := stepEnd_none ho
    rw [e]
    exact ⟨rfl, rfl, rfl⟩
  | some off =>
    obtain ⟨hslew, hstep⟩ := stepEnd_some hn ho h3
    cases hr : s.tbReferenced n with
    | true =>
      obtain ⟨g, b, e⟩ := hslew hr
      rw [e]
      exact ⟨rfl, rfl, rfl⟩
    | false =>
      obtain ⟨g, b, e⟩ := hstep hr
      rw [e]
      exact ⟨rfl, rfl, rfl⟩

theorem stepApply_applies (he : (s.tb tb).enabled = true) (hs : (s.tb tb).step ≠ 0) (hj : s.tbJobs tb = false)
    (hb : isBoundary (s.tbMu tb) (s.tbEcp tb) ((s.tb tb).tc % airPeriod) = true) :
    execStepApply tb s = .next (s.stepEnd tb).followStates := by
  unfold execStepApply
  extract_lets n x s1 y s2 z
  have h2 : s2 = s.stepTaken tb := by
    have h1 : s1.tb n = (s.tb tb).stepped (s.tb tb).step := tbStep_tb ..
    rw [State.stepTaken, ← h1]
  rw [if_neg (by simp [x, n, he, hs, hj, hb]), show z = (s.stepTaken tb).tb tb from congrArg (State.tb · n) h2, h2]
  rfl

theorem stepApply_spec (tb : Fin 8) (s : State) :
    let n := tb.val
    let x := s.tb n
    let edge : Bool := isBoundary (s.tbMu n) (s.tbEcp n) (x.tc % airPeriod)
    let r : Int := match (if x.onFallback then x.fb else x.prim) with
      | some off => quarterToTc (off - tcToQuarter x.step)
      | none => 0
    let at_ := ((x.tc : Int) + x.step).toNat
    (x.enabled = false ∨ x.step = 0 ∨ s.tbJobs n = true ∨ edge = false → exec (.stepApply tb) s = .next s)
    ∧ (x.enabled = true → x.step ≠ 0 → s.tbJobs n = false → edge = true → s.tbSource n ≠ 3 →
      ∃ t, exec (.stepApply tb) s = .next t ∧ (t.tb n).step = 0 ∧ t.get (tbIx n) 0x0F = 0 ∧ (t.tb n).state = .acquiring ∧ onlyTb n s t
        ∧ (s.tbReferenced n = true → (t.tb n).tc = at_ ∧ (t.tb n).slew = r)
        ∧ (s.tbReferenced n = false → (t.tb n).tc = ((at_ : Int) + r).toNat ∧ (t.tb n).slew = 0)) := by
  intro n x edge r at_
  refine ⟨fun h => congrArg Host.Outcome.next (if_pos h), fun he hs hj hb h3 => ⟨_, stepApply_applies he hs hj hb, ?_⟩⟩
  have hm := stepEnd_moves s n
  obtain ⟨hstep, hstate, hback⟩ := stepEnd_keeps tb.isLt h3
  have hsource : (s.stepEnd n).tbSource n = s.tbSource n := by
    have hget : ∀ u < 0x0F, (s.stepEnd n).get (tbIx n) u = s.get (tbIx n) u := fun u hu =>
      (hm.getTb tb.isLt (by omega) (by omega) (by omega)).trans (stepTaken_getOther s n (by unfold tbIx; omega) (by unfold tbIx; omega) hu)
    exact tbSource_congr hback (hget 5 (by decide)) (hget 7 (by decide))
  have hf : (s.stepEnd n).tbFollows n = false := tbFollows_of_source (by rwa [hsource])
  have htb := followStates_tb tb.isLt hf
  refine ⟨(congrArg TimeBase.step htb).trans hstep, ?_, (congrArg TimeBase.state htb).trans hstate,
    ((stepTaken_around s n).trans hm.followStates.toAround).onlyTb, ?_⟩
  · exact (followStates_getTb tb.isLt hf (by decide)).trans ((hm.getTb tb.isLt (by decide) (by decide) (by decide)).trans (stepTaken_get s n))
  · rw [show (s.stepEnd tb).followStates.tb n = (s.stepEnd n).tb n from htb]
    cases ho : (s.tb n).source with
    | none =>
      have hr : r = 0 := by
        simp only [r, show (if x.onFallback then x.fb else x.prim) = none from ho]
      obtain ⟨g, b, e⟩ := stepEnd_none ho
      rw [e, hr, Int.add_zero]
      exact ⟨fun _ => ⟨rfl, rfl⟩, fun _ => ⟨(Int.toNat_natCast _).symm, rfl⟩⟩
    | some off =>
      have hr : r = quarterToTc (off - tcToQuarter (s.tb n).step) := by
        simp only [r, show (if x.onFallback then x.fb else x.prim) = some off from ho]
        rfl
      obtain ⟨hslew, hstep⟩ := stepEnd_some tb.isLt ho h3
      refine ⟨fun href => ?_, fun href => ?_⟩
      · obtain ⟨g, b, e⟩ := hslew href
        rw [e, hr]
        exact ⟨rfl, rfl⟩
      · obtain ⟨g, b, e⟩ := hstep href
        rw [e, hr]
        exact ⟨rfl, rfl⟩

/-- Settles O42: symbol boundaries (R30), the servo's updates (R41), the loss of a source (R37), its qualification (R41, R42), the writes of sources
(R36), REALIGN and STEP (R43), each by the lemma of its instruction above. -/
theorem timeBaseStates : Obligations.TimeBaseStates := by
  unfold Obligations.TimeBaseStates
  exact ⟨symbolBoundary_spec, servoUpdate_spec, sourceLoss_spec, sourceQualified_spec, phaseSrcWrite_spec, realign_spec, stepApply_spec⟩

end Sys2Proof.Machine
end

/-!
# The family 02_air_time.md: time signals (O43)
-/

section
namespace Sys2Proof.Machine
open Sys2Proof Sys2Proof.Claims

variable {s₀ s t : State} {n m : Nat}

/-! ## PTP messages received (R37, R38) -/

theorem Settles.portViolation (h : Settles s₀ s) {p : Nat} : Settles s₀ (s.portViolation p) :=
  Settles.settle (Settles.foldl (h.latch (by decide)) fun h => h.latch (by decide))

theorem ptpBad_spec (hn : n < 8) (p : Nat) :
    (s.ptpBad n p).get (tbIx n + 1) 0x0B = (s.get (tbIx n + 1) 0x0B + 1) % 2 ^ 32 ∧ ∃ o, s.ptpBad n p = { s with obj := o } := by
  have h : Settles (s.bump (tbIx n + 1) 0x0B) (s.ptpBad n p) := Settles.refl.portViolation
  obtain ⟨o, e⟩ := h.only
  refine ⟨(h.get (by unfold tbIx; omega) (by unfold tbIx; omega) (by decide)).trans (get_bump ..), o, e⟩

theorem ptpPort_lt {p d : Nat} {udp : Bool} {addr : List Byte} (h : s.ptpPort p d udp addr = some n) : n < 8 :=
  List.mem_range.1 (List.mem_of_find?_eq_some h)

theorem master_congr {x y : TimeBase} (h : x.masters = y.masters) : x.master = y.master := by
  rw [TimeBase.master, TimeBase.master, h]

theorem blobAt_putBlob (s : State) (i u : Nat) (b : List Byte) : (s.putBlob i u b).blobAt i u = b := (Tbl.get_set ..).trans (if_pos rfl)

theorem tc_setTb (s : State) (n k : Nat) {x : TimeBase} (h : x.tc = (s.tb n).tc) : ((s.setTb n x).tb k).tc = (s.tb k).tc := by
  rw [tb_setTb]
  split
  · rename_i hk
    rw [h, hk]
  · rfl

/-- Only the dictionary, its texts and the time bases differ. -/
def TablesOnly (s t : State) : Prop := ∃ o b l, t = { s with obj := o, blob := b, tbs := l }

theorem tablesOnly_setTb (s : State) (n : Nat) (x : TimeBase) : TablesOnly s (s.setTb n x) := ⟨_, _, _, rfl⟩

theorem TablesOnly.put (h : TablesOnly s t) (i u v : Nat) : TablesOnly s (t.put i u v) := by
  obtain ⟨o, b, l, rfl⟩ := h
  exact ⟨_, b, l, rfl⟩

theorem TablesOnly.putBlob (h : TablesOnly s t) (i u : Nat) (v : List Byte) : TablesOnly s (t.putBlob i u v) := by
  obtain ⟨o, b, l, rfl⟩ := h
  exact ⟨o, _, l, rfl⟩

/-- An Announce writes the list of masters, and for the selected one PARENT and GM_CLOCK_CLASS. -/
theorem ptpAnnounce_eq (s : State) (n : Nat) (x : PtpMaster) :
    ∃ y : TimeBase, x ∈ y.masters ∧ y.tc = (s.tb n).tc
      ∧ (∀ m, y.master = some m → s.ptpAnnounce n x = ((s.setTb n y).putBlob (tbIx n + 1) 8 m.source).put (tbIx n + 1) 9 m.clockClass)
      ∧ (y.master = none → s.ptpAnnounce n x = s.setTb n y) := by
  unfold State.ptpAnnounce
  extract_lets y l t1 same s1
  obtain ⟨z, hz, hmasters, htc⟩ : ∃ z : TimeBase, s1 = s.setTb n z ∧ z.masters = t1.masters ∧ z.tc = (s.tb n).tc :=
    ⟨_, rfl, by split <;> rfl, by split <;> rfl⟩
  refine ⟨z, ?_, htc, fun m h => ?_, fun h => ?_⟩
  · rw [hmasters]
    exact List.mem_append_right _ (List.mem_singleton_self x)
  · simp only [(master_congr hmasters).symm.trans h, hz]
  · simp only [(master_congr hmasters).symm.trans h, hz]

theorem ptpAnnounce_spec (s : State) (n : Nat) (x : PtpMaster) :
    let t := s.ptpAnnounce n x
    x ∈ (t.tb n).masters ∧ (∀ z, (t.tb n).master = some z → t.blobAt (tbIx n + 1) 8 = z.source ∧ t.get (tbIx n + 1) 9 = z.clockClass)
      ∧ (∃ o b l, t = { s with obj := o, blob := b, tbs := l }) ∧ ∀ k, (t.tb k).tc = (s.tb k).tc := by
  obtain ⟨y, hx, htc, hsome, hnone⟩ := ptpAnnounce_eq s n x
  have htb : (s.setTb n y).tb n = y := tb_setTb_self ..
  have hall : ∀ k, ((s.setTb n y).tb k).tc = (s.tb k).tc := fun k => tc_setTb s n k htc
  dsimp only
  cases hm : y.master with
  | some m =>
    have htb' : (s.ptpAnnounce n x).tb = (s.setTb n y).tb := by rw [hsome m hm]; rfl
    rw [htb', htb, hsome m hm]
    refine ⟨hx, fun w hw => ?_, ?_, hall⟩
    · obtain rfl := Option.some.inj (hm.symm.trans hw)
      exact ⟨blobAt_putBlob .., (get_put ..).trans (if_pos rfl)⟩
    · exact ((tablesOnly_setTb s n y).putBlob _ _ _).put _ _ _
  | none =>
    rw [hnone hm, htb]
    exact ⟨hx, fun w hw => absurd (hm.symm.trans hw) (by simp), tablesOnly_setTb s n y, hall⟩

/-- The answer to a Delay_Req of a domain with message m, received at a TAI instant. -/
def delayResp (dom : Nat) (m : List Byte) (now : Int) : List Byte :=
  [0x09#8, 0x02#8] ++ bytesBe 2 54 ++ bytesOf 1 dom ++ List.replicate 3 0#8 ++ (m.drop 8).take 8
    ++ List.replicate 14 0#8 ++ (m.drop 30).take 2 ++ [3#8, 0#8] ++ bytesBe 6 (now / 4000000000).toNat
    ++ bytesBe 4 (now % 4000000000 / 4).toNat ++ (m.drop 20).take 10

theorem delayResp_length {dom : Nat} {m : List Byte} {now : Int} (h : 64 ≤ m.length) : (delayResp dom m now).length = 54 := by
  simp only [delayResp, List.length_append, List.length_cons, List.length_nil, length_bytesBe, bytesOf, List.length_replicate, List.length_take,
    List.length_drop]
  omega

section
variable {port : Fin 16} {f addr m : List Byte} {udp : Bool}

/-- What a PTP message for time base n does, by its version and type, once its port and its domain have taken it. -/
theorem ptpMessageRx_taken (hf : ptpOf f = some (udp, addr, m)) (hup : s.get (0x2200 + port) 4 = 1) (hfor : s.frameForPort port f = true)
    (hport : s.ptpPort port (natOfBe ((m.drop 4).take 1)) udp addr = some n) :
    let p := port.val
    let type := natOfBe (m.take 1) % 16
    let i := tbIx n + 1
    let x := s.tb n
    let now := s.taiQuarter n - signed 32 (s.get (0x2200 + p) 6)
    let corr : Int := signed 64 (natOfBe ((m.drop 8).take 8)) / 16384
    let stamp := ptpTime ((m.drop 34).take 10)
    let parent := (x.master.map fun z => z.source) = some ((m.drop 20).take 10)
    (natOfBe ((m.drop 1).take 1) % 16 ≠ 2 → execPtpMessageRx port f s = .next (s.ptpBad n p))
    ∧ (64 ≤ m.length → natOfBe ((m.drop 1).take 1) % 16 = 2 →
      ((s.get i 3).testBit p = true → parent → type = 0 → execPtpMessageRx port f s
        = .next (s.setTb n { x with t2 := now, lastSync := some s.clock, t1 := if (natOfBe ((m.drop 6).take 1)).testBit 1 then x.t1 else stamp + corr }))
      ∧ ((s.get i 3).testBit p = true → parent → type = 8 → execPtpMessageRx port f s = .next (s.setTb n { x with t1 := stamp + corr }))
      ∧ ((s.get i 3).testBit p = true → parent → type = 9 → execPtpMessageRx port f s = .next (s.put i 0x0A (wrapTo 64 (((x.t2 - x.t1) + (stamp - corr - x.t3)) / 2))))
      ∧ ((s.get i 3).testBit p = true → ¬ parent → (type = 0 ∨ type = 8 ∨ type = 9) → execPtpMessageRx port f s = .next s)
      ∧ ((s.get i 3).testBit p = true → type = 0x0B → execPtpMessageRx port f s = .next (s.ptpAnnounce n (s.announced n p addr m)))
      ∧ ((s.get i 4).testBit p = true → type = 1 → execPtpMessageRx port f s
        = .next (s.emit (.data 4 p (delayResp (natOfBe ((m.drop 4).take 1)) m now))))) := by
  intro p type i x now corr stamp parent
  unfold execPtpMessageRx
  rw [hf]
  dsimp -zeta only
  extract_lets dom
  rw [if_neg (by simp [p, hup, hfor]), hport]
  dsimp -zeta only
  extract_lets slave par
  have hpar : parent → slave = true → par = true := fun h hs => by simp only [par, hs, Bool.true_and, beq_iff_eq]; exact h
  refine ⟨fun hv => if_pos (.inr hv), fun hlen hv => ?_⟩
  rw [if_neg (by omega)]
  refine ⟨fun hs hp h0 => ?_, fun hs hp h8 => ?_, fun hs hp h9 => ?_, fun hs hp h => ?_, fun hs hb => if_pos ⟨hb, hs, hlen⟩, fun hm h1 => ?_⟩
  · rw [if_neg (by omega), if_pos ⟨.inl h0, hs, by omega⟩, if_neg (by simp [hpar hp hs]), if_pos h0]
  · rw [if_neg (by omega), if_pos ⟨.inr (.inl h8), hs, by omega⟩, if_neg (by simp [hpar hp hs]), if_neg (by omega), if_pos h8]
  · rw [if_neg (by omega), if_pos ⟨.inr (.inr h9), hs, by omega⟩, if_neg (by simp [hpar hp hs]), if_neg (by omega), if_neg (by omega)]
  · have hnot : par = false := by
      simp only [par, Bool.and_eq_false_iff, beq_eq_false_iff_ne]
      exact .inr hp
    rw [if_neg (by omega), if_pos ⟨h, hs, by omega⟩, if_pos hnot]
  · rw [if_neg (by omega), if_neg (by omega), if_neg (by omega), if_pos ⟨h1, hm⟩]
    rfl

end

theorem tbIx_succ (n : Nat) : 0x2001 + n * 16 = tbIx n + 1 := by
  unfold tbIx
  omega

theorem ptpMessageRx_spec (port : Fin 16) (f : List Byte) (s : State) :
    (ptpOf f = none → exec (.ptpMessageRx port f) s = .next s)
    ∧ (∀ udp addr m n, ptpOf f = some (udp, addr, m) →
      let p := port.val
      let type := natOfBe (m.take 1) % 16
      let i := 0x2001 + n * 16
      let x := s.tb n
      let now := s.taiQuarter n - signed 32 (s.get (0x2200 + p) 6)
      let corr : Int := signed 64 (natOfBe ((m.drop 8).take 8)) / 16384
      let stamp := ptpTime ((m.drop 34).take 10)
      let parent := (x.master.map fun z => z.source) = some ((m.drop 20).take 10)
      s.get (0x2200 + p) 4 = 1 → s.frameForPort p f = true → s.ptpPort p (natOfBe ((m.drop 4).take 1)) udp addr = some n →
      (natOfBe ((m.drop 1).take 1) % 16 ≠ 2 → ∃ t, exec (.ptpMessageRx port f) s = .next t ∧ t.get i 0x0B = (s.get i 0x0B + 1) % 2 ^ 32 ∧ (∃ o, t = { s with obj := o }))
      ∧ (64 ≤ m.length → natOfBe ((m.drop 1).take 1) % 16 = 2 →
        ((s.get i 3).testBit p = true → parent → type = 0 → exec (.ptpMessageRx port f) s
          = .next (s.setTb n { x with t2 := now, lastSync := some s.clock, t1 := if (natOfBe ((m.drop 6).take 1)).testBit 1 then x.t1 else stamp + corr }))
        ∧ ((s.get i 3).testBit p = true → parent → type = 8 → exec (.ptpMessageRx port f) s = .next (s.setTb n { x with t1 := stamp + corr }))
        ∧ ((s.get i 3).testBit p = true → parent → type = 9 → exec (.ptpMessageRx port f) s = .next (s.put i 0x0A (wrapTo 64 (((x.t2 - x.t1) + (stamp - corr - x.t3)) / 2))))
        ∧ ((s.get i 3).testBit p = true → ¬ parent → (type = 0 ∨ type = 8 ∨ type = 9) → exec (.ptpMessageRx port f) s = .next s)
        ∧ ((s.get i 3).testBit p = true → type = 0x0B →
          ∃ t, exec (.ptpMessageRx port f) s = .next t ∧ s.announced n p addr m ∈ (t.tb n).masters
            ∧ (∀ z, (t.tb n).master = some z → t.blobAt i 8 = z.source ∧ t.get i 9 = z.clockClass) ∧ (∃ o b l, t = { s with obj := o, blob := b, tbs := l }) ∧ ∀ k, (t.tb k).tc = (s.tb k).tc)
        ∧ ((s.get i 4).testBit p = true → type = 1 → ∃ b, exec (.ptpMessageRx port f) s = .next (s.emit (.data 4 p b)) ∧ b.length = 54 ∧ b.take 2 = [0x09#8, 0x02#8]))) := by
  refine ⟨fun h => ?_, fun udp addr m n hf => ?_⟩
  · show execPtpMessageRx port f s = _
    unfold execPtpMessageRx
    rw [h]
  · rw [tbIx_succ]
    intro p type i x now corr stamp parent hup hfor hport
    obtain ⟨hbad, hgood⟩ := ptpMessageRx_taken hf hup hfor hport
    refine ⟨fun hv => ⟨_, hbad hv, ptpBad_spec (ptpPort_lt hport) p⟩, fun hlen hv => ?_⟩
    obtain ⟨hsync, hfollow, hresp, hother, hann, hreq⟩ := hgood hlen hv
    exact ⟨hsync, hfollow, hresp, hother, fun hs hb => ⟨_, hann hs hb, ptpAnnounce_spec s n _⟩,
      fun hm h1 => ⟨_, hreq hm h1, delayResp_length hlen, rfl⟩⟩

/-! ## PTP messages sent (R38) -/

theorem foldl_emit (f : List Byte → Out) (l : List (List Byte)) (s : State) :
    l.foldl (fun (s : State) a => s.emit (f a)) s = { s with out := s.out ++ l.map f } := by
  induction l generalizing s with
  | nil => rw [List.foldl_nil, List.map_nil, List.append_nil]
  | cons a l ih => rw [List.foldl_cons, ih, State.emit, List.map_cons, List.append_assoc, List.singleton_append]

/-- A time base that has sent a PTP message, a Delay_Req at the instant `now`. -/
def TimeBase.sent (x : TimeBase) (kind : Nat) (now : Int) : TimeBase :=
  { x with ptpSeq := (x.ptpSeq + 1) % 65536, t3 := if kind = 2 then now else x.t3 }

theorem ptpMessageTx_sends {tb : Fin 8} {port : Fin 16} {kind : Fin 4} (he : (s.tb tb).enabled = true) (hup : s.get (0x2200 + port) 4 = 1) (hc : s.cut = false) :
    let i := tbIx tb + 1
    let udp : Bool := s.get i 1 == 1
    let slave : Bool := (s.get i 3).testBit port && (s.get (tbIx tb) 5 == 1 || s.get (tbIx tb) 7 == 1)
    (if kind.val = 2 then (slave && (!udp || (s.tb tb).master.isSome)) = true else if kind.val = 3 then (slave && udp) = true
      else (s.get i 4).testBit port = true ∧ udp = false) →
    ∃ (msg : List Byte) (dests : List (List Byte)),
      execPtpMessageTx tb port kind s = .next (dests.foldl (fun (s : State) a => s.emit (.data 4 port (a ++ msg)))
        (s.setTb tb ((s.tb tb).sent kind (s.taiQuarter tb + signed 32 (s.get (0x2200 + port) 5)))))
      ∧ dests.length = (if kind.val = 3 then (s.blobAt i 6).length / 17 else 1)
      ∧ (kind.val < 3 → udp = false → ∀ a ∈ dests, (a ++ msg).headD 0#8 = if kind.val = 0 then 0#8 else if kind.val = 1 then 0x0B#8 else 1#8) := by
  intro i udp slave hmay
  unfold execPtpMessageTx
  extract_lets n p i' x udp' slave' may now type len head origin sync msg dests s1
  have hmay' : may = true := by
    simp only [may]
    split_ifs at hmay ⊢ with h2 h3
    · exact hmay
    · exact hmay
    · exact Bool.and_eq_true_iff.2 ⟨hmay.1, by rw [show udp' = false from hmay.2]; rfl⟩
  rw [if_neg (by simp [n, x, p, he, hmay', hup, hc])]
  refine ⟨msg, dests, rfl, ?_, fun hk hudp a ha => ?_⟩
  · simp only [dests]
    split
    · rw [List.length_map, List.length_range]
    · split
      · rfl
      · rfl
  · have hd : dests = [[]] := by
      simp only [dests]
      rw [if_neg (by omega), if_neg (by rw [show udp' = false from hudp]; decide)]
    rw [hd, List.mem_singleton] at ha
    have htype : type = if kind.val = 0 then 0 else if kind.val = 1 then 0x0B else 1 := by
      simp only [type]
      split
      · rfl
      · split
        · rfl
        · rw [if_pos (by omega)]
    rw [ha]
    show BitVec.ofNat 8 type = _
    rw [htype, apply_ite (BitVec.ofNat 8), apply_ite (BitVec.ofNat 8)]

theorem ptpMessageTx_spec (tb : Fin 8) (port : Fin 16) (kind : Fin 4) (s : State) :
    let n := tb.val
    let p := port.val
    let x := s.tb n
    let udp : Bool := s.get (0x2001 + n * 16) 1 == 1
    let slave : Bool := (s.get (0x2001 + n * 16) 3).testBit p && (s.get (tbIx n) 5 == 1 || s.get (tbIx n) 7 == 1)
    x.enabled = true → s.get (0x2200 + p) 4 = 1 → s.cut = false →
    (if kind.val = 2 then (slave && (!udp || x.master.isSome)) = true else if kind.val = 3 then (slave && udp) = true else (s.get (0x2001 + n * 16) 4).testBit p = true ∧ udp = false) →
    ∃ (t : State) (l : List (List Byte)), exec (.ptpMessageTx tb port kind) s = .next t ∧ t.out = s.out ++ l.map (fun b => Out.data 4 p b)
      ∧ l.length = (if kind.val = 3 then (s.blobAt (0x2001 + n * 16) 6).length / 17 else 1)
      ∧ (kind.val < 3 → udp = false → ∀ b ∈ l, b.headD 0#8 = if kind.val = 0 then 0#8 else if kind.val = 1 then 0x0B#8 else 1#8)
      ∧ (t.tb n).ptpSeq = (x.ptpSeq + 1) % 65536 ∧ (t.tb n).t3 = (if kind.val = 2 then s.taiQuarter n + signed 32 (s.get (0x2200 + p) 5) else x.t3) ∧ (t.tb n).tc = x.tc ∧ t.obj = s.obj := by
  intro n p
  rw [tbIx_succ n]
  intro x udp slave he hup hc hmay
  obtain ⟨msg, dests, e, hlen, hhead⟩ := ptpMessageTx_sends he hup hc hmay
  rw [foldl_emit] at e
  have htb : ∀ l, ({ s.setTb tb ((s.tb tb).sent kind (s.taiQuarter tb + signed 32 (s.get (0x2200 + port) 5))) with out := l } : State).tb n
      = (s.tb tb).sent kind (s.taiQuarter tb + signed 32 (s.get (0x2200 + port) 5)) := fun _ => tb_setTb_self ..
  refine ⟨_, dests.map (· ++ msg), e, ?_, (List.length_map ..).trans hlen, fun hk hu b hb => ?_, ?_, ?_, ?_, rfl⟩
  · rw [List.map_map]
    rfl
  · obtain ⟨a, ha, rfl⟩ := List.mem_map.1 hb
    exact hhead hk hu a ha
  all_goals
    rw [htb]
    rfl

/-! ## PPS_IN and the time of day (R40) -/

theorem foldl_setTb_only (g : State → Nat → TimeBase) (l : List Nat) (s : State) :
    ∃ b, l.foldl (fun (s : State) n => s.setTb n (g s n)) s = { s with tbs := b } := by
  refine foldl_inv _ (fun u : State => ∃ b, u = { s with tbs := b }) (fun u n h => ?_) l s ⟨_, rfl⟩
  obtain ⟨b, rfl⟩ := h
  exact ⟨_, rfl⟩

/-- Time bases written one after another, each by what it and the dictionary hold. -/
theorem tb_foldl_setTb {g : State → Nat → TimeBase} (hg : ∀ (u v : State) n, u.tb n = v.tb n → u.obj = v.obj → g u n = g v n) {l : List Nat}
    (hl : l.Nodup) (s : State) (m : Nat) : (l.foldl (fun (s : State) n => s.setTb n (g s n)) s).tb m = if m ∈ l then g s m else s.tb m := by
  induction l generalizing s with
  | nil => exact (if_neg List.not_mem_nil).symm
  | cons a l ih =>
    obtain ⟨ha, hl⟩ := List.nodup_cons.1 hl
    rw [List.foldl_cons, ih hl]
    by_cases hm : m = a
    · subst hm
      rw [if_neg ha, if_pos List.mem_cons_self, tb_setTb_self]
    · have htb : (s.setTb a (g s a)).tb m = s.tb m := (tb_setTb ..).trans (if_neg hm)
      simp only [List.mem_cons, hm, false_or, htb, hg (s.setTb a (g s a)) s m htb rfl]

/-- A time base with the timestamp of an edge of PPS_IN. -/
def State.stamped (s : State) (n : Nat) : TimeBase := { s.tb n with stamp := s.taiQuarter n - signed 32 (s.get 0x2120 2) }

theorem stamped_congr (u v : State) (n : Nat) (h : u.tb n = v.tb n) (ho : u.obj = v.obj) : u.stamped n = v.stamped n := by
  have hget : ∀ i w, u.get i w = v.get i w := fun i w => by rw [State.get, State.get, ho]
  rw [State.stamped, State.stamped, State.taiQuarter, State.taiQuarter, h, hget, hget]

theorem mem_ppsTbs : m ∈ s.ppsTbs ↔ m < 8 ∧ (s.tb m).enabled = true ∧ (s.get (tbIx m) 5 = 2 ∨ s.get (tbIx m) 7 = 2) := by
  simp [State.ppsTbs]

theorem ppsInEdge_spec (s : State) : (s.get 0x2120 1 ≠ 1 → exec .ppsInEdge s = .next s)
    ∧ (s.get 0x2120 1 = 1 → ∃ t, exec .ppsInEdge s = .next t ∧ t.pps = { s.pps with edge := some s.clock, label := none } ∧ (∃ b x, t = { s with tbs := b, pps := x })
      ∧ ∀ n < 8, t.tb n = if (s.tb n).enabled = true ∧ (s.get (tbIx n) 5 = 2 ∨ s.get (tbIx n) 7 = 2) then { s.tb n with stamp := s.taiQuarter n - signed 32 (s.get 0x2120 2) } else s.tb n) := by
  refine ⟨fun h => congrArg Host.Outcome.next (if_neg h), fun h => ⟨_, congrArg Host.Outcome.next (if_pos h), ?_, ?_, fun n hn => ?_⟩⟩
  · obtain ⟨b, e⟩ := foldl_setTb_only State.stamped s.ppsTbs { s with pps := { s.pps with edge := some s.clock, label := none } }
    exact congrArg State.pps e
  · obtain ⟨b, e⟩ := foldl_setTb_only State.stamped s.ppsTbs { s with pps := { s.pps with edge := some s.clock, label := none } }
    exact ⟨b, _, e⟩
  · refine (tb_foldl_setTb stamped_congr (List.nodup_range.filter _) _ n).trans ?_
    exact if_congr (mem_ppsTbs.trans (and_iff_right hn)) rfl rfl

/-- The state in which a sentence has counted as bad for time base n. -/
def State.badSentence (s : State) (n : Nat) : State := (s.bump (tbIx n + 1) 0x0B).attend 4 0xFF

theorem badSentences_only (l : List Nat) (s : State) : ∃ o, l.foldl State.badSentence s = { s with obj := o } := by
  refine foldl_inv _ (fun u : State => ∃ o, u = { s with obj := o }) (fun u n h => ?_) l s ⟨_, rfl⟩
  obtain ⟨o, rfl⟩ := h
  obtain ⟨o', e⟩ := (Settles.refl.attend (by decide) : Settles (State.bump { s with obj := o } (tbIx n + 1) 0x0B) (State.badSentence { s with obj := o } n)).only
  exact ⟨o', e⟩

theorem badSentence_get (s : State) (hm : m < 8) (n : Nat) :
    (s.badSentence n).get (tbIx m + 1) 0x0B = if m = n then (s.get (tbIx m + 1) 0x0B + 1) % 2 ^ 32 else s.get (tbIx m + 1) 0x0B := by
  have h : Settles (s.bump (tbIx n + 1) 0x0B) (s.badSentence n) := Settles.refl.attend (by decide)
  rw [h.get (by unfold tbIx; omega) (by unfold tbIx; omega) (by decide)]
  by_cases hn : m = n
  · rw [if_pos hn, hn, get_bump]
  · rw [if_neg hn, get_bump_ne (by unfold okey tbIx; omega)]

theorem badSentences_get {l : List Nat} (hl : l.Nodup) (s : State) (hm : m < 8) :
    (l.foldl State.badSentence s).get (tbIx m + 1) 0x0B = if m ∈ l then (s.get (tbIx m + 1) 0x0B + 1) % 2 ^ 32 else s.get (tbIx m + 1) 0x0B := by
  induction l generalizing s with
  | nil => exact (if_neg List.not_mem_nil).symm
  | cons a l ih =>
    obtain ⟨ha, hl⟩ := List.nodup_cons.1 hl
    rw [List.foldl_cons, ih hl, badSentence_get s hm]
    by_cases h : m = a
    · subst h
      rw [if_neg ha, if_pos rfl, if_pos List.mem_cons_self]
    · simp only [List.mem_cons, h, false_or, if_false]

theorem zdaSentence_take (utc : Nat) : (zdaSentence utc).take 6 = [0x24#8, 0x47#8, 0x50#8, 0x5A#8, 0x44#8, 0x41#8] := rfl

/-- The time bases with a source that takes PPS_IN and the time of day. -/
def State.todTbs (s : State) : List Nat := (List.range 8).filter fun n => s.get (tbIx n) 5 == 2 || s.get (tbIx n) 7 == 2

theorem todMessage_spec (utc : BitVec 48) (s : State) :
    (s.get 0x2122 1 = 1 → ∀ v, ∃ b, exec (.todMessage utc v) s = .next (s.emit (.data 15 0 b)) ∧ b.take 6 = [0x24#8, 0x47#8, 0x50#8, 0x5A#8, 0x44#8, 0x41#8])
    ∧ (s.get 0x2122 1 ≠ 1 → ∀ e, s.pps.edge = some e → spansUs 10000 e s.clock = true → spansUs 900000 e s.clock = false →
      exec (.todMessage utc true) s = .next { s with pps := { s.pps with label := some ((utc.toNat : Int) + signed 32 (s.get 0x2122 3)).toNat } })
    ∧ (s.get 0x2122 1 ≠ 1 → ∃ t, exec (.todMessage utc false) s = .next t ∧ (∃ o, t = { s with obj := o })
      ∧ ∀ n < 8, t.get (0x2001 + n * 16) 0x0B = if s.get (tbIx n) 5 = 2 ∨ s.get (tbIx n) 7 = 2 then (s.get (0x2001 + n * 16) 0x0B + 1) % 2 ^ 32 else s.get (0x2001 + n * 16) 0x0B) := by
  refine ⟨fun h v => ⟨_, if_pos h, zdaSentence_take _⟩, fun h e he h10 h900 => ?_, fun h => ⟨s.todTbs.foldl State.badSentence s, ?_, badSentences_only _ s, fun n hn => ?_⟩⟩
  · show execTodMessage utc true s = _
    unfold execTodMessage
    extract_lets timely
    have htimely : timely = true := by simp only [timely, he, h10, h900, Bool.false_and, Bool.not_false, Bool.and_true]
    rw [if_neg h, if_pos ⟨rfl, htimely⟩]
  · exact (if_neg h).trans (if_neg fun hv => Bool.noConfusion hv.1)
  · rw [tbIx_succ, badSentences_get (l := s.todTbs) (List.nodup_range.filter _) s hn]
    exact if_congr (by simp [State.todTbs, hn]) rfl rfl

/-! ## REF_IN (R37, R40) -/

/-- Time base n is as it was, and so are the setup objects but HOLDOVER_CAUSE and STATE_CHANGES. -/
structure Spared (n : Nat) (s t : State) : Prop where
  tb : t.tb n = s.tb n
  get : ∀ i u, 0x2000 ≤ i → i < 0x10000 → u < 256 → u ≠ 0x11 → u ≠ 0x16 → t.get i u = s.get i u

theorem Spared.refl : Spared n s s := ⟨rfl, fun _ _ _ _ _ _ _ => rfl⟩

theorem Spared.trans {u : State} (h : Spared n s t) (h' : Spared n t u) : Spared n s u :=
  ⟨h'.tb.trans h.tb, fun i w hi hi' hw h1 h2 => (h'.get i w hi hi' hw h1 h2).trans (h.get i w hi hi' hw h1 h2)⟩

theorem Spared.getTb (h : Spared n s t) {u : Nat} (hn : n < 8) (hu : u < 256) (h1 : u ≠ 0x11) (h2 : u ≠ 0x16) : t.get (tbIx n) u = s.get (tbIx n) u :=
  h.get _ _ (by unfold tbIx; omega) (by unfold tbIx; omega) hu h1 h2

theorem Spared.follows (h : Spared n s t) (hn : n < 8) : t.tbFollows n = s.tbFollows n :=
  tbFollows_congr (by rw [h.tb]) (by rw [h.tb]) (by rw [h.tb]) (h.getTb hn (by decide) (by decide) (by decide))
    (h.getTb hn (by decide) (by decide) (by decide))

/-- A move of another time base spares one that follows none. -/
theorem Moves.spared (h : Moves m s t) (hm : n ≠ m) (hf : s.tbFollows n = false) : Spared n s t :=
  ⟨h.tb n hm (.inr hf), fun _ _ hi hi' hu h1 h2 => h.get hi hi' hu h1 h2⟩

section Users
variable {f : State → Nat → State} {l : List Nat} (hf : ∀ u m, Moves m u (f u m))
include hf

theorem foldl_spared (hn : n < 8) (hl : n ∉ l) (hs : s.tbFollows n = false) : Spared n s (l.foldl f s) := by
  induction l generalizing s with
  | nil => exact .refl
  | cons a l ih =>
    have ha : Spared n s (f s a) := (hf s a).spared (fun h => hl (h ▸ List.mem_cons_self)) hs
    exact ha.trans (ih (fun h => hl (List.mem_cons_of_mem a h)) ((ha.follows hn).trans hs))

/-- Of moves of different time bases, one is that of time base n; the others spare it. -/
theorem foldl_moves_at (hn : n < 8) (hl : l.Nodup) (hm : n ∈ l) (hs : s.tbFollows n = false)
    (hat : ∀ u, Spared n s u → (f u n).tbFollows n = false) : ∃ u, Spared n s u ∧ (l.foldl f s).followStates.tb n = (f u n).tb n := by
  obtain ⟨l₁, l₂, rfl⟩ := List.append_of_mem hm
  have hl₁ : n ∉ l₁ := fun h => (List.nodup_append.1 hl).2.2 n h n List.mem_cons_self rfl
  have hl₂ : n ∉ l₂ := (List.nodup_cons.1 (List.nodup_append.1 hl).2.1).1
  have h₁ : Spared n s (l₁.foldl f s) := foldl_spared hf hn hl₁ hs
  have h₂ : Spared n (f (l₁.foldl f s) n) (l₂.foldl f (f (l₁.foldl f s) n)) := foldl_spared hf hn hl₂ (hat _ h₁)
  refine ⟨_, h₁, ?_⟩
  rw [List.foldl_append, List.foldl_cons, followStates_tb hn ((h₂.follows hn).trans (hat _ h₁)), h₂.tb]

theorem foldl_moves_get (l : List Nat) (s : State) : (l.foldl f s).followStates.get 0x2124 2 = s.get 0x2124 2 :=
  ((Moves.refl (n := 0)).followStates.get (by decide) (by decide) (by decide) (by decide) (by decide)).trans
    (foldl_keeps f (fun u : State => u.get 0x2124 2) (fun u m => (hf u m).get (by decide) (by decide) (by decide) (by decide) (by decide)) l s)

end Users

/-- The state in which REF_IN_STATE has a value. -/
def State.refIn (s : State) (v : Nat) : State := s.put 0x2124 2 v

theorem refIn_get (s : State) (v : Nat) : (s.refIn v).get 0x2124 2 = v := (get_put ..).trans (if_pos rfl)

theorem refIn_tb (s : State) (v n : Nat) : (s.refIn v).tb n = s.tb n := rfl

theorem refIn_getTb (s : State) (v n : Nat) {u : Nat} (hu : u < 256) : (s.refIn v).get (tbIx n) u = s.get (tbIx n) u :=
  (get_put ..).trans (if_neg (by unfold okey tbIx; omega))

theorem refUsers_nodup (s : State) : s.refUsers.Nodup := List.nodup_range.filter _

theorem mem_refUsers (hn : n < 8) (h8 : s.get (tbIx n) 8 = 1) (h5 : s.get (tbIx n) 5 = 0) : n ∈ s.refUsers := by
  simp [State.refUsers, hn, h8, h5]

theorem refInTolerance_eq_false {ppb : BitVec 32} : refInTolerance ppb = false ↔ 50000 < ppb.toInt.natAbs := by
  simp [refInTolerance]

/-- A frequency-locked time base without a fallback that loses its source is in HOLDOVER, with no source in use. -/
theorem tbLose_holdover (he : (s.tb n).enabled = true) (hp : (s.tb n).prim.isSome = true) (hf : (s.tb n).onFallback = false) (hb : (s.tb n).fb = none)
    (hst : (s.tb n).state = .freqLocked) : ((s.tbLose n false).tb n).state = .holdover ∧ ((s.tbLose n false).tb n).inUse = false := by
  have hlose : s.tbLose n false = (s.setTb n { s.tb n with prim := none }).dropSource n .freerun := by
    unfold State.tbLose
    extract_lets x had s1
    rw [if_neg (by simp [x, had, he, hp, hf]), if_neg (by simp [x, hst])]
    rfl
  obtain ⟨g, b, e⟩ := dropSource_gone_tb (s := s.setTb n { s.tb n with prim := none }) (n := n) (other := .freerun) (by rw [tb_setTb_self]; simp [hb])
  rw [hlose, e, tb_setTb_self]
  refine ⟨?_, rfl⟩
  rw [show ({ s.tb n with prim := none } : TimeBase).state = .freqLocked from hst]
  rfl

theorem refInLoss_spec (quiet ppb : BitVec 32) (s : State) :
    let lost := spansUs 10 0 quiet.toNat = true ∨ 50000 < ppb.toInt.natAbs
    ((s.get 0x2124 2 ≠ 1 ∨ ¬ lost) → exec (.refInLoss quiet ppb) s = .next s)
    ∧ (s.get 0x2124 2 = 1 → lost → ∃ t, exec (.refInLoss quiet ppb) s = .next t ∧ t.get 0x2124 2 = 2
      ∧ ∀ n < 8, s.get (tbIx n) 8 = 1 → s.get (tbIx n) 5 = 0 → (s.tb n).enabled = true → (s.tb n).prim.isSome = true → (s.tb n).onFallback = false → (s.tb n).fb = none →
        (s.tb n).state = .freqLocked → (t.tb n).state = .holdover) := by
  intro lost
  have hlost : (spansUs 10 0 quiet.toNat = true ∨ refInTolerance ppb = false) ↔ lost := or_congr .rfl refInTolerance_eq_false
  have hmoves : ∀ u m, Moves m u (State.tbLose u m false) := fun _ _ => Moves.refl.tbLose
  refine ⟨fun h => congrArg Host.Outcome.next (if_neg fun hg => ?_), fun h1 hl =>
    ⟨_, congrArg Host.Outcome.next (if_pos ⟨h1, hlost.2 hl⟩), (foldl_moves_get hmoves s.refUsers (s.refIn 2)).trans (refIn_get s 2),
      fun n hn h8 h5 he hp hf hb hst => ?_⟩⟩
  · exact h.elim (fun h => h hg.1) fun h => h (hlost.1 hg.2)
  · have hends : ∀ u, Spared n (s.refIn 2) u → ((u.tbLose n false).tb n).state = .holdover ∧ ((u.tbLose n false).tb n).inUse = false := fun u hu => by
      have e : u.tb n = s.tb n := hu.tb
      rw [← e] at he hp hf hb hst
      exact tbLose_holdover he hp hf hb hst
    have hnone : (s.refIn 2).tbFollows n = false :=
      tbFollows_of_source (by rw [tbSource_primary ((congrArg TimeBase.onFallback (refIn_tb s 2 n)).trans hf), refIn_getTb s 2 n (by decide), h5]; decide)
    obtain ⟨u, hu, e⟩ := foldl_moves_at hmoves hn (refUsers_nodup s) (mem_refUsers hn h8 h5) hnone
      fun u hu => tbFollows_of_unused (hends u hu).2
    exact (congrArg TimeBase.state e).trans (hends u hu).1

/-- A time base whose source qualifies at offset 0 is ACQUIRING with it. -/
theorem tbQualify_zero (hn : n < 8) (h5 : s.get (tbIx n) 5 ≠ 3) (he : (s.tb n).enabled = true) (hu : (s.tb n).inUse = false) :
    let x := (s.tbQualify n false 0).tb n
    x.state = .acquiring ∧ x.prim = some 0 ∧ x.onFallback = false := by
  rw [tbQualify_takes 0 he hu]
  obtain ⟨hstep, hslew, -⟩ := qualified_take hn (off := 0) h5
  cases hr : s.tbReferenced n with
  | false =>
    obtain ⟨g, b, e⟩ := hstep hr
    rw [e, qualified_tb]
    exact ⟨rfl, rfl, rfl⟩
  | true =>
    obtain ⟨g, b, e⟩ := hslew hr (Nat.zero_le _)
    rw [e, qualified_tb]
    exact ⟨rfl, rfl, rfl⟩

theorem refInReturn_spec (ppb : BitVec 32) (s : State) :
    ((s.get 0x2124 2 = 1 ∨ 50000 < ppb.toInt.natAbs) → exec (.refInReturn ppb) s = .next s)
    ∧ (s.get 0x2124 2 ≠ 1 → ppb.toInt.natAbs ≤ 50000 → ∃ t, exec (.refInReturn ppb) s = .next t ∧ t.get 0x2124 2 = 1
      ∧ ∀ n < 8, s.get (tbIx n) 8 = 1 → s.get (tbIx n) 5 = 0 → (s.tb n).enabled = true → (s.tb n).inUse = false → (t.tb n).state = .acquiring ∧ (t.tb n).prim = some 0) := by
  have hmoves : ∀ u m, Moves m u (State.tbQualify u m false 0) := fun _ _ => Moves.refl.tbQualify
  refine ⟨fun h => congrArg Host.Outcome.next (if_pos (h.imp_right refInTolerance_eq_false.2)), fun h1 hp =>
    ⟨_, congrArg Host.Outcome.next (if_neg ?_), (foldl_moves_get hmoves s.refUsers (s.refIn 1)).trans (refIn_get s 1), fun n hn h8 h5 he hu => ?_⟩⟩
  · rw [refInTolerance_eq_false]
    omega
  · have hends : ∀ u, Spared n (s.refIn 1) u → u.get (tbIx n) 5 = 0 ∧ ((u.tbQualify n false 0).tb n).state = .acquiring
        ∧ ((u.tbQualify n false 0).tb n).prim = some 0 ∧ ((u.tbQualify n false 0).tb n).onFallback = false := fun v hv => by
      have e : v.tb n = s.tb n := hv.tb
      have e5 : v.get (tbIx n) 5 = 0 := ((hv.getTb hn (by decide) (by decide) (by decide)).trans (refIn_getTb s 1 n (by decide))).trans h5
      rw [← e] at he hu
      exact ⟨e5, tbQualify_zero hn (by rw [e5]; decide) he hu⟩
    obtain ⟨v, hv, e⟩ := foldl_moves_at (s := s.refIn 1) hmoves hn (refUsers_nodup s) (mem_refUsers hn h8 h5) (tbFollows_of_unused hu) fun v hv => by
      obtain ⟨e5, -, -, hf⟩ := hends v hv
      exact tbFollows_of_source (by
        rw [tbSource_primary hf, (hmoves v n).getTb hn (by decide) (by decide) (by decide), e5]
        decide)
    obtain ⟨-, hst, hprim, -⟩ := hends v hv
    exact ⟨(congrArg TimeBase.state e).trans hst, (congrArg TimeBase.prim e).trans hprim⟩

/-! ## The recovered clock, ESMC and PPS_OUT (R38, R40) -/

theorem testBit_xor_pow (m i k : Nat) : (m ^^^ 2 ^ i).testBit k = if k = i then !m.testBit k else m.testBit k := by
  rw [Nat.testBit_xor, Nat.testBit_two_pow]
  by_cases h : k = i
  · simp [h]
  · simp [h, Ne.symm h]

/-- Driving SYNCE_CLK_OUT forms the clock of the lane, and records it when it changes. -/
theorem driveSynce_spec (s : State) :
    s.driveSynce.pps.locked = s.pps.locked
      ∧ s.driveSynce.pps.synce = (if s.pps.locked.testBit (s.get 0x2123 1) then 1 + s.get 0x2123 2 else 0)
      ∧ (s.driveSynce.pps.synce ≠ s.pps.synce → s.driveSynce.out = s.out ++ [.data 6 33 [BitVec.ofNat 8 s.driveSynce.pps.synce]])
      ∧ s.driveSynce.obj = s.obj := by
  unfold State.driveSynce
  extract_lets lane x
  split
  · rename_i h
    exact ⟨rfl, h.1, fun hne => absurd rfl hne, rfl⟩
  · exact ⟨rfl, rfl, fun _ => rfl, rfl⟩

theorem synceSquelch_spec (lane : Fin 16) (lock : Bool) (s : State) :
    ∃ t, exec (.synceSquelch lane lock) s = .next t ∧ (∀ k, t.pps.locked.testBit k = if k = lane.val then lock else s.pps.locked.testBit k)
      ∧ t.pps.synce = (if t.pps.locked.testBit (s.get 0x2123 1) then 1 + s.get 0x2123 2 else 0)
      ∧ (t.pps.synce ≠ s.pps.synce → t.out = s.out ++ [.data 6 33 [BitVec.ofNat 8 t.pps.synce]]) ∧ t.obj = s.obj := by
  refine ⟨_, rfl, ?_⟩
  obtain ⟨hlocked, hsynce, hout, hobj⟩ := driveSynce_spec
    { s with pps := { s.pps with locked := if s.pps.locked.testBit lane.val == lock then s.pps.locked else s.pps.locked ^^^ 2 ^ lane.val } }
  refine ⟨fun k => ?_, ?_, hout, hobj⟩
  · rw [hlocked]
    by_cases h : s.pps.locked.testBit lane.val = lock
    · rw [if_pos (beq_iff_eq.2 h)]
      split
      · subst k
        exact h
      · rfl
    · rw [if_neg fun hb => h (beq_iff_eq.1 hb), testBit_xor_pow]
      split
      · subst k
        exact Bool.not_eq.2 h
      · rfl
  · rw [hlocked]
    exact hsynce

theorem esmcRx_spec (port : Fin 16) (pdu : List Byte) (s : State) :
    exec (.esmcRx port pdu) s = .next (if s.get (0x2200 + port.val) 4 = 1 then { s with out := s.out ++ [.data 12 port pdu] } else s) := rfl

theorem ppsOutEdge_spec (s : State) :
    let n := s.get 0x2121 1 % 8
    let t : Int := ((s.tb n).tc : Int) - asI64 (s.get (tbIx n) 4)
    let sec := t / 1966080000
    let rest := t % 1966080000
    let w : Int := s.get 0x2121 2
    (s.pps.out = false → (s.tb n).enabled = true → s.pps.second ≠ some sec → rest < w →
      exec .ppsOutEdge s = .next { s with pps := { s.pps with out := true, second := some sec }, out := s.out ++ [.data 6 32 [2#8]] })
    ∧ (s.pps.out = false → ((s.tb n).enabled = false ∨ s.pps.second = some sec ∨ w ≤ rest) → exec .ppsOutEdge s = .next s)
    ∧ (s.pps.out = true → (s.pps.second ≠ some sec ∨ w ≤ rest) → exec .ppsOutEdge s = .next { s with pps := { s.pps with out := false }, out := s.out ++ [.data 6 32 [1#8]] })
    ∧ (s.pps.out = true → s.pps.second = some sec → rest < w → exec .ppsOutEdge s = .next s) := by
  intro n t sec rest w
  have low : s.pps.out = false → ¬ s.pps.out = true := fun h => by simp [h]
  refine ⟨fun ho he hs hw => congrArg Host.Outcome.next ((if_neg (low ho)).trans (if_pos ⟨he, hs, hw⟩)), fun ho h =>
    congrArg Host.Outcome.next ((if_neg (low ho)).trans (if_neg ?_)), fun ho h => congrArg Host.Outcome.next ((if_pos ho).trans (if_pos h)), fun ho hs hw =>
    congrArg Host.Outcome.next ((if_pos ho).trans (if_neg ?_))⟩
  · rintro ⟨he, hs, hw⟩
    rcases h with h | h | h
    · exact Bool.noConfusion (h.symm.trans he)
    · exact hs h
    · exact absurd h (Int.not_le.2 hw)
  · rintro (h | h)
    · exact h hs
    · exact absurd h (Int.not_le.2 hw)

/-- Settles O43: each signal by the equations of its operation; a loss or return of REF_IN moves each of its users once, and spares the others. -/
theorem timeSignals : Obligations.TimeSignals := by
  unfold Obligations.TimeSignals
  exact ⟨ptpMessageRx_spec, ptpMessageTx_spec, ppsInEdge_spec, todMessage_spec, refInLoss_spec, refInReturn_spec, synceSquelch_spec, esmcRx_spec,
    ppsOutEdge_spec⟩

end Sys2Proof.Machine
end

/-!
# The family 02_air_time.md: jobs on cores (O27)
-/

section
namespace Sys2Proof.Machine
open Sys2Proof Sys2Proof.Claims

variable {s t u : State} {n k j : Nat}

/-! ## What the start of a context leaves as it was -/

/-- The cores, the swapped-out contexts, the descriptors of customer jobs and the objects but counts of subindex 5 stand; so does memory while nothing
is recorded. -/
structure StartKeeps (s t : State) : Prop where
  cores : t.cores = s.cores
  swapped : t.swapped = s.swapped
  job : ∀ i, (s.job i).kind = 0x20 → t.job i = s.job i
  obj : ∀ d k, Tracked k → k % 256 ≠ 5 → Tbl.get d t.obj k = Tbl.get d s.obj k
  mem : s.get 0x5300 0x0B ≠ 1 → t.mem = s.mem

/-- The parts of the state that a note in the Replay record leaves. -/
def State.scheduled (s : State) : Tbl Core × List Swapped × Tbl Job := (s.cores, s.swapped, s.jobs)

theorem scheduled_recordless : Recordless State.scheduled where
  put _ _ _ _ := rfl
  putB _ _ _ _ _ := rfl
  storeBytes _ _ _ := rfl
  replay _ _ := rfl

theorem noteSample_same (s : State) (n : Nat) (p : Purpose) (j : Nat) : Same State.scheduled s (s.noteSample n p j) :=
  Same.refl.replayLog scheduled_recordless

theorem noteSample_off (h : s.get 0x5300 0x0B ≠ 1) (n : Nat) (p : Purpose) (j : Nat) : s.noteSample n p j = s := if_pos h

theorem job_congr (h : t.jobs = s.jobs) (i : Nat) : t.job i = s.job i := by
  rw [State.job, State.job, h]

theorem Same.startKeeps (h : Same State.scheduled s t) (hm : s.get 0x5300 0x0B ≠ 1 → t.mem = s.mem) : StartKeeps s t := by
  obtain ⟨hc, hr⟩ := Prod.mk.inj h.rest
  obtain ⟨hw, hj⟩ := Prod.mk.inj hr
  exact ⟨hc, hw, fun i _ => job_congr hj i, fun d k hk _ => h.obj d k hk, hm⟩

theorem noteSample_keeps (s : State) (n : Nat) (p : Purpose) (j : Nat) : StartKeeps s (s.noteSample n p j) :=
  (noteSample_same s n p j).startKeeps fun h => congrArg State.mem (noteSample_off h n p j)

/-- The parts of the state that an event of lateness leaves. -/
def State.unlate (s : State) : Tbl Core × List Swapped × Tbl Job × List Host.Cell := (s.cores, s.swapped, s.jobs, s.mem)

theorem unlate_dictless : Dictless State.unlate where
  put _ _ _ _ := rfl
  putB _ _ _ _ _ := rfl

/-- The state in which a late codeword of a DL_SYMBOL has been zeroed. -/
def State.zeroWord (y : Job) (s : State) (w : Codeword) : State :=
  ((s.setOrder y.order ((s.order y.order).putWord { w with zeroed := true, status := 1, cause := 4 })).bump (0x4120 + y.carrier) 5).lateEvent y.court

theorem zeroWord_unlate (y : Job) (s : State) (w : Codeword) : (s.zeroWord y w).unlate = s.unlate :=
  (Same.refl.lateEvent unlate_dictless :
    Same State.unlate ((s.setOrder y.order ((s.order y.order).putWord { w with zeroed := true, status := 1, cause := 4 })).bump (0x4120 + y.carrier) 5)
      (s.zeroWord y w)).rest

theorem zeroWord_obj (y : Job) (s : State) (w : Codeword) {d k : Nat} (hk : Tracked k) (h5 : k % 256 ≠ 5) :
    Tbl.get d (s.zeroWord y w).obj k = Tbl.get d s.obj k := by
  have h : Same State.unlate ((s.setOrder y.order ((s.order y.order).putWord { w with zeroed := true, status := 1, cause := 4 })).bump
    (0x4120 + y.carrier) 5) (s.zeroWord y w) := Same.refl.lateEvent unlate_dictless
  refine (h.obj d k hk).trans (Tbl.get_set_other _ _ _ _ _ _ ?_)
  unfold okey
  omega

theorem encodeLate_keeps (s : State) (j : Nat) : StartKeeps s (s.encodeLate j) := by
  have hrest : (s.encodeLate j).unlate = s.unlate := foldl_keeps (State.zeroWord (s.job j)) State.unlate (zeroWord_unlate (s.job j)) _ s
  simp only [State.unlate, Prod.mk.injEq] at hrest
  obtain ⟨hc, hw, hj, hm⟩ := hrest
  exact ⟨hc, hw, fun i _ => job_congr hj i,
    fun d k hk h5 => foldl_keeps (State.zeroWord (s.job j)) (fun u : State => Tbl.get d u.obj k) (fun u w => zeroWord_obj (s.job j) u w hk h5) _ s,
    fun _ => hm⟩

theorem startChecks_keeps (s : State) (j : Nat) : StartKeeps s (s.startChecks j) := by
  unfold State.startChecks
  extract_lets y f left s0
  have h0 : StartKeeps s s0 := noteSample_keeps ..
  split
  · rename_i hk
    split
    · obtain ⟨hc, hw, hj, hobj, hm⟩ := h0
      refine ⟨hc, hw, fun i hi => ?_, fun d k ht h5 => (Tbl.get_set_other _ _ _ _ _ _ ?_).trans (hobj d k ht h5), hm⟩
      · refine ((job_setJob ..).trans (if_neg ?_)).trans (hj i hi)
        rintro rfl
        exact absurd hk.2 (by rw [show y.kind = 0x20 from hi]; decide)
      · unfold okey
        omega
    · exact h0
  · split
    · exact encodeLate_keeps s j
    · exact ⟨rfl, rfl, fun _ _ => rfl, fun _ _ _ _ => rfl, fun _ => rfl⟩

/-! ## The start of a context (R273) -/

/-- The state in which context k of core n has its registers, before its job is said to run. -/
theorem startCtx_eq (s : State) (n k : Nat) : ∃ (c : Core) (f : Nat),
    s.startCtx n k = (({ s.setCore n (c.setCtx k { (s.core n).ctx k with state := .running }) with freeCtr := f } : State).jobState ((s.core n).ctx k).job
      .running).startChecks ((s.core n).ctx k).job
    ∧ c.ctxs = (s.core n).ctxs ∧ c.jobMode = true ∧ c.cur = k ∧ c.pc = BitVec.ofNat 48 ((s.core n).ctx k).entry ∧ c.lc = [] ∧ c.flags = 0#8
    ∧ c.sticky = 0#8 ∧ c.inflight = [] := by
  unfold State.startCtx
  extract_lets c x f c1 s1
  exact ⟨c1, f + 89, rfl, rfl, rfl, rfl, rfl, rfl, rfl, rfl, rfl⟩

theorem jobState_cases (s : State) (j : Nat) (st : JobState) : s.jobState j st = s ∨ s.jobState j st = s.setJob j { s.job j with state := st } := by
  unfold State.jobState
  extract_lets y
  split
  · exact .inr rfl
  · exact .inl rfl

/-- Whatever a job's state becomes, only the descriptors differ. -/
theorem jobState_jobs (s : State) (j : Nat) (st : JobState) : ∃ l, s.jobState j st = { s with jobs := l } := by
  rcases jobState_cases s j st with e | e
  · exact ⟨s.jobs, e⟩
  · exact ⟨_, e⟩

theorem jobState_job (s : State) (j : Nat) (st : JobState) (i : Nat) :
    (s.jobState j st).job i = s.job i ∨ (s.jobState j st).job i = { s.job i with state := st } := by
  rcases jobState_cases s j st with e | e
  · exact .inl (by rw [e])
  · rw [e, job_setJob]
    split
    · rename_i h
      exact .inr (by rw [h])
    · exact .inl rfl

/-- A fresh context of core n runs with cleared loops and flags; no other core differs. -/
theorem startCtx_core (s : State) (n k : Nat) : ∃ c : Core, (∀ m, (s.startCtx n k).core m = if m = n then c else s.core m)
    ∧ (∀ i, c.ctx i = if i = k then { (s.core n).ctx k with state := .running } else (s.core n).ctx i)
    ∧ c.jobMode = true ∧ c.cur = k ∧ c.pc = BitVec.ofNat 48 ((s.core n).ctx k).entry ∧ (∀ i, c.readLc i = 0#32) ∧ c.flags = 0#8 ∧ c.sticky = 0#8
    ∧ c.inflight = [] := by
  obtain ⟨c, f, e, hctxs, hmode, hcur, hpc, hlc, hflags, hsticky, hflight⟩ := startCtx_eq s n k
  obtain ⟨l, e1⟩ := jobState_jobs ({ s.setCore n (c.setCtx k { (s.core n).ctx k with state := .running }) with freeCtr := f } : State)
    ((s.core n).ctx k).job .running
  refine ⟨c.setCtx k { (s.core n).ctx k with state := .running }, fun m => ?_, fun i => ?_, hmode, hcur, hpc, fun i => ?_, hflags, hsticky, hflight⟩
  · have hcores := (startChecks_keeps (({ s.setCore n (c.setCtx k { (s.core n).ctx k with state := .running }) with freeCtr := f } : State).jobState
      ((s.core n).ctx k).job .running) ((s.core n).ctx k).job).cores
    rw [e, State.core, hcores, e1]
    exact core_setCore ..
  · rw [ctx_setCtx]
    split
    · rfl
    · exact congrArg (fun l => Tbl.get {} l i) hctxs
  · exact congrArg (fun l => Tbl.get 0#32 l i) hlc

/-- What the start of a context leaves: the swapped-out contexts, of customer jobs all but the state, and tracked objects. -/
structure Begins (s t : State) : Prop where
  swapped : t.swapped = s.swapped
  job : ∀ i, (s.job i).kind = 0x20 → t.job i = s.job i ∨ t.job i = { s.job i with state := .running }
  obj : ∀ d k, Tracked k → k % 256 ≠ 5 → Tbl.get d t.obj k = Tbl.get d s.obj k
  mem : s.get 0x5300 0x0B ≠ 1 → t.mem = s.mem

theorem Begins.refl : Begins s s := ⟨rfl, fun _ _ => .inl rfl, fun _ _ _ _ => rfl, fun _ => rfl⟩

theorem startCtx_begins (s : State) (n k : Nat) : Begins s (s.startCtx n k) := by
  obtain ⟨c, f, e, -⟩ := startCtx_eq s n k
  rw [e]
  have hj := jobState_job ({ s.setCore n (c.setCtx k { (s.core n).ctx k with state := .running }) with freeCtr := f } : State) ((s.core n).ctx k).job .running
  obtain ⟨l, e1⟩ := jobState_jobs ({ s.setCore n (c.setCtx k { (s.core n).ctx k with state := .running }) with freeCtr := f } : State)
    ((s.core n).ctx k).job .running
  generalize State.jobState _ ((s.core n).ctx k).job .running = v at *
  obtain ⟨-, hw, hjob, hobj, hm⟩ := startChecks_keeps v ((s.core n).ctx k).job
  have hobj1 : v.obj = s.obj := by rw [e1]; rfl
  refine ⟨hw.trans (by rw [e1]; rfl), fun i hi => ?_, fun d k hk h5 => (hobj d k hk h5).trans (by rw [hobj1]), fun h => ?_⟩
  · have hkind : (v.job i).kind = 0x20 := by
      rcases hj i with h | h
      · rw [h]; exact hi
      · rw [h]; exact hi
    rw [hjob i hkind]
    exact hj i
  · refine (hm ?_).trans (by rw [e1]; rfl)
    rwa [State.get, hobj1]

theorem startNext_cases (s : State) (n : Nat) : s.startNext n = s ∨ ∃ k, ((s.core n).ctx k).state = .ready ∧ s.startNext n = s.startCtx n k := by
  unfold State.startNext
  extract_lets c
  split
  · exact .inl rfl
  · split
    · split
      · rename_i k _ h
        exact .inr ⟨k, h, rfl⟩
      · exact .inl rfl
    · exact .inl rfl

theorem startNext_begins (s : State) (n : Nat) : Begins s (s.startNext n) := by
  rcases startNext_cases s n with e | ⟨k, -, e⟩
  · rw [e]
    exact .refl
  · rw [e]
    exact startCtx_begins s n k

/-! ## A slot that becomes free, and the end of a slice (R272 to R274) -/

theorem startNext_starts (hs : s.coresStopped = false) (hm : (s.core n).jobMode = false) (hf : (s.core n).fenced = false) (hk : s.nextCtx n = some k)
    (hr : ((s.core n).ctx k).state = .ready) : s.startNext n = s.startCtx n k := by
  unfold State.startNext
  extract_lets c
  rw [if_neg (by simp [c, hs, hm, hf]), hk]
  exact if_pos hr

theorem contextSlotFree_none {core : Fin 64} (h : s.readyJobs (s.coreCourt core) = []) :
    execContextSlotFree core s = .next (s.startNext core) := by
  unfold execContextSlotFree
  extract_lets q first yields
  have hfirst : first = none := by
    simp only [first, q, h]
    rfl
  have hplace : s.placeHead q = s := by
    unfold State.placeHead
    rw [h]
    rfl
  rw [if_neg (by simp [yields, hfirst]), hplace]

theorem contextSlotFree_spec (core : Fin 64) (s : State) (k : Nat) :
    let n := core.val
    s.readyJobs (s.coreCourt n) = [] → s.coresStopped = false → (s.core n).jobMode = false → (s.core n).fenced = false → s.nextCtx n = some k →
    ((s.core n).ctx k).state = .ready →
    ∃ t, exec (.contextSlotFree core) s = .next t ∧ (t.core n).jobMode = true ∧ (t.core n).cur = k ∧ (t.core n).curCtx.state = .running
      ∧ (t.core n).pc = BitVec.ofNat 48 ((s.core n).ctx k).entry ∧ (∀ i < 4, (t.core n).readLc i = 0#32) ∧ (t.core n).flags = 0#8 ∧ (t.core n).sticky = 0#8
      ∧ (t.core n).inflight = [] ∧ (∀ m, m ≠ n → t.core m = s.core m) ∧ (s.get 0x5300 0x0B ≠ 1 → memKept s t) := by
  intro n hq hs hm hf hk hr
  obtain ⟨c, hcore, hctx, hmode, hcur, hpc, hlc, hflags, hsticky, hflight⟩ := startCtx_core s n k
  have e : execContextSlotFree core s = .next (s.startCtx n k) := by
    rw [contextSlotFree_none hq, startNext_starts hs hm hf hk hr]
  refine ⟨_, e, ?_⟩
  rw [(hcore n).trans (if_pos rfl)]
  refine ⟨hmode, hcur, ?_, hpc, fun i _ => hlc i, hflags, hsticky, hflight, fun m h => (hcore m).trans (if_neg h), fun h a => ?_⟩
  · rw [Core.curCtx, hcur, hctx, if_pos rfl]
  · rw [(startCtx_begins s n k).mem h]

theorem sliceEnd_spec (core : Fin 64) (s : State) (k : Nat) :
    let c := s.core core
    let y := s.job c.curCtx.job
    c.jobMode = true → k < 4 → k ≠ c.cur → s.runnable core k = true → (s.job (c.ctx k).job).prio = y.prio → spansUs (s.get (0x3000 + y.court) 3) c.sliceStart s.clock = true →
    c.stop = none → ∃ t, exec (.sliceEnd core) s = .next t ∧ (t.core core).stop = some { tile := true } ∧ onlyCore s t ∧ frame core [] s t := by
  intro c y hm h4 hk hr hp hspan hstop
  have hother : ((List.range 4).any fun k => k != c.cur && s.runnable core k && (s.job (c.ctx k).job).prio == y.prio) = true :=
    List.any_eq_true.2 ⟨k, List.mem_range.2 h4, by simp [hk, hr, hp]⟩
  have e : execSliceEnd core s = .next (s.setCore core { c with stop := some { tile := true } }) := by
    refine congrArg Host.Outcome.next ((if_pos ⟨hm, hother, hspan⟩).trans ?_)
    unfold State.requestStop State.updCore
    simp only [show (s.core core).stop = none from hstop]
    rfl
  have hcore : (s.setCore core { c with stop := some { tile := true } }).core core = { c with stop := some { tile := true } } :=
    (core_setCore ..).trans (if_pos rfl)
  refine ⟨_, e, by rw [hcore], ⟨_, _, rfl⟩, ?_⟩
  rw [frame, hcore]
  exact ⟨fun _ _ _ => rfl, fun _ _ _ => rfl, fun _ _ _ => rfl, fun _ _ _ => rfl, fun _ _ _ => rfl, fun _ _ _ => rfl, fun _ _ _ => rfl, fun _ => rfl,
    fun _ => rfl, fun _ => rfl, fun _ => rfl, fun _ _ => rfl, fun _ => ⟨rfl, fun _ => rfl⟩, fun m hm => (core_setCore ..).trans (if_neg hm)⟩

/-! ## The completion of a job (R31, R201, R279) -/

/-- Whether a job that completes now is late. -/
def State.lateNow (s : State) (j : Nat) : Bool :=
  match (s.job j).deadline with
  | some p => decide (airDiff (s.sample (s.job j).tb .completion j) (s.tcOf (s.job j).tb p) < 0)
  | none => false

/-- The state in which a job's completion has been noted. -/
def State.judged (s : State) (j : Nat) : State :=
  (s.setJob j { s.job j with done := true, doneAt := s.sample (s.job j).tb .completion j % airPeriod, lateCounted := s.lateNow j || (s.job j).lateCounted }).noteSample
    (s.job j).tb .completion j

theorem judged_job (s : State) (j : Nat) : (s.judged j).job j
    = { s.job j with done := true, doneAt := s.sample (s.job j).tb .completion j % airPeriod, lateCounted := s.lateNow j || (s.job j).lateCounted } := by
  have h := (noteSample_same (s.setJob j { s.job j with
    done := true, doneAt := s.sample (s.job j).tb .completion j % airPeriod, lateCounted := s.lateNow j || (s.job j).lateCounted }) (s.job j).tb .completion j).rest
  exact (job_congr (congrArg (fun p : Tbl Core × List Swapped × Tbl Job => p.2.2) h) j).trans ((job_setJob ..).trans (if_pos rfl))

theorem tracked_court {c u : Nat} (hc : c < 16) (hu : u < 256) : Tracked (okey (0x3020 + c) u) := by
  have h : okey (0x3020 + c) u / 256 % 65536 = 0x3020 + c := by
    unfold okey
    omega
  rw [Tracked, h, okey_mod hu]
  simp [bookEntry]
  omega

theorem judged_get (s : State) (j : Nat) {c u : Nat} (hc : c < 16) (hu : u < 256) : (s.judged j).get (0x3020 + c) u = s.get (0x3020 + c) u :=
  (noteSample_same (s.setJob j _) (s.job j).tb .completion j).get (tracked_court hc hu)

/-- Of a job that is neither an uplink stage nor done, the completion is noted, and a late one counts once in its Court. -/
theorem judge_eq (hd : (s.job j).done = false) (hk : (s.job j).kind = 0x20) : s.judge j
    = if s.lateNow j = true ∧ (s.job j).lateCounted = false then ((s.judged j).bump (0x3020 + (s.job j).court) 5).lateEvent (s.job j).court else s.judged j := by
  unfold State.judge
  extract_lets y late s1 s2 s3
  have hy : y.kind = 0x20 := hk
  have h2 : s2 = s.judged j := if_neg (by omega)
  have h3 : s3 = s.judged j := (if_neg (by omega)).trans h2
  rw [if_neg (by simp [y, hd]), h3]
  rfl

theorem judge_spec (hd : (s.job j).done = false) (hk : (s.job j).kind = 0x20) (hc : (s.job j).court < 16) :
    (s.judge j).job j
        = { s.job j with done := true, doneAt := s.sample (s.job j).tb .completion j % airPeriod, lateCounted := s.lateNow j || (s.job j).lateCounted }
      ∧ (s.judge j).get (0x3020 + (s.job j).court) 5
        = if s.lateNow j = true ∧ (s.job j).lateCounted = false then (s.get (0x3020 + (s.job j).court) 5 + 1) % 2 ^ 32 else s.get (0x3020 + (s.job j).court) 5 := by
  rw [judge_eq hd hk]
  split
  · have h := Same.refl.lateEvent (s := (s.judged j).bump (0x3020 + (s.job j).court) 5) scheduled_recordless.toDictless (court := (s.job j).court)
    refine ⟨(job_congr (congrArg (fun p : Tbl Core × List Swapped × Tbl Job => p.2.2) h.rest) j).trans (judged_job s j), ?_⟩
    rw [h.get (tracked_court hc (by decide)), get_bump, judged_get s j hc (by decide)]
  · exact ⟨judged_job s j, judged_get s j hc (by decide)⟩

theorem jobCompletion_judges {id : BitVec 32} {l : List UserReport} (hl : (s.job id.toNat).live = true) (hst : (s.job id.toNat).state = .running)
    (hk : (s.job id.toNat).kind = 0x20) (hd : (s.job id.toNat).done = false) (hc : (s.job id.toNat).court < 16) :
    execJobCompletion id l s = .next (s.judge id.toNat) := by
  unfold execJobCompletion
  extract_lets j y o s1
  have hy : y.kind = 0x20 := hk
  have hcoding : isCoding y = false := by simp [isCoding, hy]
  have hleft : s.transformsLeft j = false := by simp [State.transformsLeft, show (s.job j).kind = 0x20 from hk]
  have hunit : s.awaitsUnit y = false := by simp [State.awaitsUnit, hy]
  have h1 : s1 = s.judge j := by
    have htake : s.takeUnit y = s := if_neg (by omega)
    have hkind : ((s.judge j).job j).kind = 0x20 := by
      rw [(judge_spec hd hk hc).1]
      exact hk
    simp only [s1, htake]
    unfold State.countReceiver
    extract_lets z o
    have hz : z.kind = 0x20 := hkind
    exact if_neg (by omega)
  rw [if_neg (by simp [hl, hd, hst, hcoding, hy, y, j]), if_neg (by omega), if_neg (by simp [hleft, hunit]), if_neg (show ¬ (y.kind = 2 ∨ y.kind = 4) by omega),
    if_neg (show ¬ y.kind = 0x12 by omega), ite_self, h1]

theorem jobCompletion_spec (id : BitVec 32) (l : List UserReport) (s : State) :
    let j := id.toNat
    let y := s.job j
    let late := match y.deadline with
      | some p => decide (airDiff (s.sample y.tb .completion j) (s.tcOf y.tb p) < 0)
      | none => false
    y.live = true → y.state = .running → y.kind = 0x20 → y.done = false → y.court < 16 →
    ∃ t, exec (.jobCompletion id l) s = .next t ∧ (t.job j).done = true ∧ (t.job j).doneAt = s.sample y.tb .completion j % airPeriod ∧ (t.job j).state = .running ∧ (t.job j).lateCounted = (late || y.lateCounted)
      ∧ t.get (0x3020 + y.court) 5 = (if late ∧ y.lateCounted = false then (s.get (0x3020 + y.court) 5 + 1) % 2 ^ 32 else s.get (0x3020 + y.court) 5)
      ∧ t.cores = s.cores := by
  intro j y late hl hst hk hd hc
  obtain ⟨hjob, hget⟩ := judge_spec hd hk hc
  refine ⟨_, jobCompletion_judges hl hst hk hd hc, ?_⟩
  rw [hjob]
  exact ⟨rfl, rfl, hst, rfl, hget, judge_cores s j⟩

/-! ## Swapping (R276 to R278) -/

/-- Bytes written read back. -/
theorem memBytes_memPutBytes (l : List Byte) (m : List Host.Cell) (a : Nat) : memBytes (memPutBytes m a l) l.length a = l := by
  induction l generalizing m a with
  | nil => rfl
  | cons b r ih =>
    rw [List.length_cons, memPutBytes, memBytes, ih, memByte_memPutBytes r _ _ _ (.inl (Nat.lt_succ_self a)), memByte_memPut, if_pos rfl]

/-- Bytes copied read as at their source. -/
theorem memBytes_copy (m : List Host.Cell) (n a b : Nat) : memBytes (memPutBytes m a (memBytes m n b)) n a = memBytes m n b := by
  have h := memBytes_memPutBytes (memBytes m n b) m a
  rwa [length_memBytes] at h

/-- A core whose slot k has become free. -/
def Core.vacant (c : Core) (k clock : Nat) : Core :=
  { c.setCtx k {} with idleSince := clock, chainPort := if (c.ctx k).chain.getLsbD 15 then some (c.ctx k).chain else c.chainPort }

theorem vacant_ctx (c : Core) (k clock i : Nat) : (c.vacant k clock).ctx i = if i = k then {} else c.ctx i := ctx_setCtx c k i {}

theorem freeCtx_cores (s : State) (n k : Nat) : (s.freeCtx n k).cores = (s.setCore n ((s.core n).vacant k s.clock)).cores := rfl

theorem freeCtx_ctx (s : State) (n k i : Nat) : ((s.freeCtx n k).core n).ctx i = if i = k then {} else (s.core n).ctx i := by
  have h : (s.freeCtx n k).core n = (s.core n).vacant k s.clock := by
    rw [State.core, freeCtx_cores]
    exact (core_setCore ..).trans (if_pos rfl)
  rw [h, vacant_ctx]

/-- The state in which context k of core n stands in Bench page p, with its records l, and its slot is free. -/
def State.vacated (s : State) (n k p : Nat) (l : List Byte) : State :=
  let s1 := (s.ownPages [p] 0x20000).storeBytes (0xA000000 + p * 65536) l
  { s1.freeCtx n k with swapped := s1.swapped ++ [⟨n, p, (s.core n).ctx k⟩], tallies := Tbl.mapV {} s1.tallies fun t => t.leave n k }

theorem vacated_ctx (s : State) (n k p i : Nat) (l : List Byte) : ((s.vacated n k p l).core n).ctx i = if i = k then {} else (s.core n).ctx i :=
  freeCtx_ctx ((s.ownPages [p] 0x20000).storeBytes (0xA000000 + p * 65536) l) n k i

theorem vacated_page (s : State) (n k p : Nat) (l : List Byte) : Tbl.get 0 (s.vacated n k p l).benchPages p = 0x20000 :=
  (Tbl.get_set 0 s.benchPages p 0x20000 p).trans (if_pos rfl)

/-- The state that SWAP_OUT leaves: the context's job is in the state SWAPPED. -/
def State.swappedOut (s : State) (n k p : Nat) (l : List Byte) : State :=
  let x := (s.core n).ctx k
  ((s.vacated n k p l).setJob x.job { (s.vacated n k p l).job x.job with state := .swapped }).bump (0x3020 + x.court) 6

section
variable (s : State) (n k p i : Nat) (l : List Byte)

theorem swappedOut_ctx : ((s.swappedOut n k p l).core n).ctx i = if i = k then {} else (s.core n).ctx i := vacated_ctx s n k p i l

theorem swappedOut_swapped : (s.swappedOut n k p l).swapped = s.swapped ++ [⟨n, p, (s.core n).ctx k⟩] := rfl

theorem swappedOut_mem : (s.swappedOut n k p l).mem = memPutBytes s.mem (0xA000000 + p * 65536) l := rfl

theorem swappedOut_page : Tbl.get 0 (s.swappedOut n k p l).benchPages p = 0x20000 := vacated_page s n k p l

theorem swappedOut_job : ((s.swappedOut n k p l).job ((s.core n).ctx k).job).state = .swapped :=
  congrArg Job.state ((job_setJob (s.vacated n k p l) ..).trans (if_pos rfl))

end

theorem swapOut_eq {core : Fin 64} {p : Nat} (hv : s.swapVictim core = some k) (hp : s.benchFree.head? = some p)
    (hall : ∀ i < 4, ((s.core core).ctx i).state = .blocked) (hw : s.wakers core ≠ [])
    (hl : s.swapUsed ((s.core core).ctx k).court < s.get (0x3000 + ((s.core core).ctx k).court) 6) :
    execSwapOut core s = .next (s.swappedOut core k p (memBytes s.mem 0x8000 (saveArea core k))) := by
  unfold execSwapOut
  extract_lets n c all
  have h : all = true := List.all_eq_true.2 fun i hi => beq_iff_eq.2 (hall i (List.mem_range.1 hi))
  simp only [n, hv, hp]
  generalize memBytes s.mem 0x8000 (saveArea core k) = l
  rw [if_neg (not_or.2 ⟨by simp [h], not_or.2 ⟨hw, Nat.not_le.2 hl⟩⟩)]
  rfl

theorem swapOut_spec (core : Fin 64) (s : State) (k p : Nat) :
    let n := core.val
    let x := (s.core n).ctx k
    s.swapVictim n = some k → s.benchFree.head? = some p → (∀ i < 4, ((s.core n).ctx i).state = .blocked) → s.wakers n ≠ [] → s.swapUsed x.court < s.get (0x3000 + x.court) 6 →
    ∃ t, exec (.swapOut core) s = .next t ∧ (t.core n).ctx k = {} ∧ t.swapped = s.swapped ++ [⟨n, p, x⟩] ∧ (t.job x.job).state = .swapped
      ∧ memBytes t.mem 0x8000 (0xA000000 + p * 65536) = memBytes s.mem 0x8000 (saveArea n k) ∧ Tbl.get 0 t.benchPages p = 0x20000
      ∧ (∀ i, i ≠ k → (t.core n).ctx i = (s.core n).ctx i) := by
  intro n x hv hp hall hw hl
  refine ⟨_, swapOut_eq hv hp hall hw hl, ?_⟩
  rw [swappedOut_ctx, swappedOut_swapped, swappedOut_mem, memBytes_copy]
  exact ⟨if_pos rfl, rfl, swappedOut_job .., rfl, swappedOut_page .., fun i hi => (swappedOut_ctx ..).trans (if_neg hi)⟩

/-- The state in which a swapped-out context has come back to slot k of core n with its records l, with the bank of a core. -/
def State.returned (s : State) (n k : Nat) (w : Swapped) (b : Nat × Core) (l : List Byte) : State :=
  let u := (s.storeBytes (saveArea n k) l).ownPages [w.page] 0
  { u.setCore n (b.2.setCtx k { w.ctx with sfBank := BitVec.ofNat 32 b.1 }) with swapped := s.swapped.filter fun v => !(v == w) }

/-- The state in which its job is resident there. -/
def State.returnedJob (s : State) (n k j : Nat) (w : Swapped) (b : Nat × Core) (l : List Byte) : State :=
  (s.returned n k w b l).setJob j { (s.returned n k w b l).job j with state := .resident, slot := k }

theorem returnedJob_ctx (s : State) (n k j : Nat) (w : Swapped) (b : Nat × Core) (l : List Byte) :
    ((s.returnedJob n k j w b l).core n).ctx k = { w.ctx with sfBank := BitVec.ofNat 32 b.1 } := by
  have h : (s.returnedJob n k j w b l).core n = b.2.setCtx k { w.ctx with sfBank := BitVec.ofNat 32 b.1 } := (core_setCore ..).trans (if_pos rfl)
  rw [h, ctx_setCtx, if_pos rfl]

theorem returnedJob_mem (s : State) (n k j : Nat) (w : Swapped) (b : Nat × Core) (l : List Byte) :
    (s.returnedJob n k j w b l).mem = memPutBytes s.mem (saveArea n k) l := rfl

theorem returnedJob_swapped (s : State) (n k j : Nat) (w : Swapped) (b : Nat × Core) (l : List Byte) :
    (s.returnedJob n k j w b l).swapped = s.swapped.filter fun v => !(v == w) := rfl

theorem returnedJob_obj (s : State) (n k j : Nat) (w : Swapped) (b : Nat × Core) (l : List Byte) : (s.returnedJob n k j w b l).obj = s.obj := rfl

theorem core_storeBytes (s : State) (a : Nat) (l : List Byte) (n : Nat) : (s.storeBytes a l).core n = s.core n := by
  rw [State.core, State.core, storeBytes_cores]

theorem swapIn_eq {core : Fin 64} {w : Swapped} {b : Nat × Core} (hj : firstBy s.jobBefore ((s.returning core).map fun w => w.ctx.job) = some j)
    (hk : (s.core core).freeSlot = some k) (hw : (s.returning core).find? (fun w => w.ctx.job == j) = some w)
    (hb : (s.core core).takeBank w.ctx.epoch = some b)
    (hq : ∀ i ∈ s.readyJobs (s.coreCourt core), s.usable core (s.job i) = true → s.jobBefore i j = false) :
    execSwapIn core s = .next ((s.returnedJob core k j w b (memBytes s.mem 0x8000 (0xA000000 + w.page * 65536))).startNext core) := by
  unfold execSwapIn
  extract_lets n ready
  have hbefore : ¬ ((s.readyJobs (s.coreCourt core)).any fun i =>
      s.usable core (s.job i) && (s.job i).kind != 0x30 && (s.job i).kind != 0x31 && s.jobBefore i j) = true := by
    rw [List.any_eq_true]
    rintro ⟨i, hi, h⟩
    simp only [Bool.and_eq_true] at h
    obtain ⟨⟨⟨hu, -⟩, -⟩, hlt⟩ := h
    exact Bool.noConfusion ((hq i hi hu).symm.trans hlt)
  rw [hj, hk]
  dsimp -zeta only
  extract_lets before
  rw [if_neg hbefore, hw]
  dsimp -zeta only
  generalize memBytes s.mem 0x8000 (0xA000000 + w.page * 65536) = l
  extract_lets s1 t _ s0 s2
  have ht : t = b := by
    have h : (s1.core n).takeBank w.ctx.epoch = some b := (congrArg (fun c : Core => c.takeBank w.ctx.epoch) (core_storeBytes ..)).trans hb
    rw [show t = ((s1.core n).takeBank w.ctx.epoch).getD (0, s1.core n) from rfl, h]
    rfl
  have hs2 : s2 = s.returned core k w b l := by
    clear_value t
    subst ht
    rfl
  rw [hs2]
  rfl

/-- The context that comes back is blocked, so what starts is another one. -/
theorem startNext_ctx (h : ((s.core n).ctx k).state ≠ .ready) : ((s.startNext n).core n).ctx k = (s.core n).ctx k := by
  rcases startNext_cases s n with e | ⟨i, hi, e⟩
  · rw [e]
  · obtain ⟨c, hcore, hctx, -⟩ := startCtx_core s n i
    rw [e, (hcore n).trans (if_pos rfl), hctx, if_neg]
    rintro rfl
    exact h hi

theorem swapIn_spec (core : Fin 64) (s : State) (k j : Nat) (w : Swapped) (b : Nat × Core) :
    let n := core.val
    firstBy s.jobBefore ((s.returning n).map fun w => w.ctx.job) = some j → (s.core n).freeSlot = some k →
    (s.returning n).find? (fun w => w.ctx.job == j) = some w → w.ctx.state = .blocked → (s.core n).takeBank w.ctx.epoch = some b →
    (∀ i ∈ s.readyJobs (s.coreCourt n), s.usable n (s.job i) = true → s.jobBefore i j = false) → s.get 0x5300 0x0B ≠ 1 →
    ∃ t, exec (.swapIn core) s = .next t ∧ (t.core n).ctx k = { w.ctx with sfBank := BitVec.ofNat 32 b.1 } ∧ w ∉ t.swapped
      ∧ memBytes t.mem 0x8000 (saveArea n k) = memBytes s.mem 0x8000 (0xA000000 + w.page * 65536)
      ∧ (∀ a, a < saveArea n k ∨ saveArea n k + 0x8000 ≤ a → memByte t.mem a = memByte s.mem a) := by
  intro n hj hk hw hst hb hq hrec
  refine ⟨_, swapIn_eq hj hk hw hb hq, ?_⟩
  generalize hl : memBytes s.mem 0x8000 (0xA000000 + w.page * 65536) = l
  have hctx := returnedJob_ctx s n k j w b l
  obtain ⟨hswapped, -, -, hmem⟩ := startNext_begins (s.returnedJob n k j w b l) n
  have hmem : ((s.returnedJob n k j w b l).startNext n).mem = memPutBytes s.mem (saveArea n k) l :=
    (hmem (by rwa [State.get, returnedJob_obj])).trans (returnedJob_mem ..)
  rw [startNext_ctx (by rw [hctx]; exact fun h => CtxState.noConfusion (hst.symm.trans h)), hctx, hswapped, returnedJob_swapped, hmem, ← hl, memBytes_copy]
  exact ⟨rfl, by simp, rfl, fun a ha => memByte_memPutBytes _ _ _ _ (by rwa [length_memBytes])⟩

/-! ## Placement (R270, R271) -/

theorem placement_some {y : Job} (h : s.placement y = some n) : s.usable n y = true ∧ (s.core n).freeSlot.isSome = true := by
  unfold State.placement at h
  extract_lets us at h
  have hus : ∀ {p : Nat → Bool}, us.find? p = some n → s.usable n y = true ∧ p n = true := fun hp =>
    ⟨(List.mem_filter.1 (List.mem_of_find?_eq_some hp)).2, List.find?_some hp⟩
  split at h
  · rename_i m hm
    obtain rfl := Option.some.inj h
    obtain ⟨hu, hr⟩ := hus hm
    refine ⟨hu, List.find?_isSome.2 ⟨0, by decide, ?_⟩⟩
    by_contra hne
    have h0 : 0 ∈ (s.core m).residents := List.mem_filter.2 ⟨by decide, by simpa using hne⟩
    rw [beq_iff_eq.1 hr] at h0
    exact List.not_mem_nil h0
  · split at h
    · exact absurd h (by simp)
    · split at h
      · rename_i m hm
        obtain rfl := Option.some.inj h
        obtain ⟨hu, hr⟩ := hus hm
        exact ⟨hu, (Bool.and_eq_true_iff.1 hr).1⟩
      · exact hus h

/-- A core that takes a bank for an epoch has its slots and its groups as before. -/
theorem takeBank_keeps {c : Core} {e : Nat} {b : Nat × Core} (h : c.takeBank e = some b) :
    b.2.freeSlot = c.freeSlot ∧ ∀ q, groupsFor b.2 q = groupsFor c q := by
  unfold Core.takeBank at h
  split at h
  · exact absurd h (by simp)
  · split at h
    · obtain rfl := Option.some.inj h
      exact ⟨rfl, fun _ => rfl⟩
    · obtain ⟨i, -, rfl⟩ := Option.map_eq_some_iff.1 h
      exact ⟨rfl, fun _ => rfl⟩

/-- On a usable core with a free slot a job becomes resident; then the runtime may start a context or pre-empt the running one. -/
theorem placeOn_places (hu : s.usable n (s.job j) = true) (hf : (s.core n).freeSlot.isSome = true) : ∃ (c : Core) (k : Nat),
    s.placeOn j n = ((((s.setCore n c).setJob j { s.job j with state := .resident, core := n, slot := k }).linkChain j).startNext n).preempt n := by
  simp only [State.usable, Bool.and_eq_true] at hu
  obtain ⟨⟨⟨-, hbank⟩, hgroups⟩, hwindow⟩ := hu
  obtain ⟨b, hb⟩ := Option.isSome_iff_exists.1 hbank
  obtain ⟨hslot, hgroup⟩ := takeBank_keeps hb
  obtain ⟨k, hk⟩ := Option.isSome_iff_exists.1 hf
  obtain ⟨m, hm⟩ := Option.isSome_iff_exists.1 hgroups
  obtain ⟨w, hw⟩ := Option.isSome_iff_exists.1 hwindow
  unfold State.placeOn
  extract_lets y t c
  have ht : t = b := by
    rw [show t = ((s.core n).takeBank y.epoch).getD (0, s.core n) from rfl, hb]
    rfl
  have hck : c.freeSlot = some k := by rw [show c = t.2 from rfl, ht, hslot, hk]
  have hcm : groupsFor c y.groups = some m := by rw [show c = t.2 from rfl, ht, hgroup, hm]
  rw [hck, hcm, hw]
  exact ⟨_, k, rfl⟩

/-! ## What a placement leaves as it was -/

theorem jobs_logless : Logless State.jobs where
  put _ _ _ _ := rfl
  putB _ _ _ _ _ := rfl
  putBlob _ _ _ _ := rfl
  store _ _ _ _ := rfl
  storeBytes _ _ _ := rfl
  setCore _ _ _ := rfl
  replay _ _ := rfl
  firm _ _ := rfl

theorem linkChain_same (s : State) (j : Nat) : Same State.jobs s (s.linkChain j) := by
  unfold State.linkChain
  split
  · exact .refl
  extract_lets l own no
  clear_value l own no
  cases no with
  | none => exact .refl
  | some h => exact (Same.ite .refl (Same.refl.mapCores jobs_logless)).foldl fun _ h => h.updCore jobs_logless

theorem preempt_same (s : State) (n : Nat) : Same State.jobs s (s.preempt n) := by
  unfold State.preempt
  extract_lets c
  split
  · exact .ite ((Same.refl.updCore jobs_logless).replayLog jobs_logless.toRecordless) .refl
  · exact .refl

/-- A customer job that becomes resident is resident or runs, in its epoch, and the objects that count releases stand. -/
theorem resident_follows (hk : (s.job j).kind = 0x20) :
    let t := ((s.linkChain j).startNext n).preempt n
    ((t.job j).state = (s.job j).state ∨ (t.job j).state = .running) ∧ (t.job j).epoch = (s.job j).epoch
      ∧ ∀ d k, Tracked k → k % 256 ≠ 5 → Tbl.get d t.obj k = Tbl.get d s.obj k := by
  intro t
  have hl := linkChain_same s j
  have hn := startNext_begins (s.linkChain j) n
  have hp := preempt_same ((s.linkChain j).startNext n) n
  have hlj : (s.linkChain j).job j = s.job j := job_congr hl.rest j
  have hpj : t.job j = ((s.linkChain j).startNext n).job j := job_congr hp.rest j
  have hobj : ∀ d k, Tracked k → k % 256 ≠ 5 → Tbl.get d t.obj k = Tbl.get d s.obj k := fun d k hk h5 =>
    (hp.obj d k hk).trans ((hn.obj d k hk h5).trans (hl.obj d k hk))
  rcases hn.job j (by rw [hlj, hk]) with h | h
  · rw [hpj, h, hlj]
    exact ⟨.inl rfl, rfl, hobj⟩
  · rw [hpj, h, hlj]
    exact ⟨.inr rfl, rfl, hobj⟩

/-- A customer job that is placed or queued. -/
theorem tryPlace_places (hk : (s.job j).kind = 0x20) :
    let t := s.tryPlace j
    ((t.job j).state = .ready ∨ (t.job j).state = .resident ∨ (t.job j).state = .running) ∧ (t.job j).epoch = (s.job j).epoch
      ∧ ∀ d k, Tracked k → k % 256 ≠ 5 → Tbl.get d t.obj k = Tbl.get d s.obj k := by
  intro t
  cases hp : s.placement (s.job j) with
  | none =>
    have ht : t = s.setJob j { s.job j with state := .ready } := by
      simp only [t, State.tryPlace, hp]
    have hj : t.job j = { s.job j with state := .ready } := by rw [ht, job_setJob, if_pos rfl]
    rw [hj]
    exact ⟨.inl rfl, rfl, fun d k _ _ => by rw [ht]; rfl⟩
  | some n =>
    obtain ⟨hu, hf⟩ := placement_some hp
    obtain ⟨c, k, e⟩ := placeOn_places hu hf
    have ht : t = s.placeOn j n := by simp only [t, State.tryPlace, hp]
    have hj : ((s.setCore n c).setJob j { s.job j with state := .resident, core := n, slot := k }).job j
        = { s.job j with state := .resident, core := n, slot := k } := (job_setJob ..).trans (if_pos rfl)
    obtain ⟨hst, hep, hobj⟩ := resident_follows (n := n) (s := (s.setCore n c).setJob j { s.job j with state := .resident, core := n, slot := k })
      (j := j) (by rw [hj]; exact hk)
    rw [hj] at hst hep
    rw [ht, e]
    exact ⟨.inr hst, hep, hobj⟩

/-! ## The release of a job (R31, R271) -/

theorem countRelease_job (s : State) (j : Nat) :
    ∃ r a, (s.countRelease j).job j = { s.job j with release := r, epoch := s.epochOf (s.job j).court, releasedAt := a } := by
  unfold State.countRelease
  extract_lets t _ y e key y' s1 o
  have h1 : s1.job j = y' := (job_setJob s j j y').trans (if_pos rfl)
  refine ⟨s.airOf (s.job j).tb t, t, ?_⟩
  split
  · exact h1
  · exact h1

theorem countRelease_get (s : State) (j : Nat) :
    (s.countRelease j).get (0x3020 + (s.job j).court) 1 = (s.get (0x3020 + (s.job j).court) 1 + 1) % 2 ^ 32 := by
  unfold State.countRelease
  extract_lets t _ y e key y' s1 o
  have h1 : s1.get (0x3020 + (s.job j).court) 1 = (s.get (0x3020 + (s.job j).court) 1 + 1) % 2 ^ 32 := get_bump (s.setJob j y') _ _
  split
  · exact h1
  · exact h1

/-- A customer job is counted and placed. -/
theorem releaseJob_customer (hk : (s.job j).kind = 0x20) (ho : (s.job j).order = 0) :
    s.releaseJob j = (s.countRelease j).tryPlace j := by
  unfold State.releaseJob
  extract_lets y lost s1 _ s2 z s3
  obtain ⟨r, a, e⟩ := countRelease_job s j
  have hy : y.kind = 0x20 := hk
  have hcoding : isCoding y = false := by simp [isCoding, hy]
  have h2 : s2 = s.countRelease j := if_neg (by omega)
  have hz : z.order = 0 := by
    rw [show z = s2.job j from rfl, h2, e]
    exact ho
  have h3 : s3 = s.countRelease j := (if_neg (not_not.2 hz)).trans h2
  rw [if_neg (by omega), if_neg (by omega), if_neg (by simp [hcoding]), if_neg (by omega), h3]

theorem jobRelease_customer {id : BitVec 32} (hl : (s.job id.toNat).live = true) (hw : (s.job id.toNat).state = .waiting)
    (hk : (s.job id.toNat).kind = 0x20) (hd : (s.job id.toNat).deps = []) (hc : s.cut = false)
    (hr : s.reached (s.job id.toNat).tb (s.tcOf (s.job id.toNat).tb (s.job id.toNat).release) = true) :
    execJobRelease id none s = .next (s.releaseJob id.toNat) := by
  have h : s.releasable id.toNat = true := by
    simp [State.releasable, State.depsDone, hl, hw, hk, hd, hr]
  exact congrArg Host.Outcome.next (if_pos ⟨h, hc⟩)

theorem jobRelease_spec (id : BitVec 32) (s : State) :
    let j := id.toNat
    let y := s.job j
    y.live = true → y.state = .waiting → y.kind = 0x20 → y.order = 0 → y.deps = [] → y.court < 16 → s.cut = false →
    s.reached y.tb (s.tcOf y.tb y.release) = true →
    ∃ t, exec (.jobRelease id none) s = .next t ∧ ((t.job j).state = .ready ∨ (t.job j).state = .resident ∨ (t.job j).state = .running)
      ∧ (t.job j).epoch = s.epochOf y.court ∧ t.get (0x3020 + y.court) 1 = (s.get (0x3020 + y.court) 1 + 1) % 2 ^ 32 := by
  intro j y hl hw hk ho hd h16 hc hr
  obtain ⟨r, a, e⟩ := countRelease_job s j
  obtain ⟨hst, hep, hobj⟩ := tryPlace_places (s := s.countRelease j) (j := j) (by rw [e]; exact hk)
  refine ⟨_, (jobRelease_customer hl hw hk hd hc hr).trans (congrArg Host.Outcome.next (releaseJob_customer hk ho)), hst, ?_, ?_⟩
  · rw [hep, e]
  · exact (hobj _ _ (tracked_court h16 (by decide)) (by rw [okey_mod (by decide)]; decide)).trans (countRelease_get s j)

/-! ## The grant of a Tally (R289, R290) -/

theorem readG_writeG (c : Core) (d i : Nat) (v : Word32) : (c.writeG d v).readG i = if i = d ∧ d ≠ 0 then v else c.readG i := by
  unfold Core.writeG Core.readG
  by_cases hd : d = 0
  · simp [hd]
  · by_cases hi : i = 0
    · simp [hi, hd, Ne.symm hd]
    · simp [hd, hi]

theorem writeG_only (c : Core) (d : Nat) (v : Word32) : ∃ g, c.writeG d v = { c with g := g } := by
  unfold Core.writeG
  split
  · exact ⟨c.g, rfl⟩
  · exact ⟨_, rfl⟩

theorem sticky_or_zero (c : Core) : { c with sticky := c.sticky ||| 0#8 } = c := by
  simp

/-- The results of a TACQ: gD, and the rise of EXCL. -/
def tacqResults (d v : Nat) : List Land :=
  [⟨d, 1, BitVec.ofNat 1024 v, BitVec.allOnes 128, 0#8, kindPlain⟩, ⟨destExclUp, 1, BitVec.ofNat 1024 0, BitVec.allOnes 128, 0#8, kindPlain⟩]

theorem tacqResults_noClash {d v : Nat} : anyClash (tacqResults d v) = false := by
  simp [tacqResults, anyClash, sameDest, destExclUp]
  omega

theorem landAll_tacqResults (c : Core) {d : Nat} (v : Nat) (hd : d < 32) :
    c.landAll (tacqResults d v) = (c.writeG d ((BitVec.ofNat 1024 v).truncate 32)).updCur fun x => { x with excl := x.excl + 1 } := by
  have h1 : c.land ⟨d, 1, BitVec.ofNat 1024 v, BitVec.allOnes 128, 0#8, kindPlain⟩ = c.writeG d ((BitVec.ofNat 1024 v).truncate 32) := by
    unfold Core.land
    rw [sticky_or_zero]
    exact if_pos hd
  have h2 : ∀ c : Core, c.land ⟨destExclUp, 1, BitVec.ofNat 1024 0, BitVec.allOnes 128, 0#8, kindPlain⟩ = c.updCur fun x => { x with excl := x.excl + 1 } := fun c => by
    unfold Core.land
    rw [sticky_or_zero]
    rfl
  rw [tacqResults, Core.landAll, Core.landAll, Core.landAll, h1, h2]

/-- A core with a cycle more, but for its running context. -/
def Core.counted (c : Core) : Core :=
  { c with cycleNo := c.cycleNo + 1, inflight := c.later, stop := c.stop.map fun q => { q with cycles := q.cycles + 1 } }

/-- A cycle of a core in job mode counts in its running context. -/
theorem cycled_running {c : Core} (hm : c.jobMode = true) : c.cycled = c.counted.updCur fun x => { x with cycle := x.cycle + 1 } := if_pos hm

theorem ctx_updCur (c : Core) (f : Ctx → Ctx) (k : Nat) : (c.updCur f).ctx k = if k = c.cur then f c.curCtx else c.ctx k := ctx_setCtx ..

/-- A core whose TACQ has completed: beside what issuing a bundle changes, only gD, EXCL and CYCLE, and what counts cycles. -/
theorem tacq_core {c : Core} {r v : Nat} (hr : r < 32) (hm : c.jobMode = true) :
    let d := ((Core.after c (tacqResults r v)).cycled).landAll (tacqResults r v)
    (∀ i, d.readG i = if i = r ∧ r ≠ 0 then (BitVec.ofNat 1024 v).truncate 32 else c.readG i)
      ∧ (∃ g x y q l, d = { Core.after c l with g := g, ctxs := x, cycleNo := y, stop := q })
      ∧ ∀ k, d.ctx k = if k = c.cur then { c.curCtx with cycle := c.curCtx.cycle + 1, excl := c.curCtx.excl + 1 } else c.ctx k := by
  intro d
  have hd : d = (((Core.after c (tacqResults r v)).cycled).writeG r ((BitVec.ofNat 1024 v).truncate 32)).updCur fun x => { x with excl := x.excl + 1 } :=
    landAll_tacqResults _ v hr
  have hc := cycled_running (c := Core.after c (tacqResults r v)) hm
  obtain ⟨g, e⟩ := writeG_only (Core.after c (tacqResults r v)).cycled r ((BitVec.ofNat 1024 v).truncate 32)
  refine ⟨fun i => ?_, ?_, fun k => ?_⟩
  · have hreads : d.readG i = ((Core.after c (tacqResults r v)).cycled.writeG r ((BitVec.ofNat 1024 v).truncate 32)).readG i := by
      rw [hd]
      rfl
    have hold : (Core.after c (tacqResults r v)).cycled.readG i = c.readG i := by
      rw [hc]
      rfl
    rw [hreads, readG_writeG, hold]
  · rw [hd, e, hc]
    exact ⟨_, _, _, _, _, rfl⟩
  · have hctx : ∀ i, (Core.after c (tacqResults r v)).cycled.ctx i
        = if i = c.cur then { c.curCtx with cycle := c.curCtx.cycle + 1 } else c.ctx i := fun i => by
      rw [hc]
      exact ctx_updCur (Core.after c (tacqResults r v)).counted _ i
    have hcur : (Core.after c (tacqResults r v)).cycled.curCtx = { c.curCtx with cycle := c.curCtx.cycle + 1 } :=
      (congrArg ((Core.after c (tacqResults r v)).cycled.ctx) (by rw [hc]; rfl)).trans ((hctx c.cur).trans (if_pos rfl))
    rw [hd, e]
    refine (ctx_updCur { (Core.after c (tacqResults r v)).cycled with g := g } _ k).trans ?_
    by_cases hk : k = c.cur
    · rw [if_pos hk, if_pos (hk.trans (by rw [hc]; rfl))]
      exact congrArg (fun x : Ctx => { x with excl := x.excl + 1 }) hcur
    · rw [if_neg hk, if_neg fun h => hk (h.trans (by rw [hc]; rfl))]
      exact (hctx k).trans (if_neg hk)

/-- A held bundle of one syllable whose wait is over: the syllable acts in a state that differs from the present one by event counters and the hold,
and the bundle finishes. -/
theorem issueBundle_held {y : Syl} (hb : (s.core n).bundle = [y]) (hy : y.slot < 7) (hr : (s.core n).run = {}) (hu : (s.core n).bubble = 0)
    (hf : (s.core n).fetchOk n 16 = true) (hst : (s.core n).curCtx.started = true) (hv : vtsetClash [y] = false)
    (hold : sylHolds (s.setCore n (s.core n)) n y = false) :
    ∃ u : State, s.issueBundle n = (u.runSyl n y).finishBundle n ∧ (∃ o k, u = { s with obj := o, cores := k })
      ∧ u.core n = (s.core n).ready y ∧ ∀ m, m ≠ n → u.core m = s.core m := by
  have hsame : { s.core n with bubble := 0, run := { mark := (s.core n).run.mark } } = s.core n := by
    rw [hr, ← hu, ← hr]
  have hv' : (s.updCore n fun c => { c with bubble := 0, run := { mark := c.run.mark } }) = s.setCore n (s.core n) := congrArg (s.setCore n) hsame
  have hc : (s.setCore n (s.core n)).core n = s.core n := (core_setCore ..).trans (if_pos rfl)
  have hlen : (s.core n).bundleLen = 16 := by simp [Core.bundleLen, hb, hy]
  have hgo := issueBundle_go s (s.setCore n (s.core n)) n hu hv' (by rw [hc, hr]) (by rw [hc, hlen, hf]) (by rw [hc, hb, hv]) (by
    rw [hc, hb, List.any_cons, hold]
    rfl)
  rw [hc, hb] at hgo
  obtain ⟨w, hw, hwe, hwc⟩ : ∃ w : State, w = (if (s.core n).jobMode then (s.setCore n (s.core n)).countCore n 2 1 else s.setCore n (s.core n))
      ∧ (∃ o k, w = { s with obj := o, cores := k }) ∧ ∀ m, w.core m = (s.setCore n (s.core n)).core m := by
    refine ⟨_, rfl, ?_, fun m => ?_⟩
    · split
      · obtain ⟨o, e⟩ := countCore_eq (s.setCore n (s.core n)) n 2 1
        exact ⟨o, _, e⟩
      · exact ⟨s.obj, _, rfl⟩
    · split
      · obtain ⟨o, e⟩ := countCore_eq (s.setCore n (s.core n)) n 2 1
        rw [e]
        rfl
      · rfl
  have hwn : w.core n = s.core n := (hwc n).trans hc
  rw [← hw, jobStart_started w n (fun _ => by rw [hwn, hst]), markBundle_off w n (by rw [hwn, hr])] at hgo
  refine ⟨_, hgo, ?_, ?_, fun m hm => ?_⟩
  · obtain ⟨o, k, rfl⟩ := hwe
    exact ⟨o, _, rfl⟩
  · rw [core_updCore, if_pos rfl, hwn, Core.ready, ← hb, ← hr, ← hu]
  · rw [core_updCore, if_neg hm, hwc, core_setCore, if_neg hm]

/-- TACQ of the earliest waiter of a free Tally does not hold. -/
theorem tacq_goes {w : Waiter} {r : List Waiter} {b : BitVec 64} {e : EccFind} {i : Nat} (hw : (s.tally i).waiters = w :: r)
    (hc : w.core = n) (hk : w.slot = (s.core n).cur) (hh : (s.tally i).holder = 0) (hi : tallyNo s { n := n, slot := 3, body := b } = i) :
    sylHolds s n ⟨.tacq, 3, b, e⟩ = false := by
  have hready : s.tacqReady n (s.core n).cur (s.core n).curCtx.job i = true := by
    simp [State.tacqReady, hh, hw, hc, hk]
  unfold sylHolds
  simp [hi, hready]

/-- Results of latency 1 of a TACQ go into flight. -/
theorem tacqResults_fly (s : State) (n d v : Nat) : (s.result1 n d v).result1 n destExclUp 0
    = s.setCore n { s.core n with inflight := (s.core n).inflight ++ tacqResults d v } := by
  have h : (s.result1 n d v).core n = { s.core n with
      inflight := (s.core n).inflight ++ [⟨d, 1, BitVec.ofNat 1024 v, BitVec.allOnes 128, 0#8, kindPlain⟩] } := (core_setCore ..).trans (if_pos rfl)
  unfold State.result1 State.result State.updCore at h ⊢
  rw [h, setCore_setCore]
  simp [tacqResults]

theorem onTally_owned {x : SylArg} {i : Nat} (hi : tallyNo s x = i) (hs : isSymbolTally i = false) (ho : s.tallyOwned x.n i = true)
    (sym : State → State) (f : Nat → State → State) : s.onTally x sym f = f i s := by
  subst hi
  exact (if_neg (by simp [hs])).trans (if_pos ho)

/-- What TACQ does to a free Tally of the Court. -/
theorem opTacq_takes {b : BitVec 64} {e : EccFind} {i : Nat} (hi : tallyNo s ⟨n, 3, b, e⟩ = i) (hs : isSymbolTally i = false)
    (ho : s.tallyOwned n i = true) (hh : (s.tally i).holder = 0) (hj : (s.core n).curCtx.job ≠ 0) :
    ∃ l x, opTacq ⟨n, 3, b, e⟩ s = (s.setTally i { s.tally i with waiters := l, holder := (s.core n).curCtx.job, abandoned := false, since := x }).setCore n
      { s.core n with inflight := (s.core n).inflight ++ tacqResults (sylD b) (if (s.tally i).abandoned then 1 else 0) } := by
  refine ⟨((s.tally i).leave n (s.core n).cur).waiters, (s.tb (s.core n).curCtx.tb).tc, ?_⟩
  unfold opTacq
  rw [onTally_owned hi hs ho]
  dsimp only
  rw [if_neg fun h => hj (h.1.symm.trans hh), tacqResults_fly]
  rfl

theorem sylLegal_tacq {b : BitVec 64} (h : sylLegal .tacq 3 b = true) : sylD b < 32 := by
  have hf : fieldsLegal .tacq 3 b = true := (Bool.and_eq_true_iff.1 h).2
  simp only [fieldsLegal, formR, isG, Bool.and_eq_true, decide_eq_true_eq] at hf
  obtain ⟨⟨⟨⟨⟨hd, -⟩, -⟩, -⟩, -⟩, -⟩ := hf
  exact hd

/-- A syllable of the scalar slot whose predicate is on acts. -/
theorem runSyl_tacq {b : BitVec 64} {e : EccFind} (hr : (s.core n).run.dead = false) (hl : sylLegal .tacq 3 b = true) (hon : scalarOn (s.core n) b = true) :
    s.runSyl n ⟨.tacq, 3, b, e⟩ = opTacq ⟨n, 3, b, e⟩ s := by
  unfold State.runSyl
  extract_lets c
  rw [if_neg (by simp [c, hr]), if_neg (by simp [Syl.countSel])]
  unfold State.actSyl
  extract_lets x
  rw [if_neg fun h => h.2 hon, if_neg (by simp [hl])]
  rfl

/-- The end of a bundle of one TACQ. -/
theorem finishBundle_tacq {c : Core} {y : Syl} {r v : Nat} (hc : s.core n = { c.ready y with inflight := tacqResults r v }) (hy : y.slot < 7)
    (hl : ∀ k < 4, c.readLc k = 0#32 ∨ c.readLe k ≠ c.pc) :
    ∃ o, s.finishBundle n = { s with obj := o }.setCore n (((Core.after c (tacqResults r v)).cycled).landAll (tacqResults r v)) := by
  have hlen : (s.core n).bundleLen = 16 := by simp [hc, Core.bundleLen, Core.ready, hy]
  have hdue : (s.core n).due = tacqResults r v := by
    rw [hc]
    rfl
  have hpassed : (s.core n).passed = Core.after c (tacqResults r v) := by
    unfold Core.passed
    rw [hlen, hc]
    rfl
  obtain ⟨o, e⟩ := finishBundle_plain s n (by rw [hc]; rfl) (by rw [hc]; rfl) (by rw [hc]; rfl) (by rw [hc]; rfl) (by rw [hc]; exact hl)
    (by rw [hdue]; exact tacqResults_noClash)
  exact ⟨o, by rw [e, hpassed, hdue]⟩

theorem tacqGrant_issues {i : BitVec 16} {w : Waiter} {r : List Waiter} (hw : (s.tally i.toNat).waiters = w :: r) (hh : (s.tally i.toNat).holder = 0)
    (hs : s.coresStopped = false) (hheld : (s.core w.core).held = true) : execTacqGrant i s = .next (s.issueBundle w.core) := by
  unfold execTacqGrant
  extract_lets t
  rw [show t.waiters = w :: r from hw]
  exact congrArg Host.Outcome.next (if_pos ⟨hh, hheld, hs⟩)

/-- A granted TACQ: the Tally is the job's, and the core has gone on to the next bundle. -/
theorem tacqGrant_takes {i : BitVec 16} {b : BitVec 64} {e : EccFind} {w : Waiter} {r : List Waiter} (hw : (s.tally i.toNat).waiters = w :: r)
    (hh : (s.tally i.toNat).holder = 0) (hstop : s.coresStopped = false) (hk : w.slot = (s.core w.core).cur)
    (hst : (s.core w.core).curCtx.started = true) (hj : (s.core w.core).curCtx.job ≠ 0) (hheld : (s.core w.core).held = true)
    (hb : (s.core w.core).bundle = [⟨.tacq, 3, b, e⟩]) (hr : (s.core w.core).run = {}) (hu : (s.core w.core).bubble = 0)
    (hfl : (s.core w.core).inflight = []) (hf : (s.core w.core).fetchOk w.core 16 = true)
    (hl : ∀ k < 4, (s.core w.core).readLc k = 0#32 ∨ (s.core w.core).readLe k ≠ (s.core w.core).pc) (hlegal : sylLegal .tacq 3 b = true)
    (hon : scalarOn (s.core w.core) b = true) (hi : tallyNo s ⟨w.core, 3, b, e⟩ = i.toNat) (ho : s.tallyOwned w.core i.toNat = true)
    (hsym : isSymbolTally i.toNat = false) : ∃ t, execTacqGrant i s = .next t
      ∧ (∃ l x, t.tally i.toNat = { s.tally i.toNat with waiters := l, holder := (s.core w.core).curCtx.job, abandoned := false, since := x })
      ∧ t.core w.core = ((Core.after (s.core w.core) (tacqResults (sylD b) (if (s.tally i.toNat).abandoned then 1 else 0))).cycled).landAll
          (tacqResults (sylD b) (if (s.tally i.toNat).abandoned then 1 else 0))
      ∧ ∀ m, m ≠ w.core → t.core m = s.core m := by
  have hcore : (s.setCore w.core (s.core w.core)).core w.core = s.core w.core := (core_setCore ..).trans (if_pos rfl)
  have hgoes : sylHolds (s.setCore w.core (s.core w.core)) w.core ⟨.tacq, 3, b, e⟩ = false := by
    refine tacq_goes (i := i.toNat) hw rfl (by rw [hcore, hk]) hh ?_
    rw [tallyNo, srcA, hcore]
    exact hi
  obtain ⟨u, hissue, ⟨o, k, rfl⟩, hready, hothers⟩ := issueBundle_held hb (show 3 < 7 by decide) hr hu hf hst (by simp [vtsetClash]) hgoes
  generalize hv : ({ s with obj := o, cores := k } : State) = v at *
  have htally : v.tally i.toNat = s.tally i.toNat := by rw [← hv]; rfl
  have hcur : (v.core w.core).curCtx = (s.core w.core).curCtx := by rw [hready]; rfl
  obtain ⟨l, x, htake⟩ := opTacq_takes (s := v) (n := w.core) (b := b) (e := e) (i := i.toNat)
    (by rw [tallyNo, srcA, hready]; exact hi) hsym
    (by rw [State.tallyOwned, hcur, ← hv]; exact ho) (by rw [htally, hh]) (by rw [hcur]; exact hj)
  rw [htally, hcur, hready] at htake
  generalize hy : (⟨.tacq, 3, b, e⟩ : Syl) = y at *
  have hsyl : v.runSyl w.core y = opTacq ⟨w.core, 3, b, e⟩ v := by
    rw [← hy]
    exact runSyl_tacq (by rw [hready]; rfl) hlegal (by rw [hready]; exact hon)
  have hslot : y.slot < 7 := by
    rw [← hy]
    exact (by decide : 3 < 7)
  obtain ⟨o', hfin⟩ := finishBundle_tacq (s := v.runSyl w.core y) (n := w.core) (c := s.core w.core) (y := y) (r := sylD b)
    (v := if (s.tally i.toNat).abandoned then 1 else 0) (by
      rw [hsyl, htake, core_setCore, if_pos rfl, show ((s.core w.core).ready y).inflight = [] from hfl, List.nil_append]) hslot hl
  refine ⟨_, (tacqGrant_issues hw hh hstop hheld).trans (congrArg Host.Outcome.next (hissue.trans hfin)), ⟨l, x, ?_⟩, ?_, fun m hm => ?_⟩
  · rw [hsyl, htake]
    exact (Tbl.get_set ..).trans (if_pos rfl)
  · rw [core_setCore, if_pos rfl]
  · rw [core_setCore, if_neg hm, hsyl, htake]
    exact ((core_setCore (v.setTally i.toNat _) w.core m _).trans (if_neg hm)).trans (hothers m hm)

theorem tacqGrant_spec (i : BitVec 16) (s : State) (b : BitVec 64) (e : EccFind) (w : Waiter) (r : List Waiter) :
    let n := w.core
    let c := s.core n
    let y := s.tally i.toNat
    y.waiters = w :: r → y.holder = 0 → s.coresStopped = false → w.slot = c.cur → c.jobMode = true → c.curCtx.started = true → c.curCtx.job ≠ 0 → c.held = true →
    c.bundle = [⟨.tacq, 3, b, e⟩] → c.run = {} → c.bubble = 0 → c.inflight = [] → c.fetchOk n 16 = true → (∀ k < 4, c.readLc k = 0#32 ∨ c.readLe k ≠ c.pc) →
    sylLegal .tacq 3 b = true → scalarOn c b = true → tallyNo s ⟨n, 3, b, e⟩ = i.toNat → s.tallyOwned n i.toNat = true → isSymbolTally i.toNat = false →
    ∃ t, exec (.tacqGrant i) s = .next t ∧ (t.tally i.toNat).holder = c.curCtx.job ∧ (t.tally i.toNat).abandoned = false
      ∧ (t.core n).readG (sylD b) = (if sylD b = 0 then 0#32 else if y.abandoned then 1#32 else 0#32)
      ∧ (t.core n).curCtx.excl = c.curCtx.excl + 1#32 ∧ (t.core n).held = false ∧ falls n s t ∧ frame n [sylD b, 0x100] s t := by
  intro n c y hw hh hstop hk hm hst hj hheld hb hr hu hfl hf hl hlegal hon hi ho hsym
  obtain ⟨t, hexec, ⟨l, x, htally⟩, hcore, hothers⟩ := tacqGrant_takes hw hh hstop hk hst hj hheld hb hr hu hfl hf hl hlegal hon hi ho hsym
  obtain ⟨hreg, ⟨g, ctxs, cy, st, fl, hd⟩, hctx⟩ := tacq_core (c := c) (v := if (s.tally i.toNat).abandoned then 1 else 0) (sylLegal_tacq hlegal) hm
  rw [← hcore] at hreg hd hctx
  have hcur : (t.core n).cur = c.cur := by rw [hd]; rfl
  refine ⟨t, hexec, by rw [htally], by rw [htally], ?_, ?_, by rw [hd]; rfl, ⟨by rw [hd]; rfl, by rw [hd]; rfl⟩, ?_⟩
  · rw [hreg]
    by_cases h0 : sylD b = 0
    · rw [if_neg fun h => h.2 h0, if_pos h0, h0]
      rfl
    · rw [if_pos ⟨rfl, h0⟩, if_neg h0, show y.abandoned = (s.tally i.toNat).abandoned from rfl, BitVec.truncate_eq_setWidth,
        BitVec.setWidth_ofNat_of_le (by decide)]
      cases (s.tally i.toNat).abandoned
      · rfl
      · rfl
  · exact congrArg Ctx.excl ((congrArg (t.core n).ctx hcur).trans ((hctx c.cur).trans (if_pos rfl)))
  · refine ⟨fun k _ hk => (hreg k).trans (if_neg fun h => hk (by simp [h.1])), fun _ _ _ => by rw [hd]; rfl, fun _ _ _ => by rw [hd]; rfl,
      fun _ _ _ => by rw [hd]; rfl, fun _ _ _ => by rw [hd]; rfl, fun _ _ _ => by rw [hd]; rfl, fun _ _ _ => by rw [hd]; rfl, fun _ => by rw [hd]; rfl,
      fun _ => by rw [hd]; rfl, fun _ => by rw [hd]; rfl, fun _ => by rw [hd]; rfl, fun h => absurd (by simp) h, fun _ => ⟨by rw [hd]; rfl, fun k => ?_⟩, hothers⟩
    rw [hctx]
    split
    · subst k
      rfl
    · rfl

/-- Settles O27: each operation's equation, with what starting a context (`startNext_begins`), placing a job (`tryPlace_places`) and issuing the held
bundle (`tacqGrant_takes`) leave as they were. -/
theorem jobsOnCores : Obligations.JobsOnCores := by
  unfold Obligations.JobsOnCores
  exact ⟨⟨jobRelease_spec, jobCompletion_spec, contextSlotFree_spec, sliceEnd_spec⟩, swapOut_spec, swapIn_spec, tacqGrant_spec⟩

end Sys2Proof.Machine
end

section
/-! # The family 03_lorgus_core_model.md: bundles, loads and stores, loops, results that land, stops, job ends and fences of a core -/

namespace Sys2Proof.Machine
open Sys2Proof Sys2Proof.Claims

variable {s t u : State} {n m k : Nat}

/-! ## What a change of a core leaves as it was -/

/-- The part of `Claims.frame` about one core: what of core c stands in core d but for the registers of `wr`. -/
structure Core.KeepsBut (wr : List Nat) (c d : Core) : Prop where
  g : ∀ i < 32, i ∉ wr → d.readG i = c.readG i
  a : ∀ i < 16, 0x20 + i ∉ wr → d.readA i = c.readA i
  p : ∀ i < 8, 0x30 + i ∉ wr → d.readP i = c.readP i
  v : ∀ i < 32, 0x40 + i ∉ wr → d.readV i = c.readV i
  lc : ∀ i < 4, 0x60 + i ∉ wr → d.readLc i = c.readLc i
  ls : ∀ i < 4, 0x64 + i ∉ wr → d.readLs i = c.readLs i
  le : ∀ i < 4, 0x68 + i ∉ wr → d.readLe i = c.readLe i
  vl : 0x6C ∉ wr → d.vl = c.vl
  flags0 : 0x80 ∉ wr → d.flags.toNat % 16 = c.flags.toNat % 16
  flags1 : 0x81 ∉ wr → d.flags.toNat / 16 = c.flags.toNat / 16
  sticky : 0x102 ∉ wr → d.sticky = c.sticky
  ctx : 0x100 ∉ wr → ∀ k, { d.ctx k with cycle := 0, next := {} } = { c.ctx k with cycle := 0, next := {} }
  array : 0x103 ∉ wr → d.groups = c.groups ∧ ∀ k, (d.ctx k).next = (c.ctx k).next

variable {c d e : Core} {wr : List Nat}

theorem Core.KeepsBut.refl : Core.KeepsBut wr c c :=
  ⟨fun _ _ _ => rfl, fun _ _ _ => rfl, fun _ _ _ => rfl, fun _ _ _ => rfl, fun _ _ _ => rfl, fun _ _ _ => rfl, fun _ _ _ => rfl, fun _ => rfl,
    fun _ => rfl, fun _ => rfl, fun _ => rfl, fun _ _ => rfl, fun _ => ⟨rfl, fun _ => rfl⟩⟩

theorem Core.KeepsBut.trans (h : Core.KeepsBut wr c d) (h' : Core.KeepsBut wr d e) : Core.KeepsBut wr c e where
  g i hi hw := (h'.g i hi hw).trans (h.g i hi hw)
  a i hi hw := (h'.a i hi hw).trans (h.a i hi hw)
  p i hi hw := (h'.p i hi hw).trans (h.p i hi hw)
  v i hi hw := (h'.v i hi hw).trans (h.v i hi hw)
  lc i hi hw := (h'.lc i hi hw).trans (h.lc i hi hw)
  ls i hi hw := (h'.ls i hi hw).trans (h.ls i hi hw)
  le i hi hw := (h'.le i hi hw).trans (h.le i hi hw)
  vl hw := (h'.vl hw).trans (h.vl hw)
  flags0 hw := (h'.flags0 hw).trans (h.flags0 hw)
  flags1 hw := (h'.flags1 hw).trans (h.flags1 hw)
  sticky hw := (h'.sticky hw).trans (h.sticky hw)
  ctx hw k := (h'.ctx hw k).trans (h.ctx hw k)
  array hw := ⟨(h'.array hw).1.trans (h.array hw).1, fun k => ((h'.array hw).2 k).trans ((h.array hw).2 k)⟩

/-- The two parts of `Claims.frame`. -/
theorem Core.KeepsBut.frame (h : Core.KeepsBut wr (s.core n) (t.core n)) (ho : ∀ m, m ≠ n → t.core m = s.core m) : frame n wr s t :=
  ⟨h.g, h.a, h.p, h.v, h.lc, h.ls, h.le, h.vl, h.flags0, h.flags1, h.sticky, h.ctx, h.array, ho⟩

/-- A core whose registers, flags, contexts and groups are those of another. -/
theorem Core.KeepsBut.of_eq (h : d = { c with
      pc := d.pc, lastPc := d.lastPc, branched := d.branched, bubble := d.bubble, jobMode := d.jobMode, cycleNo := d.cycleNo, inflight := d.inflight,
      bundle := d.bundle, run := d.run, held := d.held, heldCycles := d.heldCycles, stop := d.stop, tileCache := d.tileCache, inTest := d.inTest,
      traceSeq := d.traceSeq, traceHead := d.traceHead, traceCount := d.traceCount, traceMerged := d.traceMerged, traceLast := d.traceLast,
      traceDropPending := d.traceDropPending }) : Core.KeepsBut wr c d := by
  rw [h]
  exact ⟨fun _ _ _ => rfl, fun _ _ _ => rfl, fun _ _ _ => rfl, fun _ _ _ => rfl, fun _ _ _ => rfl, fun _ _ _ => rfl, fun _ _ _ => rfl, fun _ => rfl,
    fun _ => rfl, fun _ => rfl, fun _ => rfl, fun _ _ => rfl, fun _ => ⟨rfl, fun _ => rfl⟩⟩

/-- A context of the core changes in what `wr` names of the contexts. -/
theorem Core.KeepsBut.setCtx {x : Ctx} (hx : 0x100 ∉ wr → { x with cycle := 0, next := {} } = { c.ctx k with cycle := 0, next := {} })
    (hn : 0x103 ∉ wr → x.next = (c.ctx k).next) : Core.KeepsBut wr c (c.setCtx k x) :=
  { (Core.KeepsBut.refl : Core.KeepsBut wr c c) with
    ctx := fun hw i => by
      rw [ctx_setCtx]
      split
      next h => rw [hx hw, h]
      next => rfl
    array := fun hw => ⟨rfl, fun i => by
      rw [ctx_setCtx]
      split
      next h => rw [hn hw, h]
      next => rfl⟩ }

theorem Core.KeepsBut.updCur {f : Ctx → Ctx} (hx : 0x100 ∉ wr → { f c.curCtx with cycle := 0, next := {} } = { c.curCtx with cycle := 0, next := {} })
    (hn : 0x103 ∉ wr → (f c.curCtx).next = c.curCtx.next) : Core.KeepsBut wr c (c.updCur f) := .setCtx hx hn

theorem counted_keeps : Core.KeepsBut wr c c.counted := .of_eq rfl

/-- A cycle leaves every register of the core. -/
theorem cycled_keeps : Core.KeepsBut wr c c.cycled := by
  by_cases hm : c.jobMode = true
  · rw [cycled_running hm]
    exact counted_keeps.trans (.updCur (fun _ => rfl) fun _ => rfl)
  · have h : c.cycled = c.counted := if_neg hm
    rw [h]
    exact counted_keeps

theorem cycled_only : ∃ x, c.cycled = { c.counted with ctxs := x } := by
  by_cases hm : c.jobMode = true
  · exact ⟨_, cycled_running hm⟩
  · exact ⟨c.ctxs, if_neg hm⟩

/-! ## A result that lands -/

theorem readA_writeA (c : Core) (i j : Nat) (x : Addr48) : (c.writeA i x).readA j = if j = i then x else c.readA j := by
  simp [Core.writeA, Core.readA]

theorem readV_writeV (c : Core) (i j : Nat) (x : Vec) : (c.writeV i x).readV j = if j = i then x else c.readV j := by
  simp [Core.writeV, Core.readV]

/-- A core whose sticky flags take those of a result. -/
def Core.stuck (c : Core) (r : Land) : Core := { c with sticky := c.sticky ||| r.sticky }

theorem stuck_keeps {r : Land} (h : r.sticky = 0#8 ∨ 0x102 ∈ wr) : Core.KeepsBut wr c (c.stuck r) :=
  { (Core.KeepsBut.refl : Core.KeepsBut wr c c) with
    sticky := fun hw => by simp [Core.stuck, h.resolve_right hw] }

/-- Whether a result for an a register unbinds the walker of the register as it lands (R158). -/
def Core.unbinds (c : Core) (r : Land) : Prop := 0x2C ≤ r.dest ∧ r.kind ≠ kindWalker ∧ r.kind ≠ kindVtset ∧ c.jobMode = true

/-- A core whose walker k is unbound. -/
def Core.unbound (c : Core) (k : Nat) : Core := c.setWalker k { c.walker k with bound := false }

section
variable {r : Land}

theorem land_g (h : r.dest < 0x20) : c.land r = (c.stuck r).writeG r.dest (r.value.truncate 32) := if_pos h

theorem land_a (h1 : 0x20 ≤ r.dest) (h2 : r.dest < 0x30) :
    (c.unbinds r ∧ c.land r = ((c.stuck r).unbound (r.dest - 0x2C)).writeA (r.dest - 0x20) (r.value.truncate 48))
      ∨ (¬ c.unbinds r ∧ c.land r = (c.stuck r).writeA (r.dest - 0x20) (r.value.truncate 48)) := by
  by_cases h : c.unbinds r
  · refine .inl ⟨h, ?_⟩
    unfold Core.land
    rw [if_neg (by omega), if_pos h2]
    exact congrArg (fun d : Core => d.writeA _ _) (if_pos h)
  · refine .inr ⟨h, ?_⟩
    unfold Core.land
    rw [if_neg (by omega), if_pos h2]
    exact congrArg (fun d : Core => d.writeA _ _) (if_neg h)

theorem land_v (h1 : 0x40 ≤ r.dest) (h2 : r.dest < 0x60) : c.land r = (c.stuck r).writeV (r.dest - 0x40)
    (((c.stuck r).readV (r.dest - 0x40) &&& ~~~(expandMask r.mask)) ||| (r.value &&& expandMask r.mask)) := by
  unfold Core.land
  rw [if_neg (by omega), if_neg (by omega), if_neg (by omega)]
  exact if_pos ⟨h1, h2⟩

theorem land_lc (h1 : 0x60 ≤ r.dest) (h2 : r.dest < 0x64) :
    c.land r = { c.stuck r with lc := Tbl.set 0#32 c.lc (r.dest - 0x60) (r.value.truncate 32) } := by
  unfold Core.land
  rw [if_neg (by omega), if_neg (by omega), if_neg (by omega), if_neg (by omega)]
  exact if_pos h2

theorem land_ls (h1 : 0x64 ≤ r.dest) (h2 : r.dest < 0x68) :
    c.land r = { c.stuck r with ls := Tbl.set 0#48 c.ls (r.dest - 0x64) (r.value.truncate 48) } := by
  unfold Core.land
  rw [if_neg (by omega), if_neg (by omega), if_neg (by omega), if_neg (by omega), if_neg (by omega)]
  exact if_pos h2

theorem land_le (h1 : 0x68 ≤ r.dest) (h2 : r.dest < 0x6C) :
    c.land r = { c.stuck r with le := Tbl.set 0#48 c.le (r.dest - 0x68) (r.value.truncate 48) } := by
  unfold Core.land
  rw [if_neg (by omega), if_neg (by omega), if_neg (by omega), if_neg (by omega), if_neg (by omega), if_neg (by omega)]
  exact if_pos h2

theorem land_vl (h : r.dest = 0x6C) : c.land r = { c.stuck r with vl := r.value.truncate 8 } := by
  unfold Core.land
  rw [if_neg (by omega), if_neg (by omega), if_neg (by omega), if_neg (by omega), if_neg (by omega), if_neg (by omega), if_neg (by omega)]
  exact if_pos h

theorem land_csr (h1 : 0x100 ≤ r.dest) (h2 : r.dest < 0x1000) : c.land r = (c.stuck r).putCsr (r.dest - 0x100) (r.value.truncate 64).toNat := by
  unfold Core.land
  rw [if_neg (by omega), if_neg (by omega), if_neg (by omega), if_neg (by omega), if_neg (by omega), if_neg (by omega), if_neg (by omega),
    if_neg (by omega), if_neg (by omega), if_neg (by omega), if_neg (by unfold destExclUp; omega), if_neg (by unfold destExclDown; omega)]
  exact if_pos h1

end

theorem writeG_keeps {i : Nat} {x : Word32} (h : i ∈ wr) : Core.KeepsBut wr c (c.writeG i x) := by
  have hg : ∀ j < 32, j ∉ wr → (c.writeG i x).readG j = c.readG j := fun j _ hj => by
    rw [readG_writeG, if_neg]
    rintro ⟨rfl, -⟩
    exact hj h
  obtain ⟨g, e⟩ := writeG_only c i x
  rw [e] at hg ⊢
  exact { (Core.KeepsBut.refl : Core.KeepsBut wr c c) with g := hg }

theorem writeA_keeps {i : Nat} {x : Addr48} (h : 0x20 + i ∈ wr) : Core.KeepsBut wr c (c.writeA i x) :=
  { (Core.KeepsBut.refl : Core.KeepsBut wr c c) with
    a := fun j _ hj => (readA_writeA ..).trans (if_neg fun e : j = i => hj (e ▸ h)) }

theorem writeV_keeps {i : Nat} {x : Vec} (h : 0x40 + i ∈ wr) : Core.KeepsBut wr c (c.writeV i x) :=
  { (Core.KeepsBut.refl : Core.KeepsBut wr c c) with
    v := fun j _ hj => (readV_writeV ..).trans (if_neg fun e : j = i => hj (e ▸ h)) }

theorem setLc_keeps {i : Nat} {x : Word32} (h : 0x60 + i ∈ wr) : Core.KeepsBut wr c { c with lc := Tbl.set 0#32 c.lc i x } :=
  { (Core.KeepsBut.refl : Core.KeepsBut wr c c) with
    lc := fun j _ hj => (Tbl.get_set ..).trans (if_neg fun e : j = i => hj (e ▸ h)) }

theorem setLs_keeps {i : Nat} {x : Addr48} (h : 0x64 + i ∈ wr) : Core.KeepsBut wr c { c with ls := Tbl.set 0#48 c.ls i x } :=
  { (Core.KeepsBut.refl : Core.KeepsBut wr c c) with
    ls := fun j _ hj => (Tbl.get_set ..).trans (if_neg fun e : j = i => hj (e ▸ h)) }

theorem setLe_keeps {i : Nat} {x : Addr48} (h : 0x68 + i ∈ wr) : Core.KeepsBut wr c { c with le := Tbl.set 0#48 c.le i x } :=
  { (Core.KeepsBut.refl : Core.KeepsBut wr c c) with
    le := fun j _ hj => (Tbl.get_set ..).trans (if_neg fun e : j = i => hj (e ▸ h)) }

theorem setVl_keeps {x : Byte} (h : 0x6C ∈ wr) : Core.KeepsBut wr c { c with vl := x } :=
  { (Core.KeepsBut.refl : Core.KeepsBut wr c c) with vl := fun hw => absurd h hw }

theorem unbound_keeps (h : 0x100 ∈ wr) : Core.KeepsBut wr c (c.unbound k) := by
  unfold Core.unbound Core.setWalker
  exact .updCur (fun hw => absurd h hw) fun _ => rfl

/-- A g, a or v register, a loop register, or vl. -/
def isPlainDest (d : Nat) : Prop := d < 0x30 ∨ 0x40 ≤ d ∧ d ≤ 0x6C

/-- A result for a register of `wr` changes only what `wr` names. -/
theorem land_keeps {r : Land} (hp : isPlainDest r.dest) (hd : r.dest ∈ wr) (hs : r.sticky = 0#8 ∨ 0x102 ∈ wr)
    (hu : r.dest < 0x30 → c.unbinds r → 0x100 ∈ wr) : Core.KeepsBut wr c (c.land r) := by
  have hst : Core.KeepsBut wr c (c.stuck r) := stuck_keeps hs
  unfold isPlainDest at hp
  by_cases hg : r.dest < 0x20
  · rw [land_g hg]
    exact hst.trans (writeG_keeps hd)
  by_cases ha : r.dest < 0x30
  · have hd' : 0x20 + (r.dest - 0x20) ∈ wr := by rwa [Nat.add_sub_cancel' (by omega)]
    rcases land_a (c := c) (r := r) (by omega) ha with ⟨h, e⟩ | ⟨-, e⟩
    · rw [e]
      exact (hst.trans (unbound_keeps (hu ha h))).trans (writeA_keeps hd')
    · rw [e]
      exact hst.trans (writeA_keeps hd')
  by_cases hv : r.dest < 0x60
  · rw [land_v (by omega) hv]
    exact hst.trans (writeV_keeps (by rwa [Nat.add_sub_cancel' (by omega)]))
  by_cases hlc : r.dest < 0x64
  · rw [land_lc (by omega) hlc]
    exact hst.trans (setLc_keeps (by rwa [Nat.add_sub_cancel' (by omega)]))
  by_cases hls : r.dest < 0x68
  · rw [land_ls (by omega) hls]
    exact hst.trans (setLs_keeps (by rwa [Nat.add_sub_cancel' (by omega)]))
  by_cases hle : r.dest < 0x6C
  · rw [land_le (by omega) hle]
    exact hst.trans (setLe_keeps (by rwa [Nat.add_sub_cancel' (by omega)]))
  · have hvl : r.dest = 0x6C := by omega
    rw [land_vl hvl]
    exact hst.trans (setVl_keeps (hvl ▸ hd))

end Sys2Proof.Machine
end

section
namespace Sys2Proof.Machine
open Sys2Proof Sys2Proof.Claims

variable {s t u v : State} {n m k : Nat} {c d e : Core} {y : Syl} {mem : List Host.Cell} {tags : Tbl (BitVec 6)}

/-! ## A state in which only core n, memory and the dictionary differ -/

/-- State t is s with core n as c, the given memory and block tags, and some dictionary. -/
structure State.Becomes (s t : State) (n : Nat) (c : Core) (mem : List Host.Cell) (tags : Tbl (BitVec 6)) : Prop where
  rest : ∃ o k, t = { s with obj := o, cores := k, mem := mem, tags := tags }
  core : t.core n = c
  others : ∀ m, m ≠ n → t.core m = s.core m

theorem State.Becomes.setCore (h : State.Becomes s t n c mem tags) (d : Core) : State.Becomes s (t.setCore n d) n d mem tags := by
  obtain ⟨⟨o, k, rfl⟩, -, hothers⟩ := h
  exact ⟨⟨o, _, rfl⟩, (core_setCore ..).trans (if_pos rfl), fun m hm => ((core_setCore ..).trans (if_neg hm)).trans (hothers m hm)⟩

theorem State.Becomes.updCore (h : State.Becomes s t n c mem tags) (f : Core → Core) : State.Becomes s (t.updCore n f) n (f c) mem tags := by
  rw [← h.core]
  exact h.setCore _

theorem State.Becomes.setObj (h : State.Becomes s t n c mem tags) (o : Tbl Nat) : State.Becomes s { t with obj := o } n c mem tags := by
  obtain ⟨⟨p, k, rfl⟩, hcore, hothers⟩ := h
  exact ⟨⟨o, k, rfl⟩, hcore, hothers⟩

theorem State.Becomes.countCore (h : State.Becomes s t n c mem tags) (m i a : Nat) : State.Becomes s (t.countCore m i a) n c mem tags := by
  obtain ⟨o, e⟩ := countCore_eq t m i a
  rw [e]
  exact h.setObj o

theorem State.Becomes.mem_eq (h : State.Becomes s t n c mem tags) : t.mem = mem := by
  obtain ⟨⟨o, k, rfl⟩, -, -⟩ := h
  rfl

theorem State.Becomes.tags_eq (h : State.Becomes s t n c mem tags) : t.tags = tags := by
  obtain ⟨⟨o, k, rfl⟩, -, -⟩ := h
  rfl

theorem State.Becomes.onlyCore (h : State.Becomes s t n c s.mem s.tags) : onlyCore s t := h.rest

theorem State.Becomes.frame {wr : List Nat} (h : State.Becomes s t n c mem tags) (hc : Core.KeepsBut wr (s.core n) c) : frame n wr s t :=
  Core.KeepsBut.frame (h.core ▸ hc) h.others

/-- A result goes into flight. -/
theorem State.Becomes.result (h : State.Becomes s t n c mem tags) (dest lat : Nat) (value : Vec) (mask : Pred) (sticky : Byte) (kind : Nat) :
    State.Becomes s (t.result n dest lat value mask sticky kind) n { c with inflight := c.inflight ++ [⟨dest, lat, value, mask, sticky, kind⟩] } mem tags :=
  h.updCore _

/-- The scalar result of latency 1 for register d. -/
def plainLand (d v : Nat) : Land := ⟨d, 1, BitVec.ofNat 1024 v, BitVec.allOnes 128, 0#8, kindPlain⟩

theorem State.Becomes.result1 (h : State.Becomes s t n c mem tags) (dest value : Nat) :
    State.Becomes s (t.result1 n dest value) n { c with inflight := c.inflight ++ [plainLand dest value] } mem tags :=
  h.result ..

/-! ## The state in which the one syllable of a bundle acts -/

/-- State u is s but for the dictionary and core n, in which the syllable is ready to act. -/
abbrev State.Issuing (s u : State) (n : Nat) (y : Syl) : Prop := State.Becomes s u n ((s.core n).ready y) s.mem s.tags

/-- The syllable of a command as it is staged. -/
def Issue.syl (op : CoreOp) (is : Issue) : Syl := ⟨op, is.slot.val, is.body, is.ecc⟩

/-- A legal syllable whose predicate lets it act runs its operation, once its event is counted. -/
theorem runSyl_runs (hl : sylLegal y.op y.slot y.body = true) (hon : byLane y.op y.slot = true ∨ scalarOn (s.core n) y.body = true)
    (hu : State.Issuing s u n y) : ∃ v, State.Issuing s v n y ∧ u.runSyl n y = runOp y.op ⟨n, y.slot, y.body, y.ecc⟩ v := by
  have hact : ∀ v, State.Issuing s v n y → v.actSyl n y = runOp y.op ⟨n, y.slot, y.body, y.ecc⟩ v := by
    intro v hv
    unfold State.actSyl
    extract_lets c x
    have hc : c = (s.core n).ready y := hv.core
    rw [if_neg, if_neg (not_not_intro hl)]
    rintro ⟨hlane, hoff⟩
    refine hoff ?_
    rw [hc]
    exact hon.resolve_left hlane
  unfold State.runSyl
  extract_lets c
  have hc : c = (s.core n).ready y := hu.core
  rw [if_neg (by rw [hc]; exact Bool.false_ne_true)]
  split
  · exact ⟨_, hu.countCore _ _ _, hact _ (hu.countCore _ _ _)⟩
  · exact ⟨u, hu, hact u hu⟩

theorem runSyl_acts {op : CoreOp} {is : Issue} (h : s.Acts op is) (hu : State.Issuing s u is.core.val (Issue.syl op is)) :
    ∃ v, State.Issuing s v is.core.val (Issue.syl op is) ∧ u.runSyl is.core.val (Issue.syl op is) = runOp op (arg is) v :=
  runSyl_runs h.legal h.on hu

/-- A bundle of one syllable that acts and does not hold: its operation runs, and the bundle finishes. -/
theorem acts_runs {op : CoreOp} {is : Issue} (h : s.Acts op is)
    (hold : sylHolds (s.looked op is) is.core.val (Issue.syl op is) = false) :
    ∃ u, State.Issuing s u is.core.val (Issue.syl op is) ∧ s.stage op is = (runOp op (arg is) u).finishBundle is.core.val := by
  obtain ⟨u, e, hrest, hcore, hothers⟩ := stage_alone s op is h.toAlone hold
  obtain ⟨v, hv, ev⟩ := runSyl_acts h ⟨hrest, hcore, hothers⟩
  exact ⟨v, hv, e.trans (congrArg (State.finishBundle · is.core.val) ev)⟩

/-! ## A bundle that goes on to the next one -/

/-- The core in which the syllable has acted: results l are in flight, the next bundle is at `skip` if given, and the tile cache holds `tiles`. -/
def Core.acted (c : Core) (y : Syl) (l : List Land) (skip : Option Addr48) (tiles : List Nat) : Core :=
  { c.ready y with inflight := l, run := { skip := skip }, tileCache := tiles }

/-- The core that goes on to a bundle with results l in flight. -/
def Core.gone (c : Core) (next : Addr48) (l : List Land) (tiles : List Nat) : Core :=
  { c with
    lastPc := c.pc, pc := next, branched := false, bundle := [], run := {}, bubble := 0, held := false, heldCycles := 0, inflight := l, tileCache := tiles }

theorem gone_keeps {wr : List Nat} {next : Addr48} {l : List Land} {tiles : List Nat} : Core.KeepsBut wr c (c.gone next l tiles) := .of_eq rfl

/-- Results that land in the cycle that ends their bundle. -/
def dueNow (l : List Land) : List Land := l.filter fun r => decide (r.remain ≤ 1)

/-- Results that stay in flight in that cycle. -/
def dueLater (l : List Land) : List Land := (l.filter fun r => decide (1 < r.remain)).map fun r => { r with remain := r.remain - 1 }

/-- Of the core that goes on, the cycle that ends the bundle: results due land, the others stay in flight. -/
def Core.finished (c : Core) (next : Addr48) (l : List Land) (tiles : List Nat) : Core := (c.gone next l tiles).cycled.landAll (dueNow l)

/-- The end of a bundle without event, branch or end of the job. -/
theorem State.Becomes.finish (h : State.Becomes s t n c mem tags) (hr : c.run.dead = false ∧ c.run.resume = none ∧ c.run.ended = false ∧ c.run.taken = none)
    (hl : ∀ k < 4, c.readLc k = 0#32 ∨ c.readLe k ≠ c.pc) (hc : anyClash c.due = false) :
    State.Becomes s (t.finishBundle n) n (c.passed.cycled.landAll c.due) mem tags := by
  obtain ⟨hdead, hresume, hended, htaken⟩ := hr
  obtain ⟨o, e⟩ := finishBundle_plain t n (by rw [h.core, hdead]) (by rw [h.core, hresume]) (by rw [h.core, hended]) (by rw [h.core, htaken])
    (by rw [h.core]; exact hl) (by rw [h.core, hc])
  rw [e, h.core]
  exact (h.setObj o).setCore _

/-- The bundle of one syllable that acted without branch, event or end. -/
theorem State.Becomes.finishBundle {l : List Land} {skip : Option Addr48} {tiles : List Nat} (h : State.Becomes s t n (c.acted y l skip tiles) mem tags)
    (hy : y.slot < 7) (hl : ∀ k < 4, c.readLc k = 0#32 ∨ c.readLe k ≠ c.pc) (hc : anyClash (dueNow l) = false) :
    State.Becomes s (t.finishBundle n) n (c.finished (skip.getD (c.pc + 16)) l tiles) mem tags := by
  have hlen : (c.acted y l skip tiles).bundleLen = 16 := by simp [Core.bundleLen, Core.acted, Core.ready, hy]
  have hpassed : (c.acted y l skip tiles).passed = c.gone (skip.getD (c.pc + 16)) l tiles := by
    unfold Core.passed
    rw [hlen]
    rfl
  rw [Core.finished, ← hpassed]
  exact h.finish ⟨rfl, rfl, rfl, rfl⟩ hl hc

/-- An operation that only writes memory, puts results in flight and names the next bundle. -/
theorem acts_passes {op : CoreOp} {is : Issue} {l : List Land} {skip : Option Addr48} {tiles : List Nat}
    (h : s.Acts op is) (hold : sylHolds (s.looked op is) is.core.val (Issue.syl op is) = false)
    (hrun : ∀ u, State.Issuing s u is.core.val (Issue.syl op is) →
      State.Becomes s (runOp op (arg is) u) is.core.val ((s.core is.core.val).acted (Issue.syl op is) l skip tiles) mem tags)
    (hc : anyClash (dueNow l) = false) :
    State.Becomes s (s.stage op is) is.core.val ((s.core is.core.val).finished (skip.getD ((s.core is.core.val).pc + 16)) l tiles) mem tags := by
  obtain ⟨u, hu, e⟩ := acts_runs h hold
  rw [e]
  exact (hrun u hu).finishBundle (opInSlot_lt _ _ h.slot) h.noLoop hc

/-! ## What the end of the bundle leaves in the core -/

/-- What of a core tells where it stands in its program, and in which mode; no result that lands changes it. -/
def Core.control (c : Core) : Addr48 × Addr48 × Bool × List Land × List Syl × BundleRun × Bool × Nat :=
  (c.pc, c.lastPc, c.jobMode, c.inflight, c.bundle, c.run, c.held, c.heldCycles)

theorem control_ite {p : Prop} {inst : Decidable p} (hc : c.control = d.control) (he : e.control = d.control) : (if p then c else e).control = d.control := by
  split
  · exact hc
  · exact he

theorem setCtx_control (c : Core) (k : Nat) (x : Ctx) : (c.setCtx k x).control = c.control := by
  unfold Core.control Core.setCtx
  rfl

theorem updCur_control (c : Core) (f : Ctx → Ctx) : (c.updCur f).control = c.control := setCtx_control ..

theorem putCsr_control (c : Core) (i x : Nat) : (c.putCsr i x).control = c.control := by
  unfold Core.putCsr
  refine control_ite (by rfl) (control_ite (by rfl) ?_)
  refine control_ite (updCur_control ..) ?_
  iterate 19 refine control_ite (updCur_control ..) ?_
  iterate 3 refine control_ite (setCtx_control ..) ?_
  rfl

theorem writeG_control (c : Core) (i : Nat) (x : Word32) : (c.writeG i x).control = c.control := by
  obtain ⟨g, e⟩ := writeG_only c i x
  rw [e]
  rfl

theorem land_control (c : Core) (r : Land) : (c.land r).control = c.control := by
  have hwalker : ∀ {p : Prop} {inst : Decidable p} (k : Nat) (x : Walker) (i : Nat) (a : Addr48),
      ((if p then (c.stuck r).setWalker k x else c.stuck r).writeA i a).control = c.control := fun k x i a => by
    split
    · rfl
    · rfl
  unfold Core.land
  refine control_ite (writeG_control ..) (control_ite (hwalker ..) ?_)
  iterate 10 refine control_ite rfl ?_
  exact control_ite (putCsr_control ..) rfl

theorem landAll_control (c : Core) (l : List Land) : (c.landAll l).control = c.control := by
  induction l generalizing c with
  | nil => rfl
  | cons r l ih => exact (ih _).trans (land_control c r)

theorem cycled_control (c : Core) :
    c.cycled.control = (c.pc, c.lastPc, c.jobMode, c.later, c.bundle, c.run, c.held, c.heldCycles) := by
  obtain ⟨x, e⟩ := cycled_only (c := c)
  rw [e]
  rfl

theorem cycled_jobMode : c.cycled.jobMode = c.jobMode := congrArg (fun x => x.2.2.1) (cycled_control c)

/-- Behind a bundle that goes on, nothing is staged or held; the results that are not due count down. -/
theorem finished_control (c : Core) (next : Addr48) (l : List Land) (tiles : List Nat) :
    (c.finished next l tiles).control = (next, c.pc, c.jobMode, dueLater l, [], {}, false, 0) :=
  (landAll_control ..).trans (cycled_control _)

section
variable {l : List Land} {next : Addr48} {tiles : List Nat}

theorem finished_pc : (c.finished next l tiles).pc = next := congrArg (fun x => x.1) (finished_control c next l tiles)

theorem finished_jobMode : (c.finished next l tiles).jobMode = c.jobMode := congrArg (fun x => x.2.2.1) (finished_control c next l tiles)

theorem finished_inflight : (c.finished next l tiles).inflight = dueLater l := congrArg (fun x => x.2.2.2.1) (finished_control c next l tiles)

theorem finished_bundle : (c.finished next l tiles).bundle = [] := congrArg (fun x => x.2.2.2.2.1) (finished_control c next l tiles)

/-- Where nothing lands, the core keeps its registers. -/
theorem finished_none {wr : List Nat} (h : dueNow l = []) : Core.KeepsBut wr c (c.finished next l tiles) := by
  unfold Core.finished
  rw [h]
  exact gone_keeps.trans cycled_keeps

theorem falls_of_finished (h : State.Becomes s t n ((s.core n).finished ((s.core n).pc + 16) l tiles) mem tags) : falls n s t := by
  unfold falls
  rw [h.core]
  exact ⟨finished_pc, finished_bundle⟩

end

end Sys2Proof.Machine
end

section
namespace Sys2Proof.Machine
open Sys2Proof Sys2Proof.Claims

variable {s t u v : State} {n m k : Nat} {c d e : Core} {y : Syl}

/-! ## What the trace and the fault log leave of the cores -/

/-- A core without its trace ring and its in-service test. -/
def Core.bookless (c : Core) : Core :=
  { c with
    inTest := false, traceSeq := 0, traceHead := 0, traceCount := 0, traceMerged := 0, traceLast := none, traceDropPending := 0 }

theorem bookless_withTrace (c : Core) (seq : BitVec 32) (head count merged : Nat) (last : Option Nat) (dropped : Nat) :
    ({ c with traceSeq := seq, traceHead := head, traceCount := count, traceMerged := merged, traceLast := last, traceDropPending := dropped } : Core).bookless
      = c.bookless := rfl

/-- What does not read the trace ring of a core is the same of two cores that differ in it alone. -/
theorem Core.of_bookless {α : Type} (f : Core → α) (hf : ∀ c, f c.bookless = f c) (h : d.bookless = c.bookless) : f d = f c := by
  rw [← hf d, h, hf]

/-- Every core is as before but for its trace ring and its in-service test. -/
def CoresStand (s t : State) : Prop := ∀ m, (t.core m).bookless = (s.core m).bookless

theorem CoresStand.refl : CoresStand s s := fun _ => rfl

theorem CoresStand.of_cores (h : CoresStand s t) (e : u.cores = t.cores) : CoresStand s u := fun m => by
  rw [State.core, e]
  exact h m

theorem CoresStand.of_same {γ : Type} {p : State → γ} (h : CoresStand s t) (hu : Same p t u) (hp : ∀ s t, p t = p s → t.cores = s.cores) : CoresStand s u :=
  h.of_cores (hp _ _ hu.rest)

theorem CoresStand.trans (h : CoresStand s t) (h' : CoresStand t u) : CoresStand s u := fun m => (h' m).trans (h m)

theorem CoresStand.ite {p : Prop} {inst : Decidable p} (ht : CoresStand s t) (hu : CoresStand s u) : CoresStand s (if p then t else u) := by
  split
  · exact ht
  · exact hu

theorem CoresStand.setCore (h : CoresStand s t) (hc : c.bookless = (t.core n).bookless) : CoresStand s (t.setCore n c) := fun m => by
  rw [core_setCore]
  split
  next e =>
    subst e
    exact hc.trans (h m)
  next => exact h m

/-- A core of a state in which cores stand keeps its registers. -/
theorem Core.KeepsBut.of_bookless {wr : List Nat} (h : d.bookless = c.bookless) : Core.KeepsBut wr c d := by
  have hc : Core.KeepsBut wr c c.bookless := .of_eq rfl
  have hd : Core.KeepsBut wr d.bookless d := .of_eq rfl
  exact hc.trans (h ▸ hd)

/-- A core whose trace ring has taken a record. -/
def Core.recorded (c : Core) : Core :=
  { c with
    traceSeq := c.traceSeq + 1, traceHead := (c.traceHead + 1) % 2048, traceCount := min 2048 (c.traceCount + 1), traceLast := some c.portCycle,
    traceDropPending := 0 }

theorem traceWrite_cores (n type slot court tb payload : Nat) :
    (t.traceWrite n type slot court tb payload).cores = (t.setCore n (t.core n).recorded).cores := by
  unfold State.traceWrite
  extract_lets c w a s0 s1
  have h0 : s0.cores = t.cores := store_cores ..
  clear_value s0
  have h1 : s1.cores = t.cores := by
    simp only [s1]
    split
    · exact (countCore_keeps State.cores (fun _ _ _ _ => rfl) ..).trans h0
    · exact h0
  clear_value s1
  exact congrArg (fun l => Tbl.set (Core.reset n) l n c.recorded) h1

theorem traceWrite_stands (n type slot court tb payload : Nat) (h : CoresStand s t) : CoresStand s (t.traceWrite n type slot court tb payload) := by
  have hr : (t.core n).recorded.bookless = (t.core n).bookless := by
    unfold Core.recorded
    exact bookless_withTrace ..
  exact (h.setCore hr).of_cores (traceWrite_cores ..)

theorem trace_stands (n type slot court tb payload : Nat) (h : CoresStand s t) : CoresStand s (t.trace n type slot court tb payload) := by
  unfold State.trace
  extract_lets c busy full s1
  have h1 : CoresStand s s1 := .ite h (traceWrite_stands _ _ _ _ _ _ h)
  refine .ite (h.setCore (bookless_withTrace c ..)) (.ite ?_ ((traceWrite_stands _ _ _ _ _ _ h1).setCore (bookless_withTrace ..)))
  have h2 : CoresStand s (t.setCore n { c with traceSeq := c.traceSeq + 1, traceDropPending := c.traceDropPending + 1 }) :=
    h.setCore (bookless_withTrace c ..)
  exact h2.of_cores rfl

theorem traceJob_stands (n type payload : Nat) (h : CoresStand s t) : CoresStand s (t.traceJob n type payload) := trace_stands _ _ _ _ _ _ h

theorem logFault_stands (air tb grain cause action object court slot job info : Nat) (h : CoresStand s t) :
    CoresStand s (t.logFault air tb grain cause action object court slot job info) := by
  unfold State.logFault
  extract_lets _ _ _ s1 _ _ src _ s2 s3 _ s4
  have h1 : CoresStand s s1 := h.of_cores rfl
  have hx : src.cores = s1.cores := (Same.ite Same.refl (Same.refl.xspiWrite cores_recordless) : Same State.cores s1 src).rest
  have h2 : CoresStand s s2 := .ite (h1.of_cores hx) h1
  have h3 : CoresStand s s3 := .ite (h2.of_cores (Same.refl.replayLog cores_recordless).rest) h2
  have h4 : CoresStand s s4 := .ite (trace_stands _ _ _ _ _ _ h3) h3
  exact .ite (h4.of_cores (Same.refl.attend cores_recordless.toDictless (by decide)).rest) (h4.of_cores (Same.refl.settle cores_recordless.toDictless).rest)

theorem mapCores_stands (f : Core → Core) (hf : ∀ c, (f c).bookless = c.bookless) (h : CoresStand s t) : CoresStand s (t.mapCores f) := by
  unfold State.mapCores
  generalize t.cores = l
  induction l generalizing t with
  | nil => exact h
  | cons e l ih => exact ih (h.setCore (hf _))

theorem abandonSlices_stands (h : CoresStand s t) : CoresStand s t.abandonSlices := by
  unfold State.abandonSlices
  extract_lets l s1 src
  have h1 : CoresStand s s1 := h.of_cores rfl
  have hsrc : CoresStand s src := mapCores_stands _ (fun _ => rfl) h1
  exact .ite h (hsrc.of_cores rfl)

theorem fenceJob_stands (j cause pc info : Nat) (h : CoresStand s t) : CoresStand s (t.fenceJob j cause pc info) := by
  unfold State.fenceJob
  extract_lets x s1 _ s2 obj s3
  have h1 : CoresStand s s1 := abandonSlices_stands h
  have h3 : CoresStand s s3 := h1.of_cores rfl
  exact .ite (logFault_stands _ _ _ _ _ _ _ _ _ _ h3) h

/-! ## An event of a core -/

/-- The core whose running context has met an event. -/
def Core.raised (c : Core) (cause : Nat) (pc : Addr48) (info : BitVec 32) (entry : Addr48) : Core :=
  { c.updCur fun x => { x with evtCause := BitVec.ofNat 32 cause, evtPc := pc, evtInfo := info, fenced := c.jobMode } with
    jobMode := false, inflight := [], held := false, heldCycles := 0, bubble := 0, bundle := [], branched := false, stop := none, pc := entry,
    run := { c.run with dead := true } }

/-- An event changes core n as `Core.raised` says, and no other core, but for trace rings and tests. -/
theorem raise_core (s : State) (n cause : Nat) (pc : Addr48) (info : Option (BitVec 32)) : ∃ i e,
    ((s.raise n cause pc info).core n).bookless = ((s.core n).raised cause pc i e).bookless
      ∧ ∀ m, m ≠ n → ((s.raise n cause pc info).core m).bookless = (s.core m).bookless := by
  unfold State.raise
  extract_lets c iv s1 j c'
  have h1 : s1.cores = s.cores := by
    simp only [s1]
    split
    · rfl
    · rfl
  refine ⟨iv, runtimeEntry n s1.free, (fenceJob_stands _ _ _ _ .refl n).trans ?_, fun m hm => (fenceJob_stands _ _ _ _ .refl m).trans ?_⟩
  · rw [core_setCore, if_pos rfl]
    rfl
  · rw [core_setCore, if_neg hm, State.core, bumpFree_cores, h1]
    rfl

/-- What an event leaves in its core: the event registers name it, the core is in runtime mode with nothing in flight, and the registers stand. -/
structure Core.Raised (c d : Core) (cause : Nat) (pc : Addr48) : Prop where
  cause : d.curCtx.evtCause = BitVec.ofNat 32 cause
  pc : d.curCtx.evtPc = pc
  jobMode : d.jobMode = false
  inflight : d.inflight = []
  g : ∀ i, d.readG i = c.readG i
  a : ∀ i, d.readA i = c.readA i
  v : ∀ i, d.readV i = c.readV i

theorem Core.Raised.congr {cause : Nat} {pc : Addr48} (h : Core.Raised c d cause pc) (hd : e.bookless = d.bookless) : Core.Raised c e cause pc where
  cause := (congrArg (fun c : Core => c.curCtx.evtCause) hd).trans h.cause
  pc := (congrArg (fun c : Core => c.curCtx.evtPc) hd).trans h.pc
  jobMode := (congrArg Core.jobMode hd).trans h.jobMode
  inflight := (congrArg Core.inflight hd).trans h.inflight
  g i := (congrArg (fun c : Core => c.readG i) hd).trans (h.g i)
  a i := (congrArg (fun c : Core => c.readA i) hd).trans (h.a i)
  v i := (congrArg (fun c : Core => c.readV i) hd).trans (h.v i)

theorem raised_curCtx (c : Core) (cause : Nat) (pc : Addr48) (i : BitVec 32) (e : Addr48) :
    (c.raised cause pc i e).curCtx = { c.curCtx with evtCause := BitVec.ofNat 32 cause, evtPc := pc, evtInfo := i, fenced := c.jobMode } :=
  (ctx_updCur c (fun x => { x with evtCause := BitVec.ofNat 32 cause, evtPc := pc, evtInfo := i, fenced := c.jobMode }) c.cur).trans (if_pos rfl)

theorem raised_raised (c : Core) (cause : Nat) (pc : Addr48) (i : BitVec 32) (e : Addr48) : Core.Raised c (c.raised cause pc i e) cause pc :=
  ⟨by rw [raised_curCtx], by rw [raised_curCtx], rfl, rfl, fun _ => rfl, fun _ => rfl, fun _ => rfl⟩

theorem raise_raised (s : State) (n cause : Nat) (pc : Addr48) (info : Option (BitVec 32)) :
    Core.Raised (s.core n) ((s.raise n cause pc info).core n) cause pc := by
  obtain ⟨i, e, h, -⟩ := raise_core s n cause pc info
  exact (raised_raised _ _ _ _ _).congr h

/-- A bundle that met an event ends without another effect. -/
theorem finishBundle_raise (s : State) (n cause : Nat) (pc : Addr48) (info : Option (BitVec 32)) :
    Core.Raised (s.core n) (((s.raise n cause pc info).finishBundle n).core n) cause pc := by
  obtain ⟨i, e, h, -⟩ := raise_core s n cause pc info
  have hdead : ((s.raise n cause pc info).core n).run.dead = true := congrArg (fun c : Core => c.run.dead) h
  have hend : ((s.raise n cause pc info).finishBundle n).core n = { (s.raise n cause pc info).core n with bundle := [], run := {} } := by
    unfold State.finishBundle
    extract_lets c next s1 l x
    rw [if_pos hdead]
    exact (core_updCore ..).trans (if_pos rfl)
  obtain ⟨hcause, hpc, hjob, hfl, hg, ha, hv⟩ := raise_raised s n cause pc info
  rw [hend]
  exact ⟨hcause, hpc, hjob, hfl, hg, ha, hv⟩

/-- Only TWAIT, TACQ and VMRD are looked at for a hold. -/
theorem looked_notHeld {op : CoreOp} (is : Issue) (h1 : op ≠ .twait) (h2 : op ≠ .tacq) (h3 : op ≠ .vmrd) :
    sylHolds (s.looked op is) is.core.val (Issue.syl op is) = false := sylHolds_false _ _ _ h1 h2 h3

/-- A syllable whose operation raises an event ends its bundle with it. -/
theorem acts_raises {op : CoreOp} {is : Issue} {cause : Nat} {pc : Addr48} (h : s.Acts op is) (h1 : op ≠ .twait) (h2 : op ≠ .tacq) (h3 : op ≠ .vmrd)
    (hrun : ∀ u, State.Issuing s u is.core.val (Issue.syl op is) → ∃ info, runOp op (arg is) u = u.raise is.core.val cause pc info) :
    Core.Raised (s.core is.core.val) ((s.stage op is).core is.core.val) cause pc := by
  obtain ⟨u, hu, e⟩ := acts_runs h (looked_notHeld is h1 h2 h3)
  obtain ⟨info, hr⟩ := hrun u hu
  rw [e, hr]
  obtain ⟨hcause, hpc, hjob, hfl, hg, ha, hv⟩ := finishBundle_raise u is.core.val cause pc info
  rw [hu.core] at hg ha hv
  exact ⟨hcause, hpc, hjob, hfl, hg, ha, hv⟩

end Sys2Proof.Machine
end

section
namespace Sys2Proof.Machine
open Sys2Proof Sys2Proof.Claims

variable {s t u v : State} {n m k : Nat} {c d e : Core} {y : Syl}

/-! ## Scalar results that land -/

theorem stuck_plainLand (c : Core) (i x : Nat) : c.stuck (plainLand i x) = c := sticky_or_zero c

theorem truncate_ofNat {w : Nat} (hw : w ≤ 1024) (x : Nat) : (BitVec.ofNat 1024 x).truncate w = BitVec.ofNat w x := BitVec.setWidth_ofNat_of_le hw x

theorem land_plain_keeps {wr : List Nat} {i x : Nat} (hp : isPlainDest i) (hd : i ∈ wr) (hu : 0x2C ≤ i → i < 0x30 → 0x100 ∈ wr) :
    Core.KeepsBut wr c (c.land (plainLand i x)) :=
  land_keeps hp hd (.inl rfl) fun h hub => hu hub.1 h

theorem landAll_plain_keeps {wr : List Nat} {l : List Land}
    (hl : ∀ r ∈ l, isPlainDest r.dest ∧ r.dest ∈ wr ∧ (0x2C ≤ r.dest → r.dest < 0x30 → 0x100 ∈ wr) ∧ r.sticky = 0#8) :
    Core.KeepsBut wr c (c.landAll l) := by
  induction l generalizing c with
  | nil => exact .refl
  | cons r l ih =>
    obtain ⟨hp, hd, hu, hs⟩ := hl r (by simp)
    exact (land_keeps hp hd (.inl hs) fun h hub => hu hub.1 h).trans (ih fun q hq => hl q (by simp [hq]))

section
variable (c : Core) {i : Nat} (x : Nat)

theorem land_plain_g (h : i < 0x20) : c.land (plainLand i x) = c.writeG i (BitVec.ofNat 32 x) := by
  rw [land_g h, stuck_plainLand]
  exact congrArg (c.writeG i) (truncate_ofNat (by decide) x)

theorem land_plain_readG (h : i < 0x20) : (c.land (plainLand i x)).readG i = if i = 0 then 0#32 else BitVec.ofNat 32 x := by
  rw [land_plain_g c x h, readG_writeG]
  by_cases hi : i = 0
  · rw [if_neg (by simp [hi]), if_pos hi, hi]
    rfl
  · rw [if_pos ⟨rfl, hi⟩, if_neg hi]

theorem land_plain_readA (h1 : 0x20 ≤ i) (h2 : i < 0x30) : (c.land (plainLand i x)).readA (i - 0x20) = BitVec.ofNat 48 x := by
  rcases land_a (c := c) (r := plainLand i x) h1 h2 with ⟨-, e⟩ | ⟨-, e⟩
  · rw [e]
    exact ((readA_writeA ..).trans (if_pos rfl)).trans (truncate_ofNat (by decide) x)
  · rw [e]
    exact ((readA_writeA ..).trans (if_pos rfl)).trans (truncate_ofNat (by decide) x)

theorem unbound_walker (c : Core) (k : Nat) : ((c.unbound k).walker k).bound = false := by
  have hcur : (c.unbound k).curCtx = { c.curCtx with walkers := Tbl.set {} c.curCtx.walkers k { c.walker k with bound := false } } :=
    (ctx_updCur c (fun x => { x with walkers := Tbl.set {} x.walkers k { c.walker k with bound := false } }) c.cur).trans (if_pos rfl)
  rw [Core.walker, hcur]
  exact congrArg Walker.bound ((Tbl.get_set ..).trans (if_pos rfl))

theorem land_plain_walker (h1 : 0x2C ≤ i) (h2 : i < 0x30) (hm : c.jobMode = true) : ((c.land (plainLand i x)).walker (i - 0x2C)).bound = false := by
  rcases land_a (c := c) (r := plainLand i x) (show 0x20 ≤ i by omega) h2 with ⟨-, e⟩ | ⟨h, -⟩
  · rw [e, stuck_plainLand]
    exact unbound_walker c (i - 0x2C)
  · exact absurd ⟨h1, show kindPlain ≠ kindWalker by decide, show kindPlain ≠ kindVtset by decide, hm⟩ h

theorem land_plain_lc (h1 : 0x60 ≤ i) (h2 : i < 0x64) : c.land (plainLand i x) = { c with lc := Tbl.set 0#32 c.lc (i - 0x60) (BitVec.ofNat 32 x) } := by
  rw [land_lc h1 h2, stuck_plainLand, show (plainLand i x).value.truncate 32 = BitVec.ofNat 32 x from truncate_ofNat (by decide) x]
  rfl

theorem land_plain_ls (h1 : 0x64 ≤ i) (h2 : i < 0x68) : c.land (plainLand i x) = { c with ls := Tbl.set 0#48 c.ls (i - 0x64) (BitVec.ofNat 48 x) } := by
  rw [land_ls h1 h2, stuck_plainLand, show (plainLand i x).value.truncate 48 = BitVec.ofNat 48 x from truncate_ofNat (by decide) x]
  rfl

theorem land_plain_le (h1 : 0x68 ≤ i) (h2 : i < 0x6C) : c.land (plainLand i x) = { c with le := Tbl.set 0#48 c.le (i - 0x68) (BitVec.ofNat 48 x) } := by
  rw [land_le h1 h2, stuck_plainLand, show (plainLand i x).value.truncate 48 = BitVec.ofNat 48 x from truncate_ofNat (by decide) x]
  rfl

theorem land_plain_vl : c.land (plainLand 0x6C x) = { c with vl := BitVec.ofNat 8 x } := by
  rw [land_vl rfl, stuck_plainLand, show (plainLand 0x6C x).value.truncate 8 = BitVec.ofNat 8 x from truncate_ofNat (by decide) x]

theorem land_plain_csr {i : Nat} (h : i < 0xF00) : c.land (plainLand (destCsr i) x) = c.putCsr i (x % 2 ^ 64) := by
  rw [land_csr (by simp [plainLand, destCsr]) (by simp [plainLand, destCsr]; omega), stuck_plainLand]
  have hv : ((plainLand (destCsr i) x).value.truncate 64).toNat = x % 2 ^ 64 :=
    (congrArg BitVec.toNat (truncate_ofNat (by decide) x)).trans (BitVec.toNat_ofNat ..)
  rw [hv]
  exact congrArg (c.putCsr · (x % 2 ^ 64)) (by simp [plainLand, destCsr])

end

/-- Results of one cycle that land at once: those of scalars of latency 1. -/
theorem dueNow_plain {l : List Land} (h : ∀ r ∈ l, r.remain = 1) : dueNow l = l :=
  List.filter_eq_self.2 fun r hr => by simp [h r hr]

theorem dueLater_plain {l : List Land} (h : ∀ r ∈ l, r.remain = 1) : dueLater l = [] := by
  have hl : (l.filter fun r => decide (1 < r.remain)) = [] := List.filter_eq_nil_iff.2 fun r hr => by simp [h r hr]
  unfold dueLater
  rw [hl]
  rfl

/-- An operation that only puts results of latency 1 in flight and names the next bundle: they land in the cycle that ends the bundle. -/
theorem acts_lands {op : CoreOp} {is : Issue} {l : List Land} {skip : Option Addr48} (h : s.Acts op is) (h1 : op ≠ .twait) (h2 : op ≠ .tacq)
    (h3 : op ≠ .vmrd) (hl : ∀ r ∈ l, r.remain = 1) (hc : anyClash l = false)
    (hrun : ∀ u, State.Issuing s u is.core.val (Issue.syl op is) →
      State.Becomes s (runOp op (arg is) u) is.core.val ((s.core is.core.val).acted (Issue.syl op is) l skip (s.core is.core.val).tileCache) s.mem s.tags) :
    State.Becomes s (s.stage op is) is.core.val
      (((s.core is.core.val).gone (skip.getD ((s.core is.core.val).pc + 16)) l (s.core is.core.val).tileCache).cycled.landAll l) s.mem s.tags := by
  have hb := acts_passes h (sylHolds_false _ _ _ h1 h2 h3) hrun (by rw [dueNow_plain hl, hc])
  rwa [Core.finished, dueNow_plain hl] at hb

/-- The core in which the syllable is ready to act, with nothing in flight. -/
theorem acted_nil (hi : c.inflight = []) : c.ready y = c.acted y [] none c.tileCache := by
  unfold Core.acted Core.ready
  rw [← hi]

theorem falls_of_landed {l p : List Land} {tiles : List Nat}
    (h : State.Becomes s t n (((s.core n).gone ((s.core n).pc + 16) l tiles).cycled.landAll p) s.mem s.tags) : falls n s t := by
  have hc : (t.core n).control = ((s.core n).gone ((s.core n).pc + 16) l tiles).cycled.control := by
    rw [h.core, landAll_control]
  rw [cycled_control] at hc
  exact ⟨congrArg (fun x => x.1) hc, congrArg (fun x => x.2.2.2.2.1) hc⟩

/-- An operation whose one result, of latency 1, is for the g or a register D. -/
theorem plain_of_result {mk : Issue → Instr} {op : CoreOp} {ok : State → SylArg → Prop} {f : State → SylArg → Nat}
    (hexec : ∀ is s, exec (mk is) s = .next (s.stage op is)) (h1 : op ≠ .twait) (h2 : op ≠ .tacq) (h3 : op ≠ .vmrd)
    (hdest : ∀ slot b, sylLegal op slot b = true → sylD b < 0x30)
    (hrun : ∀ is s u, s.Acts op is → ok s (arg is) → State.Issuing s u is.core.val (Issue.syl op is) →
      runOp op (arg is) u = u.result1 is.core.val (sylD is.body) (f s (arg is))) : plain mk op ok f := by
  intro is s h hok n d
  have hd : d < 0x30 := hdest _ _ h.legal
  have hb := acts_lands (l := [plainLand d (f s (arg is))]) (skip := none) h h1 h2 h3 (by simp [plainLand]) (by simp [anyClash]) fun u hu => by
    rw [hrun is s u h hok hu]
    rw [State.Issuing, acted_nil h.inflight] at hu
    exact hu.result1 d (f s (arg is))
  have hland : (s.stage op is).core n
      = ((s.core n).gone ((s.core n).pc + 16) [plainLand d (f s (arg is))] (s.core n).tileCache).cycled.land (plainLand d (f s (arg is))) := hb.core
  refine ⟨_, hexec is s, fun hg => ?_, fun ha => ?_, fun hw hm => ?_, falls_of_landed hb, hb.onlyCore, hb.frame ?_⟩
  · rw [hland, land_plain_readG _ _ hg]
  · rw [hland, land_plain_readA _ _ ha hd]
  · rw [hland]
    exact land_plain_walker _ _ hw hd (cycled_jobMode.trans hm)
  · refine (gone_keeps.trans cycled_keeps).trans (land_plain_keeps (.inl hd) ?_ fun hw _ => ?_)
    · split
      · simp
      · simp
    · rw [if_pos hw]
      simp

end Sys2Proof.Machine
end

section
namespace Sys2Proof.Machine
open Sys2Proof Sys2Proof.Claims

variable {s t u v : State} {n m k : Nat} {c d e : Core} {y : Syl}

/-! ## Loop registers, vl and the table bank -/

theorem sylLvl_lt (b : BitVec 64) : sylLvl b < 4 := Nat.mod_lt _ (by decide)

theorem State.Issuing.srcA (h : State.Issuing s u n y) {slot : Nat} {b : BitVec 64} {e : EccFind} : srcA u ⟨n, slot, b, e⟩ = srcA s ⟨n, slot, b, e⟩ := by
  rw [Machine.srcA, h.core]
  rfl

theorem State.Issuing.srcAddr (h : State.Issuing s u n y) {slot : Nat} {b : BitVec 64} {e : EccFind} :
    srcAddr u ⟨n, slot, b, e⟩ = srcAddr s ⟨n, slot, b, e⟩ := by
  rw [Machine.srcAddr, h.core]
  rfl

theorem State.Issuing.pc (h : State.Issuing s u n y) : (u.core n).pc = (s.core n).pc := by
  rw [h.core]
  rfl

/-- A fault of an operation ends its bundle with the event. -/
theorem State.Issuing.fault_pc {op : CoreOp} {is : Issue} {cause : Nat} (hu : State.Issuing s u is.core.val (Issue.syl op is)) (hcause : cause < 0x20)
    (info : Option (BitVec 32)) :
    u.fault (arg is) cause info = u.raise is.core.val cause (s.core is.core.val).pc info := by
  unfold State.fault
  rw [if_pos hcause, show (u.core (arg is).n).pc = (s.core is.core.val).pc from hu.pc]
  rfl

/-- The count that LOOP sets. -/
def loopCount (s : State) (is : Issue) : Nat := if sylCI is.body then sylCount is.body else (srcA s (arg is)).toNat

/-- The address of the last bundle of the body that LOOP sets up. -/
def loopEnd (s : State) (is : Issue) : Addr48 := (s.core is.core.val).pc + BitVec.ofNat 48 (sylEnd is.body)

/-- The results of LOOP: count, start and end of its level. -/
def loopResults (k m : Nat) (ls le : Addr48) : List Land := [plainLand (0x60 + k) m, plainLand (0x64 + k) ls.toNat, plainLand (0x68 + k) le.toNat]

/-- A core whose loop level k is set up. -/
def Core.looping (c : Core) (k m : Nat) (ls le : Addr48) : Core :=
  { c with lc := Tbl.set 0#32 c.lc k (BitVec.ofNat 32 m), ls := Tbl.set 0#48 c.ls k ls, le := Tbl.set 0#48 c.le k le }

theorem landAll_loopResults (c : Core) (hk : k < 4) (m : Nat) (ls le : Addr48) : c.landAll (loopResults k m ls le) = c.looping k m ls le := by
  unfold loopResults
  rw [Core.landAll, Core.landAll, Core.landAll, Core.landAll, land_plain_le _ _ (by omega) (by omega), land_plain_ls _ _ (by omega) (by omega),
    land_plain_lc _ _ (by omega) (by omega)]
  simp [Core.looping]

theorem looping_reads (c : Core) (k m : Nat) (ls le : Addr48) :
    (c.looping k m ls le).readLc k = BitVec.ofNat 32 m ∧ (c.looping k m ls le).readLs k = ls ∧ (c.looping k m ls le).readLe k = le :=
  ⟨(Tbl.get_set ..).trans (if_pos rfl), (Tbl.get_set ..).trans (if_pos rfl), (Tbl.get_set ..).trans (if_pos rfl)⟩

theorem looping_keeps (c : Core) (k m : Nat) (ls le : Addr48) : Core.KeepsBut [0x60 + k, 0x64 + k, 0x68 + k] c (c.looping k m ls le) :=
  ((setLc_keeps (by simp)).trans (setLs_keeps (by simp))).trans (setLe_keeps (by simp))

/-- Where LOOP goes on: behind the body for a count of 0. -/
def loopSkip (s : State) (is : Issue) : Option Addr48 :=
  if loopCount s is = 0 then some (loopEnd s is + BitVec.ofNat 48 (s.bundleLenAt (loopEnd s is).toNat)) else none

theorem bundleLen_one (hb : c.bundle = [y]) (hy : y.slot < 7) : c.bundleLen = 16 := by simp [Core.bundleLen, hb, hy]

theorem State.Issuing.bundleLen (h : State.Issuing s u n y) (hy : y.slot < 7) : (u.core n).bundleLen = 16 := bundleLen_one (by rw [h.core]; rfl) hy

theorem State.Issuing.loopAllowed (h : State.Issuing s u n y) (k : Nat) (ls le : Addr48) :
    (u.core n).loopAllowed k ls le = (s.core n).loopAllowed k ls le := by
  rw [h.core]
  rfl

/-- LOOP where R64 allows the body. -/
theorem opLoop_sets {is : Issue} (h : s.Acts .loop is) (hu : State.Issuing s u is.core.val (Issue.syl .loop is))
    (ha : (s.core is.core.val).loopAllowed (sylLvl is.body) ((s.core is.core.val).pc + 16) (loopEnd s is) = true) :
    State.Becomes s (opLoop (arg is) u) is.core.val ((s.core is.core.val).acted (Issue.syl .loop is)
      (loopResults (sylLvl is.body) (loopCount s is) ((s.core is.core.val).pc + 16) (loopEnd s is)) (loopSkip s is) (s.core is.core.val).tileCache) s.mem s.tags := by
  have hlen : (u.core is.core.val).bundleLen = 16 := hu.bundleLen (opInSlot_lt _ _ h.slot)
  have hcount : (if sylCI is.body then sylCount is.body else (srcA u (arg is)).toNat) = loopCount s is := by
    rw [show srcA u (arg is) = srcA s (arg is) from hu.srcA]
    rfl
  have hpc : (u.core is.core.val).pc = (s.core is.core.val).pc := hu.pc
  have hmem : ∀ a, u.bundleLenAt a = s.bundleLenAt a := fun a => by rw [State.bundleLenAt, hu.mem_eq]; rfl
  unfold opLoop
  extract_lets c k m ls le s1
  have hm : m = loopCount s is := hcount
  have hls : ls = (s.core is.core.val).pc + 16 := by
    simp only [ls, c, show (arg is).n = is.core.val from rfl, hlen, hpc]
    rfl
  have hle : le = loopEnd s is := congrArg (· + BitVec.ofNat 48 (sylEnd is.body)) hpc
  have h1 : State.Becomes s s1 is.core.val ((s.core is.core.val).acted (Issue.syl .loop is)
      (loopResults (sylLvl is.body) (loopCount s is) ((s.core is.core.val).pc + 16) (loopEnd s is)) none (s.core is.core.val).tileCache) s.mem s.tags := by
    simp only [s1, hm, hls, hle]
    rw [State.Issuing, acted_nil h.inflight] at hu
    exact ((hu.result1 ..).result1 ..).result1 ..
  rw [show c.loopAllowed k ls le = true from (hu.loopAllowed ..).trans (by rw [hls, hle]; exact ha), if_pos rfl]
  unfold loopSkip
  by_cases h0 : m = 0
  · rw [if_pos h0, if_pos (hm ▸ h0), hmem, hle]
    exact h1.updCore _
  · rw [if_neg h0, if_neg (hm ▸ h0)]
    exact h1

/-- LOOP elsewhere. -/
theorem opLoop_raises {is : Issue} (h : s.Acts .loop is) (hu : State.Issuing s u is.core.val (Issue.syl .loop is))
    (ha : (s.core is.core.val).loopAllowed (sylLvl is.body) ((s.core is.core.val).pc + 16) (loopEnd s is) = false) :
    opLoop (arg is) u = u.raise is.core.val evLOOP (s.core is.core.val).pc none := by
  have hlen : (u.core is.core.val).bundleLen = 16 := hu.bundleLen (opInSlot_lt _ _ h.slot)
  unfold opLoop
  extract_lets c k m ls le s1
  have hls : ls = (s.core is.core.val).pc + 16 := by
    simp only [ls, c, show (arg is).n = is.core.val from rfl, hlen, hu.pc]
    rfl
  have hle : le = loopEnd s is := congrArg (· + BitVec.ofNat 48 (sylEnd is.body)) hu.pc
  have hno : c.loopAllowed k ls le = false := (hu.loopAllowed ..).trans (by rw [hls, hle]; exact ha)
  rw [if_neg (by rw [hno]; exact Bool.false_ne_true), hu.fault_pc (by decide)]

theorem loop_spec (is : Issue) (s : State) (h : s.Acts .loop is) :
    let n := is.core.val
    let c := s.core n
    let k := sylLvl is.body
    let m := if sylCI is.body then sylCount is.body else (srcA s (arg is)).toNat
    let le := c.pc + BitVec.ofNat 48 (sylEnd is.body)
    (c.loopAllowed k (c.pc + 16) le = true → ∃ t, exec (.loop is) s = .next t
      ∧ (t.core n).readLc k = BitVec.ofNat 32 m ∧ (t.core n).readLs k = c.pc + 16 ∧ (t.core n).readLe k = le
      ∧ (t.core n).pc = (if m = 0 then le + BitVec.ofNat 48 (s.bundleLenAt le.toNat) else c.pc + 16)
      ∧ onlyCore s t ∧ frame n [0x60 + k, 0x64 + k, 0x68 + k] s t)
    ∧ (c.loopAllowed k (c.pc + 16) le = false → c.jobMode = true →
      ∃ t, exec (.loop is) s = .next t ∧ (t.core n).curCtx.evtCause = 0x15#32 ∧ (t.core n).curCtx.evtPc = c.pc) := by
  intro n c k m le
  have hk : k < 4 := sylLvl_lt is.body
  refine ⟨fun ha => ?_, fun ha _ => ?_⟩
  · have hb := acts_lands h (by decide) (by decide) (by decide) (by simp [loopResults, plainLand])
      (by simp [loopResults, anyClash, sameDest, plainLand]; omega) fun u hu => opLoop_sets h hu ha
    rw [landAll_loopResults _ hk] at hb
    obtain ⟨hlc, hls, hle⟩ := looping_reads ((s.core n).gone ((loopSkip s is).getD ((s.core n).pc + 16))
      (loopResults k (loopCount s is) ((s.core n).pc + 16) (loopEnd s is)) (s.core n).tileCache).cycled k (loopCount s is) ((s.core n).pc + 16) (loopEnd s is)
    refine ⟨_, rfl, by rw [hb.core]; exact hlc, by rw [hb.core]; exact hls, by rw [hb.core]; exact hle, ?_, hb.onlyCore,
      hb.frame ((gone_keeps.trans cycled_keeps).trans (looping_keeps ..))⟩
    rw [hb.core]
    refine (congrArg (fun x => x.1) (cycled_control _)).trans ?_
    show (loopSkip s is).getD (c.pc + 16) = _
    unfold loopSkip
    by_cases h0 : m = 0
    · rw [if_pos (show loopCount s is = 0 from h0), if_pos h0]
      rfl
    · rw [if_neg (show ¬ loopCount s is = 0 from h0), if_neg h0]
      rfl
  · have hr : Core.Raised (s.core n) ((s.stage .loop is).core n) evLOOP (s.core n).pc :=
      acts_raises h (by decide) (by decide) (by decide) fun u hu => ⟨none, opLoop_raises h hu ha⟩
    exact ⟨_, rfl, hr.cause, hr.pc⟩

end Sys2Proof.Machine
end

section
namespace Sys2Proof.Machine
open Sys2Proof Sys2Proof.Claims

variable {s t u v : State} {n m k : Nat} {c d e : Core} {y : Syl}

theorem sylLegal_fields {op : CoreOp} {slot : Nat} {b : BitVec 64} (h : sylLegal op slot b = true) : fieldsLegal op slot b = true :=
  (Bool.and_eq_true_iff.1 h).2

theorem formR_d {b : BitVec 64} {d a bb et fn : Nat → Bool} (h : formR b d a bb et fn = true) : d (sylD b) = true := by
  simp only [formR, Bool.and_eq_true] at h
  obtain ⟨⟨⟨⟨⟨hd, -⟩, -⟩, -⟩, -⟩, -⟩ := h
  exact hd

/-- MVFL moves a count to a g register, another loop register to an a register (R98). -/
theorem mvfl_dest {slot : Nat} {b : BitVec 64} (h : sylLegal .mvfl slot b = true) : sylD b < 0x30 := by
  have hf : formR b (fun d => (isLc (sylA b) && isG d) || (isLse (sylA b) && isA d)) anyF anyF anyF anyF = true := sylLegal_fields h
  have hd := formR_d hf
  simp only [isLc, isLse, isG, isA, Bool.or_eq_true, Bool.and_eq_true, decide_eq_true_eq] at hd
  omega

theorem mvfl_plain : plain .mvfl .mvfl (fun _ _ => True) (fun s x =>
    if sylA x.body < 0x64 then ((s.core x.n).readLc (sylA x.body - 0x60)).toNat
    else if sylA x.body < 0x68 then ((s.core x.n).readLs (sylA x.body - 0x64)).toNat else ((s.core x.n).readLe (sylA x.body - 0x68)).toNat) :=
  plain_of_result (fun _ _ => rfl) (by decide) (by decide) (by decide) (fun _ _ => mvfl_dest) fun is s u _ _ hu => by
    show opMvfl (arg is) u = _
    unfold opMvfl
    rw [show u.core (arg is).n = (s.core is.core.val).ready (Issue.syl .mvfl is) from hu.core]
    rfl

theorem mvtl_dest {slot : Nat} {b : BitVec 64} (h : sylLegal .mvtl slot b = true) : 0x60 ≤ sylD b ∧ sylD b < 0x6C := by
  have hf : formR b (fun d => (isLc d && isG (sylA b)) || (isLse d && isA (sylA b))) anyF anyF anyF anyF = true := sylLegal_fields h
  have hd := formR_d hf
  simp only [isLc, isLse, Bool.or_eq_true, Bool.and_eq_true, decide_eq_true_eq] at hd
  omega

/-- The value that MVTL moves. -/
def mvtlValue (s : State) (is : Issue) : Nat := if sylD is.body < 0x64 then (srcA s (arg is)).toNat else (srcAddr s (arg is)).toNat

theorem opMvtl_moves {is : Issue} (hu : State.Issuing s u is.core.val (Issue.syl .mvtl is))
    (ha : sylD is.body < 0x64 → srcA s (arg is) = 0#32 ∨ (s.core is.core.val).loopAllowed (sylD is.body - 0x60)
      ((s.core is.core.val).readLs (sylD is.body - 0x60)) ((s.core is.core.val).readLe (sylD is.body - 0x60)) = true) :
    opMvtl (arg is) u = u.result1 is.core.val (sylD is.body) (mvtlValue s is) := by
  unfold opMvtl mvtlValue
  extract_lets c d
  have hc : c = (s.core is.core.val).ready (Issue.syl .mvtl is) := hu.core
  have hallowed : c.loopAllowed (d - 0x60) (c.readLs (d - 0x60)) (c.readLe (d - 0x60))
      = (s.core is.core.val).loopAllowed (d - 0x60) ((s.core is.core.val).readLs (d - 0x60)) ((s.core is.core.val).readLe (d - 0x60)) := by
    rw [hc]
    rfl
  rw [show srcA u (arg is) = srcA s (arg is) from hu.srcA, show srcAddr u (arg is) = srcAddr s (arg is) from hu.srcAddr]
  by_cases hd : d < 0x64
  · rw [if_pos hd, if_pos (show sylD is.body < 0x64 from hd), if_neg]
    · rfl
    rintro ⟨h0, hno⟩
    exact hno (hallowed.trans ((ha hd).resolve_left h0))
  · rw [if_neg hd, if_neg (show ¬ sylD is.body < 0x64 from hd)]
    rfl

theorem mvtl_spec (is : Issue) (s : State) (h : s.Acts .mvtl is) :
    let n := is.core.val
    let c := s.core n
    let d := sylD is.body
    (d < 0x64 → srcA s (arg is) = 0#32 ∨ c.loopAllowed (d - 0x60) (c.readLs (d - 0x60)) (c.readLe (d - 0x60)) = true) →
    ∃ t, exec (.mvtl is) s = .next t
      ∧ (d < 0x64 → (t.core n).readLc (d - 0x60) = srcA s (arg is))
      ∧ (0x64 ≤ d → d < 0x68 → (t.core n).readLs (d - 0x64) = srcAddr s (arg is))
      ∧ (0x68 ≤ d → (t.core n).readLe (d - 0x68) = srcAddr s (arg is))
      ∧ falls n s t ∧ onlyCore s t ∧ frame n [d] s t := by
  intro n c d ha
  obtain ⟨h60, h6c⟩ : 0x60 ≤ d ∧ d < 0x6C := mvtl_dest h.legal
  have hb := acts_lands (l := [plainLand d (mvtlValue s is)]) (skip := none) h (by decide) (by decide) (by decide) (by simp [plainLand])
    (by simp [anyClash]) fun u hu => by
      rw [show runOp .mvtl (arg is) u = _ from opMvtl_moves hu ha]
      rw [State.Issuing, acted_nil h.inflight] at hu
      exact hu.result1 ..
  have hland : (s.stage .mvtl is).core n
      = ((s.core n).gone ((s.core n).pc + 16) [plainLand d (mvtlValue s is)] (s.core n).tileCache).cycled.land (plainLand d (mvtlValue s is)) := hb.core
  refine ⟨_, rfl, fun hd => ?_, fun hd hd' => ?_, fun hd => ?_, falls_of_landed hb, hb.onlyCore, hb.frame ?_⟩
  · rw [hland, land_plain_lc _ _ h60 hd, mvtlValue, if_pos hd]
    exact ((Tbl.get_set ..).trans (if_pos rfl)).trans (by simp)
  · rw [hland, land_plain_ls _ _ hd hd', mvtlValue, if_neg (Nat.not_lt.2 hd)]
    exact ((Tbl.get_set ..).trans (if_pos rfl)).trans (by simp)
  · rw [hland, land_plain_le _ _ hd h6c, mvtlValue, if_neg (by show ¬ d < 0x64; omega)]
    exact ((Tbl.get_set ..).trans (if_pos rfl)).trans (by simp)
  · exact (gone_keeps.trans cycled_keeps).trans (land_plain_keeps (.inr ⟨by omega, by omega⟩) (by simp) fun _ hw => by omega)

theorem landAll_length (c : Core) (i x : Nat) :
    c.landAll [plainLand i x, plainLand 0x6C x] = { c.land (plainLand i x) with vl := BitVec.ofNat 8 x } :=
  land_plain_vl (c.land (plainLand i x)) x

theorem vsetvl_dest {slot : Nat} {b : BitVec 64} (h : sylLegal .vsetvl slot b = true) : sylD b < 0x20 := by
  have hf := sylLegal_fields h
  simp only [fieldsLegal, isG, Bool.and_eq_true, decide_eq_true_eq] at hf
  exact hf.1.1

theorem vsetvl_spec (is : Issue) (s : State) (h : s.Acts .vsetvl is) :
    let n := is.core.val
    let v := min 128 (if sylA is.body = 0 then (sylImm is.body).toNat else (srcA s (arg is)).toNat)
    ∃ t, exec (.vsetvl is) s = .next t
      ∧ (t.core n).vl = BitVec.ofNat 8 v ∧ (t.core n).readG (sylD is.body) = (if sylD is.body = 0 then 0#32 else BitVec.ofNat 32 v)
      ∧ falls n s t ∧ onlyCore s t ∧ frame n [sylD is.body, 0x6C] s t := by
  intro n v
  have hd : sylD is.body < 0x20 := vsetvl_dest h.legal
  have hb := acts_lands (l := [plainLand (sylD is.body) v, plainLand 0x6C v]) (skip := none) h (by decide) (by decide) (by decide) (by simp [plainLand])
    (by simp [anyClash, sameDest, plainLand]; omega) fun u hu => by
      show State.Becomes s (opVsetvl (arg is) u) _ _ _ _
      unfold opVsetvl
      rw [show srcA u (arg is) = srcA s (arg is) from hu.srcA]
      rw [State.Issuing, acted_nil h.inflight] at hu
      exact (hu.result1 ..).result1 ..
  have hland : (s.stage .vsetvl is).core n = { ((s.core n).gone ((s.core n).pc + 16) [plainLand (sylD is.body) v, plainLand 0x6C v]
      (s.core n).tileCache).cycled.land (plainLand (sylD is.body) v) with vl := BitVec.ofNat 8 v } := hb.core.trans (landAll_length ..)
  refine ⟨_, rfl, by rw [hland], ?_, falls_of_landed hb, hb.onlyCore, hb.frame (hb.core ▸ hland ▸ ?_)⟩
  · rw [hland]
    exact land_plain_readG _ _ hd
  · refine ((gone_keeps.trans cycled_keeps).trans (land_plain_keeps (.inl (by omega)) (by simp) fun hw _ => by omega)).trans (setVl_keeps (by simp))

/-- A core whose running context has the bank x of special-function tables. -/
def Core.banked (c : Core) (x : Nat) : Core := c.updCur fun y => { y with sfBank := BitVec.ofNat 32 (x % 2 ^ 64 % 2) }

theorem putCsr_bank (c : Core) (v : Nat) : c.putCsr 0x30 v = c.updCur fun y => { y with sfBank := BitVec.ofNat 32 (v % 2) } := rfl

theorem landAll_bank (c : Core) (x : Nat) : c.landAll [plainLand (destCsr 0x30) x] = c.banked x := by
  rw [Core.landAll, Core.landAll, land_plain_csr c x (by decide), putCsr_bank, Core.banked]

theorem banked_sfBank (c : Core) (x : Nat) : (c.banked x).curCtx.sfBank = BitVec.ofNat 32 (x % 2 ^ 64 % 2) :=
  congrArg Ctx.sfBank ((ctx_updCur c (fun y => { y with sfBank := BitVec.ofNat 32 (x % 2 ^ 64 % 2) }) c.cur).trans (if_pos rfl))

theorem banked_keeps (c : Core) (x : Nat) : Core.KeepsBut [0x100] c (c.banked x) := .updCur (fun hw => absurd (by simp) hw) fun _ => rfl

theorem sfbank_spec (is : Issue) (s : State) (h : s.Acts .sfbank is) :
    let n := is.core.val
    ((s.core n).jobMode = false → ∃ t, exec (.sfbank is) s = .next t
      ∧ (t.core n).curCtx.sfBank = BitVec.ofNat 32 (1 - (s.core n).curCtx.sfBank.toNat % 2)
      ∧ falls n s t ∧ onlyCore s t ∧ frame n [0x100] s t)
    ∧ ((s.core n).jobMode = true → ∃ t, exec (.sfbank is) s = .next t ∧ (t.core n).curCtx.evtCause = 0x10#32) := by
  intro n
  refine ⟨fun hm => ?_, fun hm => ?_⟩
  · generalize hx : 1 - (s.core n).curCtx.sfBank.toNat % 2 = x
    have hb := acts_lands (l := [plainLand (destCsr 0x30) x]) (skip := none) h (by decide) (by decide) (by decide) (by simp [plainLand])
      (by simp [anyClash]) fun u hu => by
        show State.Becomes s (opSfbank (arg is) u) _ _ _ _
        unfold opSfbank sfBankOf
        rw [show u.core (arg is).n = (s.core is.core.val).ready (Issue.syl .sfbank is) from hu.core, if_neg (by rw [show ((s.core is.core.val).ready (Issue.syl .sfbank is)).jobMode = false from hm]; exact Bool.false_ne_true)]
        have hv : 1 - ((s.core is.core.val).ready (Issue.syl .sfbank is)).curCtx.sfBank.toNat % 2 = x := hx
        rw [hv]
        rw [State.Issuing, acted_nil h.inflight] at hu
        exact hu.result1 ..
    have hfalls := falls_of_landed hb
    rw [landAll_bank] at hb
    refine ⟨_, rfl, ?_, hfalls, hb.onlyCore, hb.frame ((gone_keeps.trans cycled_keeps).trans (banked_keeps ..))⟩
    have hbank : x % 2 ^ 64 % 2 = x := by omega
    rw [hb.core, banked_sfBank, hbank]
  · have hr : Core.Raised (s.core n) ((s.stage .sfbank is).core n) evILLEGAL (s.core n).pc :=
      acts_raises h (by decide) (by decide) (by decide) fun u hu => ⟨none, by
        show opSfbank (arg is) u = _
        unfold opSfbank
        rw [show u.core (arg is).n = (s.core is.core.val).ready (Issue.syl .sfbank is) from hu.core, if_pos (show ((s.core is.core.val).ready (Issue.syl .sfbank is)).jobMode = true from hm)]
        exact hu.fault_pc (by decide) none⟩
    exact ⟨_, rfl, hr.cause⟩

/-- Settles O17: the results of the five operations are in flight for one cycle, and land in the cycle that ends their bundle. -/
theorem loopAndLengthControl : Obligations.LoopAndLengthControl := ⟨loop_spec, mvfl_plain, mvtl_spec, vsetvl_spec, sfbank_spec⟩

end Sys2Proof.Machine
end

section
namespace Sys2Proof.Machine
open Sys2Proof Sys2Proof.Claims

variable {s t u v : State} {n m k : Nat} {c d e : Core} {y : Syl}

/-! ## A staged bundle that issues -/

/-- The core as its staged bundle is looked at: of the header only MARK is left. -/
def Core.presented (c : Core) : Core := { c with bubble := 0, run := { mark := c.run.mark } }

/-- What a bundle needs to issue without an event: no bubble before it, its fetch window, a job that has started. -/
structure Core.Goes (c : Core) (n : Nat) : Prop where
  bubble : c.bubble = 0
  fetch : c.fetchOk n c.bundleLen = true
  started : c.jobMode = true → c.curCtx.started = true
  clash : vtsetClash c.bundle = false

/-- A staged bundle that is not held: its MARK is recorded, its syllables act and it finishes. -/
theorem issueBundle_acts (hs : State.Becomes s t n c s.mem s.tags) (hc : c.Goes n)
    (hold : (c.bundle.any fun y => sylHolds (t.setCore n c.presented) n y) = false) :
    ∃ u, State.Becomes s u n c.presented s.mem s.tags
      ∧ t.issueBundle n = (c.bundle.foldl (fun w y => w.runSyl n y)
        ((u.markBundle n).updCore n fun c => { c with held := false, heldCycles := 0 })).finishBundle n := by
  have hp : State.Becomes s (t.setCore n c.presented) n c.presented s.mem s.tags := hs.setCore _
  have hb : c.presented.bundle = c.bundle := rfl
  have hlen : c.presented.bundleLen = c.bundleLen := by simp [Core.bundleLen, hb]
  have hgo := issueBundle_go t (t.setCore n c.presented) n (by rw [hs.core, hc.bubble]) (by rw [← hs.core]; rfl) (by rw [hp.core]; rfl)
    (by rw [hp.core, hlen, ← hc.fetch]; rfl) (by rw [hp.core, hb, hc.clash]) (by rw [hp.core, hb, hold])
  rw [hp.core, hb] at hgo
  have hw : State.Becomes s (if c.presented.jobMode then (t.setCore n c.presented).countCore n 2 1 else t.setCore n c.presented) n c.presented s.mem s.tags := by
    split
    · exact hp.countCore _ _ _
    · exact hp
  refine ⟨_, hw, ?_⟩
  rw [hgo, jobStart_started _ n (by rw [hw.core]; exact hc.started)]

/-- A staged bundle that is held. -/
theorem issueBundle_waits (hs : State.Becomes s t n c s.mem s.tags) (hc : c.Goes n)
    (hold : (c.bundle.any fun y => sylHolds (t.setCore n c.presented) n y) = true) : t.issueBundle n = (t.setCore n c.presented).holdBundle n := by
  have hp : State.Becomes s (t.setCore n c.presented) n c.presented s.mem s.tags := hs.setCore _
  have hb : c.presented.bundle = c.bundle := rfl
  have hlen : c.presented.bundleLen = c.bundleLen := by simp [Core.bundleLen, hb]
  have hup : (t.updCore n fun c => { c with bubble := 0, run := { mark := c.run.mark } }) = t.setCore n c.presented := by
    rw [← hs.core]
    rfl
  unfold State.issueBundle
  extract_lets c0 s0 d s1
  have hs0 : s0 = t.setCore n c.presented := by
    simp only [s0, c0, hs.core, hc.bubble]
    exact hup
  have hd : d = c.presented := by
    simp only [d, hs0]
    exact hp.core
  rw [if_neg (by rw [hd]; exact Bool.false_ne_true), if_neg (by rw [hd, hlen]; exact not_not_intro hc.fetch),
    if_neg (by rw [hd, hb, hc.clash]; exact Bool.false_ne_true), if_pos (by rw [hd, hb, hs0]; exact hold), hs0]

/-! ## Held bundles, results that land, and stop requests -/

theorem becomes_self : State.Becomes s s n (s.core n) s.mem s.tags := ⟨⟨s.obj, s.cores, rfl⟩, rfl, fun _ _ => rfl⟩

/-- A cycle of a core in which no two results clash. -/
theorem coreCycle_becomes {mem : List Host.Cell} {tags : Tbl (BitVec 6)} (h : State.Becomes s t n c mem tags) (hc : anyClash c.due = false) :
    State.Becomes s (t.coreCycle n) n (c.cycled.landAll c.due) mem tags := by
  obtain ⟨o, e⟩ := coreCycle_land t n (by rw [h.core, hc])
  rw [e, h.core]
  exact (h.setObj o).setCore _

/-- The byte mask of a register has the bits of the lanes that are on. -/
theorem testBit_laneBytes (m : Pred) (k : Nat) :
    (List.range k).foldl (fun acc i => if m.getLsbD i then acc + 255 * 2 ^ (8 * i) else acc) 0 < 2 ^ (8 * k)
      ∧ ∀ i, ((List.range k).foldl (fun acc i => if m.getLsbD i then acc + 255 * 2 ^ (8 * i) else acc) 0).testBit i
        = (decide (i / 8 < k) && m.getLsbD (i / 8)) := by
  induction k with
  | zero => simp
  | succ k ih =>
    obtain ⟨hlt, hbit⟩ := ih
    rw [List.range_succ, List.foldl_append, List.foldl_cons, List.foldl_nil]
    generalize (List.range k).foldl (fun acc i => if m.getLsbD i then acc + 255 * 2 ^ (8 * i) else acc) 0 = x at hlt hbit
    have hpow : 2 ^ (8 * (k + 1)) = 256 * 2 ^ (8 * k) := by ring
    cases hm : m.getLsbD k with
    | false =>
      simp only [Bool.false_eq_true, if_false]
      refine ⟨by omega, fun i => ?_⟩
      rw [hbit]
      by_cases hi : i / 8 = k
      · simp [hi, hm]
      · rw [decide_eq_decide.2 (show i / 8 < k ↔ i / 8 < k + 1 by omega)]
    | true =>
      simp only [if_true]
      refine ⟨by omega, fun i => ?_⟩
      rw [Nat.add_comm, Nat.mul_comm, Nat.testBit_two_pow_mul_add _ hlt]
      split
      next h => rw [hbit, decide_eq_decide.2 (show i / 8 < k ↔ i / 8 < k + 1 by omega)]
      next h =>
        rw [show (255 : Nat) = 2 ^ 8 - 1 by norm_num, Nat.testBit_two_pow_sub_one]
        by_cases hi : i - 8 * k < 8
        · have hk : i / 8 = k := by omega
          simp [hi, hk, hm]
        · simp [hi, show ¬ i / 8 < k + 1 by omega]

theorem getLsbD_expandMask (m : Pred) {i : Nat} (hi : i < 1024) : (expandMask m).getLsbD i = m.getLsbD (i / 8) := by
  unfold expandMask
  split
  next h =>
    rw [h, BitVec.getLsbD_allOnes, BitVec.getLsbD_allOnes]
    simp [hi, show i / 8 < 128 by omega]
  next =>
    rw [BitVec.getLsbD_ofNat, (testBit_laneBytes m 128).2]
    simp [hi, show i / 8 < 128 by omega]

/-- The sticky flags of a result for a g, a, p or v register join those of the core. -/
theorem land_sticky {r : Land} (h : r.dest < 0x60) : (c.land r).sticky = c.sticky ||| r.sticky := by
  by_cases hg : r.dest < 0x20
  · obtain ⟨g, e⟩ := writeG_only (c.stuck r) r.dest (r.value.truncate 32)
    rw [land_g hg, e]
    rfl
  by_cases ha : r.dest < 0x30
  · rcases land_a (c := c) (r := r) (by omega) ha with ⟨-, e⟩ | ⟨-, e⟩
    · rw [e]
      rfl
    · rw [e]
      rfl
  by_cases hv : 0x40 ≤ r.dest
  · rw [land_v hv h]
    rfl
  unfold Core.land
  rw [if_neg hg, if_neg ha]
  by_cases hp : r.dest < 0x38
  · rw [if_pos hp]
    rfl
  · rw [if_neg hp, if_neg fun h => hv h.1, if_pos (by omega)]

theorem resultLanding_exec {core : Fin 64} (h : s.coresStopped = false) : exec (.resultLanding core) s = .next (s.coreCycle core) :=
  congrArg Host.Outcome.next (if_neg fun hs => absurd hs.1 (by simp [h]))

theorem resultLanding_lands (core : Fin 64) (s : State) (h : anyClash (s.core core).due = false) :
    State.Becomes s (s.coreCycle core) core ((s.core core).cycled.landAll (s.core core).due) s.mem s.tags := coreCycle_becomes becomes_self h

theorem landAll_one (c : Core) (r : Land) : c.landAll [r] = c.land r := rfl

theorem land_v_bit {r : Land} (h1 : 0x40 ≤ r.dest) (h2 : r.dest < 0x60) {i : Nat} (hi : i < 1024) :
    ((c.land r).readV (r.dest - 0x40)).getLsbD i = if r.mask.getLsbD (i / 8) then r.value.getLsbD i else (c.readV (r.dest - 0x40)).getLsbD i := by
  rw [land_v h1 h2, readV_writeV, if_pos rfl]
  have hst : (c.stuck r).readV (r.dest - 0x40) = c.readV (r.dest - 0x40) := rfl
  rw [hst, BitVec.getLsbD_or, BitVec.getLsbD_and, BitVec.getLsbD_and, BitVec.getLsbD_not, getLsbD_expandMask _ hi]
  cases r.mask.getLsbD (i / 8) with
  | false => simp [hi]
  | true => simp

/-- A core cycle raises CLASH where two results land in one register. -/
theorem coreCycle_clash (s : State) (n : Nat) (h : anyClash (s.core n).due = true) :
    ∃ d, Core.Raised d ((s.coreCycle n).core n) evCLASH (s.core n).lastPc := by
  unfold State.coreCycle
  extract_lets c due rest c1 c2 credit s1
  rw [if_pos (show anyClash due = true from h)]
  exact ⟨_, raise_raised _ n evCLASH c.lastPc none⟩

theorem resultLanding_spec (core : Fin 64) (s : State) (hs : s.coresStopped = false) :
    let n := core.val
    let c := s.core n
    let due := c.inflight.filter (fun r => decide (r.remain ≤ 1))
    (anyClash due = false → ∃ t, exec (.resultLanding core) s = .next t
      ∧ (t.core n).inflight = (c.inflight.filter (fun r => decide (1 < r.remain))).map (fun r => { r with remain := r.remain - 1 })
      ∧ (due = [] → frame n [] s t)
      ∧ (∀ r, due = [r] → r.dest < 0x20 → (t.core n).readG r.dest = (if r.dest = 0 then 0#32 else r.value.truncate 32) ∧ frame n [r.dest, 0x102] s t)
      ∧ (∀ r, due = [r] → 0x40 ≤ r.dest → r.dest < 0x60 → frame n [r.dest, 0x102] s t
          ∧ ∀ i < 1024, ((t.core n).readV (r.dest - 0x40)).getLsbD i
              = if r.mask.getLsbD (i / 8) then r.value.getLsbD i else (c.readV (r.dest - 0x40)).getLsbD i)
      ∧ (∀ r, due = [r] → r.dest < 0x60 → (t.core n).sticky = c.sticky ||| r.sticky)
      ∧ onlyCore s t)
    ∧ (anyClash due = true → c.jobMode = true → ∃ t, exec (.resultLanding core) s = .next t
      ∧ (t.core n).curCtx.evtCause = 0x11#32 ∧ (t.core n).curCtx.evtPc = c.lastPc ∧ (t.core n).jobMode = false) := by
  intro n c due
  refine ⟨fun hc => ?_, fun hc _ => ?_⟩
  · have hb : State.Becomes s (s.coreCycle core) n (c.cycled.landAll due) s.mem s.tags := resultLanding_lands core s hc
    have hk : Core.KeepsBut [] c c.cycled := cycled_keeps
    have hone : ∀ r, due = [r] → State.Becomes s (s.coreCycle core) n (c.cycled.land r) s.mem s.tags := fun r hr => by
      rw [hr] at hb
      exact hb
    have hland : ∀ r, due = [r] → isPlainDest r.dest → (r.dest < 0x30 → ¬ c.cycled.unbinds r) → frame n [r.dest, 0x102] s (s.coreCycle core) :=
      fun r hr hp hu => (hone r hr).frame (cycled_keeps.trans (land_keeps hp (by simp) (.inr (by simp)) fun h hub => absurd hub (hu h)))
    refine ⟨_, resultLanding_exec hs, ?_, fun h0 => ?_, fun r hr hd => ⟨?_, ?_⟩, fun r hr h1 h2 => ⟨?_, fun i hi => ?_⟩, fun r hr hd => ?_, hb.onlyCore⟩
    · rw [hb.core]
      have hctl := (landAll_control c.cycled due).trans (cycled_control c)
      exact congrArg (fun x => x.2.2.2.1) hctl
    · rw [h0] at hb
      exact hb.frame hk
    · rw [(hone r hr).core, land_g hd, readG_writeG]
      by_cases h0 : r.dest = 0
      · rw [if_neg fun h => h.2 h0, if_pos h0, h0]
        rfl
      · rw [if_pos ⟨rfl, h0⟩, if_neg h0]
    · exact hland r hr (.inl (by omega)) fun _ hub => by
        have := hub.1
        omega
    · exact hland r hr (.inr ⟨h1, by omega⟩) fun h => absurd h (by omega)
    · rw [(hone r hr).core, land_v_bit h1 h2 hi]
      obtain ⟨x, e⟩ := cycled_only (c := c)
      rw [e]
      rfl
    · rw [(hone r hr).core, land_sticky hd]
      obtain ⟨x, e⟩ := cycled_only (c := c)
      rw [e]
      rfl
  · obtain ⟨d, hr⟩ := coreCycle_clash s n hc
    exact ⟨_, resultLanding_exec hs, hr.cause, hr.pc, hr.jobMode⟩

/-! ### HOLD_RELEASE -/

/-- A core whose bundle is held for a cycle, before that cycle passes. -/
def Core.holding (c : Core) (s : State) : Core :=
  ({ c with held := true, heldCycles := c.heldCycles + 1 }).updCur fun x => if c.held then x else { x with waitStart := s.clock, waitAir := s.auditAir }

theorem holding_keeps {wr : List Nat} (hh : c.held = true) : Core.KeepsBut wr c (c.holding s) :=
  (Core.KeepsBut.of_eq rfl : Core.KeepsBut wr c { c with held := true, heldCycles := c.heldCycles + 1 }).trans
    (.updCur (fun _ => by rw [if_pos hh]) fun _ => by rw [if_pos hh])

/-- A bundle of a TWAIT is held for a cycle. -/
theorem holdBundle_twait {slot : Nat} {b : BitVec 64} {e : EccFind} (h : State.Becomes s t n c s.mem s.tags) (hb : c.bundle = [⟨.twait, slot, b, e⟩])
    (hi : c.inflight = []) : ∃ w, State.Becomes s (t.holdBundle n) n (c.holding w).cycled s.mem s.tags := by
  have hjoin : ∀ w : State, w.joinWaiters n ⟨.twait, slot, b, e⟩ = w := fun w => by
    unfold State.joinWaiters
    exact if_neg fun h => CoreOp.noConfusion h.1
  unfold State.holdBundle
  extract_lets c' why s1
  have h1 : State.Becomes s s1 n c s.mem s.tags := by
    have hb' : c'.bundle = _ := (congrArg Core.bundle h.core).trans hb
    simp only [s1, hb', List.foldl_cons, List.foldl_nil, hjoin]
    exact h.countCore _ _ _
  clear_value s1
  have hdue : (c.holding s1).due = [] := by
    show c.due = []
    rw [Core.due, hi]
    rfl
  have h2 := coreCycle_becomes (h1.updCore fun c => c.holding s1) (by rw [hdue]; rfl)
  rw [hdue] at h2
  exact ⟨s1, h2⟩

/-- A TWAIT that acts holds its bundle until the Tally has reached its target. -/
theorem sylHolds_twait {b : BitVec 64} {e : EccFind} (h : State.Becomes s t n (s.core n).presented s.mem s.tags) (hl : sylLegal .twait 3 b = true)
    (hon : scalarOn (s.core n) b = true) (hr : (isSymbolTally (tallyNo s ⟨n, 3, b, e⟩) || s.tallyOwned n (tallyNo s ⟨n, 3, b, e⟩)) = true) :
    sylHolds t n ⟨.twait, 3, b, e⟩ = !tallyReached (s.tally (tallyNo s ⟨n, 3, b, e⟩)).count (srcB s ⟨n, 3, b, e⟩) := by
  obtain ⟨⟨o, k, rfl⟩, hcore, -⟩ := h
  unfold sylHolds
  extract_lets c x i reach
  have hc : c = (s.core n).presented := hcore
  have hi : i = tallyNo s ⟨n, 3, b, e⟩ := by
    show (c.readG (sylA b)).toNat % 65536 = _
    rw [hc]
    rfl
  have htarget : srcB { s with obj := o, cores := k } x = srcB s ⟨n, 3, b, e⟩ := by
    show c.readG (sylB b) = _
    rw [hc]
    rfl
  have hreach : reach = true := by
    have howned : (s.tallyCourt i == some c.curCtx.court) = (s.tallyCourt i == some (s.core n).curCtx.court) := by
      rw [hc]
      rfl
    show (isSymbolTally i || (s.tallyCourt i == some c.curCtx.court)) = true
    rw [howned, hi]
    exact hr
  have hon' : scalarOn c b = true := by
    rw [hc]
    exact hon
  rw [if_neg (not_not_intro hl)]
  show (scalarOn c b && reach && !tallyReached (s.tally i).count _) = _
  rw [hon', hreach, htarget, hi]
  rfl

/-- TWAIT of a Tally that its context may use has no effect as it issues. -/
theorem opTwait_id {b : BitVec 64} {e : EccFind} (h : State.Issuing s u n y)
    (hr : (isSymbolTally (tallyNo s ⟨n, 3, b, e⟩) || s.tallyOwned n (tallyNo s ⟨n, 3, b, e⟩)) = true) : opTwait ⟨n, 3, b, e⟩ u = u := by
  obtain ⟨⟨o, k, rfl⟩, hcore, -⟩ := h
  have howned : State.tallyOwned { s with obj := o, cores := k } n (tallyNo s ⟨n, 3, b, e⟩) = s.tallyOwned n (tallyNo s ⟨n, 3, b, e⟩) := by
    rw [State.tallyOwned, hcore]
    rfl
  unfold opTwait State.onTally
  extract_lets i
  have hi : i = tallyNo s ⟨n, 3, b, e⟩ := by
    simp only [i]
    rw [tallyNo, srcA, hcore]
    rfl
  rw [hi]
  by_cases hsym : isSymbolTally (tallyNo s ⟨n, 3, b, e⟩) = true
  · rw [if_pos hsym]
    rfl
  · rw [if_neg hsym, if_pos (howned.trans ((Bool.or_eq_true_iff.1 hr).resolve_left hsym))]

theorem holdRelease_spec (core : Fin 64) (s : State) (b : BitVec 64) (e : EccFind) (hs : s.coresStopped = false) :
    let n := core.val
    let c := s.core n
    let x : SylArg := ⟨n, 3, b, e⟩
    c.held = true → c.bundle = [⟨.twait, 3, b, e⟩] → c.run = {} → c.bubble = 0 → c.inflight = [] → c.fetchOk n 16 = true →
    (c.jobMode = true → c.curCtx.started = true) → (∀ k < 4, c.readLc k = 0#32 ∨ c.readLe k ≠ c.pc) → sylLegal .twait 3 b = true → scalarOn c b = true →
    (isSymbolTally (tallyNo s x) || s.tallyOwned n (tallyNo s x)) = true →
    ∃ t, exec (.holdRelease core) s = .next t ∧ onlyCore s t ∧ frame n [] s t
      ∧ (tallyReached (s.tally (tallyNo s x)).count (srcB s x) = true → (t.core n).held = false ∧ falls n s t)
      ∧ (tallyReached (s.tally (tallyNo s x)).count (srcB s x) = false →
          (t.core n).held = true ∧ (t.core n).heldCycles = c.heldCycles + 1 ∧ (t.core n).bundle = c.bundle ∧ (t.core n).pc = c.pc) := by
  intro n c x hheld hb hr hu hi hf hst hlp hl hon hreach
  have hlen : c.bundleLen = 16 := bundleLen_one hb (show 3 < 7 by decide)
  have hgoes : c.Goes n := ⟨hu, by rw [hlen]; exact hf, hst, by rw [hb]; rfl⟩
  have hpres : State.Becomes s (s.setCore n c.presented) n c.presented s.mem s.tags := becomes_self.setCore _
  have hholds : (c.bundle.any fun y => sylHolds (s.setCore n c.presented) n y) = !tallyReached (s.tally (tallyNo s x)).count (srcB s x) := by
    rw [hb, List.any_cons, sylHolds_twait hpres hl hon hreach, List.any_nil, Bool.or_false]
  have hexec : exec (.holdRelease core) s = .next (s.issueBundle n) := congrArg Host.Outcome.next (if_pos ⟨hheld, hs⟩)
  cases ht : tallyReached (s.tally (tallyNo s x)).count (srcB s x) with
  | true =>
    obtain ⟨u, hbu, e1⟩ := issueBundle_acts becomes_self hgoes (by rw [hholds, ht]; rfl)
    have hmark : u.markBundle n = u := markBundle_off u n (by rw [hbu.core]; exact congrArg BundleRun.mark hr)
    have hready : State.Issuing s (u.updCore n fun c => { c with held := false, heldCycles := 0 }) n ⟨.twait, 3, b, e⟩ := by
      have hcore : ({ c.presented with held := false, heldCycles := 0 } : Core) = c.ready ⟨.twait, 3, b, e⟩ := by
        unfold Core.presented Core.ready
        rw [hr, ← hb]
      rw [State.Issuing, ← hcore]
      exact hbu.updCore fun c => { c with held := false, heldCycles := 0 }
    obtain ⟨v, hv, e2⟩ := runSyl_runs (y := ⟨.twait, 3, b, e⟩) hl (.inr hon) hready
    have hfin : s.issueBundle n = v.finishBundle n := by
      rw [e1, hmark, hb, List.foldl_cons, List.foldl_nil, e2]
      exact congrArg (State.finishBundle · n) (opTwait_id hv hreach)
    rw [State.Issuing, acted_nil hi] at hv
    have hend := hv.finishBundle (show 3 < 7 by decide) hlp rfl
    rw [← hfin] at hend
    refine ⟨_, hexec, hend.onlyCore, hend.frame (finished_none rfl), fun _ => ⟨?_, falls_of_finished hend⟩, fun h => absurd h (by simp)⟩
    rw [hend.core]
    exact congrArg (fun x => x.2.2.2.2.2.2.1) (finished_control c _ _ _)
  | false =>
    have hwait := issueBundle_waits becomes_self hgoes (by rw [hholds, ht]; rfl)
    obtain ⟨w, hend⟩ := holdBundle_twait hpres hb hi
    rw [← hwait] at hend
    have hctl : ((c.presented.holding w).cycled).control = _ := cycled_control _
    refine ⟨_, hexec, hend.onlyCore, hend.frame ?_, fun h => absurd h (by simp), fun _ => ?_⟩
    · exact ((Core.KeepsBut.of_eq rfl : Core.KeepsBut [] c c.presented).trans (holding_keeps hheld)).trans cycled_keeps
    · rw [hend.core]
      exact ⟨congrArg (fun x => x.2.2.2.2.2.2.1) hctl, congrArg (fun x => x.2.2.2.2.2.2.2) hctl, congrArg (fun x => x.2.2.2.2.1) hctl,
        congrArg (fun x => x.1) hctl⟩

/-! ### Stop requests -/

theorem stopRequest_spec (core : Fin 64) (tile : Bool) (s : State) : ∃ t, exec (.stopRequest core tile) s = .next t
      ∧ ((s.core core).stop = none → (t.core core).stop = some { tile := tile })
      ∧ (∀ r, (s.core core).stop = some r → (t.core core).stop = some { r with tile := r.tile && tile })
      ∧ onlyCore s t ∧ frame core [] s t ∧ (t.core core).pc = (s.core core).pc := by
  have hb := (becomes_self (s := s) (n := core.val)).updCore fun c => { c with stop := match c.stop with
    | some r => some { r with tile := r.tile && tile }
    | none => some { tile := tile } }
  refine ⟨_, rfl, fun h => ?_, fun r h => ?_, hb.onlyCore, hb.frame (.of_eq rfl), ?_⟩
  · refine (congrArg Core.stop hb.core).trans ?_
    rw [h]
  · refine (congrArg Core.stop hb.core).trans ?_
    rw [h]
  · rw [show (s.requestStop core tile).core core = _ from hb.core]

theorem tileStopTimeout_spec (core : Fin 64) (s : State) (r : StopReq) (hs : s.coresStopped = false) (hr : (s.core core).stop = some r) :
    ∃ t, exec (.tileStopTimeout core) s = .next t ∧ onlyCore s t ∧ frame core [] s t
      ∧ (t.core core).stop = some { r with tile := r.tile && decide (r.cycles < 1100) } := by
  have hexec : exec (.tileStopTimeout core) s
      = .next (if r.tile ∧ 1100 ≤ r.cycles then s.updCore core fun c => { c with stop := some { r with tile := false } } else s) := by
    show execTileStopTimeout core s = _
    unfold execTileStopTimeout
    rw [if_neg (by rw [hs]; exact Bool.false_ne_true), hr]
  rw [hexec]
  by_cases h : r.tile = true ∧ 1100 ≤ r.cycles
  · have hb := (becomes_self (s := s) (n := core.val)).updCore fun c => { c with stop := some { r with tile := false } }
    rw [if_pos h]
    refine ⟨_, rfl, hb.onlyCore, hb.frame (.of_eq rfl), (congrArg Core.stop hb.core).trans ?_⟩
    rw [decide_eq_false (Nat.not_lt.2 h.2), Bool.and_false]
  · rw [if_neg h]
    refine ⟨_, rfl, becomes_self.onlyCore (n := core.val), becomes_self.frame .refl, hr.trans ?_⟩
    obtain ⟨tile, cycles⟩ := r
    cases tile with
    | false => rfl
    | true => rw [decide_eq_true (show cycles < 1100 from Nat.lt_of_not_le fun h2 => h ⟨rfl, h2⟩)]; rfl

/-- Settles O18: a cycle in which nothing issues is `coreCycle`, and a held bundle is looked at again in each cycle. -/
theorem landingHoldsAndStops : Obligations.LandingHoldsAndStops := ⟨resultLanding_spec, holdRelease_spec, stopRequest_spec, tileStopTimeout_spec⟩

end Sys2Proof.Machine
end

section
namespace Sys2Proof.Machine
open Sys2Proof Sys2Proof.Claims

variable {s t u v : State} {n m k : Nat} {c d e : Core} {y : Syl}

/-! ## NOP, headers, MARK and END -/

theorem nop_spec (is : Issue) (s : State) (h : s.Acts .nop is) : ∃ t, exec (.nop is) s = .next t
    ∧ falls is.core.val s t ∧ onlyCore s t ∧ frame is.core.val [] s t := by
  have hslot : is.slot ≠ 7 := fun h7 => by
    have hlt := opInSlot_lt _ _ h.slot
    rw [h7] at hlt
    exact absurd hlt (by decide)
  have hexec : exec (.nop is) s = .next (s.stage .nop is) := congrArg Host.Outcome.next (if_neg hslot)
  have hb := acts_passes (l := []) (skip := none) (tiles := (s.core is.core.val).tileCache) h (looked_notHeld is (by decide) (by decide) (by decide))
    (fun u hu => by
      rw [State.Issuing, acted_nil h.inflight] at hu
      exact hu) rfl
  exact ⟨_, hexec, falls_of_finished hb, hb.onlyCore, hb.frame (finished_none rfl)⟩

/-- A read of core memory that meets no uncorrectable error goes on, a corrected one counted. -/
theorem eccRead_goes {mem : List Host.Cell} {tags : Tbl (BitVec 6)} (h : State.Becomes s t n c mem tags) (m off : Nat) (pc : Addr48) {e : EccFind}
    (he : e ≠ .uncorrectable) (f : State → State) : ∃ u, State.Becomes s u n c mem tags ∧ t.eccRead m off pc e f = f u := by
  cases e with
  | clean => exact ⟨t, h, rfl⟩
  | corrected => exact ⟨_, h.setObj _, rfl⟩
  | uncorrectable => exact absurd rfl he

/-- The parts of a header that the machine reads are those of the statement. -/
theorem header_legal (w : Nat) (hw : w < 2 ^ 64) : (w / 2 ^ 16 = 0x5A ∧ w / 2 ^ 7 % 2 = 0 ∧ w / 2 ^ 9 % 2 ^ 7 = 0)
    ↔ ¬ (bits w 16 8 ≠ 0x5A ∨ bits w 24 40 ≠ 0 ∨ bits w 9 7 ≠ 0 ∨ bits w 7 1 ≠ 0) := by
  unfold bits
  omega

/-- The core that has taken the header w. -/
def Core.headed (c : Core) (w : Nat) : Core := { c with bundle := [], run := { c.run with mark := bits w 8 1 == 1, present := some (bits w 0 7) } }

/-- A legal header that meets no uncorrectable error. -/
theorem stageHeader_legal {is : Issue} (ht : s.takesSyl is.core.val = true) (he : is.ecc ≠ .uncorrectable)
    (hw : is.body.toNat / 2 ^ 16 = 0x5A ∧ is.body.toNat / 2 ^ 7 % 2 = 0 ∧ is.body.toNat / 2 ^ 9 % 2 ^ 7 = 0) :
    ∃ u, State.Becomes s u is.core.val ((s.core is.core.val).headed is.body.toNat) s.mem s.tags
      ∧ s.stageHeader is = if is.last ∧ ((s.core is.core.val).headed is.body.toNat).whole = true then u.issueBundle is.core.val else u := by
  unfold State.stageHeader
  extract_lets n w c
  rw [if_neg (not_not_intro ht), if_neg he]
  obtain ⟨v, hv, e⟩ := eccRead_goes becomes_self n (c.pc.toNat % Config.coreMemBytes) c.pc he _
  rw [e, if_neg ((header_legal w is.body.isLt).1 hw)]
  have hu : State.Becomes s (v.updCore n fun c => { c with bundle := [], run := { c.run with mark := bits w 8 1 == 1, present := some (bits w 0 7) } })
      n (c.headed w) s.mem s.tags := hv.updCore _
  refine ⟨_, hu, ?_⟩
  rw [← show _ = (s.core is.core.val).headed is.body.toNat from hu.core]

/-- A header with a wrong tag or a reserved bit set. -/
theorem stageHeader_illegal {is : Issue} (ht : s.takesSyl is.core.val = true) (he : is.ecc ≠ .uncorrectable)
    (hw : ¬ (is.body.toNat / 2 ^ 16 = 0x5A ∧ is.body.toNat / 2 ^ 7 % 2 = 0 ∧ is.body.toNat / 2 ^ 9 % 2 ^ 7 = 0)) :
    Core.Raised (s.core is.core.val) ((s.stageHeader is).core is.core.val) evILLEGAL (s.core is.core.val).pc := by
  unfold State.stageHeader
  extract_lets n w c
  rw [if_neg (not_not_intro ht), if_neg he]
  obtain ⟨v, hv, e⟩ := eccRead_goes becomes_self n (c.pc.toNat % Config.coreMemBytes) c.pc he _
  rw [e, if_pos (Classical.not_not.1 fun h => hw ((header_legal w is.body.isLt).2 h))]
  have hr := finishBundle_raise v n evILLEGAL (v.core n).pc none
  rw [hv.core] at hr ⊢
  exact hr

theorem headed_keeps {wr : List Nat} {w : Nat} : Core.KeepsBut wr c (c.headed w) := .of_eq rfl

/-- A header that names a slot waits for its syllables. -/
theorem headed_whole {w : Nat} (h : w % 128 ≠ 0) : (c.headed w).whole = false := by
  obtain ⟨i, hi⟩ := Nat.exists_testBit_of_ne_zero h
  have hlt : i < 7 := by
    by_contra hge
    rw [show 128 = 2 ^ 7 from rfl, Nat.testBit_mod_two_pow] at hi
    simp [hge] at hi
  have hbits : bits w 0 7 = w % 128 := by simp [bits]
  unfold Core.whole Core.headed
  refine Bool.eq_false_iff.2 fun hall => ?_
  have := List.all_eq_true.1 hall i (List.mem_range.2 hlt)
  simp [hbits, hi] at this

theorem header_spec (is : Issue) (s : State) (hslot : is.slot = 7) (he : is.ecc ≠ .uncorrectable) (ht : s.takesSyl is.core.val = true)
    (hrun : (s.core is.core.val).run = {}) :
    let w := is.body.toNat
    let legal : Prop := w / 2 ^ 16 = 0x5A ∧ w / 2 ^ 7 % 2 = 0 ∧ w / 2 ^ 9 % 2 ^ 7 = 0
    (legal → w % 128 ≠ 0 → ∃ t, exec (.nop is) s = .next t ∧ (t.core is.core.val).run = { mark := decide (w / 256 % 2 = 1), present := some (w % 128) }
      ∧ (t.core is.core.val).pc = (s.core is.core.val).pc ∧ onlyCore s t ∧ frame is.core.val [] s t)
    ∧ (¬ legal → ∃ t, exec (.nop is) s = .next t ∧ (t.core is.core.val).jobMode = false ∧ (t.core is.core.val).curCtx.evtCause = 0x10#32 ∧ (t.core is.core.val).curCtx.evtPc = (s.core is.core.val).pc) := by
  intro w legal
  have hexec : exec (.nop is) s = .next (s.stageHeader is) := congrArg Host.Outcome.next (if_pos hslot)
  refine ⟨fun hl hw => ?_, fun hl => ?_⟩
  · obtain ⟨u, hu, e⟩ := stageHeader_legal ht he hl
    rw [headed_whole hw, if_neg fun h => Bool.false_ne_true h.2] at e
    rw [hexec, e]
    refine ⟨u, rfl, ?_, ?_, hu.onlyCore, hu.frame headed_keeps⟩
    · rw [hu.core]
      unfold Core.headed
      rw [hrun]
      simp [bits, w, beq_eq_decide]
    · rw [hu.core]
      rfl
  · have hr := stageHeader_illegal ht he hl
    exact ⟨_, hexec, hr.jobMode, hr.cause, hr.pc⟩

/-! ### The empty bundle -/

/-- What the bundles of a header alone need to issue. -/
structure State.Empty (s : State) (is : Issue) : Prop where
  slot : is.slot = 7
  last : is.last = true
  ecc : is.ecc ≠ .uncorrectable
  takes : s.takesSyl is.core.val = true
  run : (s.core is.core.val).run = {}
  bubble : (s.core is.core.val).bubble = 0
  fetch : (s.core is.core.val).fetchOk is.core.val 8 = true
  started : (s.core is.core.val).jobMode = true → (s.core is.core.val).curCtx.started = true

/-- The empty bundle issues: its MARK is recorded, and it finishes. -/
theorem stageHeader_empty {is : Issue} (h : s.Empty is)
    (hw : is.body.toNat / 2 ^ 16 = 0x5A ∧ is.body.toNat / 2 ^ 7 % 2 = 0 ∧ is.body.toNat / 2 ^ 9 % 2 ^ 7 = 0) (h0 : is.body.toNat % 128 = 0) :
    ∃ u, State.Becomes s u is.core.val ((s.core is.core.val).headed is.body.toNat).presented s.mem s.tags
      ∧ s.stageHeader is = ((u.markBundle is.core.val).updCore is.core.val fun c => { c with held := false, heldCycles := 0 }).finishBundle is.core.val := by
  obtain ⟨u, hu, e⟩ := stageHeader_legal h.takes h.ecc hw
  have hwhole : ((s.core is.core.val).headed is.body.toNat).whole = true := by
    have hbits : bits is.body.toNat 0 7 = 0 := by simp [bits, h0]
    simp [Core.whole, Core.headed, hbits]
  rw [if_pos ⟨h.last, hwhole⟩] at e
  have hgoes : ((s.core is.core.val).headed is.body.toNat).Goes is.core.val := ⟨h.bubble, h.fetch, h.started, rfl⟩
  obtain ⟨w, hw, e2⟩ := issueBundle_acts hu hgoes rfl
  exact ⟨w, hw, e.trans e2⟩

/-- The core behind an empty bundle, before the cycle that ends it. -/
def Core.past (c : Core) : Core :=
  { c with lastPc := c.pc, pc := c.pc + 8, branched := false, bundle := [], run := {}, bubble := 0, held := false, heldCycles := 0 }

theorem past_keeps {wr : List Nat} : Core.KeepsBut wr c c.past := .of_eq rfl

theorem due_nil (h : c.inflight = []) : c.due = [] := by
  rw [Core.due, h]
  rfl

/-- A core whose empty bundle has issued, and whose MARK, if any, is recorded. -/
structure Core.EmptyDone (c : Core) : Prop where
  bundle : c.bundle = []
  run : c.run = { mark := c.run.mark }
  bubble : c.bubble = 0
  inflight : c.inflight = []
  noLoop : ∀ k < 4, c.readLc k = 0#32 ∨ c.readLe k ≠ c.pc

theorem Core.EmptyDone.congr (h : c.EmptyDone) (hd : d.bookless = c.bookless) : d.EmptyDone where
  bundle := (congrArg Core.bundle hd).trans h.bundle
  run := by
    have hrun : d.run = c.run := Core.of_bookless Core.run (fun _ => rfl) hd
    rw [hrun]
    exact h.run
  bubble := (congrArg Core.bubble hd).trans h.bubble
  inflight := (congrArg Core.inflight hd).trans h.inflight
  noLoop k hk := by
    have hlc : d.readLc k = c.readLc k := Core.of_bookless (fun c => c.readLc k) (fun _ => rfl) hd
    have hle : d.readLe k = c.readLe k := Core.of_bookless (fun c => c.readLe k) (fun _ => rfl) hd
    have hpc : d.pc = c.pc := Core.of_bookless Core.pc (fun _ => rfl) hd
    rw [hlc, hle, hpc]
    exact h.noLoop k hk

/-- It goes on behind its header. -/
theorem State.Becomes.finishEmpty {mem : List Host.Cell} {tags : Tbl (BitVec 6)} (h : State.Becomes s t n c mem tags) (hc : c.EmptyDone) :
    State.Becomes s ((t.updCore n fun c => { c with held := false, heldCycles := 0 }).finishBundle n) n c.past.cycled mem tags := by
  have hup : State.Becomes s (t.updCore n fun c => { c with held := false, heldCycles := 0 }) n { c with held := false, heldCycles := 0 } mem tags :=
    h.updCore fun c => { c with held := false, heldCycles := 0 }
  have hlen : ({ c with held := false, heldCycles := 0 } : Core).bundleLen = 8 := by simp [Core.bundleLen, hc.bundle]
  have hpassed : ({ c with held := false, heldCycles := 0 } : Core).passed = c.past := by
    unfold Core.passed Core.past
    rw [hlen, hc.run, hc.bubble]
    rfl
  have hdue : ({ c with held := false, heldCycles := 0 } : Core).due = [] := due_nil hc.inflight
  have hfin := hup.finish (by rw [show ({ c with held := false, heldCycles := 0 } : Core).run = _ from hc.run]; exact ⟨rfl, rfl, rfl, rfl⟩) hc.noLoop
    (by rw [hdue]; rfl)
  rwa [hdue, hpassed] at hfin

theorem past_pc : c.past.cycled.pc = c.pc + 8 := congrArg (fun x => x.1) (cycled_control c.past)

theorem emptyBundle_spec (is : Issue) (s : State) (h : s.Empty is) (hbody : is.body = 0x5A0000#64) (hi : (s.core is.core.val).inflight = [])
    (hl : ∀ k < 4, (s.core is.core.val).readLc k = 0#32 ∨ (s.core is.core.val).readLe k ≠ (s.core is.core.val).pc) :
    ∃ t, exec (.nop is) s = .next t ∧ (t.core is.core.val).pc = (s.core is.core.val).pc + 8 ∧ onlyCore s t ∧ frame is.core.val [] s t := by
  have hexec : exec (.nop is) s = .next (s.stageHeader is) := congrArg Host.Outcome.next (if_pos h.slot)
  obtain ⟨u, hu, e⟩ := stageHeader_empty h (by rw [hbody]; decide) (by rw [hbody]; decide)
  have hmark : ((s.core is.core.val).headed is.body.toNat).presented.run.mark = false := by
    rw [hbody]
    rfl
  rw [markBundle_off u _ (by rw [hu.core, hmark])] at e
  have hfin := hu.finishEmpty ⟨rfl, rfl, rfl, hi, hl⟩
  rw [← e] at hfin
  refine ⟨_, hexec, ?_, hfin.onlyCore, hfin.frame ?_⟩
  · rw [hfin.core]
    exact past_pc
  · exact ((Core.KeepsBut.of_eq rfl : Core.KeepsBut [] (s.core is.core.val) _).trans past_keeps).trans cycled_keeps

/-! ### MARK -/

theorem traceWrite_other (type slot court tb payload : Nat) (hm : m ≠ n) : (t.traceWrite n type slot court tb payload).core m = t.core m := by
  rw [State.core, traceWrite_cores]
  exact (core_setCore ..).trans (if_neg hm)

theorem trace_other (type slot court tb payload : Nat) (hm : m ≠ n) : (t.trace n type slot court tb payload).core m = t.core m := by
  unfold State.trace
  extract_lets c busy full s1
  have h1 : s1.core m = t.core m := by
    simp only [s1]
    split
    · rfl
    · exact traceWrite_other _ _ _ _ _ hm
  clear_value s1
  split
  · exact (core_setCore ..).trans (if_neg hm)
  split
  · exact (core_setCore t n m _).trans (if_neg hm)
  · exact ((core_updCore ..).trans (if_neg hm)).trans ((traceWrite_other _ _ _ _ _ hm).trans h1)

/-- A core whose running context has counted a marked bundle. -/
def Core.marked (c : Core) : Core := c.updCur fun x => { x with markCount := x.markCount + 1 }

theorem markBundle_core (hm : (u.core n).run.mark = true) :
    ((u.markBundle n).core n).bookless = (u.core n).marked.bookless ∧ ∀ m, m ≠ n → (u.markBundle n).core m = u.core m := by
  unfold State.markBundle
  extract_lets c k
  rw [if_pos hm]
  refine ⟨(traceJob_stands n 1 _ .refl n).trans ?_, fun m h => (trace_other _ _ _ _ _ h).trans ((core_updCore ..).trans (if_neg h))⟩
  rw [core_updCore, if_pos rfl]
  rfl

theorem curCtx_updCur (c : Core) (f : Ctx → Ctx) : (c.updCur f).curCtx = f c.curCtx := (ctx_updCur c f c.cur).trans (if_pos rfl)

theorem marked_count (c : Core) : c.marked.curCtx.markCount = c.curCtx.markCount + 1 :=
  congrArg Ctx.markCount (curCtx_updCur c fun x => { x with markCount := x.markCount + 1 })

theorem cycled_markCount (c : Core) : c.cycled.curCtx.markCount = c.curCtx.markCount := by
  by_cases hm : c.jobMode = true
  · rw [cycled_running hm]
    exact (congrArg Ctx.markCount (curCtx_updCur c.counted fun x => { x with cycle := x.cycle + 1 })).trans rfl
  · have h : c.cycled = c.counted := if_neg hm
    rw [h]
    rfl

theorem mark_spec (is : Issue) (s : State) (h : s.Empty is) (hbody : is.body = 0x5A0100#64) (hi : (s.core is.core.val).inflight = [])
    (hl : ∀ k < 4, (s.core is.core.val).readLc k = 0#32 ∨ (s.core is.core.val).readLe k ≠ (s.core is.core.val).pc) :
    ∃ t, exec (.mark is) s = .next t ∧ (t.core is.core.val).curCtx.markCount = (s.core is.core.val).curCtx.markCount + 1
      ∧ (t.core is.core.val).pc = (s.core is.core.val).pc + 8 ∧ frame is.core.val [0x100] s t := by
  obtain ⟨u, hu, e⟩ := stageHeader_empty h (by rw [hbody]; decide) (by rw [hbody]; decide)
  have hmark : (u.core is.core.val).run.mark = true := by
    rw [hu.core, hbody]
    rfl
  obtain ⟨hz, hothers⟩ := markBundle_core hmark
  rw [hu.core] at hz
  have hdone : ((s.core is.core.val).headed is.body.toNat).presented.marked.EmptyDone := ⟨rfl, rfl, rfl, hi, hl⟩
  have hfin := (becomes_self (s := u.markBundle is.core.val)).finishEmpty (hdone.congr hz)
  rw [← e] at hfin
  have hp : Core.KeepsBut [0x100] (s.core is.core.val) ((s.core is.core.val).headed is.body.toNat).presented := .of_eq rfl
  have hm : Core.KeepsBut [0x100] ((s.core is.core.val).headed is.body.toNat).presented ((s.core is.core.val).headed is.body.toNat).presented.marked :=
    .updCur (fun hw => absurd (by simp) hw) fun _ => rfl
  refine ⟨_, rfl, ?_, ?_, Core.KeepsBut.frame ?_ fun m h => (hfin.others m h).trans ((hothers m h).trans (hu.others m h))⟩
  · rw [hfin.core, cycled_markCount]
    exact (congrArg (fun c : Core => c.curCtx.markCount) hz).trans (marked_count _)
  · have hpc : ((u.markBundle is.core.val).core is.core.val).pc = _ := Core.of_bookless Core.pc (fun _ => rfl) hz
    rw [hfin.core, past_pc, hpc]
    rfl
  · rw [hfin.core]
    exact (((hp.trans hm).trans (.of_bookless hz)).trans past_keeps).trans cycled_keeps

/-! ### END -/

/-- The core whose job has met its END, before the cycle that ends the bundle. -/
def Core.atEnd (c : Core) : Core := ({ c with lastPc := c.pc, bundle := [], run := {} }).updCur fun x => { x with state := .ending }

theorem opEnd_ends (hm : (s.core n).jobMode = true) (hu : State.Issuing s u n y) {slot : Nat} {b : BitVec 64} {e : EccFind} :
    State.Becomes s (opEnd ⟨n, slot, b, e⟩ u) n { (s.core n).ready y with run := { ended := true } } s.mem s.tags := by
  have hup := hu.updCore fun c => if c.jobMode then { c with run := { c.run with ended := true } } else c
  rw [if_pos (show ((s.core n).ready y).jobMode = true from hm)] at hup
  exact hup

theorem State.Becomes.finishEnd {mem : List Host.Cell} {tags : Tbl (BitVec 6)} (h : State.Becomes s t n c mem tags) (hr : c.run = { ended := true })
    (hi : c.inflight = []) : State.Becomes s (t.finishBundle n) n c.atEnd.cycled mem tags := by
  have hdue : c.atEnd.due = [] := due_nil hi
  have hfin := coreCycle_becomes (h.updCore Core.atEnd) (by rw [hdue]; rfl)
  rw [hdue] at hfin
  unfold State.finishBundle
  extract_lets c' next
  have hrun : c'.run = { ended := true } := (congrArg Core.run h.core).trans hr
  rw [hrun]
  exact hfin

theorem atEnd_state (c : Core) : c.atEnd.cycled.curCtx.state = .ending := by
  have hend : c.atEnd.curCtx.state = .ending := congrArg Ctx.state (curCtx_updCur _ _)
  by_cases hm : c.atEnd.jobMode = true
  · rw [cycled_running hm]
    exact (congrArg Ctx.state (curCtx_updCur c.atEnd.counted fun x => { x with cycle := x.cycle + 1 })).trans hend
  · have h : c.atEnd.cycled = c.atEnd.counted := if_neg hm
    rw [h]
    exact hend

theorem atEnd_keeps : Core.KeepsBut [0x100] c c.atEnd :=
  (Core.KeepsBut.of_eq rfl : Core.KeepsBut [0x100] c { c with lastPc := c.pc, bundle := [], run := {} }).trans
    (.updCur (fun hw => absurd (by simp) hw) fun _ => rfl)

/-- A core whose job waits for JOB_END takes no syllable. -/
theorem stage_ending {op : CoreOp} {js : Issue} (hm : (t.core js.core.val).jobMode = true) (he : (t.core js.core.val).curCtx.state = .ending) :
    t.stage op js = t := by
  have htakes : t.takesSyl js.core.val = false := by
    simp [State.takesSyl, hm, he]
  unfold State.stage
  extract_lets n c y
  exact if_pos (by rw [htakes]; exact Bool.false_ne_true)

theorem endJob_spec (is : Issue) (s : State) (h : s.Acts .endJob is) (hm : (s.core is.core.val).jobMode = true) : ∃ t, exec (.endJob is) s = .next t
    ∧ (t.core is.core.val).curCtx.state = .ending
    ∧ (∀ (js : Issue) (op : CoreOp), js.core = is.core → t.stage op js = t)
    ∧ onlyCore s t ∧ frame is.core.val [0x100] s t := by
  obtain ⟨u, hu, e⟩ := acts_runs h (looked_notHeld is (by decide) (by decide) (by decide))
  have hb := (opEnd_ends (slot := is.slot.val) (b := is.body) (e := is.ecc) hm hu).finishEnd rfl h.inflight
  have hstage : s.stage .endJob is = (opEnd ⟨is.core.val, is.slot.val, is.body, is.ecc⟩ u).finishBundle is.core.val := e
  rw [← hstage] at hb
  have hstate : ((s.stage .endJob is).core is.core.val).curCtx.state = .ending := by
    rw [hb.core, atEnd_state]
  refine ⟨_, rfl, hstate, fun js op hjs => stage_ending ?_ (hjs ▸ hstate), hb.onlyCore, hb.frame ?_⟩
  · rw [hjs, hb.core, cycled_jobMode]
    exact hm
  · exact ((Core.KeepsBut.of_eq rfl : Core.KeepsBut [0x100] (s.core is.core.val) _).trans atEnd_keeps).trans cycled_keeps

end Sys2Proof.Machine
end

section
namespace Sys2Proof.Machine
open Sys2Proof Sys2Proof.Claims

variable {s t u v : State} {n m k : Nat} {c d e : Core} {y : Syl}

/-! ## RESUME -/

/-- What a register file read from memory holds. -/
theorem get_loadFile {α : Type} [DecidableEq α] (d : α) (conv : Nat → α) (mem : List Host.Cell) (a size : Nat) (k i : Nat) (t : Tbl α) (j : Nat) :
    Tbl.get d (loadFile d conv mem a size k i t) j = if i ≤ j ∧ j < i + k then conv (memNat mem size (a + size * j)) else Tbl.get d t j := by
  induction k generalizing i t with
  | zero => rw [loadFile, if_neg (by omega)]
  | succ k ih =>
    rw [loadFile, ih, Tbl.get_set]
    by_cases hj : j = i
    · rw [if_neg (by omega), if_pos hj, if_pos (by omega), hj]
    · rw [if_neg hj]
      by_cases hin : i ≤ j ∧ j < i + (k + 1)
      · rw [if_pos hin, if_pos (by omega)]
      · rw [if_neg hin, if_neg (by omega)]

theorem get_loadFile_nil {α : Type} [DecidableEq α] (d : α) (conv : Nat → α) (mem : List Host.Cell) (a size : Nat) {k j : Nat} (hj : j < k) :
    Tbl.get d (loadFile d conv mem a size k 0 []) j = conv (memNat mem size (a + size * j)) := by
  rw [get_loadFile, if_pos (by omega)]

/-- What the core holds of the save area at address b, once it is restored (Table 3.7). -/
structure Core.Restored (c : Core) (mem : List Host.Cell) (n b : Nat) : Prop where
  jobMode : c.jobMode = true
  cur : c.cur = areaSlot n b
  pc : c.pc = BitVec.ofNat 48 (memNat mem 6 (b + 8))
  state : (c.ctx (areaSlot n b)).state = .running
  cycle : (c.ctx (areaSlot n b)).cycle = BitVec.ofNat 64 (memNat mem 8 (b + 0x10))
  g : ∀ i < 32, c.readG i = if i = 0 then 0#32 else BitVec.ofNat 32 (memNat mem 4 (b + 0x100 + 4 * i))
  a : ∀ i < 16, c.readA i = BitVec.ofNat 48 (memNat mem 8 (b + 0x180 + 8 * i))
  p : ∀ i < 8, c.readP i = BitVec.ofNat 128 (memNat mem 16 (b + 0x200 + 16 * i))
  v : ∀ i < 32, c.readV i = BitVec.ofNat 1024 (memNat mem 128 (b + 0x800 + 128 * i))
  lc : ∀ i < 4, c.readLc i = BitVec.ofNat 32 (memNat mem 4 (b + 0x280 + 4 * i))
  ls : ∀ i < 4, c.readLs i = BitVec.ofNat 48 (memNat mem 8 (b + 0x290 + 8 * i))
  le : ∀ i < 4, c.readLe i = BitVec.ofNat 48 (memNat mem 8 (b + 0x2B0 + 8 * i))
  inflight : ∀ i < memNat mem 1 (b + 4) % 18, (c.inflight[i]?).map Land.remain = some (bits (memNat mem 8 (b + 0x300 + 32 * i)) 8 4)

theorem Core.Restored.congr {mem : List Host.Cell} {b : Nat} (h : Core.Restored c mem n b) (hd : d.bookless = c.bookless) : Core.Restored d mem n b where
  jobMode := (Core.of_bookless Core.jobMode (fun _ => rfl) hd).trans h.jobMode
  cur := (Core.of_bookless Core.cur (fun _ => rfl) hd).trans h.cur
  pc := (Core.of_bookless Core.pc (fun _ => rfl) hd).trans h.pc
  state := (Core.of_bookless (fun c => (c.ctx (areaSlot n b)).state) (fun _ => rfl) hd).trans h.state
  cycle := (Core.of_bookless (fun c => (c.ctx (areaSlot n b)).cycle) (fun _ => rfl) hd).trans h.cycle
  g i hi := (Core.of_bookless (fun c => c.readG i) (fun _ => rfl) hd).trans (h.g i hi)
  a i hi := (Core.of_bookless (fun c => c.readA i) (fun _ => rfl) hd).trans (h.a i hi)
  p i hi := (Core.of_bookless (fun c => c.readP i) (fun _ => rfl) hd).trans (h.p i hi)
  v i hi := (Core.of_bookless (fun c => c.readV i) (fun _ => rfl) hd).trans (h.v i hi)
  lc i hi := (Core.of_bookless (fun c => c.readLc i) (fun _ => rfl) hd).trans (h.lc i hi)
  ls i hi := (Core.of_bookless (fun c => c.readLs i) (fun _ => rfl) hd).trans (h.ls i hi)
  le i hi := (Core.of_bookless (fun c => c.readLe i) (fun _ => rfl) hd).trans (h.le i hi)
  inflight i hi := (Core.of_bookless (fun c => (c.inflight[i]?).map Land.remain) (fun _ => rfl) hd).trans (h.inflight i hi)

theorem Core.Restored.sliced {mem : List Host.Cell} {b : Nat} (h : Core.Restored c mem n b) (x : Nat) :
    Core.Restored { c with sliceStart := x } mem n b := by
  obtain ⟨hjob, hcur, hpc, hstate, hcycle, hg, ha, hp, hv, hlc, hls, hle, hfl⟩ := h
  exact ⟨hjob, hcur, hpc, hstate, hcycle, hg, ha, hp, hv, hlc, hls, hle, hfl⟩

section
variable (s : State) (n a : Nat)

theorem restoreCtx_g : (restoreCtx s n a).g = Tbl.erase (loadFile 0#32 (BitVec.ofNat 32) s.mem (a + 0x100) 4 32 0 []) 0 := by
  unfold restoreCtx
  extract_lets c k x m st c1
  simp only [Core.setCtx, c1, m]

theorem restoreCtx_a : (restoreCtx s n a).a = loadFile 0#48 (BitVec.ofNat 48) s.mem (a + 0x180) 8 16 0 [] := by
  unfold restoreCtx
  extract_lets c k x m st c1
  simp only [Core.setCtx, c1, m]

theorem restoreCtx_p : (restoreCtx s n a).p = loadFile 0#128 (BitVec.ofNat 128) s.mem (a + 0x200) 16 8 0 [] := by
  unfold restoreCtx
  extract_lets c k x m st c1
  simp only [Core.setCtx, c1, m]

theorem restoreCtx_v : (restoreCtx s n a).v = loadFile 0#1024 (BitVec.ofNat 1024) s.mem (a + 0x800) 128 32 0 [] := by
  unfold restoreCtx
  extract_lets c k x m st c1
  simp only [Core.setCtx, c1, m]

theorem restoreCtx_lc : (restoreCtx s n a).lc = loadFile 0#32 (BitVec.ofNat 32) s.mem (a + 0x280) 4 4 0 [] := by
  unfold restoreCtx
  extract_lets c k x m st c1
  simp only [Core.setCtx, c1, m]

theorem restoreCtx_ls : (restoreCtx s n a).ls = loadFile 0#48 (BitVec.ofNat 48) s.mem (a + 0x290) 8 4 0 [] := by
  unfold restoreCtx
  extract_lets c k x m st c1
  simp only [Core.setCtx, c1, m]

theorem restoreCtx_le : (restoreCtx s n a).le = loadFile 0#48 (BitVec.ofNat 48) s.mem (a + 0x2B0) 8 4 0 [] := by
  unfold restoreCtx
  extract_lets c k x m st c1
  simp only [Core.setCtx, c1, m]

theorem restoreCtx_inflight : (restoreCtx s n a).inflight = (List.range (memNat s.mem 1 (a + 4) % 18)).map (savedLand s a) := by
  unfold restoreCtx
  extract_lets c k x m st c1
  simp only [Core.setCtx, c1, m]

theorem restoreCtx_pc : (restoreCtx s n a).pc = BitVec.ofNat 48 (memNat s.mem 6 (a + 8)) := by
  unfold restoreCtx
  extract_lets c k x m st c1
  simp only [Core.setCtx, c1, m]

theorem restoreCtx_ctx : ((restoreCtx s n a).ctx (areaSlot n a)).state = .running
    ∧ ((restoreCtx s n a).ctx (areaSlot n a)).cycle = BitVec.ofNat 64 (memNat s.mem 8 (a + 0x10)) := by
  unfold restoreCtx
  extract_lets c k x m st c1
  rw [ctx_setCtx, if_pos rfl]
  exact ⟨rfl, rfl⟩

end

theorem restoreCtx_restored (s : State) (n a : Nat) : Core.Restored (restoreCtx s n a) s.mem n a where
  jobMode := rfl
  cur := rfl
  pc := restoreCtx_pc s n a
  state := (restoreCtx_ctx s n a).1
  cycle := (restoreCtx_ctx s n a).2
  g i hi := by
    by_cases h0 : i = 0
    · rw [if_pos h0, Core.readG, if_pos h0]
    · rw [if_neg h0, Core.readG, if_neg h0, restoreCtx_g, Tbl.get_erase, if_neg h0, get_loadFile_nil _ _ _ _ _ hi]
  a i hi := by rw [Core.readA, restoreCtx_a, get_loadFile_nil _ _ _ _ _ hi]
  p i hi := by rw [Core.readP, restoreCtx_p, get_loadFile_nil _ _ _ _ _ hi]
  v i hi := by rw [Core.readV, restoreCtx_v, get_loadFile_nil _ _ _ _ _ hi]
  lc i hi := by rw [Core.readLc, restoreCtx_lc, get_loadFile_nil _ _ _ _ _ hi]
  ls i hi := by rw [Core.readLs, restoreCtx_ls, get_loadFile_nil _ _ _ _ _ hi]
  le i hi := by rw [Core.readLe, restoreCtx_le, get_loadFile_nil _ _ _ _ _ hi]
  inflight i hi := by
    rw [restoreCtx_inflight, List.getElem?_map, List.getElem?_range hi]
    rfl

theorem jobState_cores (s : State) (j : Nat) (st : JobState) : (s.jobState j st).cores = s.cores := by
  unfold State.jobState
  extract_lets y
  split <;> rfl

/-- The restore leaves the core as the save area says. -/
theorem resumeCtx_restored (s : State) (n a : Nat) : Core.Restored ((s.resumeCtx n a).core n) s.mem n a := by
  have hr := restoreCtx_restored s n a
  unfold State.resumeCtx
  generalize restoreCtx s n a = c at hr ⊢
  have hcore : (s.setCore n { c with sliceStart := s.clock }).core n = { c with sliceStart := s.clock } := (core_setCore ..).trans (if_pos rfl)
  have hs : Core.Restored ((s.setCore n { c with sliceStart := s.clock }).core n) s.mem n a := by
    rw [hcore]
    exact hr.sliced _
  exact hs.congr (((traceJob_stands n 5 _ .refl).of_cores (jobState_cores ..)) n)

/-- In runtime mode, RESUME of a save area whose LOOP_SAVED is set asks for the restore. -/
theorem opResume_asks {is : Issue} (hu : State.Issuing s u is.core.val y) (hm : (s.core is.core.val).jobMode = false) (he : is.ecc ≠ .uncorrectable)
    (hl : (memNat s.mem 2 ((srcAddr s (arg is)).toNat + 2)).testBit 2 = true) :
    State.Becomes s (opResume (arg is) u) is.core.val
      { (s.core is.core.val).ready y with run := { resume := some (srcAddr s (arg is)).toNat } } s.mem s.tags := by
  have haddr : srcAddr u (arg is) = srcAddr s (arg is) := hu.srcAddr
  have hmode : (u.core is.core.val).jobMode = false := by
    rw [hu.core]
    exact hm
  unfold opResume State.sylRead
  extract_lets c a j
  rw [if_neg (by rw [show c.jobMode = false from hmode]; exact Bool.false_ne_true)]
  obtain ⟨w, hw, e⟩ := eccRead_goes hu is.core.val (a % Config.coreMemBytes) (u.core is.core.val).nextPc he fun s =>
    if ¬ (memNat s.mem 2 (a + 2)).testBit 2 then s.fenceJob j 0x44 0 0 else s.updCore is.core.val fun c => { c with run := { c.run with resume := some a } }
  have ha : a = (srcAddr s (arg is)).toNat := congrArg BitVec.toNat haddr
  rw [if_neg (by rw [hw.mem_eq, ha, hl]; exact not_not_intro rfl)] at e
  refine Eq.mpr (congrArg (fun t => State.Becomes s t _ _ _ _) e) ?_
  rw [← ha]
  exact hw.updCore fun c => { c with run := { c.run with resume := some a } }

theorem State.Becomes.finishResume {mem : List Host.Cell} {tags : Tbl (BitVec 6)} {a : Nat} (h : State.Becomes s t n c mem tags)
    (hr : c.run = { resume := some a }) : Core.Restored ((t.finishBundle n).core n) mem n a := by
  rw [← h.mem_eq]
  unfold State.finishBundle
  extract_lets c' next
  have hrun : c'.run = { resume := some a } := (congrArg Core.run h.core).trans hr
  rw [hrun, if_neg Bool.false_ne_true, if_pos (show (some a).isSome = true from rfl)]
  exact resumeCtx_restored t n a

theorem resume_spec (is : Issue) (s : State) (h : s.Acts .resume is) (hm : (s.core is.core.val).jobMode = false) (he : is.ecc ≠ .uncorrectable) :
    let n := is.core.val
    let a := ((s.core n).readA (sylA is.body - 0x20)).toNat
    let k := (a - n * Config.coreMemBytes - 0x10000) / 0x8000 % 4
    (memNat s.mem 2 (a + 2)).testBit 2 = true →
    ∃ t, exec (.resume is) s = .next t
      ∧ (t.core n).jobMode = true ∧ (t.core n).cur = k
      ∧ (t.core n).pc = BitVec.ofNat 48 (memNat s.mem 6 (a + 8))
      ∧ ((t.core n).ctx k).state = .running
      ∧ ((t.core n).ctx k).cycle = BitVec.ofNat 64 (memNat s.mem 8 (a + 0x10))
      ∧ (∀ i < 32, (t.core n).readG i = if i = 0 then 0#32 else BitVec.ofNat 32 (memNat s.mem 4 (a + 0x100 + 4 * i)))
      ∧ (∀ i < 16, (t.core n).readA i = BitVec.ofNat 48 (memNat s.mem 8 (a + 0x180 + 8 * i)))
      ∧ (∀ i < 8, (t.core n).readP i = BitVec.ofNat 128 (memNat s.mem 16 (a + 0x200 + 16 * i)))
      ∧ (∀ i < 32, (t.core n).readV i = BitVec.ofNat 1024 (memNat s.mem 128 (a + 0x800 + 128 * i)))
      ∧ (∀ i < 4, (t.core n).readLc i = BitVec.ofNat 32 (memNat s.mem 4 (a + 0x280 + 4 * i)))
      ∧ (∀ i < 4, (t.core n).readLs i = BitVec.ofNat 48 (memNat s.mem 8 (a + 0x290 + 8 * i)))
      ∧ (∀ i < 4, (t.core n).readLe i = BitVec.ofNat 48 (memNat s.mem 8 (a + 0x2B0 + 8 * i)))
      ∧ (∀ i < memNat s.mem 1 (a + 4) % 18, ((t.core n).inflight[i]?).map Land.remain = some (bits (memNat s.mem 8 (a + 0x300 + 32 * i)) 8 4)) := by
  intro n a k hl
  obtain ⟨u, hu, e⟩ := acts_runs h (looked_notHeld is (by decide) (by decide) (by decide))
  have hr : Core.Restored (((opResume (arg is) u).finishBundle n).core n) s.mem n a := (opResume_asks hu hm he hl).finishResume rfl
  have hstage : s.stage .resume is = (opResume (arg is) u).finishBundle n := e
  have hk : areaSlot n a = k := rfl
  rw [← hstage] at hr
  clear_value k a
  subst hk
  obtain ⟨hjob, hcur, hpc, hstate, hcycle, hg, ha, hp, hv, hlc, hls, hle, hfl⟩ := hr
  exact ⟨_, rfl, hjob, hcur, hpc, hstate, hcycle, hg, ha, hp, hv, hlc, hls, hle, hfl⟩

theorem resume_jobMode (is : Issue) (s : State) (h : s.Acts .resume is) (hm : (s.core is.core.val).jobMode = true) :
    ∃ t, exec (.resume is) s = .next t ∧ (t.core is.core.val).jobMode = false ∧ (t.core is.core.val).curCtx.evtCause = 0x10#32
      ∧ (t.core is.core.val).curCtx.evtPc = (s.core is.core.val).pc := by
  have hr : Core.Raised (s.core is.core.val) ((s.stage .resume is).core is.core.val) evILLEGAL (s.core is.core.val).pc :=
    acts_raises h (by decide) (by decide) (by decide) fun u hu => ⟨none, by
      show opResume (arg is) u = _
      unfold opResume
      extract_lets c a j
      rw [if_pos (show c.jobMode = true by rw [show c = _ from hu.core]; exact hm)]
      exact hu.fault_pc (by decide) none⟩
  exact ⟨_, rfl, hr.jobMode, hr.cause, hr.pc⟩

/-- Settles O4: NOP and the empty bundle only take their cycle, MARK counts in the context, END leaves the context ending, and RESUME reads its save
area at the end of its bundle. -/
theorem bundleControlAndResume : Obligations.BundleControlAndResume :=
  ⟨⟨nop_spec, fun is s hslot he ht _ hrun => header_spec is s hslot he ht hrun,
    fun is s hslot hlast hbody he ht _ hrun hb hi hf hst hl => emptyBundle_spec is s ⟨hslot, hlast, he, ht, hrun, hb, hf, hst⟩ hbody hi hl,
    fun is s hslot hlast hbody he ht _ hrun hb hi hf hst hl => mark_spec is s ⟨hslot, hlast, he, ht, hrun, hb, hf, hst⟩ hbody hi hl, endJob_spec⟩,
    resume_spec, resume_jobMode⟩

end Sys2Proof.Machine
end

section
namespace Sys2Proof.Machine
open Sys2Proof Sys2Proof.Claims

variable {s t u v : State} {n m k : Nat} {c d e : Core} {y : Syl}

/-! ## Bytes and block tags behind a store -/

theorem memByte_memPutNat_self (n : Nat) : ∀ (m : List Host.Cell) (a x i : Nat), i < n →
    memByte (memPutNat m n a x) (a + i) = BitVec.ofNat 8 (x / 256 ^ i) := by
  induction n with
  | zero => intro m a x i h; omega
  | succ n ih =>
    intro m a x i h
    rw [memPutNat]
    cases i with
    | zero => rw [memByte_memPutNat _ _ _ _ _ (by omega), memByte_memPut, if_pos (by omega), pow_zero, Nat.div_one]
    | succ i => rw [show a + (i + 1) = a + 1 + i by omega, ih _ _ _ _ (by omega), Nat.div_div_eq_div_mul, pow_succ, Nat.mul_comm]

theorem memByte_memPutMask_self (n : Nat) : ∀ (m : List Host.Cell) (a x k i : Nat), i < n →
    memByte (memPutMask m n a x k) (a + i) = if k.testBit i then BitVec.ofNat 8 (x / 256 ^ i) else memByte m (a + i) := by
  induction n with
  | zero => intro m a x k i h; omega
  | succ n ih =>
    intro m a x k i h
    rw [memPutMask]
    cases i with
    | zero =>
      rw [memByte_memPutMask _ _ _ _ _ _ (by omega), Nat.testBit_zero, pow_zero, Nat.div_one]
      by_cases hk : k % 2 = 1
      · rw [if_pos hk, if_pos (by simpa using hk), memByte_memPut, if_pos (by omega)]
      · rw [if_neg hk, if_neg (by simpa using hk)]
    | succ i =>
      rw [show a + (i + 1) = a + 1 + i by omega, ih _ _ _ _ _ (by omega), Nat.testBit_succ, Nat.div_div_eq_div_mul, pow_succ, Nat.mul_comm 256]
      refine if_congr Iff.rfl rfl ?_
      split
      · rw [memByte_memPut, if_neg (by omega)]
      · rfl

/-- The tags of the words that a range of bytes touches take the value, and no other tag changes. -/
theorem get_tagRange (t : Tbl (BitVec 6)) (a n : Nat) (x : BitVec 6) (j : Nat) :
    Tbl.get 0#6 (tagRange t a n x) j = if a / 8 ≤ j ∧ j < (a + n + 7) / 8 then x else Tbl.get 0#6 t j := by
  have hfold : ∀ k, Tbl.get 0#6 ((List.range k).foldl (fun t i => Tbl.set 0#6 t (a / 8 + i) x) t) j
      = if a / 8 ≤ j ∧ j < a / 8 + k then x else Tbl.get 0#6 t j := fun k => by
    induction k with
    | zero => rw [if_neg (by omega)]; rfl
    | succ k ih =>
      rw [List.range_succ, List.foldl_append, List.foldl_cons, List.foldl_nil, Tbl.get_set, ih]
      by_cases hj : j = a / 8 + k
      · rw [if_pos hj, if_pos (by omega)]
      · rw [if_neg hj]
        exact if_congr (by omega) rfl rfl
  rw [tagRange, hfold]
  exact if_congr (by omega) rfl rfl

/-! ## Loads and stores: the parts of an access -/

variable {mem : List Host.Cell} {tags : Tbl (BitVec 6)} {l : List Land} {tiles : List Nat}

section
variable {is : Issue} (hu : State.Issuing s u is.core.val y)
include hu

theorem State.Issuing.effAddr : effAddr u (arg is) = effAddr s (arg is) := by
  unfold Machine.effAddr
  rw [show u.core (arg is).n = _ from hu.core]
  rfl

theorem State.Issuing.inWindow (a k : Nat) : u.inWindow (arg is).n a k = s.inWindow is.core.val a k := by
  unfold State.inWindow
  rw [show u.core (arg is).n = _ from hu.core]
  rfl

theorem State.Issuing.boundWalker : boundWalker u (arg is) = boundWalker s (arg is) := by
  unfold Machine.boundWalker
  rw [show u.core (arg is).n = _ from hu.core]
  rfl

theorem State.Issuing.laneMask : laneMask (u.core (arg is).n) (arg is).body = laneMask (s.core is.core.val) is.body := by
  rw [show u.core (arg is).n = _ from hu.core]
  rfl

end

/-- The result of the post-increment of an L syllable. -/
def postIncs (c : Core) (b : BitVec 64) : List Land :=
  if sylPI b then [plainLand (sylA b) (c.readA (sylA b - 0x20) + sylOfsM b).toNat] else []

theorem State.Becomes.postInc (h : State.Becomes s t n (c.acted y l none tiles) mem tags) {slot : Nat} {b : BitVec 64} {e : EccFind} :
    State.Becomes s (t.postInc ⟨n, slot, b, e⟩) n (c.acted y (l ++ postIncs c b) none tiles) mem tags := by
  unfold State.postInc postIncs
  have ha : (t.core n).readA = c.readA := by
    rw [h.core]
    rfl
  by_cases hp : sylPI b = true
  · rw [if_pos hp, if_pos hp]
    show State.Becomes s (t.result1 n (sylA b) ((t.core n).readA (sylA b - 0x20) + sylOfsM b).toNat) _ _ _ _
    rw [ha]
    exact h.result1 ..
  · rw [if_neg hp, if_neg hp, List.append_nil]
    exact h

theorem State.Becomes.store (h : State.Becomes s t n c mem tags) (k a x : Nat) :
    State.Becomes s (t.store k a x) n c (memPutNat mem k a x) (if k = 0 then tags else tagRange tags a k 0#6) := by
  obtain ⟨⟨o, p, rfl⟩, hcore, hothers⟩ := h
  exact ⟨⟨o, p, rfl⟩, hcore, hothers⟩

theorem State.Becomes.storeMask (h : State.Becomes s t n c mem tags) (k a x mask : Nat) :
    State.Becomes s (t.storeMask k a x mask) n c (memPutMask mem k a x mask) (tagMask tags a k mask) := by
  obtain ⟨⟨o, p, rfl⟩, hcore, hothers⟩ := h
  exact ⟨⟨o, p, rfl⟩, hcore, hothers⟩

/-- The lines of a tile cache that a write of k bytes at a leaves. -/
def linesLeft (a k : Nat) (tiles : List Nat) : List Nat := tiles.filter fun l => decide (a + k ≤ l) || decide (l + 4096 ≤ a)

/-- A write to core n's own memory reaches its tile cache alone. -/
theorem State.Becomes.dropCached {skip : Option Addr48} (h : State.Becomes s t n (c.acted y l skip tiles) mem tags) {a : Nat} (k : Nat)
    (ha : a / Config.coreMemBytes = n) (hn : n < 64) : State.Becomes s (t.dropCached a k) n (c.acted y l skip (linesLeft a k tiles)) mem tags := by
  unfold State.dropCached
  extract_lets core c'
  have hc : c' = c.acted y l skip tiles := (congrArg t.core ha).trans h.core
  have hcore : core = n := ha
  rw [hcore, hc]
  by_cases htiles : tiles = []
  · rw [if_pos (.inr htiles), htiles]
    rw [htiles] at h
    exact h
  · rw [if_neg (by rintro (h64 | h0); · omega
                   · exact htiles h0)]
    exact h.setCore _

/-- The addresses of core n's own memory. -/
theorem div_of_inWindow {a : Nat} (h : s.inWindow n a k = true) (hk : 0 < k) : a / Config.coreMemBytes = n := by
  unfold State.inWindow inOwnMemory at h
  simp only [Bool.and_eq_true, decide_eq_true_eq] at h
  obtain ⟨⟨hlo, hhi⟩, -⟩ := h
  exact Nat.div_eq_of_lt_le hlo (by omega)

/-! ### How an access ends -/

/-- What an L syllable of `size` bytes at the effective address does, by where that address lies; `loads` tells whether it reads. -/
structure Access (op : CoreOp) (size : Nat) (loads : Bool) (s : State) (is : Issue) (u : State) : Prop where
  addr : s.inWindow is.core.val (effAddr s (arg is)).toNat size = false → runOp op (arg is) u = u.fault (arg is) evADDR none
  align : s.inWindow is.core.val (effAddr s (arg is)).toNat size = true → (effAddr s (arg is)).toNat % size ≠ 0 →
    runOp op (arg is) u = u.fault (arg is) evALIGN none
  ecc : s.inWindow is.core.val (effAddr s (arg is)).toNat size = true → (effAddr s (arg is)).toNat % size = 0 → is.ecc = .uncorrectable → loads = true →
    runOp op (arg is) u = u.sylRead (arg is) (effAddr s (arg is)).toNat id
  goes : s.inWindow is.core.val (effAddr s (arg is)).toNat size = true → (effAddr s (arg is)).toNat % size = 0 → is.ecc ≠ .uncorrectable ∨ loads = false →
    ∃ l tiles mem tags, State.Becomes s (runOp op (arg is) u) is.core.val ((s.core is.core.val).acted (Issue.syl op is) l none tiles) mem tags
      ∧ dueNow l = postIncs (s.core is.core.val) is.body

variable {op : CoreOp} {is : Issue} {size : Nat}

/-- An access outside the window, or misaligned, or within reach. -/
theorem access_addr (hu : State.Issuing s u is.core.val y) (f : Nat → State → State) (hw : s.inWindow is.core.val (effAddr s (arg is)).toNat size = false) :
    u.access (arg is) size f = u.fault (arg is) evADDR none := by
  unfold State.access
  rw [hu.effAddr]
  exact if_pos (by rw [hu.inWindow, hw]; exact Bool.false_ne_true)

theorem access_align (hu : State.Issuing s u is.core.val y) (f : Nat → State → State) (hw : s.inWindow is.core.val (effAddr s (arg is)).toNat size = true)
    (ha : (effAddr s (arg is)).toNat % size ≠ 0) : u.access (arg is) size f = u.fault (arg is) evALIGN none := by
  unfold State.access
  rw [hu.effAddr]
  exact (if_neg (by rw [hu.inWindow, hw]; exact not_not_intro rfl)).trans (if_pos ha)

theorem access_goes (hu : State.Issuing s u is.core.val y) (f : Nat → State → State) (hw : s.inWindow is.core.val (effAddr s (arg is)).toNat size = true)
    (ha : (effAddr s (arg is)).toNat % size = 0) : u.access (arg is) size f = (f (effAddr s (arg is)).toNat u).postInc (arg is) := by
  unfold State.access
  rw [hu.effAddr]
  exact (if_neg (by rw [hu.inWindow, hw]; exact not_not_intro rfl)).trans (if_neg (not_not_intro ha))

theorem dueNow_postIncs (c : Core) (b : BitVec 64) : dueNow (postIncs c b) = postIncs c b :=
  dueNow_plain fun r hr => by
    unfold postIncs at hr
    split at hr
    · rw [List.mem_singleton.1 hr]
      rfl
    · exact absurd hr (by simp)

/-- A load's result stays in flight as its bundle ends. -/
theorem dueNow_load (d : Nat) (x : Vec) (p : Pred) (q : Byte) (kind : Nat) (l : List Land) : dueNow (⟨d, 4, x, p, q, kind⟩ :: l) = dueNow l :=
  List.filter_cons_of_neg (by simp)

theorem anyClash_postIncs (c : Core) (b : BitVec 64) : anyClash (postIncs c b) = false := by
  unfold postIncs
  split <;> rfl

/-- An access whose operation is a scalar load. -/
theorem load_access {kind : Nat} {ext : Nat → Nat} (h : s.Acts op is) (hu : State.Issuing s u is.core.val (Issue.syl op is))
    (hop : runOp op (arg is) u = u.load (arg is) size kind ext) : Access op size true s is u := by
  have hgo : ¬ (s.inWindow is.core.val (effAddr s (arg is)).toNat size ∧ (effAddr s (arg is)).toNat % size = 0 ∧ is.ecc = .uncorrectable) →
      runOp op (arg is) u = u.access (arg is) size fun a s => s.sylRead (arg is) a fun s =>
        s.result is.core.val (sylD is.body) 4 (BitVec.ofNat 1024 (ext (memNat s.mem size a))) (BitVec.allOnes 128) 0#8 kind := fun hno => by
    rw [hop, State.load, hu.effAddr]
    exact if_neg (by rw [hu.inWindow]; exact hno)
  constructor
  · intro hw
    rw [hgo (by rw [hw]; exact fun h => Bool.false_ne_true h.1)]
    exact access_addr hu _ hw
  · intro hw ha
    rw [hgo fun h => ha h.2.1]
    exact access_align hu _ hw ha
  · intro hw ha he _
    rw [hop, State.load, hu.effAddr]
    exact if_pos (by rw [hu.inWindow]; exact ⟨hw, ha, he⟩)
  · intro hw ha he
    have he' : is.ecc ≠ .uncorrectable := he.resolve_right (by decide)
    rw [hgo fun h => he' h.2.2, access_goes hu _ hw ha]
    obtain ⟨w, hb, e⟩ := eccRead_goes hu is.core.val ((effAddr s (arg is)).toNat % Config.coreMemBytes) (u.core is.core.val).nextPc he' fun s' =>
      s'.result is.core.val (sylD is.body) 4 (BitVec.ofNat 1024 (ext (memNat s'.mem size (effAddr s (arg is)).toNat))) (BitVec.allOnes 128) 0#8 kind
    rw [show u.sylRead (arg is) (effAddr s (arg is)).toNat _ = _ from e]
    rw [acted_nil h.inflight] at hb
    refine ⟨_, _, _, _, (hb.result ..).postInc, ?_⟩
    exact (dueNow_load ..).trans (dueNow_postIncs ..)

/-- An access whose operation is a scalar store. -/
theorem storeSyl_goes {x : Nat} (h : s.Acts op is) (hu : State.Issuing s u is.core.val (Issue.syl op is)) (hs : 0 < size)
    (hw : s.inWindow is.core.val (effAddr s (arg is)).toNat size = true) (ha : (effAddr s (arg is)).toNat % size = 0) :
    State.Becomes s (u.storeSyl (arg is) size x) is.core.val ((s.core is.core.val).acted (Issue.syl op is) (postIncs (s.core is.core.val) is.body) none
      (linesLeft (effAddr s (arg is)).toNat size (s.core is.core.val).tileCache))
      (memPutNat s.mem size (effAddr s (arg is)).toNat x) (tagRange s.tags (effAddr s (arg is)).toNat size 0#6) := by
  have hstored := hu.store size (effAddr s (arg is)).toNat x
  rw [if_neg (by omega), acted_nil h.inflight] at hstored
  have hb := (hstored.dropCached size (div_of_inWindow hw hs) is.core.isLt).postInc (slot := is.slot.val) (b := is.body) (e := is.ecc)
  rw [List.nil_append] at hb
  unfold State.storeSyl
  rw [access_goes hu _ hw ha]
  exact hb

theorem storeSyl_access {x : Nat} (h : s.Acts op is) (hu : State.Issuing s u is.core.val (Issue.syl op is)) (hs : 0 < size)
    (hop : runOp op (arg is) u = u.storeSyl (arg is) size x) : Access op size false s is u where
  addr hw := hop.trans (access_addr hu _ hw)
  align hw ha := hop.trans (access_align hu _ hw ha)
  ecc _ _ _ hl := absurd hl (by decide)
  goes hw ha _ := ⟨_, _, _, _, hop ▸ storeSyl_goes h hu hs hw ha, dueNow_postIncs ..⟩

/-- An access whose operation is LDV through no walker. -/
theorem ldv_access (h : s.Acts .ldv is) (hu : State.Issuing s u is.core.val (Issue.syl .ldv is)) (hno : boundWalker s (arg is) = none)
    (hm : laneMask (s.core is.core.val) is.body ≠ 0#128) : Access .ldv 128 true s is u := by
  have hgo : runOp .ldv (arg is) u = if ¬ s.inWindow is.core.val (effAddr s (arg is)).toNat 128 then u.fault (arg is) evADDR none
      else if (effAddr s (arg is)).toNat % 128 ≠ 0 then u.fault (arg is) evALIGN none
      else if is.ecc = .uncorrectable then u.sylRead (arg is) (effAddr s (arg is)).toNat id
      else (u.sylRead (arg is) (effAddr s (arg is)).toNat fun s' => s'.result is.core.val (sylD is.body) 4
        (BitVec.ofNat 1024 (memNat u.mem 128 (effAddr s (arg is)).toNat)) (laneMask (s.core is.core.val) is.body) 0#8 2).postInc (arg is) := by
    show opLdv (arg is) u = _
    unfold opLdv
    rw [hu.effAddr, hu.boundWalker, hno, hu.laneMask]
    extract_lets m a fin
    dsimp only
    rw [if_neg hm, hu.inWindow]
    rfl
  constructor
  · intro hw
    rw [hgo, if_pos (by rw [hw]; exact Bool.false_ne_true)]
  · intro hw ha
    rw [hgo, if_neg (not_not_intro hw), if_pos ha]
  · intro hw ha he _
    rw [hgo, if_neg (not_not_intro hw), if_neg (not_not_intro ha), if_pos he]
  · intro hw ha he
    have he' : is.ecc ≠ .uncorrectable := he.resolve_right (by decide)
    rw [hgo, if_neg (not_not_intro hw), if_neg (not_not_intro ha), if_neg he']
    obtain ⟨w, hb, e⟩ := eccRead_goes hu is.core.val ((effAddr s (arg is)).toNat % Config.coreMemBytes) (u.core is.core.val).nextPc he' fun s' =>
      s'.result is.core.val (sylD is.body) 4 (BitVec.ofNat 1024 (memNat u.mem 128 (effAddr s (arg is)).toNat)) (laneMask (s.core is.core.val) is.body) 0#8 2
    rw [show u.sylRead (arg is) (effAddr s (arg is)).toNat _ = _ from e]
    rw [acted_nil h.inflight] at hb
    refine ⟨_, _, _, _, (hb.result ..).postInc, ?_⟩
    exact (dueNow_load ..).trans (dueNow_postIncs ..)

/-- STV through no walker, with a lane on. -/
theorem opStv_eq (hu : State.Issuing s u is.core.val (Issue.syl .stv is)) (hno : boundWalker s (arg is) = none) :
    opStv (arg is) u = if laneMask (s.core is.core.val) is.body = 0#128 then u.postInc (arg is)
      else if ¬ s.inWindow is.core.val (effAddr s (arg is)).toNat 128 then u.fault (arg is) evADDR none
      else if (effAddr s (arg is)).toNat % 128 ≠ 0 then u.fault (arg is) evALIGN none
      else ((u.storeMask 128 (effAddr s (arg is)).toNat ((s.core is.core.val).readV (sylD is.body - 0x40)).toNat
        (laneMask (s.core is.core.val) is.body).toNat).dropCached (effAddr s (arg is)).toNat 128).postInc (arg is) := by
  have hv : (u.core (arg is).n).readV = (s.core is.core.val).readV := by
    rw [show u.core (arg is).n = _ from hu.core]
    rfl
  unfold opStv
  rw [hu.effAddr, hu.boundWalker, hno, hu.laneMask, hv]
  extract_lets m a v put
  simp only [put]
  rw [hu.inWindow]
  rfl

theorem stv_access (h : s.Acts .stv is) (hu : State.Issuing s u is.core.val (Issue.syl .stv is)) (hno : boundWalker s (arg is) = none)
    (hm : laneMask (s.core is.core.val) is.body ≠ 0#128) : Access .stv 128 false s is u := by
  have hgo : runOp .stv (arg is) u = _ := opStv_eq hu hno
  rw [if_neg hm] at hgo
  constructor
  · intro hw
    rw [hgo, if_pos (by rw [hw]; exact Bool.false_ne_true)]
  · intro hw ha
    rw [hgo, if_neg (not_not_intro hw), if_pos ha]
  · exact fun _ _ _ hl => absurd hl (by decide)
  · intro hw ha _
    rw [hgo, if_neg (not_not_intro hw), if_neg (not_not_intro ha)]
    rw [State.Issuing, acted_nil h.inflight] at hu
    exact ⟨_, _, _, _, ((hu.storeMask ..).dropCached 128 (div_of_inWindow hw (by decide)) is.core.isLt).postInc, dueNow_postIncs ..⟩

end Sys2Proof.Machine
end

section
namespace Sys2Proof.Machine
open Sys2Proof Sys2Proof.Claims

variable {s t u v : State} {n m k : Nat} {c d e : Core} {y : Syl} {op : CoreOp} {is : Issue}

/-! ## Stores and faults of accesses -/

/-- The base register of an L syllable is an a register. -/
theorem formM_base {b : BitVec 64} {d : Nat → Bool} (h : formM b d = true) : 0x20 ≤ sylA b ∧ sylA b < 0x30 := by
  simp only [formM, isA, Bool.and_eq_true, decide_eq_true_eq] at h
  exact h.1.2

/-- What the core is behind an L syllable that only post-increments its base register. -/
theorem finished_postIncs (c : Core) (b : BitVec 64) (next : Addr48) (tiles : List Nat) (hb : 0x20 ≤ sylA b ∧ sylA b < 0x30) :
    (sylPI b = true → (c.finished next (postIncs c b) tiles).readA (sylA b - 0x20) = c.readA (sylA b - 0x20) + sylOfsM b)
      ∧ Core.KeepsBut (if sylPI b then (if 0x2C ≤ sylA b then [sylA b, 0x100] else [sylA b]) else []) c (c.finished next (postIncs c b) tiles) := by
  obtain ⟨hlo, hhi⟩ := hb
  unfold Core.finished
  rw [dueNow_postIncs]
  by_cases hp : sylPI b = true
  · have hl : postIncs c b = [plainLand (sylA b) (c.readA (sylA b - 0x20) + sylOfsM b).toNat] := if_pos hp
    rw [hl, landAll_one, if_pos hp]
    refine ⟨fun _ => ?_, (gone_keeps.trans cycled_keeps).trans (land_plain_keeps (.inl hhi) ?_ fun hw _ => ?_)⟩
    · rw [land_plain_readA _ _ hlo hhi, BitVec.ofNat_toNat, BitVec.setWidth_eq]
    · split <;> simp
    · rw [if_pos hw]
      simp
  · have hl : postIncs c b = [] := if_neg hp
    rw [hl, if_neg hp]
    exact ⟨fun h => absurd h hp, gone_keeps.trans cycled_keeps⟩

/-- The scalar stores: an operation that is a store of the low bytes of a register. -/
theorem stores_of {mk : Issue → Instr} {size : Nat} {v : Core → Nat → Nat} (hexec : ∀ is s, exec (mk is) s = .next (s.stage op is))
    (h1 : op ≠ .twait) (h2 : op ≠ .tacq) (h3 : op ≠ .vmrd) (hs : 0 < size) (hbase : ∀ slot b, sylLegal op slot b = true → 0x20 ≤ sylA b ∧ sylA b < 0x30)
    (hop : ∀ x u, runOp op x u = u.storeSyl x size (v (u.core x.n) (sylD x.body))) (hv : ∀ c y d, v (Core.ready c y) d = v c d) :
    stores mk op size v := by
  intro is s h n x a b hw ha
  have hrun : ∀ u, State.Issuing s u n (Issue.syl op is) → runOp op (arg is) u = u.storeSyl (arg is) size (v (s.core n) (sylD is.body)) := fun u hu => by
    rw [hop, show u.core (arg is).n = _ from hu.core, hv]
    rfl
  have hb := acts_passes h (looked_notHeld is h1 h2 h3) (fun u hu => hrun u hu ▸ storeSyl_goes h hu hs hw ha)
    (by rw [dueNow_postIncs]; exact anyClash_postIncs ..)
  obtain ⟨hread, hkeep⟩ := finished_postIncs (s.core n) is.body (none.getD ((s.core n).pc + 16)) (linesLeft a size (s.core n).tileCache) (hbase _ _ h.legal)
  refine ⟨_, hexec is s, fun i hi => ?_, fun i hi => ?_, fun i hi => ?_, fun hp => ?_, falls_of_finished hb, ?_, hb.frame hkeep⟩
  · rw [hb.mem_eq]
    exact memByte_memPutNat_self _ _ _ _ _ hi
  · rw [hb.mem_eq]
    exact memByte_memPutNat _ _ _ _ _ hi
  · rw [hb.tags_eq, get_tagRange]
    exact if_pos (by rw [show (effAddr s (arg is)).toNat = a from rfl]; omega)
  · rw [hb.core]
    exact hread hp
  · obtain ⟨o, k, e⟩ := hb.rest
    exact ⟨o, k, _, _, e⟩

theorem stb_stores : stores .stb .stb 1 fun c d => (c.readG d).toNat :=
  stores_of (fun _ _ => rfl) (by decide) (by decide) (by decide) (by decide) (fun _ _ h => formM_base (sylLegal_fields h)) (fun _ _ => rfl) fun _ _ _ => rfl

theorem sth_stores : stores .sth .sth 2 fun c d => (c.readG d).toNat :=
  stores_of (fun _ _ => rfl) (by decide) (by decide) (by decide) (by decide) (fun _ _ h => formM_base (sylLegal_fields h)) (fun _ _ => rfl) fun _ _ _ => rfl

theorem stw_stores : stores .stw .stw 4 fun c d => (c.readG d).toNat :=
  stores_of (fun _ _ => rfl) (by decide) (by decide) (by decide) (by decide) (fun _ _ h => formM_base (sylLegal_fields h)) (fun _ _ => rfl) fun _ _ _ => rfl

theorem sta_stores : stores .sta .sta 8 fun c d => (c.readA (d - 0x20)).toNat :=
  stores_of (fun _ _ => rfl) (by decide) (by decide) (by decide) (by decide) (fun _ _ h => formM_base (sylLegal_fields h)) (fun _ _ => rfl) fun _ _ _ => rfl

theorem stp_stores : stores .stp .stp 16 fun c d => (c.readP (d - 0x30)).toNat :=
  stores_of (fun _ _ => rfl) (by decide) (by decide) (by decide) (by decide) (fun _ _ h => formM_base (sylLegal_fields h)) (fun _ _ => rfl) fun _ _ _ => rfl

/-- Byte i of a vector. -/
theorem elem_one (x : Vec) (i : Nat) : BitVec.ofNat 8 (elem x 1 i) = BitVec.ofNat 8 (x.toNat / 256 ^ i) := by
  apply BitVec.eq_of_toNat_eq
  rw [elem, BitVec.toNat_ofNat, BitVec.toNat_ofNat, Nat.mul_one, Nat.mod_mod, pow_mul]
  rfl

/-- STV through no walker writes the lanes of its mask alone; with no lane on it writes nothing. -/
theorem stv_goes (h : s.Acts .stv is) (hu : State.Issuing s u is.core.val (Issue.syl .stv is)) (hno : boundWalker s (arg is) = none)
    (hw : s.inWindow is.core.val (effAddr s (arg is)).toNat 128 = true) (ha : (effAddr s (arg is)).toNat % 128 = 0) :
    ∃ tiles mem tags, State.Becomes s (opStv (arg is) u) is.core.val
        ((s.core is.core.val).acted (Issue.syl .stv is) (postIncs (s.core is.core.val) is.body) none tiles) mem tags
      ∧ mem = if laneMask (s.core is.core.val) is.body = 0#128 then s.mem else
        memPutMask s.mem 128 (effAddr s (arg is)).toNat ((s.core is.core.val).readV (sylD is.body - 0x40)).toNat (laneMask (s.core is.core.val) is.body).toNat := by
  rw [opStv_eq hu hno]
  rw [State.Issuing, acted_nil h.inflight] at hu
  by_cases hm : laneMask (s.core is.core.val) is.body = 0#128
  · rw [if_pos hm, if_pos hm]
    exact ⟨_, _, _, hu.postInc, rfl⟩
  · rw [if_neg hm, if_neg (not_not_intro hw), if_neg (not_not_intro ha), if_neg hm]
    exact ⟨_, _, _, ((hu.storeMask ..).dropCached 128 (div_of_inWindow hw (by decide)) is.core.isLt).postInc, rfl⟩

theorem stv_spec (is : Issue) (s : State) (h : s.Acts .stv is) (hno : boundWalker s (arg is) = none) :
    let n := is.core.val
    let a := (effAddr s (arg is)).toNat
    let m := laneMask (s.core n) is.body
    s.inWindow n a 128 = true → a % 128 = 0 →
      ∃ t, exec (.stv is) s = .next t
        ∧ (∀ i < 128, memByte t.mem (a + i) = if m.getLsbD i then BitVec.ofNat 8 (elem ((s.core n).readV (sylD is.body - 0x40)) 1 i)
            else memByte s.mem (a + i))
        ∧ (∀ i, i < a ∨ a + 128 ≤ i → memByte t.mem i = memByte s.mem i)
        ∧ falls n s t ∧ (∃ o k m g, t = { s with obj := o, cores := k, mem := m, tags := g }) := by
  intro n a m hw ha
  obtain ⟨u, hu, e⟩ := acts_runs h (looked_notHeld is (by decide) (by decide) (by decide))
  obtain ⟨tiles, mem, tags, hst, hmem⟩ := stv_goes h hu hno hw ha
  have hb := hst.finishBundle (opInSlot_lt _ _ h.slot) h.noLoop (by rw [dueNow_postIncs]; exact anyClash_postIncs ..)
  rw [← show s.stage .stv is = (opStv (arg is) u).finishBundle n from e] at hb
  refine ⟨_, rfl, fun i hi => ?_, fun i hi => ?_, falls_of_finished hb, ?_⟩
  · rw [hb.mem_eq, hmem]
    split
    next h0 =>
      rw [show m = 0#128 from h0]
      simp
    next => rw [elem_one]; exact memByte_memPutMask_self _ _ _ _ _ _ hi
  · rw [hb.mem_eq, hmem]
    split
    next => rfl
    next => exact memByte_memPutMask _ _ _ _ _ _ hi
  · obtain ⟨o, k, e⟩ := hb.rest
    exact ⟨o, k, _, _, e⟩

/-! ### Faults -/

/-- What a fault of an access leaves: the event at an address, runtime mode, nothing in flight, and the registers as they were. -/
def Faulted (s t : State) (n cause : Nat) (pc : Addr48) : Prop :=
  (t.core n).curCtx.evtCause = BitVec.ofNat 32 cause ∧ (t.core n).curCtx.evtPc = pc ∧ (t.core n).jobMode = false ∧ (t.core n).inflight = []
    ∧ ∀ i, (t.core n).readG i = (s.core n).readG i ∧ (t.core n).readA i = (s.core n).readA i ∧ (t.core n).readV i = (s.core n).readV i

theorem Core.Raised.faulted {cause : Nat} {pc : Addr48} (h : Core.Raised (s.core n) (t.core n) cause pc) : Faulted s t n cause pc :=
  ⟨h.cause, h.pc, h.jobMode, h.inflight, fun i => ⟨h.g i, h.a i, h.v i⟩⟩

/-- The bundle next to issue behind a bundle of one syllable that has not decided otherwise. -/
theorem State.Issuing.nextPc (hu : State.Issuing s u n y) (hy : y.slot < 7)
    (hl : ∀ k < 4, (s.core n).readLc k = 0#32 ∨ (s.core n).readLe k ≠ (s.core n).pc) : (u.core n).nextPc = (s.core n).pc + 16 := by
  rw [hu.core]
  unfold Core.nextPc
  rw [bundleLen_one (c := (s.core n).ready y) rfl hy]
  exact congrArg Prod.snd (loopNext_none _ _ _ _ 4 _ hl)

/-- A job's read beyond the runtime region that meets an uncorrectable error. -/
theorem sylRead_ecc {a : Nat} (hu : State.Issuing s u is.core.val (Issue.syl op is)) (hm : (s.core is.core.val).jobMode = true)
    (he : is.ecc = .uncorrectable) (ha : 0x10000 ≤ a % Config.coreMemBytes) (f : State → State) :
    ∃ info, u.sylRead (arg is) a f = u.raise is.core.val evECC (u.core is.core.val).nextPc info := by
  have hmode : (u.core is.core.val).jobMode = true := by
    rw [hu.core]
    exact hm
  refine ⟨some (BitVec.ofNat 32 (a % Config.coreMemBytes)), ?_⟩
  unfold State.sylRead
  rw [show (arg is).ecc = .uncorrectable from he]
  show u.eccFault is.core.val (a % Config.coreMemBytes) (u.core is.core.val).nextPc = _
  unfold State.eccFault
  extract_lets c
  rw [if_neg (by omega), if_pos hmode]

/-- How an access ends, by where its address lies and what it meets there. -/
theorem access_spec {mk : Issue → Instr} {size : Nat} {loads : Bool} (hexec : ∀ is s, exec (mk is) s = .next (s.stage op is)) (h : s.Acts op is)
    (hop : op ≠ .twait ∧ op ≠ .tacq ∧ op ≠ .vmrd) (hacc : ∀ u, State.Issuing s u is.core.val (Issue.syl op is) → Access op size loads s is u) :
    let n := is.core.val
    let a := (effAddr s (arg is)).toNat
    (s.inWindow n a size = false → ∃ t, exec (mk is) s = .next t ∧ Faulted s t n 0x12 (s.core n).pc)
    ∧ (s.inWindow n a size = true → a % size ≠ 0 → ∃ t, exec (mk is) s = .next t ∧ Faulted s t n 0x13 (s.core n).pc)
    ∧ (s.inWindow n a size = true → a % size = 0 → is.ecc = .uncorrectable → loads = true → (s.core n).jobMode = true →
      0x10000 ≤ a % Config.coreMemBytes → ∃ t, exec (mk is) s = .next t ∧ Faulted s t n 0x20 ((s.core n).pc + 16))
    ∧ (s.inWindow n a size = true → a % size = 0 → is.ecc ≠ .uncorrectable ∨ loads = false →
      ∃ t, exec (mk is) s = .next t ∧ (t.core n).jobMode = (s.core n).jobMode ∧ falls n s t) := by
  intro n a
  obtain ⟨h1, h2, h3⟩ := hop
  refine ⟨fun hw => ?_, fun hw ha => ?_, fun hw ha he hl hm hoff => ?_, fun hw ha he => ?_⟩
  · exact ⟨_, hexec is s, (acts_raises h h1 h2 h3 fun u hu => ⟨none, ((hacc u hu).addr hw).trans (hu.fault_pc (by decide) none)⟩).faulted⟩
  · exact ⟨_, hexec is s, (acts_raises h h1 h2 h3 fun u hu => ⟨none, ((hacc u hu).align hw ha).trans (hu.fault_pc (by decide) none)⟩).faulted⟩
  · refine ⟨_, hexec is s, (acts_raises h h1 h2 h3 fun u hu => ?_).faulted⟩
    obtain ⟨info, e⟩ := sylRead_ecc hu hm he hoff id
    rw [hu.nextPc (opInSlot_lt _ _ h.slot) h.noLoop] at e
    exact ⟨info, ((hacc u hu).ecc hw ha he hl).trans e⟩
  · obtain ⟨u, hu, e⟩ := acts_runs h (looked_notHeld is h1 h2 h3)
    obtain ⟨l, tiles, mem, tags, hb, hdue⟩ := (hacc u hu).goes hw ha he
    have hfin := hb.finishBundle (opInSlot_lt _ _ h.slot) h.noLoop (by rw [hdue]; exact anyClash_postIncs ..)
    rw [← e] at hfin
    refine ⟨_, hexec is s, ?_, falls_of_finished hfin⟩
    rw [hfin.core]
    exact finished_jobMode

/-- The loads and stores with their sizes. -/
def accessOps : List (CoreOp × (Issue → Instr) × Nat) :=
  [(CoreOp.ldb, Instr.ldb, 1), (.ldbu, .ldbu, 1), (.ldh, .ldh, 2), (.ldhu, .ldhu, 2), (.ldw, .ldw, 4), (.lda, .lda, 8), (.ldp, .ldp, 16), (.ldv, .ldv, 128),
    (.stb, .stb, 1), (.sth, .sth, 2), (.stw, .stw, 4), (.sta, .sta, 8), (.stp, .stp, 16), (.stv, .stv, 128)]

/-- Whether an operation is one of the loads. -/
def isLoad (op : CoreOp) : Bool := decide (op ∈ [CoreOp.ldb, .ldbu, .ldh, .ldhu, .ldw, .lda, .ldp, .ldv])

/-- Each of them is an access. -/
theorem accessOps_access {mk : Issue → Instr} {size : Nat} (hmem : (op, mk, size) ∈ accessOps) (h : s.Acts op is)
    (hv : size = 128 → boundWalker s (arg is) = none ∧ laneMask (s.core is.core.val) is.body ≠ 0#128)
    (hu : State.Issuing s u is.core.val (Issue.syl op is)) : Access op size (isLoad op) s is u := by
  simp only [accessOps, List.mem_cons, Prod.mk.injEq, List.not_mem_nil, or_false] at hmem
  rcases hmem with ⟨rfl, -, rfl⟩ | ⟨rfl, -, rfl⟩ | ⟨rfl, -, rfl⟩ | ⟨rfl, -, rfl⟩ | ⟨rfl, -, rfl⟩ | ⟨rfl, -, rfl⟩ | ⟨rfl, -, rfl⟩ | ⟨rfl, -, rfl⟩ | hstore
  · exact load_access (kind := 1) (ext := fun v => wrapTo 32 (signed 8 v)) h hu rfl
  · exact load_access (kind := 1) (ext := id) h hu rfl
  · exact load_access (kind := 1) (ext := fun v => wrapTo 32 (signed 16 v)) h hu rfl
  · exact load_access (kind := 1) (ext := id) h hu rfl
  · exact load_access (kind := 1) (ext := id) h hu rfl
  · exact load_access (kind := 1) (ext := fun v => v % 2 ^ 48) h hu rfl
  · exact load_access (kind := 1) (ext := id) h hu rfl
  · exact ldv_access h hu (hv rfl).1 (hv rfl).2
  rcases hstore with ⟨rfl, -, rfl⟩ | ⟨rfl, -, rfl⟩ | ⟨rfl, -, rfl⟩ | ⟨rfl, -, rfl⟩ | ⟨rfl, -, rfl⟩ | ⟨rfl, -, rfl⟩
  iterate 5 exact storeSyl_access h hu (by decide) rfl
  · exact stv_access h hu (hv rfl).1 (hv rfl).2

/-- None of them is looked at for a hold, and each is staged. -/
theorem accessOps_staged {mk : Issue → Instr} {size : Nat} (hmem : (op, mk, size) ∈ accessOps) :
    (∀ is s, exec (mk is) s = .next (s.stage op is)) ∧ (op ≠ .twait ∧ op ≠ .tacq ∧ op ≠ .vmrd)
      ∧ (op ∈ [CoreOp.stb, .sth, .stw, .sta, .stp, .stv] → isLoad op = false) := by
  simp only [accessOps, List.mem_cons, Prod.mk.injEq, List.not_mem_nil, or_false] at hmem
  rcases hmem with ⟨rfl, rfl, -⟩ | ⟨rfl, rfl, -⟩ | ⟨rfl, rfl, -⟩ | ⟨rfl, rfl, -⟩ | ⟨rfl, rfl, -⟩ | ⟨rfl, rfl, -⟩ | ⟨rfl, rfl, -⟩ | ⟨rfl, rfl, -⟩ | ⟨rfl, rfl, -⟩
    | ⟨rfl, rfl, -⟩ | ⟨rfl, rfl, -⟩ | ⟨rfl, rfl, -⟩ | ⟨rfl, rfl, -⟩ | ⟨rfl, rfl, -⟩
  iterate 14 exact ⟨fun _ _ => rfl, by decide, by decide⟩

theorem accessFaults_spec (op : CoreOp) (mk : Issue → Instr) (size : Nat) (is : Issue) (s : State) (hmem : (op, mk, size) ∈ accessOps) (h : s.Acts op is)
    (hv : size = 128 → boundWalker s (arg is) = none ∧ laneMask (s.core is.core.val) is.body ≠ 0#128) :
    let n := is.core.val
    let a := (effAddr s (arg is)).toNat
    let ends : Nat → Addr48 → Prop := fun cause pc => ∃ t, exec (mk is) s = .next t ∧ Faulted s t n cause pc
    (s.inWindow n a size = false → ends 0x12 (s.core n).pc) ∧ (s.inWindow n a size = true → a % size ≠ 0 → ends 0x13 (s.core n).pc)
    ∧ (s.inWindow n a size = true → a % size = 0 → is.ecc = .uncorrectable → op ∈ [.ldb, .ldbu, .ldh, .ldhu, .ldw, .lda, .ldp, .ldv] → (s.core n).jobMode = true →
      0x10000 ≤ a % Config.coreMemBytes → ends 0x20 ((s.core n).pc + 16))
    ∧ (s.inWindow n a size = true → a % size = 0 → is.ecc ≠ .uncorrectable ∨ op ∈ [.stb, .sth, .stw, .sta, .stp, .stv] → ∃ t, exec (mk is) s = .next t ∧ (t.core n).jobMode = (s.core n).jobMode ∧ falls n s t) := by
  intro n a ends
  obtain ⟨hexec, hop, hstore⟩ := accessOps_staged hmem
  obtain ⟨haddr, halign, hecc, hgoes⟩ := access_spec hexec h hop fun u hu => accessOps_access hmem h hv hu
  exact ⟨haddr, halign, fun hw ha he hl => hecc hw ha he (decide_eq_true hl), fun hw ha he => hgoes hw ha (he.imp_right hstore)⟩

/-- Settles O6: a store writes its bytes and no other, and each of the fourteen accesses ends by where its address lies. -/
theorem storesAndAlignment : Obligations.StoresAndAlignment :=
  ⟨⟨stb_stores, sth_stores, stw_stores, sta_stores, stp_stores, stv_spec⟩, accessFaults_spec⟩

end Sys2Proof.Machine
end

section
namespace Sys2Proof.Machine
open Sys2Proof Sys2Proof.Claims

variable {s t u v : State} {n m k : Nat} {c d e : Core}

/-! ## Stops: the bytes of a save area -/

/-- Reads of k bytes at a see the bytes there alone. -/
theorem memNat_congr {p q : List Host.Cell} (k : Nat) : ∀ a, (∀ i, a ≤ i → i < a + k → memByte q i = memByte p i) → memNat q k a = memNat p k a := by
  induction k with
  | zero => exact fun _ _ => rfl
  | succ k ih =>
    intro a h
    rw [memNat, memNat, h a (by omega) (by omega), ih (a + 1) fun i h1 h2 => h i (by omega) (by omega)]

/-- Part of what has been stored, read back. -/
theorem memNat_memPutNat_part {m : List Host.Cell} {n a x : Nat} (k : Nat) : ∀ i, i + k ≤ n → memNat (memPutNat m n a x) k (a + i) = x / 256 ^ i % 256 ^ k := by
  induction k with
  | zero => intro i _; rw [memNat, pow_zero, Nat.mod_one]
  | succ k ih =>
    intro i h
    rw [memNat, memByte_memPutNat_self _ _ _ _ _ (by omega), show a + i + 1 = a + (i + 1) by omega, ih _ (by omega), pow_succ 256 i, ← Nat.div_div_eq_div_mul,
      pow_succ 256 k, Nat.mul_comm (256 ^ k), Nat.mod_mul, BitVec.toNat_ofNat]

theorem memNat_memPutNat_other {m : List Host.Cell} {n a x k b : Nat} (h : b + k ≤ a ∨ a + n ≤ b) : memNat (memPutNat m n a x) k b = memNat m k b :=
  memNat_congr k b fun i h1 h2 => memByte_memPutNat _ _ _ _ _ (by omega)

theorem packFile_succ (size k : Nat) (f : Nat → Nat) : packFile size (k + 1) f = packFile size k f + f k % 2 ^ (8 * size) * 2 ^ (8 * size * k) := by
  rw [packFile, List.range_succ, List.foldl_append]
  rfl

theorem packFile_lt (size k : Nat) (f : Nat → Nat) : packFile size k f < 2 ^ (8 * size * k) := by
  induction k with
  | zero => exact Nat.one_pos
  | succ k ih =>
    have hmod : f k % 2 ^ (8 * size) + 1 ≤ 2 ^ (8 * size) := Nat.mod_lt _ (by positivity)
    have hmul := Nat.mul_le_mul_right (2 ^ (8 * size * k)) hmod
    rw [packFile_succ, show 8 * size * (k + 1) = 8 * size + 8 * size * k by ring, pow_add]
    rw [Nat.add_mul, Nat.one_mul] at hmul
    omega

/-- Register i of a packed file. -/
theorem packFile_part (size k : Nat) (f : Nat → Nat) {i : Nat} (hi : i < k) : packFile size k f / 2 ^ (8 * size * i) % 2 ^ (8 * size) = f i % 2 ^ (8 * size) := by
  induction k with
  | zero => omega
  | succ k ih =>
    rw [packFile_succ]
    by_cases hk : i = k
    · rw [hk, Nat.add_mul_div_right _ _ (by positivity), Nat.div_eq_of_lt (packFile_lt ..), Nat.zero_add, Nat.mod_mod]
    · obtain ⟨j, rfl⟩ := Nat.exists_eq_add_of_lt (show i < k by omega)
      have hpow : f (i + j + 1) % 2 ^ (8 * size) * 2 ^ (8 * size * (i + j + 1))
          = 2 ^ (8 * size) * (f (i + j + 1) % 2 ^ (8 * size) * 2 ^ (8 * size * j)) * 2 ^ (8 * size * i) := by ring
      rw [hpow, Nat.add_mul_div_right _ _ (by positivity), Nat.add_mul_mod_self_left, ih (by omega)]

theorem memNat_packFile {m : List Host.Cell} {n a size count : Nat} (f : Nat → Nat) (hn : n = size * count) {i k : Nat} (hi : i < count) (hk : k ≤ size) :
    memNat (memPutNat m n a (packFile size count f)) k (a + size * i) = f i % 2 ^ (8 * size) % 2 ^ (8 * k) := by
  have hle : size * i + size ≤ n := by
    rw [hn, ← Nat.mul_succ]
    exact Nat.mul_le_mul_left _ hi
  rw [memNat_memPutNat_part k _ (by omega), ← packFile_part size count f hi, show 256 = 2 ^ 8 by norm_num, ← pow_mul, ← pow_mul, ← Nat.mul_assoc,
    Nat.mod_mod_of_dvd _ (pow_dvd_pow 2 (by omega))]

/-! ### What else a save writes -/

/-- Records in flight are written behind the registers of the save area, and not among its vector registers. -/
theorem storeLands_mem (a : Nat) (l : List Land) : ∀ (s : State) (i : Nat), i + l.length ≤ 17 → ∀ b, b < a + 0x300 ∨ a + 0x800 ≤ b ∧ b < a + 0x1800 →
    memByte (s.storeLands a i l).mem b = memByte s.mem b := by
  induction l with
  | nil => exact fun _ _ _ _ _ => rfl
  | cons r l ih =>
    intro s i hi b hb
    rw [List.length_cons] at hi
    have hdata : b < (a + if i = 16 then 0x780 else 0x1800 + i * 0x80) ∨ (a + if i = 16 then 0x780 else 0x1800 + i * 0x80) + 128 ≤ b := by
      split <;> omega
    rw [State.storeLands, ih _ _ (by omega) b hb]
    exact (memByte_memPutNat _ _ _ _ _ hdata).trans (memByte_memPutNat _ _ _ _ _ (by omega))

theorem store_mem_other {n a x b : Nat} (h : b < a ∨ a + n ≤ b) : memByte (s.store n a x).mem b = memByte s.mem b := memByte_memPutNat _ _ _ _ _ h

theorem entryAddr_le {p : Pass} {a g q e v b : Nat} (h : entryAddr p a g q e v = some b) : a + 0x2000 ≤ b := by
  unfold entryAddr at h
  extract_lets per at h
  split at h
  · have := Option.some.inj h
    omega
  · exact absurd h (by simp)

section
variable {γ : Type} (p : State → γ) {a : Nat} (hstore : ∀ s n b x, a + 0x2000 ≤ b → p (State.store s n b x) = p s)
include hstore

theorem storeEntries_keeps (g q : Nat) (l : List (Pass × ARow)) : ∀ (s : State) (e : Nat), p (s.storeEntries a g q e l) = p s := by
  induction l with
  | nil => exact fun _ _ => rfl
  | cons r l ih =>
    intro s e
    rw [State.storeEntries, ih]
    refine foldl_keeps _ p (fun s v => ?_) _ s
    split
    next x hx => exact hstore _ _ _ _ (entryAddr_le hx)
    next => rfl

/-- The matrix state lies behind the vector registers and the records of the save area. -/
theorem storeMatrix_keeps (hfree : ∀ s f, p { s with freeCtr := f } = p s) (s : State) (gs : Tbl Group) (split : Nat) (mc : Tbl MCont) :
    p (s.storeMatrix a gs split mc) = p s := by
  unfold State.storeMatrix
  extract_lets stored s0
  have hstored : p stored = p s := hstore _ _ _ _ le_rfl
  clear_value stored
  refine (foldl_keeps _ p (fun s m => ?_) _ s0).trans ((hfree _ _).trans hstored)
  extract_lets ps s1 s2
  have h1 : p s1 = p s := storeEntries_keeps p hstore ..
  have h2 : p s2 = p s := (foldl_keeps _ p (fun s w => hstore _ _ _ _ (by omega)) _ s1).trans h1
  clear_value s2
  split
  · refine (foldl_keeps _ p (fun s y => hstore _ _ _ _ ?_) _ s2).trans h2
    unfold bankAddr
    extract_lets
    omega
  · exact h2

end

/-- A trace record lies in the trace ring of its core. -/
theorem traceWrite_mem (s : State) (n type slot court tb payload : Nat) {b : Nat} (hb : b < n * Config.coreMemBytes + 0x30000) :
    memByte (s.traceWrite n type slot court tb payload).mem b = memByte s.mem b := by
  unfold State.traceWrite
  extract_lets c w a s0 s1
  have h0 : memByte s0.mem b = memByte s.mem b := store_mem_other (.inl (by omega))
  have h1 : memByte s1.mem b = memByte s0.mem b := by
    simp only [s1]
    split
    · exact countCore_keeps (fun s => memByte s.mem b) (fun _ _ _ _ => rfl) ..
    · rfl
  exact h1.trans h0

theorem trace_mem (s : State) (n type slot court tb payload : Nat) {b : Nat} (hb : b < n * Config.coreMemBytes + 0x30000) :
    memByte (s.trace n type slot court tb payload).mem b = memByte s.mem b := by
  unfold State.trace
  extract_lets c busy full s1
  have h1 : memByte s1.mem b = memByte s.mem b := by
    simp only [s1]
    split
    · rfl
    · exact traceWrite_mem _ _ _ _ _ _ _ hb
  split
  · rfl
  split
  · rfl
  · exact (traceWrite_mem s1 n type slot court tb payload hb).trans h1

/-! ### What the start of a context writes -/

theorem mem_dictless : Dictless State.mem where
  put _ _ _ _ := rfl
  putB _ _ _ _ _ := rfl

theorem xspiAddr_le (dev off : Nat) : 0x100000000 ≤ xspiAddr dev off := by
  unfold xspiAddr
  extract_lets
  omega

/-- The Replay record lies in xSPI RAM. -/
theorem xspiWrite_mem (s : State) (off : Nat) (l : List Byte) {b : Nat} (hb : b < 0x100000000) : memByte (s.xspiWrite off l).mem b = memByte s.mem b := by
  unfold State.xspiWrite
  refine foldl_keeps _ (fun s : State => memByte s.mem b) (fun s e => ?_) _ s
  have haddr := xspiAddr_le (s.get 0x2510 2) (off + e.2)
  refine Eq.trans ?_ (memByte_memPutBytes [e.1] s.mem (xspiAddr (s.get 0x2510 2) (off + e.2)) b (.inl (by omega)))
  exact congrArg (memByte · b) (Same.refl.countGlobal mem_dictless : Same State.mem _ _).rest

theorem replayLog_mem (s : State) (kind : Nat) (l : List Byte) {b : Nat} (hb : b < 0x100000000) : memByte (s.replayLog kind l).mem b = memByte s.mem b := by
  unfold State.replayLog
  extract_lets e r used src s1
  have h1 : memByte (s1.xspiWrite (s.replayStart + used) r).mem b = memByte s.mem b := xspiWrite_mem s1 _ _ hb
  clear_value s1
  split
  · rfl
  split
  · rw [put_mem]
  · rw [put_mem, h1]

theorem noteSample_mem (s : State) (n : Nat) (p : Purpose) (j : Nat) {b : Nat} (hb : b < 0x100000000) :
    memByte (s.noteSample n p j).mem b = memByte s.mem b := by
  exact replayLog_mem _ _ _ hb

end Sys2Proof.Machine
end

section
namespace Sys2Proof.Machine
open Sys2Proof Sys2Proof.Claims

variable {s t u v : State} {n m k : Nat} {c d e : Core}

theorem encodeLate_mem (s : State) (j : Nat) : (s.encodeLate j).mem = s.mem :=
  foldl_keeps (State.zeroWord (s.job j)) State.mem (fun u w => congrArg (fun x => x.2.2.2) (zeroWord_unlate (s.job j) u w)) _ s

theorem startChecks_mem (s : State) (j : Nat) {b : Nat} (hb : b < 0x100000000) : memByte (s.startChecks j).mem b = memByte s.mem b := by
  unfold State.startChecks
  extract_lets y f left s0
  have h0 : memByte s0.mem b = memByte s.mem b := noteSample_mem _ _ _ _ hb
  clear_value s0
  split
  · split
    · exact h0
    · exact h0
  split
  · rw [encodeLate_mem]
  · rfl

theorem startNext_mem (s : State) (n : Nat) {b : Nat} (hb : b < 0x100000000) : memByte (s.startNext n).mem b = memByte s.mem b := by
  rcases startNext_cases s n with e | ⟨k, -, e⟩
  · rw [e]
  · obtain ⟨c, f, e2, -⟩ := startCtx_eq s n k
    obtain ⟨l, e1⟩ := jobState_jobs ({ s.setCore n (c.setCtx k { (s.core n).ctx k with state := .running }) with freeCtr := f } : State)
      ((s.core n).ctx k).job .running
    rw [e, e2, e1, startChecks_mem _ _ hb]
    rfl

theorem startNext_other (hm : m ≠ n) : (s.startNext n).core m = s.core m := by
  rcases startNext_cases s n with e | ⟨k, -, e⟩
  · rw [e]
  · obtain ⟨c, hcore, -⟩ := startCtx_core s n k
    rw [e, hcore, if_neg hm]

theorem startNext_stop (s : State) (n : Nat) : ((s.startNext n).core n).stop = (s.core n).stop := by
  rcases startNext_cases s n with e | ⟨k, -, e⟩
  · rw [e]
  · rw [e]
    unfold State.startCtx
    extract_lets c x f c1 base s1
    have hcores : ((State.jobState s1 x.job .running).startChecks x.job).cores = State.cores base :=
      (startChecks_keeps _ _).cores.trans (jobState_cores ..)
    rw [State.core, hcores]
    have hcore : State.core base n = c1.setCtx k { x with state := .running } := (core_setCore ..).trans (if_pos rfl)
    show (State.core base n).stop = c.stop
    rw [hcore]
    rfl

/-! ### What a save writes -/

/-- The save area at b holds core c, saved with a cause. -/
structure SavedAt (mem : List Host.Cell) (b : Nat) (c : Core) (cause : Nat) : Prop where
  pc : memNat mem 6 (b + 8) = c.pc.toNat
  why : memNat mem 1 (b + 6) = cause
  flight : memNat mem 1 (b + 4) = c.inflight.length
  g : ∀ i < 32, memNat mem 4 (b + 0x100 + 4 * i) = (c.readG i).toNat
  a : ∀ i < 16, memNat mem 6 (b + 0x180 + 8 * i) = (c.readA i).toNat
  p : ∀ i < 8, memNat mem 16 (b + 0x200 + 16 * i) = (c.readP i).toNat
  v : ∀ i < 32, memNat mem 128 (b + 0x800 + 128 * i) = (c.readV i).toNat
  tile : cause = 1 → (memNat mem 2 (b + 2)).testBit 0 = false

/-- It holds it still where the bytes before the records in flight and the vector registers stand. -/
theorem SavedAt.congr {p q : List Host.Cell} {a cause : Nat} (h : SavedAt p a c cause)
    (hq : ∀ i, a ≤ i → i < a + 0x280 ∨ a + 0x800 ≤ i ∧ i < a + 0x1800 → memByte q i = memByte p i) : SavedAt q a c cause where
  pc := (memNat_congr _ _ fun i h1 h2 => hq i (by omega) (by omega)).trans h.pc
  why := (memNat_congr _ _ fun i h1 h2 => hq i (by omega) (by omega)).trans h.why
  flight := (memNat_congr _ _ fun i h1 h2 => hq i (by omega) (by omega)).trans h.flight
  g j hj := (memNat_congr _ _ fun i h1 h2 => hq i (by omega) (by omega)).trans (h.g j hj)
  a j hj := (memNat_congr _ _ fun i h1 h2 => hq i (by omega) (by omega)).trans (h.a j hj)
  p j hj := (memNat_congr _ _ fun i h1 h2 => hq i (by omega) (by omega)).trans (h.p j hj)
  v j hj := (memNat_congr _ _ fun i h1 h2 => hq i (by omega) (by omega)).trans (h.v j hj)
  tile hc := by
    rw [memNat_congr _ _ fun i h1 h2 => hq i (by omega) (by omega)]
    exact h.tile hc

/-- The parts of the first word of a save area and of the PC behind it. -/
theorem head_parts {f len k cause tb pc x : Nat} (hf : f < 8) (hlen : len < 256) (hk : k < 256) (hcause : cause < 256) (htb : tb < 256) (hpc : pc < 2 ^ 48) :
    let w := 1 + f * 2 ^ 16 + len * 2 ^ 32 + k * 2 ^ 40 + cause * 2 ^ 48 + tb * 2 ^ 56 + pc * 2 ^ 64 + x * 2 ^ 128
    w / 256 ^ 8 % 256 ^ 6 = pc ∧ w / 256 ^ 6 % 256 ^ 1 = cause ∧ w / 256 ^ 4 % 256 ^ 1 = len ∧ w / 256 ^ 2 % 256 ^ 2 = f := by
  intro w
  omega

/-- A register of a packed file, read back. -/
theorem memNat_packed {w n a size count : Nat} (f : Nat → BitVec w) (hn : n = size * count) {i k : Nat} (hi : i < count)
    (hk : k ≤ size) (hw : w ≤ 8 * k) : memNat (s.store n a (packFile size count fun i => (f i).toNat)).mem k (a + size * i) = (f i).toNat := by
  have hlt : ∀ j, w ≤ j → (f i).toNat < 2 ^ j := fun j hj => lt_of_lt_of_le (f i).isLt (Nat.pow_le_pow_right (by decide) hj)
  rw [store_mem, memNat_packFile _ hn hi hk, Nat.mod_eq_of_lt (hlt _ (by omega)), Nat.mod_eq_of_lt (hlt _ hw)]

theorem memNat_store_other {n a x k b : Nat} (h : b + k ≤ a ∨ a + n ≤ b) : memNat (s.store n a x).mem k b = memNat s.mem k b := memNat_memPutNat_other h

/-- The registers of core c are stored in the save area at a, whose first 44 bytes are those of `head`. -/
def State.saveRegs (s : State) (c : Core) (a head : Nat) : State :=
  ((((((s.store 0x2C a head).store 128 (a + 0x100) (packFile 4 32 fun i => (c.readG i).toNat)).store 128 (a + 0x180)
    (packFile 8 16 fun i => (c.readA i).toNat)).store 128 (a + 0x200) (packFile 16 8 fun i => (c.readP i).toNat)).store 80 (a + 0x280)
    (packFile 4 4 (fun i => (c.readLc i).toNat) + packFile 8 4 (fun i => (c.readLs i).toNat) * 2 ^ 128
      + packFile 8 4 (fun i => (c.readLe i).toNat) * 2 ^ 384))).store 4096 (a + 0x800) (packFile 128 32 fun i => (c.readV i).toNat)

theorem saveRegs_saved (s : State) (c : Core) (a : Nat) {f cause tb x : Nat} (hf : f < 8) (hf1 : cause = 1 → f % 2 = 0) (hlen : c.inflight.length ≤ 17)
    (hk : c.cur < 4) (hcause : cause < 4) (htb : tb < 256) :
    SavedAt (s.saveRegs c a (1 + f * 2 ^ 16 + c.inflight.length * 2 ^ 32 + c.cur * 2 ^ 40 + cause * 2 ^ 48 + tb * 2 ^ 56 + c.pc.toNat * 2 ^ 64
      + x * 2 ^ 128)).mem a c cause := by
  obtain ⟨hpc, hcs, hfl, hfg⟩ := head_parts (f := f) (len := c.inflight.length) (k := c.cur) (cause := cause) (tb := tb) (pc := c.pc.toNat) (x := x)
    hf (by omega) (by omega) (by omega) htb c.pc.isLt
  generalize 1 + f * 2 ^ 16 + c.inflight.length * 2 ^ 32 + c.cur * 2 ^ 40 + cause * 2 ^ 48 + tb * 2 ^ 56 + c.pc.toNat * 2 ^ 64 + x * 2 ^ 128 = head at *
  have hhead : ∀ i k, i + k ≤ 0x2C → memNat (s.saveRegs c a head).mem k (a + i) = head / 256 ^ i % 256 ^ k := fun i k hik => by
    rw [State.saveRegs, memNat_store_other (by omega), memNat_store_other (by omega), memNat_store_other (by omega), memNat_store_other (by omega),
      memNat_store_other (by omega)]
    exact memNat_memPutNat_part k i hik
  constructor
  · rw [hhead 8 6 (by omega), hpc]
  · rw [hhead 6 1 (by omega), hcs]
  · rw [hhead 4 1 (by omega), hfl]
  · intro i hi
    rw [State.saveRegs, memNat_store_other (by omega), memNat_store_other (by omega), memNat_store_other (by omega), memNat_store_other (by omega)]
    exact memNat_packed c.readG (show 128 = 4 * 32 from rfl) hi le_rfl (by omega)
  · intro i hi
    rw [State.saveRegs, memNat_store_other (by omega), memNat_store_other (by omega), memNat_store_other (by omega)]
    exact memNat_packed c.readA (show 128 = 8 * 16 from rfl) hi (by omega) (by omega)
  · intro i hi
    rw [State.saveRegs, memNat_store_other (by omega), memNat_store_other (by omega)]
    exact memNat_packed c.readP (show 128 = 16 * 8 from rfl) hi le_rfl (by omega)
  · intro i hi
    rw [State.saveRegs]
    exact memNat_packed c.readV (show 4096 = 128 * 32 from rfl) hi le_rfl (by omega)
  · intro hc
    rw [hhead 2 2 (by omega), hfg, Nat.testBit_zero, hf1 hc]
    rfl

end Sys2Proof.Machine
end

section
namespace Sys2Proof.Machine
open Sys2Proof Sys2Proof.Claims

variable {s t u v : State} {n m k : Nat} {c d e : Core}

theorem storeLands_cores (a : Nat) (l : List Land) : ∀ (s : State) (i : Nat), (s.storeLands a i l).cores = s.cores := by
  induction l with
  | nil => exact fun _ _ => rfl
  | cons r l ih =>
    intro s i
    rw [State.storeLands, ih, store_cores, store_cores]

theorem saveRegs_cores (s : State) (c : Core) (a head : Nat) : (s.saveRegs c a head).cores = s.cores := by
  rw [State.saveRegs, store_cores, store_cores, store_cores, store_cores, store_cores, store_cores]

/-- The core that has been saved with a cause, its context as `x`. -/
structure Core.SavedAs (c d : Core) (cause : Nat) : Prop where
  state : (d.ctx c.cur).state = if cause = 3 then .blocked else .stopped
  cause : (d.ctx c.cur).evtCause = BitVec.ofNat 32 cause
  pc : (d.ctx c.cur).evtPc = c.pc
  stop : d.stop = none

theorem Core.SavedAs.congr {cause : Nat} (h : Core.SavedAs c d cause) (he : e.bookless = d.bookless) : Core.SavedAs c e cause where
  state := (Core.of_bookless (fun d => (d.ctx c.cur).state) (fun _ => rfl) he).trans h.state
  cause := (Core.of_bookless (fun d => (d.ctx c.cur).evtCause) (fun _ => rfl) he).trans h.cause
  pc := (Core.of_bookless (fun d => (d.ctx c.cur).evtPc) (fun _ => rfl) he).trans h.pc
  stop := (Core.of_bookless Core.stop (fun _ => rfl) he).trans h.stop

/-- The number in the first 44 bytes, its upper parts together. -/
theorem head_eq (f len k cause tb pc cycle air vl flags sticky : Nat) :
    1 + f * 2 ^ 16 + len * 2 ^ 32 + k * 2 ^ 40 + cause * 2 ^ 48 + tb * 2 ^ 56 + pc * 2 ^ 64 + cycle * 2 ^ 128 + air * 2 ^ 192 + vl * 2 ^ 256
        + flags * 2 ^ 288 + sticky * 2 ^ 320
      = 1 + f * 2 ^ 16 + len * 2 ^ 32 + k * 2 ^ 40 + cause * 2 ^ 48 + tb * 2 ^ 56 + pc * 2 ^ 64
        + (cycle + air * 2 ^ 64 + vl * 2 ^ 128 + flags * 2 ^ 160 + sticky * 2 ^ 192) * 2 ^ 128 := by
  have h288 : 2 ^ 288 = 2 ^ 160 * 2 ^ 128 := by rw [← pow_add]
  have h320 : 2 ^ 320 = 2 ^ 192 * 2 ^ 128 := by rw [← pow_add]
  rw [h288, h320]
  ring

/-- A save before its trace record: the bytes of the save area are stored, and the core is as it was. -/
theorem saveCtx_stored (s : State) (n cause : Nat) (hcur : (s.core n).cur < 4) (hlen : (s.core n).inflight.length ≤ 17) (hcause : cause < 4) :
    ∃ (v : State) (d : Core) (ts : Tbl Tally) (p j : Nat) (st : JobState),
      s.saveCtx n cause = ({ (v.setCore n d).traceJob n 4 p with tallies := ts } : State).jobState j st
        ∧ v.cores = s.cores ∧ SavedAt v.mem (saveArea n (s.core n).cur) (s.core n) cause ∧ Core.SavedAs (s.core n) d cause := by
  unfold State.saveCtx
  extract_lets s0 c k x a mt mv hdr s1 s2 s3 s4 s5 s6 s7 s8 x' src c' s9 s10
  have hs6 : s6 = State.saveRegs s0 c a (1 + (4 + (if cause = 1 then 2 else 0) + (if mv then 1 else 0)) * 2 ^ 16 + c.inflight.length * 2 ^ 32 + c.cur * 2 ^ 40
      + cause * 2 ^ 48 + x.tb % 256 * 2 ^ 56 + c.pc.toNat * 2 ^ 64
      + (x.cycle.toNat + s0.airNow x.tb * 2 ^ 64 + c.vl.toNat * 2 ^ 128 + c.flags.toNat * 2 ^ 160 + c.sticky.toNat * 2 ^ 192) * 2 ^ 128) := by
    rw [← head_eq]
    rfl
  have hcores0 : s0.cores = s.cores := rfl
  have hmv1 : cause = 1 → mv = false := fun h => by simp [mv, h]
  have hsaved : SavedAt s6.mem a c cause := by
    rw [hs6]
    refine saveRegs_saved s0 c a ?_ ?_ hlen hcur hcause (Nat.mod_lt _ (by decide))
    · split <;> split <;> decide
    · intro h
      rw [if_pos h, hmv1 h]
      rfl
  have hcores6 : s6.cores = s.cores := by rw [hs6, saveRegs_cores, hcores0]
  clear_value s6 s5
  have hcores7 : s7.cores = s.cores := (storeLands_cores ..).trans hcores6
  have hmem7 : ∀ b, b < a + 0x300 ∨ a + 0x800 ≤ b ∧ b < a + 0x1800 → memByte s7.mem b = memByte s6.mem b :=
    storeLands_mem a _ s6 0 (by rw [Nat.zero_add]; exact List.length_take_le ..)
  clear_value s7
  have hcores8 : s8.cores = s.cores := by
    simp only [s8]
    split
    · exact (storeMatrix_keeps State.cores (a := a) (fun s n b x _ => store_cores ..) (fun _ _ => rfl) ..).trans hcores7
    · exact hcores7
  have hmem8 : ∀ b, b < a + 0x2000 → memByte s8.mem b = memByte s7.mem b := fun b hb => by
    simp only [s8]
    split
    · exact storeMatrix_keeps (fun s => memByte s.mem b) (a := a) (fun s n i x hi => store_mem_other (.inl (by omega))) (fun _ _ => rfl) ..
    · rfl
  clear_value s8
  have hctx : c'.ctx (s.core n).cur = x' := by
    have hsrc : c'.ctx (s.core n).cur = Core.ctx src (s.core n).cur := by simp only [Core.ctx, c']
    rw [hsrc]
    exact (ctx_setCtx c k (s.core n).cur x').trans (if_pos rfl)
  refine ⟨s8.bumpFree, c', _, _, _, _, rfl, (bumpFree_cores s8).trans hcores8, ?_, ?_⟩
  · exact hsaved.congr fun i h1 h2 => (hmem8 i (by omega)).trans (hmem7 i (by omega))
  · exact ⟨congrArg Ctx.state hctx, congrArg Ctx.evtCause hctx, congrArg Ctx.evtPc hctx, rfl⟩

end Sys2Proof.Machine
end

section
namespace Sys2Proof.Machine
open Sys2Proof Sys2Proof.Claims

variable {s t u v : State} {n m k : Nat} {c d e : Core} {cause : Nat}

/-! ### A save as a whole -/

/-- State t is s after a save of the running context of core n with a cause. -/
structure Saves (s t : State) (n cause : Nat) : Prop where
  image : SavedAt t.mem (saveArea n (s.core n).cur) (s.core n) cause
  core : Core.SavedAs (s.core n) (t.core n) cause
  others : ∀ m, m ≠ n → t.core m = s.core m

theorem Saves.savedAs (h : Saves s t n cause) : savedAs n cause s t := by
  obtain ⟨⟨hpc, hwhy, hflight, hg, ha, hp, hv, -⟩, ⟨hstate, hcause, hevt, hstop⟩, hothers⟩ := h
  exact ⟨hstate, hcause, hevt, hpc, hwhy, hflight, hg, ha, hp, hv, hstop, hothers⟩

/-- The state before a save matters by its cores alone. -/
theorem Saves.of_cores (h : Saves u t n cause) (hu : ∀ m, u.core m = s.core m) : Saves s t n cause := by
  obtain ⟨himage, hcore, hothers⟩ := h
  rw [hu n] at himage hcore
  exact ⟨himage, hcore, fun m hm => (hothers m hm).trans (hu m)⟩

/-- Changes of the state after a save that leave its cores and memory. -/
theorem Saves.upd (h : Saves s t n cause) (hc : u.cores = t.cores) (hm : u.mem = t.mem) : Saves s u n cause where
  image := hm ▸ h.image
  core := by
    have hn : u.core n = t.core n := congrArg (fun l => Tbl.get (Core.reset n) l n) hc
    rw [hn]
    exact h.core
  others m hmn := (congrArg (fun l => Tbl.get (Core.reset m) l m) hc).trans (h.others m hmn)

theorem saveCtx_saves (s : State) {n : Nat} (hcur : (s.core n).cur < 4) (hlen : (s.core n).inflight.length ≤ 17) (hcause : cause < 4) :
    Saves s (s.saveCtx n cause) n cause := by
  obtain ⟨v, d, ts, p, j, st, e, hcores, himage, hcore⟩ := saveCtx_stored s n cause hcur hlen hcause
  obtain ⟨l, ej⟩ := jobState_jobs ({ (v.setCore n d).traceJob n 4 p with tallies := ts } : State) j st
  rw [e, ej]
  have htrace : Saves s ((v.setCore n d).traceJob n 4 p) n cause := by
    refine ⟨himage.congr fun i _ h2 => ?_, hcore.congr ?_, fun m hm => ?_⟩
    · refine (trace_mem (v.setCore n d) n 4 _ _ _ _ ?_).trans rfl
      unfold saveArea at h2
      omega
    · refine (traceJob_stands n 4 p .refl n).trans ?_
      rw [core_setCore, if_pos rfl]
    · refine (trace_other 4 _ _ _ _ hm).trans ?_
      rw [core_setCore, if_neg hm, State.core, hcores]
      rfl
  exact htrace.upd rfl rfl

/-- What starts next is another context, and writes no save area. -/
theorem Saves.startNext (h : Saves s t n cause) (hn : n < 64) (hcur : (s.core n).cur < 4) : Saves s (t.startNext n) n cause := by
  have hready : ((t.core n).ctx (s.core n).cur).state ≠ .ready := by
    rw [h.core.state]
    split
    · exact fun h => CtxState.noConfusion h
    · exact fun h => CtxState.noConfusion h
  have hctx := startNext_ctx hready
  obtain ⟨himage, ⟨hstate, hwhy, hpc, hstop⟩, hothers⟩ := h
  refine ⟨himage.congr fun i _ h2 => startNext_mem _ _ ?_, ⟨?_, ?_, ?_, (startNext_stop t n).trans hstop⟩,
    fun m hm => (startNext_other hm).trans (hothers m hm)⟩
  · unfold saveArea Config.coreMemBytes at h2
    omega
  · rw [hctx, hstate]
  · rw [hctx, hwhy]
  · rw [hctx, hpc]

/-! ### The cycles before a stop -/

theorem length_later (c : Core) : c.later.length ≤ c.inflight.length := by
  rw [Core.later, List.length_map]
  exact List.length_filter_le ..

/-- No cycle adds a result in flight. -/
theorem coreCycle_inflight (s : State) (n : Nat) : ((s.coreCycle n).core n).inflight.length ≤ (s.core n).inflight.length := by
  cases h : anyClash (s.core n).due with
  | false =>
    rw [(coreCycle_becomes becomes_self h).core]
    have hctl := (landAll_control (s.core n).cycled (s.core n).due).trans (cycled_control (s.core n))
    rw [show ((s.core n).cycled.landAll (s.core n).due).inflight = (s.core n).later from congrArg (fun x => x.2.2.2.1) hctl]
    exact length_later _
  | true =>
    obtain ⟨d, hr⟩ := coreCycle_clash s n h
    rw [hr.inflight]
    exact Nat.zero_le _

theorem coreCycles_inflight (n k : Nat) : ∀ s : State, ((s.coreCycles n k).core n).inflight.length ≤ (s.core n).inflight.length := by
  induction k with
  | zero => exact fun _ => le_rfl
  | succ k ih => exact fun s => (ih (s.coreCycle n)).trans (coreCycle_inflight s n)

theorem drainBubble_inflight (s : State) (n : Nat) : ((s.drainBubble n).core n).inflight.length ≤ (s.core n).inflight.length := by
  refine (coreCycles_inflight n _ _).trans ?_
  rw [core_updCore, if_pos rfl]

/-- A stop that is taken saves the context as the cycles of the bubble leave it. -/
theorem takeStop_saves (s : State) {n : Nat} (hn : n < 64) (hlen : (s.core n).inflight.length ≤ 17) (hm : ((s.drainBubble n).core n).jobMode = true)
    (hcur : ((s.drainBubble n).core n).cur < 4) (hcause : cause < 4) : Saves (s.drainBubble n) (s.takeStop n cause) n cause := by
  have hfl := (drainBubble_inflight s n).trans hlen
  unfold State.takeStop
  generalize s.drainBubble n = u at *
  extract_lets v
  have hcores : ∀ m, (u.countCore n (if cause = 1 then 0x40 else 0x41) 1).core m = u.core m := countCore_core u n _ 1
  have hsave : Saves u ((u.countCore n (if cause = 1 then 0x40 else 0x41) 1).saveCtx n cause) n cause :=
    (saveCtx_saves _ (by rw [hcores]; exact hcur) (by rw [hcores]; exact hfl) hcause).of_cores hcores
  rw [if_neg (by rw [show (State.core v n).jobMode = true from hm]; exact Bool.noConfusion)]
  generalize (u.countCore n (if cause = 1 then 0x40 else 0x41) 1).saveCtx n cause = w at hsave ⊢
  exact (hsave.upd (u := w.bump _ 3) rfl rfl).startNext hn hcur

theorem stopTile_spec (core : Fin 64) (s : State) (r : StopReq) (hs : s.coresStopped = false) (hm : (s.core core).jobMode = true)
    (hr : (s.core core).stop = some r) (ht : r.tile = true) (hrun : (s.core core).curCtx.state = .running) (hex : (s.core core).curCtx.excl = 0#32)
    (hb : ∀ q < 4, groupAtBoundary (s.core core) ((s.core core).group q) = true) : exec (.stopTile core) s = .next (s.takeStop core 1) := by
  have hall : (List.range 4).all (fun q => groupAtBoundary (s.core core) ((s.core core).group q)) = true :=
    List.all_eq_true.2 fun q hq => hb q (List.mem_range.1 hq)
  show execStopTile core s = _
  unfold execStopTile
  rw [if_neg (by rw [hs]; exact Bool.false_ne_true)]
  extract_lets c
  rw [show c.stop = some r from hr]
  exact congrArg Host.Outcome.next (if_pos ⟨ht, hm, hrun, hex, hall⟩)

theorem stopBundle_spec (core : Fin 64) (s : State) (r : StopReq) (hs : s.coresStopped = false) (hm : (s.core core).jobMode = true)
    (hr : (s.core core).stop = some r) (ht : r.tile = false) (hrun : (s.core core).curCtx.state = .running) (hex : (s.core core).curCtx.excl = 0#32) :
    exec (.stopBundle core) s = .next (s.takeStop core 2) := by
  show execStopBundle core s = _
  unfold execStopBundle
  rw [if_neg (by rw [hs]; exact Bool.false_ne_true)]
  extract_lets c
  rw [show c.stop = some r from hr]
  exact congrArg Host.Outcome.next (if_pos ⟨ht, hm, hrun, hex⟩)

/-- A context that waits is told what for. -/
theorem Saves.waits (h : Saves s t n cause) (w : Nat × Option (BitVec 32)) :
    Saves s (t.updCore n fun d => d.setCtx (s.core n).cur { d.ctx (s.core n).cur with waitOn := some w }) n cause := by
  obtain ⟨himage, ⟨hstate, hwhy, hpc, hstop⟩, hothers⟩ := h
  have hcore : (t.updCore n fun d => d.setCtx (s.core n).cur { d.ctx (s.core n).cur with waitOn := some w }).core n = _ := (core_updCore ..).trans (if_pos rfl)
  refine ⟨himage, ?_, fun m hm => ((core_updCore ..).trans (if_neg hm)).trans (hothers m hm)⟩
  rw [hcore]
  have hctx := (ctx_setCtx (t.core n) (s.core n).cur (s.core n).cur { (t.core n).ctx (s.core n).cur with waitOn := some w }).trans (if_pos rfl)
  exact ⟨(congrArg Ctx.state hctx).trans hstate, (congrArg Ctx.evtCause hctx).trans hwhy, (congrArg Ctx.evtPc hctx).trans hpc, hstop⟩

theorem blocked_spec (core : Fin 64) (s : State) (w : Nat × Option (BitVec 32)) (hs : s.coresStopped = false) (hm : (s.core core).jobMode = true)
    (hcur : (s.core core).cur < 4) (hlen : (s.core core).inflight.length ≤ 17) (hw : s.heldWait core = some w) (hh : (s.core core).held = true)
    (hc : 64 ≤ (s.core core).heldCycles) :
    ∃ t, exec (.blocked core) s = .next t ∧ savedAs core 3 s t ∧ ((t.core core).ctx (s.core core).cur).waitOn = some w := by
  have hcores : ∀ m, (s.countCore core 0x42 1).core m = s.core m := countCore_core s core 0x42 1
  have hsave : Saves s ((s.countCore core 0x42 1).saveCtx core 3) core 3 :=
    (saveCtx_saves _ (by rw [hcores]; exact hcur) (by rw [hcores]; exact hlen) (by decide)).of_cores hcores
  have hwaits := hsave.waits w
  refine ⟨_, ?_, (hwaits.startNext core.isLt hcur).savedAs, ?_⟩
  · show execBlocked core s = _
    unfold execBlocked
    rw [if_neg (by rw [hs]; exact Bool.false_ne_true)]
    extract_lets c
    rw [hw]
    exact congrArg Host.Outcome.next (if_pos ⟨hh, hc, hm⟩)
  · rw [startNext_ctx (by rw [hwaits.core.state]; exact fun h => CtxState.noConfusion h), core_updCore, if_pos rfl, ctx_setCtx, if_pos rfl]

/-- Settles O19: the save stores the registers at places of their own in the save area, and neither its trace record nor what starts next writes there. -/
theorem stopsSaveTheContext : Obligations.StopsSaveTheContext := by
  intro core s hs n c u hm hcur hlen hum hucur
  refine ⟨fun r hr ht hrun hex hb => ?_, fun r hr ht hrun hex => ?_, fun w hw hh hc => blocked_spec core s w hs hm hcur hlen hw hh hc⟩
  · have h := takeStop_saves (cause := 1) s core.isLt hlen hum hucur (by decide)
    exact ⟨_, stopTile_spec core s r hs hm hr ht hrun hex hb, h.savedAs, h.image.tile rfl⟩
  · have h := takeStop_saves (cause := 2) s core.isLt hlen hum hucur (by decide)
    exact ⟨_, stopBundle_spec core s r hs hm hr ht hrun hex, h.savedAs⟩

end Sys2Proof.Machine
end

section
namespace Sys2Proof.Machine
open Sys2Proof Sys2Proof.Claims

variable {s t u v : State} {n m k i j : Nat} {c d e : Core}

/-! ## The Tallies that a job leaves -/

/-- An entry of a canonical table that f leaves is found as it was. -/
theorem get_mapV_fixed {α : Type} [DecidableEq α] {z : α} {f : α → α} {t : Tbl α} {k : Nat} (hw : Tbl.wf z t = true) (hf : f (Tbl.get z t k) = Tbl.get z t k) :
    Tbl.get z (Tbl.mapV z t f) k = Tbl.get z t k := by
  by_cases hk : Tbl.get z t k = z
  case neg => exact (get_mapV (hf.symm ▸ hk) hk).trans hf
  induction t with
  | nil => rfl
  | cons e t ih =>
    obtain ⟨i, x⟩ := e
    obtain ⟨hx, -, hw⟩ := (Tbl.wf_cons z i x t).1 hw
    rw [Tbl.get_cons] at hf hk ⊢
    by_cases hi : i = k
    · exact absurd ((if_pos hi).symm.trans hk) hx
    · rw [if_neg hi] at hf hk ⊢
      rw [← ih hw hf hk, Tbl.mapV, List.map_cons, List.filter_cons]
      split
      · exact (Tbl.get_cons ..).trans (if_neg hi)
      · rfl

theorem abandonTallies_held (hj : j ≠ 0) (h : (s.tally i).holder = j) :
    (s.abandonTallies j).tally i = { s.tally i with holder := 0, abandoned := true } := by
  have hleft : Tally.leftBy j (s.tally i) = { s.tally i with holder := 0, abandoned := true } := if_pos h
  have hne : Tally.leftBy j (s.tally i) ≠ {} := by
    rw [hleft]
    exact fun e => Bool.noConfusion (congrArg Tally.abandoned e : true = false)
  rw [State.tally, abandonTallies_tallies hj, ← hleft]
  exact get_mapV hne fun e => hj (h.symm.trans (congrArg Tally.holder e))

theorem abandonTallies_other (hj : j ≠ 0) (hw : Tbl.wf {} s.tallies = true) (h : (s.tally i).holder ≠ j) : (s.abandonTallies j).tally i = s.tally i := by
  rw [State.tally, abandonTallies_tallies hj]
  exact get_mapV_fixed hw (if_neg h)

theorem abandonTallies_cores (s : State) (j : Nat) : (s.abandonTallies j).cores = s.cores := by
  unfold State.abandonTallies
  split
  · rfl
  · rfl

theorem tally_congr (h : t.tallies = s.tallies) (i : Nat) : t.tally i = s.tally i := by
  rw [State.tally, State.tally, h]

/-! ## What the end of a job leaves of jobs, Tallies and cores -/

/-- The jobs, the Tallies and the cores. -/
def State.roster (s : State) : Tbl Job × Tbl Tally × Tbl Core := (s.jobs, s.tallies, s.cores)

theorem roster_recordless : Recordless State.roster := ⟨⟨fun _ _ _ _ => rfl, fun _ _ _ _ _ => rfl⟩, fun _ _ _ => rfl, fun _ _ => rfl⟩

theorem roster_eq (h : t.roster = s.roster) : t.jobs = s.jobs ∧ t.tallies = s.tallies ∧ t.cores = s.cores := by
  simpa [State.roster] using h

theorem returnHandles_roster (s : State) (j : Nat) : (s.returnHandles j).roster = s.roster := by
  unfold State.returnHandles
  split
  · rfl
  · exact foldl_keeps (fun (s : State) e => s.returnHandle (e / 1024) (e % 1024)) State.roster (fun _ _ => rfl) _ _

theorem judge_tallies (s : State) (j : Nat) : (s.judge j).tallies = s.tallies := by
  unfold State.judge
  extract_lets y late s1 s2 s3
  have h1 : s1.tallies = s.tallies := (roster_eq (Same.refl.replayLog roster_recordless).rest).2.1
  have h2 : s2.tallies = s1.tallies := (apply_ite State.tallies _ _ _).trans (ite_eq_right_iff.2 fun _ => rfl)
  have h3 : s3.tallies = s2.tallies := (apply_ite State.tallies _ _ _).trans (ite_eq_right_iff.2 fun _ => rfl)
  have h : s3.tallies = s.tallies := h3.trans (h2.trans h1)
  split
  · rfl
  split
  · exact (roster_eq (Same.refl.lateEvent roster_recordless.toDictless).rest).2.1.trans h
  · exact h

/-- A job that is neither fenced nor complete is complete, and no Tally or core differs. -/
theorem completeJob_fenceable (h : fenceable s j) :
    ((s.completeJob j).job j).state = .completed ∧ (s.completeJob j).tallies = s.tallies ∧ (s.completeJob j).cores = s.cores := by
  obtain ⟨hl, hf, hc⟩ := h
  unfold State.completeJob
  extract_lets y s1
  rw [if_pos (by simp [y, hl, hf, hc])]
  refine ⟨?_, judge_tallies s j, judge_cores s j⟩
  have hjob : ((s1.setJob j { s1.job j with state := .completed, core := 0xFF }).job j).state = .completed := by
    rw [job_setJob, if_pos rfl]
  exact hjob

theorem encodeLate_roster (s : State) (j : Nat) : (s.encodeLate j).roster = s.roster :=
  foldl_keeps (State.zeroWord (s.job j)) State.roster (fun u w =>
    (Same.refl.lateEvent roster_recordless.toDictless :
      Same State.roster ((u.setOrder (s.job j).order ((u.order (s.job j).order).putWord { w with zeroed := true, status := 1, cause := 4 })).bump
        (0x4120 + (s.job j).carrier) 5) (u.zeroWord (s.job j) w)).rest) _ s

/-- What is decided as a job starts leaves the state of every job and the Tallies. -/
theorem startChecks_states (s : State) (j : Nat) : (s.startChecks j).tallies = s.tallies ∧ ∀ i, ((s.startChecks j).job i).state = (s.job i).state := by
  unfold State.startChecks
  extract_lets y f left s0
  have h0 : s0.jobs = s.jobs ∧ s0.tallies = s.tallies ∧ s0.cores = s.cores := roster_eq (Same.refl.replayLog roster_recordless).rest
  obtain ⟨hj, ht, -⟩ := h0
  have hjob : ∀ i, s0.job i = s.job i := job_congr hj
  split
  · split
    · refine ⟨ht, fun i => ?_⟩
      have hset : ((s0.setJob j { y with model := 0xFFFF, breeze := true, cycles := y.costB, inClass := 1, outClass := 1 }).job i).state
          = (s.job i).state := by
        rw [job_setJob]
        split
        next hi => rw [hi]
        next => rw [hjob]
      exact hset
    · exact ⟨ht, fun i => by rw [hjob]⟩
  · split
    · obtain ⟨hj, ht, -⟩ := roster_eq (encodeLate_roster s j)
      exact ⟨ht, fun i => by rw [job_congr hj]⟩
    · exact ⟨rfl, fun _ => rfl⟩

theorem jobState_completed (h : (s.job i).state = .completed) (j : Nat) (st : JobState) : ((s.jobState j st).job i).state = .completed := by
  unfold State.jobState
  extract_lets y
  split
  next hy =>
    have hij : i ≠ j := by
      rintro rfl
      simp [y, h] at hy
    rw [job_setJob, if_neg hij, h]
  next => exact h

theorem startJob_completed (s : State) (j : Nat) : ((s.jobState j .running).startChecks j).tallies = s.tallies
    ∧ ∀ i, (s.job i).state = .completed → (((s.jobState j .running).startChecks j).job i).state = .completed := by
  obtain ⟨ht, hst⟩ := startChecks_states (s.jobState j .running) j
  obtain ⟨l, e⟩ := jobState_jobs s j .running
  exact ⟨ht.trans (by rw [e]), fun i h => (hst i).trans (jobState_completed h j .running)⟩

/-- A context that starts leaves a complete job complete, and the Tallies. -/
theorem startNext_completed (s : State) (n : Nat) :
    (s.startNext n).tallies = s.tallies ∧ ∀ i, (s.job i).state = .completed → ((s.startNext n).job i).state = .completed := by
  rcases startNext_cases s n with e | ⟨k, -, e⟩
  · rw [e]
    exact ⟨rfl, fun _ h => h⟩
  · obtain ⟨c, f, e2, -⟩ := startCtx_eq s n k
    rw [e, e2]
    exact startJob_completed _ _

end Sys2Proof.Machine
end

section
namespace Sys2Proof.Machine
open Sys2Proof Sys2Proof.Claims

variable {s t u v : State} {n m k i j : Nat} {c d e : Core}

/-! ## JOB_END (R87) -/

/-- The state t in which job j has left its Tallies: jobs, cores and, where the table is canonical, the other Tallies stand. -/
structure Leaves (s : State) (j : Nat) (t : State) : Prop where
  stand : CoresStand s t
  jobs : t.jobs = s.jobs
  held : ∀ i, (s.tally i).holder = j → (t.tally i).holder = 0 ∧ (t.tally i).abandoned = true ∧ (t.tally i).count = (s.tally i).count
  other : Tbl.wf {} s.tallies = true → ∀ i, (s.tally i).holder ≠ j → t.tally i = s.tally i

theorem leaves_abandon (core : Fin 64) (s : State) (hj : j ≠ 0) (payload : Nat) :
    Leaves s j (((s.traceJob core 3 payload).returnHandles j).abandonTallies j) := by
  have h1 : (s.traceJob core 3 payload).disposal = s.disposal := (Same.refl.trace disposal_logless core.isLt).rest
  have hstand : CoresStand s (s.traceJob core 3 payload) := traceJob_stands core 3 payload .refl
  simp only [State.disposal, Prod.mk.injEq] at h1
  obtain ⟨-, hjobs, -, htally⟩ := h1
  generalize s.traceJob core 3 payload = s1 at *
  obtain ⟨hjobs2, htally2, hcores2⟩ := roster_eq (returnHandles_roster s1 j)
  generalize s1.returnHandles j = s2 at *
  have hget : ∀ i, s2.tally i = s.tally i := tally_congr (htally2.trans htally)
  refine ⟨(hstand.of_cores hcores2).of_cores (abandonTallies_cores ..), ?_, fun i hi => ?_, fun hw i hi => ?_⟩
  · exact (abandonTallies_rest j).1.trans (hjobs2.trans hjobs)
  · rw [abandonTallies_held hj (by rw [hget, hi]), hget]
    exact ⟨rfl, rfl, rfl⟩
  · rw [abandonTallies_other hj (by rw [htally2, htally, hw]) (by rwa [hget]), hget]

/-- A slot that has become free holds an empty context but for the event registers that are written after. -/
theorem freeCtx_event (s : State) (n k : Nat) (hk : (s.core n).cur = k) (f : Ctx → Ctx) :
    (((s.freeCtx n k).updCore n fun d => d.updCur f).core n).ctx k = f {} := by
  have hcur : ((s.freeCtx n k).core n).cur = k := by
    rw [State.core, freeCtx_cores]
    exact (congrArg Core.cur ((core_setCore ..).trans (if_pos rfl))).trans hk
  have hctx : ((s.freeCtx n k).core n).curCtx = {} := by
    rw [Core.curCtx, hcur]
    exact (freeCtx_ctx ..).trans (if_pos rfl)
  rw [core_updCore, if_pos rfl, ctx_updCur, if_pos hcur.symm, hctx]

theorem freeCtx_jobs (s : State) (n k : Nat) : (s.freeCtx n k).jobs = s.jobs := rfl

theorem freeCtx_tallies (s : State) (n k : Nat) : (s.freeCtx n k).tallies = s.tallies := rfl

theorem execJobEnd_spec (core : Fin 64) (s : State) (hstop : s.coresStopped = false) :
    let n := core.val
    let c := s.core n
    let j := c.curCtx.job
    c.jobMode = true → c.curCtx.state = .ending → c.inflight = [] → passesOpen c c.cur = false → j ≠ 0 → fenceable s j →
    ∃ t, exec (.jobEnd core) s = .next t ∧ (t.job j).state = .completed ∧ { (t.core n).ctx c.cur with evtInfo := 0#32 } = { evtCause := 4#32, evtPc := c.pc }
      ∧ (∀ i, (s.tally i).holder = j → (t.tally i).holder = 0 ∧ (t.tally i).abandoned = true ∧ (t.tally i).count = (s.tally i).count)
      ∧ (Tbl.wf {} s.tallies = true → ∀ i, (s.tally i).holder ≠ j → t.tally i = s.tally i) := by
  intro n c j hmode hstate hflight hopen hj hlive
  have hexec : exec (.jobEnd core) s = execJobEnd core s := rfl
  rw [hexec]
  unfold execJobEnd
  rw [if_neg (by simp [hstop])]
  extract_lets c' k x s1 s2 s3 s4
  rw [if_pos (show _ from ⟨hmode, hstate, hflight, hopen⟩)]
  obtain ⟨hstand, hjobs, hheld, hother⟩ : Leaves s j s2 := leaves_abandon core s hj _
  clear_value s2
  have hcur : (s3.core n).cur = k := by
    have h2 : (s2.core n).cur = k := Core.of_bookless Core.cur (fun _ => rfl) (hstand n)
    have h3 : s3.core n = _ := (core_updCore ..).trans (if_pos rfl)
    rw [h3]
    exact h2
  have hctx : (s4.core n).ctx k = { evtCause := 4#32, evtPc := c.pc, evtInfo := s3.bumpFree.free.truncate 32 } :=
    freeCtx_event s3.bumpFree n k hcur fun y => { y with evtCause := 4#32, evtPc := c.pc, evtInfo := s3.bumpFree.free.truncate 32 }
  have hjobs4 : s4.bumpFree.jobs = s.jobs := by
    simp only [s4, s3, bumpFree_jobs, State.updCore, setCore_jobs, freeCtx_jobs, hjobs]
  have htally4 : s4.bumpFree.tallies = s2.tallies := by
    simp only [s4, s3, bumpFree_tallies, State.updCore, setCore_tallies, freeCtx_tallies]
  have hlive4 : fenceable s4.bumpFree j := by
    unfold fenceable
    rw [job_congr hjobs4]
    exact hlive
  clear_value s4 s3
  obtain ⟨hdone, htally5, hcores5⟩ := completeJob_fenceable hlive4
  have hctx5 : ((s4.bumpFree.completeJob j).core n).ctx k = (s4.core n).ctx k := by
    rw [State.core, hcores5]
    rfl
  obtain ⟨htally6, hdone6⟩ := startNext_completed (s4.bumpFree.completeJob j) n
  have htally : ∀ i, ((s4.bumpFree.completeJob j).startNext n).tally i = s2.tally i := tally_congr (htally6.trans (htally5.trans htally4))
  refine ⟨(s4.bumpFree.completeJob j).startNext n, ?_, hdone6 j hdone, ?_, fun i hi => ?_, fun hw i hi => ?_⟩
  · rfl
  · have hkeep : (((s4.bumpFree.completeJob j).startNext n).core n).ctx k = ((s4.bumpFree.completeJob j).core n).ctx k :=
      startNext_ctx (by
        rw [hctx5, hctx]
        exact CtxState.noConfusion)
    have hend : (((s4.bumpFree.completeJob j).startNext n).core n).ctx k
        = { evtCause := 4#32, evtPc := c.pc, evtInfo := s3.bumpFree.free.truncate 32 } := hkeep.trans (hctx5.trans hctx)
    exact congrArg (fun y : Ctx => { y with evtInfo := 0#32 }) hend
  · rw [htally]
    exact hheld i hi
  · exact (htally i).trans (hother hw i hi)

end Sys2Proof.Machine
end

section
namespace Sys2Proof.Machine
open Sys2Proof Sys2Proof.Claims

variable {s t u v : State} {n m k i j : Nat} {c d e : Core}

/-! ## CORE_FENCE (R75, R391) -/

theorem disposal_sliceless : Sliceless State.disposal := ⟨disposal_logless, fun _ _ _ _ => rfl⟩

theorem disposal_eq (h : t.disposal = s.disposal) : t.fences = s.fences ∧ t.jobs = s.jobs := by
  simp only [State.disposal, Prod.mk.injEq] at h
  obtain ⟨hf, hj, -⟩ := h
  exact ⟨hf, hj⟩

/-- The job of each context is as before. -/
def OwnersStand (s t : State) : Prop := ∀ m k, ((t.core m).ctx k).job = ((s.core m).ctx k).job

theorem CoresStand.owners (h : CoresStand s t) : OwnersStand s t := fun m k =>
  Core.of_bookless (fun c => (c.ctx k).job) (fun _ => rfl) (h m)

/-- From s to t fences were made of jobs for cause FENCE alone: every fence stays, and each job is as before or is so fenced. -/
structure FencedOnly (s t : State) : Prop where
  owners : OwnersStand s t
  fences : ∀ x ∈ s.fences, x ∈ t.fences
  job : ∀ i, t.job i = s.job i ∨ (t.job i).state = .fenced ∧ (t.job i).cause = evFENCE

theorem FencedOnly.refl : FencedOnly s s := ⟨fun _ _ => rfl, fun _ h => h, fun _ => .inl rfl⟩

theorem FencedOnly.trans (h : FencedOnly s t) (h' : FencedOnly t u) : FencedOnly s u where
  owners m k := (h'.owners m k).trans (h.owners m k)
  fences x hx := h'.fences x (h.fences x hx)
  job i := by
    rcases h'.job i with e | e
    · rw [e]
      exact h.job i
    · exact .inr e

theorem FencedOnly.of_disposal (ho : OwnersStand s t) (h : t.disposal = s.disposal) : FencedOnly s t := by
  obtain ⟨hf, hj⟩ := disposal_eq h
  exact ⟨ho, fun x hx => hf ▸ hx, fun i => .inl (job_congr hj i)⟩

theorem FencedOnly.foldl {α : Type} {f : State → α → State} {l : List α} (hf : ∀ u x, FencedOnly u (f u x)) (h : FencedOnly s t) :
    FencedOnly s (l.foldl f t) := by
  induction l generalizing t with
  | nil => exact h
  | cons x l ih => exact ih (h.trans (hf t x))

/-- A job that could be fenced is fenced by t, or is as it was. -/
theorem FencedOnly.fenceable (h : FencedOnly s t) (hj : fenceable s j) : fenceable t j ∨ (t.job j).state = .fenced ∧ (t.job j).cause = evFENCE := by
  rcases h.job j with e | e
  · refine .inl ?_
    unfold Claims.fenceable
    rw [e]
    exact hj
  · exact .inr e

/-- What is fenced for cause FENCE stays so. -/
theorem FencedOnly.fenced (h : FencedOnly s t) (hj : (s.job j).state = .fenced ∧ (s.job j).cause = evFENCE) :
    (t.job j).state = .fenced ∧ (t.job j).cause = evFENCE := by
  rcases h.job j with e | e
  · rw [e]
    exact hj
  · exact e

/-- The fence of a job is listed after the others, and the job's descriptor alone is written. -/
theorem fenceJob_books {cause pc info : Nat} (h : fenceable s j) : ∃ l x,
    (s.fenceJob j cause pc info).fences = s.fences ++ l ∧ (s.fenceJob j cause pc info).jobs = Tbl.set {} s.jobs j x := by
  obtain ⟨hl, hf, hc⟩ := h
  unfold State.fenceJob
  extract_lets x s1 src s2 obj s3
  rw [if_pos (by simp [x, hl, hf, hc])]
  obtain ⟨hf1, hj1⟩ : s1.fences = s.fences ∧ s1.jobs = s.jobs := disposal_eq (Same.refl.abandonSlices disposal_sliceless).rest
  have hlog : Same State.disposal s3
      (s3.logFault (s3.airNow x.tb) x.tb 0 cause 0 obj x.court (if x.core < 64 then x.slot else 0xFF) j info) := Same.refl.logFault disposal_logless
  obtain ⟨hf4, hj4⟩ := disposal_eq hlog.rest
  have hf3 : s3.fences = s1.fences ++ [_] := rfl
  have hj3 : s3.jobs = Tbl.set {} s1.jobs j _ := rfl
  rw [hf4, hj4, hf3, hj3, hf1, hj1]
  exact ⟨_, _, rfl, rfl⟩

theorem fenceJob_fencedOnly (s : State) (j pc info : Nat) : FencedOnly s (s.fenceJob j evFENCE pc info) := by
  have howners : OwnersStand s (s.fenceJob j evFENCE pc info) := (fenceJob_stands j evFENCE pc info .refl).owners
  by_cases hj : fenceable s j
  case neg =>
    have hnot : s.fenceJob j evFENCE pc info = s := by
      unfold State.fenceJob
      exact if_neg (by simpa [fenceable, and_assoc] using hj)
    rw [hnot]
    exact .refl
  obtain ⟨hstate, hcause, -⟩ : nowFenced (s.fenceJob j evFENCE pc info) j evFENCE := (fenceJob_fences hj).1
  obtain ⟨l, x, hf, hjobs⟩ : ∃ l x, (s.fenceJob j evFENCE pc info).fences = s.fences ++ l ∧ (s.fenceJob j evFENCE pc info).jobs = Tbl.set {} s.jobs j x :=
    fenceJob_books hj
  refine ⟨howners, fun y hy => hf ▸ List.mem_append_left l hy, fun i => ?_⟩
  by_cases hi : i = j
  · subst hi
    exact .inr ⟨hstate, hcause⟩
  · refine .inl ?_
    rw [State.job, hjobs]
    exact Tbl.get_set_other _ _ _ _ _ _ hi

theorem OwnersStand.setCore (e : t.cores = s.cores) (hd : d.ctxs = c.ctxs) (h : ∀ k, (c.ctx k).job = ((s.core n).ctx k).job) :
    OwnersStand s (t.setCore n d) := fun m k => by
  rw [core_setCore]
  split
  next hm => rw [Core.ctx, hd, hm, ← h, Core.ctx]
  next => rw [State.core, State.core, e]

theorem updCur_owners (c : Core) (f : Ctx → Ctx) (hf : ∀ y, (f y).job = y.job) (k : Nat) : ((c.updCur f).ctx k).job = (c.ctx k).job := by
  rw [ctx_updCur]
  split
  next hk => rw [hf, hk, Core.curCtx]
  next => rfl

theorem setCtx_owners (c : Core) (x : Ctx) (hx : x.job = (c.ctx k).job) (i : Nat) : ((c.setCtx k x).ctx i).job = (c.ctx i).job := by
  rw [ctx_setCtx]
  split
  next hi => rw [hx, hi]
  next => rfl

/-- A fault of a context fences its job in a state with the same jobs and fences, whose contexts have the same jobs. -/
theorem faultCtx_eq (s : State) (n k cause info : Nat) : ∃ u pc info', s.faultCtx n k cause info = u.fenceJob ((s.core n).ctx k).job cause pc info'
    ∧ u.disposal = s.disposal ∧ OwnersStand s u := by
  unfold State.faultCtx
  extract_lets c
  split
  next hc =>
    obtain ⟨hm, hk⟩ := hc
    unfold State.raise
    extract_lets iv s1 j c'
    have hj : j = ((s.core n).ctx k).job := (if_pos hm).trans (congrArg (fun i => ((s.core n).ctx i).job) hk)
    have hc' : ∀ i, (c'.ctx i).job = ((s.core n).ctx i).job := updCur_owners c _ fun _ => rfl
    have hs1 : s1 = s := if_neg Bool.false_ne_true
    clear_value c' j s1 iv
    subst hs1
    rw [hj]
    exact ⟨_, _, _, rfl, disposal_logless.setCore .., .setCore (c := c') (bumpFree_cores s1) rfl hc'⟩
  next => exact ⟨_, _, _, rfl, disposal_logless.setCore .., .setCore rfl rfl (setCtx_owners c _ rfl)⟩

theorem faultCtx_fencedOnly (s : State) (n k info : Nat) : FencedOnly s (s.faultCtx n k evFENCE info) := by
  obtain ⟨u, pc, info', e, hu, ho⟩ := faultCtx_eq s n k evFENCE info
  rw [e]
  exact (FencedOnly.of_disposal ho hu).trans (fenceJob_fencedOnly ..)

theorem faultCtx_fencesJob (n k info : Nat) (h : fenceable s ((s.core n).ctx k).job) :
    ((s.faultCtx n k evFENCE info).job ((s.core n).ctx k).job).state = .fenced ∧ ((s.faultCtx n k evFENCE info).job ((s.core n).ctx k).job).cause = evFENCE := by
  obtain ⟨u, pc, info', e, hu, -⟩ := faultCtx_eq s n k evFENCE info
  have hlive : fenceable u ((s.core n).ctx k).job := by
    unfold fenceable
    rw [job_congr (disposal_eq hu).2]
    exact h
  rw [e]
  obtain ⟨hstate, hcause, -⟩ : nowFenced _ ((s.core n).ctx k).job evFENCE := (fenceJob_fences hlive).1
  exact ⟨hstate, hcause⟩

/-- Each of the contexts has its job fenced, if it is one that can be. -/
theorem fenceContexts_spec (n seq : Nat) (l : List Nat) (s : State) :
    FencedOnly s (l.foldl (fun s k => s.faultCtx n k evFENCE seq) s)
    ∧ ∀ k ∈ l, fenceable s ((s.core n).ctx k).job →
        ((l.foldl (fun s k => s.faultCtx n k evFENCE seq) s).job ((s.core n).ctx k).job).state = .fenced
        ∧ ((l.foldl (fun s k => s.faultCtx n k evFENCE seq) s).job ((s.core n).ctx k).job).cause = evFENCE := by
  induction l generalizing s with
  | nil => exact ⟨.refl, fun k hk => absurd hk List.not_mem_nil⟩
  | cons i l ih =>
    obtain ⟨hrest, hall⟩ := ih (s.faultCtx n i evFENCE seq)
    have hstep : FencedOnly s (s.faultCtx n i evFENCE seq) := faultCtx_fencedOnly ..
    refine ⟨hstep.trans hrest, fun k hk hlive => ?_⟩
    rw [List.foldl_cons]
    rcases List.mem_cons.1 hk with rfl | hk
    · exact hrest.fenced (faultCtx_fencesJob n k seq hlive)
    · rcases hstep.fenceable hlive with h | h
      · have hown := hstep.owners n k
        rw [← hown]
        exact hall k hk (by rwa [hown])
      · exact hrest.fenced h

theorem restartSequence_cores (s : State) (grain object : Nat) : (s.restartSequence grain object).cores = s.cores := by
  unfold State.restartSequence
  split
  · rfl
  · rfl

theorem restartSequence_disposal (s : State) (grain object : Nat) : (s.restartSequence grain object).disposal = s.disposal := by
  unfold State.restartSequence
  split
  · rfl
  · rfl

/-- The record of a core fence joins FENCES; nothing else of the disposal or of who owns a context differs. -/
theorem fenceObject_core (cause info court : Nat) (h : s.isFenced 2 n = false) :
    CoresStand s (s.fenceObject 2 n cause info court) ∧ FencedOnly s (s.fenceObject 2 n cause info court)
      ∧ ∃ x ∈ (s.fenceObject 2 n cause info court).fences, x.grain = 2 ∧ x.object = n ∧ x.cause = cause := by
  have hnew : ¬ (s.fences.any fun x => x.grain == 2 && x.object == n) = true := by
    rw [show (s.fences.any fun x => x.grain == 2 && x.object == n) = false from h]
    exact Bool.false_ne_true
  unfold State.fenceObject
  rw [if_neg hnew]
  extract_lets s1 s2
  have hstand1 : CoresStand s s1 := (abandonSlices_stands .refl).of_cores (restartSequence_cores ..)
  have hd1 : s1.disposal = s.disposal := (restartSequence_disposal ..).trans (Same.refl.abandonSlices disposal_sliceless).rest
  obtain ⟨hf1, hj1⟩ := disposal_eq hd1
  have hlog : Same State.disposal s2 (s2.logFault (s2.airNow 0) 0 2 cause 0 n court 0xFF 0 info) := Same.refl.logFault disposal_logless
  obtain ⟨hf, hj⟩ := disposal_eq hlog.rest
  obtain ⟨y, hf2, hy⟩ : ∃ y : Fence, s2.fences = s1.fences ++ [y] ∧ y.grain = 2 ∧ y.object = n ∧ y.cause = cause := ⟨_, rfl, rfl, rfl, rfl⟩
  have hj2 : s2.jobs = s1.jobs := rfl
  have hstand : CoresStand s (s2.logFault (s2.airNow 0) 0 2 cause 0 n court 0xFF 0 info) := logFault_stands _ _ _ _ _ _ _ _ _ _ (hstand1.of_cores rfl)
  refine ⟨hstand, ⟨hstand.owners, fun x hx => ?_, fun i => .inl (job_congr ?_ i)⟩, y, ?_, hy⟩
  · rw [hf, hf2, hf1]
    exact List.mem_append_left _ hx
  · rw [hj, hj2, hj1]
  · rw [hf, hf2]
    exact List.mem_append_right _ (List.mem_singleton_self _)

end Sys2Proof.Machine
end

section
namespace Sys2Proof.Machine
open Sys2Proof Sys2Proof.Claims

variable {s t u v : State} {n m k i j : Nat} {c d e : Core}

/-! ## The jobs of a fenced core -/

/-- A core that has been fenced: it runs no job and takes none. -/
def Core.shut (c : Core) : Core := { c with fenced := true, jobMode := false, stop := none, run := { c.run with dead := true } }

theorem mem_residents (c : Core) (hk : k < 4) (h : (c.ctx k).state ≠ .free) : k ∈ c.residents := by
  simp [Core.residents, hk, h]

/-- Shutting a core, and settling the alarms, fences no job and lists nothing. -/
theorem shut_settle (s : State) (n : Nat) : FencedOnly s (s.updCore n Core.shut).settle ∧ ((s.updCore n Core.shut).settle.core n).fenced = true
    ∧ ((s.updCore n Core.shut).settle.core n).jobMode = false := by
  have hcores : (s.updCore n Core.shut).settle.cores = (s.updCore n Core.shut).cores := (Same.refl.settle cores_recordless.toDictless).rest
  have hd : (s.updCore n Core.shut).settle.disposal = (s.updCore n Core.shut).disposal := (Same.refl.settle disposal_logless.toDictless).rest
  have hcore : (s.updCore n Core.shut).core n = (s.core n).shut := (core_updCore ..).trans (if_pos rfl)
  have howners : OwnersStand s (s.updCore n Core.shut) := .setCore (c := s.core n) rfl rfl fun _ => rfl
  generalize (s.updCore n Core.shut).settle = t at *
  have hn : t.core n = (s.core n).shut := by
    rw [← hcore, State.core, State.core, hcores]
  refine ⟨.of_disposal (fun m k => ?_) (hd.trans (disposal_logless.setCore ..)), ?_, ?_⟩
  · rw [← howners m k, State.core, State.core, hcores]
  · rw [hn, Core.shut]
  · rw [hn, Core.shut]

theorem fenceCore_spec (n cause info : Nat) (s : State) (h : s.isFenced 2 n = false) :
    let t := s.fenceCore n cause info
    (t.core n).fenced = true ∧ (t.core n).jobMode = false ∧ (∃ x ∈ t.fences, x.grain = 2 ∧ x.object = n ∧ x.cause = cause)
      ∧ ∀ k < 4, ((s.core n).ctx k).state ≠ .free → fenceable s ((s.core n).ctx k).job →
          (t.job ((s.core n).ctx k).job).state = .fenced ∧ (t.job ((s.core n).ctx k).job).cause = evFENCE := by
  unfold State.fenceCore
  rw [if_neg (by rw [h]; exact Bool.false_ne_true)]
  extract_lets s1 seq s2 s3
  obtain ⟨hstand, h1, x, hx, hrec⟩ : CoresStand s s1 ∧ FencedOnly s s1 ∧ ∃ x ∈ s1.fences, x.grain = 2 ∧ x.object = n ∧ x.cause = cause :=
    fenceObject_core cause info (s.coreCourt n) h
  clear_value s1
  obtain ⟨h2, hall⟩ := fenceContexts_spec n seq (s1.core n).residents s1
  have h3 : FencedOnly s2 s3 := FencedOnly.refl.foldl fun u w => fenceJob_fencedOnly u w.ctx.job 0 seq
  obtain ⟨h4, hfenced, hmode⟩ := shut_settle s3 n
  have hlast : FencedOnly s2 (s3.updCore n Core.shut).settle := h3.trans h4
  refine ⟨hfenced, hmode, ⟨x, hlast.fences x (h2.fences x hx), hrec⟩, fun k hk hfree hlive => hlast.fenced ?_⟩
  rcases h1.fenceable hlive with hlive1 | hdone
  · have hres : (s1.core n).residents = (s.core n).residents := Core.of_bookless Core.residents (fun _ => rfl) (hstand n)
    have hown := h1.owners n k
    rw [← hown] at hlive1 ⊢
    exact hall k (hres ▸ mem_residents _ hk hfree) hlive1
  · exact h2.fenced hdone

/-- Settles O20: what JOB_END and CORE_FENCE leave of jobs, Tallies and contexts, by the lemmas of each. -/
theorem jobEndAndCoreFence : Obligations.JobEndAndCoreFence := by
  unfold Obligations.JobEndAndCoreFence
  refine ⟨?_, fun core cause info s h => ?_, fun core cause info s h => ?_⟩
  · intro core s hstop n c j hmode _ hstate hflight hopen hj hlive hfenced hdone
    exact execJobEnd_spec core s hstop hmode hstate hflight hopen hj ⟨hlive, hfenced, hdone⟩
  · obtain ⟨hf, hm, hrec, hjobs⟩ := fenceCore_spec core cause.toNat info.toNat s h
    refine ⟨_, rfl, hf, hm, hrec, ?_⟩
    intro k hk hfree j hlive hfenced hdone
    exact hjobs k hk hfree ⟨hlive, hfenced, hdone⟩
  · have hsame : s.fenceCore core cause.toNat info.toNat = s := if_pos h
    exact congrArg Host.Outcome.next hsame

end Sys2Proof.Machine
end
